-- ==== Sys2Proof/Word.lean ====
section
/-!
DEFINITION. The words of the Plynori E9: a byte and a 64-bit register word (spec/00_scope.md R7, R8).
-/
namespace Sys2Proof

/-- One byte of a space, a packet or a stored table. -/
abbrev Byte := BitVec 8

/-- One 64-bit register word (R537: BAR0 is read and written in 32- and 64-bit units). -/
abbrev Word := BitVec 64

end Sys2Proof
end

