-- ==== Sys2Proof/Config.lean ====
section
/-!
DEFINITION. What an individual part fixes and what the manual leaves open: opaque constants, about which nothing can
be proved but what holds for every value (log entries 4, 6 and those that name them).
-/
namespace Sys2Proof.Config

/-- A free value, drawn at the count that Chip.free holds (log entry 4). -/
opaque freeValue : Nat → Nat

/-- GLB_ID.STEPPING, from fuses (Table 18.6; log entry 6). -/
opaque stepping : Nat

/-- GLB_SERIAL.SERIAL, from fuses (Table 18.6; log entry 6). -/
opaque serial : Nat

/-- PCE_CURVE[l][t].VOLT_MV, from fuses (Table 2.2; log entry 6). -/
opaque curve : Nat → Nat → Nat

/-- AES-256-XTS of a 256-byte sector under a key, the sector's number the tweak (R431; log entry 5). -/
opaque encrypt : Nat → Nat → List Byte → List Byte
opaque decrypt : Nat → Nat → List Byte → List Byte

/-- The EID of the E9 that homes a pool tile, as the domain is laid out (R41, R165); no register of this part holds it
(log entry 18). -/
opaque homeEid : Nat → Nat

/-- By how many places the exp of an FP32 code is off the nearest code: the remainder by 5, less 2 (R215: accurate to
2 ulp; log entry 28). -/
opaque expUlp : Nat → Nat

/-- The k-th 32 bits of a CTR_DRBG with AES-256 that a SEED alone instantiates (R226; log entry 5). -/
opaque drbg : Nat → Nat → Nat

/-- The fused reference count of a handshake-rate sensor (R48; log entry 6). -/
opaque sensorRef : Nat → Nat

/-- The gain of the pace loop in mV for each 1/4,096, as a fraction (R51 leaves it open; log entry 45). -/
opaque paceGainNum : Nat
opaque paceGainDen : Nat

/-- SHA-512 of bytes, and whether an ECDSA P-521 signature with SHA-512 verifies: key, message, signature (log entry 5). -/
opaque sha512 : List Byte → Nat
opaque ecdsaOk : List Byte → List Byte → List Byte → Bool

/-- The digest of the firmware verification key, FUSED_SVN as made, and the debug-disable state, in fuses (R490, R491, Table
13.9; log entry 6). -/
opaque keyDigest : Nat
opaque svn : Nat
opaque securityFuses : List Byte

/-- The digest of the boot ROM (Table 13.9). -/
opaque bootRomDigest : Nat

/-- The digest of the words of the tables of measurement block 4, by key (Table 13.9 gives no order; log entry 46). -/
opaque tableDigest : List (Nat × Word) → Nat

/-- The answer to an SPDM 1.3 request other than GET_MEASUREMENTS: the code asked and its parameters (log entry 46). -/
opaque spdmAnswer : Nat → List Byte → List Byte

/-- The payload of the mode D mailbox commands that R124 names and does not lay out, by gang, command and count (log entry 53). -/
opaque cxlMailbox : Nat → Nat → Nat → List Byte

end Sys2Proof.Config
end

