-- ==== Sys2Proof/Machine/Bits.lean ====
section
/-!
DEFINITION. Bit fields of numbers, little-endian bytes (spec/00_scope.md R7, R8) and saturating counts.
-/
namespace Sys2Proof.Machine

/-- Bits [lo+width-1 : lo] of `n` (R7). -/
def bits (n lo width : Nat) : Nat := (n >>> lo) % 2 ^ width

/-- `n` with bits [lo+width-1 : lo] replaced by the low `width` bits of `v`. -/
def setBits (n lo width v : Nat) : Nat :=
  (n >>> (lo + width)) <<< (lo + width) ||| ((v % 2 ^ width) <<< lo) ||| (n % 2 ^ lo)

/-- Bit `i` of `n`. -/
def bitAt (n i : Nat) : Bool := n.testBit i

/-- `n` with bit `i` set to `b`. -/
def putBit (n i : Nat) (b : Bool) : Nat := setBits n i 1 (if b then 1 else 0)

/-- The ones' complement of `n` in `width` bits. -/
def complementOf (width n : Nat) : Nat := (2 ^ width - 1) - n % 2 ^ width

/-- The number a list of bytes spells, byte 0 the least significant (R8). -/
def natOfBytes : List Byte → Nat
  | [] => 0
  | b :: bs => b.toNat + 256 * natOfBytes bs

/-- The `k` bytes of `n`, byte 0 the least significant (R8). -/
def bytesOfNat : Nat → Nat → List Byte
  | 0, _ => []
  | k + 1, n => BitVec.ofNat 8 n :: bytesOfNat k (n / 256)

/-- Addition that stops at `cap`: the counters the manual calls saturating. -/
def satAdd (cap a b : Nat) : Nat := min cap (a + b)

/-- The largest 16-bit count, at which most counters saturate. -/
def cap16 : Nat := 65535

/-- The largest 32-bit count. -/
def cap32 : Nat := 4294967295

/-- `n` read as a two's-complement number of `width` bits. -/
def signedOf (width n : Nat) : Int :=
  let m := n % 2 ^ width
  if m < 2 ^ (width - 1) then (m : Int) else (m : Int) - 2 ^ width

/-- The two's-complement code of `i` in `width` bits. -/
def codeOfInt (width : Nat) (i : Int) : Nat := (i % (2 ^ width : Int)).toNat

/-- Whether `n` is a power of two. -/
def isPow2 (n : Nat) : Bool := n != 0 && 2 ^ n.log2 == n

/-- The quotient rounded up. -/
def ceilDiv (a b : Nat) : Nat := (a + b - 1) / b

/-- The list [start, start+1, ..., start+count-1]. -/
def upFrom (start count : Nat) : List Nat := List.range' start count

/-- `x` put into a list sorted by `w`, after the elements that weigh as much. -/
def insertBy {α : Type} (w : α → Nat) (x : α) : List α → List α
  | [] => [x]
  | y :: l => if w x < w y then x :: y :: l else y :: insertBy w x l

/-- A list sorted by `w`, in its own order where two weigh the same. -/
def sortBy {α : Type} (w : α → Nat) (l : List α) : List α := l.foldl (fun acc x => insertBy w x acc) []

/-- The first occurrences of a list's numbers, in order. -/
def distinct : List Nat → List Nat
  | [] => []
  | a :: l => a :: (distinct l).filter (fun b => b != a)

/-- 0 or 1 for a Bool. -/
def b2n (b : Bool) : Nat := if b then 1 else 0

/-- Elementwise update of a list position, unchanged where the index is past the end. -/
def updAt {α : Type} (l : List α) (i : Nat) (f : α → α) : List α := l.modify i f

/-- The first position whose element satisfies `p`. -/
def indexOf? {α : Type} (p : α → Bool) (l : List α) : Option Nat := l.findIdx? p

end Sys2Proof.Machine
end

