-- ==== Sys2Proof/Machine/Tab.lean ====
section
/-!
DEFINITION. Sparse tables: lists of (key, value) pairs with strictly rising keys. Memory and the register file
are such tables in a canonical form: no entry equals what an unlisted key reads as.
-/
namespace Sys2Proof.Machine

/-- A table by key, keys strictly rising. -/
abbrev Tab (β : Type) := List (Nat × β)

/-- The entry at key `k`, if the table lists one. -/
def Tab.find {β : Type} : Tab β → Nat → Option β
  | [], _ => none
  | (a, v) :: t, k => if k = a then some v else Tab.find t k

/-- The table with `v` at key `k`. -/
def Tab.put {β : Type} : Tab β → Nat → β → Tab β
  | [], k, v => [(k, v)]
  | (a, w) :: t, k, v =>
    if k < a then (k, v) :: (a, w) :: t
    else if k = a then (k, v) :: t
    else (a, w) :: Tab.put t k v

/-- The table without any entry at key `k`. -/
def Tab.erase {β : Type} : Tab β → Nat → Tab β
  | [], _ => []
  | (a, w) :: t, k => if k = a then Tab.erase t k else (a, w) :: Tab.erase t k

/-- The table with the entry at `k` changed by `f`, or `f d` put there where none is listed. -/
def Tab.alter {β : Type} (t : Tab β) (k : Nat) (d : β) (f : β → β) : Tab β :=
  t.put k (f ((t.find k).getD d))

/-- The table with the entry at `k` changed by `f`, unchanged where none is listed. -/
def Tab.mapAt {β : Type} (t : Tab β) (k : Nat) (f : β → β) : Tab β :=
  match t.find k with
  | none => t
  | some v => t.put k (f v)

/-- Keys strictly rising. -/
def Tab.sorted {β : Type} : Tab β → Bool
  | [] => true
  | [_] => true
  | (a, _) :: (b, w) :: t => decide (a < b) && Tab.sorted ((b, w) :: t)

/-- The value a canonical table reads at `k`; an unlisted key reads `d k`. -/
def Tab.get {β : Type} (d : Nat → β) (t : Tab β) (k : Nat) : β := (t.find k).getD (d k)

/-- The canonical table that reads `v` at `k` and as before elsewhere. -/
def Tab.set {β : Type} [DecidableEq β] (d : Nat → β) (t : Tab β) (k : Nat) (v : β) : Tab β :=
  if v = d k then t.erase k else t.put k v

/-- Canonical form: keys strictly rising and no entry equal to what an unlisted key reads as. -/
def Tab.canonical {β : Type} [DecidableEq β] (d : Nat → β) (t : Tab β) : Bool :=
  t.sorted && t.all (fun e => decide (e.2 ≠ d e.1))

/-- Byte memory: canonical cells over zero. -/
abbrev Mem := List Host.Cell

end Sys2Proof.Machine
end

