-- ==== Sys2Proof/Machine/RegMap.lean ====
section
/-!
DEFINITION. The register map: every register of BAR0 (spec/18_register_map.md R536, R540, R544 and the register lists
of the other chapters), its address, its fields with access type, legal values and reset value.
The key of a register word in the register file is its BAR0 offset; the two versions of the range table and of
PRT_PROFILE, which R540 shows through windows, have keys of their own above the 64 MiB of BAR0.
-/
namespace Sys2Proof.Machine

/-- A field of an entry: bits [lo+width-1 : lo], counted through the entry's words. -/
structure Fld where
  lo : Nat
  width : Nat
deriving DecidableEq, Repr

/-- Register access types (Table 0.3, R10). -/
inductive Access where
  | ro | rw | wo | w1c | w1s | rwl
deriving DecidableEq, Repr

/-- The legal values of a field; any other value is a reserved encoding (R13). -/
inductive Legal where
  | any
  /-- From the first to the second value. -/
  | inR (lo hi : Nat)
  /-- 0, or from the first to the second value. -/
  | zeroOr (lo hi : Nat)
  /-- A power of two from the first to the second value. -/
  | pow2 (lo hi : Nat)
  /-- A non-negative finite FP32 number. -/
  | fp32
deriving DecidableEq, Repr

/-- Whether `v` is a defined encoding. -/
def Legal.ok : Legal → Nat → Bool
  | .any, _ => true
  | .inR lo hi, v => Nat.ble lo v && Nat.ble v hi
  | .zeroOr lo hi, v => v == 0 || (Nat.ble lo v && Nat.ble v hi)
  | .pow2 lo hi, v => isPow2 v && Nat.ble lo v && Nat.ble v hi
  | .fp32, v => Nat.blt v 0x7F800000

/-- One field of a register. -/
structure FieldSpec where
  fld : Fld
  acc : Access
  legal : Legal
  reset : Nat
deriving DecidableEq, Repr

/-- The registers and register arrays of BAR0. -/
inductive RegKind where
  | glbStraps
  | glbBootStatus
  | glbResetCtl
  | glbResetCause
  | glbClkStatus
  | glbId
  | glbSerial
  | glbTimers0
  | glbTimers1
  | glbPadCfg
  | pcePolicy
  | pceStatus
  | pceTb
  | pceTbParent
  | pceTbAdj
  | pcePaceDrop
  | pceMwdog
  | pcePwrCtl
  | pcePwrStatus
  | pceCurve
  | nwtStatus
  | nwtVersion
  | nwtHostCtl
  | nwtHostBuf
  | nwtSensor
  | prtProfile
  | prtOwner
  | prtStatus
  | prtLinkCfg
  | prtErrCnt
  | prtFecCorr
  | prtKeyStatus
  | prtCtl
  | prtTrain
  | prtTrainTimer
  | rteCfg
  | rteEpoch
  | rteEpochCtl
  | rteGutter
  | rteDrops0
  | rteDrops1
  | rteFlowCfg
  | rtePgroup
  | rteRoute
  | rteMcast
  | swcCfg
  | swcFree
  | swcDrops
  | swcCtl
  | swcAudit
  | swcSampleCfg
  | swcSampleFilter
  | swcSampleStatus
  | swcQuota
  | swcUsage
  | tmgCfg
  | tmgStatus
  | tmgCtl
  | tmgMeterRate
  | tmgMeterBurst
  | tmgMeterState
  | tmgMeterCnt
  | tmgClass
  | tmgOutRate
  | tmgOutBurst
  | homCtl
  | homStatus
  | homLostWide
  | homVregion
  | homOwn
  | homHost
  | homLost
  | tirDomainId
  | tirFtlCfg0
  | tirFtlCfg1
  | tirTierCfg
  | tirTrayStatus
  | tirProf
  | tirProfTimer
  | tirDportMap
  | ptnState
  | ptnPart
  | ptnOwnWg
  | ptnOwnBank
  | ptnOwnHbm
  | ptnOwnDram
  | ptnOwnFlash
  | ptnOwnTrayc
  | ptnTrust
  | ptnRange
  | keyStatus
  | keyMem
  | celOwner
  | celCfg
  | celStatus
  | celOutstanding
  | celCtl
  | mtxOwner
  | mtxStatus
  | mtxOutstanding
  | mtxCtl
  | cdcSlot
  | cdcTable
  | seqCtl
  | seqStatus
  | seqCblkOwner
  | seqQCfg
  | seqQSched
  | seqQSqBase
  | seqQCqBase
  | seqQRing
  | seqQState
  | seqQCtl
  | seqCounter
  | errCfg
  | errStatus
  | errHostTail
  | errRepairAddr
  | errRepairCtl
  | errRepairData
  | errShadowCfg
  | errShadowTol
  | errShadowStatus
  | errCeCnt
  | errFaultCfg
  | errFaultPtr
  | errFault
  | errLog
deriving DecidableEq, Repr

namespace A

/-- Address of GLB_STRAPS. -/
def GLB_STRAPS : Nat := 0x0
/-- Address of GLB_BOOT_STATUS. -/
def GLB_BOOT_STATUS : Nat := 0x8
/-- Address of GLB_RESET_CTL. -/
def GLB_RESET_CTL : Nat := 0x10
/-- Address of GLB_RESET_CAUSE. -/
def GLB_RESET_CAUSE : Nat := 0x18
/-- Address of GLB_CLK_STATUS. -/
def GLB_CLK_STATUS : Nat := 0x20
/-- Address of GLB_ID. -/
def GLB_ID : Nat := 0x28
/-- Address of GLB_SERIAL. -/
def GLB_SERIAL : Nat := 0x30
/-- Address of GLB_TIMERS0. -/
def GLB_TIMERS0 : Nat := 0x38
/-- Address of GLB_TIMERS1. -/
def GLB_TIMERS1 : Nat := 0x40
/-- Address of GLB_PAD_CFG. -/
def GLB_PAD_CFG (i : Nat) : Nat := 0x100 + 0x8 * i
/-- Address of PCE_POLICY. -/
def PCE_POLICY : Nat := 0x100000
/-- Address of PCE_STATUS. -/
def PCE_STATUS : Nat := 0x100008
/-- Address of PCE_TB. -/
def PCE_TB : Nat := 0x100010
/-- Address of PCE_TB_PARENT. -/
def PCE_TB_PARENT : Nat := 0x100018
/-- Address of PCE_TB_ADJ. -/
def PCE_TB_ADJ : Nat := 0x100020
/-- Address of PCE_PACE_DROP. -/
def PCE_PACE_DROP : Nat := 0x100028
/-- Address of PCE_MWDOG. -/
def PCE_MWDOG : Nat := 0x100030
/-- Address of PCE_PWR_CTL. -/
def PCE_PWR_CTL : Nat := 0x100100
/-- Address of PCE_PWR_STATUS. -/
def PCE_PWR_STATUS : Nat := 0x100108
/-- Address of PCE_CURVE. -/
def PCE_CURVE (i j : Nat) : Nat := 0x101000 + 0x20 * i + 0x8 * j
/-- Address of NWT_STATUS. -/
def NWT_STATUS : Nat := 0x200000
/-- Address of NWT_VERSION. -/
def NWT_VERSION : Nat := 0x200008
/-- Address of NWT_HOST_CTL. -/
def NWT_HOST_CTL : Nat := 0x200010
/-- Address of NWT_HOST_BUF. -/
def NWT_HOST_BUF (i : Nat) : Nat := 0x210000 + 0x8 * i
/-- Address of NWT_SENSOR. -/
def NWT_SENSOR (i : Nat) : Nat := 0x240000 + 0x10 * i
/-- Address of PRT_PROFILE. -/
def PRT_PROFILE (i j : Nat) : Nat := 0x4100000 + 0x400 * i + 0x8 * j
/-- Address of PRT_OWNER. -/
def PRT_OWNER (i : Nat) : Nat := 0x400010 + 0x4000 * i
/-- Address of PRT_STATUS. -/
def PRT_STATUS (i : Nat) : Nat := 0x400018 + 0x4000 * i
/-- Address of PRT_LINK_CFG. -/
def PRT_LINK_CFG (i : Nat) : Nat := 0x400020 + 0x4000 * i
/-- Address of PRT_ERR_CNT. -/
def PRT_ERR_CNT (i : Nat) : Nat := 0x400028 + 0x4000 * i
/-- Address of PRT_FEC_CORR. -/
def PRT_FEC_CORR (i : Nat) : Nat := 0x400030 + 0x4000 * i
/-- Address of PRT_KEY_STATUS. -/
def PRT_KEY_STATUS (i : Nat) : Nat := 0x400038 + 0x4000 * i
/-- Address of PRT_CTL. -/
def PRT_CTL (i : Nat) : Nat := 0x400040 + 0x4000 * i
/-- Address of PRT_TRAIN. -/
def PRT_TRAIN (i j : Nat) : Nat := 0x401000 + 0x4000 * i + 0x8 * j
/-- Address of PRT_TRAIN_TIMER. -/
def PRT_TRAIN_TIMER (i j : Nat) : Nat := 0x401200 + 0x4000 * i + 0x8 * j
/-- Address of RTE_CFG. -/
def RTE_CFG : Nat := 0x600000
/-- Address of RTE_EPOCH. -/
def RTE_EPOCH : Nat := 0x600008
/-- Address of RTE_EPOCH_CTL. -/
def RTE_EPOCH_CTL : Nat := 0x600010
/-- Address of RTE_GUTTER. -/
def RTE_GUTTER (i : Nat) : Nat := 0x600020 + 0x10 * i
/-- Address of RTE_DROPS0. -/
def RTE_DROPS0 : Nat := 0x600040
/-- Address of RTE_DROPS1. -/
def RTE_DROPS1 : Nat := 0x600048
/-- Address of RTE_FLOW_CFG. -/
def RTE_FLOW_CFG : Nat := 0x600050
/-- Address of RTE_PGROUP. -/
def RTE_PGROUP (i j : Nat) : Nat := 0x604000 + 0x2000 * i + 0x20 * j
/-- Address of RTE_ROUTE. -/
def RTE_ROUTE (i j : Nat) : Nat := 0x640000 + 0x40000 * i + 0x10 * j
/-- Address of RTE_MCAST. -/
def RTE_MCAST (i j : Nat) : Nat := 0x700000 + 0x40000 * i + 0x40 * j
/-- Address of SWC_CFG. -/
def SWC_CFG : Nat := 0x800000
/-- Address of SWC_FREE. -/
def SWC_FREE : Nat := 0x800008
/-- Address of SWC_DROPS. -/
def SWC_DROPS : Nat := 0x800010
/-- Address of SWC_CTL. -/
def SWC_CTL : Nat := 0x800018
/-- Address of SWC_AUDIT. -/
def SWC_AUDIT : Nat := 0x800020
/-- Address of SWC_SAMPLE_CFG. -/
def SWC_SAMPLE_CFG : Nat := 0x800040
/-- Address of SWC_SAMPLE_FILTER. -/
def SWC_SAMPLE_FILTER : Nat := 0x800048
/-- Address of SWC_SAMPLE_STATUS. -/
def SWC_SAMPLE_STATUS : Nat := 0x800050
/-- Address of SWC_QUOTA. -/
def SWC_QUOTA (i : Nat) : Nat := 0x801000 + 0x10 * i
/-- Address of SWC_USAGE. -/
def SWC_USAGE (i : Nat) : Nat := 0x801008 + 0x10 * i
/-- Address of TMG_CFG. -/
def TMG_CFG (i : Nat) : Nat := 0x900000 + 0x8 * i
/-- Address of TMG_STATUS. -/
def TMG_STATUS : Nat := 0x900010
/-- Address of TMG_CTL. -/
def TMG_CTL : Nat := 0x900018
/-- Address of TMG_METER_RATE. -/
def TMG_METER_RATE (i j : Nat) : Nat := 0x910000 + 0x20 * i + 0x10 * j
/-- Address of TMG_METER_BURST. -/
def TMG_METER_BURST (i j : Nat) : Nat := 0x910008 + 0x20 * i + 0x10 * j
/-- Address of TMG_METER_STATE. -/
def TMG_METER_STATE (i : Nat) : Nat := 0x920000 + 0x10 * i
/-- Address of TMG_METER_CNT. -/
def TMG_METER_CNT (i : Nat) : Nat := 0x930000 + 0x8 * i
/-- Address of TMG_CLASS. -/
def TMG_CLASS (i j : Nat) : Nat := 0x940000 + 0x10 * i + 0x8 * j
/-- Address of TMG_OUT_RATE. -/
def TMG_OUT_RATE (i j k : Nat) : Nat := 0x980000 + 0x800 * i + 0x20 * j + 0x10 * k
/-- Address of TMG_OUT_BURST. -/
def TMG_OUT_BURST (i j k : Nat) : Nat := 0x980008 + 0x800 * i + 0x20 * j + 0x10 * k
/-- Address of HOM_CTL. -/
def HOM_CTL : Nat := 0xa00000
/-- Address of HOM_STATUS. -/
def HOM_STATUS : Nat := 0xa00008
/-- Address of HOM_LOST_WIDE. -/
def HOM_LOST_WIDE : Nat := 0xa00010
/-- Address of HOM_VREGION. -/
def HOM_VREGION (i : Nat) : Nat := 0xa20000 + 0x20 * i
/-- Address of HOM_OWN. -/
def HOM_OWN (i : Nat) : Nat := 0xa40000 + 0x20 * i
/-- Address of HOM_HOST. -/
def HOM_HOST (i : Nat) : Nat := 0xa80000 + 0x8 * i
/-- Address of HOM_LOST. -/
def HOM_LOST (i : Nat) : Nat := 0xb00000 + 0x10 * i
/-- Address of TIR_DOMAIN_ID. -/
def TIR_DOMAIN_ID : Nat := 0xc00000
/-- Address of TIR_FTL_CFG0. -/
def TIR_FTL_CFG0 : Nat := 0xc00008
/-- Address of TIR_FTL_CFG1. -/
def TIR_FTL_CFG1 : Nat := 0xc00010
/-- Address of TIR_TIER_CFG. -/
def TIR_TIER_CFG : Nat := 0xc00018
/-- Address of TIR_TRAY_STATUS. -/
def TIR_TRAY_STATUS (i : Nat) : Nat := 0xc00100 + 0x8 * i
/-- Address of TIR_PROF. -/
def TIR_PROF (i j : Nat) : Nat := 0xc10000 + 0x200 * i + 0x8 * j
/-- Address of TIR_PROF_TIMER. -/
def TIR_PROF_TIMER (i j : Nat) : Nat := 0xc14000 + 0x40 * i + 0x8 * j
/-- Address of TIR_DPORT_MAP. -/
def TIR_DPORT_MAP (i j : Nat) : Nat := 0xc20000 + 0x40 * i + 0x8 * j
/-- Address of PTN_STATE. -/
def PTN_STATE (i : Nat) : Nat := 0xe00100 + 0x8 * i
/-- Address of PTN_PART. -/
def PTN_PART (i j : Nat) : Nat := 0xe01000 + 0x400 * i + 0x10 * j
/-- Address of PTN_OWN_WG. -/
def PTN_OWN_WG (i : Nat) : Nat := 0xe02000 + 0x8 * i
/-- Address of PTN_OWN_BANK. -/
def PTN_OWN_BANK (i : Nat) : Nat := 0xe02200 + 0x8 * i
/-- Address of PTN_OWN_HBM. -/
def PTN_OWN_HBM (i : Nat) : Nat := 0xe02400 + 0x8 * i
/-- Address of PTN_OWN_DRAM. -/
def PTN_OWN_DRAM (i : Nat) : Nat := 0xe03000 + 0x8 * i
/-- Address of PTN_OWN_FLASH. -/
def PTN_OWN_FLASH (i : Nat) : Nat := 0xe04000 + 0x8 * i
/-- Address of PTN_OWN_TRAYC. -/
def PTN_OWN_TRAYC (i : Nat) : Nat := 0xe05000 + 0x8 * i
/-- Address of PTN_TRUST. -/
def PTN_TRUST (i : Nat) : Nat := 0xe06000 + 0x40 * i
/-- Address of PTN_RANGE. -/
def PTN_RANGE (i j : Nat) : Nat := 0x4000000 + 0x40000 * i + 0x40 * j
/-- Address of KEY_STATUS. -/
def KEY_STATUS : Nat := 0xf00000
/-- Address of KEY_MEM. -/
def KEY_MEM (i : Nat) : Nat := 0xf01000 + 0x80 * i
/-- Address of CEL_OWNER. -/
def CEL_OWNER (i : Nat) : Nat := 0x1000000 + 0x10000 * i
/-- Address of CEL_CFG. -/
def CEL_CFG (i : Nat) : Nat := 0x1000008 + 0x10000 * i
/-- Address of CEL_STATUS. -/
def CEL_STATUS (i : Nat) : Nat := 0x1000010 + 0x10000 * i
/-- Address of CEL_OUTSTANDING. -/
def CEL_OUTSTANDING (i : Nat) : Nat := 0x1000018 + 0x10000 * i
/-- Address of CEL_CTL. -/
def CEL_CTL (i : Nat) : Nat := 0x1000020 + 0x10000 * i
/-- Address of MTX_OWNER. -/
def MTX_OWNER (i : Nat) : Nat := 0x1400000 + 0x10000 * i
/-- Address of MTX_STATUS. -/
def MTX_STATUS (i : Nat) : Nat := 0x1400010 + 0x10000 * i
/-- Address of MTX_OUTSTANDING. -/
def MTX_OUTSTANDING (i : Nat) : Nat := 0x1400018 + 0x10000 * i
/-- Address of MTX_CTL. -/
def MTX_CTL (i : Nat) : Nat := 0x1400020 + 0x10000 * i
/-- Address of CDC_SLOT. -/
def CDC_SLOT (i : Nat) : Nat := 0x1501000 + 0x8 * i
/-- Address of CDC_TABLE. -/
def CDC_TABLE (i j : Nat) : Nat := 0x1510000 + 0x200 * i + 0x8 * j
/-- Address of SEQ_CTL. -/
def SEQ_CTL : Nat := 0x1600000
/-- Address of SEQ_STATUS. -/
def SEQ_STATUS : Nat := 0x1600008
/-- Address of SEQ_CBLK_OWNER. -/
def SEQ_CBLK_OWNER (i : Nat) : Nat := 0x1601000 + 0x8 * i
/-- Address of SEQ_Q_CFG. -/
def SEQ_Q_CFG (i : Nat) : Nat := 0x1620000 + 0x40 * i
/-- Address of SEQ_Q_SCHED. -/
def SEQ_Q_SCHED (i : Nat) : Nat := 0x1620008 + 0x40 * i
/-- Address of SEQ_Q_SQ_BASE. -/
def SEQ_Q_SQ_BASE (i : Nat) : Nat := 0x1620010 + 0x40 * i
/-- Address of SEQ_Q_CQ_BASE. -/
def SEQ_Q_CQ_BASE (i : Nat) : Nat := 0x1620018 + 0x40 * i
/-- Address of SEQ_Q_RING. -/
def SEQ_Q_RING (i : Nat) : Nat := 0x1620020 + 0x40 * i
/-- Address of SEQ_Q_STATE. -/
def SEQ_Q_STATE (i : Nat) : Nat := 0x1620028 + 0x40 * i
/-- Address of SEQ_Q_CTL. -/
def SEQ_Q_CTL (i : Nat) : Nat := 0x1620030 + 0x40 * i
/-- Address of SEQ_COUNTER. -/
def SEQ_COUNTER (i : Nat) : Nat := 0x1700000 + 0x20 * i
/-- Address of ERR_CFG. -/
def ERR_CFG : Nat := 0x1800000
/-- Address of ERR_STATUS. -/
def ERR_STATUS : Nat := 0x1800008
/-- Address of ERR_HOST_TAIL. -/
def ERR_HOST_TAIL : Nat := 0x1800010
/-- Address of ERR_REPAIR_ADDR. -/
def ERR_REPAIR_ADDR : Nat := 0x1800020
/-- Address of ERR_REPAIR_CTL. -/
def ERR_REPAIR_CTL : Nat := 0x1800028
/-- Address of ERR_REPAIR_DATA. -/
def ERR_REPAIR_DATA (i : Nat) : Nat := 0x1800040 + 0x8 * i
/-- Address of ERR_SHADOW_CFG. -/
def ERR_SHADOW_CFG : Nat := 0x1800080
/-- Address of ERR_SHADOW_TOL. -/
def ERR_SHADOW_TOL : Nat := 0x1800088
/-- Address of ERR_SHADOW_STATUS. -/
def ERR_SHADOW_STATUS : Nat := 0x1800090
/-- Address of ERR_CE_CNT. -/
def ERR_CE_CNT (i : Nat) : Nat := 0x1800100 + 0x8 * i
/-- Address of ERR_FAULT_CFG. -/
def ERR_FAULT_CFG (i : Nat) : Nat := 0x1801000 + 0x10 * i
/-- Address of ERR_FAULT_PTR. -/
def ERR_FAULT_PTR (i : Nat) : Nat := 0x1801008 + 0x10 * i
/-- Address of ERR_FAULT. -/
def ERR_FAULT (i j : Nat) : Nat := 0x1802000 + 0x200 * i + 0x20 * j
/-- Address of ERR_LOG. -/
def ERR_LOG (i : Nat) : Nat := 0x1810000 + 0x40 * i

end A

namespace F

def GLB_STRAPS_ENROLL_EN : Fld := ⟨0, 1⟩
def GLB_STRAPS_I3C_ADDR : Fld := ⟨1, 4⟩
def GLB_STRAPS_BOOT_MODE : Fld := ⟨5, 2⟩
def GLB_BOOT_STATUS_STAGE : Fld := ⟨0, 4⟩
def GLB_BOOT_STATUS_READY : Fld := ⟨4, 1⟩
def GLB_BOOT_STATUS_DP_RESET : Fld := ⟨5, 1⟩
def GLB_BOOT_STATUS_CP_RESET : Fld := ⟨6, 1⟩
def GLB_BOOT_STATUS_MP_RESET : Fld := ⟨7, 1⟩
def GLB_BOOT_STATUS_HBM_FAIL : Fld := ⟨8, 6⟩
def GLB_BOOT_STATUS_READY_US : Fld := ⟨32, 32⟩
def GLB_RESET_CTL_DATA : Fld := ⟨0, 1⟩
def GLB_RESET_CTL_CONTROL : Fld := ⟨1, 1⟩
def GLB_RESET_CTL_RELEASE : Fld := ⟨2, 1⟩
def GLB_RESET_CAUSE_DATA : Fld := ⟨0, 8⟩
def GLB_RESET_CAUSE_CONTROL : Fld := ⟨8, 8⟩
def GLB_RESET_CAUSE_MANAGEMENT : Fld := ⟨16, 8⟩
def GLB_CLK_STATUS_REFCLK_FAB_LOST : Fld := ⟨0, 8⟩
def GLB_CLK_STATUS_REFCLK_PCIE_LOST : Fld := ⟨8, 1⟩
def GLB_CLK_STATUS_XTAL_LOST : Fld := ⟨9, 1⟩
def GLB_CLK_STATUS_CLK_LOST_SEEN : Fld := ⟨10, 1⟩
def GLB_ID_PART : Fld := ⟨0, 16⟩
def GLB_ID_STEPPING : Fld := ⟨16, 8⟩
def GLB_ID_MAP_VERSION : Fld := ⟨32, 16⟩
def GLB_SERIAL_SERIAL : Fld := ⟨0, 64⟩
def GLB_TIMERS0_TXN_US : Fld := ⟨0, 20⟩
def GLB_TIMERS0_HANDOFF_MS : Fld := ⟨32, 16⟩
def GLB_TIMERS1_STUCK_10NS : Fld := ⟨0, 14⟩
def GLB_TIMERS1_TT_EXCH_US : Fld := ⟨32, 17⟩
def GLB_PAD_CFG_SLEW : Fld := ⟨0, 2⟩
def GLB_PAD_CFG_FILTER : Fld := ⟨2, 3⟩
def GLB_PAD_CFG_SPREAD_EN : Fld := ⟨5, 1⟩
def PCE_POLICY_LEVEL : Fld := ⟨0, 3⟩
def PCE_POLICY_FORCE : Fld := ⟨3, 1⟩
def PCE_POLICY_GUARD : Fld := ⟨8, 8⟩
def PCE_POLICY_THROTTLE_T : Fld := ⟨16, 7⟩
def PCE_POLICY_THROTTLE_EN : Fld := ⟨23, 1⟩
def PCE_POLICY_STEP_MV : Fld := ⟨24, 8⟩
def PCE_STATUS_LEVEL_ACTIVE : Fld := ⟨0, 3⟩
def PCE_STATUS_ADMIT_LEVEL : Fld := ⟨3, 3⟩
def PCE_STATUS_SHORTFALL : Fld := ⟨6, 1⟩
def PCE_STATUS_SHORTFALL_SEEN : Fld := ⟨7, 1⟩
def PCE_STATUS_AVS_FAULT : Fld := ⟨8, 1⟩
def PCE_STATUS_THROTTLING : Fld := ⟨9, 1⟩
def PCE_STATUS_TRANSITION : Fld := ⟨10, 1⟩
def PCE_STATUS_VCORE_MV : Fld := ⟨16, 12⟩
def PCE_TB_TB_LO : Fld := ⟨0, 32⟩
def PCE_TB_TB_HI : Fld := ⟨32, 32⟩
def PCE_TB_PARENT_PORT : Fld := ⟨0, 7⟩
def PCE_TB_PARENT_ROOT : Fld := ⟨7, 1⟩
def PCE_TB_PARENT_EN : Fld := ⟨8, 1⟩
def PCE_TB_ADJ_OFFSET_NS : Fld := ⟨0, 32⟩
def PCE_TB_ADJ_SLEW_PPM : Fld := ⟨32, 11⟩
def PCE_TB_ADJ_STEP_SEEN : Fld := ⟨48, 1⟩
def PCE_TB_ADJ_PARENT_LOST : Fld := ⟨49, 1⟩
def PCE_PACE_DROP_DROPS : Fld := ⟨0, 32⟩
def PCE_MWDOG_KICK : Fld := ⟨0, 1⟩
def PCE_PWR_CTL_EAVES_ENTER : Fld := ⟨0, 1⟩
def PCE_PWR_CTL_WAKE : Fld := ⟨1, 1⟩
def PCE_PWR_CTL_WAKE_TRAFFIC : Fld := ⟨2, 1⟩
def PCE_PWR_CTL_WAKE_DOORBELL : Fld := ⟨3, 1⟩
def PCE_PWR_CTL_ENTRY_MS : Fld := ⟨16, 10⟩
def PCE_PWR_STATUS_STATE : Fld := ⟨0, 3⟩
def PCE_PWR_STATUS_ABANDON_SEEN : Fld := ⟨3, 1⟩
def PCE_PWR_STATUS_WAKE_CAUSE : Fld := ⟨4, 4⟩
def PCE_PWR_STATUS_ENTRIES : Fld := ⟨16, 16⟩
def PCE_PWR_STATUS_LAST_WAKE_NS : Fld := ⟨32, 32⟩
def PCE_CURVE_VOLT_MV0 : Fld := ⟨0, 12⟩
def PCE_CURVE_VOLT_MV1 : Fld := ⟨16, 12⟩
def PCE_CURVE_VOLT_MV2 : Fld := ⟨32, 12⟩
def PCE_CURVE_VOLT_MV3 : Fld := ⟨48, 12⟩
def NWT_STATUS_STATE : Fld := ⟨0, 3⟩
def NWT_STATUS_HOST_UPDATE_EN : Fld := ⟨3, 1⟩
def NWT_STATUS_ALERT : Fld := ⟨4, 1⟩
def NWT_STATUS_IMAGE_INVALID : Fld := ⟨5, 1⟩
def NWT_STATUS_FUSED_SVN : Fld := ⟨8, 6⟩
def NWT_STATUS_IMAGE_SVN : Fld := ⟨16, 6⟩
def NWT_STATUS_SESSIONS : Fld := ⟨24, 4⟩
def NWT_STATUS_PENDING : Fld := ⟨32, 8⟩
def NWT_VERSION_IMAGE_VERSION : Fld := ⟨0, 32⟩
def NWT_HOST_CTL_GO : Fld := ⟨0, 1⟩
def NWT_HOST_CTL_BUSY : Fld := ⟨1, 1⟩
def NWT_HOST_CTL_DONE : Fld := ⟨2, 1⟩
def NWT_HOST_CTL_STATUS : Fld := ⟨8, 8⟩
def NWT_HOST_CTL_LENGTH : Fld := ⟨32, 32⟩
def NWT_HOST_BUF_DATA : Fld := ⟨0, 64⟩
def NWT_SENSOR_VALUE : Fld := ⟨0, 16⟩
def NWT_SENSOR_MIN : Fld := ⟨16, 16⟩
def NWT_SENSOR_MAX : Fld := ⟨32, 16⟩
def NWT_SENSOR_WARN_HIGH : Fld := ⟨48, 16⟩
def NWT_SENSOR_WARN_LOW : Fld := ⟨64, 16⟩
def NWT_SENSOR_VALID : Fld := ⟨80, 1⟩
def NWT_SENSOR_ABOVE : Fld := ⟨81, 1⟩
def NWT_SENSOR_BELOW : Fld := ⟨82, 1⟩
def NWT_SENSOR_ALERT_EN : Fld := ⟨83, 1⟩
def NWT_SENSOR_AGE : Fld := ⟨96, 32⟩
def PRT_PROFILE_MODE : Fld := ⟨0, 3⟩
def PRT_PROFILE_PARTITION : Fld := ⟨3, 6⟩
def PRT_PROFILE_TRAY_INDEX : Fld := ⟨9, 5⟩
def PRT_PROFILE_TRAY_PROFILE : Fld := ⟨14, 4⟩
def PRT_PROFILE_TRUST_SLOT : Fld := ⟨18, 3⟩
def PRT_PROFILE_IDE_REQ : Fld := ⟨21, 1⟩
def PRT_PROFILE_EAVES_EN : Fld := ⟨22, 1⟩
def PRT_PROFILE_TRAIN_PROG : Fld := ⟨24, 4⟩
def PRT_OWNER_OWNER : Fld := ⟨0, 8⟩
def PRT_OWNER_OWNER_N : Fld := ⟨8, 8⟩
def PRT_STATUS_TRAIN_STATE : Fld := ⟨0, 6⟩
def PRT_STATUS_IN_SERVICE : Fld := ⟨6, 1⟩
def PRT_STATUS_EAVES : Fld := ⟨7, 1⟩
def PRT_STATUS_LANES : Fld := ⟨8, 5⟩
def PRT_STATUS_DEGRADED : Fld := ⟨13, 1⟩
def PRT_STATUS_SPARE_IN_USE : Fld := ⟨14, 1⟩
def PRT_STATUS_SPARE_LANE : Fld := ⟨15, 2⟩
def PRT_STATUS_REFCLK_LOST : Fld := ⟨17, 1⟩
def PRT_STATUS_DOWN_SEEN : Fld := ⟨18, 1⟩
def PRT_STATUS_KEY_FAIL_SEEN : Fld := ⟨19, 1⟩
def PRT_STATUS_SEAL_FAIL_SEEN : Fld := ⟨20, 1⟩
def PRT_STATUS_PARTNER_EID : Fld := ⟨32, 14⟩
def PRT_STATUS_UNMATCHED : Fld := ⟨48, 8⟩
def PRT_STATUS_WAKING_DROPS : Fld := ⟨56, 8⟩
def PRT_LINK_CFG_REPLAY_TIMER : Fld := ⟨0, 11⟩
def PRT_LINK_CFG_REPLAY_LIMIT : Fld := ⟨16, 4⟩
def PRT_LINK_CFG_BACKOFF_US : Fld := ⟨24, 12⟩
def PRT_LINK_CFG_SEAL_MAX : Fld := ⟨40, 4⟩
def PRT_ERR_CNT_CW_UNCORR : Fld := ⟨0, 16⟩
def PRT_ERR_CNT_SEAL_FAILS : Fld := ⟨16, 16⟩
def PRT_ERR_CNT_REPLAYS : Fld := ⟨32, 16⟩
def PRT_ERR_CNT_RETRAINS : Fld := ⟨48, 16⟩
def PRT_FEC_CORR_CORRECTED : Fld := ⟨0, 64⟩
def PRT_KEY_STATUS_KEYED : Fld := ⟨0, 1⟩
def PRT_KEY_STATUS_PHASE : Fld := ⟨1, 1⟩
def PRT_KEY_STATUS_UPDATING : Fld := ⟨2, 1⟩
def PRT_KEY_STATUS_GEN : Fld := ⟨16, 16⟩
def PRT_KEY_STATUS_GROUPS : Fld := ⟨32, 32⟩
def PRT_CTL_RETRAIN : Fld := ⟨0, 1⟩
def PRT_CTL_CLEAR_COUNTS : Fld := ⟨1, 1⟩
def PRT_TRAIN_STATE : Fld := ⟨0, 6⟩
def PRT_TRAIN_EVENT : Fld := ⟨6, 6⟩
def PRT_TRAIN_NEXT : Fld := ⟨12, 6⟩
def PRT_TRAIN_ACTION : Fld := ⟨18, 8⟩
def PRT_TRAIN_TIMER : Fld := ⟨26, 4⟩
def PRT_TRAIN_VALID : Fld := ⟨30, 1⟩
def PRT_TRAIN_ARG : Fld := ⟨32, 16⟩
def PRT_TRAIN_TIMER_T0 : Fld := ⟨0, 32⟩
def PRT_TRAIN_TIMER_T1 : Fld := ⟨32, 32⟩
def RTE_CFG_DEFLECT_SEGS : Fld := ⟨0, 15⟩
def RTE_CFG_DEFLECT_EN : Fld := ⟨15, 1⟩
def RTE_CFG_DEFLECT_MAX : Fld := ⟨16, 5⟩
def RTE_CFG_GUTTER_SEGS : Fld := ⟨32, 11⟩
def RTE_EPOCH_ACTIVE : Fld := ⟨0, 1⟩
def RTE_EPOCH_OTHER_STATE : Fld := ⟨1, 2⟩
def RTE_EPOCH_DRAIN : Fld := ⟨8, 19⟩
def RTE_EPOCH_INSTALLS : Fld := ⟨32, 32⟩
def RTE_EPOCH_CTL_ARM : Fld := ⟨0, 1⟩
def RTE_EPOCH_CTL_DISARM : Fld := ⟨1, 1⟩
def RTE_EPOCH_CTL_CLEAR_DROPS : Fld := ⟨2, 1⟩
def RTE_GUTTER_UP_PORT : Fld := ⟨0, 7⟩
def RTE_GUTTER_ROOT : Fld := ⟨7, 1⟩
def RTE_GUTTER_SELF_EDGE : Fld := ⟨8, 10⟩
def RTE_DROPS0_PARTITION : Fld := ⟨0, 16⟩
def RTE_DROPS0_STALE : Fld := ⟨16, 16⟩
def RTE_DROPS0_HOPS : Fld := ⟨32, 16⟩
def RTE_DROPS0_GUTTER : Fld := ⟨48, 16⟩
def RTE_DROPS1_FORMAT : Fld := ⟨0, 16⟩
def RTE_DROPS1_FENCE_TIMEOUT : Fld := ⟨16, 16⟩
def RTE_DROPS1_MCAST : Fld := ⟨32, 16⟩
def RTE_FLOW_CFG_FENCE_HOLD_US : Fld := ⟨0, 20⟩
def RTE_FLOW_CFG_DRAIN_HOLD_US : Fld := ⟨32, 20⟩
def RTE_PGROUP_PORTS_LO : Fld := ⟨0, 64⟩
def RTE_PGROUP_PORTS_HI : Fld := ⟨64, 64⟩
def RTE_ROUTE_KIND : Fld := ⟨0, 2⟩
def RTE_ROUTE_PGROUP : Fld := ⟨2, 8⟩
def RTE_ROUTE_PORT : Fld := ⟨10, 7⟩
def RTE_ROUTE_G_BELOW : Fld := ⟨17, 1⟩
def RTE_ROUTE_G_PORT : Fld := ⟨18, 7⟩
def RTE_ROUTE_EDGE : Fld := ⟨25, 10⟩
def RTE_MCAST_PORTS : Fld := ⟨0, 128⟩
def RTE_MCAST_LOCAL : Fld := ⟨128, 1⟩
def RTE_MCAST_VALID : Fld := ⟨129, 1⟩
def RTE_MCAST_PARTITION : Fld := ⟨130, 6⟩
def SWC_CFG_REASM_TO : Fld := ⟨0, 14⟩
def SWC_FREE_FREE_SEGS : Fld := ⟨0, 19⟩
def SWC_FREE_FREE_DESC : Fld := ⟨32, 18⟩
def SWC_DROPS_REASM_TIMEOUTS : Fld := ⟨0, 16⟩
def SWC_DROPS_ORPHAN_SEGS : Fld := ⟨16, 16⟩
def SWC_DROPS_QUOTA_DROPS : Fld := ⟨32, 16⟩
def SWC_DROPS_FLUSHED : Fld := ⟨48, 16⟩
def SWC_CTL_AUDIT : Fld := ⟨0, 1⟩
def SWC_CTL_CLEAR_DROPS : Fld := ⟨1, 1⟩
def SWC_AUDIT_RUNNING : Fld := ⟨0, 1⟩
def SWC_AUDIT_DONE_SEEN : Fld := ⟨1, 1⟩
def SWC_AUDIT_RETIRED_SEEN : Fld := ⟨2, 1⟩
def SWC_AUDIT_LEAKED : Fld := ⟨16, 16⟩
def SWC_AUDIT_DOUBLE : Fld := ⟨32, 16⟩
def SWC_AUDIT_RETIRED : Fld := ⟨48, 16⟩
def SWC_SAMPLE_CFG_EN : Fld := ⟨0, 1⟩
def SWC_SAMPLE_CFG_LOG2N : Fld := ⟨8, 5⟩
def SWC_SAMPLE_FILTER_PARTITIONS : Fld := ⟨0, 64⟩
def SWC_SAMPLE_STATUS_TAKEN : Fld := ⟨0, 32⟩
def SWC_SAMPLE_STATUS_RING_DROPS : Fld := ⟨32, 16⟩
def SWC_SAMPLE_STATUS_RATE_DROPS : Fld := ⟨48, 16⟩
def SWC_QUOTA_MIN_UNITS : Fld := ⟨0, 19⟩
def SWC_QUOTA_MAX_UNITS : Fld := ⟨32, 19⟩
def SWC_QUOTA_SAMPLE_OK : Fld := ⟨51, 1⟩
def SWC_USAGE_USED : Fld := ⟨0, 19⟩
def SWC_USAGE_PEAK : Fld := ⟨32, 19⟩
def TMG_CFG_REFILL_US : Fld := ⟨0, 10⟩
def TMG_CFG_YELLOW_FREE : Fld := ⟨12, 18⟩
def TMG_STATUS_REFILLS : Fld := ⟨0, 32⟩
def TMG_STATUS_CHECKS : Fld := ⟨32, 16⟩
def TMG_CTL_CLEAR_COUNTS : Fld := ⟨0, 1⟩
def TMG_METER_RATE_CIR : Fld := ⟨0, 20⟩
def TMG_METER_RATE_PIR : Fld := ⟨20, 20⟩
def TMG_METER_RATE_EN : Fld := ⟨40, 1⟩
def TMG_METER_BURST_CBS : Fld := ⟨0, 16⟩
def TMG_METER_BURST_PBS : Fld := ⟨16, 16⟩
def TMG_METER_STATE_TOK_C : Fld := ⟨0, 32⟩
def TMG_METER_STATE_TOK_P : Fld := ⟨32, 32⟩
def TMG_METER_CNT_YELLOW_DROPS : Fld := ⟨0, 32⟩
def TMG_METER_CNT_RED_DROPS : Fld := ⟨32, 32⟩
def TMG_CLASS_WEIGHT0 : Fld := ⟨0, 7⟩
def TMG_CLASS_WEIGHT1 : Fld := ⟨7, 7⟩
def TMG_CLASS_WEIGHT2 : Fld := ⟨14, 7⟩
def TMG_CLASS_WEIGHT3 : Fld := ⟨21, 7⟩
def TMG_CLASS_WEIGHT4 : Fld := ⟨28, 7⟩
def TMG_CLASS_WEIGHT5 : Fld := ⟨35, 7⟩
def TMG_CLASS_WEIGHT6 : Fld := ⟨42, 7⟩
def TMG_CLASS_WEIGHT7 : Fld := ⟨49, 7⟩
def TMG_CLASS_STRICT : Fld := ⟨56, 8⟩
def TMG_OUT_RATE_CIR : Fld := ⟨0, 20⟩
def TMG_OUT_RATE_PIR : Fld := ⟨20, 20⟩
def TMG_OUT_RATE_EN : Fld := ⟨40, 1⟩
def TMG_OUT_RATE_WEIGHT : Fld := ⟨42, 10⟩
def TMG_OUT_BURST_CBS : Fld := ⟨0, 16⟩
def TMG_OUT_BURST_PBS : Fld := ⟨16, 16⟩
def HOM_CTL_PREDICT_EN : Fld := ⟨0, 1⟩
def HOM_CTL_FORCE_NEAR : Fld := ⟨1, 1⟩
def HOM_CTL_READ_COMBINE_EN : Fld := ⟨2, 1⟩
def HOM_CTL_FAA_COMBINE_EN : Fld := ⟨3, 1⟩
def HOM_CTL_FAA_WINDOW : Fld := ⟨4, 8⟩
def HOM_CTL_HB_MS : Fld := ⟨22, 10⟩
def HOM_STATUS_LOST_USED : Fld := ⟨0, 17⟩
def HOM_STATUS_TILE_MODE_SEEN : Fld := ⟨17, 1⟩
def HOM_STATUS_WIDE_SEEN : Fld := ⟨18, 1⟩
def HOM_STATUS_STRAY : Fld := ⟨32, 16⟩
def HOM_STATUS_RETRIES : Fld := ⟨48, 16⟩
def HOM_LOST_WIDE_WIDE : Fld := ⟨0, 64⟩
def HOM_VREGION_BASE_TILE : Fld := ⟨0, 42⟩
def HOM_VREGION_PARTITION : Fld := ⟨42, 6⟩
def HOM_VREGION_VALID : Fld := ⟨48, 1⟩
def HOM_VREGION_TILES : Fld := ⟨64, 34⟩
def HOM_VREGION_CURRENT : Fld := ⟨128, 32⟩
def HOM_VREGION_ISSUED : Fld := ⟨160, 32⟩
def HOM_VREGION_LIVE : Fld := ⟨192, 8⟩
def HOM_OWN_VALID : Fld := ⟨0, 1⟩
def HOM_OWN_STATE : Fld := ⟨1, 2⟩
def HOM_OWN_PARTITION : Fld := ⟨3, 6⟩
def HOM_OWN_ADDR : Fld := ⟨9, 50⟩
def HOM_OWN_OWNER : Fld := ⟨64, 32⟩
def HOM_OWN_NEXT : Fld := ⟨96, 32⟩
def HOM_OWN_DEADLINE : Fld := ⟨128, 64⟩
def HOM_HOST_PARTITION : Fld := ⟨0, 6⟩
def HOM_HOST_CACHING : Fld := ⟨6, 1⟩
def HOM_HOST_FAILED : Fld := ⟨7, 1⟩
def HOM_HOST_WALKING : Fld := ⟨8, 1⟩
def HOM_HOST_DECLARE : Fld := ⟨9, 1⟩
def HOM_HOST_ASSIGNED : Fld := ⟨10, 1⟩
def HOM_HOST_LOST_LINES : Fld := ⟨16, 16⟩
def HOM_LOST_VALID : Fld := ⟨0, 1⟩
def HOM_LOST_GRAN : Fld := ⟨1, 1⟩
def HOM_LOST_PARTITION : Fld := ⟨2, 6⟩
def HOM_LOST_ADDR : Fld := ⟨8, 50⟩
def TIR_DOMAIN_ID_DOMAIN : Fld := ⟨0, 64⟩
def TIR_FTL_CFG0_GC_LOW : Fld := ⟨0, 6⟩
def TIR_FTL_CFG0_GC_HIGH : Fld := ⟨8, 6⟩
def TIR_FTL_CFG0_OP : Fld := ⟨16, 6⟩
def TIR_FTL_CFG0_BG_SHARE : Fld := ⟨24, 6⟩
def TIR_FTL_CFG1_WL_DELTA : Fld := ⟨0, 14⟩
def TIR_FTL_CFG1_RD_THRESH : Fld := ⟨16, 20⟩
def TIR_FTL_CFG1_SPARE_LOW : Fld := ⟨40, 4⟩
def TIR_TIER_CFG_CLEAN_MS : Fld := ⟨0, 16⟩
def TIR_TIER_CFG_PRESS_LOW : Fld := ⟨16, 6⟩
def TIR_TIER_CFG_PRESS_HIGH : Fld := ⟨24, 6⟩
def TIR_TRAY_STATUS_STATE : Fld := ⟨0, 3⟩
def TIR_TRAY_STATUS_MODE_C : Fld := ⟨3, 1⟩
def TIR_TRAY_STATUS_PROFILE : Fld := ⟨4, 4⟩
def TIR_TRAY_STATUS_DRAM_CH : Fld := ⟨8, 5⟩
def TIR_TRAY_STATUS_FLASH_CH : Fld := ⟨13, 6⟩
def TIR_TRAY_STATUS_LOST_SEEN : Fld := ⟨19, 1⟩
def TIR_TRAY_STATUS_SPARE_LOW : Fld := ⟨20, 1⟩
def TIR_TRAY_STATUS_UNMATCHED : Fld := ⟨32, 16⟩
def TIR_PROF_STATE : Fld := ⟨0, 6⟩
def TIR_PROF_EVENT : Fld := ⟨6, 6⟩
def TIR_PROF_NEXT : Fld := ⟨12, 6⟩
def TIR_PROF_ACTION : Fld := ⟨18, 8⟩
def TIR_PROF_TIMER : Fld := ⟨26, 4⟩
def TIR_PROF_VALID : Fld := ⟨30, 1⟩
def TIR_PROF_ARG : Fld := ⟨32, 16⟩
def TIR_PROF_TIMER_T0 : Fld := ⟨0, 32⟩
def TIR_PROF_TIMER_T1 : Fld := ⟨32, 32⟩
def TIR_DPORT_MAP_POOL_BASE : Fld := ⟨0, 28⟩
def TIR_DPORT_MAP_SIZE : Fld := ⟨28, 20⟩
def TIR_DPORT_MAP_VALID : Fld := ⟨48, 1⟩
def PTN_STATE_STATE : Fld := ⟨0, 3⟩
def PTN_STATE_LARGE : Fld := ⟨3, 1⟩
def PTN_STATE_SCRUB_ERR : Fld := ⟨4, 1⟩
def PTN_STATE_SEALS : Fld := ⟨32, 32⟩
def PTN_PART_VALID : Fld := ⟨0, 1⟩
def PTN_PART_LOCAL : Fld := ⟨1, 1⟩
def PTN_OWN_WG_OWNER0 : Fld := ⟨0, 8⟩
def PTN_OWN_WG_OWNER_N0 : Fld := ⟨8, 8⟩
def PTN_OWN_WG_OWNER1 : Fld := ⟨16, 8⟩
def PTN_OWN_WG_OWNER_N1 : Fld := ⟨24, 8⟩
def PTN_OWN_WG_OWNER2 : Fld := ⟨32, 8⟩
def PTN_OWN_WG_OWNER_N2 : Fld := ⟨40, 8⟩
def PTN_OWN_WG_OWNER3 : Fld := ⟨48, 8⟩
def PTN_OWN_WG_OWNER_N3 : Fld := ⟨56, 8⟩
def PTN_OWN_BANK_OWNER0 : Fld := ⟨0, 8⟩
def PTN_OWN_BANK_OWNER_N0 : Fld := ⟨8, 8⟩
def PTN_OWN_BANK_OWNER1 : Fld := ⟨16, 8⟩
def PTN_OWN_BANK_OWNER_N1 : Fld := ⟨24, 8⟩
def PTN_OWN_BANK_OWNER2 : Fld := ⟨32, 8⟩
def PTN_OWN_BANK_OWNER_N2 : Fld := ⟨40, 8⟩
def PTN_OWN_BANK_OWNER3 : Fld := ⟨48, 8⟩
def PTN_OWN_BANK_OWNER_N3 : Fld := ⟨56, 8⟩
def PTN_OWN_HBM_OWNER0 : Fld := ⟨0, 8⟩
def PTN_OWN_HBM_OWNER_N0 : Fld := ⟨8, 8⟩
def PTN_OWN_HBM_OWNER1 : Fld := ⟨16, 8⟩
def PTN_OWN_HBM_OWNER_N1 : Fld := ⟨24, 8⟩
def PTN_OWN_HBM_OWNER2 : Fld := ⟨32, 8⟩
def PTN_OWN_HBM_OWNER_N2 : Fld := ⟨40, 8⟩
def PTN_OWN_HBM_OWNER3 : Fld := ⟨48, 8⟩
def PTN_OWN_HBM_OWNER_N3 : Fld := ⟨56, 8⟩
def PTN_OWN_DRAM_OWNER0 : Fld := ⟨0, 8⟩
def PTN_OWN_DRAM_OWNER_N0 : Fld := ⟨8, 8⟩
def PTN_OWN_DRAM_OWNER1 : Fld := ⟨16, 8⟩
def PTN_OWN_DRAM_OWNER_N1 : Fld := ⟨24, 8⟩
def PTN_OWN_DRAM_OWNER2 : Fld := ⟨32, 8⟩
def PTN_OWN_DRAM_OWNER_N2 : Fld := ⟨40, 8⟩
def PTN_OWN_DRAM_OWNER3 : Fld := ⟨48, 8⟩
def PTN_OWN_DRAM_OWNER_N3 : Fld := ⟨56, 8⟩
def PTN_OWN_FLASH_OWNER0 : Fld := ⟨0, 8⟩
def PTN_OWN_FLASH_OWNER_N0 : Fld := ⟨8, 8⟩
def PTN_OWN_FLASH_OWNER1 : Fld := ⟨16, 8⟩
def PTN_OWN_FLASH_OWNER_N1 : Fld := ⟨24, 8⟩
def PTN_OWN_FLASH_OWNER2 : Fld := ⟨32, 8⟩
def PTN_OWN_FLASH_OWNER_N2 : Fld := ⟨40, 8⟩
def PTN_OWN_FLASH_OWNER3 : Fld := ⟨48, 8⟩
def PTN_OWN_FLASH_OWNER_N3 : Fld := ⟨56, 8⟩
def PTN_OWN_TRAYC_OWNER0 : Fld := ⟨0, 8⟩
def PTN_OWN_TRAYC_OWNER_N0 : Fld := ⟨8, 8⟩
def PTN_OWN_TRAYC_OWNER1 : Fld := ⟨16, 8⟩
def PTN_OWN_TRAYC_OWNER_N1 : Fld := ⟨24, 8⟩
def PTN_OWN_TRAYC_OWNER2 : Fld := ⟨32, 8⟩
def PTN_OWN_TRAYC_OWNER_N2 : Fld := ⟨40, 8⟩
def PTN_OWN_TRAYC_OWNER3 : Fld := ⟨48, 8⟩
def PTN_OWN_TRAYC_OWNER_N3 : Fld := ⟨56, 8⟩
def PTN_TRUST_DIGEST0 : Fld := ⟨0, 64⟩
def PTN_TRUST_DIGEST1 : Fld := ⟨64, 64⟩
def PTN_TRUST_DIGEST2 : Fld := ⟨128, 64⟩
def PTN_TRUST_DIGEST3 : Fld := ⟨192, 64⟩
def PTN_TRUST_DIGEST4 : Fld := ⟨256, 64⟩
def PTN_TRUST_DIGEST5 : Fld := ⟨320, 64⟩
def PTN_TRUST_DIGEST6 : Fld := ⟨384, 64⟩
def PTN_TRUST_DIGEST7 : Fld := ⟨448, 64⟩
def PTN_RANGE_BASE_TILE : Fld := ⟨0, 42⟩
def PTN_RANGE_PARTITION : Fld := ⟨42, 6⟩
def PTN_RANGE_KIND : Fld := ⟨48, 2⟩
def PTN_RANGE_POLICY : Fld := ⟨50, 2⟩
def PTN_RANGE_REPLICA_EN : Fld := ⟨52, 1⟩
def PTN_RANGE_TILES : Fld := ⟨64, 34⟩
def PTN_RANGE_REPLICA_IDX : Fld := ⟨98, 12⟩
def PTN_RANGE_META_TRAY : Fld := ⟨110, 5⟩
def PTN_RANGE_META_CHAN : Fld := ⟨115, 4⟩
def PTN_RANGE_TABLE_BASE : Fld := ⟨128, 27⟩
def PTN_RANGE_TRAY_MASK : Fld := ⟨160, 32⟩
def KEY_STATUS_TRNG_FAIL : Fld := ⟨0, 1⟩
def KEY_STATUS_TRNG_FAIL_SEEN : Fld := ⟨1, 1⟩
def KEY_STATUS_RESEEDS : Fld := ⟨16, 16⟩
def KEY_MEM_NEWEST : Fld := ⟨0, 2⟩
def KEY_MEM_LIVE : Fld := ⟨2, 4⟩
def KEY_MEM_SWEEPING : Fld := ⟨6, 1⟩
def KEY_MEM_DESTROYED : Fld := ⟨7, 1⟩
def KEY_MEM_TILES0 : Fld := ⟨64, 40⟩
def KEY_MEM_TILES1 : Fld := ⟨128, 40⟩
def KEY_MEM_TILES2 : Fld := ⟨192, 40⟩
def KEY_MEM_TILES3 : Fld := ⟨256, 40⟩
def KEY_MEM_SWEPT : Fld := ⟨320, 40⟩
def CEL_OWNER_OWNER : Fld := ⟨0, 8⟩
def CEL_OWNER_OWNER_N : Fld := ⟨8, 8⟩
def CEL_CFG_COLL_TO_US : Fld := ⟨0, 17⟩
def CEL_CFG_EARLY_SEGS : Fld := ⟨24, 8⟩
def CEL_CFG_COMPAT_EN : Fld := ⟨32, 1⟩
def CEL_STATUS_CTX_USED : Fld := ⟨0, 5⟩
def CEL_STATUS_RUNNING : Fld := ⟨5, 1⟩
def CEL_STATUS_COMPAT : Fld := ⟨6, 1⟩
def CEL_STATUS_ABORT_SEEN : Fld := ⟨7, 1⟩
def CEL_STATUS_RESETTING : Fld := ⟨8, 1⟩
def CEL_STATUS_DUP_DROPS : Fld := ⟨16, 16⟩
def CEL_STATUS_STRAY_DROPS : Fld := ⟨32, 16⟩
def CEL_STATUS_EARLY_DROPS : Fld := ⟨48, 16⟩
def CEL_OUTSTANDING_POOL_REQS : Fld := ⟨0, 10⟩
def CEL_OUTSTANDING_REMOTE_WR : Fld := ⟨16, 9⟩
def CEL_OUTSTANDING_STG_REQS : Fld := ⟨32, 7⟩
def CEL_CTL_RESET : Fld := ⟨0, 1⟩
def MTX_OWNER_OWNER : Fld := ⟨0, 8⟩
def MTX_OWNER_OWNER_N : Fld := ⟨8, 8⟩
def MTX_STATUS_RUNNING : Fld := ⟨0, 1⟩
def MTX_STATUS_ENCODING : Fld := ⟨1, 1⟩
def MTX_STATUS_RESETTING : Fld := ⟨2, 1⟩
def MTX_STATUS_MALFORMED : Fld := ⟨16, 16⟩
def MTX_OUTSTANDING_POOL_REQS : Fld := ⟨0, 11⟩
def MTX_OUTSTANDING_REMOTE_WR : Fld := ⟨16, 9⟩
def MTX_OUTSTANDING_STG_REQS : Fld := ⟨32, 8⟩
def MTX_CTL_RESET : Fld := ⟨0, 1⟩
def CDC_SLOT_OWNER : Fld := ⟨0, 8⟩
def CDC_SLOT_OWNER_N : Fld := ⟨8, 8⟩
def CDC_SLOT_STATE : Fld := ⟨16, 2⟩
def CDC_SLOT_RATE : Fld := ⟨18, 4⟩
def CDC_SLOT_GEN : Fld := ⟨32, 16⟩
def CDC_SLOT_REFS : Fld := ⟨48, 16⟩
def CDC_TABLE_CENTROIDS : Fld := ⟨0, 64⟩
def SEQ_CTL_WD_MARGIN : Fld := ⟨0, 7⟩
def SEQ_STATUS_ORPHAN_REPLIES : Fld := ⟨0, 16⟩
def SEQ_STATUS_OVERRUNS : Fld := ⟨16, 16⟩
def SEQ_STATUS_DOORBELL_ERRORS : Fld := ⟨32, 16⟩
def SEQ_STATUS_FABRIC_BUSY : Fld := ⟨48, 16⟩
def SEQ_CBLK_OWNER_OWNER0 : Fld := ⟨0, 8⟩
def SEQ_CBLK_OWNER_OWNER_N0 : Fld := ⟨8, 8⟩
def SEQ_CBLK_OWNER_OWNER1 : Fld := ⟨16, 8⟩
def SEQ_CBLK_OWNER_OWNER_N1 : Fld := ⟨24, 8⟩
def SEQ_CBLK_OWNER_OWNER2 : Fld := ⟨32, 8⟩
def SEQ_CBLK_OWNER_OWNER_N2 : Fld := ⟨40, 8⟩
def SEQ_CBLK_OWNER_OWNER3 : Fld := ⟨48, 8⟩
def SEQ_CBLK_OWNER_OWNER_N3 : Fld := ⟨56, 8⟩
def SEQ_Q_CFG_SOURCE : Fld := ⟨0, 2⟩
def SEQ_Q_CFG_PRIORITY : Fld := ⟨2, 3⟩
def SEQ_Q_CFG_ENGINE_SET : Fld := ⟨6, 2⟩
def SEQ_Q_CFG_ENGINE : Fld := ⟨8, 7⟩
def SEQ_Q_CFG_JOB : Fld := ⟨16, 16⟩
def SEQ_Q_CFG_FRAME_US : Fld := ⟨32, 20⟩
def SEQ_Q_SCHED_BUDGET_US : Fld := ⟨0, 20⟩
def SEQ_Q_SCHED_PHASE_US : Fld := ⟨20, 20⟩
def SEQ_Q_SCHED_MAX_ACTIVE : Fld := ⟨40, 7⟩
def SEQ_Q_SQ_BASE_ADDR : Fld := ⟨12, 52⟩
def SEQ_Q_CQ_BASE_ADDR : Fld := ⟨12, 52⟩
def SEQ_Q_RING_SQ_ENTRIES : Fld := ⟨0, 17⟩
def SEQ_Q_RING_CQ_ENTRIES : Fld := ⟨32, 17⟩
def SEQ_Q_RING_VECTOR : Fld := ⟨49, 4⟩
def SEQ_Q_STATE_ENABLED : Fld := ⟨0, 1⟩
def SEQ_Q_STATE_SUSPENDED : Fld := ⟨1, 1⟩
def SEQ_Q_STATE_BOOSTED : Fld := ⟨2, 1⟩
def SEQ_Q_STATE_EFF_PRIORITY : Fld := ⟨3, 3⟩
def SEQ_Q_STATE_HALTED : Fld := ⟨6, 1⟩
def SEQ_Q_STATE_OVERRUN_SEEN : Fld := ⟨7, 1⟩
def SEQ_Q_STATE_ACTIVE : Fld := ⟨8, 7⟩
def SEQ_Q_STATE_SQ_HEAD : Fld := ⟨16, 16⟩
def SEQ_Q_STATE_BUDGET_LEFT : Fld := ⟨32, 20⟩
def SEQ_Q_CTL_ENABLE : Fld := ⟨0, 1⟩
def SEQ_Q_CTL_DISABLE : Fld := ⟨1, 1⟩
def SEQ_COUNTER_VALUE : Fld := ⟨0, 48⟩
def SEQ_COUNTER_MODE : Fld := ⟨48, 1⟩
def SEQ_COUNTER_SCOPE : Fld := ⟨49, 2⟩
def SEQ_COUNTER_OWNER_JOB : Fld := ⟨64, 16⟩
def ERR_CFG_CE_LOG_EVERY : Fld := ⟨0, 16⟩
def ERR_STATUS_HEAD : Fld := ⟨0, 32⟩
def ERR_STATUS_HOST_LOST : Fld := ⟨32, 16⟩
def ERR_STATUS_UE_SEEN : Fld := ⟨48, 1⟩
def ERR_STATUS_FAULT_SEEN : Fld := ⟨49, 1⟩
def ERR_HOST_TAIL_TAIL : Fld := ⟨0, 32⟩
def ERR_REPAIR_ADDR_OFFSET : Fld := ⟨0, 26⟩
def ERR_REPAIR_CTL_GO : Fld := ⟨0, 1⟩
def ERR_REPAIR_DATA_DATA : Fld := ⟨0, 64⟩
def ERR_SHADOW_CFG_MODE : Fld := ⟨0, 2⟩
def ERR_SHADOW_CFG_PARTITION : Fld := ⟨2, 6⟩
def ERR_SHADOW_CFG_PEER_EID : Fld := ⟨8, 14⟩
def ERR_SHADOW_CFG_TC : Fld := ⟨24, 3⟩
def ERR_SHADOW_TOL_RTOL : Fld := ⟨0, 32⟩
def ERR_SHADOW_TOL_ABS_FLOOR : Fld := ⟨32, 32⟩
def ERR_SHADOW_STATUS_COMPARED : Fld := ⟨0, 32⟩
def ERR_SHADOW_STATUS_MISMATCHES : Fld := ⟨32, 16⟩
def ERR_SHADOW_STATUS_MISSING : Fld := ⟨48, 8⟩
def ERR_SHADOW_STATUS_TAP_DROPS : Fld := ⟨56, 8⟩
def ERR_CE_CNT_CE : Fld := ⟨0, 32⟩
def ERR_CE_CNT_UE : Fld := ⟨32, 32⟩
def ERR_FAULT_CFG_NOTIFY_EID : Fld := ⟨0, 14⟩
def ERR_FAULT_CFG_NOTIFY_EN : Fld := ⟨14, 1⟩
def ERR_FAULT_CFG_NOTIFY_TC : Fld := ⟨16, 3⟩
def ERR_FAULT_CFG_VECTOR : Fld := ⟨20, 4⟩
def ERR_FAULT_PTR_HEAD : Fld := ⟨0, 16⟩
def ERR_FAULT_PTR_TAIL : Fld := ⟨16, 16⟩
def ERR_FAULT_PTR_OVERFLOWS : Fld := ⟨32, 16⟩
def ERR_FAULT_FSEQ : Fld := ⟨0, 16⟩
def ERR_FAULT_STATUS : Fld := ⟨16, 8⟩
def ERR_FAULT_CAUSE : Fld := ⟨24, 8⟩
def ERR_FAULT_COUNT : Fld := ⟨32, 16⟩
def ERR_FAULT_ADDR_KIND : Fld := ⟨48, 4⟩
def ERR_FAULT_TIME : Fld := ⟨64, 64⟩
def ERR_FAULT_ADDR : Fld := ⟨128, 64⟩
def ERR_FAULT_EID : Fld := ⟨192, 14⟩
def ERR_FAULT_PORT : Fld := ⟨208, 8⟩
def ERR_FAULT_LOG_SEQ : Fld := ⟨224, 32⟩
def ERR_LOG_TIME : Fld := ⟨0, 64⟩
def ERR_LOG_STATUS : Fld := ⟨64, 8⟩
def ERR_LOG_PLANE : Fld := ⟨72, 2⟩
def ERR_LOG_PARTITION : Fld := ⟨74, 6⟩
def ERR_LOG_PART_VALID : Fld := ⟨80, 1⟩
def ERR_LOG_FAULT : Fld := ⟨81, 1⟩
def ERR_LOG_EVENT : Fld := ⟨82, 1⟩
def ERR_LOG_ADDR_KIND : Fld := ⟨84, 4⟩
def ERR_LOG_SUBSYS : Fld := ⟨88, 8⟩
def ERR_LOG_ADDR : Fld := ⟨96, 64⟩
def ERR_LOG_SRC_EID : Fld := ⟨160, 14⟩
def ERR_LOG_PORT : Fld := ⟨176, 8⟩
def ERR_LOG_QUEUE : Fld := ⟨184, 16⟩
def ERR_LOG_TAG : Fld := ⟨200, 32⟩
def ERR_LOG_DETAIL : Fld := ⟨232, 64⟩
def ERR_LOG_SEQ_NO : Fld := ⟨296, 64⟩

end F

/-- Table 17.6: the default input filter of pad group `g`. -/
def padFilterReset (g : Nat) : Nat :=
  if g = 0 then 4 else if g = 1 then 2 else if g = 2 then 0 else if g = 3 then 2
  else if g = 4 then 4 else if g = 5 then 4 else if g = 6 then 2 else 0

/-- The fields of a register; `i`, `j` and `k` are its indices. Bits not named are reserved and read zero (R12). -/
def RegKind.fields (kind : RegKind) (i j : Nat) : List FieldSpec :=
  match kind with
  | .glbStraps => [
      ⟨F.GLB_STRAPS_ENROLL_EN, .ro, .any, 0⟩,
      ⟨F.GLB_STRAPS_I3C_ADDR, .ro, .any, 0⟩,
      ⟨F.GLB_STRAPS_BOOT_MODE, .ro, .any, 0⟩]
  | .glbBootStatus => [
      ⟨F.GLB_BOOT_STATUS_STAGE, .ro, .any, 0⟩,
      ⟨F.GLB_BOOT_STATUS_READY, .ro, .any, 0⟩,
      ⟨F.GLB_BOOT_STATUS_DP_RESET, .ro, .any, 1⟩,
      ⟨F.GLB_BOOT_STATUS_CP_RESET, .ro, .any, 1⟩,
      ⟨F.GLB_BOOT_STATUS_MP_RESET, .ro, .any, 1⟩,
      ⟨F.GLB_BOOT_STATUS_HBM_FAIL, .ro, .any, 0⟩,
      ⟨F.GLB_BOOT_STATUS_READY_US, .ro, .any, 0⟩]
  | .glbResetCtl => [
      ⟨F.GLB_RESET_CTL_DATA, .wo, .any, 0⟩,
      ⟨F.GLB_RESET_CTL_CONTROL, .wo, .any, 0⟩,
      ⟨F.GLB_RESET_CTL_RELEASE, .wo, .any, 0⟩]
  | .glbResetCause => [
      ⟨F.GLB_RESET_CAUSE_DATA, .ro, .any, 1⟩,
      ⟨F.GLB_RESET_CAUSE_CONTROL, .ro, .any, 1⟩,
      ⟨F.GLB_RESET_CAUSE_MANAGEMENT, .ro, .any, 1⟩]
  | .glbClkStatus => [
      ⟨F.GLB_CLK_STATUS_REFCLK_FAB_LOST, .ro, .any, 0⟩,
      ⟨F.GLB_CLK_STATUS_REFCLK_PCIE_LOST, .ro, .any, 0⟩,
      ⟨F.GLB_CLK_STATUS_XTAL_LOST, .ro, .any, 0⟩,
      ⟨F.GLB_CLK_STATUS_CLK_LOST_SEEN, .w1c, .any, 0⟩]
  | .glbId => [
      ⟨F.GLB_ID_PART, .ro, .any, 233⟩,
      ⟨F.GLB_ID_STEPPING, .ro, .any, Config.stepping⟩,
      ⟨F.GLB_ID_MAP_VERSION, .ro, .any, 1⟩]
  | .glbSerial => [
      ⟨F.GLB_SERIAL_SERIAL, .ro, .any, Config.serial⟩]
  | .glbTimers0 => [
      ⟨F.GLB_TIMERS0_TXN_US, .rw, (.inR 1 1000000), 50⟩,
      ⟨F.GLB_TIMERS0_HANDOFF_MS, .rw, (.inR 1 60000), 100⟩]
  | .glbTimers1 => [
      ⟨F.GLB_TIMERS1_STUCK_10NS, .rw, (.inR 10 10000), 100⟩,
      ⟨F.GLB_TIMERS1_TT_EXCH_US, .rw, (.inR 125 100000), 1000⟩]
  | .glbPadCfg => [
      ⟨F.GLB_PAD_CFG_SLEW, .rw, .any, 0⟩,
      ⟨F.GLB_PAD_CFG_FILTER, .rw, .any, padFilterReset i⟩,
      ⟨F.GLB_PAD_CFG_SPREAD_EN, .rw, .any, (if i = 2 ∨ i = 6 then 1 else 0)⟩]
  | .pcePolicy => [
      ⟨F.PCE_POLICY_LEVEL, .rw, .any, 4⟩,
      ⟨F.PCE_POLICY_FORCE, .rw, .any, 0⟩,
      ⟨F.PCE_POLICY_GUARD, .rw, .any, 123⟩,
      ⟨F.PCE_POLICY_THROTTLE_T, .rw, (.inR 60 105), 100⟩,
      ⟨F.PCE_POLICY_THROTTLE_EN, .rw, .any, 1⟩,
      ⟨F.PCE_POLICY_STEP_MV, .rw, (.inR 0 20), 10⟩]
  | .pceStatus => [
      ⟨F.PCE_STATUS_LEVEL_ACTIVE, .ro, .any, 4⟩,
      ⟨F.PCE_STATUS_ADMIT_LEVEL, .ro, .any, 4⟩,
      ⟨F.PCE_STATUS_SHORTFALL, .ro, .any, 0⟩,
      ⟨F.PCE_STATUS_SHORTFALL_SEEN, .w1c, .any, 0⟩,
      ⟨F.PCE_STATUS_AVS_FAULT, .w1c, .any, 0⟩,
      ⟨F.PCE_STATUS_THROTTLING, .ro, .any, 0⟩,
      ⟨F.PCE_STATUS_TRANSITION, .ro, .any, 0⟩,
      ⟨F.PCE_STATUS_VCORE_MV, .ro, .any, 750⟩]
  | .pceTb => [
      ⟨F.PCE_TB_TB_LO, .ro, .any, 0⟩,
      ⟨F.PCE_TB_TB_HI, .ro, .any, 0⟩]
  | .pceTbParent => [
      ⟨F.PCE_TB_PARENT_PORT, .rw, .any, 0⟩,
      ⟨F.PCE_TB_PARENT_ROOT, .rw, .any, 0⟩,
      ⟨F.PCE_TB_PARENT_EN, .rw, .any, 0⟩]
  | .pceTbAdj => [
      ⟨F.PCE_TB_ADJ_OFFSET_NS, .rw, .any, 0⟩,
      ⟨F.PCE_TB_ADJ_SLEW_PPM, .ro, .any, 0⟩,
      ⟨F.PCE_TB_ADJ_STEP_SEEN, .w1c, .any, 0⟩,
      ⟨F.PCE_TB_ADJ_PARENT_LOST, .ro, .any, 0⟩]
  | .pcePaceDrop => [
      ⟨F.PCE_PACE_DROP_DROPS, .ro, .any, 0⟩]
  | .pceMwdog => [
      ⟨F.PCE_MWDOG_KICK, .wo, .any, 0⟩]
  | .pcePwrCtl => [
      ⟨F.PCE_PWR_CTL_EAVES_ENTER, .wo, .any, 0⟩,
      ⟨F.PCE_PWR_CTL_WAKE, .wo, .any, 0⟩,
      ⟨F.PCE_PWR_CTL_WAKE_TRAFFIC, .rw, .any, 1⟩,
      ⟨F.PCE_PWR_CTL_WAKE_DOORBELL, .rw, .any, 1⟩,
      ⟨F.PCE_PWR_CTL_ENTRY_MS, .rw, (.inR 1 1000), 10⟩]
  | .pcePwrStatus => [
      ⟨F.PCE_PWR_STATUS_STATE, .ro, .any, 0⟩,
      ⟨F.PCE_PWR_STATUS_ABANDON_SEEN, .w1c, .any, 0⟩,
      ⟨F.PCE_PWR_STATUS_WAKE_CAUSE, .ro, .any, 0⟩,
      ⟨F.PCE_PWR_STATUS_ENTRIES, .ro, .any, 0⟩,
      ⟨F.PCE_PWR_STATUS_LAST_WAKE_NS, .ro, .any, 0⟩]
  | .pceCurve => [
      ⟨F.PCE_CURVE_VOLT_MV0, .rw, (.inR 620 850), (Config.curve i (4 * j + 0))⟩,
      ⟨F.PCE_CURVE_VOLT_MV1, .rw, (.inR 620 850), (Config.curve i (4 * j + 1))⟩,
      ⟨F.PCE_CURVE_VOLT_MV2, .rw, (.inR 620 850), (Config.curve i (4 * j + 2))⟩,
      ⟨F.PCE_CURVE_VOLT_MV3, .rw, (.inR 620 850), (Config.curve i (4 * j + 3))⟩]
  | .nwtStatus => [
      ⟨F.NWT_STATUS_STATE, .ro, .any, 0⟩,
      ⟨F.NWT_STATUS_HOST_UPDATE_EN, .ro, .any, 0⟩,
      ⟨F.NWT_STATUS_ALERT, .ro, .any, 0⟩,
      ⟨F.NWT_STATUS_IMAGE_INVALID, .ro, .any, 0⟩,
      ⟨F.NWT_STATUS_FUSED_SVN, .ro, .any, 0⟩,
      ⟨F.NWT_STATUS_IMAGE_SVN, .ro, .any, 0⟩,
      ⟨F.NWT_STATUS_SESSIONS, .ro, .any, 0⟩,
      ⟨F.NWT_STATUS_PENDING, .ro, .any, 0⟩]
  | .nwtVersion => [
      ⟨F.NWT_VERSION_IMAGE_VERSION, .ro, .any, 0⟩]
  | .nwtHostCtl => [
      ⟨F.NWT_HOST_CTL_GO, .wo, .any, 0⟩,
      ⟨F.NWT_HOST_CTL_BUSY, .ro, .any, 0⟩,
      ⟨F.NWT_HOST_CTL_DONE, .w1c, .any, 0⟩,
      ⟨F.NWT_HOST_CTL_STATUS, .ro, .any, 0⟩,
      ⟨F.NWT_HOST_CTL_LENGTH, .ro, .any, 0⟩]
  | .nwtHostBuf => [
      ⟨F.NWT_HOST_BUF_DATA, .rw, .any, 0⟩]
  | .nwtSensor => [
      ⟨F.NWT_SENSOR_VALUE, .ro, .any, 0⟩,
      ⟨F.NWT_SENSOR_MIN, .ro, .any, 0⟩,
      ⟨F.NWT_SENSOR_MAX, .ro, .any, 0⟩,
      ⟨F.NWT_SENSOR_WARN_HIGH, .ro, .any, 32767⟩,
      ⟨F.NWT_SENSOR_WARN_LOW, .ro, .any, 32768⟩,
      ⟨F.NWT_SENSOR_VALID, .ro, .any, 0⟩,
      ⟨F.NWT_SENSOR_ABOVE, .ro, .any, 0⟩,
      ⟨F.NWT_SENSOR_BELOW, .ro, .any, 0⟩,
      ⟨F.NWT_SENSOR_ALERT_EN, .ro, .any, 0⟩,
      ⟨F.NWT_SENSOR_AGE, .ro, .any, 0⟩]
  | .prtProfile => [
      ⟨F.PRT_PROFILE_MODE, .rw, (.inR 0 5), 0⟩,
      ⟨F.PRT_PROFILE_PARTITION, .rw, .any, 0⟩,
      ⟨F.PRT_PROFILE_TRAY_INDEX, .rw, .any, 0⟩,
      ⟨F.PRT_PROFILE_TRAY_PROFILE, .rw, .any, 0⟩,
      ⟨F.PRT_PROFILE_TRUST_SLOT, .rw, .any, 0⟩,
      ⟨F.PRT_PROFILE_IDE_REQ, .rw, .any, 1⟩,
      ⟨F.PRT_PROFILE_EAVES_EN, .rw, .any, 1⟩,
      ⟨F.PRT_PROFILE_TRAIN_PROG, .rw, (.inR 0 0), 0⟩]
  | .prtOwner => [
      ⟨F.PRT_OWNER_OWNER, .rwl, .any, 0⟩,
      ⟨F.PRT_OWNER_OWNER_N, .rwl, .any, 255⟩]
  | .prtStatus => [
      ⟨F.PRT_STATUS_TRAIN_STATE, .ro, .any, 0⟩,
      ⟨F.PRT_STATUS_IN_SERVICE, .ro, .any, 0⟩,
      ⟨F.PRT_STATUS_EAVES, .ro, .any, 0⟩,
      ⟨F.PRT_STATUS_LANES, .ro, .any, 0⟩,
      ⟨F.PRT_STATUS_DEGRADED, .ro, .any, 0⟩,
      ⟨F.PRT_STATUS_SPARE_IN_USE, .ro, .any, 0⟩,
      ⟨F.PRT_STATUS_SPARE_LANE, .ro, .any, 0⟩,
      ⟨F.PRT_STATUS_REFCLK_LOST, .ro, .any, 0⟩,
      ⟨F.PRT_STATUS_DOWN_SEEN, .w1c, .any, 0⟩,
      ⟨F.PRT_STATUS_KEY_FAIL_SEEN, .w1c, .any, 0⟩,
      ⟨F.PRT_STATUS_SEAL_FAIL_SEEN, .w1c, .any, 0⟩,
      ⟨F.PRT_STATUS_PARTNER_EID, .ro, .any, 0⟩,
      ⟨F.PRT_STATUS_UNMATCHED, .ro, .any, 0⟩,
      ⟨F.PRT_STATUS_WAKING_DROPS, .ro, .any, 0⟩]
  | .prtLinkCfg => [
      ⟨F.PRT_LINK_CFG_REPLAY_TIMER, .rw, (.inR 25 1600), 100⟩,
      ⟨F.PRT_LINK_CFG_REPLAY_LIMIT, .rw, (.inR 1 14), 4⟩,
      ⟨F.PRT_LINK_CFG_BACKOFF_US, .rw, (.inR 10 4000), 100⟩,
      ⟨F.PRT_LINK_CFG_SEAL_MAX, .rw, (.inR 1 8), 8⟩]
  | .prtErrCnt => [
      ⟨F.PRT_ERR_CNT_CW_UNCORR, .ro, .any, 0⟩,
      ⟨F.PRT_ERR_CNT_SEAL_FAILS, .ro, .any, 0⟩,
      ⟨F.PRT_ERR_CNT_REPLAYS, .ro, .any, 0⟩,
      ⟨F.PRT_ERR_CNT_RETRAINS, .ro, .any, 0⟩]
  | .prtFecCorr => [
      ⟨F.PRT_FEC_CORR_CORRECTED, .ro, .any, 0⟩]
  | .prtKeyStatus => [
      ⟨F.PRT_KEY_STATUS_KEYED, .ro, .any, 0⟩,
      ⟨F.PRT_KEY_STATUS_PHASE, .ro, .any, 0⟩,
      ⟨F.PRT_KEY_STATUS_UPDATING, .ro, .any, 0⟩,
      ⟨F.PRT_KEY_STATUS_GEN, .ro, .any, 0⟩,
      ⟨F.PRT_KEY_STATUS_GROUPS, .ro, .any, 0⟩]
  | .prtCtl => [
      ⟨F.PRT_CTL_RETRAIN, .wo, .any, 0⟩,
      ⟨F.PRT_CTL_CLEAR_COUNTS, .wo, .any, 0⟩]
  | .prtTrain => [
      ⟨F.PRT_TRAIN_STATE, .rw, .any, 0⟩,
      ⟨F.PRT_TRAIN_EVENT, .rw, (.inR 0 11), 0⟩,
      ⟨F.PRT_TRAIN_NEXT, .rw, .any, 0⟩,
      ⟨F.PRT_TRAIN_ACTION, .rw, (.inR 0 13), 0⟩,
      ⟨F.PRT_TRAIN_TIMER, .rw, .any, 0⟩,
      ⟨F.PRT_TRAIN_VALID, .rw, .any, 0⟩,
      ⟨F.PRT_TRAIN_ARG, .rw, .any, 0⟩]
  | .prtTrainTimer => [
      ⟨F.PRT_TRAIN_TIMER_T0, .rw, .any, 0⟩,
      ⟨F.PRT_TRAIN_TIMER_T1, .rw, .any, 0⟩]
  | .rteCfg => [
      ⟨F.RTE_CFG_DEFLECT_SEGS, .rw, (.inR 16 16384), 512⟩,
      ⟨F.RTE_CFG_DEFLECT_EN, .rw, .any, 1⟩,
      ⟨F.RTE_CFG_DEFLECT_MAX, .rw, (.inR 2 15), 8⟩,
      ⟨F.RTE_CFG_GUTTER_SEGS, .rw, (.inR 16 1024), 64⟩]
  | .rteEpoch => [
      ⟨F.RTE_EPOCH_ACTIVE, .ro, .any, 0⟩,
      ⟨F.RTE_EPOCH_OTHER_STATE, .ro, .any, 0⟩,
      ⟨F.RTE_EPOCH_DRAIN, .ro, .any, 0⟩,
      ⟨F.RTE_EPOCH_INSTALLS, .ro, .any, 0⟩]
  | .rteEpochCtl => [
      ⟨F.RTE_EPOCH_CTL_ARM, .wo, .any, 0⟩,
      ⟨F.RTE_EPOCH_CTL_DISARM, .wo, .any, 0⟩,
      ⟨F.RTE_EPOCH_CTL_CLEAR_DROPS, .wo, .any, 0⟩]
  | .rteGutter => [
      ⟨F.RTE_GUTTER_UP_PORT, .rw, .any, 0⟩,
      ⟨F.RTE_GUTTER_ROOT, .rw, .any, 0⟩,
      ⟨F.RTE_GUTTER_SELF_EDGE, .rw, .any, 0⟩]
  | .rteDrops0 => [
      ⟨F.RTE_DROPS0_PARTITION, .ro, .any, 0⟩,
      ⟨F.RTE_DROPS0_STALE, .ro, .any, 0⟩,
      ⟨F.RTE_DROPS0_HOPS, .ro, .any, 0⟩,
      ⟨F.RTE_DROPS0_GUTTER, .ro, .any, 0⟩]
  | .rteDrops1 => [
      ⟨F.RTE_DROPS1_FORMAT, .ro, .any, 0⟩,
      ⟨F.RTE_DROPS1_FENCE_TIMEOUT, .ro, .any, 0⟩,
      ⟨F.RTE_DROPS1_MCAST, .ro, .any, 0⟩]
  | .rteFlowCfg => [
      ⟨F.RTE_FLOW_CFG_FENCE_HOLD_US, .rw, (.inR 10 100000), 1000⟩,
      ⟨F.RTE_FLOW_CFG_DRAIN_HOLD_US, .rw, (.inR 100 1000000), 1000⟩]
  | .rtePgroup => [
      ⟨F.RTE_PGROUP_PORTS_LO, .rw, .any, 0⟩,
      ⟨F.RTE_PGROUP_PORTS_HI, .rw, .any, 0⟩]
  | .rteRoute => [
      ⟨F.RTE_ROUTE_KIND, .rw, .any, 0⟩,
      ⟨F.RTE_ROUTE_PGROUP, .rw, .any, 0⟩,
      ⟨F.RTE_ROUTE_PORT, .rw, .any, 0⟩,
      ⟨F.RTE_ROUTE_G_BELOW, .rw, .any, 0⟩,
      ⟨F.RTE_ROUTE_G_PORT, .rw, .any, 0⟩,
      ⟨F.RTE_ROUTE_EDGE, .rw, .any, 0⟩]
  | .rteMcast => [
      ⟨F.RTE_MCAST_PORTS, .rw, .any, 0⟩,
      ⟨F.RTE_MCAST_LOCAL, .rw, .any, 0⟩,
      ⟨F.RTE_MCAST_VALID, .rw, .any, 0⟩,
      ⟨F.RTE_MCAST_PARTITION, .rw, .any, 0⟩]
  | .swcCfg => [
      ⟨F.SWC_CFG_REASM_TO, .rw, (.inR 10 10000), 200⟩]
  | .swcFree => [
      ⟨F.SWC_FREE_FREE_SEGS, .ro, .any, 0⟩,
      ⟨F.SWC_FREE_FREE_DESC, .ro, .any, 0⟩]
  | .swcDrops => [
      ⟨F.SWC_DROPS_REASM_TIMEOUTS, .ro, .any, 0⟩,
      ⟨F.SWC_DROPS_ORPHAN_SEGS, .ro, .any, 0⟩,
      ⟨F.SWC_DROPS_QUOTA_DROPS, .ro, .any, 0⟩,
      ⟨F.SWC_DROPS_FLUSHED, .ro, .any, 0⟩]
  | .swcCtl => [
      ⟨F.SWC_CTL_AUDIT, .wo, .any, 0⟩,
      ⟨F.SWC_CTL_CLEAR_DROPS, .wo, .any, 0⟩]
  | .swcAudit => [
      ⟨F.SWC_AUDIT_RUNNING, .ro, .any, 0⟩,
      ⟨F.SWC_AUDIT_DONE_SEEN, .w1c, .any, 0⟩,
      ⟨F.SWC_AUDIT_RETIRED_SEEN, .w1c, .any, 0⟩,
      ⟨F.SWC_AUDIT_LEAKED, .ro, .any, 0⟩,
      ⟨F.SWC_AUDIT_DOUBLE, .ro, .any, 0⟩,
      ⟨F.SWC_AUDIT_RETIRED, .ro, .any, 0⟩]
  | .swcSampleCfg => [
      ⟨F.SWC_SAMPLE_CFG_EN, .rw, .any, 0⟩,
      ⟨F.SWC_SAMPLE_CFG_LOG2N, .rw, (.inR 4 24), 16⟩]
  | .swcSampleFilter => [
      ⟨F.SWC_SAMPLE_FILTER_PARTITIONS, .rw, .any, 0⟩]
  | .swcSampleStatus => [
      ⟨F.SWC_SAMPLE_STATUS_TAKEN, .ro, .any, 0⟩,
      ⟨F.SWC_SAMPLE_STATUS_RING_DROPS, .ro, .any, 0⟩,
      ⟨F.SWC_SAMPLE_STATUS_RATE_DROPS, .ro, .any, 0⟩]
  | .swcQuota => [
      ⟨F.SWC_QUOTA_MIN_UNITS, .rwl, .any, 0⟩,
      ⟨F.SWC_QUOTA_MAX_UNITS, .rwl, (.inR 0 393216), 0⟩,
      ⟨F.SWC_QUOTA_SAMPLE_OK, .rwl, .any, 0⟩]
  | .swcUsage => [
      ⟨F.SWC_USAGE_USED, .ro, .any, 0⟩,
      ⟨F.SWC_USAGE_PEAK, .ro, .any, 0⟩]
  | .tmgCfg => [
      ⟨F.TMG_CFG_REFILL_US, .rw, (.inR 1 1000), 1⟩,
      ⟨F.TMG_CFG_YELLOW_FREE, .rw, (.inR 0 196608), 16384⟩]
  | .tmgStatus => [
      ⟨F.TMG_STATUS_REFILLS, .ro, .any, 0⟩,
      ⟨F.TMG_STATUS_CHECKS, .ro, .any, 0⟩]
  | .tmgCtl => [
      ⟨F.TMG_CTL_CLEAR_COUNTS, .wo, .any, 0⟩]
  | .tmgMeterRate => [
      ⟨F.TMG_METER_RATE_CIR, .rw, (.inR 0 1000000), 0⟩,
      ⟨F.TMG_METER_RATE_PIR, .rw, (.inR 0 1000000), 0⟩,
      ⟨F.TMG_METER_RATE_EN, .rw, .any, 0⟩]
  | .tmgMeterBurst => [
      ⟨F.TMG_METER_BURST_CBS, .rw, (.inR 17 65534), 64⟩,
      ⟨F.TMG_METER_BURST_PBS, .rw, (.inR 17 65534), 64⟩]
  | .tmgMeterState => [
      ⟨F.TMG_METER_STATE_TOK_C, .ro, .any, 0⟩,
      ⟨F.TMG_METER_STATE_TOK_P, .ro, .any, 0⟩]
  | .tmgMeterCnt => [
      ⟨F.TMG_METER_CNT_YELLOW_DROPS, .ro, .any, 0⟩,
      ⟨F.TMG_METER_CNT_RED_DROPS, .ro, .any, 0⟩]
  | .tmgClass => [
      ⟨F.TMG_CLASS_WEIGHT0, .rw, (.inR 1 127), 16⟩,
      ⟨F.TMG_CLASS_WEIGHT1, .rw, (.inR 1 127), 16⟩,
      ⟨F.TMG_CLASS_WEIGHT2, .rw, (.inR 1 127), 16⟩,
      ⟨F.TMG_CLASS_WEIGHT3, .rw, (.inR 1 127), 16⟩,
      ⟨F.TMG_CLASS_WEIGHT4, .rw, (.inR 1 127), 16⟩,
      ⟨F.TMG_CLASS_WEIGHT5, .rw, (.inR 1 127), 16⟩,
      ⟨F.TMG_CLASS_WEIGHT6, .rw, (.inR 1 127), 16⟩,
      ⟨F.TMG_CLASS_WEIGHT7, .rw, (.inR 1 127), 16⟩,
      ⟨F.TMG_CLASS_STRICT, .rw, .any, 0⟩]
  | .tmgOutRate => [
      ⟨F.TMG_OUT_RATE_CIR, .rw, (.inR 0 1000000), 0⟩,
      ⟨F.TMG_OUT_RATE_PIR, .rw, (.inR 0 1000000), 0⟩,
      ⟨F.TMG_OUT_RATE_EN, .rw, .any, 0⟩,
      ⟨F.TMG_OUT_RATE_WEIGHT, .rw, (.inR 1 1023), 16⟩]
  | .tmgOutBurst => [
      ⟨F.TMG_OUT_BURST_CBS, .rw, (.inR 17 65534), 64⟩,
      ⟨F.TMG_OUT_BURST_PBS, .rw, (.inR 17 65534), 64⟩]
  | .homCtl => [
      ⟨F.HOM_CTL_PREDICT_EN, .rw, .any, 1⟩,
      ⟨F.HOM_CTL_FORCE_NEAR, .rw, .any, 0⟩,
      ⟨F.HOM_CTL_READ_COMBINE_EN, .rw, .any, 1⟩,
      ⟨F.HOM_CTL_FAA_COMBINE_EN, .rw, .any, 1⟩,
      ⟨F.HOM_CTL_FAA_WINDOW, .rw, (.inR 0 100), 5⟩,
      ⟨F.HOM_CTL_HB_MS, .rw, (.inR 1 1000), 10⟩]
  | .homStatus => [
      ⟨F.HOM_STATUS_LOST_USED, .ro, .any, 0⟩,
      ⟨F.HOM_STATUS_TILE_MODE_SEEN, .w1c, .any, 0⟩,
      ⟨F.HOM_STATUS_WIDE_SEEN, .w1c, .any, 0⟩,
      ⟨F.HOM_STATUS_STRAY, .ro, .any, 0⟩,
      ⟨F.HOM_STATUS_RETRIES, .ro, .any, 0⟩]
  | .homLostWide => [
      ⟨F.HOM_LOST_WIDE_WIDE, .ro, .any, 0⟩]
  | .homVregion => [
      ⟨F.HOM_VREGION_BASE_TILE, .rwl, .any, 0⟩,
      ⟨F.HOM_VREGION_PARTITION, .rwl, .any, 0⟩,
      ⟨F.HOM_VREGION_VALID, .rwl, .any, 0⟩,
      ⟨F.HOM_VREGION_TILES, .rwl, .any, 0⟩,
      ⟨F.HOM_VREGION_CURRENT, .ro, .any, 0⟩,
      ⟨F.HOM_VREGION_ISSUED, .ro, .any, 0⟩,
      ⟨F.HOM_VREGION_LIVE, .ro, .any, 0⟩]
  | .homOwn => [
      ⟨F.HOM_OWN_VALID, .ro, .any, 0⟩,
      ⟨F.HOM_OWN_STATE, .ro, .any, 0⟩,
      ⟨F.HOM_OWN_PARTITION, .ro, .any, 0⟩,
      ⟨F.HOM_OWN_ADDR, .ro, .any, 0⟩,
      ⟨F.HOM_OWN_OWNER, .ro, .any, 0⟩,
      ⟨F.HOM_OWN_NEXT, .ro, .any, 0⟩,
      ⟨F.HOM_OWN_DEADLINE, .ro, .any, 0⟩]
  | .homHost => [
      ⟨F.HOM_HOST_PARTITION, .rwl, .any, 0⟩,
      ⟨F.HOM_HOST_CACHING, .rwl, .any, 0⟩,
      ⟨F.HOM_HOST_FAILED, .w1c, .any, 0⟩,
      ⟨F.HOM_HOST_WALKING, .ro, .any, 0⟩,
      ⟨F.HOM_HOST_DECLARE, .wo, .any, 0⟩,
      ⟨F.HOM_HOST_ASSIGNED, .rwl, .any, 0⟩,
      ⟨F.HOM_HOST_LOST_LINES, .ro, .any, 0⟩]
  | .homLost => [
      ⟨F.HOM_LOST_VALID, .ro, .any, 0⟩,
      ⟨F.HOM_LOST_GRAN, .ro, .any, 0⟩,
      ⟨F.HOM_LOST_PARTITION, .ro, .any, 0⟩,
      ⟨F.HOM_LOST_ADDR, .ro, .any, 0⟩]
  | .tirDomainId => [
      ⟨F.TIR_DOMAIN_ID_DOMAIN, .rw, .any, 0⟩]
  | .tirFtlCfg0 => [
      ⟨F.TIR_FTL_CFG0_GC_LOW, .rw, (.inR 1 20), 2⟩,
      ⟨F.TIR_FTL_CFG0_GC_HIGH, .rw, (.inR 0 30), 4⟩,
      ⟨F.TIR_FTL_CFG0_OP, .rw, (.inR 4 50), 7⟩,
      ⟨F.TIR_FTL_CFG0_BG_SHARE, .rw, (.inR 1 50), 10⟩]
  | .tirFtlCfg1 => [
      ⟨F.TIR_FTL_CFG1_WL_DELTA, .rw, (.inR 100 10000), 1000⟩,
      ⟨F.TIR_FTL_CFG1_RD_THRESH, .rw, (.inR 1000 1000000), 60000⟩,
      ⟨F.TIR_FTL_CFG1_SPARE_LOW, .rw, (.inR 1 10), 2⟩]
  | .tirTierCfg => [
      ⟨F.TIR_TIER_CFG_CLEAN_MS, .rw, (.inR 1 60000), 1000⟩,
      ⟨F.TIR_TIER_CFG_PRESS_LOW, .rw, (.inR 1 25), 1⟩,
      ⟨F.TIR_TIER_CFG_PRESS_HIGH, .rw, (.inR 0 50), 2⟩]
  | .tirTrayStatus => [
      ⟨F.TIR_TRAY_STATUS_STATE, .ro, .any, 0⟩,
      ⟨F.TIR_TRAY_STATUS_MODE_C, .ro, .any, 0⟩,
      ⟨F.TIR_TRAY_STATUS_PROFILE, .ro, .any, 0⟩,
      ⟨F.TIR_TRAY_STATUS_DRAM_CH, .ro, .any, 0⟩,
      ⟨F.TIR_TRAY_STATUS_FLASH_CH, .ro, .any, 0⟩,
      ⟨F.TIR_TRAY_STATUS_LOST_SEEN, .w1c, .any, 0⟩,
      ⟨F.TIR_TRAY_STATUS_SPARE_LOW, .w1c, .any, 0⟩,
      ⟨F.TIR_TRAY_STATUS_UNMATCHED, .ro, .any, 0⟩]
  | .tirProf => [
      ⟨F.TIR_PROF_STATE, .rw, .any, 0⟩,
      ⟨F.TIR_PROF_EVENT, .rw, (.inR 0 8), 0⟩,
      ⟨F.TIR_PROF_NEXT, .rw, .any, 0⟩,
      ⟨F.TIR_PROF_ACTION, .rw, (.inR 0 9), 0⟩,
      ⟨F.TIR_PROF_TIMER, .rw, .any, 0⟩,
      ⟨F.TIR_PROF_VALID, .rw, .any, 0⟩,
      ⟨F.TIR_PROF_ARG, .rw, .any, 0⟩]
  | .tirProfTimer => [
      ⟨F.TIR_PROF_TIMER_T0, .rw, .any, 0⟩,
      ⟨F.TIR_PROF_TIMER_T1, .rw, .any, 0⟩]
  | .tirDportMap => [
      ⟨F.TIR_DPORT_MAP_POOL_BASE, .rwl, .any, 0⟩,
      ⟨F.TIR_DPORT_MAP_SIZE, .rwl, .any, 0⟩,
      ⟨F.TIR_DPORT_MAP_VALID, .rwl, .any, 0⟩]
  | .ptnState => [
      ⟨F.PTN_STATE_STATE, .ro, .any, 0⟩,
      ⟨F.PTN_STATE_LARGE, .ro, .any, 0⟩,
      ⟨F.PTN_STATE_SCRUB_ERR, .w1c, .any, 0⟩,
      ⟨F.PTN_STATE_SEALS, .ro, .any, 0⟩]
  | .ptnPart => [
      ⟨F.PTN_PART_VALID, .rw, .any, 0⟩,
      ⟨F.PTN_PART_LOCAL, .rw, .any, 0⟩]
  | .ptnOwnWg => [
      ⟨F.PTN_OWN_WG_OWNER0, .rwl, .any, 0⟩,
      ⟨F.PTN_OWN_WG_OWNER_N0, .rwl, .any, 255⟩,
      ⟨F.PTN_OWN_WG_OWNER1, .rwl, .any, 0⟩,
      ⟨F.PTN_OWN_WG_OWNER_N1, .rwl, .any, 255⟩,
      ⟨F.PTN_OWN_WG_OWNER2, .rwl, .any, 0⟩,
      ⟨F.PTN_OWN_WG_OWNER_N2, .rwl, .any, 255⟩,
      ⟨F.PTN_OWN_WG_OWNER3, .rwl, .any, 0⟩,
      ⟨F.PTN_OWN_WG_OWNER_N3, .rwl, .any, 255⟩]
  | .ptnOwnBank => [
      ⟨F.PTN_OWN_BANK_OWNER0, .rwl, .any, 0⟩,
      ⟨F.PTN_OWN_BANK_OWNER_N0, .rwl, .any, 255⟩,
      ⟨F.PTN_OWN_BANK_OWNER1, .rwl, .any, 0⟩,
      ⟨F.PTN_OWN_BANK_OWNER_N1, .rwl, .any, 255⟩,
      ⟨F.PTN_OWN_BANK_OWNER2, .rwl, .any, 0⟩,
      ⟨F.PTN_OWN_BANK_OWNER_N2, .rwl, .any, 255⟩,
      ⟨F.PTN_OWN_BANK_OWNER3, .rwl, .any, 0⟩,
      ⟨F.PTN_OWN_BANK_OWNER_N3, .rwl, .any, 255⟩]
  | .ptnOwnHbm => [
      ⟨F.PTN_OWN_HBM_OWNER0, .rwl, .any, 0⟩,
      ⟨F.PTN_OWN_HBM_OWNER_N0, .rwl, .any, 255⟩,
      ⟨F.PTN_OWN_HBM_OWNER1, .rwl, .any, 0⟩,
      ⟨F.PTN_OWN_HBM_OWNER_N1, .rwl, .any, 255⟩,
      ⟨F.PTN_OWN_HBM_OWNER2, .rwl, .any, 0⟩,
      ⟨F.PTN_OWN_HBM_OWNER_N2, .rwl, .any, 255⟩,
      ⟨F.PTN_OWN_HBM_OWNER3, .rwl, .any, 0⟩,
      ⟨F.PTN_OWN_HBM_OWNER_N3, .rwl, .any, 255⟩]
  | .ptnOwnDram => [
      ⟨F.PTN_OWN_DRAM_OWNER0, .rwl, .any, 0⟩,
      ⟨F.PTN_OWN_DRAM_OWNER_N0, .rwl, .any, 255⟩,
      ⟨F.PTN_OWN_DRAM_OWNER1, .rwl, .any, 0⟩,
      ⟨F.PTN_OWN_DRAM_OWNER_N1, .rwl, .any, 255⟩,
      ⟨F.PTN_OWN_DRAM_OWNER2, .rwl, .any, 0⟩,
      ⟨F.PTN_OWN_DRAM_OWNER_N2, .rwl, .any, 255⟩,
      ⟨F.PTN_OWN_DRAM_OWNER3, .rwl, .any, 0⟩,
      ⟨F.PTN_OWN_DRAM_OWNER_N3, .rwl, .any, 255⟩]
  | .ptnOwnFlash => [
      ⟨F.PTN_OWN_FLASH_OWNER0, .rwl, .any, 0⟩,
      ⟨F.PTN_OWN_FLASH_OWNER_N0, .rwl, .any, 255⟩,
      ⟨F.PTN_OWN_FLASH_OWNER1, .rwl, .any, 0⟩,
      ⟨F.PTN_OWN_FLASH_OWNER_N1, .rwl, .any, 255⟩,
      ⟨F.PTN_OWN_FLASH_OWNER2, .rwl, .any, 0⟩,
      ⟨F.PTN_OWN_FLASH_OWNER_N2, .rwl, .any, 255⟩,
      ⟨F.PTN_OWN_FLASH_OWNER3, .rwl, .any, 0⟩,
      ⟨F.PTN_OWN_FLASH_OWNER_N3, .rwl, .any, 255⟩]
  | .ptnOwnTrayc => [
      ⟨F.PTN_OWN_TRAYC_OWNER0, .rwl, .any, 0⟩,
      ⟨F.PTN_OWN_TRAYC_OWNER_N0, .rwl, .any, 255⟩,
      ⟨F.PTN_OWN_TRAYC_OWNER1, .rwl, .any, 0⟩,
      ⟨F.PTN_OWN_TRAYC_OWNER_N1, .rwl, .any, 255⟩,
      ⟨F.PTN_OWN_TRAYC_OWNER2, .rwl, .any, 0⟩,
      ⟨F.PTN_OWN_TRAYC_OWNER_N2, .rwl, .any, 255⟩,
      ⟨F.PTN_OWN_TRAYC_OWNER3, .rwl, .any, 0⟩,
      ⟨F.PTN_OWN_TRAYC_OWNER_N3, .rwl, .any, 255⟩]
  | .ptnTrust => [
      ⟨F.PTN_TRUST_DIGEST0, .rw, .any, 0⟩,
      ⟨F.PTN_TRUST_DIGEST1, .rw, .any, 0⟩,
      ⟨F.PTN_TRUST_DIGEST2, .rw, .any, 0⟩,
      ⟨F.PTN_TRUST_DIGEST3, .rw, .any, 0⟩,
      ⟨F.PTN_TRUST_DIGEST4, .rw, .any, 0⟩,
      ⟨F.PTN_TRUST_DIGEST5, .rw, .any, 0⟩,
      ⟨F.PTN_TRUST_DIGEST6, .rw, .any, 0⟩,
      ⟨F.PTN_TRUST_DIGEST7, .rw, .any, 0⟩]
  | .ptnRange => [
      ⟨F.PTN_RANGE_BASE_TILE, .rw, .any, 0⟩,
      ⟨F.PTN_RANGE_PARTITION, .rw, .any, 0⟩,
      ⟨F.PTN_RANGE_KIND, .rw, (.inR 0 2), 0⟩,
      ⟨F.PTN_RANGE_POLICY, .rw, (.inR 0 1), 0⟩,
      ⟨F.PTN_RANGE_REPLICA_EN, .rw, .any, 0⟩,
      ⟨F.PTN_RANGE_TILES, .rw, .any, 0⟩,
      ⟨F.PTN_RANGE_REPLICA_IDX, .rw, .any, 0⟩,
      ⟨F.PTN_RANGE_META_TRAY, .rw, .any, 0⟩,
      ⟨F.PTN_RANGE_META_CHAN, .rw, .any, 0⟩,
      ⟨F.PTN_RANGE_TABLE_BASE, .rw, .any, 0⟩,
      ⟨F.PTN_RANGE_TRAY_MASK, .rw, .any, 0⟩]
  | .keyStatus => [
      ⟨F.KEY_STATUS_TRNG_FAIL, .ro, .any, 0⟩,
      ⟨F.KEY_STATUS_TRNG_FAIL_SEEN, .w1c, .any, 0⟩,
      ⟨F.KEY_STATUS_RESEEDS, .ro, .any, 0⟩]
  | .keyMem => [
      ⟨F.KEY_MEM_NEWEST, .ro, .any, 0⟩,
      ⟨F.KEY_MEM_LIVE, .ro, .any, 0⟩,
      ⟨F.KEY_MEM_SWEEPING, .ro, .any, 0⟩,
      ⟨F.KEY_MEM_DESTROYED, .ro, .any, 0⟩,
      ⟨F.KEY_MEM_TILES0, .ro, .any, 0⟩,
      ⟨F.KEY_MEM_TILES1, .ro, .any, 0⟩,
      ⟨F.KEY_MEM_TILES2, .ro, .any, 0⟩,
      ⟨F.KEY_MEM_TILES3, .ro, .any, 0⟩,
      ⟨F.KEY_MEM_SWEPT, .ro, .any, 0⟩]
  | .celOwner => [
      ⟨F.CEL_OWNER_OWNER, .rwl, .any, 0⟩,
      ⟨F.CEL_OWNER_OWNER_N, .rwl, .any, 255⟩]
  | .celCfg => [
      ⟨F.CEL_CFG_COLL_TO_US, .rwl, (.inR 10 100000), 200⟩,
      ⟨F.CEL_CFG_EARLY_SEGS, .rwl, (.inR 0 128), 64⟩,
      ⟨F.CEL_CFG_COMPAT_EN, .rwl, .any, 1⟩]
  | .celStatus => [
      ⟨F.CEL_STATUS_CTX_USED, .ro, .any, 0⟩,
      ⟨F.CEL_STATUS_RUNNING, .ro, .any, 0⟩,
      ⟨F.CEL_STATUS_COMPAT, .ro, .any, 0⟩,
      ⟨F.CEL_STATUS_ABORT_SEEN, .w1c, .any, 0⟩,
      ⟨F.CEL_STATUS_RESETTING, .ro, .any, 0⟩,
      ⟨F.CEL_STATUS_DUP_DROPS, .ro, .any, 0⟩,
      ⟨F.CEL_STATUS_STRAY_DROPS, .ro, .any, 0⟩,
      ⟨F.CEL_STATUS_EARLY_DROPS, .ro, .any, 0⟩]
  | .celOutstanding => [
      ⟨F.CEL_OUTSTANDING_POOL_REQS, .ro, .any, 0⟩,
      ⟨F.CEL_OUTSTANDING_REMOTE_WR, .ro, .any, 0⟩,
      ⟨F.CEL_OUTSTANDING_STG_REQS, .ro, .any, 0⟩]
  | .celCtl => [
      ⟨F.CEL_CTL_RESET, .wo, .any, 0⟩]
  | .mtxOwner => [
      ⟨F.MTX_OWNER_OWNER, .rwl, .any, 0⟩,
      ⟨F.MTX_OWNER_OWNER_N, .rwl, .any, 255⟩]
  | .mtxStatus => [
      ⟨F.MTX_STATUS_RUNNING, .ro, .any, 0⟩,
      ⟨F.MTX_STATUS_ENCODING, .ro, .any, 0⟩,
      ⟨F.MTX_STATUS_RESETTING, .ro, .any, 0⟩,
      ⟨F.MTX_STATUS_MALFORMED, .ro, .any, 0⟩]
  | .mtxOutstanding => [
      ⟨F.MTX_OUTSTANDING_POOL_REQS, .ro, .any, 0⟩,
      ⟨F.MTX_OUTSTANDING_REMOTE_WR, .ro, .any, 0⟩,
      ⟨F.MTX_OUTSTANDING_STG_REQS, .ro, .any, 0⟩]
  | .mtxCtl => [
      ⟨F.MTX_CTL_RESET, .wo, .any, 0⟩]
  | .cdcSlot => [
      ⟨F.CDC_SLOT_OWNER, .rwl, .any, 0⟩,
      ⟨F.CDC_SLOT_OWNER_N, .rwl, .any, 255⟩,
      ⟨F.CDC_SLOT_STATE, .ro, .any, 0⟩,
      ⟨F.CDC_SLOT_RATE, .ro, .any, 0⟩,
      ⟨F.CDC_SLOT_GEN, .ro, .any, 0⟩,
      ⟨F.CDC_SLOT_REFS, .ro, .any, 0⟩]
  | .cdcTable => [
      ⟨F.CDC_TABLE_CENTROIDS, .ro, .any, 0⟩]
  | .seqCtl => [
      ⟨F.SEQ_CTL_WD_MARGIN, .rw, (.inR 0 100), 25⟩]
  | .seqStatus => [
      ⟨F.SEQ_STATUS_ORPHAN_REPLIES, .ro, .any, 0⟩,
      ⟨F.SEQ_STATUS_OVERRUNS, .ro, .any, 0⟩,
      ⟨F.SEQ_STATUS_DOORBELL_ERRORS, .ro, .any, 0⟩,
      ⟨F.SEQ_STATUS_FABRIC_BUSY, .ro, .any, 0⟩]
  | .seqCblkOwner => [
      ⟨F.SEQ_CBLK_OWNER_OWNER0, .rwl, .any, 0⟩,
      ⟨F.SEQ_CBLK_OWNER_OWNER_N0, .rwl, .any, 255⟩,
      ⟨F.SEQ_CBLK_OWNER_OWNER1, .rwl, .any, 0⟩,
      ⟨F.SEQ_CBLK_OWNER_OWNER_N1, .rwl, .any, 255⟩,
      ⟨F.SEQ_CBLK_OWNER_OWNER2, .rwl, .any, 0⟩,
      ⟨F.SEQ_CBLK_OWNER_OWNER_N2, .rwl, .any, 255⟩,
      ⟨F.SEQ_CBLK_OWNER_OWNER3, .rwl, .any, 0⟩,
      ⟨F.SEQ_CBLK_OWNER_OWNER_N3, .rwl, .any, 255⟩]
  | .seqQCfg => [
      ⟨F.SEQ_Q_CFG_SOURCE, .rwl, .any, 0⟩,
      ⟨F.SEQ_Q_CFG_PRIORITY, .rwl, .any, 7⟩,
      ⟨F.SEQ_Q_CFG_ENGINE_SET, .rwl, (.inR 0 2), 0⟩,
      ⟨F.SEQ_Q_CFG_ENGINE, .rwl, (.inR 0 79), 0⟩,
      ⟨F.SEQ_Q_CFG_JOB, .rwl, .any, 0⟩,
      ⟨F.SEQ_Q_CFG_FRAME_US, .rwl, (.zeroOr 10 1000000), 0⟩]
  | .seqQSched => [
      ⟨F.SEQ_Q_SCHED_BUDGET_US, .rwl, .any, 0⟩,
      ⟨F.SEQ_Q_SCHED_PHASE_US, .rwl, .any, 0⟩,
      ⟨F.SEQ_Q_SCHED_MAX_ACTIVE, .rwl, (.inR 1 64), 1⟩]
  | .seqQSqBase => [
      ⟨F.SEQ_Q_SQ_BASE_ADDR, .rw, .any, 0⟩]
  | .seqQCqBase => [
      ⟨F.SEQ_Q_CQ_BASE_ADDR, .rw, .any, 0⟩]
  | .seqQRing => [
      ⟨F.SEQ_Q_RING_SQ_ENTRIES, .rw, (.pow2 16 65536), 0⟩,
      ⟨F.SEQ_Q_RING_CQ_ENTRIES, .rw, (.pow2 16 65536), 0⟩,
      ⟨F.SEQ_Q_RING_VECTOR, .rw, .any, 0⟩]
  | .seqQState => [
      ⟨F.SEQ_Q_STATE_ENABLED, .ro, .any, 0⟩,
      ⟨F.SEQ_Q_STATE_SUSPENDED, .ro, .any, 0⟩,
      ⟨F.SEQ_Q_STATE_BOOSTED, .ro, .any, 0⟩,
      ⟨F.SEQ_Q_STATE_EFF_PRIORITY, .ro, .any, 7⟩,
      ⟨F.SEQ_Q_STATE_HALTED, .ro, .any, 0⟩,
      ⟨F.SEQ_Q_STATE_OVERRUN_SEEN, .w1c, .any, 0⟩,
      ⟨F.SEQ_Q_STATE_ACTIVE, .ro, .any, 0⟩,
      ⟨F.SEQ_Q_STATE_SQ_HEAD, .ro, .any, 0⟩,
      ⟨F.SEQ_Q_STATE_BUDGET_LEFT, .ro, .any, 0⟩]
  | .seqQCtl => [
      ⟨F.SEQ_Q_CTL_ENABLE, .wo, .any, 0⟩,
      ⟨F.SEQ_Q_CTL_DISABLE, .wo, .any, 0⟩]
  | .seqCounter => [
      ⟨F.SEQ_COUNTER_VALUE, .ro, .any, 0⟩,
      ⟨F.SEQ_COUNTER_MODE, .ro, .any, 0⟩,
      ⟨F.SEQ_COUNTER_SCOPE, .ro, .any, 0⟩,
      ⟨F.SEQ_COUNTER_OWNER_JOB, .ro, .any, 0⟩]
  | .errCfg => [
      ⟨F.ERR_CFG_CE_LOG_EVERY, .rw, (.inR 0 65534), 1024⟩]
  | .errStatus => [
      ⟨F.ERR_STATUS_HEAD, .ro, .any, 0⟩,
      ⟨F.ERR_STATUS_HOST_LOST, .ro, .any, 0⟩,
      ⟨F.ERR_STATUS_UE_SEEN, .w1c, .any, 0⟩,
      ⟨F.ERR_STATUS_FAULT_SEEN, .w1c, .any, 0⟩]
  | .errHostTail => [
      ⟨F.ERR_HOST_TAIL_TAIL, .rw, .any, 0⟩]
  | .errRepairAddr => [
      ⟨F.ERR_REPAIR_ADDR_OFFSET, .rw, .any, 0⟩]
  | .errRepairCtl => [
      ⟨F.ERR_REPAIR_CTL_GO, .wo, .any, 0⟩]
  | .errRepairData => [
      ⟨F.ERR_REPAIR_DATA_DATA, .rw, .any, 0⟩]
  | .errShadowCfg => [
      ⟨F.ERR_SHADOW_CFG_MODE, .rw, (.inR 0 2), 0⟩,
      ⟨F.ERR_SHADOW_CFG_PARTITION, .rw, .any, 0⟩,
      ⟨F.ERR_SHADOW_CFG_PEER_EID, .rw, .any, 0⟩,
      ⟨F.ERR_SHADOW_CFG_TC, .rw, .any, 0⟩]
  | .errShadowTol => [
      ⟨F.ERR_SHADOW_TOL_RTOL, .rw, .fp32, 931135488⟩,
      ⟨F.ERR_SHADOW_TOL_ABS_FLOOR, .rw, .fp32, 864026624⟩]
  | .errShadowStatus => [
      ⟨F.ERR_SHADOW_STATUS_COMPARED, .ro, .any, 0⟩,
      ⟨F.ERR_SHADOW_STATUS_MISMATCHES, .ro, .any, 0⟩,
      ⟨F.ERR_SHADOW_STATUS_MISSING, .ro, .any, 0⟩,
      ⟨F.ERR_SHADOW_STATUS_TAP_DROPS, .ro, .any, 0⟩]
  | .errCeCnt => [
      ⟨F.ERR_CE_CNT_CE, .ro, .any, 0⟩,
      ⟨F.ERR_CE_CNT_UE, .ro, .any, 0⟩]
  | .errFaultCfg => [
      ⟨F.ERR_FAULT_CFG_NOTIFY_EID, .rwl, .any, 0⟩,
      ⟨F.ERR_FAULT_CFG_NOTIFY_EN, .rwl, .any, 0⟩,
      ⟨F.ERR_FAULT_CFG_NOTIFY_TC, .rwl, .any, 7⟩,
      ⟨F.ERR_FAULT_CFG_VECTOR, .rwl, .any, 0⟩]
  | .errFaultPtr => [
      ⟨F.ERR_FAULT_PTR_HEAD, .ro, .any, 0⟩,
      ⟨F.ERR_FAULT_PTR_TAIL, .rw, .any, 0⟩,
      ⟨F.ERR_FAULT_PTR_OVERFLOWS, .ro, .any, 0⟩]
  | .errFault => [
      ⟨F.ERR_FAULT_FSEQ, .ro, .any, 0⟩,
      ⟨F.ERR_FAULT_STATUS, .ro, .any, 0⟩,
      ⟨F.ERR_FAULT_CAUSE, .ro, .any, 0⟩,
      ⟨F.ERR_FAULT_COUNT, .ro, .any, 0⟩,
      ⟨F.ERR_FAULT_ADDR_KIND, .ro, .any, 0⟩,
      ⟨F.ERR_FAULT_TIME, .ro, .any, 0⟩,
      ⟨F.ERR_FAULT_ADDR, .ro, .any, 0⟩,
      ⟨F.ERR_FAULT_EID, .ro, .any, 0⟩,
      ⟨F.ERR_FAULT_PORT, .ro, .any, 0⟩,
      ⟨F.ERR_FAULT_LOG_SEQ, .ro, .any, 0⟩]
  | .errLog => [
      ⟨F.ERR_LOG_TIME, .ro, .any, 0⟩,
      ⟨F.ERR_LOG_STATUS, .ro, .any, 0⟩,
      ⟨F.ERR_LOG_PLANE, .ro, .any, 0⟩,
      ⟨F.ERR_LOG_PARTITION, .ro, .any, 0⟩,
      ⟨F.ERR_LOG_PART_VALID, .ro, .any, 0⟩,
      ⟨F.ERR_LOG_FAULT, .ro, .any, 0⟩,
      ⟨F.ERR_LOG_EVENT, .ro, .any, 0⟩,
      ⟨F.ERR_LOG_ADDR_KIND, .ro, .any, 0⟩,
      ⟨F.ERR_LOG_SUBSYS, .ro, .any, 0⟩,
      ⟨F.ERR_LOG_ADDR, .ro, .any, 0⟩,
      ⟨F.ERR_LOG_SRC_EID, .ro, .any, 0⟩,
      ⟨F.ERR_LOG_PORT, .ro, .any, 0⟩,
      ⟨F.ERR_LOG_QUEUE, .ro, .any, 0⟩,
      ⟨F.ERR_LOG_TAG, .ro, .any, 0⟩,
      ⟨F.ERR_LOG_DETAIL, .ro, .any, 0⟩,
      ⟨F.ERR_LOG_SEQ_NO, .ro, .any, 0⟩]

/-- The number of 64-bit words of an entry, its complement not counted. -/
def RegKind.words : RegKind → Nat
  | .nwtSensor => 2
  | .rtePgroup => 2
  | .rteMcast => 4
  | .homVregion => 4
  | .homOwn => 4
  | .ptnTrust => 8
  | .ptnRange => 4
  | .keyMem => 8
  | .seqCounter => 2
  | .errFault => 4
  | .errLog => 8
  | _ => 1

/-- Whether the entry is followed by its ones' complement (R77, R539). -/
def RegKind.hasComplement : RegKind → Bool
  | .rteGutter => true
  | .rtePgroup => true
  | .rteRoute => true
  | .rteMcast => true
  | .tmgMeterState => true
  | .homLost => true
  | .ptnPart => true
  | .ptnRange => true
  | .keyMem => true
  | .seqCounter => true
  | _ => false

/-- A register word: its register, the indices, the address of the entry and the word's number in it. -/
structure Loc where
  kind : RegKind
  i : Nat
  j : Nat
  k : Nat
  base : Nat
  word : Nat
deriving DecidableEq, Repr

/-- One dimension of a register array. -/
structure Dim where
  stride : Nat
  count : Nat
deriving DecidableEq, Repr

/-- One row of a register list. -/
structure Row where
  kind : RegKind
  base : Nat
  dims : List Dim
deriving DecidableEq, Repr


/-- The register list of block GLB. -/
def rowsGLB : List Row := [
  ⟨.glbStraps, 0x0, []⟩,
  ⟨.glbBootStatus, 0x8, []⟩,
  ⟨.glbResetCtl, 0x10, []⟩,
  ⟨.glbResetCause, 0x18, []⟩,
  ⟨.glbClkStatus, 0x20, []⟩,
  ⟨.glbId, 0x28, []⟩,
  ⟨.glbSerial, 0x30, []⟩,
  ⟨.glbTimers0, 0x38, []⟩,
  ⟨.glbTimers1, 0x40, []⟩,
  ⟨.glbPadCfg, 0x100, [⟨0x8, 8⟩]⟩]

/-- The register list of block PCE. -/
def rowsPCE : List Row := [
  ⟨.pcePolicy, 0x100000, []⟩,
  ⟨.pceStatus, 0x100008, []⟩,
  ⟨.pceTb, 0x100010, []⟩,
  ⟨.pceTbParent, 0x100018, []⟩,
  ⟨.pceTbAdj, 0x100020, []⟩,
  ⟨.pcePaceDrop, 0x100028, []⟩,
  ⟨.pceMwdog, 0x100030, []⟩,
  ⟨.pcePwrCtl, 0x100100, []⟩,
  ⟨.pcePwrStatus, 0x100108, []⟩,
  ⟨.pceCurve, 0x101000, [⟨0x20, 8⟩, ⟨0x8, 4⟩]⟩]

/-- The register list of block NWT. -/
def rowsNWT : List Row := [
  ⟨.nwtStatus, 0x200000, []⟩,
  ⟨.nwtVersion, 0x200008, []⟩,
  ⟨.nwtHostCtl, 0x200010, []⟩,
  ⟨.nwtHostBuf, 0x210000, [⟨0x8, 16384⟩]⟩,
  ⟨.nwtSensor, 0x240000, [⟨0x10, 340⟩]⟩]

/-- The register list of block VER. -/
def rowsVER : List Row := [
  ⟨.prtProfile, 0x4100000, [⟨0x400, 2⟩, ⟨0x8, 128⟩]⟩,
  ⟨.ptnRange, 0x4000000, [⟨0x40000, 2⟩, ⟨0x40, 4096⟩]⟩]

/-- The register list of block PRT. -/
def rowsPRT : List Row := [
  ⟨.prtOwner, 0x400010, [⟨0x4000, 128⟩]⟩,
  ⟨.prtStatus, 0x400018, [⟨0x4000, 128⟩]⟩,
  ⟨.prtLinkCfg, 0x400020, [⟨0x4000, 128⟩]⟩,
  ⟨.prtErrCnt, 0x400028, [⟨0x4000, 128⟩]⟩,
  ⟨.prtFecCorr, 0x400030, [⟨0x4000, 128⟩]⟩,
  ⟨.prtKeyStatus, 0x400038, [⟨0x4000, 128⟩]⟩,
  ⟨.prtCtl, 0x400040, [⟨0x4000, 128⟩]⟩,
  ⟨.prtTrain, 0x401000, [⟨0x4000, 128⟩, ⟨0x8, 64⟩]⟩,
  ⟨.prtTrainTimer, 0x401200, [⟨0x4000, 128⟩, ⟨0x8, 8⟩]⟩]

/-- The register list of block RTE. -/
def rowsRTE : List Row := [
  ⟨.rteCfg, 0x600000, []⟩,
  ⟨.rteEpoch, 0x600008, []⟩,
  ⟨.rteEpochCtl, 0x600010, []⟩,
  ⟨.rteGutter, 0x600020, [⟨0x10, 2⟩]⟩,
  ⟨.rteDrops0, 0x600040, []⟩,
  ⟨.rteDrops1, 0x600048, []⟩,
  ⟨.rteFlowCfg, 0x600050, []⟩,
  ⟨.rtePgroup, 0x604000, [⟨0x2000, 2⟩, ⟨0x20, 256⟩]⟩,
  ⟨.rteRoute, 0x640000, [⟨0x40000, 2⟩, ⟨0x10, 16384⟩]⟩,
  ⟨.rteMcast, 0x700000, [⟨0x40000, 2⟩, ⟨0x40, 4096⟩]⟩]

/-- The register list of block SWC. -/
def rowsSWC : List Row := [
  ⟨.swcCfg, 0x800000, []⟩,
  ⟨.swcFree, 0x800008, []⟩,
  ⟨.swcDrops, 0x800010, []⟩,
  ⟨.swcCtl, 0x800018, []⟩,
  ⟨.swcAudit, 0x800020, []⟩,
  ⟨.swcSampleCfg, 0x800040, []⟩,
  ⟨.swcSampleFilter, 0x800048, []⟩,
  ⟨.swcSampleStatus, 0x800050, []⟩,
  ⟨.swcQuota, 0x801000, [⟨0x10, 64⟩]⟩,
  ⟨.swcUsage, 0x801008, [⟨0x10, 64⟩]⟩]

/-- The register list of block TMG. -/
def rowsTMG : List Row := [
  ⟨.tmgCfg, 0x900000, [⟨0x8, 2⟩]⟩,
  ⟨.tmgStatus, 0x900010, []⟩,
  ⟨.tmgCtl, 0x900018, []⟩,
  ⟨.tmgMeterRate, 0x910000, [⟨0x20, 1024⟩, ⟨0x10, 2⟩]⟩,
  ⟨.tmgMeterBurst, 0x910008, [⟨0x20, 1024⟩, ⟨0x10, 2⟩]⟩,
  ⟨.tmgMeterState, 0x920000, [⟨0x10, 1024⟩]⟩,
  ⟨.tmgMeterCnt, 0x930000, [⟨0x8, 1024⟩]⟩,
  ⟨.tmgClass, 0x940000, [⟨0x10, 64⟩, ⟨0x8, 2⟩]⟩,
  ⟨.tmgOutRate, 0x980000, [⟨0x800, 128⟩, ⟨0x20, 64⟩, ⟨0x10, 2⟩]⟩,
  ⟨.tmgOutBurst, 0x980008, [⟨0x800, 128⟩, ⟨0x20, 64⟩, ⟨0x10, 2⟩]⟩]

/-- The register list of block HOM. -/
def rowsHOM : List Row := [
  ⟨.homCtl, 0xa00000, []⟩,
  ⟨.homStatus, 0xa00008, []⟩,
  ⟨.homLostWide, 0xa00010, []⟩,
  ⟨.homVregion, 0xa20000, [⟨0x20, 4096⟩]⟩,
  ⟨.homOwn, 0xa40000, [⟨0x20, 8192⟩]⟩,
  ⟨.homHost, 0xa80000, [⟨0x8, 16384⟩]⟩,
  ⟨.homLost, 0xb00000, [⟨0x10, 65536⟩]⟩]

/-- The register list of block TIR. -/
def rowsTIR : List Row := [
  ⟨.tirDomainId, 0xc00000, []⟩,
  ⟨.tirFtlCfg0, 0xc00008, []⟩,
  ⟨.tirFtlCfg1, 0xc00010, []⟩,
  ⟨.tirTierCfg, 0xc00018, []⟩,
  ⟨.tirTrayStatus, 0xc00100, [⟨0x8, 32⟩]⟩,
  ⟨.tirProf, 0xc10000, [⟨0x200, 16⟩, ⟨0x8, 64⟩]⟩,
  ⟨.tirProfTimer, 0xc14000, [⟨0x40, 16⟩, ⟨0x8, 8⟩]⟩,
  ⟨.tirDportMap, 0xc20000, [⟨0x40, 32⟩, ⟨0x8, 8⟩]⟩]

/-- The register list of block PTN. -/
def rowsPTN : List Row := [
  ⟨.ptnState, 0xe00100, [⟨0x8, 64⟩]⟩,
  ⟨.ptnPart, 0xe01000, [⟨0x400, 2⟩, ⟨0x10, 64⟩]⟩,
  ⟨.ptnOwnWg, 0xe02000, [⟨0x8, 32⟩]⟩,
  ⟨.ptnOwnBank, 0xe02200, [⟨0x8, 64⟩]⟩,
  ⟨.ptnOwnHbm, 0xe02400, [⟨0x8, 48⟩]⟩,
  ⟨.ptnOwnDram, 0xe03000, [⟨0x8, 128⟩]⟩,
  ⟨.ptnOwnFlash, 0xe04000, [⟨0x8, 256⟩]⟩,
  ⟨.ptnOwnTrayc, 0xe05000, [⟨0x8, 8⟩]⟩,
  ⟨.ptnTrust, 0xe06000, [⟨0x40, 8⟩]⟩]

/-- The register list of block KEY. -/
def rowsKEY : List Row := [
  ⟨.keyStatus, 0xf00000, []⟩,
  ⟨.keyMem, 0xf01000, [⟨0x80, 64⟩]⟩]

/-- The register list of block CEL. -/
def rowsCEL : List Row := [
  ⟨.celOwner, 0x1000000, [⟨0x10000, 64⟩]⟩,
  ⟨.celCfg, 0x1000008, [⟨0x10000, 64⟩]⟩,
  ⟨.celStatus, 0x1000010, [⟨0x10000, 64⟩]⟩,
  ⟨.celOutstanding, 0x1000018, [⟨0x10000, 64⟩]⟩,
  ⟨.celCtl, 0x1000020, [⟨0x10000, 64⟩]⟩]

/-- The register list of block MTX. -/
def rowsMTX : List Row := [
  ⟨.mtxOwner, 0x1400000, [⟨0x10000, 16⟩]⟩,
  ⟨.mtxStatus, 0x1400010, [⟨0x10000, 16⟩]⟩,
  ⟨.mtxOutstanding, 0x1400018, [⟨0x10000, 16⟩]⟩,
  ⟨.mtxCtl, 0x1400020, [⟨0x10000, 16⟩]⟩]

/-- The register list of block CDC. -/
def rowsCDC : List Row := [
  ⟨.cdcSlot, 0x1501000, [⟨0x8, 256⟩]⟩,
  ⟨.cdcTable, 0x1510000, [⟨0x200, 256⟩, ⟨0x8, 64⟩]⟩]

/-- The register list of block SEQ. -/
def rowsSEQ : List Row := [
  ⟨.seqCtl, 0x1600000, []⟩,
  ⟨.seqStatus, 0x1600008, []⟩,
  ⟨.seqCblkOwner, 0x1601000, [⟨0x8, 64⟩]⟩,
  ⟨.seqQCfg, 0x1620000, [⟨0x40, 1024⟩]⟩,
  ⟨.seqQSched, 0x1620008, [⟨0x40, 1024⟩]⟩,
  ⟨.seqQSqBase, 0x1620010, [⟨0x40, 1024⟩]⟩,
  ⟨.seqQCqBase, 0x1620018, [⟨0x40, 1024⟩]⟩,
  ⟨.seqQRing, 0x1620020, [⟨0x40, 1024⟩]⟩,
  ⟨.seqQState, 0x1620028, [⟨0x40, 1024⟩]⟩,
  ⟨.seqQCtl, 0x1620030, [⟨0x40, 1024⟩]⟩,
  ⟨.seqCounter, 0x1700000, [⟨0x20, 16384⟩]⟩]

/-- The register list of block ERR. -/
def rowsERR : List Row := [
  ⟨.errCfg, 0x1800000, []⟩,
  ⟨.errStatus, 0x1800008, []⟩,
  ⟨.errHostTail, 0x1800010, []⟩,
  ⟨.errRepairAddr, 0x1800020, []⟩,
  ⟨.errRepairCtl, 0x1800028, []⟩,
  ⟨.errRepairData, 0x1800040, [⟨0x8, 8⟩]⟩,
  ⟨.errShadowCfg, 0x1800080, []⟩,
  ⟨.errShadowTol, 0x1800088, []⟩,
  ⟨.errShadowStatus, 0x1800090, []⟩,
  ⟨.errCeCnt, 0x1800108, [⟨0x8, 14⟩]⟩,
  ⟨.errFaultCfg, 0x1801000, [⟨0x10, 64⟩]⟩,
  ⟨.errFaultPtr, 0x1801008, [⟨0x10, 64⟩]⟩,
  ⟨.errFault, 0x1802000, [⟨0x200, 64⟩, ⟨0x20, 16⟩]⟩,
  ⟨.errLog, 0x1810000, [⟨0x40, 4096⟩]⟩]

/-- The remaining indices of an offset inside the first dimensions of a row. -/
def Row.indices : List Dim → Nat → List Nat × Nat
  | [], o => ([], o)
  | d :: ds, o => let r := Row.indices ds (o % d.stride); (o / d.stride :: r.1, r.2)

/-- Whether every index is within its dimension. -/
def Row.within : List Dim → List Nat → Bool
  | [], _ => true
  | d :: ds, i :: is => Nat.blt i d.count && Row.within ds is
  | _ :: _, [] => false

/-- The number of words of an entry with its complement. -/
def RegKind.allWords (kind : RegKind) : Nat := if kind.hasComplement then 2 * kind.words else kind.words

/-- The place of key `a` in row `r`, if it lies there. -/
def Row.locate (r : Row) (a : Nat) : Option Loc :=
  if a < r.base then none
  else
    let (is, rem) := Row.indices r.dims (a - r.base)
    if Row.within r.dims is && Nat.blt rem (8 * r.kind.allWords) && rem % 8 == 0 then
      some ⟨r.kind, is.getD 0 0, is.getD 1 0, is.getD 2 0, a - rem, rem / 8⟩
    else none

/-- The register list of the block that key `a` lies in (Table 18.1). -/
def blockRows (a : Nat) : List Row :=
  if a < 0x100000 then rowsGLB else if a < 0x200000 then rowsPCE else if a < 0x400000 then rowsNWT
  else if a < 0x600000 then rowsPRT else if a < 0x800000 then rowsRTE else if a < 0x900000 then rowsSWC
  else if a < 0xA00000 then rowsTMG else if a < 0xC00000 then rowsHOM else if a < 0xE00000 then rowsTIR
  else if a < 0xF00000 then rowsPTN else if a < 0x1000000 then rowsKEY else if a < 0x1400000 then rowsCEL
  else if a < 0x1500000 then rowsMTX else if a < 0x1600000 then rowsCDC else if a < 0x1800000 then rowsSEQ
  else if a < 0x1A00000 then rowsERR else if a < 0x4000000 then [] else rowsVER

/-- The register word at key `a` (a multiple of 8), if one is assigned (R536). -/
def locateKey (a : Nat) : Option Loc := (blockRows a).findSome? (fun r => r.locate a)

/-- The reset value of word `w` of an entry with fields `fs`. -/
def fieldsReset (w : Nat) : List FieldSpec → Nat
  | [] => 0
  | f :: fs =>
    (if f.fld.lo / 64 = w then (f.reset % 2 ^ f.fld.width) <<< (f.fld.lo % 64) else 0) ||| fieldsReset w fs

/-- The reset value of the register word at key `a`: the words of the fields, and their ones' complement where the
entry is complement-protected (R541 and the Reset columns of the field tables). -/
def resetWord (a : Nat) : Word :=
  match locateKey a with
  | none => 0
  | some l =>
    let fs := l.kind.fields l.i l.j
    if l.word < l.kind.words then BitVec.ofNat 64 (fieldsReset l.word fs)
    else ~~~ (BitVec.ofNat 64 (fieldsReset (l.word - l.kind.words) fs))

/-- The register file: register words by key, canonical over their reset values. -/
abbrev RegFile := Tab Word

/-- The word at key `a`. -/
def RegFile.word (r : RegFile) (a : Nat) : Word := Tab.get resetWord r a

/-- The file with word `w` at key `a`. -/
def RegFile.setWord (r : RegFile) (a : Nat) (w : Word) : RegFile := Tab.set resetWord r a w

/-- `n` words from key `a` on, as one number. -/
def RegFile.span (r : RegFile) (a : Nat) : Nat → Nat
  | 0 => 0
  | n + 1 => (r.word a).toNat + (RegFile.span r (a + 8) n) <<< 64

/-- The file with the `n` words from key `a` on set from one number. -/
def RegFile.setSpan (r : RegFile) (a : Nat) : Nat → Nat → RegFile
  | 0, _ => r
  | n + 1, v => (r.setWord a (BitVec.ofNat 64 v)).setSpan (a + 8) n (v >>> 64)

/-- The words a field touches. -/
def Fld.span (f : Fld) : Nat := (f.lo % 64 + f.width + 63) / 64

/-- The value of field `f` of the entry at `a`. -/
def RegFile.get (r : RegFile) (a : Nat) (f : Fld) : Nat :=
  bits (r.span (a + 8 * (f.lo / 64)) f.span) (f.lo % 64) f.width

/-- The file with field `f` of the entry at `a` set to `v`. -/
def RegFile.set (r : RegFile) (a : Nat) (f : Fld) (v : Nat) : RegFile :=
  let b := a + 8 * (f.lo / 64)
  r.setSpan b f.span (setBits (r.span b f.span) (f.lo % 64) f.width v)

/-- The file with the `n`-word entry at `a` set to `v` and the `n` words after it to the ones' complement (R77). -/
def RegFile.setProtected (r : RegFile) (a n v : Nat) : RegFile :=
  (r.setSpan a n v).setSpan (a + 8 * n) n (complementOf (64 * n) v)

/-- Whether the `n`-word entry at `a` agrees with its complement (R77). -/
def RegFile.checked (r : RegFile) (a n : Nat) : Bool :=
  r.span (a + 8 * n) n == complementOf (64 * n) (r.span a n)

/-- The file with field `f` of the complement-protected `n`-word entry at `a` set to `v`, and the complement with it. -/
def RegFile.setP (r : RegFile) (a n : Nat) (f : Fld) (v : Nat) : RegFile :=
  r.setProtected a n (setBits (r.span a n) f.lo f.width v)

end Sys2Proof.Machine
end

