-- ==== Sys2Proof/Machine/Parts/Basic.lean ====
section
/-!
DEFINITION. Names shared by every part: who makes an access, status codes (Table 14.2), subsystems (Table 1.1), planes,
packets (Tables 10.1 and 10.2) and flits (Tables 9.3, 9.4 and 9.16).
-/
namespace Sys2Proof.Machine

/-- Who makes a register access (spec/01_architecture.md R24). -/
inductive Source where
  /-- The control host, on the physical function. -/
  | pf
  /-- A tenant host, on virtual function `p`. -/
  | vf (p : Nat)
  /-- Newt firmware. -/
  | newt
deriving DecidableEq, Repr

/-- Status codes (Table 14.2). -/
inductive Status where
  | ok | retry | accessDenied | rangeUnmapped | staleEpoch | lineLost | uncorrectable | lengthRange
  | scopeMismatch | versionConflict | partitionScrubbing | collectiveAbort | timeout | tableCheck | busy
  | ownerMismatch | opcodeInvalid | quota | portDown | keyRetired | waking | formatInvalid
deriving DecidableEq, Repr

/-- The code of a status (Table 14.2). -/
def Status.code : Status → Nat
  | .ok => 0 | .retry => 1 | .accessDenied => 2 | .rangeUnmapped => 3 | .staleEpoch => 4 | .lineLost => 5
  | .uncorrectable => 6 | .lengthRange => 7 | .scopeMismatch => 8 | .versionConflict => 9
  | .partitionScrubbing => 0x0A | .collectiveAbort => 0x0B | .timeout => 0x0C | .tableCheck => 0x0D | .busy => 0x0E
  | .ownerMismatch => 0x0F | .opcodeInvalid => 0x10 | .quota => 0x11 | .portDown => 0x12 | .keyRetired => 0x13
  | .waking => 0x14 | .formatInvalid => 0x15

/-- The status of a code; codes 0x16 to 0xFF are reserved (R441). -/
def Status.ofCode (n : Nat) : Option Status :=
  [Status.ok, .retry, .accessDenied, .rangeUnmapped, .staleEpoch, .lineLost, .uncorrectable, .lengthRange,
   .scopeMismatch, .versionConflict, .partitionScrubbing, .collectiveAbort, .timeout, .tableCheck, .busy,
   .ownerMismatch, .opcodeInvalid, .quota, .portDown, .keyRetired, .waking, .formatInvalid][n]?

/-- Whether a status is of kind Error (Table 14.2). -/
def Status.isError : Status → Bool
  | .ok | .retry | .scopeMismatch | .versionConflict | .ownerMismatch => false
  | _ => true

/-- The fourteen subsystems, in the row order of Table 1.1. -/
inductive Subsys where
  | portArray | switchCore | routeUnit | trafficManager | homeAgent | tierManager | stagingStore | computeCells
  | matrixTiles | hostPort | sequencer | partitionUnit | newt | paceUnit
deriving DecidableEq, Repr

/-- The number of a subsystem, 1 to 14. -/
def Subsys.num : Subsys → Nat
  | .portArray => 1 | .switchCore => 2 | .routeUnit => 3 | .trafficManager => 4 | .homeAgent => 5
  | .tierManager => 6 | .stagingStore => 7 | .computeCells => 8 | .matrixTiles => 9 | .hostPort => 10
  | .sequencer => 11 | .partitionUnit => 12 | .newt => 13 | .paceUnit => 14

/-- The plane of a subsystem (R22): 0 data, 1 control, 2 management. -/
def Subsys.plane : Subsys → Nat
  | .hostPort | .sequencer | .partitionUnit => 1
  | .newt | .paceUnit => 2
  | _ => 0

/-- A packet: its routing header (Table 10.1), the body of a tadpole or the extension of a data packet as one number
(bit 0 is bit 0 of byte 16), and the payload bytes. -/
structure Packet where
  cls : Nat := 0
  epoch : Nat := 0
  fence : Bool := false
  gutter : Bool := false
  gdown : Bool := false
  tc : Nat := 0
  mcast : Bool := false
  dst : Nat := 0
  src : Nat := 0
  fgen : Nat := 0
  partition : Nat := 0
  defl : Nat := 0
  hops : Nat := 0
  segs : Nat := 0
  seq : Nat := 0
  /-- Whether a reserved header bit is not zero. -/
  rsv : Bool := false
  body : Nat := 0
  payload : List Byte := []
deriving DecidableEq, Repr

/-- Packet classes (Table 10.2). -/
def clsCOH : Nat := 0x01
def clsSTATUS : Nat := 0x02
def clsREPLY : Nat := 0x03
def clsTOKEN : Nat := 0x04
def clsABORT : Nat := 0x05
def clsCOUNTER : Nat := 0x06
def clsFENCE_DONE : Nat := 0x07
def clsTIME : Nat := 0x08
def clsLINK : Nat := 0x09
def clsTRAY_REQ : Nat := 0x0A
def clsTRAY_CPL : Nat := 0x0B
def clsTRAY_MSG : Nat := 0x0C
def clsCOH_DATA : Nat := 0x21
def clsWRITE : Nat := 0x22
def clsCOLL : Nat := 0x23
def clsCMD : Nat := 0x24
def clsTRAY_WR : Nat := 0x25
def clsTRAY_DATA : Nat := 0x26

/-- Whether a class is one of Table 10.2. -/
def classKnown (c : Nat) : Bool :=
  (Nat.ble 1 c && Nat.ble c 0x0C) || (Nat.ble 0x21 c && Nat.ble c 0x26)

/-- Whether a class is a data packet's (Table 10.2). -/
def classIsData (c : Nat) : Bool := Nat.ble 0x21 c

/-- Whether a class is routed (Table 10.2); the others are link-local. -/
def classRouted (c : Nat) : Bool :=
  (Nat.ble 1 c && Nat.ble c 7) || (Nat.ble 0x21 c && Nat.ble c 0x24)

/-- The tray classes of R344. -/
def classIsTray (c : Nat) : Bool :=
  c == clsTRAY_REQ || c == clsTRAY_CPL || c == clsTRAY_MSG || c == clsTRAY_WR || c == clsTRAY_DATA

/-- The length of a packet in bytes as the traffic manager counts it (R400). -/
def Packet.len (p : Packet) : Nat := if classIsData p.cls then 32 + 256 * p.segs else 64

/-- The charge of a packet in units (R378). -/
def Packet.charge (p : Packet) : Nat := max 1 p.segs

/-- The 128-bit routing header of a packet (Table 10.1); a reserved bit that is set stands at bit 30. -/
def Packet.header (p : Packet) : Nat :=
  p.cls % 256 + (p.epoch % 2) <<< 8 + b2n p.fence <<< 9 + b2n p.gutter <<< 10 + b2n p.gdown <<< 11
  + (p.tc % 8) <<< 12 + b2n p.mcast <<< 15 + (p.dst % 2 ^ 14) <<< 16 + (p.src % 2 ^ 14) <<< 32
  + (p.fgen % 4) <<< 46 + (p.partition % 64) <<< 48 + (p.defl % 32) <<< 56 + (p.hops % 128) <<< 64
  + (p.segs % 32) <<< 72 + (p.seq % 65536) <<< 80 + b2n p.rsv <<< 30

/-- The packet whose header is the number `h` (Table 10.1), with body `body`. -/
def Packet.ofHeader (h body : Nat) : Packet :=
  { cls := bits h 0 8, epoch := bits h 8 1, fence := bitAt h 9, gutter := bitAt h 10, gdown := bitAt h 11,
    tc := bits h 12 3, mcast := bitAt h 15, dst := bits h 16 14, src := bits h 32 14, fgen := bits h 46 2,
    partition := bits h 48 6, defl := bits h 56 5, hops := bits h 64 7, segs := bits h 72 5, seq := bits h 80 16,
    rsv := bits h 30 2 != 0 || bits h 54 2 != 0 || bits h 61 3 != 0 || bitAt h 71 || bits h 77 3 != 0
      || bits h 96 32 != 0,
    body := body }

/-- The 32-byte units of a packet (R318), each as one number: two of a tadpole; the header unit and eight for each
segment of a data packet. -/
def Packet.units (p : Packet) : List Nat :=
  if classIsData p.cls then
    (p.header + (p.body % 2 ^ 128) <<< 128) ::
      (upFrom 0 (8 * p.segs)).map (fun i => natOfBytes ((p.payload.drop (32 * i)).take 32))
  else [p.header + (p.body % 2 ^ 128) <<< 128, bits p.body 128 256]

/-- A training message (Table 9.16) with its payload as bytes. -/
structure TrainMsg where
  code : Nat := 0
  seq : Nat := 0
  length : Nat := 0
  first : Bool := false
  last : Bool := false
  rsv : Bool := false
  payload : List Byte := []
deriving DecidableEq, Repr

/-- A seal (Table 9.4). `tagOk` is whether the group's tag verifies under the key of the flit's KEY_PHASE: the cipher
itself is outside the model (log entry 5). -/
structure Seal where
  tagOk : Bool := true
  ackSeq : Nat := 0
  ackValid : Bool := false
  nak : Bool := false
  groupLen : Nat := 0
  groupCtr : Nat := 0
  rsv : Bool := false
deriving DecidableEq, Repr

/-- A Bilma flit (R317): the control word of Table 9.3 and the body in plain text. `fecOk` is whether its codeword was
correctable, `fecCorr` how many codewords were corrected in it. -/
structure Flit where
  fecOk : Bool := true
  fecCorr : Nat := 0
  seq : Nat := 0
  /-- 0: DATA; 1: IDLE; 2: TRAIN; 3: reserved. -/
  kind : Nat := 0
  phase : Nat := 0
  rsv : Bool := false
  /-- The packet units of a DATA flit, seal units excluded, filler as 0. -/
  units : List Nat := []
  /-- The seal, where SEAL is set. -/
  sealWord : Option Seal := none
  /-- The training message of a TRAIN flit. -/
  msg : TrainMsg := {}
deriving DecidableEq, Repr

end Sys2Proof.Machine
end

