-- ==== Sys2Proof/Machine/Parts/Newt.lean ====
section
/-!
DEFINITION. The state of Newt (spec/15_management_subsystem.md): sessions, subscriptions, the event ring, the SPI NOR with
its image slot, configuration copies and persistent log, and the update under way.
-/
namespace Sys2Proof.Machine

/-- The role of a session (R469, R471). -/
inductive Role where
  | operator | auditor | enrol
deriving DecidableEq, Repr

/-- The header of a management message (Table 15.5) but for its CODE; `rsv` is whether a reserved bit is set. -/
structure MgmtHead where
  response : Bool := false
  push : Bool := false
  status : Nat := 0
  tag : Nat := 0
  length : Nat := 0
  rsv : Bool := false
deriving DecidableEq, Repr

/-- An anchor (Table 15.3): ROLE 1 OPERATOR or 2 AUDITOR, and a digest. -/
structure Anchor where
  role : Nat
  digest : Nat
deriving DecidableEq, Repr

/-- A network record (Table 15.3), as its bytes. -/
abbrev NetRecord := List Byte

/-- Thresholds of a sensor (R482). -/
structure Threshold where
  index : Nat
  warnHigh : Nat
  warnLow : Nat
  alert : Bool
deriving DecidableEq, Repr

/-- The policy record (Table 15.3). -/
structure Policy where
  hostUpdate : Bool := false
  /-- Fault causes of Table 14.7 in the alert set (R483), bit c for code c. -/
  causes : Nat := 0
  thresholds : List Threshold := []
  /-- Session idle limit in s. -/
  idle : Nat := 300
deriving DecidableEq, Repr

/-- A management message: its command code, header and payload; a policy record comes as its fields, because no rule gives its
bytes. -/
structure MgmtMsg where
  code : Nat
  head : MgmtHead
  data : List Byte := []
  policy : Policy := {}
deriving DecidableEq, Repr

/-- A management session (R469, R470). -/
structure Session where
  port : Nat
  /-- The anchor slot under which it was opened; none for an enrolment. -/
  anchor : Option Nat
  role : Role
  /-- Whether a CMD_SUBMIT runs, with the TAG of its message, and the messages that wait behind it (R476). -/
  running : Option Nat := none
  waiting : List MgmtMsg := []
deriving DecidableEq, Repr

/-- A column repair entry (Table 15.4). -/
structure Repair where
  location : Nat
  symbol : Nat
deriving DecidableEq, Repr

/-- A configuration (R467). -/
structure NvConfig where
  generation : Nat := 0
  anchors : Tab Anchor := []
  nets : Tab NetRecord := []
  policy : Policy := {}
  repairs : List Repair := []
deriving DecidableEq, Repr

/-- An update under way (R492): who began it (a session, or 16 for the mailbox), its chunk 0, and the chunks written. -/
structure Update where
  who : Nat
  head : List Byte
  got : List Nat := []
deriving DecidableEq, Repr

/-- Newt. -/
structure Newt where
  sessions : Tab Session := []
  /-- The subscribers to the log and to the samples: session and TAG (R474). -/
  logSub : Option (Nat × Nat) := none
  sampleSub : Option (Nat × Nat) := none
  /-- The event ring, oldest record first, and the SEQ_NO of the next record to copy into it (R486). -/
  ring : List Nat := []
  copied : Nat := 0
  /-- The persistent log, oldest first, the SEQ_NO of the next record to copy, the copying credit in ns of 10 ms a record with
  the tick up to which it is reckoned, and the records of the run now being skipped with the SEQ_NO of its first (R487). -/
  persist : List Nat := []
  persisted : Nat := 0
  credit : Nat := 10000000000
  creditAt : Nat := 0
  skipped : Nat := 0
  skipFrom : Nat := 0
  /-- Chunks of the image slot (R466); an erased chunk is not listed. -/
  slot : Tab (List Byte) := []
  update : Option Update := none
  /-- Chunks of the image that runs, whose sections Newt loads (R493). -/
  image : Tab (List Byte) := []
  /-- The configuration copies A and B (R467). -/
  copyA : Option NvConfig := none
  copyB : Option NvConfig := none
  /-- The configuration in force, and whether a copy verified. -/
  config : NvConfig := {}
  configured : Bool := false
  /-- FUSED_SVN, as fuses hold it (R491). -/
  fusedSvn : Nat := 0
  /-- Sensors read since the last restart of their MIN and MAX (R481). -/
  seen : List Nat := []
  /-- Tray profiles and training programs still to be written: 128 + profile, or port (R493). -/
  owed : List Nat := []
  /-- The cause of the restart under way (Table 15.11), and whether the mailbox runs a message. -/
  cause : Nat := 0
  /-- Correctable-error summaries of the last 24 h, with the time of each (R467). -/
  summaries : List (Repair × Nat) := []
  /-- The mode whose training program each port has (R493). -/
  programs : Tab Nat := []
deriving DecidableEq, Repr

end Sys2Proof.Machine
end

