-- ==== Sys2Proof/Machine/Parts/Net.lean ====
section
/-!
DEFINITION. The state of the port array, the switch core, the route unit's flows and the traffic manager
(spec/09_ports_and_links.md to spec/12_traffic_management.md).
-/
namespace Sys2Proof.Machine

/-- A unit handed to the transmitter of a port: the 32 bytes, the buffered packet it belongs to and whether it is the
packet's last. -/
structure TxUnit where
  unit : Nat
  id : Nat
  last : Bool
deriving DecidableEq, Repr

/-- A DATA flit sent and not yet acknowledged (R323), with the packets whose last unit it carried. -/
structure SentFlit where
  seq : Nat
  units : List Nat
  sealed : Bool
  ends : List Nat
deriving DecidableEq, Repr

/-- A packet whose units are arriving on a port (R318): its place in the buffer, or none while it is dropped as an
orphan or a discarded arrival, and what is still to come. -/
structure RxPacket where
  slot : Option Nat
  left : Nat
  /-- Whether the arriving units are orphans of R387. -/
  orphan : Bool
deriving DecidableEq, Repr

/-- The stage of a link key update (R328). -/
inductive KeyUpdate where
  | idle | asked | switched
deriving DecidableEq, Repr

/-- The link layer and training machine of one port. -/
structure Port where
  /-- Next DATA sequence number. -/
  txSeq : Nat := 0
  /-- DATA flits sent since the last seal. -/
  txGroup : Nat := 0
  /-- Groups sent under the current key phase. -/
  txCtr : Nat := 0
  txUnits : List TxUnit := []
  /-- Sent and unacknowledged DATA flits, oldest first. -/
  sent : List SentFlit := []
  /-- The sequence number of the next flit to replay, while a replay runs. -/
  replayAt : Option Nat := none
  /-- Replays started from the same flit without ACK_SEQ advancing. -/
  stalls : Nat := 0
  ackOwed : Bool := false
  nakOwed : Bool := false
  /-- Training messages waiting to be sent, each twice (R330). -/
  txTrain : List TrainMsg := []
  txTrainSeq : Nat := 0
  /-- Pattern transmitted in training (TX_PATTERN). -/
  pattern : Option Nat := none
  rxExpect : Nat := 0
  /-- DATA flits received since the last verified seal. -/
  rxGroup : List Flit := []
  /-- Last DATA flit of the last verified group. -/
  rxLast : Option Nat := none
  /-- Whether everything up to the replayed flit is being discarded (R322). -/
  rxBad : Bool := false
  /-- Tag failures in succession. -/
  tagFails : Nat := 0
  rxUnits : List Nat := []
  rxPacket : Option RxPacket := none
  /-- Bytes in place of the segment now arriving. -/
  rxSeg : List Byte := []
  rxPhase : Nat := 0
  /-- Training message number last acted on. -/
  rxTrainSeq : Option Nat := none
  /-- The partner's TS_ID payload (Table 9.17). -/
  tsId : Option Nat := none
  update : KeyUpdate := .idle
  /-- The command of KEY_ROTATE that waits for this update (its number), if any. -/
  rotate : Option Nat := none
  /-- Held tadpoles of Eaves (R334), oldest first. -/
  wakeQueue : List Packet := []
  /-- Whether the port parked under DOWN with ARG 1. -/
  parked : Bool := false
  /-- The width, 4 or 2, of SET_WIDTH. -/
  width : Nat := 4
  /-- A training action that is under way (its action code). -/
  busy : Option Nat := none
  /-- Lanes that failed the last self-test, one bit each. -/
  failed : Nat := 0
  /-- Whether an IDE or LTSSM setup of the gang has ended well. -/
  gangUp : Bool := false
  /-- Last tick of an error-log record of R359, and of R386, for this port. -/
  logR359 : Option Nat := none
  logR386 : Option Nat := none
deriving DecidableEq, Repr

/-- How a packet was admitted (R380): from an output's Gutter reserve, its partition's reserve, the shared pool, the control reserve
of TIME and LINK tadpoles, or, for a tray packet of no partition, from the shared pool without a charge (log entry 54). -/
inductive Admission where
  | gutter (out : Nat) | reserve | shared | control | uncharged
deriving DecidableEq, Repr

/-- The phase of one copy of a buffered packet at its output (Table 11.1). -/
inductive Phase where
  /-- In the order of its triple, not yet released. -/
  | queued
  /-- Released to the traffic manager, or free to start for a local consumer. -/
  | released
  | sending
  /-- Sent in the DATA flit of this sequence number. -/
  | unacked (seq : Nat)
  | done
deriving DecidableEq, Repr

/-- One copy: its output (128: local), its class in the triple (8: Gutter), its phase and its number in the order of
release. -/
structure Copy where
  out : Nat
  cls : Nat
  phase : Phase
  rel : Nat := 0
deriving DecidableEq, Repr

/-- Whether a buffered packet is held (Table 11.1). -/
inductive Held where
  | no
  /-- A fence hold at the destination edge (R366). -/
  | fence
  /-- A hold at the source edge (R364). -/
  | source
  /-- An early arrival of a collective (R211). -/
  | early
deriving DecidableEq, Repr

/-- Whether the packet waits to be released: its place in the buffer does not hold those behind it back, and its copies do not go. -/
def Held.waits : Held → Bool
  | .fence | .source => true
  | .no | .early => false

/-- A packet in the switch core. -/
structure Slot where
  id : Nat
  pkt : Packet
  inPort : Nat
  copies : List Copy
  adm : Admission
  /-- Segments in place. -/
  filled : Nat
  /-- Whether the last segment is in place. -/
  whole : Bool
  held : Held := .no
  /-- Whether the packet was deflected at this E9. -/
  deflected : Bool := false
  /-- Whether the local copy has passed the fence gate of R366. -/
  gated : Bool := false
  /-- Number of the local waiter that created the packet (a transaction), if any. -/
  owner : Option Nat := none
  /-- The time base at the acceptance of the header, where the packet is to be sampled (R395). -/
  sampleAt : Option Nat := none
deriving DecidableEq, Repr

/-- A packet created on the E9 that waits for admission (R380), with what the route unit decided. -/
structure Waiting where
  pkt : Packet
  copies : List Copy
  owner : Option Nat := none
deriving DecidableEq, Repr

/-- The switch core. -/
structure Switch where
  nextId : Nat := 0
  /-- Copies released so far. -/
  nextRel : Nat := 1
  /-- Oldest header first. -/
  slots : List Slot := []
  waiting : List Waiting := []
  /-- Whether the free lists have been built (R379, R393). -/
  listsBuilt : Bool := false
  retiredDesc : Nat := 0
  retiredSegs : Nat := 0
  /-- Entries withheld from the free lists until the next audit (Table 14.5). -/
  withheldDesc : Nat := 0
  withheldSegs : Nat := 0
  /-- Eligible packets since the last sampled one, and records since EN was set. -/
  sampleCount : Nat := 0
  sampleNo : Nat := 0
  /-- The 1 ms window of R396 and the records taken in it. -/
  sampleWindow : Nat := 0
  sampleInWindow : Nat := 0
deriving DecidableEq, Repr

/-- A flow at its source edge (R363, R364). -/
structure SrcFlow where
  fgen : Nat := 0
  seq : Nat := 0
  /-- Outstanding fences: interval and SEQ, oldest first. -/
  out : List (Nat × Nat) := []
  /-- Numbers of the buffered packets held at the source edge, oldest first. -/
  held : List Nat := []
deriving DecidableEq, Repr

/-- The flows of the source edge by 1,024 × source + edge, and the arrival counts of the destination edge by source EID
(four for each, R365). -/
structure Flows where
  src : Tab SrcFlow := []
  dst : Tab (List Nat) := []
deriving DecidableEq, Repr

/-- The two token buckets of a shaper with their ones' complement (R403, R412), and its finish tags (R401). -/
structure Shaper where
  tokC : Int := 0
  tokP : Int := 0
  /-- The ones' complements of the two, as signed numbers. -/
  notC : Int := -1
  notP : Int := -1
  tagC : Nat := 0
  tagE : Nat := 0
  /-- Whether the tags stand for a candidate now at the output. -/
  liveC : Bool := false
  liveE : Bool := false
  /-- The class clock and tags of R402. -/
  clsClock : Nat := 0
  clsTag : List Nat := [0, 0, 0, 0, 0, 0, 0, 0]
  clsLive : List Bool := [false, false, false, false, false, false, false, false]
deriving DecidableEq, Repr

/-- The traffic manager: virtual clocks by output, shapers by 64 × output + partition, and the shadow registers written
since the last swap with the tick of the write (R411). -/
structure Traffic where
  clockC : Tab Nat := []
  clockE : Tab Nat := []
  shapers : Tab Shaper := []
  /-- The shaper of every output and partition that is not listed. -/
  fresh : Shaper := {}
  written : Tab Nat := []
deriving DecidableEq, Repr

end Sys2Proof.Machine
end

