-- ==== Sys2Proof/Machine/Parts/Out.lean ====
section
/-!
DEFINITION. What leaves the part: the record Chip.out keeps of it (log entry 3). It is the model's own field; no rule
reads it back.
-/
namespace Sys2Proof.Machine

/-- Something that left the part. -/
inductive OutEv where
  /-- A flit sent on a port (R317). -/
  | flit (port : Nat) (f : Flit)
  /-- An MSI-X interrupt: vector `v` of virtual function `n`, or of the physical function (none). -/
  | msix (fn : Option Nat) (v : Nat)
  /-- A posted write of the bytes to host memory, for a completion ring (R275). -/
  | hostWrite (addr : Nat) (data : List Byte)
  /-- A read of `n` submission slots of queue `q` from host memory, from slot `i` on (R274). -/
  | hostRead (q i n : Nat)
  /-- THERMTRIP_N is driven low (R533). -/
  | thermtrip
  /-- A version or ownership command of 512 bits leaves for the home of its address (R284; log entry 43): that home's EID
  and the transaction's tag. -/
  | toHome (eid tag slot : Nat)
  /-- The AVSBus master writes the core voltage in mV (R51). -/
  | avsWrite (mv : Nat)
  /-- A CXL message on mode C gang `g`: a MemRd or MemWr to device address `a` with the data written (R88). -/
  | cxlMem (g : Nat) (write : Bool) (a : Nat) (data : List Byte)
  /-- MemWr of zeros over the whole capacity, in bytes, of the device of mode C gang `g` (Table 13.5). -/
  | cxlZero (g bytes : Nat)
  /-- A setup step of a mode C gang (CXL_STEP, R88). -/
  | cxlStep (g step : Nat)
  /-- An answer to the CPU of a mode D gang: request tag, whether data, and the bytes. -/
  | cxlAnswer (g tag : Nat) (data : Option (List Byte))
  /-- A back-invalidation snoop sent to the CPU of a mode D gang (R161). -/
  | biSnoop (g code addr : Nat)
  /-- The value that a register read returns to a source (R537). -/
  | regRead (src : Source) (off value : Nat)
  /-- A mailbox reply of a mode D gang (R124): return code and payload. -/
  | mailboxD (g code : Nat) (data : List Byte)
  /-- A management message sent on session `n` (R474): command code, whether a push, status, tag and body. -/
  | mgmt (n code : Nat) (push : Bool) (status tag : Nat) (data : List Byte)
  /-- A TLS session refused or ended (R469, R470). -/
  | sessionEnd (n : Nat)
  /-- An SPDM response of function `fn` or of Newt (R436). -/
  | spdm (fn : Option Nat) (code : Nat) (data : List Byte)
  /-- An IDE_KM response on the host attach port (R338). -/
  | ideKm (code status : Nat)
  /-- A fragment of an SPDM message sent in training or in a link key update on a port (R326, R328). -/
  | spdmPort (port : Nat) (what : Nat)
deriving DecidableEq, Repr

end Sys2Proof.Machine
end

