-- ==== Sys2Proof/Machine/Parts/Pool.lean ====
section
/-!
DEFINITION. The state of the memory pool: tier manager, pool write cache, home agent and the transactions of this E9's
own requesters (spec/03_pool_and_tiers.md, spec/04_coherence.md, spec/05_memory_model.md R186 to R194).
-/
namespace Sys2Proof.Machine

/-- Tile states (Table 3.7). -/
inductive TileState where
  | zero | flash | promoting | dramClean | dramDirty | writingBack | redirected
deriving DecidableEq, Repr

/-- A tile entry (Table 3.2). `evicting`, `discard` and `sweeping` are what a tile under way owes. -/
structure Tile where
  state : TileState := .zero
  hint : Nat := 0
  keyGen : Nat := 0
  rewritten : Bool := false
  scanMark : Bool := false
  hintAge : Nat := 0
  flashTray : Nat := 0
  flashTile : Nat := 0
  /-- Whether a flash copy is mapped. -/
  inFlash : Bool := false
  dramTray : Nat := 0
  dramFrame : Nat := 0
  /-- Whether a frame is held. -/
  framed : Bool := false
  /-- The frame is freed when the program under way ends (R96). -/
  evicting : Bool := false
  /-- A DISCARD hint is held until the tile settles (R96). -/
  discard : Bool := false
  /-- The key sweep, or a replica's copy, holds the tile (R433, R119). -/
  sweeping : Bool := false
  /-- The model's own: sectors written since the tile was ZERO; another sector reads zeros (log entry 20). -/
  filled : Nat := 0
deriving DecidableEq, Repr

/-- A block-table entry (R100). -/
structure Block where
  erases : Nat := 0
  reads : Nat := 0
  retired : Bool := false
  /-- Tiles of the block programmed since its last erase. -/
  programmed : Nat := 0
  /-- Whether the block is being emptied to be erased (R101 to R103). -/
  emptying : Bool := false
deriving DecidableEq, Repr

/-- What a tray told of itself (R84). -/
structure Identity where
  type : Nat := 0
  dramCh : Nat := 0
  flashCh : Nat := 0
  eraseTiles : Nat := 64
  promoteUs : Nat := 0
  programUs : Nat := 0
  persist : Bool := false
  serial : Nat := 0
  /-- Capacities in MiB. -/
  dramCap : List Nat := []
  flashCap : List Nat := []
deriving DecidableEq, Repr

/-- A tray. -/
structure Tray where
  /-- The port, or the first port of the gang. -/
  port : Nat := 0
  /-- The identity latched by LOAD_IDENTITY, and the one the messages are building. -/
  ident : Identity := {}
  building : Identity := {}
  /-- IDENTITY_CH messages still to come, and whether IDENTITY has come. -/
  chansSeen : Nat := 0
  identSeen : Bool := false
  /-- State of the profile machine (R90) and whether it runs. -/
  pstate : Nat := 0
  running : Bool := false
  /-- Channel tags sent and not yet acknowledged: whether of flash, and the tags (R93). -/
  binds : List (Bool × Nat) := []
  /-- Who waits for TRAY_FORMAT or TRAY_DETACH. -/
  command : Option Nat := none
  /-- Operations of a profile action still to come, and whether one of them failed. -/
  owed : Nat := 0
  bad : Bool := false
  /-- Whether LOAD_IDENTITY waits for the last message. -/
  loading : Bool := false
deriving DecidableEq, Repr

/-- Who waits for a tier access. -/
inductive TierWho where
  /-- The home transaction of this index. -/
  | txn (i : Nat)
  /-- An eviction of the write cache: nobody. -/
  | evict
  /-- FLUSH_TRAY of tray `n` (R89). -/
  | flush (n : Nat)
  /-- The replica's part of the write of operation `n` (R116). -/
  | mirror (n : Nat)
deriving DecidableEq, Repr

/-- An access to a sector of a tile, waiting or under way (Table 3.8). -/
structure TierOp where
  id : Nat
  tile : Nat
  /-- 0: the tile itself; another number: the copied tile of a version. -/
  store : Nat
  sector : Nat
  /-- Lines and bytes written, or a read. -/
  write : Option (Nat × List Byte)
  who : TierWho
  /-- Tray answers still to come; 0 while the access waits. -/
  owed : Nat := 0
  status : Status := .ok
  data : List Byte := []
deriving DecidableEq, Repr

/-- What a tray operation is for. -/
inductive TrayJob where
  /-- A sector access of the tier operation. -/
  | sector (op : Nat)
  /-- A flash tile read into its frame (Table 3.8). -/
  | promote (tile : Nat)
  /-- A frame written to a new flash location (Table 3.8). -/
  | program (tile tray loc : Nat)
  /-- A tile moved within flash: to a spare frame, then to its new location (R104). -/
  | moveIn (tile tray loc ftray frame : Nat)
  | moveOut (tile tray loc ftray frame ntray nloc : Nat)
  | erase (tray block : Nat)
  /-- A channel zeroed for TRAY_FORMAT, or at a scrub of the partition. -/
  | zero (tray : Nat)
  | scrub (p : Nat) (flash : Bool)
  | header (tray : Nat)
  | headerWrite (tray : Nat)
  /-- A tile copied for a working version (R189). -/
  | copy (tile store : Nat)
  /-- A sector read and written in turn: for a version's copy, a replica or the key sweep. -/
  | xferRead (n sector : Nat)
  | xferWrite (n sector : Nat)
deriving DecidableEq, Repr

/-- A tray operation under way (Table 10.5). -/
structure TrayRec where
  tray : Nat
  job : TrayJob
  op : Nat
  srcCh : Nat := 0
  srcIndex : Nat := 0
  dstCh : Nat := 0
  dstIndex : Nat := 0
  /-- Key and sector number under which the payload is encrypted; none where it is in clear. -/
  key : Option (Nat × Nat) := none
  /-- Mode C: device addresses still to be answered, and what has come. -/
  lines : List Nat := []
  got : List (Nat × List Byte) := []
  /-- Not sent, or discarded at the port: it ends with PORT_DOWN (R117, R391). -/
  dead : Bool := false
deriving DecidableEq, Repr

/-- What a transfer of a whole tile is for. -/
inductive XferFor where
  | version (store : Nat)
  | replica
  /-- The key sweep: the slot whose key the tile takes, and the copied tiles of versions still to be swept with it. -/
  | sweep (slot : Nat) (left : List Nat)
deriving DecidableEq, Repr

/-- A tile moved sector by sector. -/
structure Xfer where
  tile : Nat
  why : XferFor
  srcTray : Nat
  srcFrame : Nat
  dstTray : Nat
  dstFrame : Nat
  keyFrom : Nat
  keyTo : Nat
  /-- Sectors of the source that hold something; the others are zeros. -/
  filled : Nat
deriving DecidableEq, Repr

/-- A line of the pool write cache (R108). -/
structure CacheLine where
  data : List Byte
  dirty : Bool
  /-- The order of its last write. -/
  wrote : Nat
  /-- Number of the writeback in flight (ENGINE lines). -/
  flight : Option Nat := none
deriving DecidableEq, Repr

/-- Directory states (Table 4.2) but for Busy, which `Entry.txn` says. -/
inductive Dir where
  | invalid
  | shared (es : List Nat)
  | coarse (groups : List Nat)
  | owned (x : Nat)
deriving DecidableEq, Repr

/-- A directory entry. -/
structure Entry where
  line : Nat
  state : Dir
  /-- The open transaction: the entry is Busy. -/
  txn : Option Nat := none
deriving DecidableEq, Repr

/-- A directory bank: its sets, the least recently used way first, and its predictor. -/
structure Bank where
  sets : Tab (List Entry) := []
  pred : List Nat := List.replicate 16 1
deriving DecidableEq, Repr

inductive SnoopKind where
  | inv | share | cur
deriving DecidableEq, Repr

/-- A snoop of an open transaction (R134, R140 to R142). -/
structure Snoop where
  eid : Nat
  kind : SnoopKind
  owner : Bool
  /-- The WrBack of a crossing has come. -/
  wb : Bool := false
  /-- RspWbPending has come. -/
  pending : Bool := false
  done : Bool := false
  /-- The host has given its copy up. -/
  gone : Bool := false
deriving DecidableEq, Repr

/-- Kinds of home transactions. -/
inductive TxnKind where
  | rdShared | rdOwn | rdCurrent | wrBack | evict | far | near | backInval
deriving DecidableEq, Repr

/-- An open transaction of the home (R136). -/
structure HTxn where
  line : Nat
  part : Nat
  kind : TxnKind
  prior : Dir
  /-- Requests served, by number and line of the sector; the first opened the transaction. -/
  members : List (Nat × Nat)
  snoops : List Snoop := []
  /-- The copied tile of a version that holds the line; 0: the tile itself. -/
  store : Nat := 0
  reading : Bool := false
  /-- A snoop has returned data. -/
  gotData : Bool := false
  /-- The transaction ends with this status. -/
  ends : Option Status := none
deriving DecidableEq, Repr

/-- A request taken at the home (R133). -/
structure HomeReq where
  pkt : Packet
  /-- A mode D gang and the CPU's tag, where the request is a CPU's. -/
  gang : Option (Nat × Nat) := none
  left : List Nat
  failed : List (Nat × Status) := []
  data : List (Nat × List Byte) := []
  grant : Nat := 0
  near : Bool := false
  combined : Bool := false
  consumed : Bool := false
  old : Nat := 0
deriving DecidableEq, Repr

/-- A request waiting on a line (R143). -/
structure LineWait where
  line : Nat
  req : Nat
  j : Nat
  bank : Nat
deriving DecidableEq, Repr

/-- A FetchAdd combining entry (R147). -/
structure Comb where
  part : Nat
  saddr : Nat
  lmask : Nat
  offset : Nat
  size : Nat
  dst : Nat
  tc : Nat
  sum : Nat
  count : Nat
  members : List Packet
  /-- Whether it has closed, its combined FetchAdd sent. -/
  closed : Bool := false
deriving DecidableEq, Repr

/-- A live version of a region (R187): which tiles of the region have copies of their own, and in which store. -/
structure Version where
  region : Nat
  number : Nat
  base : Nat
  working : Bool
  map : Tab Nat
  own : List Nat
  /-- Frames that its tile map takes: tray and first frame. -/
  mapAt : Option (Nat × Nat) := none
deriving DecidableEq, Repr

/-- A view (R187). -/
structure View where
  eid : Nat
  region : Nat
  version : Nat
  write : Bool
deriving DecidableEq, Repr

/-- A copied tile of a version: where its frame lies. -/
structure Store where
  tile : Nat
  tray : Nat
  frame : Nat
  /-- Whether the copy is complete. -/
  ready : Bool := false
deriving DecidableEq, Repr

/-- Who waits for a transaction of this E9. -/
inductive Asker where
  /-- The combined FetchAdd of combining entry `n`. -/
  | comb (n : Nat)
  /-- A read or atomic of job `n`, its piece `k`. -/
  | job (n k : Nat)
  /-- A pushed WrBack of the ENGINE lines given. -/
  | wcache (part : Nat) (lines : List Nat)
  /-- The fill of waiting engine write `n` (R170). -/
  | fill (n : Nat)
  /-- A request of a mode D gang to a remote home: gang and CPU tag. -/
  | gang (g tag : Nat)
  /-- MemWrPtl of a gang: first the ownership, then the WrBack: line, byte enables and bytes. -/
  | gangMerge (g tag line mask : Nat) (bytes : List Byte)
deriving DecidableEq, Repr

/-- A transaction of a requester of this E9, by tag. -/
structure Ask where
  who : Asker
  pkt : Packet
  /-- Times sent again (R375). -/
  resent : Nat := 0
  /-- RTE_EPOCH.INSTALLS when it was sent. -/
  installs : Nat := 0
deriving DecidableEq, Repr

/-- A transaction of this E9 that has ended: its tag, status, old value (of an atomic) and lines. -/
structure Ended where
  tag : Nat
  status : Status
  old : Nat
  lines : List (Nat × List Byte)
deriving DecidableEq, Repr

/-- A General Media event record of a mode D gang (R123). -/
structure MediaEvent where
  handle : Nat
  status : Nat
  addr : Nat
  time : Nat
deriving DecidableEq, Repr

/-- A back-invalidation snoop at a mode D gang that the CPU has not answered (R161). -/
structure BiSnoop where
  gang : Nat
  home : Nat
  part : Nat
  tc : Nat
  txn : Nat
  saddr : Nat
  lmask : Nat
  kind : SnoopKind
deriving DecidableEq, Repr

/-- An engine's write to bytes of one line that waits for a fill, or for the WbAck of the line's writeback (R109, R168, R170). -/
structure EngWrite where
  id : Nat
  part : Nat
  addr : Nat
  data : List Byte
  /-- Whether the fill has been asked for. -/
  asked : Bool := false
deriving DecidableEq, Repr

/-- The pool. -/
structure Pool where
  /-- Tile entries by their place in tray DRAM (Table 3.2, R81). -/
  tiles : Tab Tile := []
  /-- Block-table entries, by 2^40 × tray + 2^30 × flash channel + block (R100). -/
  blocks : Tab Block := []
  trays : Tab Tray := []
  /-- Frames in use, by 2^29 × tray + frame: the pool tile that holds each, or from 2^42 on a copied tile or a tile map of a
  version. -/
  frames : Tab Nat := []
  /-- PINNED ranges by BASE_TILE: the channels charged at their install, as 16 × tray + channel with the frames free on each
  then, and the number of tiles (R112). -/
  charges : Tab (List (Nat × Nat) × Nat) := []
  /-- Memory keys, by 4 × partition + slot (R432). -/
  keys : Tab Nat := []
  /-- Flash tiles in use, by 2^34 × tray + index: the pool tile each holds. -/
  flash : Tab Nat := []
  ops : List TierOp := []
  nextOp : Nat := 1
  /-- Tier accesses that have ended: who, status and sector. -/
  done : List (TierWho × Status × List Byte) := []
  tops : Tab TrayRec := []
  nextTag : Nat := 1
  /-- Flash tiles whose moves wait: pool tiles, oldest first. -/
  moves : List Nat := []
  /-- FLASH tiles whose promotion a HOT hint started and which wait for a frame (R113). -/
  wanted : List Nat := []
  xfers : Tab Xfer := []
  nextXfer : Nat := 1
  /-- Tiles still to be visited by the key sweep of a partition (R433). -/
  sweeps : Tab (List Nat) := []
  /-- Ranges redirected to their replicas and ranges that failed, by BASE_TILE (R117, R118). -/
  redirected : List Nat := []
  failed : List Nat := []
  /-- Replica copies under way: BASE_TILE of the survivor and the tiles to come (R119). -/
  replicas : Tab (List Nat) := []
  /-- Write-cache lines by key. -/
  cache : Tab CacheLine := []
  writes : Nat := 0
  banks : Tab Bank := []
  txns : Tab HTxn := []
  reqs : Tab HomeReq := []
  nextReq : Nat := 1
  waits : List LineWait := []
  combs : Tab Comb := []
  nextComb : Nat := 1
  versions : List Version := []
  views : List View := []
  stores : Tab Store := []
  nextStore : Nat := 1
  asks : Tab Ask := []
  nextAsk : Nat := 1
  /-- Transactions of this E9 that have ended and whose askers are not told yet. -/
  ended : List Ended := []
  /-- The device event log of each mode D gang, oldest first: handle, status code, pool address and time (R123). -/
  media : Tab (List MediaEvent) := []
  nextHandle : Nat := 1
  /-- Commands that wait for a tray and have their status: the job and the status. -/
  cmdDone : List (Nat × Status) := []
  /-- Zeroing operations under way for the scrub of partition `p` (R426). -/
  scrubs : Tab Nat := []
  /-- Tray channels that await zeroing (R426): tray, channel, whether of flash. -/
  unzeroed : List (Nat × Nat × Bool) := []
  biSnoops : List BiSnoop := []
  /-- Writes of engines that wait, oldest first. -/
  engWrites : List EngWrite := []
  nextEngWrite : Nat := 1
deriving DecidableEq, Repr

end Sys2Proof.Machine
end

