-- ==== Sys2Proof/Machine/Parts/Power.lean ====
section
/-!
DEFINITION. The state of the pace and power unit beside its registers: the pace loop, time alignment, the reset pins and
power states (spec/02_pace_and_time.md, spec/16_power_reset_boot.md, spec/17_electrical_and_package.md).
-/
namespace Sys2Proof.Machine

/-- A change of the commanded level under way (R59). -/
inductive Change where
  | none
  /-- A raise to a level: the loop has been retargeted. -/
  | raise (l : Nat)
  /-- A lowering to a level, whose loop waits for the kernels admitted against the old floor. -/
  | lower (l : Nat)
  /-- A lowering whose loop has been retargeted; the voltage moves to the band of the level. -/
  | settle (l : Nat)
deriving DecidableEq, Repr

/-- The pace controller (R47 to R62). -/
structure Pace where
  /-- Normalised rates of the 256 sensors in each window of this period, newest window first; none where a count is zero or
  fails its complement check. -/
  windows : List (List (Option Nat)) := []
  /-- The level whose target the loop follows. -/
  target : Nat := 4
  change : Change := .none
  /-- Consecutive periods in which rmin met the target, and in which it lay below the floor of LEVEL_ACTIVE with the voltage
  at the ceiling or the loop open (R59, R62). -/
  met : Nat := 0
  under : Nat := 0
  /-- The highest die temperature of the last period, in 0.125 °C. -/
  tmax : Int := 0
  /-- The voltage write under way and the tries made (R53). -/
  avs : Option (Nat × Nat) := none
  /-- A voltage write has failed for good, and none has succeeded since AVS_FAULT was cleared (R53). -/
  avsBad : Bool := false
deriving DecidableEq, Repr

/-- The correction of the time base (R69). -/
structure Align where
  /-- Whether the first alignment has been made since EN was set or the parent link entered service. -/
  done : Bool := false
  /-- ns still to be slewed, and the raw ticks since the last of them. -/
  slew : Int := 0
  phase : Nat := 0
deriving DecidableEq, Repr

/-- A request of a mode D gang's CPU held in Eaves (R334). -/
structure HeldCpu where
  gang : Nat
  tag : Nat
  /-- 0 MemRd, 1 MemRdData, 2 MemWr, 3 MemWrPtl. -/
  op : Nat
  dpa : Nat
  /-- What MemRd asks for, or the byte enables of MemWrPtl. -/
  arg : Nat := 0
  data : List Byte := []
deriving DecidableEq, Repr

/-- Pins, clocks and the passage between power states. -/
structure Power where
  /-- PORST_N and PERST_N are low. -/
  porst : Bool := true
  perst : Bool := true
  /-- THERMTRIP_N is driven low (R533). -/
  thermtrip : Bool := false
  /-- The setting still in force on the pads of group 2 while an SPI transfer of Newt's ends (R531). -/
  padWait : Option Nat := none
  /-- Time at which the wake began (R505), and a plane reset that waits for its end (R511): data, control, with the cause. -/
  wakeFrom : Nat := 0
  resetData : Option Nat := none
  resetControl : Option Nat := none
  held : List HeldCpu := []
  /-- Whether the entry into Eaves has reached step 5 (Table 16.2), and the wake that follows it: cause and request (R503). -/
  stepFive : Bool := false
  wakeAfter : Option (Nat × Nat) := none
  /-- IDE streams of the host attach port in their insecure state (R338). -/
  insecure : List Nat := []
  /-- Planes (0 data, 1 control) that hold a stuck stage, as Newt was told (R72, R496). -/
  stuck : List Nat := []
deriving DecidableEq, Repr

end Sys2Proof.Machine
end

