-- ==== Sys2Proof/Machine/Parts/Seq.lean ====
section
/-!
DEFINITION. The state of the command sequencer, of kernels and collectives (spec/06_compute_cells.md to
spec/08_commands_and_scheduling.md), and of shadow comparison (spec/14_errors_and_reliability.md R457 to R459).
-/
namespace Sys2Proof.Machine

/-- Where a command came from (R271). -/
inductive Origin where
  /-- The queue's ring in host memory. -/
  | ring
  /-- A CMD packet of endpoint `eid`. -/
  | fabric (eid : Nat)
  /-- Newt's agent port: the management session or mailbox (16) that waits for the reply, or Newt itself (17). -/
  | newt (who : Nat)
deriving DecidableEq, Repr

/-- A locator (Table 8.3), short addresses included. -/
structure Locator where
  addr : Nat := 0
  space : Nat := 0
  eid : Nat := 0
  engine : Nat := 0
  countEn : Bool := false
  counter : Nat := 0
  /-- Whether a reserved bit is set. -/
  rsv : Bool := false
deriving DecidableEq, Repr

/-- The stages of a command (R281 to R301). -/
inductive CmdPhase where
  /-- Fetched and not started. -/
  | fetched
  /-- A kernel held for the next frame (R290). -/
  | held
  /-- A kernel admitted, its engines not yet idle. -/
  | ready
  | running
  /-- A kernel that has ended with its status fixed; KERNEL_COMPLETE follows. -/
  | ended (st : Status) (res : Nat)
deriving DecidableEq, Repr

/-- A WAIT in progress (R182). -/
structure WaitRec where
  counter : Nat
  scope : Nat
  target : Nat
  /-- The status, once it is fixed, and VALUE at that moment. -/
  fixed : Option (Status × Nat) := none
deriving DecidableEq, Repr

/-- A command, from its fetch to its completion. -/
structure Cmd where
  id : Nat
  /-- 0 to 1,023, or 1,024: Newt's path. -/
  queue : Nat
  part : Nat
  origin : Origin
  /-- The 512 bits of the packet. -/
  slot : Nat
  phase : CmdPhase := .fetched
  /-- Deadline, place in the order of admission, scaled time in ns and floor in percent at admission. -/
  deadline : Option Nat := none
  admitted : Nat := 0
  scaled : Nat := 0
  floor : Nat := 100
  engines : List Nat := []
  /-- The watchdog's limit in ns (R300). -/
  limit : Nat := 0
  /-- The packet that runs: the command's own, or one of its chain. -/
  cur : Nat := 0
  pc : Nat := 0
  /-- Progress of the packet that runs; at stage 9 it only waits for what it has issued, to end with `verdict` and
  `count` unless one of those failed. -/
  stage : Nat := 0
  count : Nat := 0
  verdict : Status := .ok
  /-- Pool lines read so far, with their statuses, and the lines asked for. -/
  got : Tab (Status × List Byte) := []
  asked : List (Nat × Nat) := []
  /-- Transactions and writes it waits for: by number, with the status where one has ended. -/
  waits : List (Nat × Option Status) := []
  /-- WRITE packets that wait on the engines' limit of requests in flight (R200, R239). -/
  unsent : List Packet := []
  wait : Option WaitRec := none
  /-- The descriptor of ATTEND and PROJECT, as it was read when the command started (R259). -/
  kept : Option Nat := none
  /-- Codebook slots pinned (R253). -/
  pins : List Nat := []
  /-- Status and result the packet ends with once what it waits for has ended. -/
  ending : Option (Status × Nat) := none
deriving DecidableEq, Repr

/-- A reply not yet written (Table 8.2). -/
structure Reply where
  tag : Nat
  status : Nat
  queue : Nat
  result : Nat
  notify : Bool
deriving DecidableEq, Repr

/-- The run-time of a queue. -/
structure Queue where
  /-- Slots asked of the host, from SQ_HEAD on, and the tail last written. -/
  tail : Nat := 0
  fetching : Nat := 0
  /-- Completion ring: next slot to write and next slot the host frees, both counted without wrapping, and the replies
  that wait. -/
  cqTail : Nat := 0
  cqHead : Nat := 0
  replies : List Reply := []
  disabling : Bool := false
  /-- Budget left in ns and the end of the frame. -/
  budget : Nat := 0
  frameEnd : Nat := 0
  /-- A doorbell latched in Eaves (R277). -/
  latched : Option Nat := none
deriving DecidableEq, Repr

/-- A write or a flush of an issuer that has not completed (R180). -/
structure OutWrite where
  /-- WTAG or CTAG of a packet, or the tag of a pool transaction. -/
  tag : Nat
  /-- Whether `tag` is of a pool transaction. -/
  pool : Bool
  /-- The command whose write it is, and its issuer: 2 × queue for a queue, 2 × command + 1 for a kernel. -/
  cmd : Nat
  issuer : Nat
  /-- Whether it is an add (COUNTER tadpole). -/
  add : Bool := false
deriving DecidableEq, Repr

/-- A completion unit (R208, R210): its arrival mask and accumulator, as codes of the carrier format. -/
structure CUnit where
  mask : Nat := 0
  acc : List Nat := []
  /-- Whether it was sent up as part of a partial. -/
  sent : Bool := false
deriving DecidableEq, Repr

/-- An open collective (R205 to R219): one context in every cell of the partition. -/
structure Coll where
  key : Nat
  part : Nat
  /-- The plan's STG offset, header and lists. -/
  planOff : Nat
  plan : Nat
  contrib : List Nat
  scatter : List Nat
  sampling : List Nat
  /-- The command that opened it and the cells it spans. -/
  cmd : Nat
  cells : List Nat
  units : Tab CUnit := []
  committed : Bool := false
  /-- A non-root: units of the result that have passed or been written. -/
  seen : List Nat := []
  /-- FGEN and SEQ of the partials sent (R218). -/
  sent : List (Nat × Nat) := []
deriving DecidableEq, Repr

/-- An early arrival (R211). -/
structure Early where
  part : Nat
  collId : Nat
  pkt : Packet
  /-- Tick at which it is discarded. -/
  due : Nat
  /-- Its number in the packet buffer, where it is held. -/
  slot : Nat
deriving DecidableEq, Repr

/-- A unit that a shadow has completed and whose reference is still to come (R458): the place of its first element, the
bytes of an element and the elements' codes in a format of Table 6.2. -/
structure ShadowUnit where
  part : Nat
  collId : Nat
  off : Nat
  size : Nat
  fmt : Nat
  codes : List Nat
  /-- Tick at which the reference counts as missing. -/
  due : Nat
deriving DecidableEq, Repr

/-- A reference held until the shadow's own units are complete (R458), with the units already compared with it. -/
structure ShadowRef where
  pkt : Packet
  used : Nat := 0
  due : Nat
deriving DecidableEq, Repr

/-- A digest of one side (R459): queue where it is the shadow's own, TAG, status and digest. -/
structure ShadowDigest where
  own : Bool
  tag : Nat
  status : Nat
  digest : Nat
  due : Nat
deriving DecidableEq, Repr

/-- The sequencer and what runs under it. -/
structure Seq where
  /-- Commands not completed, in order of arrival. -/
  cmds : List Cmd := []
  nextCmd : Nat := 1
  nextAdmit : Nat := 1
  queues : Tab Queue := []
  outs : List OutWrite := []
  nextTag : Nat := 1
  colls : List Coll := []
  nextColl : Nat := 1
  early : List Early := []
  shadows : List ShadowUnit := []
  refs : List ShadowRef := []
  digests : List ShadowDigest := []
  /-- Collectives whose first mismatch has been recorded: partition and COLL_ID. -/
  mismatched : List (Nat × Nat) := []
  /-- COLL_IDs remembered for one collective timeout after a close or an abort (R209, R219): partition, COLL_ID, and
  whether an abort is what is kept. -/
  kept : List (Nat × Nat × Bool) := []
  /-- Commands of Newt's path that have ended: who waits for each, its TAG, status and RESULT. -/
  newtDone : List (Nat × Nat × Nat × Nat) := []
  /-- STG bytes by 2^31 × channel + offset in it; SCR bytes by 2^23 × engine + offset. -/
  stg : Mem := []
  scr : Mem := []
  /-- Whether the host link is up (R339), and ring fetching may run. -/
  hostUp : Bool := false
deriving DecidableEq, Repr

end Sys2Proof.Machine
end

