-- ==== Sys2Proof/Machine/Parts/Timer.lean ====
section
/-!
DEFINITION. The timers of the part (Table 2.4 and the rules of each), by name. A timer that runs is in Chip.timers with
the time-base tick at which it is due.
-/
namespace Sys2Proof.Machine

/-- The timers. -/
inductive Timer where
  /-- R139: transaction `n` of a requester of this E9. -/
  | txn (n : Nat)
  /-- R348: the tray operation of this TTAG. -/
  | tray (n : Nat)
  /-- R142: the snoop of host `e` for line `l`. -/
  | snoop (l e : Nat)
  /-- R153: the Heartbeat interval of caching host `e`. -/
  | heartbeat (e : Nat)
  /-- R155: the walk of the partition's banks for host `e`. -/
  | walk (e : Nat)
  /-- R147: combining entry `n`. -/
  | combining (n : Nat)
  /-- R117: port `n` out of service. -/
  | absence (n : Nat)
  /-- R93: the binding of tray `t`. -/
  | binding (t : Nat)
  /-- R90: the profile timer of tray `t`. -/
  | profile (t : Nat)
  /-- R97: the cleaner's scan. -/
  | cleaner
  /-- R61: the throttle's next lowering. -/
  | throttle
  /-- R69: the next time-tadpole exchange. -/
  | exchange
  /-- R324: the replay timer of port `n`. -/
  | replay (n : Nat)
  /-- R329: the training timer of port `n`. -/
  | training (n : Nat)
  /-- R329: the backoff of port `n`. -/
  | backoff (n : Nat)
  /-- R386: the reassembly of buffered packet `id`. -/
  | reassembly (id : Nat)
  /-- R368: the hold of fenced packet `id`. -/
  | fenceHold (id : Nat)
  /-- R367: the fence of interval `g` of flow `f`. -/
  | sourceFence (f g : Nat)
  /-- R371: DRAIN_HOLD_US of the DRAINING version. -/
  | drainHold
  /-- R182: the deadline of WAIT `n`. -/
  | waitDeadline (n : Nat)
  /-- R194: the HANDOFF record `i`. -/
  | handoff (i : Nat)
  /-- R217: the watchdog of the collective context `n`. -/
  | collective (n : Nat)
  /-- R219: the memory of abort of collective `c` of partition `p`. -/
  | abortMemory (p c : Nat)
  /-- R301: the kernel watchdog of job `n`. -/
  | kernel (n : Nat)
  /-- R234, R269: the reset of engine `n`. -/
  | engineReset (n : Nat)
  /-- R465: the management watchdog. -/
  | management
  /-- R470: session `n`. -/
  | session (n : Nat)
  /-- R502: Eaves entry. -/
  | eavesEntry
deriving DecidableEq, Repr

end Sys2Proof.Machine
end

