-- ==== Sys2Proof/Machine/Parts/Args.lean ====
section
/-!
DEFINITION. What the commands of Syntax.lean carry beside numbers, packets and flits: answers of attached devices, command
packets by their fields, causes of resets and outcomes of what the model does not carry out itself (log entry 5).
-/
namespace Sys2Proof.Machine

/-- What a mode C device answers (R88). -/
inductive CxlAnswer where
  /-- The answer of a MemRd or MemWr at a device address: bytes, and whether the data is marked as poisoned. -/
  | mem (addr : Nat) (data : List Byte) (poison : Bool)
  /-- The end of a setup step: whether it went well, and the device's capacity in MiB where the step finds it out. -/
  | step (ok : Bool) (capMiB : Nat)
deriving DecidableEq, Repr

/-- Responses of a CPU to a back-invalidation snoop (Table 4.11). -/
inductive BiRsp where
  | birspI | birspS | birspE
deriving DecidableEq, Repr

/-- What an SPDM fragment in a link-management tadpole says (R328): a KEY_UPDATE asked of this E9, the partner's
confirmation, or a failure. -/
inductive LinkFragment where
  | ask | confirm | fail
deriving DecidableEq, Repr

/-- An SPDM request. -/
inductive SpdmReq where
  /-- GET_MEASUREMENTS of one block, in raw form or as a digest. -/
  | measurement (index : Nat) (raw : Bool)
  /-- Any other request: its code and the bytes after it (log entry 46). -/
  | other (code : Nat) (data : List Byte)
deriving DecidableEq, Repr

/-- Where a command packet comes from (R271): its queue's ring, a CMD packet of endpoint `eid`, or Newt's agent port. -/
inductive CmdFrom where
  | ring
  | fabric (eid : Fin 16384)
  | newt
deriving DecidableEq, Repr

/-- The header of a command packet (Table 8.1) but for its opcode, and where the packet comes from. -/
structure CmdHead where
  from_ : CmdFrom
  queue : Fin 1024
  barrier : Bool := false
  notify : Bool := false
  quiet : Bool := false
  tag : Nat := 0
deriving DecidableEq, Repr

/-- A counter reference (R279). -/
structure CounterRef where
  index : Fin 16384
  eid : Fin 16384
deriving DecidableEq, Repr

/-- The parameters of GATHER and SCATTER beside their contiguous span (Table 8.6): the list's offset and space, its form, the rows'
space. -/
structure RowArgs where
  list : Nat
  scrList : Bool
  indexed : Bool
  rowSpace : Nat
  count : Nat
  rowBytes : Nat
  base : Nat
  stride : Nat
deriving DecidableEq, Repr

/-- The parameters of FILTER_SCAN (Table 8.6). -/
structure ScanArgs where
  records : Locator
  count : Nat
  recordBytes : Nat
  keyOffset : Nat
  keyFmt : Nat
  combine : Nat
  wholeRecords : Bool
  op1 : Nat
  op2 : Nat
  pred : Nat
  output : Locator
  outLen : Nat
  baseIndex : Nat
deriving DecidableEq, Repr

/-- The parameters of ENCODE and CODEBOOK_BUILD (Table 8.7). -/
structure EncodeArgs where
  slot : Nat
  rate : Nat
  gen : Nat
  srcFmt : Nat
  src : Locator
  count : Nat
  clip : Nat
  tol : Nat
  dst : Locator
  dstLen : Nat
deriving DecidableEq, Repr
structure BuildArgs where
  slot : Nat
  rate : Nat
  mode : Nat
  iter : Nat
  srcFmt : Nat
  src : Locator
  count : Nat
  clip : Nat
deriving DecidableEq, Repr

/-- The transaction whose timer expires: one of a requester, by tag, or a tray operation, by TTAG (R139, R348). -/
inductive TimedTxn where
  | ask (tag : Nat)
  | tray (ttag : Nat)
deriving DecidableEq, Repr

/-- What the check symbols of a code word that is read say (R445, R446). -/
inductive EccResult where
  | clean | corrected | failed
deriving DecidableEq, Repr

/-- Why the management plane is reset (Table 15.11). -/
inductive MgmtCause where
  | lockstep | watchdog | planeReset | sramError | activation
deriving DecidableEq, Repr

/-- Planes that have a reset of their own beside management (R28). -/
inductive Plane where
  | data | control
deriving DecidableEq, Repr

end Sys2Proof.Machine
end

