-- ==== Sys2Proof/Syntax.lean ====
section
/-!
DEFINITION. The commands of the part: one constructor for each row of spec/opcode_table.json, with what the command carries. A
constructor's comment gives the row's mnemonic and the rules that define it.
-/
namespace Sys2Proof
open Sys2Proof.Machine

/-- The commands. -/
inductive Instr where
  /-- REGISTER_WRITE. R548: a write of `bytes` bytes at BAR0 offset `off`; Newt firmware writes with the authority of an image (R56, R91). -/
  | registerWrite (src : Source) (off bytes data : Nat)
  /-- OWNER_BYTE_WRITE. R417: owner byte `half % 256` with its complement above it, to unit `unit` of kind `kind` (Table 13.1). -/
  | ownerByteWrite (src : Source) (kind : Fin 11) (unit half : Nat)
  /-- TB_LO_READ. R545, R537: a read of `bytes` bytes at BAR0 offset `off`; at PCE_TB_LO it loads the latch of the source. -/
  | tbLoRead (src : Source) (off bytes : Nat)
  /-- SENSOR_WINDOW_CLOSE. R47: each of the 256 sensors' count, with the result of its complement check. -/
  | sensorWindowClose (counts : List (Nat × Bool))
  /-- PACE_CONTROL_STEP. R50, Table 2.1: `tmax` is the highest die temperature, in 0.125 °C. -/
  | paceControlStep (tmax : Int)
  /-- AVS_WRITE_DONE. R53: the voltage write under way ends. -/
  | avsWriteDone (ok : Bool)
  /-- PCE_POLICY_WRITE. R59: PCE_POLICY is written whole. -/
  | pcePolicyWrite (src : Source) (data : Nat)
  /-- LOWER_RETARGET. R59: the loop of a lowering retargets. -/
  | lowerRetarget
  /-- THROTTLE_LOWERING. R61: 1 ms of throttling has passed. -/
  | throttleLowering
  /-- TIME_TADPOLE_EXCHANGE. R69: the exchange interval ends. -/
  | timeTadpoleExchange
  /-- TIME_TADPOLE. R69, R347: a TIME tadpole arrives on port `n`. -/
  | timeTadpole (n : Fin 128) (p : Packet)
  /-- STUCK_HANDSHAKE_TIMEOUT. R72: the stuck-handshake timer of a stage of a plane expires. -/
  | stuckHandshakeTimeout (stage : Nat) (plane : Plane)
  /-- STUCK_STAGE_RESET. R496: Newt firmware resets each plane that holds a stuck stage. -/
  | stuckStageReset
  /-- TRANSACTION_TIMEOUT. R139, Table 2.4: a requester's transaction timer expires. -/
  | transactionTimeout (t : TimedTxn)
  /-- DATA_PLANE_RESET. R28, R508: the data plane is reset; the cause is that of Table 15.11. -/
  | dataPlaneReset (cause : Fin 6)
  /-- CONTROL_PLANE_RESET. R28, R508: the control plane is reset; the cause is that of Table 15.11. -/
  | controlPlaneReset (cause : Fin 6)
  /-- MANAGEMENT_PLANE_RESET. R497: Newt is reset. -/
  | managementPlaneReset (cause : MgmtCause)
  /-- BUFFER_AUDIT. R393: the leaked-buffer detector audits both pools. -/
  | bufferAudit
  /-- SWC_CLEAR_DROPS. R397: 1 is written to SWC_CTL.CLEAR_DROPS. -/
  | swcClearDrops (src : Source)
  /-- SWC_AUDIT_REQUEST. R394: 1 is written to SWC_CTL.AUDIT. -/
  | swcAuditRequest (src : Source)
  /-- RD_SHARED. R136, Table 4.6: a RdShared reaches the home. -/
  | rdShared (p : Packet)
  /-- RD_OWN. R136, Table 4.6: a RdOwn reaches the home. -/
  | rdOwn (p : Packet)
  /-- RD_CURRENT. R136, Table 4.6: a RdCurrent reaches the home. -/
  | rdCurrent (p : Packet)
  /-- WRBACK. R137: a WrBack reaches the home. -/
  | wrBack (p : Packet)
  /-- CLEAN_EVICT. R136: a CleanEvict reaches the home. -/
  | cleanEvict (p : Packet)
  /-- ATOMIC_ANY. R147, R149: an AtomicAny arrives at this E9. -/
  | atomicAny (p : Packet)
  /-- HEARTBEAT. R154: a Heartbeat of a caching host. -/
  | heartbeat (p : Packet)
  /-- SNOOP_RESPONSE. R140, R141: a response to a snoop reaches the home. -/
  | snoopResponse (p : Packet)
  /-- SNOOP_TIMEOUT. R142: the snoop of transaction `txn` to host `eid` expires. -/
  | snoopTimeout (txn : Nat) (eid : Fin 16384)
  /-- HEARTBEAT_TIMEOUT. R153: no Heartbeat of host `eid` within its interval. -/
  | heartbeatTimeout (eid : Fin 16384)
  /-- FAILURE_WALK_DONE. R155: the walk for failed host `eid` ends. -/
  | failureWalkDone (eid : Fin 16384)
  /-- HOST_DECLARE. R163: 1 is written to HOM_HOST[e].DECLARE. -/
  | hostDeclare (src : Source) (eid : Fin 16384)
  /-- HOST_FAILED_CLEAR. R160: 1 is written to HOM_HOST[e].FAILED. -/
  | hostFailedClear (src : Source) (eid : Fin 16384)
  /-- COMBINING_WINDOW_CLOSE. R147: combining entry `n` closes. -/
  | combiningWindowClose (n : Nat)
  /-- ATOMIC_RSP. R148: an AtomicRsp reaches a combining E9 or an engine. -/
  | atomicRsp (p : Packet)
  /-- DATA_COMPLETION. R136: a Data completion reaches its requester. -/
  | dataCompletion (p : Packet)
  /-- WBACK_COMPLETION. R109: a WbAck reaches the writing E9. -/
  | wbackCompletion (p : Packet)
  /-- ERR_COMPLETION. R135, R375: an Err reaches its requester. -/
  | errCompletion (p : Packet)
  /-- ENGINE_POOL_READ. R109, R445, R446: an engine reads the line of a pool address; `ecc` is what the check symbols of a held line say. -/
  | enginePoolRead (engine : Fin 80) (addr : Nat) (ecc : EccResult)
  /-- ENGINE_POOL_WRITE. R109, R170: an engine writes pool bytes. -/
  | enginePoolWrite (engine : Fin 80) (addr : Nat) (data : List Byte)
  /-- CLEANER_SCAN. R97: the cleaner scans the DRAM tier. -/
  | cleanerScan
  /-- TRAY_DATA_RECEIVE. R348, Table 10.5: a TRAY_DATA answer arrives. -/
  | trayDataReceive (p : Packet)
  /-- TRAY_CPL_RECEIVE. R348, Table 10.5: a TRAY_CPL answer arrives. -/
  | trayCplReceive (p : Packet)
  /-- CXL_MEM_RESPONSE. R88: the device of a mode C tray answers. -/
  | cxlMemResponse (tray : Fin 32) (a : CxlAnswer)
  /-- TRAY_MSG_RECEIVE. R93, R349: a TRAY_MSG of a tray arrives. -/
  | trayMsgReceive (tray : Fin 32) (p : Packet)
  /-- BIND_ACK_TIMEOUT. R93: the binding timer of a tray expires. -/
  | bindAckTimeout (tray : Fin 32)
  /-- PROFILE_TIMER_EXPIRY. R90: the profile timer of a tray expires. -/
  | profileTimerExpiry (tray : Fin 32)
  /-- PORT_ABSENCE_TIMEOUT. R117, R153: port `n` has been out of service for 2 ms. -/
  | portAbsenceTimeout (n : Fin 128)
  /-- REPLICA_COPY_DONE. R119: the copy into the replica of the range at tile `base` ends. -/
  | replicaCopyDone (base : Nat)
  /-- TRAY_FORMAT. R86, Table 8.9: TRAY_FORMAT. -/
  | trayFormat (h : CmdHead) (tray : Fin 32)
  /-- TRAY_DETACH. R89, Table 8.9: TRAY_DETACH. -/
  | trayDetach (h : CmdHead) (tray : Fin 32)
  /-- MEMRD. R122: MemRd, or MemRdData, of the CPU of a mode D gang; `what` asks for 0 no state, 1 shared, 2 ownership (Table 4.11). -/
  | memRd (g : Fin 32) (tag : Nat) (withData : Bool) (what : Fin 3) (dpa : Nat)
  /-- MEMWR. R122: MemWr of the CPU of a mode D gang. -/
  | memWr (g : Fin 32) (tag dpa : Nat) (data : List Byte)
  /-- MEMWRPTL. R122, R161: MemWrPtl of the CPU of a mode D gang, with its byte enables. -/
  | memWrPtl (g : Fin 32) (tag dpa mask : Nat) (data : List Byte)
  /-- BI_SNOOP_RESPONSE. R161, Table 4.11: the CPU answers a back-invalidation snoop of the line at a pool address. -/
  | biSnoopResponse (g : Fin 32) (addr : Nat) (r : BiRsp)
  /-- GANG_HEARTBEAT. R161: a mode D gang sends its Heartbeat. -/
  | gangHeartbeat (g : Fin 32)
  /-- IDENTIFY_MEMORY_DEVICE. R121, R124: the capacity of the gang, in 256 MiB (log entry 53). -/
  | identifyMemoryDevice (g : Fin 32)
  /-- GET_SUPPORTED_LOGS. R124: the payload is open (log entry 53). -/
  | getSupportedLogs (g : Fin 32)
  /-- GET_LOG. R124: the payload is open (log entry 53). -/
  | getLog (g : Fin 32)
  /-- GET_HEALTH_INFO. R124: the payload is open (log entry 53). -/
  | getHealthInfo (g : Fin 32)
  /-- GET_EVENT_RECORDS. R123, R124: the device event log of the gang. -/
  | getEventRecords (g : Fin 32)
  /-- CLEAR_EVENT_RECORDS. R124: records leave the device event log by handle. -/
  | clearEventRecords (g : Fin 32) (handles : List Nat)
  /-- UNSUPPORTED_MAILBOX_COMMAND. R124: any other command completes with Unsupported. -/
  | unsupportedMailboxCommand (g : Fin 32)
  /-- SQ_TAIL. R274: SQ_TAIL of queue `q` is written in BAR2. -/
  | sqTail (src : Source) (q : Fin 1024) (bytes data : Nat)
  /-- CQ_HEAD. R275: CQ_HEAD of queue `q` is written in BAR2. -/
  | cqHead (src : Source) (q : Fin 1024) (bytes data : Nat)
  /-- SQ_FETCH_COMPLETE. R274: slots fetched from the ring of queue `q` arrive. -/
  | sqFetchComplete (q : Fin 1024) (slots : List Nat)
  /-- CMD_PACKET. R276: a CMD packet delivers command slots. -/
  | cmdPacket (p : Packet)
  /-- NOP. R283, Table 8.4. -/
  | nop (h : CmdHead)
  /-- BARRIER. R283, Table 8.4. -/
  | barrier (h : CmdHead)
  /-- CANCEL. R282, Table 8.4. -/
  | cancel (h : CmdHead) (queue tag : Nat)
  /-- JOB_SUSPEND. R296, Table 8.4. -/
  | jobSuspend (h : CmdHead) (job : Nat)
  /-- JOB_RESUME. R296, Table 8.4. -/
  | jobResume (h : CmdHead) (job : Nat)
  /-- COPY. R167, Table 8.5. -/
  | copy (h : CmdHead) (src dst : Locator) (len : Nat)
  /-- FILL. R283, Table 8.5. -/
  | fill (h : CmdHead) (dst : Locator) (len pattern : Nat)
  /-- FLUSH_RANGE. R109, Table 8.5. -/
  | flushRange (h : CmdHead) (addr len : Nat)
  /-- TIER_HINT. R113, Table 8.5. -/
  | tierHint (h : CmdHead) (addr len mode : Nat)
  /-- PREFETCH. R283, Table 8.5. -/
  | prefetch (h : CmdHead) (addr len : Nat)
  /-- COUNTER_SET. R181, Table 8.5. -/
  | counterSet (h : CmdHead) (c : CounterRef) (mode value job : Nat)
  /-- COUNTER_ADD. R179, Table 8.5. -/
  | counterAdd (h : CmdHead) (c : CounterRef) (scope operand : Nat)
  /-- WAIT. R182, Table 8.5; the deadline is in µs from issue, 0 for none. -/
  | wait (h : CmdHead) (c : CounterRef) (scope target deadline : Nat)
  /-- WAIT_COPY. R184, Table 8.5. -/
  | waitCopy (h : CmdHead) (c : CounterRef) (scope target deadline : Nat) (src dst : Locator) (len : Nat)
  /-- WAIT_COMPLETE. R182: the WAIT of a TAG whose status is fixed completes; queue 1,024 is Newt's path. -/
  | waitComplete (q : Fin 1025) (tag : Nat)
  /-- WAIT_DEADLINE. R182: the time base reaches the deadline of a WAIT. -/
  | waitDeadline (q : Fin 1025) (tag : Nat)
  /-- COUNTER_TADPOLE. R179, R347: a COUNTER tadpole arrives. -/
  | counterTadpole (p : Packet)
  /-- WRITE_PACKET. R178: a WRITE packet arrives. -/
  | writePacket (p : Packet)
  /-- STATUS_TADPOLE. R347, R367: a STATUS tadpole arrives. -/
  | statusTadpole (p : Packet)
  /-- VERSION_OPEN. R187, Table 8.8. -/
  | versionOpen (h : CmdHead) (addr mode : Nat)
  /-- VERSION_CLOSE. R191, Table 8.8: OTHER with its EID, where given. -/
  | versionClose (h : CmdHead) (addr : Nat) (other : Option (Fin 16384))
  /-- VERSION_PUBLISH. R190, Table 8.8. -/
  | versionPublish (h : CmdHead) (addr base working : Nat)
  /-- VREGION_VALID_WRITE. R186: word 0 of HOM_VREGION[region] is written. -/
  | vregionValidWrite (src : Source) (region : Fin 4096) (data : Nat)
  /-- OWN_CLAIM. R193, Table 8.8. -/
  | ownClaim (h : CmdHead) (addr expected new : Nat)
  /-- OWN_RELEASE. R193, Table 8.8. -/
  | ownRelease (h : CmdHead) (addr expected next : Nat)
  /-- HANDOFF_EXPIRY. R194: the handoff timer of record `record` expires. -/
  | handoffExpiry (record : Nat)
  /-- LOST_ACK. R159, Table 8.8. -/
  | lostAck (h : CmdHead) (addr len : Nat) (all : Bool)
  /-- REDUCE. R205, R208, Table 8.6: the plan stands at an STG offset. -/
  | reduce (h : CmdHead) (plan : Nat)
  /-- ALLREDUCE. R35, R205, Table 8.6: the plan stands at an STG offset. -/
  | allreduce (h : CmdHead) (plan : Nat)
  /-- REDUCE_SCATTER. R205, Table 8.6: the plan stands at an STG offset. -/
  | reduceScatter (h : CmdHead) (plan : Nat)
  /-- ALLGATHER. R205, Table 8.6: the plan stands at an STG offset. -/
  | allgather (h : CmdHead) (plan : Nat)
  /-- BROADCAST. R205, Table 8.6: the plan stands at an STG offset. -/
  | broadcast (h : CmdHead) (plan : Nat)
  /-- SMAX_MERGE. R215, Table 8.6: the plan stands at an STG offset. -/
  | smaxMerge (h : CmdHead) (plan : Nat)
  /-- TOPK. R222, Table 8.6: the plan stands at an STG offset. -/
  | topk (h : CmdHead) (plan : Nat)
  /-- SAMPLE. R223, Table 8.6: the plan stands at an STG offset. -/
  | sample (h : CmdHead) (plan : Nat)
  /-- COLL_PACKET. R209: a COLL packet arrives. -/
  | collPacket (p : Packet)
  /-- EARLY_ARRIVAL_EXPIRY. R211: early arrivals of a collective have been held for one collective timeout. -/
  | earlyArrivalExpiry (part : Fin 64) (coll : Nat)
  /-- COLLECTIVE_WATCHDOG_EXPIRY. R217: the collective watchdog of open collective `key` expires. -/
  | collectiveWatchdogExpiry (key : Nat)
  /-- ABORT_TADPOLE. R219: an ABORT tadpole arrives. -/
  | abortTadpole (p : Packet)
  /-- ABORT_MEMORY_EXPIRY. R219: an abort kept for a COLL_ID is forgotten. -/
  | abortMemoryExpiry (part : Fin 64) (coll : Nat)
  /-- GATHER. R227, Table 8.6. -/
  | gather (h : CmdHead) (dst : Locator) (a : RowArgs)
  /-- SCATTER. R227, Table 8.6. -/
  | scatter (h : CmdHead) (src : Locator) (a : RowArgs)
  /-- FILTER_SCAN. R229, R230, Table 8.6. -/
  | filterScan (h : CmdHead) (a : ScanArgs)
  /-- KERNEL_LAUNCH. R198, R231, Table 8.7. -/
  | kernelLaunch (h : CmdHead) (chain packets engine : Nat) (anyCell compat : Bool) (core clocked : Nat)
  /-- FRAME_BOUNDARY. R289: a frame of queue `q` begins. -/
  | frameBoundary (q : Fin 1024)
  /-- KERNEL_COMPLETE. R278, R295: the kernel of a TAG that has ended leaves its engines. -/
  | kernelComplete (q : Fin 1025) (tag : Nat)
  /-- KERNEL_WATCHDOG_STOP. R301: the active time of a kernel reaches its limit. -/
  | kernelWatchdogStop (q : Fin 1025) (tag : Nat)
  /-- CELL_RESET. R234: 1 is written to CEL_CTL.RESET. -/
  | cellReset (src : Source) (n : Fin 64)
  /-- CELL_RESET_DONE. R197: the reset of a cell completes. -/
  | cellResetDone (n : Fin 64)
  /-- ATTEND. R259, Table 8.7: the descriptor stands at an STG offset. -/
  | attend (h : CmdHead) (desc : Nat)
  /-- PROJECT. R265, Table 8.7: the descriptor stands at an STG offset. -/
  | project (h : CmdHead) (desc : Nat)
  /-- ENCODE. R252, Table 8.7. -/
  | encode (h : CmdHead) (a : EncodeArgs)
  /-- CODEBOOK_BUILD. R250, R251, Table 8.7. -/
  | codebookBuild (h : CmdHead) (a : BuildArgs)
  /-- CODEBOOK_RETIRE. R254, Table 8.7. -/
  | codebookRetire (h : CmdHead) (slot : Nat)
  /-- MATRIX_TILE_RESET. R269: 1 is written to MTX_CTL.RESET. -/
  | matrixTileReset (src : Source) (n : Fin 16)
  /-- MATRIX_TILE_RESET_DONE. R237: the reset of a matrix tile completes. -/
  | matrixTileResetDone (n : Fin 16)
  /-- QUEUE_ENABLE. R304: 1 is written to SEQ_Q_CTL.ENABLE. -/
  | queueEnable (src : Source) (q : Fin 1024)
  /-- QUEUE_DISABLE. R304: 1 is written to SEQ_Q_CTL.DISABLE. -/
  | queueDisable (src : Source) (q : Fin 1024)
  /-- QUEUE_DISABLE_COMPLETE. R304: a disabled queue is idle. -/
  | queueDisableComplete (q : Fin 1024)
  /-- PARTITION_CREATE. R418, Table 8.9. -/
  | partitionCreate (h : CmdHead) (part : Fin 64)
  /-- PARTITION_RESERVE. R419, Table 8.9. -/
  | partitionReserve (h : CmdHead) (part : Fin 64) (kind first count : Nat) (ret : Bool)
  /-- PARTITION_SEAL. R420, Table 8.9. -/
  | partitionSeal (h : CmdHead) (part : Fin 64)
  /-- SEAL_COMPLETE. R420: the channel-binding exchanges of a seal have ended. -/
  | sealComplete (part : Fin 64)
  /-- PARTITION_DRAIN. R422, Table 8.9. -/
  | partitionDrain (h : CmdHead) (part : Fin 64)
  /-- PARTITION_DRAIN_COMPLETE. R422: queues, engines and the walk are idle. -/
  | partitionDrainComplete (part : Fin 64)
  /-- PARTITION_SCRUB. R424, Table 8.9. -/
  | partitionScrub (h : CmdHead) (part : Fin 64)
  /-- PARTITION_SCRUB_COMPLETE. R427: every row of Table 13.5 has ended. -/
  | partitionScrubComplete (part : Fin 64)
  /-- PARTITION_RELEASE. R427, Table 8.9. -/
  | partitionRelease (h : CmdHead) (part : Fin 64)
  /-- KEY_ROTATE. R432, Table 8.9: kind 0 a memory key, 1 the link keys of a port. -/
  | keyRotate (h : CmdHead) (part : Fin 64) (kind port : Nat)
  /-- EPOCH_INSTALL. R373, Table 8.9. -/
  | epochInstall (h : CmdHead)
  /-- TRNG_HEALTH_FAIL. R429: a TRNG health test fails. -/
  | trngHealthFail
  /-- TRNG_HEALTH_PASS. R429: the TRNG health tests pass again. -/
  | trngHealthPass
  /-- SPDM_REQUEST. R436: an SPDM request to the physical function, or to virtual function `vf`. -/
  | spdmRequest (vf : Option (Fin 64)) (q : SpdmReq)
  /-- FLIT_RECEIVE. R322, R65: a flit arrives on port `n`; `crossingFull` is whether its crossing FIFO is above its mark. -/
  | flitReceive (n : Fin 128) (f : Flit) (crossingFull : Bool)
  /-- FLIT_TRANSMIT. R320: port `n` transmits a flit. -/
  | flitTransmit (n : Fin 128)
  /-- REPLAY_TIMER_EXPIRY. R324: the replay timer of port `n` expires. -/
  | replayTimerExpiry (n : Fin 128)
  /-- LINK_TADPOLE. R328: a link-management tadpole arrives on port `n`; `f` is what its SPDM fragment says (log entry 5). -/
  | linkTadpole (n : Fin 128) (p : Packet) (f : LinkFragment)
  /-- TRAIN_MSG_RECEIVE. R330: a training message arrives on port `n`. -/
  | trainMsgReceive (n : Fin 128) (m : TrainMsg)
  /-- SIGNAL_DETECT. R329: signal on every lane in use of port `n`. -/
  | signalDetect (n : Fin 128)
  /-- SIGNAL_LOST. R329: signal lost on a lane in use of port `n`. -/
  | signalLost (n : Fin 128)
  /-- LOCK. R329: adaptation, alignment and deskew of port `n` complete. -/
  | lock (n : Fin 128)
  /-- TRAINING_TIMER_EXPIRY. R329: the training timer of port `n` expires. -/
  | trainingTimerExpiry (n : Fin 128)
  /-- BACKOFF_EXPIRY. R329: the backoff of port `n` ends. -/
  | backoffExpiry (n : Fin 128)
  /-- SELF_TEST_DONE. R315: the self-test of port `n` ends; a bit for each lane that failed. -/
  | selfTestDone (n : Fin 128) (failed : Fin 16)
  /-- KEY_EXCHANGE_DONE. R327: the SPDM key exchange of port `n` ends. -/
  | keyExchangeDone (n : Fin 128) (ok : Bool)
  /-- LTSSM_DONE. R331: the LTSSM of the gang at port `n` reaches L0 at a width, or fails. -/
  | ltssmDone (n : Fin 128) (ok : Bool) (width : Nat)
  /-- IDE_SETUP_DONE. R331: CXL IDE setup of the gang at port `n` ends. -/
  | ideSetupDone (n : Fin 128) (ok : Bool)
  /-- PORT_RETRAIN. R341: 1 is written to PRT_CTL.RETRAIN. -/
  | portRetrain (src : Source) (n : Fin 128)
  /-- PORT_CLEAR_COUNTS. R341: 1 is written to PRT_CTL.CLEAR_COUNTS. -/
  | portClearCounts (src : Source) (n : Fin 128)
  /-- REFCLK_FAB_LOSS. R314: REFCLK_FAB input `k` is lost. -/
  | refclkFabLoss (k : Fin 8)
  /-- REFCLK_FAB_RETURN. R314: REFCLK_FAB input `k` has been present for 1 ms. -/
  | refclkFabReturn (k : Fin 8)
  /-- VF_FLR. R339: a Function Level Reset of a virtual function. -/
  | vfFlr (vf : Fin 64)
  /-- PF_FLR. R339: a Function Level Reset of the physical function, or a Hot Reset. -/
  | pfFlr
  /-- HOST_LINK_LOSS. R339: the host link is lost without reset. -/
  | hostLinkLoss
  /-- IDE_INTEGRITY_FAILURE. R338: an IDE integrity failure of a stream. -/
  | ideIntegrityFailure (stream : Nat)
  /-- IDE_KM_QUERY. R338: IDE_KM QUERY on the host attach port. -/
  | ideKmQuery (stream : Nat)
  /-- K_SET_GO. R338: IDE_KM K_SET_GO on the host attach port. -/
  | kSetGo (stream : Nat)
  /-- K_SET_STOP. R338: IDE_KM K_SET_STOP on the host attach port. -/
  | kSetStop (stream : Nat)
  /-- KEY_PROG. R338: IDE_KM KEY_PROG on the host attach port. -/
  | keyProg (stream : Nat)
  /-- OUTPUT_SELECT. R398, R445, R446: the traffic manager serves output `o`; `ecc` is what the check symbols of the packet read say. -/
  | outputSelect (o : Fin 128) (ecc : EccResult)
  /-- REASSEMBLY_TIMEOUT. R386: the reassembly timer of buffered packet `id` expires. -/
  | reassemblyTimeout (id : Nat)
  /-- FENCE_HOLD_TIMEOUT. R368: fenced packet `id` has been held for FENCE_HOLD_US. -/
  | fenceHoldTimeout (id : Nat)
  /-- FENCE_DONE. R367: a FENCE_DONE reaches the source edge. -/
  | fenceDone (p : Packet)
  /-- SOURCE_FENCE_EXPIRY. R367: the outstanding fence of an interval of a flow ends unanswered; port 128 is this E9. -/
  | sourceFenceExpiry (port : Fin 129) (edge : Fin 1024) (g : Fin 4)
  /-- ARM. R372: 1 is written to RTE_EPOCH_CTL.ARM. -/
  | arm (src : Source)
  /-- DISARM. R372: 1 is written to RTE_EPOCH_CTL.DISARM. -/
  | disarm (src : Source)
  /-- RTE_CLEAR_DROPS. R376: 1 is written to RTE_EPOCH_CTL.CLEAR_DROPS. -/
  | rteClearDrops (src : Source)
  /-- EPOCH_DRAIN_CLOSE. R371: DRAIN is 0 and DRAIN_HOLD_US has passed. -/
  | epochDrainClose
  /-- REFILL_BOUNDARY. R410: the next refill boundary. -/
  | refillBoundary
  /-- TMG_CLEAR_COUNTS. R414: 1 is written to TMG_CTL.CLEAR_COUNTS. -/
  | tmgClearCounts (src : Source)
  /-- COMPLEMENT_REPAIR. R450: 1 is written to ERR_REPAIR_CTL.GO. -/
  | complementRepair (src : Source)
  /-- SHADOW_MISSING_TIMEOUT. R458: a unit of a collective, or its reference, is missing one collective timeout after the other. -/
  | shadowMissingTimeout (part : Fin 64) (coll off : Nat)
  /-- SHADOW_DIGEST_TIMEOUT. R459: the counterpart of the digest of a TAG is missing 1 ms after the shadow's own. -/
  | shadowDigestTimeout (tag : Nat)
  /-- LOCKSTEP_MISMATCH. R462: Newt's checker core detects a mismatch. -/
  | lockstepMismatch
  /-- MANAGEMENT_WATCHDOG_EXPIRY. R465: the management watchdog reaches 1 s. -/
  | managementWatchdogExpiry
  /-- WATCHDOG_KICK. R465: 1 is written to PCE_MWDOG.KICK. -/
  | watchdogKick (src : Source)
  /-- TLS_HANDSHAKE. R469: a peer opens a TLS 1.3 session on a management port: the digest of its root certificate, whether every other check of R469 passes, and whether the certificate is self-consistent. -/
  | tlsHandshake (port : Fin 2) (digest : Nat) (ok selfOk : Bool)
  /-- SESSION_IDLE_TIMEOUT. R470: session `n` has been idle for the idle limit. -/
  | sessionIdleTimeout (n : Fin 8)
  /-- SESSION_CLOSE. R470: the peer closes session `n`. -/
  | sessionClose (n : Fin 8)
  /-- IDENTIFY. R474, Table 15.6: the command arrives on session `n`. -/
  | identify (n : Fin 8) (head : MgmtHead) (data : List Byte)
  /-- SENSOR_READ. R481, Table 15.6: the command arrives on session `n`. -/
  | sensorReadCmd (n : Fin 8) (head : MgmtHead) (data : List Byte)
  /-- LOG_READ. R474, Table 15.6: the command arrives on session `n`. -/
  | logRead (n : Fin 8) (head : MgmtHead) (data : List Byte)
  /-- LOG_SUBSCRIBE. R474, Table 15.6: the command arrives on session `n`. -/
  | logSubscribe (n : Fin 8) (head : MgmtHead) (data : List Byte)
  /-- SAMPLE_SUBSCRIBE. R488, Table 15.6: the command arrives on session `n`. -/
  | sampleSubscribe (n : Fin 8) (head : MgmtHead) (data : List Byte)
  /-- SPDM. R436, Table 15.6: the command arrives on session `n`. -/
  | spdm (n : Fin 8) (head : MgmtHead) (data : List Byte)
  /-- REG_READ. R475, Table 15.6: the command arrives on session `n`. -/
  | regRead (n : Fin 8) (head : MgmtHead) (data : List Byte)
  /-- REG_WRITE. R475, Table 15.6: the command arrives on session `n`. -/
  | regWrite (n : Fin 8) (head : MgmtHead) (data : List Byte)
  /-- CMD_SUBMIT. R476, Table 15.6: the command arrives on session `n`. -/
  | cmdSubmit (n : Fin 8) (head : MgmtHead) (data : List Byte)
  /-- DECLARE. R477, Table 15.6: the command arrives on session `n`. -/
  | declare (n : Fin 8) (head : MgmtHead) (data : List Byte)
  /-- PLANE_RESET. R508, Table 15.6: the command arrives on session `n`. -/
  | planeReset (n : Fin 8) (head : MgmtHead) (data : List Byte)
  /-- IMAGE_BEGIN. R492, Table 15.6: the command arrives on session `n`. -/
  | imageBegin (n : Fin 8) (head : MgmtHead) (data : List Byte)
  /-- IMAGE_CHUNK. R492, Table 15.6: the command arrives on session `n`. -/
  | imageChunk (n : Fin 8) (head : MgmtHead) (data : List Byte)
  /-- IMAGE_END. R492, Table 15.6: the command arrives on session `n`. -/
  | imageEnd (n : Fin 8) (head : MgmtHead) (data : List Byte)
  /-- SVN_ADVANCE. R491, Table 15.6: the command arrives on session `n`. -/
  | svnAdvance (n : Fin 8) (head : MgmtHead) (data : List Byte)
  /-- ANCHOR_SET. R478, Table 15.6: the command arrives on session `n`. -/
  | anchorSet (n : Fin 8) (head : MgmtHead) (data : List Byte)
  /-- ANCHOR_CLEAR. R478, Table 15.6: the command arrives on session `n`. -/
  | anchorClear (n : Fin 8) (head : MgmtHead) (data : List Byte)
  /-- NET_CONFIG. R474, Table 15.6: the command arrives on session `n`. -/
  | netConfig (n : Fin 8) (head : MgmtHead) (data : List Byte)
  /-- POLICY_SET. R474, Table 15.3: the command arrives on session `n`; the policy record by its fields (log entry 52). -/
  | policySet (n : Fin 8) (head : MgmtHead) (policy : Policy)
  /-- MAILBOX_GO. R480: 1 is written to NWT_HOST_CTL.GO. -/
  | mailboxGo (src : Source)
  /-- SENSOR_POLL. R481: the sensor hub reads source `source`: the code of the reading, and whether the source is up and passes its check. -/
  | sensorPoll (source : Fin 340) (code : Nat) (ok : Bool)
  /-- EVENT_RING_COPY. R486: Newt copies new error-log records into its event ring. -/
  | eventRingCopy
  /-- PERSISTENT_LOG_COPY. R487: Newt copies event-ring records into the persistent log. -/
  | persistentLogCopy
  /-- SAMPLE_FORWARD. R488: Newt pushes sample records, or discards them. -/
  | sampleForward
  /-- PTP_MESSAGE. R472: an IEEE 1588 exchange has measured the offset from the grandmaster, in ns. -/
  | ptpMessage (offset : Int)
  /-- EAVES_ENTER. R501: 1 is written to PCE_PWR_CTL.EAVES_ENTER. -/
  | eavesEnter (src : Source)
  /-- EAVES_ENTRY_PROGRESS. R502, Table 16.2: entry goes on. -/
  | eavesEntryProgress
  /-- EAVES_ENTRY_TIMEOUT. R503: ENTRY_MS expires before step 5. -/
  | eavesEntryTimeout
  /-- WAKE. R504: 1 is written to PCE_PWR_CTL.WAKE. -/
  | wake (src : Source)
  /-- WAKE_COMPLETE. R505: the wake ends. -/
  | wakeComplete
  /-- PORST_N_ASSERT. R510: PORST_N is asserted. -/
  | porstNAssert
  /-- PORST_N_RELEASE. R512, R513: PORST_N is released and the straps are latched. -/
  | porstNRelease (enrol : Bool) (i3c : Fin 16) (mode : Fin 4)
  /-- BOOT_STAGE_ADVANCE. R513, R516: a boot stage completes; a bit for each HBM stack that does not train. -/
  | bootStageAdvance (hbmFail : Fin 64)
  /-- PERST_N_ASSERT. R510: PERST_N is asserted. -/
  | perstNAssert
  /-- PERST_N_RELEASE. R514: PERST_N is released. -/
  | perstNRelease
  /-- DATA_RESET_REQUEST. R508: 1 is written to GLB_RESET_CTL.DATA. -/
  | dataResetRequest (src : Source)
  /-- CONTROL_RESET_REQUEST. R508: 1 is written to GLB_RESET_CTL.CONTROL. -/
  | controlResetRequest (src : Source)
  /-- RELEASE. R515: 1 is written to GLB_RESET_CTL.RELEASE. -/
  | release (src : Source)
  /-- THERMAL_TRIP. R533: a die sensor reaches 115 °C. -/
  | thermalTrip
  /-- REFCLK_PCIE_LOSS. R526: REFCLK_PCIE is lost. -/
  | refclkPcieLoss
  /-- XTAL_LOSS. R526: XTAL_25M is lost. -/
  | xtalLoss
  /-- XTAL_RETURN. R526: XTAL_25M has been present for 1 ms. -/
  | xtalReturn
  /-- PAD_CFG_WRITE. R531: GLB_PAD_CFG[g] is written; `spi` is whether an SPI transfer of Newt is under way. -/
  | padCfgWrite (src : Source) (g : Fin 8) (data : Nat) (spi : Bool)
  /-- HOST_LINK_RETURN. R339: the host attach link returns. -/
  | hostLinkReturn
  /-- REFCLK_PCIE_RETURN. R526: REFCLK_PCIE is present again. -/
  | refclkPcieReturn
  /-- MANAGEMENT_RESTART_DONE. R509: Newt finishes restarting. -/
  | managementRestartDone
  /-- SPARE_STEER_DONE. R315: steering of the spare lane of port `n` ends. -/
  | spareSteerDone (n : Fin 128) (ok : Bool)
deriving DecidableEq, Repr

end Sys2Proof
end

