-- ==== Sys2Proof/Machine/State.lean ====
section
/-!
DEFINITION. The state of the part as plain data, the reasons a step can stop, and the state after reset.
-/
namespace Sys2Proof.Machine

/-- Faults of a step: none. No command of the part stops it. An access that a rule refuses, and a command that fails, is a next state
with the record or the reply that the rule asks for. -/
inductive Fault where
deriving DecidableEq, Repr

/-- Refusals of a step. -/
inductive Refusal where
  /-- Raised by an arm of exec that has no meaning yet. Safe. -/
  | notModelled (mnemonic : String)
deriving DecidableEq, Repr

/-- The part: all that the manual gives it. -/
structure Chip where
  /-- Ticks of 1 ns since power on. -/
  raw : Nat
  /-- The 64-bit time base (R66). -/
  tb : Nat
  /-- The latch of PCE_TB_HI of the physical function, of each virtual function and of Newt (R545). -/
  latchPf : Nat
  latchVf : Tab Nat
  latchNewt : Nat
  /-- Every BAR0 register and stored table (Table 18.1). -/
  regs : RegFile
  /-- The model's own: the count at which free values are drawn (log entry 4). -/
  free : Nat
  /-- The timers that run, with the tick at which each is due. -/
  timers : List (Timer × Nat)
  /-- The model's own: what left the part, newest first (log entry 3). -/
  out : List OutEv
  /-- Error-log records written since power on (R443). -/
  errSeq : Nat
  ports : Tab Port
  sw : Switch
  flows : Flows
  traffic : Traffic
  /-- Newt's sample ring (R488), oldest record first, and whether Newt has armed it. -/
  samples : List Nat
  samplesArmed : Bool
  pool : Pool
  seq : Seq
  /-- Generate requests of each DRBG instance since its last reseed (R429). -/
  drbgUse : Tab Nat
  pace : Pace
  align : Align
  power : Power
  newt : Newt
deriving DecidableEq, Repr

/-- The part with the commands that wait for it, the next one first. -/
structure State extends Chip where
  pending : List Instr
deriving DecidableEq, Repr

/-- The part right after power is applied: PORST_N asserted, every register at its reset value, nothing stored. -/
def Chip.reset : Chip :=
  { raw := 0, tb := 0, latchPf := 0, latchVf := [], latchNewt := 0, regs := [], free := 0, timers := [], out := [],
    errSeq := 0, ports := [], sw := {}, flows := {}, traffic := {}, samples := [], samplesArmed := false, pool := {}, seq := {}, drbgUse := [],
    pace := {}, align := {}, power := {}, newt := {} }

/-- The state right after power is applied: no command waits. -/
def State.reset : State := { toChip := Chip.reset, pending := [] }

end Sys2Proof.Machine
end

