-- ==== Sys2Proof/Machine/Ops.lean ====
section
/-!
DEFINITION. Named operations on the state that every subsystem uses: register fields, time and timers, free values,
interrupts, the error log (spec/14_errors_and_reliability.md R442, R443).
-/
namespace Sys2Proof.Machine

/-- A command's effect on the part; the waiting commands stay as they are. -/
def State.run (s : State) (f : Chip → Chip) : State := { s with toChip := f s.toChip }

/-- The value of field `f` of the register entry at `a`. -/
def Chip.rd (s : Chip) (a : Nat) (f : Fld) : Nat := s.regs.get a f

/-- Whether the one-bit field `f` of the entry at `a` is set. -/
def Chip.flag (s : Chip) (a : Nat) (f : Fld) : Bool := s.rd a f != 0

/-- Field `f` of the entry at `a` set to `v`, whatever its access type. -/
def Chip.wr (s : Chip) (a : Nat) (f : Fld) (v : Nat) : Chip := { s with regs := s.regs.set a f v }

/-- One-bit field `f` of the entry at `a` set to `b`. -/
def Chip.wrB (s : Chip) (a : Nat) (f : Fld) (b : Bool) : Chip := s.wr a f (b2n b)

/-- Field `f` raised by `n`, stopping at `cap`. -/
def Chip.bump (s : Chip) (a : Nat) (f : Fld) (cap n : Nat) : Chip := s.wr a f (satAdd cap (s.rd a f) n)

/-- A 16-bit saturating count raised by 1. -/
def Chip.count (s : Chip) (a : Nat) (f : Fld) : Chip := s.bump a f (2 ^ f.width - 1) 1

/-- Field `f` raised by `n`, modulo its width. -/
def Chip.wrap (s : Chip) (a : Nat) (f : Fld) (n : Nat) : Chip := s.wr a f (s.rd a f + n)

/-- Field `f` of the complement-protected `n`-word entry at `a` set to `v`, its complement with it (R77). -/
def Chip.wrP (s : Chip) (a n : Nat) (f : Fld) (v : Nat) : Chip := { s with regs := s.regs.setP a n f v }

/-- Whether the complement-protected `n`-word entry at `a` passes its check (R77). -/
def Chip.checked (s : Chip) (a n : Nat) : Bool := s.regs.checked a n

/-- A free value, and the state in which the next one is drawn (log entry 4). -/
def Chip.draw (s : Chip) : Nat × Chip := (Config.freeValue s.free, { s with free := s.free + 1 })

/-- The time base, 64 bits. -/
def Chip.now (s : Chip) : Nat := s.tb

/-- The slewing of the time base over `n` raw ticks (R69): 1 ns in 1,000 until nothing is left (log entry 1). -/
def Chip.slewed (s : Chip) (n : Nat) : Int × Align :=
  let a := s.align
  if a.slew == 0 then (0, a)
  else
    let k := min ((a.phase + n) / 1000) a.slew.natAbs
    let d : Int := if a.slew < 0 then -(k : Int) else k
    (d, { a with slew := a.slew - d, phase := if a.slew == d then 0 else (a.phase + n) % 1000 })

/-- Time passes by `n` ticks; a slew that comes to its end leaves SLEW_PPM at 0. -/
def Chip.advance (s : Chip) (n : Nat) : Chip :=
  let r := s.slewed n
  let s' := { s with raw := s.raw + n, tb := codeOfInt 64 ((s.tb + n : Nat) + r.1), align := r.2 }
  if s.align.slew != 0 && r.2.slew == 0 then s'.wr A.PCE_TB_ADJ F.PCE_TB_ADJ_SLEW_PPM 0 else s'

/-- The power state (Table 16.1): 0 ACTIVE, 1 ENTERING, 2 EAVES, 3 WAKING. -/
def Chip.powerState (s : Chip) : Nat := s.rd A.PCE_PWR_STATUS F.PCE_PWR_STATUS_STATE

/-- Whether the part is in Eaves, and whether it is in Eaves or on the way into it or out of it. -/
def Chip.inEaves (s : Chip) : Bool := s.powerState == 2
def Chip.asleep (s : Chip) : Bool := s.powerState != 0

/-- Whether timer `t` runs. -/
def Chip.running (s : Chip) (t : Timer) : Bool := s.timers.any (fun e => e.1 == t)

/-- The tick at which timer `t` is due. -/
def Chip.due (s : Chip) (t : Timer) : Option Nat := (s.timers.find? (fun e => e.1 == t)).map (·.2)

/-- Timer `t` stopped. -/
def Chip.stopTimer (s : Chip) (t : Timer) : Chip := { s with timers := s.timers.filter (fun e => e.1 != t) }

/-- Timer `t` started, to be due `n` ticks from now; a timer already running is started again. -/
def Chip.startTimer (s : Chip) (t : Timer) (n : Nat) : Chip :=
  { s with timers := (t, s.raw + n) :: s.timers.filter (fun e => e.1 != t) }

/-- Timer `t` started unless it runs. -/
def Chip.ensureTimer (s : Chip) (t : Timer) (n : Nat) : Chip := if s.running t then s else s.startTimer t n

/-- The expiry of timer `t`: time moves on to its due tick where that is still to come, and the timer stops (R72,
log entry 1). None where it does not run. -/
def Chip.expire (s : Chip) (t : Timer) : Option Chip :=
  match s.due t with
  | none => none
  | some d => some ((s.advance (d - s.raw)).stopTimer t)

/-- Nanoseconds of a microsecond and a millisecond count. -/
def us (n : Nat) : Nat := n * 1000
def ms (n : Nat) : Nat := n * 1000000

/-- Something leaves the part. -/
def Chip.emitOut (s : Chip) (e : OutEv) : Chip := { s with out := e :: s.out }

/-- An MSI-X interrupt leaves. -/
def Chip.interrupt (s : Chip) (fn : Option Nat) (v : Nat) : Chip := s.emitOut (.msix fn v)

/-- What an error-log record says (Table 14.3); TIME and SEQ_NO are filled in when it is written. -/
structure LogRec where
  status : Status
  subsys : Subsys
  partition : Option Nat := none
  addrKind : Nat := 0
  addr : Nat := 0
  srcEid : Nat := 0
  port : Nat := 128
  queue : Option Nat := none
  tag : Nat := 0
  detail : Nat := 0
  fault : Bool := false
  event : Bool := false
deriving DecidableEq, Repr

/-- The 512 bits of a record (Table 14.3). -/
def LogRec.word (r : LogRec) (time seqNo : Nat) : Nat :=
  time % 2 ^ 64 + r.status.code <<< 64 + r.subsys.plane <<< 72
  + (match r.partition with | some p => (p % 64) <<< 74 + 1 <<< 80 | none => 0)
  + b2n r.fault <<< 81 + b2n r.event <<< 82 + (r.addrKind % 16) <<< 84 + r.subsys.num <<< 88
  + (r.addr % 2 ^ 64) <<< 96 + (r.srcEid % 2 ^ 14) <<< 160 + (r.port % 256) <<< 176
  + (match r.queue with | some q => (q % 1024 + 32768) <<< 184 | none => 0)
  + (r.tag % 2 ^ 32) <<< 200 + (r.detail % 2 ^ 64) <<< 232 + (seqNo % 2 ^ 64) <<< 296

/-- Whether the log holds 4,096 records that the control host has not read (R443). -/
def Chip.logFull (s : Chip) : Bool :=
  decide (4096 ≤ (s.rd A.ERR_STATUS F.ERR_STATUS_HEAD + 2 ^ 32 - s.rd A.ERR_HOST_TAIL F.ERR_HOST_TAIL_TAIL) % 2 ^ 32)

/-- Room for a record (R443): where it overwrites one that the control host has not read, HOST_LOST rises and the host's tail moves
past it. -/
def Chip.logRoom (s : Chip) : Chip :=
  if s.logFull then
    (s.count A.ERR_STATUS F.ERR_STATUS_HOST_LOST).wr A.ERR_HOST_TAIL F.ERR_HOST_TAIL_TAIL (s.rd A.ERR_HOST_TAIL F.ERR_HOST_TAIL_TAIL + 1)
  else s

/-- The `n` words from key `a` on set from one number. -/
def Chip.wrSpan (s : Chip) (a n v : Nat) : Chip := { s with regs := s.regs.setSpan a n v }

/-- One more record has been written. -/
def Chip.nextErr (s : Chip) : Chip := { s with errSeq := s.errSeq + 1 }

/-- The record itself, and HEAD moved past it. -/
def Chip.logPut (s : Chip) (r : LogRec) : Chip :=
  ((s.wrSpan (A.ERR_LOG (s.errSeq % 4096)) 8 (r.word s.tb s.errSeq)).wr A.ERR_STATUS F.ERR_STATUS_HEAD
    (s.rd A.ERR_STATUS F.ERR_STATUS_HEAD + 1)).nextErr

/-- A record is written to the error log (R442, R443). -/
def Chip.log (s : Chip) (r : LogRec) : Chip := s.logRoom.logPut r

/-- A record with a status and the BAR0 offset of a register or table entry. -/
def Chip.logReg (s : Chip) (st : Status) (sub : Subsys) (off : Nat) : Chip :=
  s.log { status := st, subsys := sub, addrKind := 4, addr := off }

/-- An event record of the code (Table 14.4). -/
def Chip.logEvent (s : Chip) (sub : Subsys) (code akind addr : Nat) : Chip :=
  s.log { status := .ok, subsys := sub, addrKind := akind, addr := addr, detail := code, event := true }

/-- An event record of Newt's (R485, Table 15.11): `detail` beside the code in [7:0]. -/
def Chip.newtEvent (s : Chip) (code detail : Nat) (akind addr : Nat := 0) : Chip :=
  s.log { status := .ok, subsys := .newt, addrKind := akind, addr := addr, detail := code + detail, event := true }

/-- Whether a health test of the TRNG fails (R429). -/
def Chip.trngFail (s : Chip) : Bool := s.flag A.KEY_STATUS F.KEY_STATUS_TRNG_FAIL

/-- DRBG instance `i` reseeds (R429), or owes it until the tests pass again. -/
def Chip.reseed (s : Chip) (i : Nat) : Chip :=
  if s.trngFail then { s with drbgUse := s.drbgUse.put i (2 ^ 20) }
  else { s.wrap A.KEY_STATUS F.KEY_STATUS_RESEEDS 1 with drbgUse := s.drbgUse.erase i }

/-- Bits of DRBG instance `i` (R429): a free value; after 2^20 requests the instance reseeds. -/
def Chip.generate (s : Chip) (i : Nat) : Nat × Chip :=
  let n := (s.drbgUse.find i).getD 0 + 1
  let s := { s with drbgUse := s.drbgUse.put i n }
  (if Nat.ble (2 ^ 20) n then s.reseed i else s).draw

/-- The version that RTE_EPOCH.ACTIVE names (R370). -/
def Chip.active (s : Chip) : Nat := s.rd A.RTE_EPOCH F.RTE_EPOCH_ACTIVE

/-- The other version. -/
def Chip.shadowV (s : Chip) : Nat := 1 - s.active

/-- Port `n`'s link layer. -/
def Chip.port (s : Chip) (n : Nat) : Port := (s.ports.find n).getD {}

/-- Port `n` with its link layer changed. -/
def Chip.modPort (s : Chip) (n : Nat) (f : Port → Port) : Chip :=
  { s with ports := s.ports.put n (f (s.port n)) }

/-- The keys the table lists in `[lo, hi)`. -/
def Tab.keysIn {β : Type} (t : Tab β) (lo hi : Nat) : List Nat :=
  (t.filter (fun e => Nat.ble lo e.1 && Nat.blt e.1 hi)).map (·.1)

/-- The lowest EID whose entry of the active route table names this E9 (KIND LOCAL): the EID of this E9's engines and
home. DEDUCED (log entry 13): no register holds it. -/
def Chip.selfEid (s : Chip) : Nat :=
  let base := A.RTE_ROUTE s.active 0
  match (s.regs.keysIn base (base + 16 * 16384)).find? (fun a => a % 16 == 0 && s.rd a F.RTE_ROUTE_KIND == 1) with
  | some a => (a - base) / 16
  | none => 0

end Sys2Proof.Machine
end

