-- ==== Sys2Proof/Machine/Messages.lean ====
section
/-!
DEFINITION. The bodies and extensions of the packet classes as fields: coherence descriptors (Table 4.4), data-packet
extensions (Table 10.3), tadpole bodies (Table 10.4) and tray operations (Table 10.5).
-/
namespace Sys2Proof.Machine

/-- A coherence descriptor (Table 4.4). -/
structure Coh where
  msg : Nat := 0
  status : Nat := 0
  consumed : Bool := false
  near : Bool := false
  combined : Bool := false
  nocombine : Bool := false
  lmask : Nat := 0
  grant : Nat := 0
  txn : Nat := 0
  tag : Nat := 0
  saddr : Nat := 0
  count : Nat := 0
  aop : Nat := 0
  size : Nat := 0
  offset : Nat := 0
  opa : Nat := 0
  opb : Nat := 0
deriving DecidableEq, Repr

/-- The descriptor that the number `b` spells. -/
def Coh.ofBody (b : Nat) : Coh :=
  { msg := bits b 0 8, status := bits b 8 8, consumed := bitAt b 16, near := bitAt b 17, combined := bitAt b 18,
    nocombine := bitAt b 19, lmask := bits b 24 4, grant := bits b 28 2, txn := bits b 32 16, tag := bits b 48 16,
    saddr := bits b 64 48, count := bits b 112 7, aop := bits b 128 8, size := bits b 136 8, offset := bits b 144 8,
    opa := bits b 192 64, opb := bits b 256 64 }

/-- The number a descriptor is. -/
def Coh.body (c : Coh) : Nat :=
  c.msg % 256 + (c.status % 256) <<< 8 + b2n c.consumed <<< 16 + b2n c.near <<< 17 + b2n c.combined <<< 18
  + b2n c.nocombine <<< 19 + (c.lmask % 16) <<< 24 + (c.grant % 4) <<< 28 + (c.txn % 65536) <<< 32
  + (c.tag % 65536) <<< 48 + (c.saddr % 2 ^ 48) <<< 64 + (c.count % 128) <<< 112 + (c.aop % 256) <<< 128
  + (c.size % 256) <<< 136 + (c.offset % 256) <<< 144 + (c.opa % 2 ^ 64) <<< 192 + (c.opb % 2 ^ 64) <<< 256

/-- Message codes (Table 4.5). -/
def mRdShared : Nat := 0x01
def mRdOwn : Nat := 0x02
def mRdCurrent : Nat := 0x03
def mWrBack : Nat := 0x04
def mCleanEvict : Nat := 0x05
def mAtomicAny : Nat := 0x06
def mHeartbeat : Nat := 0x07
def mSnpInv : Nat := 0x10
def mSnpShare : Nat := 0x11
def mSnpCur : Nat := 0x12
def mRspI : Nat := 0x18
def mRspS : Nat := 0x19
def mRspCur : Nat := 0x1A
def mRspIData : Nat := 0x1B
def mRspSData : Nat := 0x1C
def mRspCurData : Nat := 0x1D
def mRspWbPending : Nat := 0x1E
def mData : Nat := 0x20
def mWbAck : Nat := 0x21
def mEvictAck : Nat := 0x22
def mAtomicRsp : Nat := 0x23
def mErr : Nat := 0x24

/-- Whether a message is a request (R135): 0x01 to 0x06. -/
def cohIsRequest (m : Nat) : Bool := Nat.ble 1 m && Nat.ble m 6

/-- Whether a message is a snoop response (Table 4.5). -/
def cohIsSnoopResponse (m : Nat) : Bool := Nat.ble 0x18 m && Nat.ble m 0x1E

/-- Whether a message travels in a data packet (Table 4.5). -/
def cohIsData (m : Nat) : Bool := m == 4 || (Nat.ble 0x1B m && Nat.ble m 0x1D) || m == 0x20

/-- Whether a code is a message of Table 4.5. -/
def cohKnown (m : Nat) : Bool :=
  (Nat.ble 1 m && Nat.ble m 7) || (Nat.ble 0x10 m && Nat.ble m 0x12) || (Nat.ble 0x18 m && Nat.ble m 0x1E)
    || (Nat.ble 0x20 m && Nat.ble m 0x24)

/-- The number of bits set in LMASK. -/
def popcount4 (m : Nat) : Nat := b2n (bitAt m 0) + b2n (bitAt m 1) + b2n (bitAt m 2) + b2n (bitAt m 3)

/-- Whether the reserved bits of a coherence packet's descriptor are zero (R14, Table 4.4). -/
def cohReservedZero (isData : Bool) (b : Nat) : Bool :=
  bits b 20 4 == 0 && bits b 30 2 == 0 && bits b 119 9 == 0
    && (isData || (bits b 152 40 == 0 && bits b 320 64 == 0))

/-- The checks of R14, R132 and R133 on a descriptor: whether it is well formed. -/
def cohFormatOk (p : Packet) : Bool :=
  let c := Coh.ofBody p.body
  let isData := p.cls == clsCOH_DATA
  cohReservedZero isData p.body && cohKnown c.msg && (cohIsData c.msg == isData) && c.grant != 3
    && (if c.msg == mRdShared || c.msg == mRdOwn || c.msg == mCleanEvict || c.msg == mAtomicAny then
          popcount4 c.lmask == 1
        else if c.msg == mRdCurrent || c.msg == mWrBack then c.lmask != 0
        else if Nat.ble 0x10 c.msg && Nat.ble c.msg 0x1E then popcount4 c.lmask == 1
        else true)

/-- The body of a STATUS tadpole (Table 10.4). -/
structure StatusBody where
  status : Nat := 0
  origClass : Nat := 0
  origSeq : Nat := 0
  origFgen : Nat := 0
  origFence : Bool := false
  origEdge : Nat := 0
  origEdgeValid : Bool := false
  addr : Nat := 0
  tag : Nat := 0
deriving DecidableEq, Repr

def StatusBody.ofBody (b : Nat) : StatusBody :=
  { status := bits b 0 8, origClass := bits b 8 8, origSeq := bits b 16 16, origFgen := bits b 32 2,
    origFence := bitAt b 34, origEdge := bits b 35 10, origEdgeValid := bitAt b 45, addr := bits b 64 64,
    tag := bits b 128 32 }

def StatusBody.body (c : StatusBody) : Nat :=
  c.status % 256 + (c.origClass % 256) <<< 8 + (c.origSeq % 65536) <<< 16 + (c.origFgen % 4) <<< 32
  + b2n c.origFence <<< 34 + (c.origEdge % 1024) <<< 35 + b2n c.origEdgeValid <<< 45 + (c.addr % 2 ^ 64) <<< 64
  + (c.tag % 2 ^ 32) <<< 128

/-- Whether the reserved bits of a STATUS body are zero. -/
def statusReservedZero (b : Nat) : Bool := bits b 46 18 == 0 && bits b 160 224 == 0

/-- The body of a COUNTER tadpole (Table 10.4). -/
structure CounterBody where
  counter : Nat := 0
  scope : Nat := 0
  operand : Nat := 0
  ctag : Nat := 0
deriving DecidableEq, Repr

def CounterBody.ofBody (b : Nat) : CounterBody :=
  { counter := bits b 0 14, scope := bits b 14 2, operand := bits b 16 48, ctag := bits b 64 32 }

def CounterBody.body (c : CounterBody) : Nat :=
  c.counter % 2 ^ 14 + (c.scope % 4) <<< 14 + (c.operand % 2 ^ 48) <<< 16 + (c.ctag % 2 ^ 32) <<< 64

/-- The body of an ABORT tadpole (Table 10.4). -/
structure AbortBody where
  collId : Nat := 0
  request : Bool := false
  status : Nat := 0
  owing : Nat := 0
deriving DecidableEq, Repr

def AbortBody.ofBody (b : Nat) : AbortBody :=
  { collId := bits b 0 16, request := bitAt b 16, status := bits b 24 8, owing := bits b 32 14 }

def AbortBody.body (c : AbortBody) : Nat :=
  c.collId % 65536 + b2n c.request <<< 16 + (c.status % 256) <<< 24 + (c.owing % 2 ^ 14) <<< 32

/-- The body of a FENCE_DONE tadpole: FGEN and EDGE (Table 10.4). -/
def fenceDoneBody (fgen edge : Nat) : Nat := fgen % 4 + (edge % 1024) <<< 2

/-- The body of a TIME tadpole (Table 10.4). -/
structure TimeBody where
  t1 : Nat := 0
  t2 : Nat := 0
  t3 : Nat := 0
  response : Bool := false
deriving DecidableEq, Repr

def TimeBody.ofBody (b : Nat) : TimeBody :=
  { t1 := bits b 0 64, t2 := bits b 64 64, t3 := bits b 128 64, response := bitAt b 192 }

def TimeBody.body (c : TimeBody) : Nat :=
  c.t1 % 2 ^ 64 + (c.t2 % 2 ^ 64) <<< 64 + (c.t3 % 2 ^ 64) <<< 128 + b2n c.response <<< 192

/-- The extension of a WRITE packet (Table 10.3). -/
structure WriteExt where
  addr : Nat := 0
  space : Nat := 0
  engine : Nat := 0
  countEn : Bool := false
  counter : Nat := 0
  ack : Bool := false
  wtag : Nat := 0
  length : Nat := 0
deriving DecidableEq, Repr

def WriteExt.ofBody (b : Nat) : WriteExt :=
  { addr := bits b 0 38, space := bits b 38 2, engine := bits b 40 7, countEn := bitAt b 47, counter := bits b 48 14,
    ack := bitAt b 62, wtag := bits b 64 32, length := bits b 96 13 }

def WriteExt.body (c : WriteExt) : Nat :=
  c.addr % 2 ^ 38 + (c.space % 4) <<< 38 + (c.engine % 128) <<< 40 + b2n c.countEn <<< 47
  + (c.counter % 2 ^ 14) <<< 48 + b2n c.ack <<< 62 + (c.wtag % 2 ^ 32) <<< 64 + (c.length % 2 ^ 13) <<< 96

/-- Whether the reserved bits of a WRITE extension are zero. -/
def writeReservedZero (b : Nat) : Bool := !bitAt b 63 && bits b 109 19 == 0

/-- The extension of a COLL packet (Table 10.3). -/
structure CollExt where
  collId : Nat := 0
  offset : Nat := 0
  role : Nat := 0
deriving DecidableEq, Repr

def CollExt.ofBody (b : Nat) : CollExt := { collId := bits b 0 16, offset := bits b 16 32, role := bits b 48 2 }

def CollExt.body (c : CollExt) : Nat := c.collId % 65536 + (c.offset % 2 ^ 32) <<< 16 + (c.role % 4) <<< 48

/-- A tray operation (Table 10.5). -/
structure TrayOp where
  op : Nat := 0
  srcCh : Nat := 0
  srcFlash : Bool := false
  dstCh : Nat := 0
  dstFlash : Bool := false
  srcIndex : Nat := 0
  dstIndex : Nat := 0
  /-- LMASK of a request. -/
  lmask : Nat := 0
  ttag : Nat := 0
deriving DecidableEq, Repr

/-- The 128 bits of an operation; in an answer `st` takes the place of LMASK (R348). -/
def TrayOp.body (c : TrayOp) (st : Nat) : Nat :=
  c.op % 256 + (c.srcCh % 32) <<< 8 + b2n c.srcFlash <<< 13 + (c.dstCh % 32) <<< 14 + b2n c.dstFlash <<< 19
  + (c.srcIndex % 2 ^ 34) <<< 20 + (c.dstIndex % 2 ^ 34) <<< 54 + (c.lmask % 16 + st % 256) <<< 88
  + (c.ttag % 2 ^ 32) <<< 96

/-- The address of the request a packet carries, with its ADDR_KIND, for an error-log record. -/
def Packet.address (p : Packet) : Nat × Nat :=
  if p.cls == clsCOH || p.cls == clsCOH_DATA then (1, (Coh.ofBody p.body).saddr * 256)
  else if p.cls == clsWRITE then
    let w := WriteExt.ofBody p.body
    if w.space == 2 then (3, w.addr % 2 ^ 23 + w.engine <<< 56) else (2, w.addr)
  else (0, 0)

/-- The tag of the request a packet carries (Table 14.3 TAG). -/
def Packet.tag (p : Packet) : Nat :=
  if p.cls == clsCOH || p.cls == clsCOH_DATA then (Coh.ofBody p.body).tag
  else if p.cls == clsWRITE then (WriteExt.ofBody p.body).wtag
  else if p.cls == clsCOUNTER then (CounterBody.ofBody p.body).ctag
  else if p.cls == clsCOLL then (CollExt.ofBody p.body).collId
  else 0

end Sys2Proof.Machine
end

