-- ==== Sys2Proof/Machine/Route.lean ====
section
/-!
DEFINITION. The route unit (spec/10_packets_and_routing.md): format and range checks, the choice of output, deflection,
Gutter and multicast, as one decision on a packet.
-/
namespace Sys2Proof.Machine

/-- The mode of port `n` under version `v` of its profile (Table 9.1). -/
def Chip.modeOf (s : Chip) (v n : Nat) : Nat := s.rd (A.PRT_PROFILE v n) F.PRT_PROFILE_MODE

/-- The mode of port `n` now. -/
def Chip.mode (s : Chip) (n : Nat) : Nat := s.modeOf s.active n

/-- Mode codes (Table 9.1). -/
def modeOFF : Nat := 0
def modeF : Nat := 1
def modeU : Nat := 2
def modeT : Nat := 3
def modeC : Nat := 4
def modeD : Nat := 5

/-- The output a port belongs to: a gang is one output, at its first port (R398). -/
def Chip.outputOf (s : Chip) (n : Nat) : Nat := if Nat.ble 4 (s.mode n) then 4 * (n / 4) else n

/-- Whether port `n` is in service. -/
def Chip.inService (s : Chip) (n : Nat) : Bool := s.flag (A.PRT_STATUS n) F.PRT_STATUS_IN_SERVICE

/-- The local output, and the input of a packet created on the E9 (R389). -/
def localPort : Nat := 128

/-- Whether a copy still waits at its output. -/
def Copy.waits (c : Copy) : Bool :=
  match c.phase with
  | .queued | .released => true
  | _ => false

/-- Segments queued at output `o`; `gutterToo` counts Gutter packets as well (R352, R353). -/
def Chip.queuedSegs (s : Chip) (gutterToo : Bool) (o : Nat) : Nat :=
  s.sw.slots.foldl (fun n sl =>
    if sl.copies.any (fun c => c.out == o && c.waits && (gutterToo || Nat.blt c.cls 8)) then n + sl.pkt.segs else n) 0

/-- The members of `l` with the least `w`, the first of them. -/
def argMin (w : Nat → Nat) : List Nat → Option Nat
  | [] => none
  | a :: l =>
    match argMin w l with
    | none => some a
    | some b => if Nat.ble (w a) (w b) then some a else some b

/-- The state of the version that is not active: 0 CLOSED, 1 ARMED, 2 DRAINING (Table 10.9). -/
def Chip.otherState (s : Chip) : Nat := s.rd A.RTE_EPOCH F.RTE_EPOCH_OTHER_STATE

/-- Whether version `v` is CLOSED (R371). -/
def Chip.closed (s : Chip) (v : Nat) : Bool := v != s.active && s.otherState == 0

/-- The indices of the entries of an array, from `base` with the stride, that the register file lists. -/
def Chip.listed (s : Chip) (base stride count : Nat) : List Nat :=
  distinct ((s.regs.keysIn base (base + stride * count)).map (fun a => (a - base) / stride))

/-- The result of a range check. -/
inductive RangeHit where
  /-- An entry covers the address: its index and kind (1 HOMED, 2 TRANSIT). -/
  | entry (i kind : Nat)
  /-- No entry covers the address. -/
  | unmapped
  /-- The covering entry belongs to another partition. -/
  | foreign
  /-- The covering entry fails its check: its index. -/
  | broken (i : Nat)
deriving DecidableEq, Repr

/-- The range check of tile `t` for partition `p` under version `v` (R31, R77). Where a HOMED and a TRANSIT entry could
both cover the tile the first of them in the table's order answers. -/
def Chip.rangeCheck (s : Chip) (v p t : Nat) : RangeHit :=
  let covers (i : Nat) : Bool :=
    let a := A.PTN_RANGE v i
    let b := s.rd a F.PTN_RANGE_BASE_TILE
    s.rd a F.PTN_RANGE_KIND != 0 && Nat.ble b t && Nat.blt t (b + s.rd a F.PTN_RANGE_TILES)
  match (s.listed (A.PTN_RANGE v 0) 64 4096).find? covers with
  | none => .unmapped
  | some i =>
    let a := A.PTN_RANGE v i
    if !s.checked a 4 then .broken i
    else if s.rd a F.PTN_RANGE_PARTITION != p then .foreign
    else .entry i (s.rd a F.PTN_RANGE_KIND)

/-- The BAR0 offset at which range entry `i` of version `v` is seen (R540). -/
def Chip.rangeOffset (s : Chip) (v i : Nat) : Nat := (if v == s.active then 0xEC0000 else 0xE80000) + 64 * i

/-- What the route unit decides on a packet. -/
inductive Verdict where
  /-- The packet is discarded: the status, the counter that names the cause, and the address of a table entry that
  failed its check. -/
  | drop (st : Status) (cnt : Option (Nat × Fld)) (entry : Option Nat)
  /-- The packet goes on: its header now, its copies, whether it was deflected here, the multicast copies not sent and
  whether the local copy was withheld. -/
  | go (p : Packet) (copies : List Copy) (deflected : Bool) (missing : Nat) (withheld : Bool)
deriving DecidableEq, Repr

/-- The counters of the route unit and the switch core that name a cause (R359, R391). -/
def cntPARTITION : Option (Nat × Fld) := some (A.RTE_DROPS0, F.RTE_DROPS0_PARTITION)
def cntSTALE : Option (Nat × Fld) := some (A.RTE_DROPS0, F.RTE_DROPS0_STALE)
def cntHOPS : Option (Nat × Fld) := some (A.RTE_DROPS0, F.RTE_DROPS0_HOPS)
def cntGUTTER : Option (Nat × Fld) := some (A.RTE_DROPS0, F.RTE_DROPS0_GUTTER)
def cntFORMAT : Option (Nat × Fld) := some (A.RTE_DROPS1, F.RTE_DROPS1_FORMAT)
def cntMCAST : Option (Nat × Fld) := some (A.RTE_DROPS1, F.RTE_DROPS1_MCAST)
def cntFLUSHED : Option (Nat × Fld) := some (A.SWC_DROPS, F.SWC_DROPS_FLUSHED)
def cntQUOTA : Option (Nat × Fld) := some (A.SWC_DROPS, F.SWC_DROPS_QUOTA_DROPS)

/-- The checks of R149 on an AtomicAny: a status, or a completion without effect. -/
inductive AtomicCheck where
  | run
  | nothing
  | bad (st : Status)
deriving DecidableEq, Repr

/-- The check of an AtomicAny's descriptor. -/
def atomicCheck (c : Coh) : AtomicCheck :=
  let fetchAdd := c.aop == 1
  let sizeKnown := c.size == 0 || c.size == 4 || c.size == 8 || c.size == 255
  let line := argMin id ((upFrom 0 4).filter (fun j => bitAt c.lmask j))
  let placed := c.size == 0 || c.size == 255 ||
    (c.offset % c.size == 0 && c.offset / 64 == line.getD 4)
  if !(Nat.ble 1 c.aop && Nat.ble c.aop 8) || !sizeKnown || !placed
      || (fetchAdd && Nat.ble 65 c.count && Nat.ble c.count 126) || (!fetchAdd && c.count != 0) then .bad .formatInvalid
  else if c.size == 255 || (fetchAdd && c.count == 127) then .bad .lengthRange
  else if c.size == 0 || (fetchAdd && c.count == 0) then .nothing
  else .run

/-- Whether a packet is an AtomicAny whose descriptor fails with a status (R19). -/
def Packet.atomicIs (p : Packet) (st : Status) : Bool :=
  let c := Coh.ofBody p.body
  p.cls == clsCOH && c.msg == mAtomicAny && atomicCheck c == .bad st

/-- The format checks of R14, R16, R17, R343 and R344 on a packet that arrives on a port in mode `m`, in the order of
R19; none where it passes. -/
def formatCheck (m : Nat) (p : Packet) : Option Status :=
  if !classKnown p.cls || p.rsv || (!classIsData p.cls && p.segs != 0)
      || (p.cls == clsCOH_DATA && p.segs != 1)
      || (p.mcast && classRouted p.cls && bits p.dst 12 2 != 0)
      || (classIsTray p.cls && m != modeT)
      || (m == modeT && !(classIsTray p.cls || p.cls == clsTIME || p.cls == clsLINK))
      || ((p.cls == clsCOH || p.cls == clsCOH_DATA) && !cohFormatOk p) || p.atomicIs .formatInvalid then some .formatInvalid
  else if Nat.blt 16 p.segs || p.atomicIs .lengthRange then some .lengthRange
  else none

/-- Whether a packet is a pool request (R31): a coherence request. -/
def Packet.isPoolRequest (p : Packet) : Bool :=
  (p.cls == clsCOH || p.cls == clsCOH_DATA) && cohIsRequest (Coh.ofBody p.body).msg

/-- The pool address of a coherence packet's sector. -/
def Packet.poolAddr (p : Packet) : Nat := (Coh.ofBody p.body).saddr * 256

/-- The range check of a pool request in a packet, under the packet's version (R31, R79): the status and failing entry
where it fails. `atHome` is whether the request's destination is this E9. -/
def Chip.poolCheck (s : Chip) (p : Packet) (atHome : Bool) : Option (Status × Option Nat) :=
  if p.isPoolRequest then
    match s.rangeCheck p.epoch p.partition (p.poolAddr / 16384) with
    | .unmapped => some (.rangeUnmapped, none)
    | .foreign => some (.accessDenied, none)
    | .broken i => some (.tableCheck, some (s.rangeOffset p.epoch i))
    | .entry _ kind => if atHome && kind != 1 then some (.staleEpoch, none) else none
  else none

/-- The in-service mode U port with the fewest queued non-Gutter segments, other than the two ports named (R353). -/
def Chip.deflectionPort (s : Chip) (inPort out : Nat) : Option Nat :=
  argMin (s.queuedSegs false)
    ((upFrom 0 128).filter (fun n => n != inPort && n != out && s.inService n && s.mode n == modeU))

/-- A packet bound for output `o`: discarded with PORT_DOWN where the port is out of service (R391). -/
def Chip.toPort (s : Chip) (p : Packet) (o cls : Nat) (deflected : Bool) : Verdict :=
  if s.inService o then .go p [⟨o, cls, .queued, 0⟩] deflected 0 false else .drop .portDown cntFLUSHED none

/-- The Gutter route of a packet whose entry is at `e` (R355). -/
def Chip.gutterRoute (s : Chip) (p : Packet) (e : Nat) : Verdict :=
  let v := p.epoch
  if s.rd e F.RTE_ROUTE_KIND == 1 then .go p [⟨localPort, 8, .queued, 0⟩] false 0 false
  else if s.rd e F.RTE_ROUTE_KIND == 2 then s.toPort p (s.rd e F.RTE_ROUTE_PORT) 8 false
  else if s.flag e F.RTE_ROUTE_G_BELOW then s.toPort { p with gdown := true } (s.rd e F.RTE_ROUTE_G_PORT) 8 false
  else if !s.checked (A.RTE_GUTTER v) 1 then .drop .tableCheck none (some (A.RTE_GUTTER v))
  else if p.gdown || s.flag (A.RTE_GUTTER v) F.RTE_GUTTER_ROOT then .drop .staleEpoch cntSTALE none
  else .go p [⟨s.rd (A.RTE_GUTTER v) F.RTE_GUTTER_UP_PORT, 8, .queued, 0⟩] false 0 false

/-- The deflection check of a packet whose chosen output is `o` (R353, R354). `needUp` is whether an output that is out
of service discards it (KIND PORT). -/
def Chip.deflectionCheck (s : Chip) (p : Packet) (e inPort o : Nat) (needUp : Bool) : Verdict :=
  let q := s.queuedSegs false o
  let stay : Verdict := if needUp then s.toPort p o p.tc false else .go p [⟨o, p.tc, .queued, 0⟩] false 0 false
  if s.flag A.RTE_CFG F.RTE_CFG_DEFLECT_EN && Nat.blt (s.rd A.RTE_CFG F.RTE_CFG_DEFLECT_SEGS) q then
    match s.deflectionPort inPort o with
    | none => stay
    | some d =>
      if Nat.blt (s.queuedSegs false d) q then
        let dmax := s.rd A.RTE_CFG F.RTE_CFG_DEFLECT_MAX
        if Nat.ble dmax (p.defl + 1) then s.gutterRoute { p with defl := dmax, gutter := true } e
        else .go { p with defl := p.defl + 1 } [⟨d, p.tc, .queued, 0⟩] true 0 false
      else stay
  else stay

/-- Replication of a multicast packet (R360). -/
def Chip.replicate (s : Chip) (p : Packet) (inPort : Nat) (localOk : Bool) : Verdict :=
  let a := A.RTE_MCAST p.epoch (p.dst % 4096)
  if !s.checked a 4 then .drop .tableCheck none (some a)
  else if !s.flag a F.RTE_MCAST_VALID || s.rd a F.RTE_MCAST_PARTITION != p.partition then
    .drop .accessDenied cntMCAST none
  else
    let ports := (upFrom 0 128).filter (fun n => bitAt (s.rd a F.RTE_MCAST_PORTS) n && n != inPort)
    let cls := if p.gutter then 8 else p.tc
    let here := s.flag a F.RTE_MCAST_LOCAL
    .go p (((ports.filter (fun n => s.inService n)).map (fun n => ⟨n, cls, .queued, 0⟩))
        ++ (if here && localOk then [⟨localPort, cls, .queued, 0⟩] else []))
      false (ports.filter (fun n => !s.inService n)).length (here && !localOk)

/-- Whether partition `p` is in state SCRUBBING (R427). -/
def Chip.scrubbing (s : Chip) (p : Nat) : Bool := s.rd (A.PTN_STATE p) F.PTN_STATE_STATE == 5

/-- The route unit's decision on a routed packet whose HOPS already counts this E9 (R352, R423, R427). `answer` is
whether this E9 created the packet as the answer to a discard, which its own VALID check does not stop (log entry
16). -/
def Chip.route (s : Chip) (p : Packet) (inPort : Nat) (answer : Bool := false) : Verdict :=
  let v := p.epoch
  let part := A.PTN_PART v p.partition
  if s.closed v then .drop .staleEpoch cntSTALE none
  else if !s.checked part 1 then .drop .tableCheck none (some part)
  else if !s.flag part F.PTN_PART_VALID && !answer then .drop .accessDenied cntPARTITION none
  else if p.mcast then
    s.replicate p inPort (s.flag part F.PTN_PART_LOCAL && !s.scrubbing p.partition)
  else
    let e := A.RTE_ROUTE v p.dst
    if !s.checked e 1 then .drop .tableCheck none (some e)
    else if s.rd e F.RTE_ROUTE_KIND == 0 then .drop .staleEpoch cntSTALE none
    else if s.rd e F.RTE_ROUTE_KIND == 1 then
      if !s.flag part F.PTN_PART_LOCAL then .drop .accessDenied cntPARTITION none
      else if s.scrubbing p.partition then .drop .partitionScrubbing none none
      else
        match s.poolCheck p true with
        | some (st, ent) => .drop st (if st == .staleEpoch then cntSTALE else none) ent
        | none => .go p [⟨localPort, if p.gutter then 8 else p.tc, .queued, 0⟩] false 0 false
    else if p.gutter then s.gutterRoute p e
    else if s.rd e F.RTE_ROUTE_KIND == 2 then s.deflectionCheck p e inPort (s.rd e F.RTE_ROUTE_PORT) true
    else
      let g := A.RTE_PGROUP v (s.rd e F.RTE_ROUTE_PGROUP)
      if !s.checked g 2 then .drop .tableCheck none (some g)
      else
        let mask := s.regs.span g 2
        let members := (upFrom 0 128).filter (fun n => bitAt mask n)
        match argMin (s.queuedSegs true) (members.filter (fun n => s.inService n)), members with
        | _, [] => .drop .staleEpoch cntSTALE none
        | some o, _ => s.deflectionCheck p e inPort o false
        | none, o :: _ => s.deflectionCheck p e inPort o false

end Sys2Proof.Machine
end

