-- ==== Sys2Proof/Machine/Traffic.lean ====
section
/-!
DEFINITION. The traffic manager (spec/12_traffic_management.md): meters, shapers, weighted fair queueing and the
selection at an output, the refill and the swap of tables.
-/
namespace Sys2Proof.Machine

/-- A colour of a meter (R407). -/
inductive Colour where
  | green | yellow | red
deriving DecidableEq, Repr

/-- The bits of a burst field (R410). -/
def burstBits (n : Nat) : Nat := n * 2048

/-- Whether a packet is neither metered nor coloured (R408). -/
def Packet.unmetered (p : Packet) : Bool :=
  p.cls == clsSTATUS || p.cls == clsREPLY || p.cls == clsTOKEN || p.cls == clsABORT || p.cls == clsFENCE_DONE
    || p.cls == clsTIME || p.cls == clsLINK
    || (p.cls == clsCOH &&
          let m := (Coh.ofBody p.body).msg
          m == mHeartbeat || cohIsSnoopResponse m)
    || (p.cls == clsCOH_DATA &&
          let m := (Coh.ofBody p.body).msg
          Nat.ble 0x1B m && Nat.ble m 0x1D)

/-- The two token counts of meter `i` set, with their complement. -/
def Chip.setMeter (s : Chip) (i : Nat) (c p : Int) : Chip :=
  { s with regs := s.regs.setProtected (A.TMG_METER_STATE i) 1 (codeOfInt 32 c + (codeOfInt 32 p) <<< 32) }

/-- The token counts of meter `i`, after the check of R412: on a mismatch both are refilled, counted and logged. -/
def Chip.meterTokens (s : Chip) (i : Nat) : Chip × Int × Int :=
  let a := A.TMG_METER_STATE i
  if s.checked a 1 then
    (s, signedOf 32 (s.rd a F.TMG_METER_STATE_TOK_C), signedOf 32 (s.rd a F.TMG_METER_STATE_TOK_P))
  else
    let b := A.TMG_METER_BURST i 1
    let c : Int := burstBits (s.rd b F.TMG_METER_BURST_CBS)
    let p : Int := burstBits (s.rd b F.TMG_METER_BURST_PBS)
    (((s.setMeter i c p).count A.TMG_STATUS F.TMG_STATUS_CHECKS).logReg .tableCheck .trafficManager a, c, p)

/-- Meter `i` colours a packet of `len` bytes (R407). -/
def Chip.colour (s : Chip) (i len : Nat) : Chip × Colour :=
  if !s.flag (A.TMG_METER_RATE i 1) F.TMG_METER_RATE_EN then (s, .green)
  else
    let (s, c, p) := s.meterTokens i
    let n : Int := 8 * len
    if p < n then (s.setMeter i c p, .red)
    else if c < n then (s.setMeter i c (p - n), .yellow)
    else (s.setMeter i (c - n) (p - n), .green)

/-- The meter that a packet arriving on port `n` uses, if its port has meters (R406). -/
def Chip.meterOf (s : Chip) (n tc : Nat) : Option Nat :=
  if Nat.ble localPort n then none
  else if s.mode n == modeF then some (8 * n + tc)
  else if s.mode n == modeD then some (8 * (4 * (n / 4)) + tc)
  else none

/-- The shaper of output `o` and partition `p`. -/
def Chip.shaper (s : Chip) (o p : Nat) : Shaper := (s.traffic.shapers.find (64 * o + p)).getD s.traffic.fresh

/-- The shaper changed. -/
def Chip.setShaper (s : Chip) (o p : Nat) (x : Shaper) : Chip :=
  { s with traffic := { s.traffic with shapers := s.traffic.shapers.put (64 * o + p) x } }

/-- The buckets of a shaper set, with their complements (R412). -/
def Shaper.withTokens (x : Shaper) (c p : Int) : Shaper :=
  { x with tokC := c, tokP := p, notC := -c - 1, notP := -p - 1 }

/-- Whether the shaper of partition `p` on output `o` acts: SHAPE_EN (R403). -/
def Chip.shaped (s : Chip) (o p : Nat) : Bool := s.flag (A.TMG_OUT_RATE o p 1) F.TMG_OUT_RATE_EN

/-- The shaper's state checked against its complement (R412). -/
def Chip.checkShaper (s : Chip) (o p : Nat) : Chip :=
  let x := s.shaper o p
  if x.notC == -x.tokC - 1 && x.notP == -x.tokP - 1 then s
  else
    let b := A.TMG_OUT_BURST o p 1
    ((s.setShaper o p (x.withTokens (burstBits (s.rd b F.TMG_OUT_BURST_CBS)) (burstBits (s.rd b F.TMG_OUT_BURST_PBS)))).count
      A.TMG_STATUS F.TMG_STATUS_CHECKS).logReg .tableCheck .trafficManager (A.TMG_OUT_RATE o p 1)

/-- The copies released at output `o`, with their packets, in the order of release. -/
def Chip.candidates (s : Chip) (o : Nat) : List (Slot × Copy) :=
  sortBy (fun e => e.2.rel) (s.sw.slots.flatMap (fun sl =>
    (sl.copies.filter (fun c => c.out == o && c.phase == .released)).map (fun c => (sl, c))))

/-- The candidates of partition `p` in the weighted rounds: neither Gutter packets nor TIME or LINK tadpoles. -/
def Chip.partCandidates (s : Chip) (o p : Nat) : List (Slot × Copy) :=
  (s.candidates o).filter (fun e => e.1.pkt.partition == p && Nat.blt e.2.cls 8
    && e.1.pkt.cls != clsTIME && e.1.pkt.cls != clsLINK)

/-- `a ≤ b` of 48-bit numbers compared modulo 2^48 (R182, R401). -/
def le48 (a b : Nat) : Bool := Nat.blt ((b + 2 ^ 48 - a % 2 ^ 48) % 2 ^ 48) (2 ^ 47)

/-- The greater of two such numbers. -/
def max48 (a b : Nat) : Nat := if le48 a b then b else a

/-- The step of a tag for a packet of `len` bytes under weight `w` (R401). -/
def tagStep (len w : Nat) : Nat := ceilDiv (len * 65536) w

/-- The weight of class `c` of partition `p` (TMG_CLASS). -/
def Chip.classWeight (s : Chip) (p c : Nat) : Nat := s.rd (A.TMG_CLASS p 1) ⟨7 * c, 7⟩

/-- The strict mask of partition `p`. -/
def Chip.strictMask (s : Chip) (p : Nat) : Nat := s.rd (A.TMG_CLASS p 1) F.TMG_CLASS_STRICT

/-- The first candidate of each class. -/
def firstOfClass (l : List (Slot × Copy)) (c : Nat) : Option (Slot × Copy) := l.find? (fun e => e.2.cls == c)

/-- The class tags of (o, p) brought up to date with the candidates there (R402). -/
def Chip.refreshClasses (s : Chip) (o p : Nat) : Chip :=
  let l := s.partCandidates o p
  let x := s.shaper o p
  s.setShaper o p ((upFrom 0 8).foldl (fun x c =>
    match firstOfClass l c with
    | none => { x with clsLive := x.clsLive.set c false }
    | some e =>
      if x.clsLive.getD c false then x
      else { x with
        clsLive := x.clsLive.set c true
        clsTag := x.clsTag.set c
          ((max48 x.clsClock (x.clsTag.getD c 0) + tagStep e.1.pkt.len (s.classWeight p c)) % 2 ^ 48) }) x)

/-- The class that partition `p` sends next on output `o`: strict classes first, lowest first, then the weighted class
with the least tag (R402). -/
def Chip.nextClass (s : Chip) (o p : Nat) : Option Nat :=
  let l := s.partCandidates o p
  let present := (upFrom 0 8).filter (fun c => (firstOfClass l c).isSome)
  match present.find? (fun c => bitAt (s.strictMask p) c) with
  | some c => some c
  | none =>
    let x := s.shaper o p
    present.foldl (fun best c =>
      match best with
      | none => some c
      | some b => if le48 (x.clsTag.getD b 0) (x.clsTag.getD c 0) then some b else some c) none

/-- The packet that partition `p` sends next on output `o`. -/
def Chip.nextOf (s : Chip) (o p : Nat) : Option (Slot × Copy) :=
  match s.nextClass o p with
  | none => none
  | some c => firstOfClass (s.partCandidates o p) c

/-- Whether partition `p` is eligible on output `o` in the committed round (true) or the excess round (R403). -/
def Chip.eligible (s : Chip) (o p : Nat) (committed : Bool) : Bool :=
  let x := s.shaper o p
  if s.shaped o p then (if committed then decide (0 < x.tokC) && decide (0 < x.tokP) else decide (0 < x.tokP))
  else !committed

/-- The virtual clock of a round at output `o`. -/
def Chip.clock (s : Chip) (o : Nat) (committed : Bool) : Nat :=
  ((if committed then s.traffic.clockC else s.traffic.clockE).find o).getD 0

/-- The clock set. -/
def Chip.setClock (s : Chip) (o : Nat) (committed : Bool) (v : Nat) : Chip :=
  if committed then { s with traffic := { s.traffic with clockC := s.traffic.clockC.put o v } }
  else { s with traffic := { s.traffic with clockE := s.traffic.clockE.put o v } }

/-- The tag of a round. -/
def Shaper.tag (x : Shaper) (committed : Bool) : Nat := if committed then x.tagC else x.tagE

/-- The tag of a round set, with whether it stands for a candidate. -/
def Shaper.setTag (x : Shaper) (committed : Bool) (v : Nat) (live : Bool) : Shaper :=
  if committed then { x with tagC := v % 2 ^ 48, liveC := live } else { x with tagE := v % 2 ^ 48, liveE := live }

/-- The weight of partition `p` on output `o`. -/
def Chip.weight (s : Chip) (o p : Nat) : Nat := s.rd (A.TMG_OUT_RATE o p 1) F.TMG_OUT_RATE_WEIGHT

/-- The tags of partition `p` at output `o` brought up to date: a partition that has gained a candidate while eligible
takes a tag (R401). -/
def Chip.refreshTags (s : Chip) (o p : Nat) : Chip :=
  let s := (s.checkShaper o p).refreshClasses o p
  [true, false].foldl (fun s r =>
    let x := s.shaper o p
    let live := if r then x.liveC else x.liveE
    match s.nextOf o p with
    | none => s.setShaper o p (x.setTag r (x.tag r) false)
    | some e =>
      if !s.eligible o p r then s.setShaper o p (x.setTag r (x.tag r) false)
      else if live then s
      else s.setShaper o p (x.setTag r (max48 (s.clock o r) (x.tag r) + tagStep e.1.pkt.len (s.weight o p)) true)) s

/-- The partitions with a candidate at output `o`. -/
def Chip.partsAt (s : Chip) (o : Nat) : List Nat :=
  distinct (((s.candidates o).filter (fun e => Nat.blt e.2.cls 8)).map (fun e => e.1.pkt.partition))

/-- The partition that round `r` selects (R401): the least tag, the lowest partition on ties. -/
def Chip.pickPart (s : Chip) (o : Nat) (r : Bool) : Option Nat :=
  let l := (s.partsAt o).filter (fun p => (s.nextOf o p).isSome && s.eligible o p r)
  l.foldl (fun best p =>
    match best with
    | none => some p
    | some b =>
      let tb := (s.shaper o b).tag r
      let tp := (s.shaper o p).tag r
      if tb == tp then some (min b p) else if le48 tb tp then some b else some p) none

/-- A packet of partition `p` is served in round `r`: clock, tags and tokens move (R401 to R403). The state before the
packet leaves the candidates is `s0`; `s` is the state after. -/
def Chip.afterService (s : Chip) (o p : Nat) (r : Bool) (len cls : Nat) : Chip :=
  let x := s.shaper o p
  let s := s.setClock o r (x.tag r)
  let n : Int := 8 * len
  let x := if s.shaped o p then x.withTokens (if r then x.tokC - n else x.tokC) (x.tokP - n) else x
  let x := if bitAt (s.strictMask p) cls then { x with clsLive := x.clsLive.set cls false }
    else { x with clsClock := x.clsTag.getD cls 0 }
  let s := s.setShaper o p x
  -- the next packet of the class and of the partition, where they have one
  let l := s.partCandidates o p
  let x := s.shaper o p
  let x := match firstOfClass l cls with
    | some e => { x with clsTag := x.clsTag.set cls ((x.clsTag.getD cls 0 + tagStep e.1.pkt.len (s.classWeight p cls)) % 2 ^ 48) }
    | none => { x with clsLive := x.clsLive.set cls false }
  let s := s.setShaper o p x
  match s.nextOf o p with
  | some e =>
    if s.eligible o p r then s.setShaper o p ((s.shaper o p).setTag r ((s.shaper o p).tag r + tagStep e.1.pkt.len (s.weight o p)) true)
    else s.setShaper o p ((s.shaper o p).setTag r ((s.shaper o p).tag r) false)
  | none => s.setShaper o p ((s.shaper o p).setTag r ((s.shaper o p).tag r) false)

/-- The phase of the copy of slot `id` at output `o`. -/
def Chip.setPhase (s : Chip) (id o : Nat) (ph : Phase) : Chip :=
  { s with sw := { s.sw with slots := s.sw.slots.map (fun sl =>
      if sl.id == id then { sl with copies := sl.copies.map (fun c => if c.out == o then { c with phase := ph } else c) }
      else sl) } }

/-- Whether output `o` carries only IDLE flits and link-local tadpoles, its partition being SCRUBBING (R427). -/
def Chip.scrubbingPort (s : Chip) (o : Nat) : Bool :=
  (s.mode o == modeF || s.mode o == modeD) && s.scrubbing (s.rd (A.PRT_PROFILE s.active o) F.PRT_PROFILE_PARTITION)

/-- The selection at output `o` (R398): the packet chosen, now in phase SENDING. -/
def Chip.selectOutput (s : Chip) (o : Nat) : Option (Chip × Slot) :=
  let l := s.candidates o
  let linkLocal := fun (e : Slot × Copy) => e.1.pkt.cls == clsTIME || e.1.pkt.cls == clsLINK
  match (if s.scrubbingPort o then none else l.find? (fun e => e.2.cls == 8)), l.find? linkLocal with
  | some e, _ => some (s.setPhase e.1.id o .sending, e.1)
  | none, some e => some (s.setPhase e.1.id o .sending, e.1)
  | none, none =>
    if s.scrubbingPort o then none
    else
      let s := (s.partsAt o).foldl (fun s p => s.refreshTags o p) s
      let serve (p : Nat) (r : Bool) : Option (Chip × Slot) :=
        match s.nextOf o p with
        | none => none
        | some e => some ((s.setPhase e.1.id o .sending).afterService o p r e.1.pkt.len e.2.cls, e.1)
      match s.pickPart o true, s.pickPart o false with
      | some p, _ => serve p true
      | none, some p => serve p false
      | none, none => none

/-- A bucket credited and clamped (R410). -/
def creditBucket (tok : Int) (rate period burst : Nat) : Int :=
  min (tok + (rate * period : Nat)) (burstBits burst : Nat)

/-- The credit of one refill boundary to every meter and shaper that has a rate, under the copies in force (R410). -/
def Chip.creditAll (s : Chip) : Chip :=
  let period := s.rd (A.TMG_CFG 1) F.TMG_CFG_REFILL_US
  let s := (s.listed (A.TMG_METER_RATE 0 0) 32 1024).foldl (fun s i =>
    let r := A.TMG_METER_RATE i 1
    let b := A.TMG_METER_BURST i 1
    if s.rd r F.TMG_METER_RATE_PIR == 0 then s
    else
      let (s, c, p) := s.meterTokens i
      s.setMeter i (creditBucket c (s.rd r F.TMG_METER_RATE_CIR) period (s.rd b F.TMG_METER_BURST_CBS))
        (creditBucket p (s.rd r F.TMG_METER_RATE_PIR) period (s.rd b F.TMG_METER_BURST_PBS))) s
  (s.listed (A.TMG_OUT_RATE 0 0 0) 32 8192).foldl (fun s k =>
    let o := k / 64
    let p := k % 64
    let r := A.TMG_OUT_RATE o p 1
    let b := A.TMG_OUT_BURST o p 1
    if s.rd r F.TMG_OUT_RATE_PIR == 0 then s
    else
      let s := s.checkShaper o p
      let x := s.shaper o p
      s.setShaper o p (x.withTokens
        (creditBucket x.tokC (s.rd r F.TMG_OUT_RATE_CIR) period (s.rd b F.TMG_OUT_BURST_CBS))
        (creditBucket x.tokP (s.rd r F.TMG_OUT_RATE_PIR) period (s.rd b F.TMG_OUT_BURST_PBS)))) s

/-- The active copy of the shadow register word at `a` (Table 12.4). -/
def activeCopy (a : Nat) : Nat :=
  match locateKey a with
  | some l =>
    match l.kind with
    | .tmgCfg | .tmgClass => a + 8
    | .tmgMeterRate | .tmgMeterBurst | .tmgOutRate | .tmgOutBurst => a + 16
    | _ => a
  | none => a

/-- Every bucket clamped to its burst size (R411). -/
def Chip.clampAll (s : Chip) : Chip :=
  let s := (s.listed (A.TMG_METER_RATE 0 0) 32 1024).foldl (fun s i =>
    let b := A.TMG_METER_BURST i 1
    let (s, c, p) := s.meterTokens i
    s.setMeter i (min c (burstBits (s.rd b F.TMG_METER_BURST_CBS) : Nat))
      (min p (burstBits (s.rd b F.TMG_METER_BURST_PBS) : Nat))) s
  (distinct (s.traffic.shapers.map (·.1) ++ s.listed (A.TMG_OUT_RATE 0 0 0) 32 8192)).foldl (fun s k =>
    let o := k / 64
    let p := k % 64
    let b := A.TMG_OUT_BURST o p 1
    let x := s.shaper o p
    s.setShaper o p (x.withTokens (min x.tokC (burstBits (s.rd b F.TMG_OUT_BURST_CBS) : Nat))
      (min x.tokP (burstBits (s.rd b F.TMG_OUT_BURST_PBS) : Nat)))) s

/-- The tags that stand for candidates, computed again under new weights (R411): `old` is the state before the swap. -/
def Chip.retag (s old : Chip) : Chip :=
  s.traffic.shapers.foldl (fun s e =>
    let o := e.1 / 64
    let p := e.1 % 64
    match s.nextOf o p with
    | none => s
    | some c =>
      let x := s.shaper o p
      let move (t : Nat) : Nat :=
        (t + 2 ^ 48 - tagStep c.1.pkt.len (old.weight o p) % 2 ^ 48 + tagStep c.1.pkt.len (s.weight o p)) % 2 ^ 48
      let x := { x with tagC := if x.liveC then move x.tagC else x.tagC, tagE := if x.liveE then move x.tagE else x.tagE }
      let l := s.partCandidates o p
      let x := (upFrom 0 8).foldl (fun x k =>
        match firstOfClass l k with
        | some d =>
          if x.clsLive.getD k false then
            let moved := (x.clsTag.getD k 0 + 2 ^ 48 - tagStep d.1.pkt.len (old.classWeight p k) % 2 ^ 48
              + tagStep d.1.pkt.len (s.classWeight p k)) % 2 ^ 48
            { x with clsTag := x.clsTag.set k moved }
          else x
        | none => x) x
      s.setShaper o p x) s

/-- The shadow copies written at least 100 ns ago become active, all at one instant (R411). -/
def Chip.swapShadows (s : Chip) : Chip :=
  let due := s.traffic.written.filter (fun e => Nat.ble (e.2 + 100) s.raw)
  let old := s
  let s := due.foldl (fun s e => { s with regs := s.regs.setWord (activeCopy e.1) (s.regs.word e.1) }) s
  let s := { s with traffic := { s.traffic with written := s.traffic.written.filter (fun e => !Nat.ble (e.2 + 100) s.raw) } }
  if due.isEmpty then s else s.clampAll.retag old

/-- The refill boundary (R410, R411): credit under the old copies, swap, clamp, new tags. -/
def Chip.refill (s : Chip) : Chip :=
  (s.creditAll.swapShadows).wrap A.TMG_STATUS F.TMG_STATUS_REFILLS 1

/-- The ns to the next moment after this one at which the time base modulo REFILL_US × 1,000 is 0 (R410). -/
def Chip.toRefill (s : Chip) : Nat :=
  let p := s.rd (A.TMG_CFG 1) F.TMG_CFG_REFILL_US * 1000
  p - s.tb % p

/-- The traffic manager after a data-plane reset: buckets full, clocks and tags zero (R413). -/
def Chip.resetTraffic (s : Chip) : Chip :=
  let s := (upFrom 0 1024).reverse.foldl (fun s i =>
    let b := A.TMG_METER_BURST i 1
    s.setMeter i (burstBits (s.rd b F.TMG_METER_BURST_CBS) : Nat) (burstBits (s.rd b F.TMG_METER_BURST_PBS) : Nat)) s
  let b := A.TMG_OUT_BURST 0 0 1
  let fresh := ({} : Shaper).withTokens (burstBits (RegFile.get [] b F.TMG_OUT_BURST_CBS) : Nat)
    (burstBits (RegFile.get [] b F.TMG_OUT_BURST_PBS) : Nat)
  let full := (s.listed (A.TMG_OUT_RATE 0 0 0) 32 8192).foldl (fun (t : Tab Shaper) k =>
    let b := A.TMG_OUT_BURST (k / 64) (k % 64) 1
    t.put k (({} : Shaper).withTokens (burstBits (s.rd b F.TMG_OUT_BURST_CBS) : Nat)
      (burstBits (s.rd b F.TMG_OUT_BURST_PBS) : Nat))) []
  { s with traffic := { s.traffic with clockC := [], clockE := [], shapers := full, fresh := fresh } }

end Sys2Proof.Machine
end

