-- ==== Sys2Proof/Machine/Switch.lean ====
section
/-!
DEFINITION. The switch core (spec/11_switch_core.md) and the flows of spec/10_packets_and_routing.md R362 to R369:
admission, the life of a packet in the buffer, the resequencer, fences, discards and their answers, sampling, the
flush of a port and the leaked-buffer audit.
-/
namespace Sys2Proof.Machine

/-- Descriptors and segments of the two pools (R377). -/
def descPool : Nat := 196608
def segPool : Nat := 393216

/-- The segments a buffered packet still holds. -/
def Slot.segsHeld (sl : Slot) : Nat := sl.pkt.segs

/-- Every slot changed by `f`. -/
def Chip.mapSlots (s : Chip) (f : Slot → Slot) : Chip := { s with sw := { s.sw with slots := s.sw.slots.map f } }

/-- Slot `id` changed by `f`. -/
def Chip.modSlot (s : Chip) (id : Nat) (f : Slot → Slot) : Chip :=
  s.mapSlots (fun sl => if sl.id == id then f sl else sl)

/-- The slot of number `id`. -/
def Chip.slot? (s : Chip) (id : Nat) : Option Slot := s.sw.slots.find? (fun sl => sl.id == id)

/-- The descriptors and segments of partition `p`'s reserve that are not in use (R380). -/
def Chip.unusedReserve (s : Chip) (p : Nat) : Nat :=
  s.rd (A.SWC_QUOTA p) F.SWC_QUOTA_MIN_UNITS
    - (s.sw.slots.filter (fun sl => sl.adm == .reserve && sl.pkt.partition == p)).foldl (fun n sl => n + sl.pkt.charge) 0

/-- The segments (or descriptors) of output `o`'s Gutter reserve in use. -/
def Chip.gutterUsed (s : Chip) (segs : Bool) (o : Nat) : Nat :=
  (s.sw.slots.filter (fun sl => sl.adm == .gutter o)).foldl (fun n sl => n + (if segs then sl.segsHeld else 1)) 0

/-- The descriptors that are free (R393: neither in use nor retired nor withheld). -/
def Chip.freeDesc (s : Chip) : Nat := descPool - s.sw.slots.length - s.sw.retiredDesc - s.sw.withheldDesc

/-- The segments that are free. -/
def Chip.freeSegs (s : Chip) : Nat :=
  segPool - s.sw.slots.foldl (fun n sl => n + sl.segsHeld) 0 - s.sw.retiredSegs - s.sw.withheldSegs

/-- The reserve of one output for Gutter packets (R356). -/
def Chip.gutterReserve (s : Chip) : Nat := s.rd A.RTE_CFG F.RTE_CFG_GUTTER_SEGS

/-- What the reserves set aside and do not use: every partition's and every output's, and for descriptors the control
reserve of TIME and LINK tadpoles (R380). -/
def Chip.setAside (s : Chip) (segs : Bool) : Nat :=
  (s.listed (A.SWC_QUOTA 0) 16 64).foldl (fun n p => n + s.unusedReserve p) 0
    + (128 * s.gutterReserve
        - ((distinct (s.sw.slots.filterMap (fun sl => match sl.adm with | .gutter o => some o | _ => none))).foldl
            (fun n o => n + s.gutterUsed segs o) 0))
    + (if segs then 0 else 512 - (s.sw.slots.filter (fun sl => sl.adm == .control)).length)

/-- Whether the shared pool holds a descriptor and `k` segments (R380). -/
def Chip.sharedHolds (s : Chip) (k : Nat) : Bool :=
  Nat.blt (s.setAside false) s.freeDesc && Nat.ble (k + s.setAside true) s.freeSegs

/-- Units charged to partition `p` (R383). -/
def Chip.used (s : Chip) (p : Nat) : Nat := s.rd (A.SWC_USAGE p) F.SWC_USAGE_USED

/-- Whether a packet of a tray class is of no partition (log entry 54): a control message, or an operation that acts for the tray
itself, the header and the zeroing of channels, with its answer. -/
def Chip.ownerless (s : Chip) (p : Packet) : Bool :=
  p.cls == clsTRAY_MSG || (classIsTray p.cls && (match s.pool.tops.find (bits p.body 96 32) with
    | some rec => (match rec.job with | .header _ => true | .headerWrite _ => true | .zero _ => true | _ => false)
    | none => false))

/-- Whether an admission is charged to the packet's partition (R380, R383). -/
def Admission.charged (a : Admission) : Bool := a != .control && a != .uncharged

/-- The way in which a packet is admitted, if it is (R380). `yellow` is a packet a meter coloured yellow (R409). -/
def Chip.admission (s : Chip) (p : Packet) (outs : List Copy) (yellow : Bool) : Option Admission :=
  if !s.sw.listsBuilt then none
  else if p.cls == clsTIME || p.cls == clsLINK then some .control
  else if s.ownerless p then (if s.sharedHolds p.segs then some .uncharged else none)
  else
    let o := match outs with | c :: _ => c.out | [] => localPort
    let used := s.used p.partition
    let q := A.SWC_QUOTA p.partition
    if p.gutter && Nat.ble (s.gutterUsed true o + p.segs) s.gutterReserve && Nat.blt (s.gutterUsed false o) s.gutterReserve then
      some (.gutter o)
    else if p.gutter && s.sharedHolds p.segs then some .shared
    else if p.gutter then none
    else if Nat.ble (used + p.charge) (s.rd q F.SWC_QUOTA_MIN_UNITS) then some .reserve
    else if yellow && Nat.blt s.freeDesc (s.rd (A.TMG_CFG 1) F.TMG_CFG_YELLOW_FREE) then none
    else if Nat.ble (used + p.charge) (s.rd q F.SWC_QUOTA_MAX_UNITS) && s.sharedHolds p.segs then some .shared
    else none

/-- RTE_EPOCH.DRAIN brought up to date (R374). -/
def Chip.syncDrain (s : Chip) : Chip :=
  if s.otherState == 2 then
    s.wr A.RTE_EPOCH F.RTE_EPOCH_DRAIN
      (s.sw.slots.filter (fun sl => classRouted sl.pkt.cls && sl.pkt.epoch == s.shadowV)).length
  else s.wr A.RTE_EPOCH F.RTE_EPOCH_DRAIN 0

/-- The charge of a packet added to its partition (R383); PEAK follows USED. -/
def Chip.chargeUp (s : Chip) (p : Packet) (adm : Admission) : Chip :=
  if !adm.charged then s
  else
    let a := A.SWC_USAGE p.partition
    let s := s.wr a F.SWC_USAGE_USED (s.used p.partition + p.charge)
    s.wr a F.SWC_USAGE_PEAK (max (s.rd a F.SWC_USAGE_PEAK) (s.used p.partition))

/-- The charge taken off again. -/
def Chip.chargeDown (s : Chip) (p : Packet) (adm : Admission) : Chip :=
  if !adm.charged then s
  else s.wr (A.SWC_USAGE p.partition) F.SWC_USAGE_USED (s.used p.partition - p.charge)

/-- The 512 bits of a sample record's metadata (Table 11.3). -/
def sampleMeta (sl : Slot) (time no : Nat) : Nat :=
  let outPort := match sl.copies with | [c] => c.out | [] => localPort | _ => 255
  time + sl.inPort <<< 64 + outPort <<< 72 + b2n sl.deflected <<< 80 + b2n sl.pkt.gutter <<< 81
  + b2n (Nat.blt 128 sl.pkt.len) <<< 82 + sl.pkt.len <<< 96 + no <<< 128

/-- The first 128 bytes of a packet, as one number. -/
def Packet.head128 (p : Packet) : Nat := (p.units.take 4).foldr (fun u n => u + n <<< 256) 0

/-- A sample record is written to Newt's ring, within the rate and the room there is (R395, R396, R26). -/
def Chip.writeSample (s : Chip) (sl : Slot) (time : Nat) : Chip :=
  let win := s.tb / 1000000
  let n := if win == s.sw.sampleWindow then s.sw.sampleInWindow else 0
  let s := { s with sw := { s.sw with sampleWindow := win, sampleInWindow := n } }
  if Nat.ble 1000 n then s.count A.SWC_SAMPLE_STATUS F.SWC_SAMPLE_STATUS_RATE_DROPS
  else
    let no := s.sw.sampleNo
    let s := { s with sw := { s.sw with sampleInWindow := n + 1 } }
    if !s.samplesArmed || Nat.ble 8192 s.samples.length then
      s.count A.SWC_SAMPLE_STATUS F.SWC_SAMPLE_STATUS_RING_DROPS
    else
      { s.wrap A.SWC_SAMPLE_STATUS F.SWC_SAMPLE_STATUS_TAKEN 1 with
        sw := { s.sw with sampleNo := no + 1 }
        samples := s.samples ++ [sampleMeta sl time no + sl.pkt.head128 <<< 512] }

/-- Whether a packet of partition `p` is eligible for sampling (R395). -/
def Chip.sampleEligible (s : Chip) (p : Packet) : Bool :=
  s.flag A.SWC_SAMPLE_CFG F.SWC_SAMPLE_CFG_EN && classRouted p.cls
    && bitAt (s.rd A.SWC_SAMPLE_FILTER F.SWC_SAMPLE_FILTER_PARTITIONS) p.partition
    && s.flag (A.SWC_QUOTA p.partition) F.SWC_QUOTA_SAMPLE_OK

/-- Whether enough of a packet is in place for its sample: its first 128 bytes, or all of a shorter one. -/
def Slot.sampleReady (sl : Slot) : Bool := sl.whole || Nat.ble 1 sl.filled

/-- The sample of slot `id`, if it is due one and it can be taken. -/
def Chip.trySample (s : Chip) (id : Nat) : Chip :=
  match s.sw.slots.find? (fun sl => sl.id == id) with
  | some sl =>
    match sl.sampleAt with
    | some t =>
      if sl.sampleReady then
        let s := s.writeSample sl t
        s.modSlot id (fun x => { x with sampleAt := none })
      else s
    | none => s
  | none => s

/-- The edge of `dst` under version `v`, where the entry is there and passes its check (R362, R367). -/
def Chip.edgeOf (s : Chip) (v dst : Nat) : Option Nat :=
  let e := A.RTE_ROUTE v dst
  if s.checked e 1 && s.rd e F.RTE_ROUTE_KIND != 0 then some (s.rd e F.RTE_ROUTE_EDGE) else none

/-- The number of a flow at its source edge: source (a port, or 128 for the E9 itself) and edge (R364). -/
def flowKey (src edge : Nat) : Nat := 1024 * src + edge

/-- The flow of a source and an edge. -/
def Chip.flow (s : Chip) (k : Nat) : SrcFlow := (s.flows.src.find k).getD {}

/-- The flow changed. -/
def Chip.setFlow (s : Chip) (k : Nat) (f : SrcFlow) : Chip :=
  { s with flows := { s.flows with src := s.flows.src.put k f } }

/-- The arrival counts of source `e` at this destination edge (R365). -/
def Chip.arrivals (s : Chip) (e g : Nat) : Nat := ((s.flows.dst.find e).getD [0, 0, 0, 0]).getD g 0

/-- One of the counts set. -/
def Chip.setArrivals (s : Chip) (e g n : Nat) : Chip :=
  { s with flows := { s.flows with dst := s.flows.dst.put e (((s.flows.dst.find e).getD [0, 0, 0, 0]).set g n) } }

/-- Fence hold limit in ticks. -/
def Chip.fenceHold (s : Chip) : Nat := us (s.rd A.RTE_FLOW_CFG F.RTE_FLOW_CFG_FENCE_HOLD_US)

/-- A packet takes its place in its flow as it leaves the source edge (R363): FGEN, SEQ, the automatic fence at SEQ
65,534, and the fence it leaves outstanding (R364, R367). -/
def Chip.stampFlow (s : Chip) (k : Nat) (p : Packet) : Chip × Packet :=
  let f := s.flow k
  let fence := p.fence || f.seq == 65534
  let p := { p with fgen := f.fgen, seq := f.seq, fence := fence }
  if fence then
    ((s.setFlow k { f with fgen := (f.fgen + 1) % 4, seq := 0, out := f.out ++ [(f.fgen, f.seq)] }).startTimer
      (.sourceFence k f.fgen) (2 * s.fenceHold), p)
  else (s.setFlow k { f with seq := f.seq + 1 }, p)

/-- Whether a packet must be held at its source edge (R364): behind a held one, or as the fourth outstanding fence. -/
def SrcFlow.mustHold (f : SrcFlow) (p : Packet) : Bool :=
  !f.held.isEmpty || ((p.fence || f.seq == 65534) && Nat.ble 3 f.out.length)

/-- The STATUS tadpole that answers packet `p` with `st` (Table 10.4, R367). -/
def Chip.statusAnswer (s : Chip) (p : Packet) (st : Status) (addr : Nat) : Packet :=
  let edge := if p.mcast then none else s.edgeOf p.epoch p.dst
  { cls := clsSTATUS, tc := p.tc, partition := p.partition, dst := p.src, src := s.selfEid,
    body := StatusBody.body
      { status := st.code, origClass := p.cls, origSeq := p.seq, origFgen := p.fgen, origFence := p.fence,
        origEdge := edge.getD 0, origEdgeValid := edge.isSome, addr := addr,
        tag := if p.cls == clsWRITE || p.cls == clsCOUNTER then p.tag else 0 } }

/-- The Err completion of coherence request `p` (R135). -/
def Chip.errAnswer (s : Chip) (p : Packet) (st : Status) : Packet :=
  let c := Coh.ofBody p.body
  { cls := clsCOH, tc := p.tc, partition := p.partition, dst := p.src, src := s.selfEid,
    body := Coh.body { msg := mErr, status := st.code, lmask := c.lmask, tag := c.tag, saddr := c.saddr } }

/-- The answer to a discarded packet, where its class has one (Table 10.2, R359). -/
def Chip.discardAnswer (s : Chip) (p : Packet) (st : Status) : Option Packet :=
  if p.isPoolRequest then some (s.errAnswer p st)
  else if p.cls == clsCOUNTER || p.cls == clsWRITE || p.cls == clsCOLL || p.cls == clsCMD then
    some (s.statusAnswer p st (if p.cls == clsWRITE then p.address.2 else 0))
  else none

/-- How an offered packet fared. -/
inductive Fate where
  | slot (id : Nat)
  | dropped
  | waiting
deriving DecidableEq, Repr

/-- The record of a discard (R442, R350): the failing table entry, or the request that was answered. -/
def Chip.logDiscard (s : Chip) (p : Packet) (st : Status) (entry : Option Nat) (inPort : Nat) : Chip :=
  match entry with
  | some a => s.log { status := .tableCheck, subsys := .routeUnit, partition := some p.partition, addrKind := 4, addr := a,
                      srcEid := p.src, port := inPort, tag := p.tag, detail := p.address.2 }
  | none =>
    if (s.discardAnswer p st).isSome then
      s.log { status := st, subsys := if st == .busy || st == .portDown then .switchCore else .routeUnit,
              partition := some p.partition, addrKind := p.address.1, addr := p.address.2, srcEid := p.src,
              port := inPort, tag := p.tag }
    else s

/-- A counter that names a cause, raised. -/
def Chip.countCause (s : Chip) (c : Option (Nat × Fld)) : Chip :=
  match c with
  | some (a, f) => s.count a f
  | none => s

/-- A new slot at the end of the buffer. -/
def Chip.place (s : Chip) (sl : Slot) : Chip :=
  let id := s.sw.nextId
  let sl := { sl with id := id }
  let s := { s with sw := { s.sw with nextId := id + 1, slots := s.sw.slots ++ [sl] } }
  (s.chargeUp sl.pkt sl.adm).syncDrain

/-- Whether every N-th eligible packet falls on this one (R395); the count moves on. -/
def Chip.sampleDue (s : Chip) (p : Packet) : Chip × Bool :=
  if s.sampleEligible p then
    let n := s.sw.sampleCount + 1
    if Nat.ble (2 ^ s.rd A.SWC_SAMPLE_CFG F.SWC_SAMPLE_CFG_LOG2N) n then ({ s with sw := { s.sw with sampleCount := 0 } }, true)
    else ({ s with sw := { s.sw with sampleCount := n } }, false)
  else (s, false)

/-- A FENCE_DONE bound for an endpoint stays at its source edge, which consumes it (R366, R367). -/
def Chip.endsHere (s : Chip) (p : Packet) (c : Copy) : Copy :=
  if p.cls == clsFENCE_DONE && c.out != localPort && (s.mode c.out == modeF || s.mode c.out == modeD) then
    { c with out := localPort }
  else c

/-- The copies of a packet marked with what the route unit decided, and put into the buffer. -/
def Chip.putIn (s : Chip) (p : Packet) (copies : List Copy) (adm : Admission) (inPort : Nat) (here deflected : Bool)
    (held : Held) (owner : Option Nat) : Chip × Nat :=
  let (s, due) := s.sampleDue p
  let id := s.sw.nextId
  let s := s.place { id := id, pkt := p, inPort := inPort, copies := copies.map (s.endsHere p), adm := adm,
                     filled := if here then p.segs else 0, whole := here || p.segs == 0, held := held,
                     deflected := deflected, owner := owner, sampleAt := if due then some s.tb else none }
  let s := if here || p.segs == 0 then s
    else s.startTimer (.reassembly id) (s.rd A.SWC_CFG F.SWC_CFG_REASM_TO * 100)
  (s.trySample id, id)

/-- Multicast copies that are not sent, counted (R360). -/
def Chip.countMissing (s : Chip) (missing : Nat) (withheld : Bool) : Chip :=
  let s := s.bump A.RTE_DROPS1 F.RTE_DROPS1_MCAST cap16 missing
  if withheld then s.count A.RTE_DROPS0 F.RTE_DROPS0_PARTITION else s

/-- A packet coloured by the meter of its port, where that has meters (R406, R408). -/
def Chip.coloured (s : Chip) (inPort : Nat) (p : Packet) : Chip × Colour :=
  match s.meterOf inPort p.tc with
  | some i => if p.unmetered then (s, Colour.green) else s.colour i p.len
  | none => (s, Colour.green)

/-- A routed packet is offered to the switch core (R380): routed, metered where it came from an endpoint, admitted or
refused. `srcEdge` is whether it leaves its source edge now. -/
def Chip.offer (s : Chip) (p : Packet) (inPort : Nat) (srcEdge here : Bool) (owner : Option Nat)
    (answer : Bool := false) : Chip × Fate × Option (Packet × Status) :=
  match s.route p inPort answer with
  | .drop st cnt entry =>
    (((s.countCause cnt).logDiscard p st entry inPort), .dropped, some (p, st))
  | .go p' copies deflected missing withheld =>
    let s := s.countMissing missing withheld
    let (s, colour) := s.coloured inPort p'
    let mcnt := match s.meterOf inPort p'.tc with | some i => A.TMG_METER_CNT i | none => 0
    if copies.isEmpty then (s, .dropped, none)
    else if colour == .red then
      ((s.count mcnt F.TMG_METER_CNT_RED_DROPS).logDiscard p' .busy none inPort, .dropped, some (p', .busy))
    else
      match s.admission p' copies (colour == .yellow) with
      | some adm =>
        let (s, p') := if srcEdge && !p'.mcast then
            match s.edgeOf p'.epoch p'.dst with
            | some edge => s.stampFlow (flowKey inPort edge) p'
            | none => (s, p')
          else (s, p')
        let (s, id) := s.putIn p' copies adm inPort here deflected .no owner
        (s, .slot id, none)
      | none =>
        if inPort == localPort then
          ({ s with sw := { s.sw with waiting := s.sw.waiting ++ [⟨p', copies, owner⟩] } }, .waiting, none)
        else if p'.gutter then
          let o := match copies with | c :: _ => c.out | [] => localPort
          (((s.countCause cntGUTTER).logReg .busy .switchCore (A.PRT_STATUS o)), .dropped, some (p', .busy))
        else if colour == .yellow then
          ((s.count mcnt F.TMG_METER_CNT_YELLOW_DROPS).logDiscard p' .busy none inPort, .dropped, some (p', .busy))
        else ((s.countCause cntQUOTA).logDiscard p' .busy none inPort, .dropped, some (p', .busy))

/-- A packet at its source edge, held or offered (R345, R364). -/
def Chip.fromSource (s : Chip) (p : Packet) (inPort : Nat) (here : Bool) (owner : Option Nat)
    (answer : Bool := false) : Chip × Fate × Option (Packet × Status) :=
  let p := { p with epoch := s.active, defl := 0, hops := 1, gdown := false, fgen := 0, seq := 0 }
  if p.fence && p.mcast then
    (s.logDiscard p .formatInvalid none inPort, .dropped, some (p, .formatInvalid))
  else
    match if p.mcast then none else s.edgeOf p.epoch p.dst with
    | some edge =>
      let k := flowKey inPort edge
      let f := s.flow k
      if f.mustHold p then
        match s.admission p [] false with
        | some adm =>
          let (s, id) := s.putIn p [] adm inPort here false .source owner
          (s.setFlow k { f with held := f.held ++ [id] }, .slot id, none)
        | none =>
          if inPort == localPort then
            ({ s with sw := { s.sw with waiting := s.sw.waiting ++ [⟨p, [], owner⟩] } }, .waiting, none)
          else ((s.countCause cntQUOTA).logDiscard p .busy none inPort, .dropped, some (p, .busy))
      else s.offer p inPort true here owner answer
    | none => s.offer p inPort true here owner answer

/-- A packet created on this E9 enters the fabric (R345); what it carries that would be discarded is not answered. -/
def Chip.createQuiet (s : Chip) (p : Packet) (owner : Option Nat) : Chip × Fate :=
  let r := s.fromSource { p with gutter := p.gutter && (p.cls == clsABORT || p.cls == clsFENCE_DONE) } localPort true owner true
  (r.1, r.2.1)

/-- The answer to a discarded packet is created (R359). -/
def Chip.answerDiscard (s : Chip) (d : Option (Packet × Status)) : Chip :=
  match d with
  | none => s
  | some (p, st) =>
    match s.discardAnswer p st with
    | some a => (s.createQuiet a none).1
    | none => s

/-- Released copies at an output: their numbers in the order of release, and the tags of the traffic manager. -/
def Chip.markReleased (s : Chip) (id o part : Nat) : Chip :=
  let n := s.sw.nextRel
  let s := { s with sw := { s.sw with nextRel := n + 1 } }
  let s := s.modSlot id (fun sl => { sl with copies := sl.copies.map (fun c =>
    if c.out == o && c.phase == .queued then { c with phase := .released, rel := n } else c) })
  if o == localPort then s else s.refreshTags o part

/-- Whether this E9 is the destination edge of the packet: it is the destination, or the destination is attached here
(R362). -/
def Chip.atDestEdge (s : Chip) (p : Packet) : Bool :=
  !p.mcast && classRouted p.cls &&
    (let k := s.rd (A.RTE_ROUTE p.epoch p.dst) F.RTE_ROUTE_KIND
     k == 1 || k == 2)

/-- The hold of slot `id` changed. -/
def Chip.setHeld (s : Chip) (id : Nat) (h : Held) : Chip :=
  s.modSlot id (fun sl => { sl with held := h })

/-- Whether an earlier packet of the triple still stands before copy `c` of slot `sl` (R389, R390). -/
def Chip.behind (s : Chip) (sl : Slot) (c : Copy) : Bool :=
  s.sw.slots.any (fun x => Nat.blt x.id sl.id && !x.held.waits && x.inPort == sl.inPort
    && x.copies.any (fun d => d.out == c.out && d.cls == c.cls && d.phase == .queued))

/-- One pass of the resequencer: whole packets that nothing earlier of their triple precedes are released, or held at
the destination edge until the fence's count is reached (R366, R389). -/
def Chip.releasePass (s : Chip) : Chip :=
  s.sw.slots.foldl (fun s sl =>
    match s.sw.slots.find? (fun x => x.id == sl.id) with
    | none => s
    | some sl =>
      if sl.whole && !sl.held.waits then
        sl.copies.foldl (fun s c =>
          if c.phase == .queued && !s.behind sl c then
            if sl.pkt.fence && s.atDestEdge sl.pkt && !sl.gated
                && Nat.blt (s.arrivals sl.pkt.src sl.pkt.fgen) sl.pkt.seq then
              (s.setHeld sl.id .fence).startTimer (.fenceHold sl.id) s.fenceHold
            else s.markReleased sl.id c.out sl.pkt.partition
          else s) s
      else s) s

/-- A slot leaves the buffer: its charge falls and its timers stop (R382). -/
def Chip.dropSlot (s : Chip) (id : Nat) : Chip :=
  match s.sw.slots.find? (fun sl => sl.id == id) with
  | none => s
  | some sl =>
    let s := { s with sw := { s.sw with slots := s.sw.slots.filter (fun x => x.id != id) } }
    (((s.chargeDown sl.pkt sl.adm).stopTimer (.reassembly id)).stopTimer (.fenceHold id)).syncDrain

/-- Waiting created packets are admitted as room comes free, oldest first (R380). -/
def Chip.admitWaiting (s : Chip) : Chip :=
  let l := s.sw.waiting
  l.foldl (fun s w =>
    match s.admission w.pkt w.copies false with
    | none => { s with sw := { s.sw with waiting := s.sw.waiting ++ [w] } }
    | some adm =>
      if w.copies.isEmpty then
        match s.edgeOf w.pkt.epoch w.pkt.dst with
        | some edge =>
          let k := flowKey localPort edge
          let (s, id) := s.putIn w.pkt [] adm localPort true false .source w.owner
          s.setFlow k { s.flow k with held := (s.flow k).held ++ [id] }
        | none => s
      else
        let (s, p) := match (if w.pkt.mcast then none else s.edgeOf w.pkt.epoch w.pkt.dst), classRouted w.pkt.cls with
          | some edge, true => s.stampFlow (flowKey localPort edge) w.pkt
          | _, _ => (s, w.pkt)
        (s.putIn p w.copies adm localPort true false .no w.owner).1)
    { s with sw := { s.sw with waiting := [] } }

/-- The switch core after a change: waiting packets admitted, whole packets released. -/
def Chip.settle (s : Chip) : Chip := s.admitWaiting.releasePass

/-- A packet created on this E9 enters the fabric and is answered where it is discarded (R345, R359). -/
def Chip.create (s : Chip) (p : Packet) (owner : Option Nat := none) : Chip × Fate :=
  let r := s.fromSource { p with gutter := p.gutter && (p.cls == clsABORT || p.cls == clsFENCE_DONE) } localPort true owner
  ((r.1.answerDiscard r.2.2).settle, r.2.1)

/-- Whether this E9 runs in SHADOW mode, and in TAP mode (ERR_SHADOW_CFG.MODE). -/
def Chip.isShadow (s : Chip) : Bool := s.rd A.ERR_SHADOW_CFG F.ERR_SHADOW_CFG_MODE == 2
def Chip.isTap (s : Chip) : Bool := s.rd A.ERR_SHADOW_CFG F.ERR_SHADOW_CFG_MODE == 1

/-- Whether a shadow suppresses a packet that leaves it (R457). -/
def Chip.suppressed (s : Chip) (p : Packet) : Bool :=
  s.isShadow && (p.mcast || p.dst != s.selfEid)
    && [clsCOLL, clsWRITE, clsCOUNTER, clsTOKEN, clsABORT, clsCMD].contains p.cls

/-- A packet of this E9 is sent; in SHADOW mode some are suppressed (R457). -/
def Chip.send (s : Chip) (p : Packet) : Chip := if s.suppressed p then s else (s.create p).1

/-- A link-local packet created here waits at port `o` (R344). -/
def Chip.sendLink (s : Chip) (o : Nat) (p : Packet) : Chip :=
  let copies : List Copy := [⟨o, p.tc, .queued, 0⟩]
  match s.admission p copies false with
  | some adm => ((s.putIn p copies adm localPort true false .no none).1).settle
  | none => { s with sw := { s.sw with waiting := s.sw.waiting ++ [⟨p, copies, none⟩] } }

/-- The ports of a port's log limit: whether a record of R359 may be written now, at most one a millisecond. -/
def Chip.mayLog359 (s : Chip) (n : Nat) : Bool :=
  match (s.port n).logR359 with | some t => Nat.ble (t + 1000000) s.raw | none => true

/-- A packet discarded under R309: counted, logged at most once per port per millisecond, never answered (R359). -/
def Chip.discard309 (s : Chip) (n : Nat) : Chip :=
  let s := s.countCause cntPARTITION
  if s.mayLog359 n then
    (s.logReg .accessDenied .routeUnit (A.PRT_STATUS n)).modPort n (fun p => { p with logR359 := some s.raw })
  else s

/-- Whether a packet is an AtomicAny FetchAdd that this E9 may combine. -/
def Chip.combines (s : Chip) (p : Packet) : Bool :=
  let c := Coh.ofBody p.body
  p.cls == clsCOH && c.msg == mAtomicAny && c.aop == 1 && !p.fence && !c.nocombine
    && Nat.ble 1 c.count && Nat.ble c.count 64 && (c.size == 4 || c.size == 8)
    && s.flag A.HOM_CTL F.HOM_CTL_FAA_COMBINE_EN
    && !(p.src == s.selfEid && (match s.pool.asks.find c.tag with
          | some a => (match a.who with | .comb _ => true | _ => false)
          | none => false))

/-- A packet's header is accepted on port `n` (R380): the checks of R343 to R345 in their order, the hop limit, and the
offer to the switch core; a discard is answered. A packet of a CLOSED version is left to the route unit (R371). A FetchAdd that
may be combined is held for the combining unit (R147). -/
def Chip.acceptHeader (s : Chip) (n : Nat) (p : Packet) : Chip × Fate :=
  let m := s.mode n
  let fail (st : Status) (cnt : Option (Nat × Fld)) (ent : Option Nat) : Chip × Fate :=
    ((((s.countCause cnt).logDiscard p st ent n).answerDiscard (some (p, st))).settle, .dropped)
  match formatCheck m p with
  | some st => fail st cntFORMAT none
  | none =>
    if !classRouted p.cls then
      match s.admission p [⟨localPort, p.tc, .queued, 0⟩] false with
      | some adm =>
        let (s, id) := s.putIn p [⟨localPort, p.tc, .queued, 0⟩] adm n (p.segs == 0) false .no none
        (s.settle, .slot id)
      | none => fail .busy cntQUOTA none
    else
      let endpoint := m == modeF || m == modeD
      if endpoint && (p.src != s.rd (A.PRT_STATUS n) F.PRT_STATUS_PARTNER_EID
          || p.partition != s.rd (A.PRT_PROFILE s.active n) F.PRT_PROFILE_PARTITION) && m == modeF then
        (s.discard309 n, .dropped)
      else if endpoint && s.scrubbing p.partition then fail .partitionScrubbing none none
      else if !endpoint && p.hops == 63 then fail .timeout cntHOPS none
      else
        let p := if endpoint then { p with epoch := s.active, gutter := false } else { p with hops := p.hops + 1 }
        match (if s.closed p.epoch then none else s.poolCheck p false) with
        | some (st, ent) =>
          (((s.logDiscard p st ent n).answerDiscard (some (p, st))).settle, .dropped)
        | none =>
          let copies : List Copy := [⟨localPort, p.tc, .queued, 0⟩]
          match if s.combines p && !s.closed p.epoch then s.admission p copies false else none with
          | some adm =>
            let (s, id) := s.putIn p copies adm n true false .no none
            (s.settle, .slot id)
          | none =>
          let r := if endpoint then s.fromSource p n (p.segs == 0) none else s.offer p n false (p.segs == 0) none
          ((r.1.answerDiscard r.2.2).settle, r.2.1)

/-- One more segment of slot `id` is in place; at the last the packet is whole (R379). -/
def Chip.segmentIn (s : Chip) (id : Nat) (bytes : List Byte) : Chip :=
  let s := s.modSlot id (fun sl =>
    { sl with filled := sl.filled + 1, whole := Nat.ble sl.pkt.segs (sl.filled + 1),
              pkt := { sl.pkt with payload := sl.pkt.payload ++ bytes } })
  let whole := s.sw.slots.any (fun sl => sl.id == id && sl.whole)
  let s := s.trySample id
  if whole then (s.stopTimer (.reassembly id)).settle else s

/-- A packet has been applied at the destination edge (R365, R366): its interval's count, the FENCE_DONE, and the held
packets that may start now. -/
def Chip.flowApplied (s : Chip) (p : Packet) : Chip :=
  if p.mcast || !classRouted p.cls then s
  else
    let s := if p.fence then
        let s := s.setArrivals p.src p.fgen 0
        s.send { cls := clsFENCE_DONE, gutter := true, tc := p.tc, partition := p.partition, dst := p.src,
                 src := s.selfEid,
                 body := fenceDoneBody p.fgen (s.rd (A.RTE_GUTTER p.epoch) F.RTE_GUTTER_SELF_EDGE) }
      else s.setArrivals p.src p.fgen (s.arrivals p.src p.fgen + 1)
    let n := s.arrivals p.src p.fgen
    let s := s.mapSlots (fun sl =>
      if sl.held == .fence && sl.pkt.src == p.src && sl.pkt.fgen == p.fgen && Nat.ble sl.pkt.seq n then
        { sl with held := .no, gated := true }
      else sl)
    let s := { s with timers := s.timers.filter (fun e =>
      match e.1 with
      | .fenceHold id => s.sw.slots.any (fun (sl : Slot) => sl.id == id && sl.held == Held.fence)
      | _ => true) }
    s.settle

/-- The copy of slot `id` at output `o` is done; the packet is freed when every copy is (R382). -/
def Chip.copyDone (s : Chip) (id o : Nat) : Chip :=
  let s := s.setPhase id o .done
  if s.sw.slots.any (fun sl => sl.id == id && sl.copies.all (fun c => c.phase == .done)) then (s.dropSlot id).settle else s

/-- The slot of packet `p` whose local copy may start now. -/
def Chip.releasedLocal (s : Chip) (p : Packet) : Option Slot :=
  (s.sw.slots.find? (fun sl => sl.pkt == p && sl.held != .early
      && sl.copies.any (fun c => c.out == localPort && c.phase != .done))).filter (fun sl =>
    sl.held == .no && sl.copies.any (fun c => c.out == localPort && c.phase == .released))

/-- A local consumer takes packet `p`: where a released local copy of it is in the buffer, that copy is done. The
second result is whether the packet may be applied now: a fenced packet waits until its count is reached (R366). A
packet that is not in the buffer has arrived by a way the model does not carry and is taken as it is (log entry 14). -/
def Chip.takeLocal (s : Chip) (p : Packet) : Chip × Bool :=
  match s.sw.slots.find? (fun sl => sl.pkt == p && sl.held != .early
      && sl.copies.any (fun c => c.out == localPort && c.phase != .done)) with
  | some sl =>
    if sl.held == .no && sl.copies.any (fun c => c.out == localPort && c.phase == .released) then
      (s.copyDone sl.id localPort, true)
    else (s, false)
  | none =>
    if p.fence && !p.mcast && Nat.blt (s.arrivals p.src p.fgen) p.seq then
      let (s, id) := s.putIn p [⟨localPort, p.tc, .queued, 0⟩] .shared localPort true false .fence none
      (s.startTimer (.fenceHold id) s.fenceHold, false)
    else (s, true)

/-- An outstanding fence of flow `k`, interval `g`, completes (R367); packets held behind it leave the source edge, each
routed now (R364). -/
def Chip.fenceComplete (s : Chip) (k g : Nat) : Chip :=
  let f := s.flow k
  let s := (s.setFlow k { f with out := f.out.filter (fun e => e.1 != g) }).stopTimer (.sourceFence k g)
  let src := k / 1024
  let held := (s.flow k).held
  let s := held.foldl (fun s id =>
    let f := s.flow k
    match f.held, s.sw.slots.find? (fun sl => sl.id == id) with
    | first :: rest, some sl =>
      if first != id then s
      else if (sl.pkt.fence || f.seq == 65534) && Nat.ble 3 f.out.length then s
      else
        let s := s.setFlow k { f with held := rest }
        let p := { sl.pkt with epoch := s.active }
        match s.route p src with
        | .drop st cnt ent =>
          ((((s.countCause cnt).logDiscard p st ent src).dropSlot id).answerDiscard (some (p, st)))
        | .go p' copies deflected missing withheld =>
          let s := s.countMissing missing withheld
          let (s, p') := s.stampFlow k p'
          (s.modSlot id (fun x => { x with pkt := { p' with payload := x.pkt.payload }, copies := copies,
                                           held := .no, deflected := deflected })).syncDrain
    | _, _ => s) s
  s.settle

/-- Whether a STATUS answer completes the fence of a flow whose source is `src` (R367): the flow's edge, interval and
SEQ. -/
def Chip.fenceAnswered (s : Chip) (srcPort : Nat) (b : StatusBody) : Chip :=
  let k := flowKey srcPort b.origEdge
  if b.origFence && b.origEdgeValid && (s.flow k).out.any (fun e => e == (b.origFgen, b.origSeq)) then
    s.fenceComplete k b.origFgen
  else s

/-- The port by which endpoint `e` is attached under the active version, or 128 for this E9's own EIDs. -/
def Chip.sourceOf (s : Chip) (e : Nat) : Nat :=
  let a := A.RTE_ROUTE s.active e
  if s.rd a F.RTE_ROUTE_KIND == 2 then s.rd a F.RTE_ROUTE_PORT else localPort

/-- The link layer of a port that has left service: nothing in flight, the flit sequence begun again. -/
def Port.cleared (p : Port) : Port :=
  { p with
    txUnits := [], sent := [], replayAt := none, stalls := 0, ackOwed := false, nakOwed := false, rxGroup := []
    rxBad := false, rxUnits := [], rxPacket := none, tagFails := 0, txSeq := 0, txGroup := 0, rxExpect := 0
    rxLast := none }

/-- The request of an access to a sector of a tray has been discarded unsent: the access ends with PORT_DOWN. -/
def Chip.trayRequestLost (s : Chip) (tag : Nat) : Chip :=
  { s with pool := { s.pool with tops := s.pool.tops.mapAt tag (fun r =>
      match r.job with | .sector _ => { r with dead := true } | _ => r) } }

/-- Port `n`'s queues are flushed as it leaves service (R391): what is not wholly sent and what is still arriving is
discarded and answered with PORT_DOWN, what is sent and unacknowledged is freed. -/
def Chip.flushPort (s : Chip) (n : Nat) : Chip :=
  let victims := s.sw.slots.filter (fun sl =>
    (sl.inPort == n && !sl.whole) || (sl.copies.any (fun c => c.out == n && c.phase != .done)))
  let s := victims.foldl (fun s sl =>
    let arriving := sl.inPort == n && !sl.whole
    let mine := sl.copies.filter (fun c => c.out == n && c.phase != .done)
    let sent := mine.all (fun c => match c.phase with | .unacked _ => true | _ => false)
    if arriving then
      ((s.countCause cntFLUSHED).dropSlot sl.id).answerDiscard (some (sl.pkt, .portDown))
    else if sl.pkt.mcast then
      (s.bump A.RTE_DROPS1 F.RTE_DROPS1_MCAST cap16 (if sent then 0 else 1)).copyDone sl.id n
    else if sent then s.dropSlot sl.id
    else
      let s := if sl.pkt.cls == clsTRAY_REQ || sl.pkt.cls == clsTRAY_WR then s.trayRequestLost (bits sl.pkt.body 96 32) else s
      ((s.countCause cntFLUSHED).dropSlot sl.id).answerDiscard (some (sl.pkt, .portDown))) s
  let s := s.modPort n Port.cleared
  ((s.stopTimer (.replay n)).logReg .portDown .switchCore (A.PRT_STATUS n)).settle

/-- The leaked-buffer audit (R393). The buffer of the model loses no entry, so what it finds is what the retired and
withheld counts say (log entry 15). -/
def Chip.audit (s : Chip) : Chip :=
  let d := s.sw.withheldDesc
  let g := s.sw.withheldSegs
  let s := { s with sw := { s.sw with retiredDesc := s.sw.retiredDesc + d, retiredSegs := s.sw.retiredSegs + g,
                                      withheldDesc := 0, withheldSegs := 0, listsBuilt := true } }
  let s := (upFrom 0 (d + g)).foldl (fun s i => s.log
    { status := .uncorrectable, subsys := .switchCore, addrKind := 6, addr := 2 <<< 56 + i }) s
  let s := (s.wr A.SWC_AUDIT F.SWC_AUDIT_LEAKED 0).wr A.SWC_AUDIT F.SWC_AUDIT_DOUBLE 0
  let s := s.bump A.SWC_AUDIT F.SWC_AUDIT_RETIRED cap16 (d + g)
  let s := if 0 < d + g then s.wrB A.SWC_AUDIT F.SWC_AUDIT_RETIRED_SEEN true else s
  let s := (s.wrB A.SWC_AUDIT F.SWC_AUDIT_RUNNING false).wrB A.SWC_AUDIT F.SWC_AUDIT_DONE_SEEN true
  ((s.wr A.SWC_FREE F.SWC_FREE_FREE_SEGS s.freeSegs).wr A.SWC_FREE F.SWC_FREE_FREE_DESC s.freeDesc).settle

end Sys2Proof.Machine
end

