-- ==== Sys2Proof/Machine/Faults.lean ====
section
/-!
DEFINITION. Fault reports (spec/14_errors_and_reliability.md R449, R451 to R453) and the counts of corrected and
uncorrectable code words (R445, R446).
-/
namespace Sys2Proof.Machine

/-- Fault causes (Table 14.7). -/
inductive FaultCause where
  | hostFailed | trayLost | dataLost | tableCheck | fenceTimeout | treeLost | overrun | portLost | dataReset | controlReset
deriving DecidableEq, Repr

/-- The code and the status of a cause (Table 14.7). -/
def FaultCause.code : FaultCause → Nat
  | .hostFailed => 1 | .trayLost => 2 | .dataLost => 3 | .tableCheck => 4 | .fenceTimeout => 5 | .treeLost => 6
  | .overrun => 7 | .portLost => 8 | .dataReset => 9 | .controlReset => 10

def FaultCause.status : FaultCause → Status
  | .hostFailed => .lineLost | .trayLost => .portDown | .dataLost => .uncorrectable | .tableCheck => .tableCheck
  | .fenceTimeout => .timeout | .treeLost => .portDown | .overrun => .timeout | .portLost => .portDown
  | .dataReset => .portDown | .controlReset => .timeout

/-- What a fault report says beside its cause (Table 14.8). -/
structure FaultInfo where
  addrKind : Nat := 0
  addr : Nat := 0
  eid : Nat := 0
  port : Nat := 128
deriving DecidableEq, Repr

/-- A new entry of partition `p`'s fault ring (Table 14.8, R452). -/
def Chip.ringEntry (s : Chip) (p : Nat) (c : FaultCause) (i : FaultInfo) (logSeq : Nat) : Chip :=
  let ptr := A.ERR_FAULT_PTR p
  let fseq := s.rd ptr F.ERR_FAULT_PTR_HEAD
  let tail := s.rd ptr F.ERR_FAULT_PTR_TAIL
  let s := if Nat.ble 16 ((fseq + 65536 - tail) % 65536) then
      (s.count ptr F.ERR_FAULT_PTR_OVERFLOWS).wr ptr F.ERR_FAULT_PTR_TAIL (tail + 1)
    else s
  let w := fseq + c.status.code <<< 16 + c.code <<< 24 + 1 <<< 32 + (i.addrKind % 16) <<< 48 + s.tb <<< 64
    + (i.addr % 2 ^ 64) <<< 128 + (i.eid % 2 ^ 14) <<< 192 + (i.port % 256) <<< 208 + (logSeq % 2 ^ 32) <<< 224
  { s.wr ptr F.ERR_FAULT_PTR_HEAD (fseq + 1) with regs := (s.wr ptr F.ERR_FAULT_PTR_HEAD (fseq + 1)).regs.setSpan (A.ERR_FAULT p (fseq % 16)) 4 w }

/-- The fault notice of a new entry (R453). -/
def Chip.notice (s : Chip) (p : Nat) (c : FaultCause) (i : FaultInfo) (fseq : Nat) : Chip :=
  let cfg := A.ERR_FAULT_CFG p
  if s.flag cfg F.ERR_FAULT_CFG_NOTIFY_EN then
    (s.createQuiet { cls := clsSTATUS, tc := s.rd cfg F.ERR_FAULT_CFG_NOTIFY_TC, partition := p,
                     dst := s.rd cfg F.ERR_FAULT_CFG_NOTIFY_EID, src := s.selfEid,
                     body := StatusBody.body { status := c.status.code, origSeq := c.code, addr := i.addr, tag := fseq } }
      none).1.settle
  else s

/-- Whether the newest entry of the ring has this cause and is less than 1 ms old (R452). -/
def Chip.merges (s : Chip) (p : Nat) (c : FaultCause) : Bool :=
  let fseq := s.rd (A.ERR_FAULT_PTR p) F.ERR_FAULT_PTR_HEAD
  let a := A.ERR_FAULT p ((fseq + 65535) % 16)
  s.rd a F.ERR_FAULT_CAUSE == c.code && Nat.blt s.tb (s.rd a F.ERR_FAULT_TIME + 1000000)

/-- A fault is reported to partition `p` (R451): ring entry, vector, notice, FAULT_SEEN and FAULT in the record of the
event, which is the last one written. -/
def Chip.fault (s : Chip) (p : Nat) (c : FaultCause) (i : FaultInfo) : Chip :=
  let n := s.errSeq - 1
  let s := s.wrB A.ERR_STATUS F.ERR_STATUS_FAULT_SEEN true
  let s := s.wrB (A.ERR_LOG (n % 4096)) F.ERR_LOG_FAULT true
  if s.merges p c then
    let a := A.ERR_FAULT p ((s.rd (A.ERR_FAULT_PTR p) F.ERR_FAULT_PTR_HEAD + 65535) % 16)
    s.count a F.ERR_FAULT_COUNT
  else
    let fseq := s.rd (A.ERR_FAULT_PTR p) F.ERR_FAULT_PTR_HEAD
    let s := s.ringEntry p c i n
    let s := s.interrupt (some p) (s.rd (A.ERR_FAULT_CFG p) F.ERR_FAULT_CFG_VECTOR)
    s.notice p c i fseq

/-- A record is written and the fault it stands for reported. -/
def Chip.logFault (s : Chip) (r : LogRec) (p : Nat) (c : FaultCause) (i : FaultInfo) : Chip :=
  (s.log { r with fault := true }).fault p c i

/-- A corrected code word of a subsystem at an on-die location (R445). -/
def Chip.corrected (s : Chip) (sub : Subsys) (where_ : Nat) : Chip :=
  let a := A.ERR_CE_CNT sub.num
  let s := s.bump a F.ERR_CE_CNT_CE cap32 1
  let every := s.rd A.ERR_CFG F.ERR_CFG_CE_LOG_EVERY
  if every != 0 && s.rd a F.ERR_CE_CNT_CE % every == 0 then s.logEvent sub 1 6 where_ else s

/-- An uncorrectable code word of a subsystem is counted (R446). -/
def Chip.uncorrectable (s : Chip) (sub : Subsys) : Chip :=
  (s.bump (A.ERR_CE_CNT sub.num) F.ERR_CE_CNT_UE cap32 1).wrB A.ERR_STATUS F.ERR_STATUS_UE_SEEN true

/-- The owner byte at a 16-bit entry: its value and whether its complement agrees (R111, R449). -/
def Chip.ownerHalf (s : Chip) (a : Nat) : Nat := bits (s.regs.word (a / 8 * 8)).toNat (8 * (a % 8)) 16

/-- The partition that owns a unit, where its byte passes its check and has OWNED set (bit 6, R111). -/
def Chip.owner (s : Chip) (a : Nat) : Option Nat :=
  let h := s.ownerHalf a
  if h % 256 + h / 256 == 255 && bitAt h 6 then some (h % 64) else none

/-- Whether an owner byte passes its check (R449). -/
def Chip.ownerOk (s : Chip) (a : Nat) : Bool :=
  let h := s.ownerHalf a
  h % 256 + h / 256 == 255

end Sys2Proof.Machine
end

