-- ==== Sys2Proof/Machine/Links.lean ====
section
/-!
DEFINITION. The Bilma link layer (spec/09_ports_and_links.md R317 to R328, R334): receiving and sending flits, groups and
seals, replay, link key updates. What a reached REPLAY_LIMIT does is the training machine's (Training.lean); the
functions here answer whether it was reached.
-/
namespace Sys2Proof.Machine

/-- Sequence numbers of flits are modulo 4,096 (Table 9.3). -/
def seqNext (n : Nat) : Nat := (n + 1) % 4096

/-- Whether R334 governs the arrivals of port `n`: in Eaves, and on the way into it from the port's EAVES_LANE on (Table 16.2
step 5). -/
def Chip.eavesGoverns (s : Chip) (n : Nat) : Bool :=
  s.inEaves || (s.powerState == 1 && s.flag (A.PRT_STATUS n) F.PRT_STATUS_EAVES)

/-- A tadpole or data packet that arrives in Eaves (R334): time and link-management tadpoles are served, others held in
the wake queue of 64, data packets and what does not fit answered with WAKING. The third result is whether traffic
asks for the wake. -/
def Chip.acceptInEaves (s : Chip) (n : Nat) (p : Packet) : Chip × Fate × Bool :=
  if p.cls == clsTIME || p.cls == clsLINK then
    let (s, f) := s.acceptHeader n p
    (s, f, false)
  else if !classIsData p.cls && Nat.blt (s.port n).wakeQueue.length 64 then
    (s.modPort n (fun x => { x with wakeQueue := x.wakeQueue ++ [p] }), .waiting, true)
  else
    let s := s.count (A.PRT_STATUS n) F.PRT_STATUS_WAKING_DROPS
    (((s.logDiscard p .waking none n).answerDiscard (some (p, .waking))).settle, .dropped, classIsData p.cls)

/-- A header that has arrived on port `n` is accepted, or the packet dropped whole at a crossing FIFO above its
high-water mark (R65). During a wake data packets are answered WAKING (R505). -/
def Chip.headerIn (s : Chip) (n : Nat) (p : Packet) (crossingFull : Bool) : Chip × Fate × Bool :=
  if crossingFull && classIsData p.cls then (s.bump A.PCE_PACE_DROP F.PCE_PACE_DROP_DROPS cap32 1, .dropped, false)
  else if s.eavesGoverns n then s.acceptInEaves n p
  else if s.powerState == 3 && classIsData p.cls then
    let s := s.count (A.PRT_STATUS n) F.PRT_STATUS_WAKING_DROPS
    (((s.logDiscard p .waking none n).answerDiscard (some (p, .waking))).settle, .dropped, false)
  else if s.powerState == 3 && s.flag (A.PRT_STATUS n) F.PRT_STATUS_EAVES then s.acceptInEaves n p
  else
    let (s, f) := s.acceptHeader n p
    (s, f, false)

/-- One verified unit is parsed (R318): filler, the start of a packet, the second unit of a tadpole, or payload. -/
def Chip.unitIn (s : Chip) (n : Nat) (u : Nat) (crossingFull : Bool) : Chip × Bool :=
  let port := s.port n
  match port.rxPacket with
  | some rp =>
    let seg := port.rxSeg ++ bytesOfNat 32 u
    let left := rp.left - 1
    let full := Nat.ble 256 seg.length || left == 0
    let s := s.modPort n (fun x =>
      { x with rxSeg := if full then [] else seg, rxPacket := if left == 0 then none else some { rp with left := left } })
    if full then
      match rp.slot with
      | some id => (s.segmentIn id seg, false)
      | none => (if rp.orphan then s.count A.SWC_DROPS F.SWC_DROPS_ORPHAN_SEGS else s, false)
    else (s, false)
  | none =>
    match port.rxUnits with
    | [] =>
      if u % 256 == 0 then (s, false)
      else if classIsData (u % 256) then
        let p := Packet.ofHeader (bits u 0 128) (bits u 128 128)
        let (s, f, w) := s.headerIn n p crossingFull
        let slot := match f with | .slot id => some id | _ => none
        (if p.segs == 0 then s
         else s.modPort n (fun x => { x with rxPacket := some ⟨slot, 8 * p.segs, false⟩, rxSeg := [] }), w)
      else (s.modPort n (fun x => { x with rxUnits := [u] }), false)
    | h :: _ =>
      let s := s.modPort n (fun x => { x with rxUnits := [] })
      let p := Packet.ofHeader (bits h 0 128) (bits h 128 128 + u <<< 128)
      let (s, _, w) := s.headerIn n p crossingFull
      (s, w)

/-- The units of a verified group, in order. -/
def Chip.unitsIn (s : Chip) (n : Nat) (us : List Nat) (crossingFull : Bool) : Chip × Bool :=
  us.foldl (fun (r : Chip × Bool) u =>
    let (s, w) := r.1.unitIn n u crossingFull
    (s, r.2 || w)) (s, false)

/-- ACK_SEQ covers flits of port `n` (R323): they leave the replay buffer, their packets are freed, the replay timer
starts again or stops. -/
def Chip.ackUpTo (s : Chip) (n a : Nat) : Chip :=
  let port := s.port n
  match port.sent.findIdx? (fun f => f.seq == a) with
  | none => s
  | some i =>
    let gone := port.sent.take (i + 1)
    let rest := port.sent.drop (i + 1)
    let replay := match port.replayAt with
      | some r => if gone.any (fun f => f.seq == r) then rest.head?.map (·.seq) else some r
      | none => none
    let s := s.modPort n (fun x => { x with sent := rest, stalls := 0, replayAt := replay })
    let s := if rest.isEmpty then s.stopTimer (.replay n)
      else s.startTimer (.replay n) (10 * s.rd (A.PRT_LINK_CFG n) F.PRT_LINK_CFG_REPLAY_TIMER)
    gone.foldl (fun s f => f.ends.foldl (fun s id => s.copyDone id n) s) s

/-- The transmitter of port `n` replays its unacknowledged flits (R324), or has reached REPLAY_LIMIT (R325). -/
def Chip.replay (s : Chip) (n : Nat) : Chip × Bool :=
  let port := s.port n
  match port.sent with
  | [] => (s, false)
  | f :: _ =>
    if Nat.ble (s.rd (A.PRT_LINK_CFG n) F.PRT_LINK_CFG_REPLAY_LIMIT) port.stalls then (s, true)
    else
      let s := s.modPort n (fun x => { x with replayAt := some f.seq, stalls := x.stalls + 1 })
      let s := s.count (A.PRT_ERR_CNT n) F.PRT_ERR_CNT_REPLAYS
      (s.startTimer (.replay n) (10 * s.rd (A.PRT_LINK_CFG n) F.PRT_LINK_CFG_REPLAY_TIMER), false)

/-- A bad flit (R322): everything up to the replayed flit is discarded and one NAK is owed. -/
def Chip.badFlit (s : Chip) (n : Nat) : Chip :=
  s.modPort n (fun x =>
    { x with
      rxBad := true, rxGroup := [], nakOwed := x.nakOwed || !x.rxBad
      rxExpect := match x.rxLast with | some l => seqNext l | none => 0 })

/-- The acknowledgement fields of a verified seal (Table 9.4). The second result is whether REPLAY_LIMIT is reached. -/
def Chip.takeAck (s : Chip) (n : Nat) (x : Seal) : Chip × Bool :=
  let s := if x.ackValid then s.ackUpTo n x.ackSeq else s
  if x.nak then s.replay n else (s, false)

/-- A seal whose tag fails (R322, R325). The second result is whether the limit is reached. -/
def Chip.sealFailed (s : Chip) (n : Nat) : Chip × Bool :=
  let s := (s.count (A.PRT_ERR_CNT n) F.PRT_ERR_CNT_SEAL_FAILS).wrB (A.PRT_STATUS n) F.PRT_STATUS_SEAL_FAIL_SEEN true
  let k := (s.port n).tagFails + 1
  let s := (s.badFlit n).modPort n (fun x => { x with tagFails := k })
  (s, Nat.ble (s.rd (A.PRT_LINK_CFG n) F.PRT_LINK_CFG_REPLAY_LIMIT) k)

/-- A DATA or IDLE flit arrives on port `n` (R321, R322). The results: whether REPLAY_LIMIT is reached, and whether
traffic asks for a wake. -/
def Chip.flitIn (s : Chip) (n : Nat) (f : Flit) (crossingFull : Bool) : Chip × Bool × Bool :=
  let s := s.bump (A.PRT_FEC_CORR n) F.PRT_FEC_CORR_CORRECTED (2 ^ 64 - 1) f.fecCorr
  if !s.inService n then (s, false, false)
  else if !f.fecOk || f.kind == 3 || f.rsv then
    ((s.count (A.PRT_ERR_CNT n) F.PRT_ERR_CNT_CW_UNCORR).badFlit n, false, false)
  else
    let port := s.port n
    if f.kind == 1 then
      match f.sealWord with
      | none => (s, false, false)
      | some x =>
        if x.tagOk && !x.rsv && x.groupLen == 0 then
          let s := s.modPort n (fun q => { q with tagFails := 0, rxPhase := f.phase })
          let (s, l) := s.takeAck n x
          (s, l, false)
        else
          let (s, l) := s.sealFailed n
          (s, l, false)
    else if f.seq != port.rxExpect then
      (if port.rxBad then s else s.badFlit n, false, false)
    else
      let group := port.rxGroup ++ [f]
      let s := s.modPort n (fun q => { q with rxBad := false, rxExpect := seqNext f.seq, rxGroup := group })
      match f.sealWord with
      | none => (s, false, false)
      | some x =>
        if x.tagOk && !x.rsv && x.groupLen == group.length then
          let s := s.modPort n (fun q =>
            { q with rxGroup := [], rxLast := some f.seq, ackOwed := true, tagFails := 0, rxPhase := f.phase })
          let (s, l) := s.takeAck n x
          let (s, w) := s.unitsIn n (group.flatMap (fun g => g.units)) crossingFull
          (s, l, w)
        else
          let (s, l) := s.sealFailed n
          (s, l, false)

/-- Whether this E9 is the requester of the key exchanges of port `n` (R326). -/
def Chip.isRequester (s : Chip) (n : Nat) : Bool :=
  if s.mode n == modeU then Nat.blt s.selfEid (s.rd (A.PRT_STATUS n) F.PRT_STATUS_PARTNER_EID) else true

/-- The requester starts a link key update (R328): an SPDM KEY_UPDATE in link-management tadpoles. -/
def Chip.startKeyUpdate (s : Chip) (n : Nat) : Chip :=
  let s := s.modPort n (fun x => { x with update := .asked })
  let s := s.wrB (A.PRT_KEY_STATUS n) F.PRT_KEY_STATUS_UPDATING true
  s.sendLink n { cls := clsLINK, src := s.selfEid, body := 1 }

/-- The groups under one phase at which an update starts of itself: half of what one phase may carry (R328 asks only
that it start before 2^32; DESIGN CHOICE, log entry 17). -/
def autoUpdateAt : Nat := 2 ^ 31

/-- A group of port `n` has been sealed: the counts, and the switch of KEY_PHASE at the group boundary once the partner
has confirmed the new keys (R328). -/
def Chip.groupSent (s : Chip) (n : Nat) : Chip :=
  let port := s.port n
  if port.update == .switched then
    let s := s.modPort n (fun x => { x with txCtr := 0, txGroup := 0, update := .idle })
    let a := A.PRT_KEY_STATUS n
    let s := s.wr a F.PRT_KEY_STATUS_PHASE (1 - s.rd a F.PRT_KEY_STATUS_PHASE)
    let s := (s.wrap a F.PRT_KEY_STATUS_GEN 1).wrB a F.PRT_KEY_STATUS_UPDATING false
    s.wr a F.PRT_KEY_STATUS_GROUPS 0
  else
    let s := s.modPort n (fun x => { x with txCtr := x.txCtr + 1, txGroup := 0 })
    let s := s.wr (A.PRT_KEY_STATUS n) F.PRT_KEY_STATUS_GROUPS (port.txCtr + 1)
    if Nat.ble autoUpdateAt (port.txCtr + 1) && port.update == .idle && s.isRequester n then s.startKeyUpdate n else s

/-- The seal that port `n` sends now (Table 9.4). -/
def Chip.sealNow (s : Chip) (n groupLen : Nat) : Seal :=
  let p := s.port n
  { ackSeq := p.rxLast.getD 0, ackValid := p.rxLast.isSome, nak := p.nakOwed, groupLen := groupLen, groupCtr := p.txCtr }

/-- The acknowledgement owed has been sent. -/
def Port.ackSent (p : Port) : Port := { p with ackOwed := false, nakOwed := false }

/-- An IDLE flit, sealed where an acknowledgement or a NAK is owed (R322, R323). -/
def Chip.sendIdle (s : Chip) (n : Nat) : Chip :=
  let p := s.port n
  let phase := s.rd (A.PRT_KEY_STATUS n) F.PRT_KEY_STATUS_PHASE
  if p.ackOwed || p.nakOwed then
    let f : Flit := { seq := p.txSeq, kind := 1, phase := phase, sealWord := some (s.sealNow n 0) }
    ((s.emitOut (.flit n f)).modPort n Port.ackSent).groupSent n
  else s.emitOut (.flit n { seq := p.txSeq, kind := 1, phase := phase })

/-- The units that the next DATA flit takes and whether it is sealed (R320). -/
def flitUnits (units : List TxUnit) (forced : Bool) : List TxUnit × Bool :=
  let sealed := forced || (units.take 18).any (fun u => u.last) || Nat.ble units.length 20
  if sealed then (units.take 18, true) else (units.take 20, false)

/-- A new DATA flit of port `n` (R318, R320). -/
def Chip.sendData (s : Chip) (n : Nat) : Chip :=
  let p := s.port n
  let phase := s.rd (A.PRT_KEY_STATUS n) F.PRT_KEY_STATUS_PHASE
  let forced := Nat.ble (s.rd (A.PRT_LINK_CFG n) F.PRT_LINK_CFG_SEAL_MAX) (p.txGroup + 1)
  let (us, sealed) := flitUnits p.txUnits forced
  let f : Flit := { seq := p.txSeq, kind := 0, phase := phase, units := us.map (·.unit),
                    sealWord := if sealed then some (s.sealNow n (p.txGroup + 1)) else none }
  let ends := (us.filter (fun u => u.last)).map (·.id)
  let kept : SentFlit := ⟨p.txSeq, f.units, sealed, ends⟩
  let s := s.emitOut (.flit n f)
  let s := s.modPort n (fun x =>
    { x with txUnits := x.txUnits.drop us.length, sent := x.sent ++ [kept], txSeq := seqNext x.txSeq, txGroup := x.txGroup + 1 })
  let s := ends.foldl (fun s id => s.setPhase id n (.unacked p.txSeq)) s
  let s := s.ensureTimer (.replay n) (10 * s.rd (A.PRT_LINK_CFG n) F.PRT_LINK_CFG_REPLAY_TIMER)
  if sealed then (s.modPort n Port.ackSent).groupSent n else s

/-- The next flit of a replay: the same SEQ, body and seal position, a new GROUP_CTR (R324). -/
def Chip.sendReplayed (s : Chip) (n r : Nat) : Chip :=
  let p := s.port n
  let phase := s.rd (A.PRT_KEY_STATUS n) F.PRT_KEY_STATUS_PHASE
  match p.sent.findIdx? (fun f => f.seq == r), p.sent.find? (fun f => f.seq == r) with
  | some i, some f =>
    let len := ((p.sent.take (i + 1)).reverse.drop 1).takeWhile (fun g => !g.sealed)
    let fl : Flit := { seq := f.seq, kind := 0, phase := phase, units := f.units,
                       sealWord := if f.sealed then some (s.sealNow n (len.length + 1)) else none }
    let s := (s.emitOut (.flit n fl)).modPort n (fun x => { x with replayAt := (x.sent.drop (i + 1)).head?.map (·.seq) })
    if f.sealed then
      let g := (s.port n).txGroup
      ((s.modPort n Port.ackSent).groupSent n).modPort n (fun x => { x with txGroup := g })
    else s
  | _, _ => s.modPort n (fun x => { x with replayAt := none })

/-- Port `n` transmits one flit: a training message waiting, a replayed flit, a DATA flit, or IDLE (R317 to R324). -/
def Chip.flitOut (s : Chip) (n : Nat) : Chip :=
  let p := s.port n
  match p.txTrain with
  | m :: rest =>
    (s.emitOut (.flit n { kind := 2, msg := m })).modPort n (fun x => { x with txTrain := rest })
  | [] =>
    if !s.inService n then s
    else
      match p.replayAt with
      | some r => s.sendReplayed n r
      | none => if p.txUnits.isEmpty || Nat.ble 128 p.sent.length then s.sendIdle n else s.sendData n

/-- The units of a packet queued at the transmitter of port `n`. -/
def Chip.queueUnits (s : Chip) (n id : Nat) (p : Packet) : Chip :=
  let us := p.units
  let k := us.length
  let tx : List TxUnit := us.mapIdx (fun i u => ⟨u, id, i + 1 == k⟩)
  s.modPort n (fun x => { x with txUnits := x.txUnits ++ tx })

end Sys2Proof.Machine
end

