-- ==== Sys2Proof/Machine/Tier.lean ====
section
/-!
DEFINITION. The tier manager (spec/03_pool_and_tiers.md R77 to R118): ranges, tile entries, frames and flash locations,
tray operations, tile transitions, the flash translation layer.
-/
namespace Sys2Proof.Machine

/-- The pool changed by `f`. -/
def Chip.modPool (s : Chip) (f : Pool → Pool) : Chip := { s with pool := f s.pool }

/-- Tray `n`. -/
def Chip.tray (s : Chip) (n : Nat) : Tray := (s.pool.trays.find n).getD {}

/-- Tray `n` changed. -/
def Chip.modTray (s : Chip) (n : Nat) (f : Tray → Tray) : Chip :=
  s.modPool (fun p => { p with trays := p.trays.put n (f (s.tray n)) })

/-- Tray states (Table 3.6). -/
def trayABSENT : Nat := 0
def trayATTACHING : Nat := 1
def trayBLANK : Nat := 2
def trayREADY : Nat := 3
def trayDRAINING : Nat := 4
def trayLOST : Nat := 5

/-- The state of tray `n`. -/
def Chip.trayState (s : Chip) (n : Nat) : Nat := s.rd (A.TIR_TRAY_STATUS n) F.TIR_TRAY_STATUS_STATE

/-- Whether tray `n` is a mode C gang. -/
def Chip.trayIsC (s : Chip) (n : Nat) : Bool := s.flag (A.TIR_TRAY_STATUS n) F.TIR_TRAY_STATUS_MODE_C

/-- A HOMED range: its version and index. -/
structure RangeRef where
  v : Nat
  i : Nat
deriving DecidableEq, Repr

/-- The address of a range's entry. -/
def RangeRef.at (r : RangeRef) : Nat := A.PTN_RANGE r.v r.i

/-- The HOMED entry that covers a tile, in the active version or else in the other: a range that an install has removed is
still reached by what was written to it before. -/
def Chip.homed (s : Chip) (t : Nat) : Option RangeRef :=
  let covers (v i : Nat) : Bool :=
    let a := A.PTN_RANGE v i
    let b := s.rd a F.PTN_RANGE_BASE_TILE
    s.rd a F.PTN_RANGE_KIND == 1 && Nat.ble b t && Nat.blt t (b + s.rd a F.PTN_RANGE_TILES)
  let inV (v : Nat) : Option Nat := (s.listed (A.PTN_RANGE v 0) 64 4096).find? (covers v)
  match inV s.active with
  | some i => some ⟨s.active, i⟩
  | none => (inV s.shadowV).map (fun i => ⟨s.shadowV, i⟩)

/-- A field of a range. -/
def Chip.rng (s : Chip) (r : RangeRef) (f : Fld) : Nat := s.rd r.at f

/-- Whether a range is TIERED. -/
def Chip.tiered (s : Chip) (r : RangeRef) : Bool := s.rng r F.PTN_RANGE_POLICY == 1

/-- The HOMED ranges of a version. -/
def Chip.homedRanges (s : Chip) (v : Nat) : List RangeRef :=
  ((s.listed (A.PTN_RANGE v 0) 64 4096).filter (fun i =>
    s.rd (A.PTN_RANGE v i) F.PTN_RANGE_KIND == 1 && s.rd (A.PTN_RANGE v i) F.PTN_RANGE_TILES != 0)).map (fun i => ⟨v, i⟩)

/-- The place of a tile's entry in tray DRAM, as a key: tray, channel and byte offset (R81). -/
def Chip.tileKey (s : Chip) (r : RangeRef) (t : Nat) : Nat :=
  (16 * s.rng r F.PTN_RANGE_META_TRAY + s.rng r F.PTN_RANGE_META_CHAN) * 2 ^ 44
    + 4096 * s.rng r F.PTN_RANGE_TABLE_BASE + 16 * (t - s.rng r F.PTN_RANGE_BASE_TILE)

/-- The entry of tile `t`. -/
def Chip.tile (s : Chip) (t : Nat) : Tile :=
  match s.homed t with
  | some r => (s.pool.tiles.find (s.tileKey r t)).getD {}
  | none => {}

/-- A slot's tile count (Table 13 KEY_MEM TILES0 to TILES3). -/
def keyCount (g : Nat) : Fld := ⟨64 + 64 * g, 40⟩

/-- Field `f` of partition `p`'s key record set, its complement with it (Table 13.10). -/
def Chip.wrKey (s : Chip) (p : Nat) (f : Fld) (v : Nat) : Chip := s.wrP (A.KEY_MEM p) 8 f v

/-- The tile counts of partition `p` moved as a tile's entry changes from `a` to `b` (R432). -/
def Chip.moveCount (s : Chip) (p : Nat) (a b : Tile) : Chip :=
  let k := A.KEY_MEM p
  let s := if a.state == .zero then s else s.wrKey p (keyCount a.keyGen) (s.rd k (keyCount a.keyGen) - 1)
  if b.state == .zero then s else s.wrKey p (keyCount b.keyGen) (s.rd k (keyCount b.keyGen) + 1)

/-- A slot other than NEWEST whose tile count is zero has its key destroyed (R434), once no copied tile of a version is under
it: the sweep covers those too (R433). -/
def Chip.destroyKeys (s : Chip) (p : Nat) : Chip :=
  let k := A.KEY_MEM p
  (upFrom 0 4).foldl (fun s g =>
    let live := s.rd k F.KEY_MEM_LIVE
    let copies := s.pool.stores.any (fun e => (s.tile e.2.tile).keyGen == g
      && (s.homed e.2.tile).elim false (fun r => s.rng r F.PTN_RANGE_PARTITION == p))
    if bitAt live g && g != s.rd k F.KEY_MEM_NEWEST && s.rd k (keyCount g) == 0 && !copies then
      (s.wrKey p F.KEY_MEM_LIVE (putBit live g false)).modPool (fun q => { q with keys := q.keys.erase (4 * p + g) })
    else s) s

/-- Tile `t`'s entry changed by `f`, the key counts with it. -/
def Chip.modTile (s : Chip) (t : Nat) (f : Tile → Tile) : Chip :=
  match s.homed t with
  | none => s
  | some r =>
    let k := s.tileKey r t
    let old := (s.pool.tiles.find k).getD {}
    let p := s.rng r F.PTN_RANGE_PARTITION
    let s := s.modPool (fun q => { q with tiles := q.tiles.put k (f old) })
    (s.moveCount p old (f old)).destroyKeys p

/-- HINT_AGE: time-base bits [48:26]. -/
def Chip.age (s : Chip) : Nat := bits s.tb 26 23

/-- How long ago an age was, counted backwards from the present modulo its wrap (R81). -/
def Chip.ageOf (s : Chip) (a : Nat) : Nat := (s.age + 2 ^ 23 - a) % 2 ^ 23

/-- Frames of a DRAM channel of a tray. -/
def Tray.frames (t : Tray) (ch : Nat) : Nat := 64 * t.ident.dramCap.getD ch 0

/-- Tiles of a flash channel of a tray. -/
def Tray.flashTiles (t : Tray) (ch : Nat) : Nat := 64 * t.ident.flashCap.getD ch 0

/-- The first frame of channel `ch` in the numbering of a tray's frames: channel after channel (DESIGN CHOICE, log
entry 21). -/
def Tray.frameBase (t : Tray) (ch : Nat) : Nat := (t.ident.dramCap.take ch).foldl (fun n c => n + 64 * c) 0

/-- The same of flash tiles. -/
def Tray.flashBase (t : Tray) (ch : Nat) : Nat := (t.ident.flashCap.take ch).foldl (fun n c => n + 64 * c) 0

/-- The channel and the index within it of frame `f`. -/
def chanOf : List Nat → Nat → Nat → Nat × Nat
  | [], f, ch => (ch, f)
  | c :: l, f, ch => if Nat.blt f (64 * c) then (ch, f) else chanOf l (f - 64 * c) (ch + 1)

/-- Whether partition `p` owns DRAM channel `ch` of tray `n` (Table 13.1). -/
def Chip.ownsDram (s : Chip) (p n ch : Nat) : Bool :=
  (if s.trayIsC n then s.owner (A.PTN_OWN_TRAYC 0 + 2 * n) else s.owner (A.PTN_OWN_DRAM 0 + 2 * (16 * n + ch))) == some p

/-- Whether partition `p` owns flash channel `ch` of tray `n`. -/
def Chip.ownsFlash (s : Chip) (p n ch : Nat) : Bool := s.owner (A.PTN_OWN_FLASH 0 + 2 * (32 * n + ch)) == some p

/-- The DRAM channels of partition `p` on the trays of a mask, in ascending tray and channel (R112). -/
def Chip.dramChannels (s : Chip) (p mask : Nat) : List (Nat × Nat) :=
  ((s.pool.trays.map (·.1)).filter (fun n => bitAt mask n)).flatMap (fun n =>
    ((upFrom 0 (s.tray n).ident.dramCap.length).filter (fun ch => s.ownsDram p n ch)).map (fun ch => (n, ch)))

/-- The flash channels of partition `p` on the trays of a mask. -/
def Chip.flashChannels (s : Chip) (p mask : Nat) : List (Nat × Nat) :=
  ((s.pool.trays.map (·.1)).filter (fun n => bitAt mask n)).flatMap (fun n =>
    ((upFrom 0 (s.tray n).ident.flashCap.length).filter (fun ch => s.ownsFlash p n ch)).map (fun ch => (n, ch)))

/-- Frames at the start of a channel that hold no tile: the header area, and the metadata region of a mode C tray
(R94, R88). -/
def Chip.reservedFrames (s : Chip) (n ch : Nat) : Nat :=
  if s.trayIsC n then ceilDiv ((s.tray n).frames 0) 512 else if ch == 0 then 1 else 0

/-- The frames that the tile tables of a version take on a channel: first frame and the one after the last (R81). -/
def Chip.tableFrames (s : Chip) (v n ch : Nat) : List (Nat × Nat) :=
  ((s.homedRanges v).filter (fun r => s.rng r F.PTN_RANGE_META_TRAY == n && s.rng r F.PTN_RANGE_META_CHAN == ch)).map
    (fun r =>
      let b := 4096 * s.rng r F.PTN_RANGE_TABLE_BASE
      (b / 16384, ceilDiv (b + 16 * s.rng r F.PTN_RANGE_TILES) 16384))

/-- From this number on, what holds a frame is a copied tile or a tile map of a version. -/
def storeMark : Nat := 2 ^ 42

/-- The key of frame `f` of tray `n`. -/
def frameKey (n f : Nat) : Nat := n * 2 ^ 29 + f

/-- The lowest free frame of channel `ch` of tray `n`, as the tray numbers its frames. -/
def Chip.freeFrameOn (s : Chip) (n ch : Nat) : Option Nat :=
  let t := s.tray n
  let base := t.frameBase ch
  let used := (s.pool.frames.keysIn (frameKey n base) (frameKey n (base + t.frames ch))).map (fun k => k - frameKey n base)
  let tables := s.tableFrames s.active n ch
  let lo := s.reservedFrames n ch
  let free (f : Nat) : Bool :=
    Nat.ble lo f && Nat.blt f (t.frames ch) && !used.contains f && !tables.any (fun e => Nat.ble e.1 f && Nat.blt f e.2)
  let cands := (lo :: used.map (· + 1) ++ tables.map (·.2)).filter free
  (argMin id cands).map (base + ·)

/-- A list begun again at its `k`-th element. -/
def rotate {α : Type} (l : List α) (k : Nat) : List α := l.drop k ++ l.take k

/-- From entry `j` on, the first entry with a frame free: a full channel is passed over (R112). -/
def passTo (free : List Nat) (j : Nat) : Option Nat :=
  (rotate (upFrom 0 free.length) (j % max 1 free.length)).find? (fun k => Nat.blt 0 (free.getD k 0))

/-- What one round of tiles, one for each entry, takes on each entry. -/
def roundTakes (free : List Nat) : List Nat :=
  (upFrom 0 free.length).map (fun k => ((upFrom 0 free.length).filter (fun j => passTo free j == some k)).length)

/-- The frames left free on each entry once tiles `i` to `i + n - 1` have taken theirs, whole rounds at a time; none where
they do not fit (R112). -/
def spread : Nat → List Nat → Nat → Nat → Option (List Nat)
  | 0, _, _, _ => none
  | fuel + 1, free, i, n =>
    if n == 0 then some free
    else
      let c := free.length
      let w := roundTakes free
      let fits := (free.zip w).foldl (fun k e => if e.2 == 0 then k else min k (e.1 / e.2)) (n / max 1 c)
      match passTo free i with
      | none => none
      | some j =>
        if fits == 0 then spread fuel (updAt free j (· - 1)) (i + 1) (n - 1)
        else spread fuel ((free.zip w).map (fun e => e.1 - fits * e.2)) (i + fits * c) (n - fits * c)

/-- The same for the first `n` tiles. At most a round of single tiles stands between one full channel and the next. -/
def spreadFrom (free : List Nat) (n : Nat) : Option (List Nat) := spread ((free.length + 2) * (free.length + 2)) free 0 n

/-- Frames of channel `ch` of tray `n` that are neither set aside nor taken, those promised to PINNED tiles included. -/
def Chip.freeOn (s : Chip) (n ch : Nat) : Nat :=
  let t := s.tray n
  let b := t.frameBase ch
  t.frames ch - s.reservedFrames n ch - (s.tableFrames s.active n ch).foldl (fun m e => m + (e.2 - e.1)) 0
    - (s.pool.frames.keysIn (frameKey n b) (frameKey n (b + t.frames ch))).length

/-- Frames of a channel promised to PINNED tiles that do not hold theirs yet (R112). -/
def Chip.promised (s : Chip) (n ch : Nat) : Nat :=
  let b := (s.tray n).frameBase ch
  let lo := frameKey n b
  let hi := frameKey n (b + (s.tray n).frames ch)
  s.pool.charges.foldl (fun m e =>
    let before := e.2.1.map (·.2)
    let after := (spreadFrom before e.2.2).getD before
    let here := ((e.2.1.zip after).filter (fun x => x.1.1 == 16 * n + ch)).foldl (fun k x => k + (x.1.2 - x.2)) 0
    let held := (s.pool.frames.filter (fun f => Nat.ble lo f.1 && Nat.blt f.1 hi && Nat.ble e.1 f.2 && Nat.blt f.2 (e.1 + e.2.2))).length
    m + (here - held)) 0

/-- A frame free for a tile that none is promised to, on the first of the channels that has one. -/
def Chip.freeFrameIn (s : Chip) : List (Nat × Nat) → Option (Nat × Nat)
  | [] => none
  | (n, ch) :: l =>
    match (if Nat.blt (s.promised n ch) (s.freeOn n ch) then s.freeFrameOn n ch else none) with
    | some f => some (n, f)
    | none => s.freeFrameIn l

/-- A free frame for tile `t` of range `r`: a PINNED tile takes it on the channel that its install charged (R112). -/
def Chip.frameFor (s : Chip) (r : RangeRef) (t : Nat) : Option (Nat × Nat) :=
  match (if s.tiered r then none else s.pool.charges.find (s.rng r F.PTN_RANGE_BASE_TILE)) with
  | none => s.freeFrameIn (s.dramChannels (s.rng r F.PTN_RANGE_PARTITION) (s.rng r F.PTN_RANGE_TRAY_MASK))
  | some (l, _) =>
    let i := t - s.rng r F.PTN_RANGE_BASE_TILE
    match (spreadFrom (l.map (·.2)) i).bind (fun free => passTo free i) with
    | none => none
    | some j =>
      let u := (l.map (·.1)).getD j 0
      (s.freeFrameOn (u / 16) (u % 16)).map (fun f => (u / 16, f))

/-- Frame `f` of tray `n` taken for tile or store `x`. -/
def Chip.takeFrame (s : Chip) (n f x : Nat) : Chip :=
  s.modPool (fun p => { p with frames := p.frames.put (frameKey n f) x })

/-- A frame freed. -/
def Chip.dropFrame (s : Chip) (n f : Nat) : Chip :=
  s.modPool (fun p => { p with frames := p.frames.erase (frameKey n f) })

/-- The key of flash tile `l` of tray `n`. -/
def flashKey (n l : Nat) : Nat := n * 2 ^ 34 + l

/-- The block of a flash tile: channel and block number in it. -/
def Chip.blockOf (s : Chip) (n l : Nat) : Nat × Nat :=
  let t := s.tray n
  let (ch, i) := chanOf t.ident.flashCap l 0
  (ch, i / max 1 t.ident.eraseTiles)

/-- The key of a block-table entry. -/
def blockKey (n ch b : Nat) : Nat := n * 2 ^ 40 + ch * 2 ^ 30 + b

def Chip.block (s : Chip) (k : Nat) : Block := (s.pool.blocks.find k).getD {}

def Chip.modBlock (s : Chip) (k : Nat) (f : Block → Block) : Chip :=
  s.modPool (fun p => { p with blocks := p.blocks.put k (f (s.block k)) })

/-- Blocks of a flash channel. -/
def Chip.blockCount (s : Chip) (n ch : Nat) : Nat := (s.tray n).flashTiles ch / max 1 (s.tray n).ident.eraseTiles

/-- The flash tile that block `b` of channel `ch` starts at. -/
def Chip.blockStart (s : Chip) (n ch b : Nat) : Nat := (s.tray n).flashBase ch + b * (s.tray n).ident.eraseTiles

/-- The valid tiles of a block: the pool tiles whose flash copy lies in it (R100). -/
def Chip.validTiles (s : Chip) (n ch b : Nat) : List Nat :=
  let k := flashKey n (s.blockStart n ch b)
  (s.pool.flash.filter (fun e => Nat.ble k e.1 && Nat.blt e.1 (k + (s.tray n).ident.eraseTiles))).map (·.2)

/-- Whether a block can take a tile: not retired, not being emptied, room left. -/
def Chip.blockOpen (s : Chip) (n ch b : Nat) : Bool :=
  let e := s.block (blockKey n ch b)
  !e.retired && !e.emptying && Nat.blt e.programmed (s.tray n).ident.eraseTiles

/-- Whether a block is free: erased and holding nothing. -/
def Chip.blockFree (s : Chip) (n ch b : Nat) : Bool :=
  let e := s.block (blockKey n ch b)
  !e.retired && !e.emptying && e.programmed == 0

/-- The listed blocks of a channel and the first unlisted one: an unlisted block is free with erase count 0 (R86). -/
def Chip.candidateBlocks (s : Chip) (n ch : Nat) : List Nat :=
  let listed := (s.pool.blocks.keysIn (blockKey n ch 0) (blockKey n (ch + 1) 0)).map (fun k => k - blockKey n ch 0)
  -- block 0 is never mapped to a tile (R425)
  let fresh := (1 :: listed.map (· + 1)).filter (fun b => !listed.contains b && Nat.blt b (s.blockCount n ch))
  listed ++ (match argMin id fresh with | some b => [b] | none => [])

/-- A new flash location for a tile of range `r`: the open block with the lowest erase count among the partition's flash
channels of the range's trays (R102). -/
def Chip.newLocation (s : Chip) (r : RangeRef) : Option (Nat × Nat) :=
  let chans := s.flashChannels (s.rng r F.PTN_RANGE_PARTITION) (s.rng r F.PTN_RANGE_TRAY_MASK)
  let keys := chans.flatMap (fun c => ((s.candidateBlocks c.1 c.2).filter (s.blockOpen c.1 c.2)).map (blockKey c.1 c.2 ·))
  -- a block already begun before another of the same erase count
  match argMin (fun k => 2 * (s.block k).erases + (if (s.block k).programmed == 0 then 1 else 0)) keys with
  | none => none
  | some k =>
    let n := k / 2 ^ 40
    let ch := bits k 30 10
    let b := k % 2 ^ 30
    some (n, s.blockStart n ch b + (s.block k).programmed)

/-- A flash location taken for tile `t`. -/
def Chip.takeLocation (s : Chip) (n l t : Nat) : Chip :=
  let (ch, b) := s.blockOf n l
  (s.modBlock (blockKey n ch b) (fun e => { e with programmed := e.programmed + 1 })).modPool
    (fun p => { p with flash := p.flash.put (flashKey n l) t })

/-- A flash location invalidated. -/
def Chip.dropLocation (s : Chip) (n l : Nat) : Chip :=
  s.modPool (fun p => { p with flash := p.flash.erase (flashKey n l) })

/-- The transaction timeout in ticks (R73). -/
def Chip.txnTimeout (s : Chip) : Nat := us (s.rd A.GLB_TIMERS0 F.GLB_TIMERS0_TXN_US)

/-- The device addresses of the lines of a sector of a frame, in mode C: the frame's place in the one channel (R88). -/
def sectorLines (srcIndex mask : Nat) : List Nat :=
  ((upFrom 0 4).filter (fun j => bitAt mask j)).map (fun j => srcIndex * 256 + 64 * j)

/-- A tray operation is sent: a TRAY_REQ or TRAY_WR tadpole in mode T (R348), MemRd and MemWr in mode C (R88). Flash and
whole-tile operations are of mode T only. An access to a sector finds the tray's port out of service: it ends with PORT_DOWN
(R117, R391). -/
def Chip.sendTray (s : Chip) (rec : TrayRec) (mask : Nat) (payload : List Byte) (srcFlash dstFlash : Bool)
    (part : Nat) : Chip :=
  let n := rec.tray
  let tag := s.pool.nextTag
  let port := (s.tray n).port
  let isSector := match rec.job with | .sector _ => true | _ => false
  if isSector && !s.inService port then s.modPool (fun p => { p with tops := p.tops.put tag { rec with dead := true }, nextTag := tag + 1 })
  else
  let s := s.modPool (fun p => { p with tops := p.tops.put tag rec, nextTag := tag + 1 })
  let s := s.startTimer (.tray tag) s.txnTimeout
  if s.trayIsC n then
    let addrs := sectorLines rec.srcIndex mask
    let s := s.modPool (fun p => { p with tops := p.tops.put tag { rec with lines := addrs } })
    addrs.foldl (fun s a =>
      s.emitOut (.cxlMem (port / 4) (rec.op == 2) a (if rec.op == 2 then (payload.drop (a % 256)).take 64 else []))) s
  else
    let body := TrayOp.body { op := rec.op, srcCh := rec.srcCh, srcFlash := srcFlash, dstCh := rec.dstCh,
                              dstFlash := dstFlash, srcIndex := rec.srcIndex, dstIndex := rec.dstIndex,
                              lmask := if rec.op == 2 then mask else 0, ttag := tag } 0
    if rec.op == 2 then
      s.sendLink port { cls := clsTRAY_WR, partition := part, src := s.selfEid, segs := 1, body := body, payload := payload }
    else s.sendLink port { cls := clsTRAY_REQ, partition := part, src := s.selfEid, body := body }

/-- The key of generation `g` of partition `p`. -/
def Chip.memKey (s : Chip) (p g : Nat) : Nat := (s.pool.keys.find (4 * p + g)).getD 0

/-- A sector of frame `f` of tray `n` read, for `job`; `key` is the key and the sector's pool number. -/
def Chip.readSector (s : Chip) (job : TrayJob) (n f sector : Nat) (key : Option (Nat × Nat)) (part : Nat) : Chip :=
  let (ch, i) := chanOf (s.tray n).ident.dramCap f 0
  s.sendTray { tray := n, job := job, op := 1, srcCh := ch, srcIndex := 64 * i + sector, key := key } 15 [] false false part

/-- The lines of `mask` of a sector written to frame `f` of tray `n`. -/
def Chip.writeSector (s : Chip) (job : TrayJob) (n f sector mask : Nat) (data : List Byte) (key : Option (Nat × Nat))
    (part : Nat) : Chip :=
  let (ch, i) := chanOf (s.tray n).ident.dramCap f 0
  let sent := match key with | some (k, sec) => Config.encrypt k sec data | none => data
  s.sendTray { tray := n, job := job, op := 2, srcCh := ch, srcIndex := 64 * i + sector, key := key } mask sent false false part

/-- Sixty-four zero bytes, and a zero sector. -/
def zeroBytes (n : Nat) : List Byte := List.replicate n 0

/-- The lines of `mask` of `new` laid over `old`. -/
def mergeLines (mask : Nat) (old new : List Byte) : List Byte :=
  (upFrom 0 4).flatMap (fun j => ((if bitAt mask j then new else old).drop (64 * j)).take 64)

/-- The sector number of sector `k` of tile `t`: pool address bits [55:8] (R431). -/
def sectorNo (t k : Nat) : Nat := 64 * t + k

/-- Operation `id` leaves the list and its result waits to be taken. -/
def Chip.opDone (s : Chip) (op : TierOp) (st : Status) (data : List Byte) : Chip :=
  let s := s.modPool (fun p => { p with ops := p.ops.filter (fun o => o.id != op.id) })
  match op.who with
  | .mirror n =>
    -- the replica's part of a paired write: the primary's operation owes one answer less
    match s.pool.ops.find? (fun o => o.id == n) with
    | none => s
    | some o =>
      let o' := { o with owed := o.owed - 1, status := if o.status == .ok then st else o.status }
      if o'.owed == 0 then
        s.modPool (fun p => { p with ops := p.ops.filter (fun x => x.id != n), done := p.done ++ [(o'.who, o'.status, o'.data)] })
      else s.modPool (fun p => { p with ops := p.ops.map (fun x => if x.id == n then o' else x) })
  | w => s.modPool (fun p => { p with done := p.done ++ [(w, st, data)] })

/-- An access to a failed range, or an uncorrectable one: UNCORRECTABLE, with the address logged (R118). -/
def Chip.logPool (s : Chip) (st : Status) (part addr : Nat) : Chip :=
  s.log { status := st, subsys := .tierManager, partition := some part, addrKind := 1, addr := addr }

/-- Free frames of partition `p`'s TIERED tiles: what its channels hold less what is taken (R110). -/
def Chip.freeFrames (s : Chip) (p : Nat) : Nat :=
  (s.dramChannels p (2 ^ 32 - 1)).foldl (fun n c => n + (s.freeOn c.1 c.2 - s.promised c.1 c.2)) 0

/-- All frames of partition `p`'s channels. -/
def Chip.allFrames (s : Chip) (p : Nat) : Nat :=
  (s.dramChannels p (2 ^ 32 - 1)).foldl (fun n c => n + (s.tray c.1).frames c.2) 0

/-- The tiles listed for partition `p` under the active version, with their entries: TIERED ranges only. -/
def Chip.tieredTiles (s : Chip) (p : Nat) : List (Nat × Tile) :=
  ((s.homedRanges s.active).filter (fun r => s.tiered r && s.rng r F.PTN_RANGE_PARTITION == p)).flatMap (fun r =>
    let k := s.tileKey r (s.rng r F.PTN_RANGE_BASE_TILE)
    (s.pool.tiles.filter (fun e => Nat.ble k e.1 && Nat.blt e.1 (k + 16 * s.rng r F.PTN_RANGE_TILES))).map
      (fun e => (s.rng r F.PTN_RANGE_BASE_TILE + (e.1 - k) / 16, e.2)))

/-- A tile's frame programmed to a new flash location (Table 3.8): WRITING_BACK. With no location free it stays. -/
def Chip.program (s : Chip) (t : Nat) (evicting : Bool) : Chip :=
  match s.homed t with
  | none => s
  | some r =>
    match s.newLocation r with
    | none => s
    | some (n, l) =>
      let e := s.tile t
      let (sch, si) := chanOf (s.tray e.dramTray).ident.dramCap e.dramFrame 0
      let (dch, di) := chanOf (s.tray n).ident.flashCap l 0
      let s := (s.takeLocation n l t).modTile t (fun x => { x with state := .writingBack, evicting := evicting, rewritten := false })
      s.sendTray { tray := n, job := .program t n l, op := 4, srcCh := sch, srcIndex := si, dstCh := dch, dstIndex := di }
        0 [] false true (s.rng r F.PTN_RANGE_PARTITION)

/-- A tile leaves the DRAM tier: freed where clean, programmed first where dirty (Table 3.8). -/
def Chip.evictTile (s : Chip) (t : Nat) : Chip :=
  let e := s.tile t
  if e.state == .dramClean then
    (s.dropFrame e.dramTray e.dramFrame).modTile t (fun x => { x with state := .flash, framed := false })
  else if e.state == .dramDirty then s.program t true
  else s

/-- The tiles that pressure may evict, in the order of R110. -/
def Chip.victims (s : Chip) (p : Nat) : List Nat :=
  let l := (s.tieredTiles p).filter (fun e => (e.2.state == .dramClean || e.2.state == .dramDirty) && !e.2.sweeping)
  let cold := sortBy (fun e => 2 ^ 24 - s.ageOf e.2.hintAge) (l.filter (fun e => e.2.hint == 2))
  let rest := sortBy (fun e => 2 ^ 24 - s.ageOf e.2.hintAge) (l.filter (fun e => e.2.hint != 2))
  (cold ++ rest).map (·.1)

/-- Pressure in partition `p`'s DRAM tier (R110): below PRESS_LOW tiles are evicted until PRESS_HIGH is reached or on its
way. -/
def Chip.pressure (s : Chip) (p : Nat) : Chip :=
  let all := s.allFrames p
  let free := s.freeFrames p
  if Nat.blt (100 * free) (all * s.rd A.TIR_TIER_CFG F.TIR_TIER_CFG_PRESS_LOW) then
    let going := ((s.tieredTiles p).filter (fun e => e.2.state == .writingBack && e.2.evicting)).length
    let want := ceilDiv (all * s.rd A.TIR_TIER_CFG F.TIR_TIER_CFG_PRESS_HIGH) 100 - free - going
    ((s.victims p).take want).foldl (fun s t => s.evictTile t) s
  else s

/-- A tile's promotion starts (Table 3.8): a free frame, a flash read; without a frame it waits. -/
def Chip.promote (s : Chip) (t : Nat) : Chip :=
  match s.homed t with
  | none => s
  | some r =>
    let p := s.rng r F.PTN_RANGE_PARTITION
    let s := s.pressure p
    match s.frameFor r t with
    | none => s
    | some (n, f) =>
      let e := s.tile t
      let (sch, si) := chanOf (s.tray e.flashTray).ident.flashCap e.flashTile 0
      let (dch, di) := chanOf (s.tray n).ident.dramCap f 0
      let s := (s.takeFrame n f t).modTile t (fun x => { x with state := .promoting, dramTray := n, dramFrame := f, framed := true })
      let (bch, b) := s.blockOf e.flashTray e.flashTile
      let s := s.modBlock (blockKey e.flashTray bch b) (fun x => { x with reads := x.reads + 1 })
      s.sendTray { tray := e.flashTray, job := .promote t, op := 3, srcCh := sch, srcIndex := si, dstCh := dch, dstIndex := di }
        0 [] true false p

/-- Whether a range has failed, or is redirected (R117, R118). -/
def Chip.rangeFailed (s : Chip) (r : RangeRef) : Bool := s.pool.failed.contains (s.rng r F.PTN_RANGE_BASE_TILE)
def Chip.rangeRedirected (s : Chip) (r : RangeRef) : Bool := s.pool.redirected.contains (s.rng r F.PTN_RANGE_BASE_TILE)

/-- The replica's entry of a paired range. -/
def Chip.replicaOf (s : Chip) (r : RangeRef) : RangeRef := ⟨r.v, s.rng r F.PTN_RANGE_REPLICA_IDX⟩

/-- The same tile of the replica. -/
def Chip.replicaTile (s : Chip) (r : RangeRef) (t : Nat) : Nat :=
  s.rng (s.replicaOf r) F.PTN_RANGE_BASE_TILE + (t - s.rng r F.PTN_RANGE_BASE_TILE)

/-- Whether the writes of a range go to its replica as well (R116): paired, neither side lost, its copy complete. -/
def Chip.paired (s : Chip) (r : RangeRef) : Bool :=
  s.flag r.at F.PTN_RANGE_REPLICA_EN && !s.rangeRedirected r
    && !s.rangeFailed (s.replicaOf r) && (s.pool.replicas.find (s.rng r F.PTN_RANGE_BASE_TILE)).isNone

/-- The operation changed. -/
def Chip.setOp (s : Chip) (op : TierOp) : Chip :=
  s.modPool (fun p => { p with ops := p.ops.map (fun o => if o.id == op.id then op else o) })

/-- A tier access is put at the end of the list. -/
def Chip.addOp (s : Chip) (t store sector : Nat) (w : Option (Nat × List Byte)) (who : TierWho) : Chip :=
  s.modPool (fun p =>
    { p with ops := p.ops ++ [⟨p.nextOp, t, store, sector, w, who, 0, .ok, []⟩], nextOp := p.nextOp + 1 })

/-- Whether an access of the list before `op` must come first: the same sector, and one of the two a write. -/
def Chip.opBehind (s : Chip) (op : TierOp) : Bool :=
  (s.pool.ops.takeWhile (fun o => o.id != op.id)).any (fun o =>
    o.tile == op.tile && o.store == op.store && o.sector == op.sector && (o.write.isSome || op.write.isSome)
      && (match o.who with | .mirror _ => false | _ => true))

/-- The access to tray memory of an operation whose frame is known. -/
def Chip.accessFrame (s : Chip) (op : TierOp) (part n f gen : Nat) (r : RangeRef) : Chip :=
  let key := some (s.memKey part gen, sectorNo op.tile op.sector)
  let two := op.write.isSome && op.store == 0 && s.paired r && (match op.who with | .mirror _ => false | _ => true)
  let s := s.setOp { op with owed := if two then 2 else 1 }
  -- a tile written while its range is copied into a new replica is copied again (R119)
  let base := s.rng r F.PTN_RANGE_BASE_TILE
  let s := match (if op.write.isSome && op.store == 0 then s.pool.replicas.find base else none) with
    | none => s
    | some l => if l.tail.contains op.tile then s else s.modPool (fun q => { q with replicas := q.replicas.put base (l ++ [op.tile]) })
  let s := match op.write with
    | none => s.readSector (.sector op.id) n f op.sector key part
    | some (m, d) => s.writeSector (.sector op.id) n f op.sector m d key part
  match op.write with
  | some (m, d) => if two then s.addOp (s.replicaTile r op.tile) 0 op.sector (some (m, d)) (.mirror op.id) else s
  | none => s

/-- An operation on a tile whose frame is in place (Table 3.8): a sector never written since the tile was ZERO reads
zeros and is written whole (log entry 20). -/
def Chip.accessTile (s : Chip) (op : TierOp) (r : RangeRef) (part : Nat) : Chip :=
  let e := s.tile op.tile
  match op.write with
  | none =>
    if bitAt e.filled op.sector then s.accessFrame op part e.dramTray e.dramFrame e.keyGen r
    else s.opDone op .ok (zeroBytes 256)
  | some (m, d) =>
    let fresh := !bitAt e.filled op.sector
    let op := if fresh then { op with write := some (15, mergeLines m (zeroBytes 256) d) } else op
    let next := match e.state with
      | .zero => if s.tiered r then TileState.dramDirty else .dramClean
      | .dramClean => if s.tiered r then .dramDirty else .dramClean
      | x => x
    let s := s.modTile op.tile (fun x =>
      { x with state := next, filled := putBit x.filled op.sector true, rewritten := x.rewritten || x.state == .writingBack })
    s.accessFrame op part e.dramTray e.dramFrame e.keyGen r

/-- A waiting operation is started, if it can be (Table 3.8). -/
def Chip.startOp (s : Chip) (op : TierOp) : Chip :=
  if op.owed != 0 || s.opBehind op then s
  else
    match s.homed op.tile with
    | none => s.opDone op .rangeUnmapped []
    | some r =>
      let part := s.rng r F.PTN_RANGE_PARTITION
      let addr := sectorNo op.tile op.sector * 256
      if s.rangeFailed r || (s.rangeRedirected r && s.rangeFailed (s.replicaOf r)) then
        (s.logPool .uncorrectable part addr).opDone op .uncorrectable []
      else if s.rangeRedirected r && op.store == 0 then
        s.setOp { op with tile := s.replicaTile r op.tile }
      else if op.store != 0 then
        match s.pool.stores.find op.store with
        | some st => if st.ready && !(s.tile op.tile).sweeping then s.accessFrame op part st.tray st.frame (s.tile op.tile).keyGen r else s
        | none => (s.logPool .uncorrectable part addr).opDone op .uncorrectable []
      else
        let e := s.tile op.tile
        if e.sweeping then s
        else
          match e.state with
          | .zero =>
            match op.write with
            | none => s.opDone op .ok (zeroBytes 256)
            | some _ =>
              let s := if s.tiered r then s.pressure part else s
              match (if e.framed then some (e.dramTray, e.dramFrame) else s.frameFor r op.tile) with
              | none => s
              | some (n, f) =>
                let newest := s.rd (A.KEY_MEM part) F.KEY_MEM_NEWEST
                let age := s.age
                let copies := s.pool.stores.any (fun e => e.2.tile == op.tile)
                let s := (s.takeFrame n f op.tile).modTile op.tile (fun x =>
                  { x with dramTray := n, dramFrame := f, framed := true, keyGen := if copies then x.keyGen else newest, filled := 0,
                           hintAge := age })
                s.accessTile op r part
          | .flash => if (s.tile op.tile).discard then s else s.promote op.tile
          | .promoting => s
          | _ =>
            if bitAt (s.rd (A.KEY_MEM part) F.KEY_MEM_LIVE) e.keyGen then s.accessTile op r part
            else (s.logPool .keyRetired part addr).opDone op .keyRetired []

/-- Every waiting operation tried in order of arrival. A redirected one is tried a second time at its replica. -/
def Chip.tierPump (s : Chip) : Chip :=
  let pass (s : Chip) : Chip := s.pool.ops.foldl (fun s op =>
    match s.pool.ops.find? (fun o => o.id == op.id) with
    | some o => s.startOp o
    | none => s) s
  pass (pass s)

/-- A sector of the pool is read or written below the write cache. -/
def Chip.tierAccess (s : Chip) (t store sector : Nat) (w : Option (Nat × List Byte)) (who : TierWho) : Chip :=
  (s.addOp t store sector w who).tierPump

/-- A DISCARD hint applied to a settled tile (Table 3.8). -/
def Chip.discardTile (s : Chip) (t : Nat) : Chip :=
  let e := s.tile t
  match s.homed t with
  | none => s
  | some r =>
    if e.state == .promoting || e.state == .writingBack || e.sweeping then s.modTile t (fun x => { x with discard := true })
    else
      let s := if e.inFlash then s.dropLocation e.flashTray e.flashTile else s
      let s := if s.tiered r && e.framed then s.dropFrame e.dramTray e.dramFrame else s
      s.modTile t (fun x =>
        { x with state := .zero, inFlash := false, framed := x.framed && !s.tiered r, filled := 0, discard := false, scanMark := false })

/-- The settled tile takes the DISCARD that was held. -/
def Chip.settleTile (s : Chip) (t : Nat) : Chip := if (s.tile t).discard then s.discardTile t else s

/-- Collection of a block: its valid tiles are moved, then it is erased (R101 to R103, R106). -/
def Chip.emptyBlock (s : Chip) (n ch b : Nat) : Chip :=
  let k := blockKey n ch b
  if (s.block k).emptying then s
  else
    let l := s.validTiles n ch b
    let s := s.modBlock k (fun e => { e with emptying := true })
    s.modPool (fun p => { p with moves := p.moves ++ l })

/-- A block that is being emptied and holds nothing more is erased; a retired one stays as it is (R101, R106). -/
def Chip.eraseIfEmpty (s : Chip) (n ch b : Nat) : Chip :=
  let k := blockKey n ch b
  if (s.block k).emptying && !(s.block k).retired && (s.validTiles n ch b).isEmpty
      && !s.pool.tops.any (fun e => e.2.job == .erase n k) then
    s.sendTray { tray := n, job := .erase n k, op := 6, srcCh := ch, srcIndex := b } 0 [] true false
      ((s.owner (A.PTN_OWN_FLASH 0 + 2 * (32 * n + ch))).getD 0)
  else s

/-- The free blocks of a channel: those listed as free and those never listed. -/
def Chip.freeBlocks (s : Chip) (n ch : Nat) : Nat :=
  let listed := (s.pool.blocks.keysIn (blockKey n ch 0) (blockKey n (ch + 1) 0)).map (fun k => k - blockKey n ch 0)
  (s.blockCount n ch - 1 - listed.length) + (listed.filter (s.blockFree n ch)).length

/-- The listed blocks of a channel that hold something and are not being emptied. -/
def Chip.fullBlocks (s : Chip) (n ch : Nat) : List Nat :=
  ((s.pool.blocks.keysIn (blockKey n ch 0) (blockKey n (ch + 1) 0)).map (fun k => k - blockKey n ch 0)).filter (fun b =>
    let e := s.block (blockKey n ch b)
    !e.retired && !e.emptying && e.programmed != 0)

/-- Garbage collection of a channel (R101): started below GC_LOW, and gone on with up to GC_HIGH; the block of the fewest
valid tiles, then of the lowest erase count. -/
def Chip.collect (s : Chip) (n ch : Nat) : Chip :=
  let blocks := s.blockCount n ch
  let free := s.freeBlocks n ch
  let busy := (s.pool.blocks.keysIn (blockKey n ch 0) (blockKey n (ch + 1) 0)).filter (fun k => (s.block k).emptying && !(s.block k).retired)
  let low := Nat.blt (100 * free) (blocks * s.rd A.TIR_FTL_CFG0 F.TIR_FTL_CFG0_GC_LOW)
  let more := Nat.blt (100 * (free + busy.length)) (blocks * s.rd A.TIR_FTL_CFG0 F.TIR_FTL_CFG0_GC_HIGH)
  if (low || !busy.isEmpty) && more then
    match argMin (fun b => (s.validTiles n ch b).length * 2 ^ 40 + (s.block (blockKey n ch b)).erases) (s.fullBlocks n ch) with
    | some b => (s.emptyBlock n ch b).eraseIfEmpty n ch b
    | none => s
  else s

/-- Wear levelling among the flash channels of partition `p` (R102). -/
def Chip.level (s : Chip) (p : Nat) : Chip :=
  let keys := (s.flashChannels p (2 ^ 32 - 1)).flatMap (fun c =>
    (s.pool.blocks.keysIn (blockKey c.1 c.2 0) (blockKey c.1 (c.2 + 1) 0)).filter (fun k => !(s.block k).retired))
  match argMin (fun k => (s.block k).erases) keys with
  | none => s
  | some lo =>
    let hi := keys.foldl (fun m k => max m (s.block k).erases) 0
    if Nat.blt ((s.block lo).erases + s.rd A.TIR_FTL_CFG1 F.TIR_FTL_CFG1_WL_DELTA) hi && (s.block lo).programmed != 0 then
      let n := lo / 2 ^ 40
      let ch := bits lo 30 10
      (s.emptyBlock n ch (lo % 2 ^ 30)).eraseIfEmpty n ch (lo % 2 ^ 30)
    else s

/-- The moves that wait are started: a flash tile read into a spare frame, then programmed (R104). -/
def Chip.startMoves (s : Chip) : Chip :=
  s.pool.moves.foldl (fun s t =>
    let e := s.tile t
    match s.homed t with
    | none => s.modPool (fun p => { p with moves := p.moves.filter (fun x => x != t) })
    | some r =>
      if !e.inFlash then s.modPool (fun p => { p with moves := p.moves.filter (fun x => x != t) })
      else
        match s.freeFrameIn (s.dramChannels (s.rng r F.PTN_RANGE_PARTITION) (s.rng r F.PTN_RANGE_TRAY_MASK)) with
        | none => s
        | some (n, f) =>
          let (sch, si) := chanOf (s.tray e.flashTray).ident.flashCap e.flashTile 0
          let (dch, di) := chanOf (s.tray n).ident.dramCap f 0
          let s := (s.takeFrame n f t).modPool (fun p => { p with moves := p.moves.filter (fun x => x != t) })
          s.sendTray { tray := e.flashTray, job := .moveIn t e.flashTray e.flashTile n f, op := 3, srcCh := sch,
                       srcIndex := si, dstCh := dch, dstIndex := di } 0 [] true false (s.rng r F.PTN_RANGE_PARTITION)) s

/-- The background work of tray `n`'s flash after an operation (R101 to R103); it pauses outside ACTIVE (Table 16.2). -/
def Chip.background (s : Chip) (n : Nat) : Chip :=
  if s.asleep then s else
  let chans := upFrom 0 (s.tray n).ident.flashCap.length
  let s := chans.foldl (fun s ch => s.collect n ch) s
  let s := (distinct (chans.filterMap (fun ch => s.owner (A.PTN_OWN_FLASH 0 + 2 * (32 * n + ch))))).foldl (fun s p => s.level p) s
  let s := chans.foldl (fun s ch => (s.fullBlocks n ch).foldl (fun s b =>
    if Nat.ble (s.rd A.TIR_FTL_CFG1 F.TIR_FTL_CFG1_RD_THRESH) (s.block (blockKey n ch b)).reads then
      (s.emptyBlock n ch b).eraseIfEmpty n ch b else s) s) s
  s.startMoves

/-- The event to Newt of a change of tray `n` (Table 15.11 code 0x29). -/
def Chip.trayEvent (s : Chip) (n : Nat) : Chip := s.newtEvent 0x29 (n <<< 8 + s.trayState n <<< 16)

/-- A block is retired at once, its valid tiles moved; SPARE_LOW where too many are (R106). -/
def Chip.retireBlock (s : Chip) (n ch b : Nat) : Chip :=
  let s := s.emptyBlock n ch b
  let s := s.modBlock (blockKey n ch b) (fun e => { e with retired := true })
  let gone := ((s.pool.blocks.keysIn (blockKey n ch 0) (blockKey n (ch + 1) 0)).filter (fun k => (s.block k).retired)).length
  if Nat.blt (s.blockCount n ch * s.rd A.TIR_FTL_CFG1 F.TIR_FTL_CFG1_SPARE_LOW) (100 * gone) then
    (s.wrB (A.TIR_TRAY_STATUS n) F.TIR_TRAY_STATUS_SPARE_LOW true).trayEvent n
  else s

/-- The promotion of a tile has ended (Table 3.8). -/
def Chip.promoted (s : Chip) (t : Nat) (ok : Bool) : Chip :=
  let e := s.tile t
  match s.homed t with
  | none => s
  | some r =>
    let part := s.rng r F.PTN_RANGE_PARTITION
    if ok then
      let dirty := s.pool.ops.any (fun o => o.tile == t && o.store == 0 && o.write.isSome)
      let age := s.age
      let s := s.modTile t (fun x =>
        { x with state := if dirty then .dramDirty else .dramClean, hintAge := if x.hint == 0 then age else x.hintAge })
      s.tierPump.settleTile t
    else
      let s := (s.dropFrame e.dramTray e.dramFrame).modTile t (fun x => { x with state := .flash, framed := false })
      let s := s.uncorrectable .tierManager
      let waiting := s.pool.ops.filter (fun o => o.tile == t && o.store == 0)
      let s := waiting.foldl (fun s o => (s.logPool .uncorrectable part (sectorNo t o.sector * 256)).opDone o .uncorrectable []) s
      s.settleTile t

/-- A program of tile `t` has ended (Table 3.8). -/
def Chip.programmed (s : Chip) (t n l : Nat) (ok : Bool) : Chip :=
  let (ch, b) := s.blockOf n l
  let e := s.tile t
  if !ok then
    let s := (s.dropLocation n l).retireBlock n ch b
    s.program t e.evicting
  else
    let s := if e.inFlash then s.dropLocation e.flashTray e.flashTile else s
    let s := s.modTile t (fun x => { x with flashTray := n, flashTile := l, inFlash := true })
    if e.rewritten then
      ((s.modTile t (fun x => { x with state := .dramDirty, rewritten := false, evicting := false })).tierPump).settleTile t
    else if e.evicting then
      (((s.dropFrame e.dramTray e.dramFrame).modTile t (fun x =>
        { x with state := .flash, framed := false, evicting := false })).tierPump).settleTile t
    else ((s.modTile t (fun x => { x with state := .dramClean })).tierPump).settleTile t

/-! ### Tiles moved sector by sector: versions, replicas and the key sweep (R189, R119, R433) -/

/-- The next sector of transfer `x` from sector `k` on: read, or written as zeros where the source holds nothing there and
the copy is a version's; none left: the second result is false. -/
def Chip.xferNext (s : Chip) (x k : Nat) : Chip × Bool :=
  match s.pool.xfers.find x with
  | none => (s, true)
  | some t =>
    let part := match s.homed t.tile with | some r => s.rng r F.PTN_RANGE_PARTITION | none => 0
    let version := match t.why with | .version _ => true | _ => false
    match (upFrom k (64 - k)).find? (fun j => version || bitAt t.filled j) with
    | none => (s, false)
    | some j =>
      if bitAt t.filled j then
        (s.readSector (.xferRead x j) t.srcTray t.srcFrame j (some (t.keyFrom, sectorNo t.tile j)) part, true)
      else
        (s.writeSector (.xferWrite x j) t.dstTray t.dstFrame j 15 (zeroBytes 256) (some (t.keyTo, sectorNo t.tile j)) part, true)

/-- The copied tiles of versions that the sweep visits with tile `t`. -/
def Chip.copiesOf (s : Chip) (t : Nat) : List Nat := (s.pool.stores.filter (fun e => e.2.tile == t)).map (·.1)

/-- The next part of a tile's sweep: the copy of a version, or none. -/
def Chip.sweepCopy (s : Chip) (t slot keyFrom keyTo : Nat) : List Nat → Option Chip
  | [] => none
  | id :: left =>
    match s.pool.stores.find id with
    | none => s.sweepCopy t slot keyFrom keyTo left
    | some st =>
      let x := s.pool.nextXfer
      let s := s.modPool (fun q =>
        { q with nextXfer := x + 1
                 xfers := q.xfers.put x ⟨t, .sweep slot left, st.tray, st.frame, st.tray, st.frame, keyFrom, keyTo, 2 ^ 64 - 1⟩ })
      some (s.xferNext x 0).1

/-- The tile at the head of partition `p`'s sweep is visited (R433): one that is ZERO and without copies, or already NEWEST,
is passed over; a FLASH tile is promoted first; another is read and written again under NEWEST. -/
def Chip.sweepNext (s : Chip) (p : Nat) : List Nat → Chip
  | [] =>
    (s.modPool (fun q => { q with sweeps := q.sweeps.erase p })).wrKey p F.KEY_MEM_SWEEPING 0
  | t :: rest =>
    let e := s.tile t
    let newest := s.rd (A.KEY_MEM p) F.KEY_MEM_NEWEST
    let copies := s.copiesOf t
    if (e.state == .zero && copies.isEmpty) || e.state == .redirected || e.keyGen == newest then s.sweepNext p rest
    else
      let s := s.modPool (fun q => { q with sweeps := q.sweeps.put p (t :: rest) })
      if e.state == .flash then s.promote t
      else if e.state == .promoting || e.state == .writingBack || e.sweeping
          || copies.any (fun id => (s.pool.stores.find id).elim false (fun st => !st.ready)) then s
      else
        let s := s.modTile t (fun y => { y with sweeping := true })
        let old := s.memKey p e.keyGen
        let new := s.memKey p newest
        if e.state == .zero then (s.sweepCopy t newest old new copies).getD s
        else
          let x := s.pool.nextXfer
          let s := s.modPool (fun q =>
            { q with nextXfer := x + 1
                     xfers := q.xfers.put x ⟨t, .sweep newest copies, e.dramTray, e.dramFrame, e.dramTray, e.dramFrame, old, new,
                       e.filled⟩ })
          (s.xferNext x 0).1

/-- The sweep of partition `p` goes on, where it waits. -/
def Chip.sweepPump (s : Chip) (p : Nat) : Chip :=
  match s.pool.sweeps.find p with
  | some l => s.sweepNext p l
  | none => s

/-- The next tile of the survivor at `base` is copied into its new replica (R119); with none left the copy waits for its
end. -/
def Chip.replicaNext (s : Chip) (base : Nat) : List Nat → Chip
  | [] => s.modPool (fun q => { q with replicas := q.replicas.put base [] })
  | t :: rest =>
    let e := s.tile t
    match s.homed t with
    | none => s.replicaNext base rest
    | some r =>
      if e.state == .zero then s.replicaNext base rest
      else
        let s := s.modPool (fun q => { q with replicas := q.replicas.put base (t :: rest) })
        let u := s.replicaTile r t
        let x := s.tile u
        if e.state == .flash then s.promote t
        else if e.state == .promoting || e.state == .writingBack || e.sweeping || x.state == .promoting || x.state == .writingBack then s
        else
          match (if x.framed then some (x.dramTray, x.dramFrame) else s.frameFor (s.replicaOf r) u) with
          | none => s
          | some (n, f) =>
            let p := s.rng r F.PTN_RANGE_PARTITION
            let x := s.pool.nextXfer
            let key := s.memKey p e.keyGen
            let s := (s.takeFrame n f u).modTile t (fun y => { y with sweeping := true })
            let s := s.modPool (fun q =>
              { q with nextXfer := x + 1
                       xfers := q.xfers.put x ⟨t, .replica, e.dramTray, e.dramFrame, n, f, key, key, e.filled⟩ })
            (s.xferNext x 0).1

/-- The replica copies go on, where they wait. -/
def Chip.replicaPump (s : Chip) : Chip := s.pool.replicas.foldl (fun s e => s.replicaNext e.1 e.2) s

/-- A transfer has ended. -/
def Chip.xferDone (s : Chip) (x : Nat) : Chip :=
  match s.pool.xfers.find x with
  | none => s
  | some t =>
    let s := s.modPool (fun q => { q with xfers := q.xfers.erase x })
    match t.why with
    | .version id =>
      (s.modPool (fun q => { q with stores := q.stores.mapAt id (fun y => { y with ready := true }) })).tierPump
    | .sweep slot left =>
      match s.homed t.tile, s.sweepCopy t.tile slot t.keyFrom t.keyTo left with
      | none, _ => s
      | some _, some s => s
      | some r, none =>
        let p := s.rng r F.PTN_RANGE_PARTITION
        let tiered := s.tiered r
        let s := s.modTile t.tile (fun y =>
          { y with sweeping := false, keyGen := slot, state := if tiered && y.state != .zero then .dramDirty else y.state })
        let s := s.wrKey p F.KEY_MEM_SWEPT (s.rd (A.KEY_MEM p) F.KEY_MEM_SWEPT + 1)
        match s.pool.sweeps.find p with
        | some (_ :: rest) => ((s.sweepNext p rest).tierPump).settleTile t.tile
        | _ => s.tierPump
    | .replica =>
      match s.homed t.tile with
      | none => s
      | some r =>
        let u := s.replicaTile r t.tile
        let e := s.tile t.tile
        let tiered := s.tiered r
        let s := s.modTile t.tile (fun y => { y with sweeping := false })
        let s := s.modTile u (fun y =>
          { y with state := if tiered then .dramDirty else .dramClean, dramTray := t.dstTray, dramFrame := t.dstFrame,
                   framed := true, keyGen := e.keyGen, filled := e.filled })
        match s.pool.replicas.find (s.rng r F.PTN_RANGE_BASE_TILE) with
        | some (_ :: rest) => (s.replicaNext (s.rng r F.PTN_RANGE_BASE_TILE) rest).tierPump
        | _ => s.tierPump

/-- A sector of a transfer has been read or written; one that failed is left as it is, and on a lost tray the transfer ends as
it stands. -/
def Chip.xferStep (s : Chip) (x k : Nat) (read ok : Bool) (data : List Byte) : Chip :=
  match s.pool.xfers.find x with
  | none => s
  | some t =>
    if !ok && (s.trayState t.srcTray == trayLOST || s.trayState t.dstTray == trayLOST) then s.xferDone x
    else if ok && read then
      let part := match s.homed t.tile with | some r => s.rng r F.PTN_RANGE_PARTITION | none => 0
      s.writeSector (.xferWrite x k) t.dstTray t.dstFrame k 15 data (some (t.keyTo, sectorNo t.tile k)) part
    else
      match s.xferNext x (k + 1) with
      | (s, true) => s
      | (s, false) => s.xferDone x

/-- Frames whose index lies on channel `ch` of tray `n`, and flash tiles, forgotten: the channel was zeroed. -/
def Chip.forgetTray (s : Chip) (n : Nat) : Chip :=
  s.modPool (fun p =>
    { p with
      frames := p.frames.filter (fun e => e.1 / 2 ^ 29 != n)
      flash := p.flash.filter (fun e => e.1 / 2 ^ 34 != n)
      blocks := p.blocks.filter (fun e => e.1 / 2 ^ 40 != n)
      tiles := p.tiles.filter (fun e => e.1 / 2 ^ 44 / 16 != n) })

end Sys2Proof.Machine
end

