-- ==== Sys2Proof/Machine/WriteCache.lean ====
section
/-!
DEFINITION. The pool write cache (R108, R109) and the transactions of this E9's own requesters: tags, the transaction
timer, completions (R135, R139).
-/
namespace Sys2Proof.Machine

/-- Roles of a line (R108). -/
def roleENGINE : Nat := 0
def roleHOME : Nat := 1

/-- The key of a line: partition, role, the copied tile of a version that holds it (0: none), and the line number (pool
address bits [55:6]). -/
def cacheKey (p role store line : Nat) : Nat := ((2 * p + role) * 2 ^ 20 + store) * 2 ^ 50 + line

/-- The line of a partition in a role. -/
def Chip.cached (s : Chip) (p role store line : Nat) : Option CacheLine := s.pool.cache.find (cacheKey p role store line)

/-- Way groups of partition `p`. -/
def Chip.wayGroups (s : Chip) (p : Nat) : Nat :=
  ((upFrom 0 128).filter (fun g => s.owner (A.PTN_OWN_WG 0 + 2 * g) == some p)).length

/-- Lines that partition `p`'s way groups hold: 1 MiB of 64-byte lines each, as one set (log entry 22). -/
def Chip.cacheRoom (s : Chip) (p : Nat) : Nat := 16384 * s.wayGroups p

/-- The lines of partition `p` with their keys. -/
def Chip.cacheOf (s : Chip) (p : Nat) : List (Nat × CacheLine) :=
  s.pool.cache.filter (fun e => e.1 / 2 ^ 71 == p)

/-- The role, store and line of a key. -/
def keyRole (k : Nat) : Nat := k / 2 ^ 70 % 2
def keyStore (k : Nat) : Nat := k / 2 ^ 50 % 2 ^ 20
def keyLine (k : Nat) : Nat := k % 2 ^ 50

/-- The home's EID for tile `t`: this E9's where a HOMED entry covers it here, else where the domain's layout puts it (log
entry 18). -/
def Chip.homeOf (s : Chip) (t : Nat) : Nat :=
  match s.homed t with
  | some _ => s.selfEid
  | none => Config.homeEid t % 2 ^ 14

/-- The next tag of 16 bits that no open transaction has. -/
def Chip.freshTag (s : Chip) : Nat :=
  ((upFrom s.pool.nextAsk 65536).find? (fun k => (s.pool.asks.find (k % 65536)).isNone)).getD s.pool.nextAsk % 65536

/-- A transaction ends for its asker. -/
def Chip.endAsk (s : Chip) (tag : Nat) (st : Status) (old : Nat) (lines : List (Nat × List Byte)) : Chip :=
  ((s.modPool (fun p => { p with ended := p.ended ++ [⟨tag, st, old, lines⟩] })).stopTimer (.txn tag))

/-- The request of an open transaction is sent, under the present epoch. Where it is not homed here its range check is
made first (R31). -/
def Chip.sendAsk (s : Chip) (tag : Nat) (p : Packet) : Chip :=
  let t := p.poolAddr / 16384
  let here := (s.homed t).isSome
  let msg := (Coh.ofBody p.body).msg
  if s.isShadow && (msg == mWrBack || msg == mAtomicAny) then
    -- R457: it completes locally with OK; the old value of an atomic is open
    let (v, s) := s.draw
    s.endAsk tag .ok v []
  else if here then s.send { p with dst := s.selfEid, epoch := s.active }
  else
    match s.rangeCheck s.active p.partition t with
    | .unmapped => (s.logPool .rangeUnmapped p.partition p.poolAddr).endAsk tag .rangeUnmapped 0 []
    | .foreign => (s.logPool .accessDenied p.partition p.poolAddr).endAsk tag .accessDenied 0 []
    | .broken i =>
      (s.log { status := .tableCheck, subsys := .partitionUnit, partition := some p.partition, addrKind := 4,
               addr := s.rangeOffset s.active i, detail := p.poolAddr }).endAsk tag .tableCheck 0 []
    | .entry _ _ => s.send { p with dst := s.homeOf t, epoch := s.active }

/-- A coherence request of this E9: a tag, the transaction timer, the packet. The tag is the second result. -/
def Chip.ask (s : Chip) (who : Asker) (part tc eid : Nat) (c : Coh) (payload : List Byte) : Chip × Nat :=
  let tag := s.freshTag
  let p : Packet := { cls := if cohIsData c.msg then clsCOH_DATA else clsCOH, tc := tc, partition := part, src := eid,
                      segs := if cohIsData c.msg then 1 else 0, body := Coh.body { c with tag := tag }, payload := payload }
  let s := s.modPool (fun q =>
    { q with
      asks := q.asks.put tag { who := who, pkt := p, installs := s.rd A.RTE_EPOCH F.RTE_EPOCH_INSTALLS }
      nextAsk := (tag + 1) % 65536 })
  ((s.startTimer (.txn tag) s.txnTimeout).sendAsk tag p, tag)

/-- The lines of a mask with the payload's bytes of each. -/
def linesOf (mask : Nat) (payload : List Byte) : List (Nat × List Byte) :=
  ((upFrom 0 4).filter (fun j => bitAt mask j)).map (fun j => (j, (payload.drop (64 * j)).take 64))

/-- The 256-byte payload of some lines, zero elsewhere (R131). -/
def payloadOf (lines : List (Nat × List Byte)) : List Byte :=
  (upFrom 0 4).flatMap (fun j => match lines.find? (fun e => e.1 == j) with | some e => e.2 | none => zeroBytes 64)

/-- The mask of some lines. -/
def maskOf (lines : List (Nat × List Byte)) : Nat := lines.foldl (fun m e => m ||| 2 ^ e.1) 0

/-- The ENGINE lines of a sector that are not in flight, written back as one pushed WrBack (R109). -/
def Chip.pushSector (s : Chip) (p sector : Nat) : Chip × Option Nat :=
  let lines := (upFrom 0 4).filterMap (fun j =>
    match s.cached p roleENGINE 0 (4 * sector + j) with
    | some l => if l.flight.isNone then some (j, l.data) else none
    | none => none)
  if lines.isEmpty then (s, none)
  else
    let who := Asker.wcache p (lines.map (fun e => 4 * sector + e.1))
    let (s, tag) := s.ask who p 0 s.selfEid { msg := mWrBack, lmask := maskOf lines, saddr := sector } (payloadOf lines)
    (lines.foldl (fun s e => s.modPool (fun q =>
      { q with cache := q.cache.mapAt (cacheKey p roleENGINE 0 (4 * sector + e.1)) (fun l => { l with flight := some tag }) })) s,
     some tag)

/-- A line leaves the cache. -/
def Chip.dropLine (s : Chip) (k : Nat) : Chip := s.modPool (fun q => { q with cache := q.cache.erase k })

/-- A dirty HOME line goes to its tray as a sector write (R109). -/
def Chip.writeHomeLine (s : Chip) (k : Nat) (l : CacheLine) (who : TierWho) : Chip :=
  let line := keyLine k
  s.tierAccess (line / 256) (keyStore k) (line / 4 % 64) (some (2 ^ (line % 4), payloadOf [(line % 4, l.data)])) who

/-- The least recently written line of partition `p` leaves, where its way groups hold more than they have room for
(R109). -/
def Chip.makeRoom (s : Chip) (p : Nat) : Chip :=
  let l := s.cacheOf p
  if Nat.ble l.length (s.cacheRoom p) then s
  else
    match argMin (fun k => ((s.pool.cache.find k).map (·.wrote)).getD 0)
        ((l.filter (fun e => e.2.flight.isNone)).map (·.1)) with
    | none => s
    | some k =>
      match s.pool.cache.find k with
      | none => s
      | some x =>
        if keyRole k == roleENGINE then (s.pushSector p (keyLine k / 4)).1
        else if x.dirty then (s.dropLine k).writeHomeLine k x .evict
        else s.dropLine k

/-- A line is placed, or written again, in a role (R108). -/
def Chip.putLine (s : Chip) (p role store line : Nat) (data : List Byte) : Chip :=
  let n := s.pool.writes + 1
  let s := s.modPool (fun q =>
    { q with writes := n, cache := q.cache.put (cacheKey p role store line) { data := data, dirty := true, wrote := n } })
  s.makeRoom p

/-- A HOME line is written as dirty (R136, R137). -/
def Chip.writeMemory (s : Chip) (p store line : Nat) (data : List Byte) : Chip := s.putLine p roleHOME store line data

/-- The WbAck of a writeback has come: its lines leave; after an error they stay, dirty (R109). -/
def Chip.wroteBack (s : Chip) (p tag : Nat) (lines : List Nat) (ok : Bool) : Chip :=
  lines.foldl (fun s line =>
    let k := cacheKey p roleENGINE 0 line
    match s.pool.cache.find k with
    | some l =>
      if l.flight == some tag then
        if ok then s.dropLine k else s.modPool (fun q => { q with cache := q.cache.put k { l with flight := none } })
      else s
    | none => s) s

/-- The 64 bytes of line `l` with the bytes from pool address `addr` on laid over them. -/
def overLine (l : Nat) (old : List Byte) (addr : Nat) (data : List Byte) : List Byte :=
  (upFrom 0 64).map (fun i =>
    let a := 64 * l + i
    if Nat.ble addr a && Nat.blt a (addr + data.length) then data.getD (a - addr) 0 else old.getD i 0)

/-- The waiting writes of engines go on (R109, R168, R170), oldest first: one on a line whose writeback is in flight waits; one on a
line that is held, or of a whole line, is made; another asks for its fill. -/
def Chip.engineWrites (s : Chip) : Chip :=
  s.pool.engWrites.foldl (fun s w =>
    let l := w.addr / 64
    let made (s : Chip) (old : List Byte) : Chip :=
      (s.modPool (fun q => { q with engWrites := q.engWrites.filter (fun x => x.id != w.id) })).putLine w.part roleENGINE 0 l
        (overLine l old w.addr w.data)
    match s.cached w.part roleENGINE 0 l with
    | some c => if c.flight.isSome || w.asked then s else made s c.data
    | none =>
      if w.asked then s
      else if w.data.length == 64 then made s []
      else
        let s := s.modPool (fun q => { q with engWrites := q.engWrites.map (fun x => if x.id == w.id then { x with asked := true } else x) })
        (s.ask (.fill w.id) w.part 0 s.selfEid { msg := mRdCurrent, lmask := 2 ^ (l % 4), saddr := l / 4 } []).1) s

/-- The fill of waiting write `n` has come, with its line, or has failed: the write is made, or is lost; only the timeout of
its own timer has no record yet (R442). -/
def Chip.filled (s : Chip) (n : Nat) (st : Status) (line : List Byte) : Chip :=
  match s.pool.engWrites.find? (fun w => w.id == n) with
  | none => s
  | some w =>
    let l := w.addr / 64
    if (s.cached w.part roleENGINE 0 l).any (fun c => c.flight.isSome) then
      s.modPool (fun q => { q with engWrites := q.engWrites.map (fun x => if x.id == n then { x with asked := false } else x) })
    else
    let s := s.modPool (fun q => { q with engWrites := q.engWrites.filter (fun x => x.id != n) })
    if st != .ok then (if st == .timeout then s.logPool st w.part w.addr else s)
    else
      let old := ((s.cached w.part roleENGINE 0 l).map (·.data)).getD line
      s.putLine w.part roleENGINE 0 l (overLine l old w.addr w.data)

end Sys2Proof.Machine
end

