-- ==== Sys2Proof/Machine/Spaces.lean ====
section
/-!
DEFINITION. The staging store, the scratchpads and the sync counters (spec/05_memory_model.md R165 to R185,
spec/06_compute_cells.md R196, spec/07_matrix_and_codec.md R236).
-/
namespace Sys2Proof.Machine

/-- The sequencer changed by `f`. -/
def Chip.modSeq (s : Chip) (f : Seq → Seq) : Chip := { s with seq := f s.seq }

/-- A memory byte: an unlisted one reads 0 (log entry 9). -/
def Mem.byte (m : Mem) (a : Nat) : Byte := Tab.get (fun _ => (0 : Byte)) m a

/-- Canonical form of a memory: addresses strictly rising, and no byte listed that an unlisted address reads as. -/
def Memory.wf (m : Mem) : Bool := Tab.canonical (fun _ => (0 : Byte)) m

/-- One byte written, in canonical form. -/
def Mem.setByte (m : Mem) (a : Nat) (b : Byte) : Mem := Tab.set (fun _ => (0 : Byte)) m a b

/-- The owner byte of engine `e`: a cell below 64, a matrix tile from 64 to 79. -/
def engineOwner (e : Nat) : Nat := if Nat.blt e 64 then A.CEL_OWNER e else A.MTX_OWNER (e - 64)

/-- The partition that owns engine `e`. -/
def Chip.engineOf (s : Chip) (e : Nat) : Option Nat := if Nat.blt e 80 then s.owner (engineOwner e) else none

/-- The cell list of partition `p` (R196) and its matrix tiles. -/
def Chip.cellsOf (s : Chip) (p : Nat) : List Nat := (upFrom 0 64).filter (fun e => s.engineOf e == some p)
def Chip.tilesOf (s : Chip) (p : Nat) : List Nat := (upFrom 64 16).filter (fun e => s.engineOf e == some p)

/-- The HBM channels of partition `p`, ascending (R166). -/
def Chip.hbmOf (s : Chip) (p : Nat) : List Nat := (upFrom 0 192).filter (fun c => s.owner (A.PTN_OWN_HBM 0 + 2 * c) == some p)

/-- 1.5 GiB, the bytes of a channel. -/
def hbmChannel : Nat := 1610612736

/-- The STG capacity of partition `p` (R166). -/
def Chip.stgCap (s : Chip) (p : Nat) : Nat := hbmChannel * (s.hbmOf p).length

/-- The key of STG offset `o` over the channels `l` (R166): list entry ⌊o ÷ 256⌋ mod n. -/
def stgKey (l : List Nat) (o : Nat) : Nat :=
  let n := max 1 l.length
  l.getD (o / 256 % n) 0 * 2 ^ 31 + o / 256 / n * 256 + o % 256

/-- The key of SCR offset `o` of engine `e`, and the size of its scratchpad. -/
def scrKey (e o : Nat) : Nat := e * 2 ^ 23 + o
def scrSize (e : Nat) : Nat := if Nat.blt e 64 then 2 ^ 21 else 2 ^ 23

/-- `n` bytes of STG of partition `p` from offset `o`; past the capacity QUOTA (R112). -/
def Chip.stgRead (s : Chip) (p o n : Nat) : Except Status (List Byte) :=
  if Nat.blt (s.stgCap p) (o + n) then .error .quota
  else let l := s.hbmOf p
    .ok ((upFrom o n).map (fun a => s.seq.stg.byte (stgKey l a)))

/-- Bytes written one after the other at the keys of `o`, `o + 1` and so on. -/
def Mem.putFrom (key : Nat → Nat) : Mem → Nat → List Byte → Mem
  | m, _, [] => m
  | m, o, b :: l => Mem.putFrom key (Mem.setByte m (key o) b) (o + 1) l

/-- Bytes written from offset `o`; where a byte lies past the capacity the check before them has failed. -/
def Chip.stgPut (s : Chip) (p o : Nat) (data : List Byte) : Chip :=
  let l := s.hbmOf p
  s.modSeq (fun q => { q with stg := Mem.putFrom (stgKey l) q.stg o data })

/-- `n` bytes of the scratchpad of engine `e`. -/
def Chip.scrRead (s : Chip) (e o n : Nat) : Except Status (List Byte) :=
  if Nat.blt (scrSize e) (o + n) then .error .lengthRange
  else .ok ((upFrom o n).map (fun a => s.seq.scr.byte (scrKey e a)))

/-- Bytes written to a scratchpad. -/
def Chip.scrPut (s : Chip) (e o : Nat) (data : List Byte) : Chip :=
  s.modSeq (fun q => { q with scr := Mem.putFrom (scrKey e) q.scr o data })

/-- Whether STG bytes [o, o+n) lie within the capacity of partition `p`. -/
def Chip.stgHas (s : Chip) (p o n : Nat) : Bool := Nat.ble (o + n) (s.stgCap p)

/-- The scratchpad of engine `e` zeroed (R197, R237). -/
def Chip.scrZero (s : Chip) (e : Nat) : Chip :=
  s.modSeq (fun q => { q with scr := q.scr.filter (fun c => !(Nat.ble (scrKey e 0) c.1 && Nat.blt c.1 (scrKey (e + 1) 0))) })

/-- HBM channel `c` zeroed (Table 13.5). -/
def Chip.hbmZero (s : Chip) (c : Nat) : Chip :=
  s.modSeq (fun q => { q with stg := q.stg.filter (fun x => !(Nat.ble (c * 2 ^ 31) x.1 && Nat.blt x.1 ((c + 1) * 2 ^ 31))) })

/-- The partition of counter `c`, by the owner of its block (R176). -/
def Chip.counterOwner (s : Chip) (c : Nat) : Option Nat := s.owner (A.SEQ_CBLK_OWNER 0 + 2 * (c / 64))

/-- Whether counter `c` may be named by partition `p`. -/
def Chip.counterIs (s : Chip) (c p : Nat) : Bool := s.counterOwner c == some p

/-- Counter `c` read (R177): a mismatch fails with TABLE_CHECK and is logged with the entry's address. -/
def Chip.counterOk (s : Chip) (c : Nat) : Bool := s.checked (A.SEQ_COUNTER c) 2

def Chip.counterBad (s : Chip) (c part : Nat) : Chip :=
  s.log { status := .tableCheck, subsys := .sequencer, partition := some part, addrKind := 4, addr := A.SEQ_COUNTER c }

/-- A field of counter `c`. -/
def Chip.counter (s : Chip) (c : Nat) (f : Fld) : Nat := s.rd (A.SEQ_COUNTER c) f
def Chip.counterValue (s : Chip) (c : Nat) : Nat := s.counter c F.SEQ_COUNTER_VALUE

/-- The condition of a WAIT (R182): (VALUE − T) mod 2^48 < 2^47. -/
def waitHolds (value target : Nat) : Bool := Nat.blt ((value + 2 ^ 48 - target % 2 ^ 48) % 2 ^ 48) (2 ^ 47)

/-- Pending WAITs on counter `c` whose condition holds now have their status fixed (R182). -/
def Chip.fixWaits (s : Chip) (c : Nat) : Chip :=
  let v := s.counterValue c
  let sc := s.counter c F.SEQ_COUNTER_SCOPE
  s.modSeq (fun q => { q with cmds := q.cmds.map (fun m =>
    match m.wait with
    | some w => if w.counter == c && w.fixed.isNone && waitHolds v w.target then
        { m with wait := some { w with fixed := some (if Nat.ble w.scope sc then .ok else .scopeMismatch, v) } } else m
    | none => m) })

/-- VALUE moves on by `n`, modulo 2^48, recording scope `sc` (R178, R179). -/
def Chip.counterAdd (s : Chip) (c n sc : Nat) : Chip :=
  let a := A.SEQ_COUNTER c
  let s := s.wrP a 2 F.SEQ_COUNTER_VALUE ((s.counterValue c + n) % 2 ^ 48)
  (s.wrP a 2 F.SEQ_COUNTER_SCOPE sc).fixWaits c

/-- An arrival of `n` bytes at counter `c` (R178): by bytes or by 1, recording DEVICE. -/
def Chip.arrive (s : Chip) (c n : Nat) : Chip :=
  s.counterAdd c (if s.counter c F.SEQ_COUNTER_MODE == 0 then n else 1) 2

/-- Whether an arrival of partition `p` may name counter `c`: ACCESS_DENIED for another's, TABLE_CHECK for a corrupt
entry (R177, R178). -/
def Chip.arrivalCheck (s : Chip) (c p : Nat) : Option Status :=
  if !s.counterIs c p then some .accessDenied else if !s.counterOk c then some .tableCheck else none

/-- COUNTER_SET's fields set, with scope NONE (R181). -/
def Chip.counterSet (s : Chip) (c value mode job : Nat) : Chip :=
  let a := A.SEQ_COUNTER c
  let s := s.wrP a 2 F.SEQ_COUNTER_VALUE value
  let s := s.wrP a 2 F.SEQ_COUNTER_MODE mode
  let s := s.wrP a 2 F.SEQ_COUNTER_OWNER_JOB job
  (s.wrP a 2 F.SEQ_COUNTER_SCOPE 0).fixWaits c

/-- Every counter returns to its reset values (R28, R177). -/
def Chip.countersReset (s : Chip) : Chip :=
  { s with regs := s.regs.filter (fun e => !(Nat.ble (A.SEQ_COUNTER 0) e.1 && Nat.blt e.1 (A.SEQ_COUNTER 16384))) }

/-- What the checks of a WRITE packet find (R178, Table 10.3): a status where it is refused, before it writes anything. -/
def Chip.writeCheck (s : Chip) (p : Packet) : Option Status :=
  let w := WriteExt.ofBody p.body
  if !writeReservedZero p.body || w.space == 0 || w.space == 3 then some .formatInvalid
  else if w.space == 2 && Nat.ble 80 w.engine then some .formatInvalid
  else if Nat.ble w.length ((p.segs - 1) * 256) then some .formatInvalid
  else if w.length == 2 ^ 13 - 1 || Nat.blt (p.segs * 256) w.length then some .lengthRange
  else if w.space == 2 && Nat.blt (scrSize w.engine) (w.addr % 2 ^ 23 + w.length) then some .lengthRange
  else if w.space == 2 && s.engineOf w.engine != some p.partition then some .accessDenied
  else if w.countEn && !s.counterIs w.counter p.partition then some .accessDenied
  else if w.space == 1 && !s.stgHas p.partition w.addr w.length then some .quota
  else if w.countEn && !s.counterOk w.counter then some .tableCheck
  else none

/-- A WRITE packet put in place, with its counter's advance (R178). -/
def Chip.placeWrite (s : Chip) (p : Packet) : Chip :=
  let w := WriteExt.ofBody p.body
  let data := p.payload.take w.length
  let s := if w.space == 1 then s.stgPut p.partition w.addr data else s.scrPut w.engine (w.addr % 2 ^ 23) data
  if w.countEn then s.arrive w.counter w.length else s

/-- The record of a refused arrival, where its status is of kind Error (R442). -/
def Chip.logArrival (s : Chip) (p : Packet) (st : Status) (counter : Option Nat) : Chip :=
  match st, counter with
  | .tableCheck, some c =>
    s.log { status := st, subsys := .sequencer, partition := some p.partition, addrKind := 4, addr := A.SEQ_COUNTER c,
            srcEid := p.src, tag := p.tag, detail := p.address.2 }
  | _, _ =>
    if st.isError then
      s.log { status := st, subsys := .stagingStore, partition := some p.partition, addrKind := p.address.1,
              addr := p.address.2, srcEid := p.src, tag := p.tag }
    else s

/-- A WRITE data packet is consumed here (R178): placed and counted, and answered with STATUS where ACK is set or it is
refused. The second result is whether it was put in place (R365). -/
def Chip.writePacket (s : Chip) (p : Packet) : Chip × Bool :=
  let w := WriteExt.ofBody p.body
  match s.writeCheck p with
  | some st =>
    ((s.logArrival p st (if w.countEn then some w.counter else none)).send (s.statusAnswer p st p.address.2), false)
  | none =>
    let s := s.placeWrite p
    (if w.ack then s.send (s.statusAnswer p .ok 0) else s, true)

/-- A COUNTER tadpole from another E9 (R179, R347): a release-add, answered with STATUS. -/
def Chip.counterTadpole (s : Chip) (p : Packet) : Chip :=
  let c := CounterBody.ofBody p.body
  let r : Chip × Status :=
    if bits p.body 96 288 != 0 || c.scope == 0 then (s, .formatInvalid)
    -- R179: CELL scope only by a kernel for a counter on its own E9.
    else if c.scope == 1 then (s, .formatInvalid)
    else if !s.counterIs c.counter p.partition then (s, .accessDenied)
    else if c.operand == 0 then (s, .ok)
    else if !s.counterOk c.counter then (s, .tableCheck)
    else (s.counterAdd c.counter c.operand c.scope, .ok)
  let s := if r.2 == .ok then r.1 else r.1.logArrival p r.2 (some c.counter)
  s.send (s.statusAnswer p r.2 0)

end Sys2Proof.Machine
end

