-- ==== Sys2Proof/Machine/Packet.lean ====
section
/-!
DEFINITION. The command packet: opcodes, parameters and the checks of R14, R16 and R17 on them
(spec/08_commands_and_scheduling.md R278 to R283, Tables 8.1 to 8.9).
-/
namespace Sys2Proof.Machine

/-- Opcodes (Tables 8.4 to 8.9). -/
def oNOP : Nat := 0x00
def oBARRIER : Nat := 0x01
def oCANCEL : Nat := 0x02
def oJOB_SUSPEND : Nat := 0x03
def oJOB_RESUME : Nat := 0x04
def oCOPY : Nat := 0x10
def oFILL : Nat := 0x11
def oFLUSH_RANGE : Nat := 0x12
def oTIER_HINT : Nat := 0x13
def oPREFETCH : Nat := 0x14
def oCOUNTER_SET : Nat := 0x20
def oCOUNTER_ADD : Nat := 0x21
def oWAIT : Nat := 0x22
def oWAIT_COPY : Nat := 0x23
def oREDUCE : Nat := 0x30
def oALLREDUCE : Nat := 0x31
def oREDUCE_SCATTER : Nat := 0x32
def oALLGATHER : Nat := 0x33
def oBROADCAST : Nat := 0x34
def oSMAX_MERGE : Nat := 0x35
def oGATHER : Nat := 0x40
def oSCATTER : Nat := 0x41
def oFILTER_SCAN : Nat := 0x42
def oTOPK : Nat := 0x43
def oSAMPLE : Nat := 0x44
def oKERNEL_LAUNCH : Nat := 0x50
def oATTEND : Nat := 0x51
def oPROJECT : Nat := 0x52
def oENCODE : Nat := 0x60
def oCODEBOOK_BUILD : Nat := 0x61
def oCODEBOOK_RETIRE : Nat := 0x62
def oVERSION_OPEN : Nat := 0x70
def oVERSION_CLOSE : Nat := 0x71
def oVERSION_PUBLISH : Nat := 0x72
def oOWN_CLAIM : Nat := 0x80
def oOWN_RELEASE : Nat := 0x81
def oLOST_ACK : Nat := 0x82
def oPARTITION_CREATE : Nat := 0xA0
def oPARTITION_RESERVE : Nat := 0xA1
def oPARTITION_SEAL : Nat := 0xA2
def oPARTITION_DRAIN : Nat := 0xA3
def oPARTITION_SCRUB : Nat := 0xA4
def oPARTITION_RELEASE : Nat := 0xA5
def oKEY_ROTATE : Nat := 0xA6
def oEPOCH_INSTALL : Nat := 0xA7
def oTRAY_FORMAT : Nat := 0xA8
def oTRAY_DETACH : Nat := 0xA9

/-- Whether an opcode is a collective's (Tables 8.6 and 6.4), and its KIND. -/
def opIsColl (o : Nat) : Bool := (Nat.ble 0x30 o && Nat.ble o 0x35) || o == oTOPK || o == oSAMPLE
def collKind (o : Nat) : Nat := if o == oTOPK then 6 else if o == oSAMPLE then 7 else o - 0x30

/-- Whether an opcode is an administrative one (Table 8.9). -/
def opIsAdmin (o : Nat) : Bool := Nat.ble 0xA0 o && Nat.ble o 0xA9

/-- Whether a command is a kernel (R285). -/
def opIsKernel (o : Nat) : Bool :=
  o == oCOPY || o == oFILL || o == oWAIT_COPY || opIsColl o || o == oGATHER || o == oSCATTER || o == oFILTER_SCAN
    || o == oKERNEL_LAUNCH || o == oATTEND || o == oPROJECT || o == oENCODE || o == oCODEBOOK_BUILD

/-- What a parameter field holds, for the checks of R14 and R16. -/
inductive PKind where
  | plain
  /-- Values outside the two are reserved encodings. -/
  | rng (lo hi : Nat)
  /-- A length or count: all ones is reserved (R16). -/
  | len
  /-- A locator, a short address, a counter reference (R279). -/
  | loc | short | cref
deriving DecidableEq, Repr

/-- A parameter field: its first bit, counted from byte 0 of the packet, its width, and what it holds. -/
structure PField where
  lo : Nat
  width : Nat
  kind : PKind
deriving DecidableEq, Repr

/-- A field from byte `b` on. -/
def pf (b width : Nat) (k : PKind := .plain) : PField := ⟨8 * b, width, k⟩

/-- The fields of the matrix, collective and codec rows that name one STG offset. -/
def stgAt8 : List PField := [pf 8 38]

/-- The parameters of an opcode (Tables 8.4 to 8.9); none for an unallocated one. -/
def opFields (o : Nat) : Option (List PField) :=
  if o == oNOP || o == oBARRIER || o == oEPOCH_INSTALL then some []
  else if o == oCANCEL then some [pf 8 10, pf 12 32]
  else if o == oJOB_SUSPEND || o == oJOB_RESUME then some [pf 8 16]
  else if o == oCOPY then some [pf 8 128 .loc, pf 24 128 .loc, pf 40 64 .len]
  else if o == oFILL then some [pf 8 128 .loc, pf 24 64 .len, pf 32 64]
  else if o == oFLUSH_RANGE || o == oPREFETCH then some [pf 8 56, pf 16 64 .len]
  else if o == oTIER_HINT then some [pf 8 56, pf 16 64 .len, pf 24 8 (.rng 0 3)]
  else if o == oCOUNTER_SET then some [pf 8 32 .cref, pf 12 1, pf 16 48, pf 22 16]
  else if o == oCOUNTER_ADD then some [pf 8 32 .cref, pf 12 8 (.rng 1 3), pf 16 48]
  else if o == oWAIT then some [pf 8 32 .cref, pf 12 8 (.rng 1 3), pf 14 48, pf 20 32]
  else if o == oWAIT_COPY then
    some [pf 8 32 .cref, pf 12 8 (.rng 1 3), pf 14 48, pf 20 32, pf 24 128 .loc, pf 40 128 .loc, pf 56 64 .len]
  else if opIsColl o || o == oATTEND || o == oPROJECT then some stgAt8
  else if o == oGATHER || o == oSCATTER then
    some [pf 8 128 .loc, pf 24 38, ⟨8 * 24 + 38, 1, .plain⟩, ⟨8 * 24 + 39, 1, .plain⟩, ⟨8 * 24 + 40, 2, .rng 0 1⟩,
          pf 32 32 .len, pf 36 32 .len, pf 40 64, pf 48 64]
  else if o == oFILTER_SCAN then
    some [pf 8 64 .short, pf 16 32 .len, pf 20 16 .len, pf 22 16, ⟨192, 4, .rng 0 6⟩, ⟨196, 2, .rng 0 2⟩, ⟨198, 1, .plain⟩,
          ⟨200, 4, .rng 0 7⟩, ⟨204, 4, .rng 0 7⟩, pf 32 38, pf 40 64 .short, pf 48 64 .len, pf 56 32]
  else if o == oKERNEL_LAUNCH then
    some [pf 8 38, pf 16 16 .len, pf 18 8 (.rng 0 79), ⟨152, 1, .plain⟩, ⟨153, 1, .plain⟩, pf 20 32, pf 24 32]
  else if o == oENCODE then
    some [pf 8 8, pf 9 8, pf 10 16, pf 12 8, pf 16 64 .short, pf 24 64 .len, pf 32 32, pf 36 32, pf 40 64 .short,
          pf 48 64 .len]
  else if o == oCODEBOOK_BUILD then
    some [pf 8 8, pf 9 8, pf 10 8, pf 11 8, pf 12 8, pf 16 64 .short, pf 24 64 .len, pf 32 32]
  else if o == oCODEBOOK_RETIRE then some [pf 8 8]
  else if o == oVERSION_OPEN then some [pf 8 56, pf 16 8 (.rng 0 1)]
  else if o == oVERSION_CLOSE then some [pf 8 56, pf 16 14, ⟨8 * 16 + 15, 1, .plain⟩]
  else if o == oVERSION_PUBLISH || o == oOWN_CLAIM || o == oOWN_RELEASE then some [pf 8 56, pf 16 32, pf 20 32]
  else if o == oLOST_ACK then some [pf 8 56, pf 16 64 .len, pf 24 1]
  else if o == oPARTITION_RESERVE then some [pf 8 6, pf 9 8 (.rng 0 10), pf 10 16, pf 12 16 .len, pf 14 1]
  else if Nat.ble 0xA0 o && Nat.ble o 0xA5 then some [pf 8 6]
  else if o == oKEY_ROTATE then some [pf 8 6, pf 9 8 (.rng 0 1), pf 10 16]
  else if o == oTRAY_FORMAT || o == oTRAY_DETACH then some [pf 8 5]
  else none

/-- Fields of the packet header (Table 8.1). -/
def slotOp (x : Nat) : Nat := bits x 0 8
def slotBarrier (x : Nat) : Bool := bitAt x 8
def slotNotify (x : Nat) : Bool := bitAt x 9
def slotQuiet (x : Nat) : Bool := bitAt x 10
def slotQueue (x : Nat) : Nat := bits x 16 10
def slotTag (x : Nat) : Nat := bits x 32 32

/-- `width` bits from byte `b` of a packet. -/
def prm (x b width : Nat) : Nat := bits x (8 * b) width

/-- A locator of 16 bytes (Table 8.3). -/
def Locator.of (v : Nat) : Locator :=
  { addr := bits v 0 56, space := bits v 56 2, eid := bits v 64 14, engine := bits v 80 7, countEn := bitAt v 87,
    counter := bits v 88 14, rsv := bits v 58 6 != 0 || bits v 78 2 != 0 || bits v 102 26 != 0 }

/-- A short address of 8 bytes (R279). -/
def Locator.ofShort (v : Nat) : Locator := { addr := bits v 0 56, space := bits v 56 2, rsv := bits v 58 6 != 0 }

/-- Whether an address of 8 bytes is well formed: SPACE 3, bits above an STG or SCR offset and an engine above 79 are
reserved (R279, R283). -/
def Locator.bad (l : Locator) : Bool :=
  l.rsv || l.space == 3 || Nat.ble 80 l.engine || (l.space == 1 && Nat.ble (2 ^ 38) l.addr)
    || (l.space == 0 && (l.eid != 0 || l.engine != 0 || l.counter != 0))

/-- Whether a field breaks R14. -/
def PField.bad (x : Nat) (f : PField) : Bool :=
  let v := bits x f.lo f.width
  match f.kind with
  | .rng lo hi => Nat.blt v lo || Nat.blt hi v
  | .loc => (Locator.of v).bad
  | .short => (Locator.ofShort v).bad
  | .cref => bits v 14 2 != 0 || bits v 30 2 != 0
  | _ => false

/-- Whether a field breaks R16. -/
def PField.allOnes (x : Nat) (f : PField) : Bool := f.kind == .len && bits x f.lo f.width == 2 ^ f.width - 1

/-- The bits of bytes 8 to 63 that an opcode's fields name. -/
def usedMask (l : List PField) : Nat := l.foldl (fun m f => m ||| ((2 ^ f.width - 1) <<< f.lo)) 0

/-- The checks of R14 and R16 on a packet, in the order of R19: the opcode, then reserved bits and encodings, then
lengths. -/
def packetCheck (x : Nat) : Option Status :=
  match opFields (slotOp x) with
  | none => some .opcodeInvalid
  | some l =>
    if bits x 11 5 != 0 || bits x 26 6 != 0 || l.any (fun f => f.bad x)
        || (x >>> 64) <<< 64 != (x >>> 64) <<< 64 &&& usedMask l then some .formatInvalid
    else if l.any (fun f => f.allOnes x) then some .lengthRange
    else none

/-- A counter reference: index and EID. -/
def crefIndex (v : Nat) : Nat := bits v 0 14
def crefEid (v : Nat) : Nat := bits v 16 14

/-- The 128 bits of a locator. -/
def Locator.code (l : Locator) : Nat :=
  setBits (setBits (setBits (setBits (setBits (setBits 0 0 56 l.addr) 56 2 l.space) 64 14 l.eid) 80 7 l.engine) 87 1 (b2n l.countEn)) 88 14
    l.counter

/-! ### Command packets by their fields (Tables 8.1 to 8.10) -/

/-- A parameter: its first bit, its width and its value. -/
structure Par where
  lo : Nat
  width : Nat
  val : Nat
deriving DecidableEq, Repr

/-- A parameter of `width` bits from byte `b` on; a locator and a short address at byte `b`. -/
def par (b width v : Nat) : Par := ⟨8 * b, width, v⟩
def parLoc (b : Nat) (l : Locator) : Par := ⟨8 * b, 128, l.code⟩
def parShort (b : Nat) (l : Locator) : Par := ⟨8 * b, 64, setBits (setBits 0 0 56 l.addr) 56 2 l.space⟩

/-- The 512 bits of the packet of a head, an opcode and parameters. -/
def CmdHead.packet (h : CmdHead) (op : Nat) (l : List Par) : Nat :=
  l.foldl (fun x p => setBits x p.lo p.width p.val)
    (setBits (setBits (setBits (setBits (setBits (setBits 0 0 8 op) 8 1 (b2n h.barrier)) 9 1 (b2n h.notify)) 10 1 (b2n h.quiet)) 16 10
      h.queue.val) 32 32 h.tag)

/-- The parameters of GATHER and SCATTER beside their contiguous span, of FILTER_SCAN, ENCODE and CODEBOOK_BUILD. -/
def RowArgs.pars (a : RowArgs) : List Par :=
  [par 24 38 a.list, ⟨230, 1, b2n a.scrList⟩, ⟨231, 1, b2n a.indexed⟩, ⟨232, 2, a.rowSpace⟩, par 32 32 a.count, par 36 32 a.rowBytes,
   par 40 64 a.base, par 48 64 a.stride]
def ScanArgs.pars (a : ScanArgs) : List Par :=
  [parShort 8 a.records, par 16 32 a.count, par 20 16 a.recordBytes, par 22 16 a.keyOffset, ⟨192, 4, a.keyFmt⟩, ⟨196, 2, a.combine⟩,
   ⟨198, 1, b2n a.wholeRecords⟩, ⟨200, 4, a.op1⟩, ⟨204, 4, a.op2⟩, par 32 38 a.pred, parShort 40 a.output, par 48 64 a.outLen,
   par 56 32 a.baseIndex]
def EncodeArgs.pars (a : EncodeArgs) : List Par :=
  [par 8 8 a.slot, par 9 8 a.rate, par 10 16 a.gen, par 12 8 a.srcFmt, parShort 16 a.src, par 24 64 a.count, par 32 32 a.clip,
   par 36 32 a.tol, parShort 40 a.dst, par 48 64 a.dstLen]
def BuildArgs.pars (a : BuildArgs) : List Par :=
  [par 8 8 a.slot, par 9 8 a.rate, par 10 8 a.mode, par 11 8 a.iter, par 12 8 a.srcFmt, parShort 16 a.src, par 24 64 a.count,
   par 32 32 a.clip]

/-- A counter reference at byte `b` (R279). -/
def parCref (b : Nat) (c : CounterRef) : Par := ⟨8 * b, 32, setBits (setBits 0 0 14 c.index.val) 16 14 c.eid.val⟩

end Sys2Proof.Machine
end

