-- ==== Sys2Proof/Decode.lean ====
section
/-!
DEFINITION. The command that a word spells. No row of spec/opcode_table.json gives its command bits, so no word spells one: commands
reach the part as register accesses, packets, messages and events, and come with their operands. The rows that are command packets
have an encoding of their own, that of Tables 8.1 to 8.9: their packets, and the command that a packet spells.
-/
namespace Sys2Proof
open Sys2Proof.Machine

/-- The command of a word of `nbits` bits: none. -/
def decodeTableWord (_nbits _w : Nat) : Option Instr := none

/-- The head and the 512 bits of a command packet (Tables 8.1 to 8.9); none of a command that is no command packet. -/
def Instr.slot (i : Instr) : Option (CmdHead × Nat) :=
  match i with
  | .nop h => some (h, h.packet oNOP [])
  | .barrier h => some (h, h.packet oBARRIER [])
  | .epochInstall h => some (h, h.packet oEPOCH_INSTALL [])
  | .cancel h queue tag => some (h, h.packet oCANCEL [par 8 10 queue, par 12 32 tag])
  | .jobSuspend h job => some (h, h.packet oJOB_SUSPEND [par 8 16 job])
  | .jobResume h job => some (h, h.packet oJOB_RESUME [par 8 16 job])
  | .copy h src dst len => some (h, h.packet oCOPY [parLoc 8 src, parLoc 24 dst, par 40 64 len])
  | .fill h dst len pattern => some (h, h.packet oFILL [parLoc 8 dst, par 24 64 len, par 32 64 pattern])
  | .flushRange h addr len => some (h, h.packet oFLUSH_RANGE [par 8 56 addr, par 16 64 len])
  | .tierHint h addr len mode => some (h, h.packet oTIER_HINT [par 8 56 addr, par 16 64 len, par 24 8 mode])
  | .prefetch h addr len => some (h, h.packet oPREFETCH [par 8 56 addr, par 16 64 len])
  | .counterSet h c mode value job => some (h, h.packet oCOUNTER_SET [parCref 8 c, par 12 1 mode, par 16 48 value, par 22 16 job])
  | .counterAdd h c scope operand => some (h, h.packet oCOUNTER_ADD [parCref 8 c, par 12 8 scope, par 16 48 operand])
  | .wait h c scope target deadline => some (h, h.packet oWAIT [parCref 8 c, par 12 8 scope, par 14 48 target, par 20 32 deadline])
  | .waitCopy h c scope target deadline src dst len => some (h, h.packet oWAIT_COPY [parCref 8 c, par 12 8 scope, par 14 48 target, par 20 32 deadline, parLoc 24 src, parLoc 40 dst, par 56 64 len])
  | .reduce h plan => some (h, h.packet oREDUCE [par 8 38 plan])
  | .allreduce h plan => some (h, h.packet oALLREDUCE [par 8 38 plan])
  | .reduceScatter h plan => some (h, h.packet oREDUCE_SCATTER [par 8 38 plan])
  | .allgather h plan => some (h, h.packet oALLGATHER [par 8 38 plan])
  | .broadcast h plan => some (h, h.packet oBROADCAST [par 8 38 plan])
  | .smaxMerge h plan => some (h, h.packet oSMAX_MERGE [par 8 38 plan])
  | .topk h plan => some (h, h.packet oTOPK [par 8 38 plan])
  | .sample h plan => some (h, h.packet oSAMPLE [par 8 38 plan])
  | .gather h dst a => some (h, h.packet oGATHER (parLoc 8 dst :: a.pars))
  | .scatter h src a => some (h, h.packet oSCATTER (parLoc 8 src :: a.pars))
  | .filterScan h a => some (h, h.packet oFILTER_SCAN a.pars)
  | .kernelLaunch h chain packets engine anyCell compat core clocked => some (h, h.packet oKERNEL_LAUNCH [par 8 38 chain, par 16 16 packets, par 18 8 engine, ⟨152, 1, b2n anyCell⟩, ⟨153, 1, b2n compat⟩, par 20 32 core, par 24 32 clocked])
  | .attend h desc => some (h, h.packet oATTEND [par 8 38 desc])
  | .project h desc => some (h, h.packet oPROJECT [par 8 38 desc])
  | .encode h a => some (h, h.packet oENCODE a.pars)
  | .codebookBuild h a => some (h, h.packet oCODEBOOK_BUILD a.pars)
  | .codebookRetire h slot => some (h, h.packet oCODEBOOK_RETIRE [par 8 8 slot])
  | .versionOpen h addr mode => some (h, h.packet oVERSION_OPEN [par 8 56 addr, par 16 8 mode])
  | .versionClose h addr other => some (h, h.packet oVERSION_CLOSE [par 8 56 addr, par 16 14 ((other.map (·.val)).getD 0), ⟨143, 1, b2n other.isSome⟩])
  | .versionPublish h addr base working => some (h, h.packet oVERSION_PUBLISH [par 8 56 addr, par 16 32 base, par 20 32 working])
  | .ownClaim h addr expected new => some (h, h.packet oOWN_CLAIM [par 8 56 addr, par 16 32 expected, par 20 32 new])
  | .ownRelease h addr expected next => some (h, h.packet oOWN_RELEASE [par 8 56 addr, par 16 32 expected, par 20 32 next])
  | .lostAck h addr len all => some (h, h.packet oLOST_ACK [par 8 56 addr, par 16 64 len, par 24 1 (b2n all)])
  | .partitionCreate h part => some (h, h.packet oPARTITION_CREATE [par 8 6 part.val])
  | .partitionReserve h part kind first count ret => some (h, h.packet oPARTITION_RESERVE [par 8 6 part.val, par 9 8 kind, par 10 16 first, par 12 16 count, par 14 1 (b2n ret)])
  | .partitionSeal h part => some (h, h.packet oPARTITION_SEAL [par 8 6 part.val])
  | .partitionDrain h part => some (h, h.packet oPARTITION_DRAIN [par 8 6 part.val])
  | .partitionScrub h part => some (h, h.packet oPARTITION_SCRUB [par 8 6 part.val])
  | .partitionRelease h part => some (h, h.packet oPARTITION_RELEASE [par 8 6 part.val])
  | .keyRotate h part kind port => some (h, h.packet oKEY_ROTATE [par 8 6 part.val, par 9 8 kind, par 10 16 port])
  | .trayFormat h tray => some (h, h.packet oTRAY_FORMAT [par 8 5 tray.val])
  | .trayDetach h tray => some (h, h.packet oTRAY_DETACH [par 8 5 tray.val])
  | _ => none

/-- The head of a command packet that comes from `f` (Table 8.1). -/
def CmdHead.ofSlot (f : CmdFrom) (x : Nat) : CmdHead :=
  { from_ := f, queue := Fin.ofNat 1024 (slotQueue x), barrier := slotBarrier x, notify := slotNotify x, quiet := slotQuiet x, tag := slotTag x }

/-- A counter reference, and the arguments of the commands that have many, as a packet spells them (R279, Tables 8.6 and 8.7). -/
def CounterRef.ofSlot (x b : Nat) : CounterRef :=
  { index := Fin.ofNat 16384 (crefIndex (prm x b 32)), eid := Fin.ofNat 16384 (crefEid (prm x b 32)) }
def RowArgs.ofSlot (x : Nat) : RowArgs :=
  { list := prm x 24 38, scrList := bitAt x 230, indexed := bitAt x 231, rowSpace := bits x 232 2, count := prm x 32 32,
    rowBytes := prm x 36 32, base := prm x 40 64, stride := prm x 48 64 }
def ScanArgs.ofSlot (x : Nat) : ScanArgs :=
  { records := Locator.ofShort (prm x 8 64), count := prm x 16 32, recordBytes := prm x 20 16, keyOffset := prm x 22 16,
    keyFmt := bits x 192 4, combine := bits x 196 2, wholeRecords := bitAt x 198, op1 := bits x 200 4, op2 := bits x 204 4,
    pred := prm x 32 38, output := Locator.ofShort (prm x 40 64), outLen := prm x 48 64, baseIndex := prm x 56 32 }
def EncodeArgs.ofSlot (x : Nat) : EncodeArgs :=
  { slot := prm x 8 8, rate := prm x 9 8, gen := prm x 10 16, srcFmt := prm x 12 8, src := Locator.ofShort (prm x 16 64),
    count := prm x 24 64, clip := prm x 32 32, tol := prm x 36 32, dst := Locator.ofShort (prm x 40 64), dstLen := prm x 48 64 }
def BuildArgs.ofSlot (x : Nat) : BuildArgs :=
  { slot := prm x 8 8, rate := prm x 9 8, mode := prm x 10 8, iter := prm x 11 8, srcFmt := prm x 12 8,
    src := Locator.ofShort (prm x 16 64), count := prm x 24 64, clip := prm x 32 32 }

/-- The command that a command packet of source `f` spells (Tables 8.1 to 8.9); none for an unallocated opcode. -/
def decodeSlot (f : CmdFrom) (x : Nat) : Option Instr :=
  let h := CmdHead.ofSlot f x
  let o := slotOp x
  if o == oNOP then some (.nop h)
  else if o == oBARRIER then some (.barrier h)
  else if o == oEPOCH_INSTALL then some (.epochInstall h)
  else if o == oCANCEL then some (.cancel h (prm x 8 10) (prm x 12 32))
  else if o == oJOB_SUSPEND then some (.jobSuspend h (prm x 8 16))
  else if o == oJOB_RESUME then some (.jobResume h (prm x 8 16))
  else if o == oCOPY then some (.copy h (Locator.of (prm x 8 128)) (Locator.of (prm x 24 128)) (prm x 40 64))
  else if o == oFILL then some (.fill h (Locator.of (prm x 8 128)) (prm x 24 64) (prm x 32 64))
  else if o == oFLUSH_RANGE then some (.flushRange h (prm x 8 56) (prm x 16 64))
  else if o == oTIER_HINT then some (.tierHint h (prm x 8 56) (prm x 16 64) (prm x 24 8))
  else if o == oPREFETCH then some (.prefetch h (prm x 8 56) (prm x 16 64))
  else if o == oCOUNTER_SET then some (.counterSet h (CounterRef.ofSlot x 8) (prm x 12 1) (prm x 16 48) (prm x 22 16))
  else if o == oCOUNTER_ADD then some (.counterAdd h (CounterRef.ofSlot x 8) (prm x 12 8) (prm x 16 48))
  else if o == oWAIT then some (.wait h (CounterRef.ofSlot x 8) (prm x 12 8) (prm x 14 48) (prm x 20 32))
  else if o == oWAIT_COPY then some (.waitCopy h (CounterRef.ofSlot x 8) (prm x 12 8) (prm x 14 48) (prm x 20 32) (Locator.of (prm x 24 128)) (Locator.of (prm x 40 128)) (prm x 56 64))
  else if o == oREDUCE then some (.reduce h (prm x 8 38))
  else if o == oALLREDUCE then some (.allreduce h (prm x 8 38))
  else if o == oREDUCE_SCATTER then some (.reduceScatter h (prm x 8 38))
  else if o == oALLGATHER then some (.allgather h (prm x 8 38))
  else if o == oBROADCAST then some (.broadcast h (prm x 8 38))
  else if o == oSMAX_MERGE then some (.smaxMerge h (prm x 8 38))
  else if o == oTOPK then some (.topk h (prm x 8 38))
  else if o == oSAMPLE then some (.sample h (prm x 8 38))
  else if o == oGATHER then some (.gather h (Locator.of (prm x 8 128)) (RowArgs.ofSlot x))
  else if o == oSCATTER then some (.scatter h (Locator.of (prm x 8 128)) (RowArgs.ofSlot x))
  else if o == oFILTER_SCAN then some (.filterScan h (ScanArgs.ofSlot x))
  else if o == oKERNEL_LAUNCH then some (.kernelLaunch h (prm x 8 38) (prm x 16 16) (prm x 18 8) (bitAt x 152) (bitAt x 153) (prm x 20 32) (prm x 24 32))
  else if o == oATTEND then some (.attend h (prm x 8 38))
  else if o == oPROJECT then some (.project h (prm x 8 38))
  else if o == oENCODE then some (.encode h (EncodeArgs.ofSlot x))
  else if o == oCODEBOOK_BUILD then some (.codebookBuild h (BuildArgs.ofSlot x))
  else if o == oCODEBOOK_RETIRE then some (.codebookRetire h (prm x 8 8))
  else if o == oVERSION_OPEN then some (.versionOpen h (prm x 8 56) (prm x 16 8))
  else if o == oVERSION_CLOSE then some (.versionClose h (prm x 8 56) (if bitAt x 143 then some (Fin.ofNat 16384 (prm x 16 14)) else none))
  else if o == oVERSION_PUBLISH then some (.versionPublish h (prm x 8 56) (prm x 16 32) (prm x 20 32))
  else if o == oOWN_CLAIM then some (.ownClaim h (prm x 8 56) (prm x 16 32) (prm x 20 32))
  else if o == oOWN_RELEASE then some (.ownRelease h (prm x 8 56) (prm x 16 32) (prm x 20 32))
  else if o == oLOST_ACK then some (.lostAck h (prm x 8 56) (prm x 16 64) (bitAt x 192))
  else if o == oPARTITION_CREATE then some (.partitionCreate h (Fin.ofNat 64 (prm x 8 6)))
  else if o == oPARTITION_RESERVE then some (.partitionReserve h (Fin.ofNat 64 (prm x 8 6)) (prm x 9 8) (prm x 10 16) (prm x 12 16) (bitAt x 112))
  else if o == oPARTITION_SEAL then some (.partitionSeal h (Fin.ofNat 64 (prm x 8 6)))
  else if o == oPARTITION_DRAIN then some (.partitionDrain h (Fin.ofNat 64 (prm x 8 6)))
  else if o == oPARTITION_SCRUB then some (.partitionScrub h (Fin.ofNat 64 (prm x 8 6)))
  else if o == oPARTITION_RELEASE then some (.partitionRelease h (Fin.ofNat 64 (prm x 8 6)))
  else if o == oKEY_ROTATE then some (.keyRotate h (Fin.ofNat 64 (prm x 8 6)) (prm x 9 8) (prm x 10 16))
  else if o == oTRAY_FORMAT then some (.trayFormat h (Fin.ofNat 32 (prm x 8 5)))
  else if o == oTRAY_DETACH then some (.trayDetach h (Fin.ofNat 32 (prm x 8 5)))
  else none

end Sys2Proof
end

