-- ==== Sys2Proof/Machine/Home.lean ====
section
/-!
DEFINITION. The home agent (spec/04_coherence.md): the directory, requests and their transactions, snoops and crossings,
waiting, combining, atomics, failed hosts and the lost-line table; versions of regions at the home (R186 to R191).
-/
namespace Sys2Proof.Machine

/-- Whether EID `e` is a caching host of partition `p` here (R125, R163). -/
def Chip.cachingHost (s : Chip) (p e : Nat) : Bool :=
  let a := A.HOM_HOST e
  s.flag a F.HOM_HOST_ASSIGNED && s.flag a F.HOM_HOST_CACHING && s.rd a F.HOM_HOST_PARTITION == p

/-- Whether EID `e` has been declared failed and not cleared (R155, R160). -/
def Chip.hostFailed (s : Chip) (e : Nat) : Bool := s.flag (A.HOM_HOST e) F.HOM_HOST_FAILED

/-- The caching hosts of the EID group `g` that are not failed (R136). -/
def Chip.groupHosts (s : Chip) (g : Nat) : List Nat :=
  (s.listed (A.HOM_HOST 0) 8 16384).filter (fun e =>
    e / 256 == g && s.flag (A.HOM_HOST e) F.HOM_HOST_CACHING && !s.hostFailed e)

/-- The 8-bit fold of a line's address, H of R129. -/
def lineHash (line : Nat) : Nat :=
  bits line 0 8 ^^^ bits line 8 8 ^^^ bits line 16 8 ^^^ bits line 24 8 ^^^ bits line 32 8 ^^^ bits line 40 8 ^^^ bits line 48 2

/-- The directory banks of partition `p`, ascending. -/
def Chip.banksOf (s : Chip) (p : Nat) : List Nat :=
  (upFrom 0 256).filter (fun b => s.owner (A.PTN_OWN_BANK 0 + 2 * b) == some p)

/-- The bank of a line of partition `p` (R129). -/
def Chip.bankOf (s : Chip) (p line : Nat) : Option Nat :=
  let l := s.banksOf p
  l[lineHash line % max 1 l.length]?

/-- The set of a line within its bank: A[16:6]. -/
def setOf (line : Nat) : Nat := line % 2048

def Chip.bank (s : Chip) (b : Nat) : Bank := (s.pool.banks.find b).getD {}

def Chip.modBank (s : Chip) (b : Nat) (f : Bank → Bank) : Chip :=
  s.modPool (fun q => { q with banks := q.banks.put b (f (s.bank b)) })

/-- The ways of a set, least recently used first. -/
def Chip.ways (s : Chip) (b line : Nat) : List Entry := ((s.bank b).sets.find (setOf line)).getD []

def Chip.setWays (s : Chip) (b line : Nat) (l : List Entry) : Chip :=
  s.modBank b (fun k => { k with sets := k.sets.put (setOf line) l })

/-- The recorded state of a line. -/
def Chip.dirOf (s : Chip) (b line : Nat) : Dir :=
  match (s.ways b line).find? (fun e => e.line == line) with
  | some e => e.state
  | none => .invalid

/-- A line's entry now says `d`, with the open transaction `t`; an Invalid line has no entry. It becomes the most recently
used way. -/
def Chip.setEntry (s : Chip) (b line : Nat) (d : Dir) (t : Option Nat) : Chip :=
  let rest := (s.ways b line).filter (fun e => e.line != line)
  if d == .invalid && t.isNone then s.setWays b line rest
  else s.setWays b line (rest ++ [⟨line, d, t⟩])

/-- The open transaction on a line. -/
def Chip.lineTxn (s : Chip) (line : Nat) : Option (Nat × HTxn) := s.pool.txns.find? (fun e => e.2.line == line)

def Chip.setTxn (s : Chip) (i : Nat) (t : HTxn) : Chip := s.modPool (fun q => { q with txns := q.txns.put i t })

/-- Transaction slots of a bank in use: open transactions and waiting requests (Table 4.3, R143). -/
def Chip.slotsUsed (s : Chip) (b : Nat) : Nat :=
  (s.pool.txns.filter (fun e => e.1 / 256 == b)).length + (s.pool.waits.filter (fun w => w.bank == b)).length

/-- The lowest index of bank `b` that no open transaction has. -/
def Chip.freshTxn (s : Chip) (b : Nat) : Option Nat :=
  ((upFrom 0 256).find? (fun k => (s.pool.txns.find (256 * b + k)).isNone)).map (256 * b + ·)

/-- Entries of the back-invalidation buffer of a bank in use. -/
def Chip.backUsed (s : Chip) (b : Nat) : Nat :=
  (s.pool.txns.filter (fun e => e.1 / 256 == b && e.2.kind == .backInval)).length

/-! ### The lost-line table (R156 to R159) -/

/-- What the lost-line table says of a line. -/
inductive LostHit where
  | clear
  /-- Covered only by LINE entries, the numbers given. -/
  | byLine (is : List Nat)
  /-- Covered by a TILE entry or a wide bit. -/
  | covered
  /-- An entry failed its check. -/
  | broken (i : Nat)
deriving DecidableEq, Repr

/-- The valid entries. -/
def Chip.lostEntries (s : Chip) : List Nat :=
  (s.listed (A.HOM_LOST 0) 16 65536).filter (fun i => s.flag (A.HOM_LOST i) F.HOM_LOST_VALID)

/-- The line number an entry records. -/
def Chip.lostLine (s : Chip) (i : Nat) : Nat := s.rd (A.HOM_LOST i) F.HOM_LOST_ADDR

/-- The table looked up for a line of partition `p` (R158). -/
def Chip.lostHit (s : Chip) (p line : Nat) : LostHit :=
  let l := s.listed (A.HOM_LOST 0) 16 65536
  match l.find? (fun i => !s.checked (A.HOM_LOST i) 1) with
  | some i => .broken i
  | none =>
    let mine := s.lostEntries.filter (fun i => s.rd (A.HOM_LOST i) F.HOM_LOST_PARTITION == p)
    let tile := mine.any (fun i => s.flag (A.HOM_LOST i) F.HOM_LOST_GRAN && s.lostLine i / 256 == line / 256)
    let ls := mine.filter (fun i => !s.flag (A.HOM_LOST i) F.HOM_LOST_GRAN && s.lostLine i == line)
    if tile || bitAt (s.rd A.HOM_LOST_WIDE F.HOM_LOST_WIDE_WIDE) p then .covered
    else if ls.isEmpty then .clear else .byLine ls

/-- LOST_USED brought up to date. -/
def Chip.syncLost (s : Chip) : Chip := s.wr A.HOM_STATUS F.HOM_STATUS_LOST_USED s.lostEntries.length

/-- An entry written. -/
def Chip.writeLost (s : Chip) (i : Nat) (valid : Bool) (gran p line : Nat) : Chip :=
  let a := A.HOM_LOST i
  ((((s.wrP a 1 F.HOM_LOST_VALID (b2n valid)).wrP a 1 F.HOM_LOST_GRAN gran).wrP a 1 F.HOM_LOST_PARTITION p).wrP a 1
    F.HOM_LOST_ADDR line).syncLost

/-- The lowest entry of [lo, hi) that is not valid. -/
def Chip.freeLost (s : Chip) (lo hi : Nat) : Option Nat :=
  let used := s.lostEntries
  (lo :: used.map (· + 1)).foldl (fun best i =>
    if Nat.ble lo i && Nat.blt i hi && !used.contains i then
      match best with | some b => some (min b i) | none => some i
    else best) none

/-- A line is recorded as lost (R157). -/
def Chip.addLost (s : Chip) (p line : Nat) : Chip :=
  match s.freeLost 0 57344 with
  | some i => s.writeLost i true 0 p line
  | none =>
    if s.lostEntries.any (fun i => s.flag (A.HOM_LOST i) F.HOM_LOST_GRAN && s.lostLine i / 256 == line / 256
        && s.rd (A.HOM_LOST i) F.HOM_LOST_PARTITION == p) then s
    else
      match s.freeLost 57344 65536 with
      | some i => (s.writeLost i true 1 p (line / 256 * 256)).wrB A.HOM_STATUS F.HOM_STATUS_TILE_MODE_SEEN true
      | none =>
        let w := s.rd A.HOM_LOST_WIDE F.HOM_LOST_WIDE_WIDE
        if bitAt w p then s
        else (s.wr A.HOM_LOST_WIDE F.HOM_LOST_WIDE_WIDE (putBit w p true)).wrB A.HOM_STATUS F.HOM_STATUS_WIDE_SEEN true

/-- LOST_ACK at the home (R159): the partition's entries inside the span, or all of them and its wide bit. -/
def Chip.ackLost (s : Chip) (p addr len : Nat) (all : Bool) : Chip :=
  let inside (i : Nat) : Bool :=
    let a := s.lostLine i * 64
    let n := if s.flag (A.HOM_LOST i) F.HOM_LOST_GRAN then 16384 else 64
    all || (Nat.ble addr a && Nat.ble (a + n) (addr + len))
  let s := (s.lostEntries.filter (fun i => s.rd (A.HOM_LOST i) F.HOM_LOST_PARTITION == p && inside i)).foldl
    (fun s i => s.writeLost i false 0 0 0) s
  if all then s.wr A.HOM_LOST_WIDE F.HOM_LOST_WIDE_WIDE (putBit (s.rd A.HOM_LOST_WIDE F.HOM_LOST_WIDE_WIDE) p false) else s

/-! ### Versions of regions (R186 to R191) -/

/-- The valid region of partition `p` that covers a tile. -/
def Chip.regionOf (s : Chip) (p t : Nat) : Option Nat :=
  (s.listed (A.HOM_VREGION 0) 32 4096).find? (fun i =>
    let a := A.HOM_VREGION i
    s.flag a F.HOM_VREGION_VALID && s.rd a F.HOM_VREGION_PARTITION == p
      && Nat.ble (s.rd a F.HOM_VREGION_BASE_TILE) t
      && Nat.blt t (s.rd a F.HOM_VREGION_BASE_TILE + s.rd a F.HOM_VREGION_TILES))

/-- The live version of a number. -/
def Chip.version (s : Chip) (i n : Nat) : Option Version :=
  s.pool.versions.find? (fun v => v.region == i && v.number == n)

/-- The view of EID `e` on region `i`. -/
def Chip.viewOf (s : Chip) (e i : Nat) : Option View := s.pool.views.find? (fun v => v.eid == e && v.region == i)

/-- The store that holds a tile of a version: its own copy or an inherited one; 0: the tile itself. -/
def Chip.storeOf (s : Chip) (i n t : Nat) : Nat :=
  match s.version i n with
  | some v => (v.map.find (t - s.rd (A.HOM_VREGION i) F.HOM_VREGION_BASE_TILE)).getD 0
  | none => 0

/-- LIVE brought up to date: CURRENT, the versions held by views and the working ones. -/
def Chip.syncLive (s : Chip) (i : Nat) : Chip :=
  s.wr (A.HOM_VREGION i) F.HOM_VREGION_LIVE ((s.pool.versions.filter (fun v => v.region == i)).length)

/-- The first write to a tile of a working version: the base's tile is copied to a free frame (R189). None where no frame
is free. HOME lines of the base that the tray does not hold yet are copied in the cache. -/
def Chip.copyOnWrite (s : Chip) (p i : Nat) (v : Version) (t : Nat) : Option (Chip × Nat) :=
  match s.homed t with
  | none => none
  | some r =>
    let base := s.storeOf i v.number t
    let e := s.tile t
    let src : Nat × Nat := match s.pool.stores.find base with
      | some st => (st.tray, st.frame)
      | none => (e.dramTray, e.dramFrame)
    let chans := s.dramChannels p (s.rng r F.PTN_RANGE_TRAY_MASK)
    let near := chans.filter (fun c => c.1 == src.1)
    match s.freeFrameIn (near ++ chans) with
    | none => none
    | some (n, f) =>
      let id := s.pool.nextStore
      let filled := if base != 0 then 2 ^ 64 - 1 else if e.state == .zero then 0 else e.filled
      let newest := s.rd (A.KEY_MEM p) F.KEY_MEM_NEWEST
      let s := s.takeFrame n f (storeMark + id)
      let s := if e.state == .zero then s.modTile t (fun x => { x with keyGen := newest }) else s
      let s := s.modPool (fun q =>
        { q with
          nextStore := id + 1
          stores := q.stores.put id ⟨t, n, f, false⟩
          versions := q.versions.map (fun w => if w == v then
            { w with map := w.map.put (t - s.rd (A.HOM_VREGION i) F.HOM_VREGION_BASE_TILE) id, own := t :: w.own } else w) })
      let k0 := cacheKey p roleHOME base (256 * t)
      let lines := s.pool.cache.filter (fun x => Nat.ble k0 x.1 && Nat.blt x.1 (k0 + 256))
      let s := lines.foldl (fun s x => s.putLine p roleHOME id (keyLine x.1) x.2.data) s
      let pend := s.pool.ops.filter (fun o => o.tile == t && o.store == base && o.write.isSome)
      let s := pend.foldl (fun s o => s.addOp t id o.sector o.write .evict) s
      let (sch, si) := chanOf (s.tray src.1).ident.dramCap src.2 0
      let (dch, di) := chanOf (s.tray n).ident.dramCap f 0
      if filled == 2 ^ 64 - 1 && src.1 == n && !s.trayIsC n then
        some (s.sendTray { tray := n, job := .copy t id, op := 5, srcCh := sch, srcIndex := si, dstCh := dch, dstIndex := di }
          0 [] false false p, id)
      else
        let x := s.pool.nextXfer
        let key := s.memKey p (s.tile t).keyGen
        let s := s.modPool (fun q =>
          { q with nextXfer := x + 1, xfers := q.xfers.put x ⟨t, .version id, src.1, src.2, n, f, key, key, filled⟩ })
        some ((s.xferNext x 0).1, id)

/-- Stores that no live version reaches any more are freed. Where no live version reaches a tile itself, the frame of
CURRENT's copy becomes the tile's own (log entry 23). -/
def Chip.retireStores (s : Chip) (p i : Nat) : Chip :=
  let live := s.pool.versions.filter (fun v => v.region == i)
  let base := s.rd (A.HOM_VREGION i) F.HOM_VREGION_BASE_TILE
  let tiles := s.rd (A.HOM_VREGION i) F.HOM_VREGION_TILES
  let mine := s.pool.stores.filter (fun e => Nat.ble base e.2.tile && Nat.blt e.2.tile (base + tiles))
  let reached (id : Nat) : Bool := live.any (fun v => v.map.any (fun m => m.2 == id))
  let s := (mine.filter (fun e => !reached e.1)).foldl (fun s e =>
    let s := (s.dropFrame e.2.tray e.2.frame).modPool (fun q => { q with stores := q.stores.erase e.1 })
    let k0 := cacheKey p roleHOME e.1 (256 * e.2.tile)
    s.modPool (fun q => { q with cache := q.cache.filter (fun x => !(Nat.ble k0 x.1 && Nat.blt x.1 (k0 + 256))) })) s
  -- tiles that every live version holds as one and the same copy
  (distinct (mine.filterMap (fun e => if reached e.1 then some e.2.tile else none))).foldl (fun s t =>
    let ids := distinct (live.map (fun v => (v.map.find (t - base)).getD 0))
    match ids with
    | [id] =>
      if id == 0 then s
      else
        match s.pool.stores.find id with
        | none => s
        | some st =>
          if !st.ready then s
          else
            let e := s.tile t
            let s := if e.framed then s.dropFrame e.dramTray e.dramFrame else s
            let s := s.takeFrame st.tray st.frame t
            let newest := s.rd (A.KEY_MEM p) F.KEY_MEM_NEWEST
            let s := s.modTile t (fun x =>
              { x with state := .dramClean, dramTray := st.tray, dramFrame := st.frame, framed := true, filled := 2 ^ 64 - 1,
                       keyGen := if x.state == .zero then newest else x.keyGen })
            let k0 := cacheKey p roleHOME id (256 * t)
            let k1 := cacheKey p roleHOME 0 (256 * t)
            let moved := s.pool.cache.filter (fun x => Nat.ble k0 x.1 && Nat.blt x.1 (k0 + 256))
            let s := s.modPool (fun q =>
              { q with
                cache := q.cache.filter (fun x => !(Nat.ble k0 x.1 && Nat.blt x.1 (k0 + 256)) && !(Nat.ble k1 x.1 && Nat.blt x.1 (k1 + 256)))
                stores := q.stores.erase id
                ops := q.ops.map (fun o => if o.store == id then { o with store := 0 } else o)
                versions := q.versions.map (fun v => if v.region == i then
                  { v with map := v.map.erase (t - base), own := v.own.filter (fun x => x != t) } else v) })
            s.modPool (fun q => { q with cache := moved.foldl (fun c x => c.put (k1 + (x.1 - k0)) x.2) q.cache })
    | _ => s) s

/-- Versions that are neither CURRENT, nor held by a view, nor working are retired (R191). -/
def Chip.retireVersions (s : Chip) (i : Nat) : Chip :=
  let cur := s.rd (A.HOM_VREGION i) F.HOM_VREGION_CURRENT
  let p := s.rd (A.HOM_VREGION i) F.HOM_VREGION_PARTITION
  let held (v : Version) : Bool := v.number == cur || s.pool.views.any (fun w => w.region == i && w.version == v.number)
  let gone := s.pool.versions.filter (fun v => v.region == i && !held v)
  let s := gone.foldl (fun s v =>
    match v.mapAt with
    | some (k, n) => (upFrom 0 n).foldl (fun s j => s.modPool (fun q => { q with frames := q.frames.erase (k + j) })) s
    | none => s) s
  let s := s.modPool (fun q => { q with versions := q.versions.filter (fun v => v.region != i || held v) })
  (s.retireStores p i).syncLive i

/-- A view ends; an unpublished working version goes with it (R191). -/
def Chip.closeView (s : Chip) (e i : Nat) : Chip :=
  (s.modPool (fun q => { q with views := q.views.filter (fun v => !(v.eid == e && v.region == i)) })).retireVersions i

/-! ### Completions -/

/-- A completion packet of the home to the sender of `p` (R135). -/
def Chip.complete (s : Chip) (p : Packet) (c : Coh) (payload : List Byte) : Chip :=
  let d := Coh.ofBody p.body
  s.send { cls := if cohIsData c.msg then clsCOH_DATA else clsCOH, tc := p.tc, partition := p.partition, dst := p.src,
           src := s.selfEid, segs := if cohIsData c.msg then 1 else 0, payload := payload,
           body := Coh.body { c with tag := d.tag, saddr := d.saddr } }

/-- The General Media event of a mode D gang (R123). -/
def Chip.mediaEvent (s : Chip) (g : Nat) (st : Status) (addr : Nat) : Chip :=
  let h := s.pool.nextHandle
  s.modPool (fun q =>
    { q with media := q.media.put g ((q.media.find g).getD [] ++ [⟨h, st.code, addr, s.tb⟩]), nextHandle := h + 1 })

/-- A CPU's request that ends with an error: MemData-NXM for a read, completed and discarded for a write (R123). -/
def Chip.gangError (s : Chip) (g tag : Nat) (st : Status) (part addr : Nat) : Chip :=
  let s := if st == .uncorrectable || st == .keyRetired then s
    else s.log { status := st, subsys := .tierManager, partition := some part, addrKind := 1, addr := addr, port := 4 * g }
  (s.mediaEvent g st addr).emitOut (.cxlAnswer g tag none)

/-- A request's failing status: the record of it (R442) and the Err completion, or the CPU's answer. The tier manager has
written the record of UNCORRECTABLE and KEY_RETIRED, which only it assigns. -/
def Chip.homeErr (s : Chip) (p : Packet) (gang : Option (Nat × Nat)) (st : Status) : Chip :=
  let c := Coh.ofBody p.body
  match gang with
  | some (g, tag) => s.gangError g tag st p.partition (c.saddr * 256)
  | none =>
    let s := if st.isError && st != .uncorrectable && st != .keyRetired then
        s.log { status := st, subsys := .homeAgent, partition := some p.partition, addrKind := 1, addr := c.saddr * 256,
                srcEid := p.src, tag := c.tag }
      else s
    s.complete p { msg := mErr, status := st.code, lmask := c.lmask } []

/-- The failing line of a request that comes first in line order (R133). -/
def HomeReq.firstFailure (r : HomeReq) : Option Status :=
  (argMin (fun (e : Nat) => e) (r.failed.map (·.1))).bind (fun j => (r.failed.find? (fun e => e.1 == j)).map (·.2))

/-- A request whose every line has ended is completed (R133, R135). -/
def Chip.finishReq (s : Chip) (k : Nat) : Chip :=
  match s.pool.reqs.find k with
  | none => s
  | some r =>
    if !r.left.isEmpty then s
    else
      let s := s.modPool (fun q => { q with reqs := q.reqs.erase k })
      let c := Coh.ofBody r.pkt.body
      match r.firstFailure with
      | some st => s.homeErr r.pkt r.gang st
      | none =>
        match r.gang with
        | some (g, tag) =>
          s.emitOut (.cxlAnswer g tag (if c.msg == mWrBack then some [] else
            some ((r.data.head?.map (·.2)).getD [])))
        | none =>
          if c.msg == mWrBack then s.complete r.pkt { msg := mWbAck, lmask := c.lmask, consumed := r.consumed } []
          else if c.msg == mCleanEvict then s.complete r.pkt { msg := mEvictAck, lmask := c.lmask } []
          else if c.msg == mAtomicAny && !r.near then
            s.complete r.pkt { msg := mAtomicRsp, lmask := c.lmask, combined := r.combined, aop := c.aop, size := c.size,
                               offset := c.offset, opa := r.old } []
          else
            s.complete r.pkt { msg := mData, lmask := c.lmask, grant := r.grant, near := r.near, combined := r.combined }
              (payloadOf r.data)

/-- A line of a request ends. -/
def Chip.endLine (s : Chip) (k j : Nat) (f : HomeReq → HomeReq) : Chip :=
  (s.modPool (fun q => { q with reqs := q.reqs.mapAt k (fun r => f { r with left := r.left.filter (fun x => x != j) }) })).finishReq k

/-- A line of a request fails. -/
def Chip.failLine (s : Chip) (k j : Nat) (st : Status) : Chip :=
  s.endLine k j (fun r => { r with failed := r.failed ++ [(j, st)] })

/-! ### Opening a transaction -/

/-- Directory states of a set of holders (Table 4.2). -/
def dirOfHolders (es : List Nat) : Dir :=
  if es.isEmpty then .invalid
  else if Nat.ble es.length 4 then .shared es
  else .coarse (distinct (es.map (· / 256)))

/-- A state with the hosts `es` added as sharers. -/
def Dir.addSharers (d : Dir) (es : List Nat) : Dir :=
  match d with
  | .invalid | .owned _ => dirOfHolders (distinct es)
  | .shared l => dirOfHolders (distinct (l ++ es))
  | .coarse gs => .coarse (distinct (gs ++ es.map (· / 256)))

/-- The hosts a state records as sharers, a coarse group in full. -/
def Chip.sharers (s : Chip) (d : Dir) : List Nat :=
  match d with
  | .shared l => l
  | .coarse gs => gs.flatMap s.groupHosts
  | _ => []

/-- The snoops that Table 4.6 sends for a request of host `r` on a line in state `d`. -/
def Chip.snoopsFor (s : Chip) (k : TxnKind) (d : Dir) (r : Nat) : List Snoop :=
  match d with
  | .invalid => []
  | .owned x =>
    match k with
    | .rdShared => [{ eid := x, kind := .share, owner := true }]
    | .rdCurrent => [{ eid := x, kind := .cur, owner := true }]
    | .wrBack => if x == r then [] else [{ eid := x, kind := .inv, owner := true }]
    | .evict => []
    | _ => [{ eid := x, kind := .inv, owner := true }]
  | d =>
    match k with
    | .rdOwn | .near => ((s.sharers d).filter (fun e => e != r)).map (fun e => { eid := e, kind := .inv, owner := false })
    | .wrBack | .far | .backInval => (s.sharers d).map (fun e => { eid := e, kind := .inv, owner := false })
    | _ => []

/-- The message of a snoop. -/
def SnoopKind.msg : SnoopKind → Nat
  | .inv => mSnpInv
  | .share => mSnpShare
  | .cur => mSnpCur

/-- The snoops of transaction `i` are sent, with FENCE, each with its timer; a failed host answers RspI at once (R134,
R136, R142). -/
def Chip.sendSnoops (s : Chip) (i tc : Nat) (t : HTxn) : Chip :=
  let sent : List Snoop := t.snoops.map (fun (x : Snoop) =>
    if s.hostFailed x.eid then { x with done := true, gone := true } else x)
  let t : HTxn := { t with snoops := sent }
  (sent.filter (fun (x : Snoop) => !x.done)).foldl (fun (s : Chip) (x : Snoop) =>
    (s.startTimer (.snoop i x.eid) s.txnTimeout).send
      { cls := clsCOH, tc := tc, partition := t.part, dst := x.eid, src := s.selfEid, fence := true,
        body := Coh.body { msg := x.kind.msg, lmask := 2 ^ (t.line % 4), txn := i, saddr := t.line / 4 } })
    (s.setTxn i t)

/-- The predictor counter of a line's bank at A[9:6] XOR A[13:10] (R152). -/
def predIndex (line : Nat) : Nat := bits line 0 4 ^^^ bits line 4 4

/-- The predictor is updated by an AtomicAny of host `r` (R152). -/
def Chip.predict (s : Chip) (b line r : Nat) (busy : Bool) : Chip :=
  let contended := busy || (match s.dirOf b line with
    | .owned x => x != r
    | .shared l => l.any (fun e => e != r)
    | .coarse _ => true
    | .invalid => false)
  s.modBank b (fun k =>
    { k with pred := updAt k.pred (predIndex line) (fun n => if contended then min 3 (n + 1) else n - 1) })

/-- Whether the choice allows near (R152). -/
def Chip.nearOk (s : Chip) (b line : Nat) : Bool :=
  if s.flag A.HOM_CTL F.HOM_CTL_PREDICT_EN then Nat.ble ((s.bank b).pred.getD (predIndex line) 1) 1
  else s.flag A.HOM_CTL F.HOM_CTL_FORCE_NEAR

/-- A way for a line without an entry: the set has room, or the least recently used unpinned way moves into the
back-invalidation buffer and its holders are snooped (R144). None in the cases of R145. -/
def Chip.makeWay (s : Chip) (p b line tc : Nat) : Option Chip :=
  let l := s.ways b line
  if Nat.blt l.length 16 then some s
  else
    match l.find? (fun e => e.txn.isNone), s.freshTxn b with
    | some v, some i =>
      if Nat.ble 64 (s.backUsed b) || Nat.ble 255 (s.slotsUsed b) then none
      else
        let s := s.setWays b line (l.filter (fun e => e.line != v.line))
        let t : HTxn := { line := v.line, part := p, kind := .backInval, prior := v.state, members := [],
                          snoops := s.snoopsFor .backInval v.state 16384 }
        some (s.sendSnoops i tc t)
    | _, _ => none

/-- The kind of transaction a request opens. -/
def Chip.kindOf (s : Chip) (p : Packet) (b line : Nat) : TxnKind :=
  let c := Coh.ofBody p.body
  if c.msg == mRdShared then .rdShared
  else if c.msg == mRdOwn then .rdOwn
  else if c.msg == mRdCurrent then .rdCurrent
  else if c.msg == mWrBack then .wrBack
  else if c.msg == mCleanEvict then .evict
  else if s.cachingHost p.partition p.src && c.count == 1 && s.nearOk b line then .near
  else .far

/-- What a versioned region makes of a request to one of its lines (R188): a status, or the store to use, with the state
after a copy on write. None of both: not in a region. -/
def Chip.versioned (s : Chip) (p : Packet) (line : Nat) : Chip × Option Status × Nat :=
  let c := Coh.ofBody p.body
  let t := line / 256
  match s.regionOf p.partition t with
  | none => (s, none, 0)
  | some i =>
    if c.msg == mRdShared || c.msg == mRdOwn || c.msg == mCleanEvict then (s, some .accessDenied, 0)
    else if c.msg == mRdCurrent then
      let n := match s.viewOf p.src i with
        | some v => v.version
        | none => s.rd (A.HOM_VREGION i) F.HOM_VREGION_CURRENT
      (s, none, s.storeOf i n t)
    else
      match s.viewOf p.src i with
      | some w =>
        if !w.write then (s, some .accessDenied, 0)
        else
          match s.version i w.version with
          | none => (s, some .accessDenied, 0)
          | some v =>
            if v.own.contains t then (s, none, s.storeOf i w.version t)
            else
              match s.copyOnWrite p.partition i v t with
              | some (s, id) => (s, none, id)
              | none => (s, some .quota, 0)
      | none => (s, some .accessDenied, 0)

/-- Line `j` of request `k` opens its transaction, or ends at once (R136, Table 4.6). None in the cases of R145. -/
def Chip.openLine (s : Chip) (k j : Nat) : Option Chip :=
  match s.pool.reqs.find k with
  | none => some s
  | some r =>
    let p := r.pkt
    let c := Coh.ofBody p.body
    let line := 4 * c.saddr + j
    let part := p.partition
    match s.lostHit part line with
    | .broken i =>
      some ((s.log { status := .tableCheck, subsys := .homeAgent, partition := some part, addrKind := 4, addr := A.HOM_LOST i,
                     detail := line * 64 }).failLine k j .tableCheck)
    | .covered => some (s.failLine k j .lineLost)
    | hit =>
      let lostLines := match hit with | .byLine is => is | _ => []
      if !lostLines.isEmpty && c.msg != mWrBack then some (s.failLine k j .lineLost)
      else
        match s.bankOf part line with
        | none => some (s.failLine k j .accessDenied)
        | some b =>
          match s.versioned p line with
          | (_, some st, _) => some (s.failLine k j st)
          | (s, none, store) =>
            let s := lostLines.foldl (fun s i => s.writeLost i false 0 0 0) s
            let d := s.dirOf b line
            let kind := s.kindOf p b line
            let mine := d == .owned p.src
            if mine && (kind == .rdShared || kind == .rdOwn || kind == .far || kind == .near) then
              some (s.failLine k j .formatInvalid)
            else if kind == .evict then
              let d' := match d with
                | .owned x => if x == p.src then Dir.invalid else .owned x
                | .shared l => dirOfHolders (l.filter (fun e => e != p.src))
                | x => x
              some ((s.setEntry b line d' none).endLine k j id)
            else
              match (if (s.ways b line).any (fun e => e.line == line) then some s else s.makeWay part b line p.tc) with
              | none => none
              | some s =>
                match s.freshTxn b with
                | none => none
                | some i =>
                  if Nat.ble 256 (s.slotsUsed b) then none
                  else
                    let t : HTxn := { line := line, part := part, kind := kind, prior := d, members := [(k, j)], store := store,
                                      snoops := s.snoopsFor kind d p.src }
                    some ((s.setEntry b line d (some i)).sendSnoops i p.tc t)

/-! ### Advancing and closing a transaction -/

/-- The state that the snoops already sent leave, without the requesters (R138). -/
def HTxn.left (t : HTxn) : Dir :=
  match t.prior with
  | .owned x =>
    match t.snoops.find? (fun n => n.owner) with
    | none => if t.kind == .wrBack then .invalid else .owned x
    | some n => if n.gone || n.kind == .inv then .invalid else if n.kind == .share then .shared [x] else .owned x
  | .shared l =>
    if t.snoops.isEmpty then .shared l
    else dirOfHolders (l.filter (fun e => !t.snoops.any (fun n => n.eid == e)))
  | .coarse gs => if t.snoops.isEmpty then .coarse gs else .invalid
  | .invalid => .invalid

/-- A coarse entry keeps the requester's own group where the requester may hold the line and was not snooped. -/
def HTxn.leftFor (t : HTxn) (r : Nat) : Dir :=
  match t.prior, t.left with
  | .coarse _, .invalid => if t.kind == .rdOwn || t.kind == .near then .coarse [r / 256] else .invalid
  | _, d => d

/-- The sector number and the EID of a transaction's first requester. -/
def Chip.requester (s : Chip) (k : Nat) : Nat := ((s.pool.reqs.find k).map (fun r => r.pkt.src)).getD 16384

/-- A transaction closes: the entry takes state `d`, its timers stop (R143). -/
def Chip.closeTxn (s : Chip) (i : Nat) (d : Dir) : Chip :=
  match s.pool.txns.find i with
  | none => s
  | some t =>
    let s := s.modPool (fun q => { q with txns := q.txns.erase i })
    let s := t.snoops.foldl (fun s x => s.stopTimer (.snoop i x.eid)) s
    match s.bankOf t.part t.line with
    | none => s
    | some b => if t.kind == .backInval then s else s.setEntry b t.line d none

/-- A transaction ends with an error for every member. -/
def Chip.failTxn (s : Chip) (i : Nat) (t : HTxn) (st : Status) : Chip :=
  let d := match t.members with | (k, _) :: _ => t.leftFor (s.requester k) | [] => t.left
  let s := s.closeTxn i d
  t.members.foldl (fun s m => s.failLine m.1 m.2 st) s

/-- A transaction ends as the failure of a host has settled it (R155): one that would have granted the failed host E, and to
whose snoops data came, loses its line. -/
def Chip.endTxn (s : Chip) (i : Nat) (t : HTxn) (st : Status) : Chip :=
  let lost := st == .accessDenied && t.gotData && (t.kind == .rdOwn || t.kind == .near)
  let s := match (if lost then t.members else []) with
    | (k, _) :: _ => (s.addLost t.part t.line).count (A.HOM_HOST (s.requester k)) F.HOM_HOST_LOST_LINES
    | [] => s
  s.failTxn i t st

/-- The operand of an atomic in a line: `size` bytes at `off`. -/
def operandAt (data : List Byte) (off size : Nat) : Nat := natOfBytes ((data.drop off).take size)

/-- A line with the operand replaced. -/
def withOperand (data : List Byte) (off size v : Nat) : List Byte :=
  data.take off ++ bytesOfNat size v ++ data.drop (off + size)

/-- The new value of an atomic operation (Table 4.9). -/
def atomicResult (aop size old a b : Nat) : Nat :=
  let w := 8 * size
  let m := 2 ^ w
  if aop == 1 then (old + a) % m
  else if aop == 2 then a % m
  else if aop == 3 then (if old == a % m then b % m else old)
  else if aop == 4 then (if signedOf w old ≤ signedOf w a then old else a % m)
  else if aop == 5 then (if signedOf w old ≤ signedOf w a then a % m else old)
  else if aop == 6 then old &&& (a % m)
  else if aop == 7 then old ||| (a % m)
  else old ^^^ (a % m)

/-- A far atomic applied to the line that memory gave (R150). -/
def Chip.applyFar (s : Chip) (i : Nat) (t : HTxn) (data : List Byte) : Chip :=
  match t.members with
  | [] => s.closeTxn i t.left
  | (k, j) :: _ =>
    match s.pool.reqs.find k with
    | none => s.closeTxn i .invalid
    | some r =>
      let c := Coh.ofBody r.pkt.body
      let off := c.offset % 64
      let old := operandAt data off c.size
      let s := s.writeMemory t.part t.store t.line (withOperand data off c.size (atomicResult c.aop c.size old c.opa c.opb))
      let s := s.closeTxn i .invalid
      s.endLine k j (fun x => { x with old := old })

/-- A read is completed with the line's bytes: grants, next state and completions of Table 4.6 and R146. -/
def Chip.applyRead (s : Chip) (i : Nat) (t : HTxn) (data : List Byte) : Chip :=
  let src (m : Nat × Nat) : Nat := s.requester m.1
  let isShared (m : Nat × Nat) : Bool :=
    match s.pool.reqs.find m.1 with | some r => (Coh.ofBody r.pkt.body).msg == mRdShared | none => false
  let sharersNow := (t.members.filter isShared).map src
  let many := Nat.blt 1 t.members.length
  let r := match t.members with | m :: _ => src m | [] => 16384
  let sole := t.kind == .rdShared && t.prior == .invalid && sharersNow.length == 1
  let grant (m : Nat × Nat) : Nat :=
    if t.kind == .rdOwn || t.kind == .near then 2
    else if isShared m then (if sole && !many then 2 else 1)
    else 0
  let next := match t.kind with
    | .rdOwn | .near => Dir.owned r
    | .rdShared => if sole && !many then .owned r else t.left.addSharers sharersNow
    | _ => t.left
  let s := s.closeTxn i next
  t.members.foldl (fun s m => s.endLine m.1 m.2 (fun x =>
    { x with data := x.data ++ [(m.2, data)], grant := grant m, near := t.kind == .near,
             combined := x.combined || many })) s

/-- A WrBack's lines are written, after the owner's data (R137). -/
def Chip.applyWrite (s : Chip) (i : Nat) (t : HTxn) : Chip :=
  match t.members with
  | [] => s.closeTxn i .invalid
  | (k, j) :: _ =>
    match s.pool.reqs.find k with
    | none => s.closeTxn i .invalid
    | some r =>
      let s := s.writeMemory t.part t.store t.line ((r.pkt.payload.drop (64 * j)).take 64)
      (s.closeTxn i .invalid).endLine k j id

/-- Memory has answered transaction `i` (R136, R138). -/
def Chip.memoryIn (s : Chip) (i : Nat) (st : Status) (data : List Byte) : Chip :=
  match s.pool.txns.find i with
  | none => s
  | some t =>
    if st != .ok then s.failTxn i t st
    else if let some st := t.ends then s.endTxn i t st
    else if t.kind == .far then s.applyFar i t data
    else s.applyRead i t data

/-- Transaction `i` whose snoops are all resolved goes on (R136): memory is read, or the write applied. -/
def Chip.advanceTxn (s : Chip) (i : Nat) (t : HTxn) : Chip :=
  match t.ends with
  | some st => s.endTxn i t st
  | none =>
    if t.kind == .backInval then s.closeTxn i .invalid
    else if t.kind == .wrBack then s.applyWrite i t
    else
      match s.cached t.part roleHOME t.store t.line with
      | some l => s.memoryIn i .ok l.data
      | none => (s.setTxn i { t with reading := true }).tierAccess (t.line / 256) t.store (t.line / 4 % 64) none (.txn i)

/-- A WrBack from a host whose copy an open transaction needs as owner: its data is that host's snoop data (R141). -/
def Chip.crossing (s : Chip) (i : Nat) (t : HTxn) (x : Nat) (data : List Byte) : Chip :=
  let s := s.writeMemory t.part 0 t.line data
  let snoops := t.snoops.map (fun n =>
    if n.owner && n.eid == x && !n.done then { n with wb := true, done := n.pending, gone := true } else n)
  let s := if snoops.any (fun n => n.owner && n.eid == x && n.done) then s.stopTimer (.snoop i x) else s
  s.setTxn i { t with snoops := snoops, gotData := true }

/-- One thing the home can do now: take a tier result, go on with a transaction whose snoops are resolved, or open the
oldest waiter of a line that is not Busy (R143). -/
def Chip.homeStep (s : Chip) : Option Chip :=
  match s.pool.done with
  | (.txn i, st, data) :: rest =>
    let line := ((s.pool.txns.find i).map (·.line)).getD 0
    some ((s.modPool (fun q => { q with done := rest })).memoryIn i st ((data.drop (64 * (line % 4))).take 64))
  | (.flush n, _, _) :: rest => some ((s.modPool (fun q => { q with done := rest })).modTray n (fun t => { t with owed := t.owed - 1 }))
  | _ :: rest => some (s.modPool (fun q => { q with done := rest }))
  | [] =>
    match s.pool.txns.find? (fun e => !e.2.reading && e.2.snoops.all (fun x => x.done)) with
    | some (i, t) => some (s.advanceTxn i t)
    | none =>
      match s.pool.waits.findSome? (fun w =>
        match s.lineTxn w.line, s.pool.reqs.find w.req with
        | some (i, t), some r =>
          if (Coh.ofBody r.pkt.body).msg == mWrBack
              && t.snoops.any (fun n => n.eid == r.pkt.src && n.owner && !n.done && !n.wb) then some (w, i, t, r.pkt)
          else none
        | _, _ => none) with
      | some (w, i, t, p) =>
        -- a WrBack of the owner that waits when its copy is snooped is a crossing too (log entry 24)
        let s := s.modPool (fun q => { q with waits := q.waits.filter (fun v => v != w) })
        some ((s.crossing i t p.src ((p.payload.drop (64 * w.j)).take 64)).endLine w.req w.j (fun x => { x with consumed := true }))
      | none =>
      let firsts := s.pool.waits.filter (fun w =>
        (s.lineTxn w.line).isNone && (s.pool.waits.find? (fun v => v.line == w.line)) == some w)
      firsts.findSome? (fun w =>
        (s.modPool (fun q => { q with waits := q.waits.filter (fun v => v != w) })).openLine w.req w.j)

/-- The home goes on until nothing is left to do. -/
def Chip.homeRun : Nat → Chip → Chip
  | 0, s => s
  | n + 1, s =>
    match s.homeStep with
    | some s' => s'.homeRun n
    | none => s

/-- The home settled: every step that follows of itself. Each step ends a result, a transaction's snoop phase or a wait,
so the bound is never met. -/
def Chip.homeSettle (s : Chip) : Chip :=
  s.homeRun (8 + 4 * (s.pool.done.length + s.pool.txns.length + s.pool.waits.length + s.pool.ops.length))

/-! ### Arrival of a request -/

/-- Whether an open transaction takes one more read (R146). -/
def Chip.joins (s : Chip) (t : HTxn) (p : Packet) : Bool :=
  let c := Coh.ofBody p.body
  s.flag A.HOM_CTL F.HOM_CTL_READ_COMBINE_EN && t.part == p.partition && Nat.blt t.members.length 64
    && ((c.msg == mRdShared && t.kind == .rdShared)
        || (c.msg == mRdCurrent && (t.kind == .rdShared || t.kind == .rdCurrent)))

/-- Line `j` of request `k` as it arrives (R143): a crossing, a join, a wait, or its opening. None in the cases of
R145. -/
def Chip.arriveLine (s : Chip) (k j : Nat) : Option Chip :=
  match s.pool.reqs.find k with
  | none => some s
  | some r =>
    let p := r.pkt
    let c := Coh.ofBody p.body
    let line := 4 * c.saddr + j
    let wait (b : Nat) : Option Chip :=
      if Nat.ble 32 (s.pool.waits.filter (fun w => w.line == line)).length || Nat.ble 256 (s.slotsUsed b) then none
      else some (s.modPool (fun q => { q with waits := q.waits ++ [⟨line, k, j, b⟩] }))
    match s.lineTxn line with
    | some (i, t) =>
      let snooped := t.snoops.any (fun n => n.eid == p.src && !n.done)
      let asOwner := t.snoops.any (fun n => n.eid == p.src && n.owner && !n.done && !n.wb)
      if c.msg == mWrBack && asOwner then
        some ((s.crossing i t p.src ((p.payload.drop (64 * j)).take 64)).endLine k j (fun x => { x with consumed := true }))
      else if c.msg == mCleanEvict && snooped then
        let t := { t with snoops := t.snoops.map (fun n => if n.eid == p.src then { n with done := true, gone := true } else n) }
        some (((s.setTxn i t).stopTimer (.snoop i p.src)).endLine k j id)
      else if s.joins t p && (s.versioned p line).2 == (none, t.store) then
        some (s.setTxn i { t with members := t.members ++ [(k, j)] })
      else
        match s.bankOf p.partition line with
        | some b => wait b
        | none => some (s.failLine k j .accessDenied)
    | none =>
      if s.pool.waits.any (fun w => w.line == line) then
        match s.bankOf p.partition line with
        | some b => wait b
        | none => some (s.failLine k j .accessDenied)
      else s.openLine k j

/-- Whether partition `p` is DRAINING or further on (R422). -/
def Chip.draining (s : Chip) (p : Nat) : Bool := Nat.ble 3 (s.rd (A.PTN_STATE p) F.PTN_STATE_STATE)

/-- Whether an AtomicAny would be granted near (R152). -/
def Chip.nearEligible (s : Chip) (p : Packet) : Bool :=
  let c := Coh.ofBody p.body
  let line := 4 * c.saddr + ((upFrom 0 4).find? (fun j => bitAt c.lmask j)).getD 0
  c.msg == mAtomicAny && (match s.bankOf p.partition line with | some b => s.kindOf p b line == .near | none => false)

/-- Who may make a request at this home (R125, R155, R129): the status where not. -/
def Chip.mayRequest (s : Chip) (p : Packet) : Option Status :=
  let c := Coh.ofBody p.body
  if s.hostFailed p.src && s.cachingHost p.partition p.src then some .accessDenied
  else if (c.msg == mRdShared || c.msg == mRdOwn || c.msg == mCleanEvict) && !s.cachingHost p.partition p.src then
    some .accessDenied
  else if s.draining p.partition && (c.msg == mRdShared || c.msg == mRdOwn || s.nearEligible p) then some .accessDenied
  else if (s.banksOf p.partition).isEmpty then some .accessDenied
  else none

/-- A well-formed, range-checked request is taken at the home. -/
def Chip.takeRequest (s : Chip) (p : Packet) (gang : Option (Nat × Nat)) : Chip :=
  match s.mayRequest p with
  | some st => s.homeErr p gang st
  | none =>
    let c := Coh.ofBody p.body
    let lines := (upFrom 0 4).filter (fun j => bitAt c.lmask j)
    let s := if c.msg == mAtomicAny then
        lines.foldl (fun s j =>
          let line := 4 * c.saddr + j
          match s.bankOf p.partition line with
          | some b => s.predict b line p.src (s.lineTxn line).isSome
          | none => s) s
      else s
    let k := s.pool.nextReq
    let s1 := s.modPool (fun q => { q with reqs := q.reqs.put k { pkt := p, gang := gang, left := lines }, nextReq := k + 1 })
    match lines.foldl (fun o j => o.bind (fun s => s.arriveLine k j)) (some s1) with
    | some s2 => s2.homeSettle
    | none =>
      let s := s.count A.HOM_STATUS F.HOM_STATUS_RETRIES
      match gang with
      | some (g, tag) => s.emitOut (.cxlAnswer g tag none)
      | none => s.complete p { msg := mErr, status := Status.retry.code, lmask := c.lmask } []

/-- A request arrives at this E9 as its home: the format, length and range checks, in the order of R19, then the
request (R31, R79, R133). -/
def Chip.homeRequest (s : Chip) (p : Packet) (gang : Option (Nat × Nat)) : Chip :=
  let c := Coh.ofBody p.body
  if !cohFormatOk p || !cohIsRequest c.msg then s.homeErr p gang .formatInvalid
  else
    match (if c.msg == mAtomicAny then atomicCheck c else .run) with
    | .bad st => s.homeErr p gang st
    | check =>
      match s.rangeCheck p.epoch p.partition (p.poolAddr / 16384) with
      | .unmapped => s.homeErr p gang .rangeUnmapped
      | .foreign => s.homeErr p gang .accessDenied
      | .broken i =>
        s.log { status := .tableCheck, subsys := .partitionUnit, partition := some p.partition, addrKind := 4,
                addr := s.rangeOffset p.epoch i, detail := p.poolAddr, srcEid := p.src, tag := c.tag }
          |>.complete p { msg := mErr, status := Status.tableCheck.code, lmask := c.lmask } []
      | .entry _ kind =>
        if kind != 1 then s.homeErr p gang .staleEpoch
        -- R502 step 3: once the engines are idle, no new request but the write-backs of this E9
        else if s.asleep && p.src != s.selfEid && s.seq.cmds.all (fun m => m.engines.isEmpty) then s.homeErr p gang .waking
        else if check == .nothing then
          s.complete p { msg := mAtomicRsp, lmask := c.lmask, aop := c.aop, size := c.size, offset := c.offset } []
        else s.takeRequest p gang

/-! ### Snoop responses, stray responses, Heartbeats -/

/-- A snoop response arrives (Table 4.7, R135, R141). -/
def Chip.snoopResponse (s : Chip) (p : Packet) : Chip :=
  let c := Coh.ofBody p.body
  match s.pool.txns.find c.txn with
  | none => s.count A.HOM_STATUS F.HOM_STATUS_STRAY
  | some t =>
    match t.snoops.find? (fun n => n.eid == p.src) with
    | none => s.count A.HOM_STATUS F.HOM_STATUS_STRAY
    | some n =>
      if t.line / 4 != c.saddr then s.count A.HOM_STATUS F.HOM_STATUS_STRAY
      else if n.done then s
      else
        let data := c.msg == mRspIData || c.msg == mRspSData || c.msg == mRspCurData
        let s := if data then s.writeMemory t.part t.store t.line ((p.payload.drop (64 * (t.line % 4))).take 64) else s
        let waits := c.msg == mRspWbPending && !n.wb
        let n' := { n with pending := n.pending || waits, done := !waits,
                           gone := n.gone || n.wb || c.msg == mRspI || c.msg == mRspIData || c.msg == mRspWbPending }
        let s := if waits then s else s.stopTimer (.snoop c.txn p.src)
        (s.setTxn c.txn { t with snoops := t.snoops.map (fun x => if x.eid == p.src then n' else x),
                                 gotData := t.gotData || data }).homeSettle

/-- The heartbeat timer of a host starts (R154). -/
def Chip.startHeartbeat (s : Chip) (e : Nat) : Chip :=
  s.startTimer (.heartbeat e) (ms (s.rd A.HOM_CTL F.HOM_CTL_HB_MS))

/-- A Heartbeat arrives (R154). -/
def Chip.heartbeat (s : Chip) (p : Packet) : Chip :=
  if s.cachingHost p.partition p.src && !s.hostFailed p.src then s.startHeartbeat p.src else s

/-! ### Hosts that fail (R153 to R155) -/

/-- An open transaction when host `e` is declared failed. -/
def Chip.failHostTxn (s : Chip) (e i : Nat) (t : HTxn) : Chip :=
  let asOwner := t.snoops.any (fun n => n.eid == e && n.owner && !n.done)
  let snoops := t.snoops.map (fun n => if n.eid == e && !n.done then { n with done := true, gone := true } else n)
  let mine := t.members.filter (fun m => s.requester m.1 == e)
  let others := t.members.filter (fun m => s.requester m.1 != e)
  let s := s.stopTimer (.snoop i e)
  let t := { t with snoops := snoops }
  if asOwner then
    let s := (s.addLost t.part t.line).count (A.HOM_HOST e) F.HOM_HOST_LOST_LINES
    if t.kind == .backInval then s.setTxn i t else s.setTxn i { t with ends := some .lineLost }
  else if mine.isEmpty then s.setTxn i t
  else
    if others.isEmpty then s.setTxn i { t with ends := some .accessDenied }
    else mine.foldl (fun s m => s.failLine m.1 m.2 .accessDenied) (s.setTxn i { t with members := others })

/-- The walk of the directory: the host's sharer pointers go, its Owned lines are lost (R155). -/
def Chip.walkHost (s : Chip) (p e : Nat) : Chip :=
  (s.banksOf p).foldl (fun s b =>
    (s.bank b).sets.foldl (fun s st =>
      st.2.foldl (fun s en =>
        match en.txn, en.state with
        | none, .owned x =>
          if x == e then
            ((s.addLost p en.line).count (A.HOM_HOST e) F.HOM_HOST_LOST_LINES).setEntry b en.line .invalid none
          else s
        | none, .shared l => if l.contains e then s.setEntry b en.line (dirOfHolders (l.filter (· != e))) none else s
        | _, _ => s) s) s) s

/-- Host `e` is declared failed (R153, R155). Only a caching host can be. -/
def Chip.declareFailed (s : Chip) (e : Nat) : Chip :=
  let a := A.HOM_HOST e
  if !(s.flag a F.HOM_HOST_ASSIGNED && s.flag a F.HOM_HOST_CACHING) || s.hostFailed e then s
  else
    let p := s.rd a F.HOM_HOST_PARTITION
    let s := (s.wrB a F.HOM_HOST_FAILED true).wrB a F.HOM_HOST_WALKING true
    let s := s.wr a F.HOM_HOST_LOST_LINES 0
    let s := s.stopTimer (.heartbeat e)
    let s := s.startTimer (.walk e) (us 140 * (s.banksOf p).length)
    let s := s.logFault { status := .lineLost, subsys := .homeAgent, partition := some p, addrKind := 5, addr := e, srcEid := e } p
      .hostFailed { addrKind := 5, addr := e, eid := e }
    let s := s.pool.txns.foldl (fun s x => if x.2.part == p then s.failHostTxn e x.1 x.2 else s) s
    let gone := s.pool.waits.filter (fun w => s.requester w.req == e)
    let s := s.modPool (fun q => { q with waits := q.waits.filter (fun w => !gone.contains w) })
    let s := gone.foldl (fun s w => s.failLine w.req w.j .accessDenied) s
    let s := s.walkHost p e
    let s := (s.pool.views.filter (fun v => v.eid == e)).foldl (fun s v => s.closeView e v.region) s
    s.homeSettle

/-- The snoop timer of transaction `i` and host `e` expires (R142, R153). -/
def Chip.snoopExpired (s : Chip) (i e : Nat) : Chip :=
  match s.pool.txns.find i with
  | some t => if t.snoops.any (fun n => n.eid == e && !n.done) then s.declareFailed e else s
  | none => s

/-! ### Combining of FetchAdds (R147, R148) -/

/-- A combining entry closes: one FetchAdd under this E9's EID, with the sums of OPA and COUNT. -/
def Chip.closeComb (s : Chip) (n : Nat) : Chip :=
  match s.pool.combs.find n with
  | none => s
  | some e =>
    if e.closed then s
    else
      let s := (s.modPool (fun q => { q with combs := q.combs.put n { e with closed := true } })).stopTimer (.combining n)
      (s.ask (.comb n) e.part e.tc s.selfEid { msg := mAtomicAny, lmask := e.lmask, saddr := e.saddr, count := e.count, aop := 1,
                                               size := e.size, offset := e.offset, opa := e.sum } []).1

/-- A FetchAdd opens or joins a combining entry; none where it goes on as it stands. -/
def Chip.combine (s : Chip) (p : Packet) : Option Chip :=
  let c := Coh.ofBody p.body
  if !s.combines p then none
  else
    let same (e : Nat × Comb) : Bool :=
      !e.2.closed && e.2.part == p.partition && e.2.saddr == c.saddr && e.2.offset == c.offset && e.2.size == c.size
    match s.pool.combs.find? same with
    | some (n, e) =>
      if Nat.blt 64 (e.count + c.count) then none
      else
        let e := { e with sum := (e.sum + c.opa) % 2 ^ (8 * c.size), count := e.count + c.count, members := e.members ++ [p] }
        some (s.modPool (fun q => { q with combs := q.combs.put n e }))
    | none =>
      if Nat.ble 16 (s.pool.combs.filter (fun e => e.2.part == p.partition)).length then none
      else
        let n := s.pool.nextComb
        let e : Comb := { part := p.partition, saddr := c.saddr, lmask := c.lmask, offset := c.offset, size := c.size,
                          dst := p.dst, tc := p.tc, sum := c.opa % 2 ^ (8 * c.size), count := c.count, members := [p] }
        let s := s.modPool (fun q => { q with combs := q.combs.put n e, nextComb := n + 1 })
        let w := s.rd A.HOM_CTL F.HOM_CTL_FAA_WINDOW
        if w == 0 then some (s.closeComb n) else some (s.startTimer (.combining n) (10 * w))

/-- The open combining entry whose COUNT a FetchAdd would take past 64 (R147 step 3). -/
def Chip.overfull (s : Chip) (p : Packet) : Option Nat :=
  let c := Coh.ofBody p.body
  if !s.combines p then none
  else
    (s.pool.combs.find? (fun e => !e.2.closed && e.2.part == p.partition && e.2.saddr == c.saddr
        && e.2.offset == c.offset && e.2.size == c.size && Nat.blt 64 (e.2.count + c.count))).map (·.1)

/-- The members of combining entry `n` are answered with the old value `v` (R148), or with Err. -/
def Chip.answerComb (s : Chip) (n : Nat) (st : Status) (v : Nat) : Chip :=
  match s.pool.combs.find n with
  | none => s
  | some e =>
    let s := s.modPool (fun q => { q with combs := q.combs.erase n })
    let m := 2 ^ (8 * e.size)
    (e.members.foldl (fun (r : Chip × Nat) p =>
      let c := Coh.ofBody p.body
      let s := if st == .ok then
          r.1.complete p { msg := mAtomicRsp, lmask := c.lmask, combined := true, aop := 1, size := c.size, offset := c.offset,
                           opa := r.2 % m } []
        else r.1.complete p { msg := mErr, status := st.code, lmask := c.lmask, combined := true } []
      (s, (r.2 + c.opa) % m)) (s, v)).1

/-! ### Completions that reach this E9 as a requester -/

/-- A request sent again (R375): RETRY at once, STALE_EPOCH once INSTALLS has advanced, the latter at most 3 times. -/
def Chip.resend (s : Chip) (tag : Nat) (a : Ask) (st : Status) : Option Chip :=
  let again (n : Nat) : Chip :=
    (s.modPool (fun q => { q with asks := q.asks.put tag { a with resent := n } })).sendAsk tag a.pkt
  match a.who with
  | .job _ _ | .wcache _ _ | .fill _ =>
    if st == .retry then some (again a.resent)
    else if st == .staleEpoch && s.rd A.RTE_EPOCH F.RTE_EPOCH_INSTALLS != a.installs && Nat.blt a.resent 3 then
      some (again (a.resent + 1))
    else none
  | .comb _ => if st == .retry then some (again a.resent) else none
  | _ => none

/-- The asker of an ended transaction is told, but for jobs, which take their results in turn. -/
def Chip.tellAsker (s : Chip) (x : Ended) : Chip :=
  match s.pool.asks.find x.tag with
  | none => s
  | some a =>
    match a.who with
    | .job _ _ => s
    | w =>
      match w with
      | .comb n => (s.modPool (fun q => { q with asks := q.asks.erase x.tag })).answerComb n x.status x.old
      | .wcache p lines => s.wroteBack p x.tag lines (x.status == .ok)
      | .fill n =>
        (s.modPool (fun q => { q with asks := q.asks.erase x.tag })).filled n x.status ((x.lines.head?.map (·.2)).getD [])
      | .gang g tag =>
        let s := s.modPool (fun q => { q with asks := q.asks.erase x.tag })
        if x.status == .ok then s.emitOut (.cxlAnswer g tag (some ((x.lines.head?.map (·.2)).getD [])))
        else s.gangError g tag x.status a.pkt.partition a.pkt.poolAddr
      | .gangMerge g tag line mask bytes =>
        let s := s.modPool (fun q => { q with asks := q.asks.erase x.tag })
        if x.status != .ok then s.gangError g tag x.status a.pkt.partition a.pkt.poolAddr
        else
          let old := (x.lines.head?.map (·.2)).getD (zeroBytes 64)
          let merged := (upFrom 0 64).map (fun i => if bitAt mask i then bytes.getD i 0 else old.getD i 0)
          (s.ask (.gang g tag) a.pkt.partition a.pkt.tc a.pkt.src { msg := mWrBack, lmask := 2 ^ (line % 4), saddr := line / 4 }
            (payloadOf [(line % 4, merged)])).1
      | .job _ _ => s

/-- Every ended transaction's asker told. What a job waits for stays listed until the job takes it. -/
def Chip.tellAskers (s : Chip) : Chip :=
  let l := s.pool.ended
  let s := l.foldl (fun s x => s.tellAsker x) s
  s.modPool (fun q => { q with ended := q.ended.filter (fun x =>
    match q.asks.find x.tag with
    | some a => (match a.who with | .job _ _ => true | .wcache _ _ => true | _ => false)
    | none => false) })

/-- A completion arrives for a transaction of this E9 (R135, R139): Data, WbAck, EvictAck, AtomicRsp or Err. What names no
open transaction is discarded. -/
def Chip.completionIn (s : Chip) (p : Packet) : Chip :=
  let c := Coh.ofBody p.body
  match s.pool.asks.find c.tag with
  | none => s
  | some a =>
    if s.pool.ended.any (fun x => x.tag == c.tag) then s
    else
      let st := if c.msg == mErr then (Status.ofCode c.status).getD .formatInvalid
        else match a.who with
          | .comb _ => if c.msg == mAtomicRsp then .ok else .formatInvalid
          | _ => .ok
      match (if st == .ok then none else s.resend c.tag a st) with
      | some s => s
      | none => (s.endAsk c.tag st c.opa (linesOf c.lmask p.payload)).tellAskers

end Sys2Proof.Machine
end

