-- ==== Sys2Proof/Machine/Engine.lean ====
section
/-!
DEFINITION. What engines do to memory: pool reads and writes through the pool write cache
(spec/03_pool_and_tiers.md R109, spec/05_memory_model.md R168 to R171), spans in the three spaces (R165, R167), remote
writes (R346), and the transactions a command waits for.
-/
namespace Sys2Proof.Machine

/-- The result of a read: lines still to come, a failure with its line, or the bytes. -/
inductive RdRes where
  | need (lines : List Nat)
  | fail (st : Status) (addrKind addr : Nat)
  | ok (data : List Byte)
deriving DecidableEq, Repr

/-- The command of number `id`. -/
def Chip.cmd? (s : Chip) (id : Nat) : Option Cmd := s.seq.cmds.find? (fun m => m.id == id)

/-- The command put back in its place. -/
def Chip.setCmd (s : Chip) (m : Cmd) : Chip :=
  s.modSeq (fun q => { q with cmds := q.cmds.map (fun x => if x.id == m.id then m else x) })

/-- Whether a command is a kernel in the chain format (R198). -/
def Cmd.isChain (m : Cmd) : Bool := slotOp m.slot == oKERNEL_LAUNCH

/-- The issuer of a command's writes (R179): its kernel inside a chain, otherwise its queue. -/
def Cmd.issuer (m : Cmd) : Nat := if m.isChain then 2 * m.id + 1 else 2 * m.queue

/-- The lines that bytes [addr, addr+n) touch. -/
def linesIn (addr n : Nat) : List Nat :=
  if n == 0 then [] else upFrom (addr / 64) ((addr + n - 1) / 64 - addr / 64 + 1)

/-- A line as command `m`'s engine sees it: an ENGINE line first, then what was read for the command (R109). -/
def Chip.engineLine (s : Chip) (m : Cmd) (l : Nat) : Option (Status × List Byte) :=
  match s.cached m.part roleENGINE 0 l with
  | some c => some (.ok, c.data)
  | none => m.got.find l

/-- A read of pool bytes by command `m`. -/
def Chip.poolRead (s : Chip) (m : Cmd) (addr n : Nat) : RdRes :=
  let ls := linesIn addr n
  let missing := ls.filter (fun l => (s.engineLine m l).isNone)
  if !missing.isEmpty then .need missing
  else
    match ls.find? (fun l => ((s.engineLine m l).map (·.1)) != some Status.ok) with
    | some l => .fail (((s.engineLine m l).map (·.1)).getD .uncorrectable) 1 (64 * l)
    | none =>
      .ok (((ls.flatMap (fun l => ((s.engineLine m l).map (·.2)).getD [])).drop (addr % 64)).take n)

/-- The range check of a pool write made on this E9 (R31): its status, where it fails. -/
def Chip.poolMay (s : Chip) (part addr n : Nat) : Option Status :=
  (distinct ((linesIn addr n).map (fun l => l / 256))).findSome? (fun t =>
    match s.rangeCheck s.active part t with
    | .unmapped => some .rangeUnmapped
    | .foreign => some .accessDenied
    | .broken _ => some .tableCheck
    | .entry _ _ => none)

/-- What a pool write of bytes [addr, addr+n) still needs (R168, R170): lines of which only a part is written and which
are not held, and lines whose writeback is in flight. -/
def Chip.fillNeeds (s : Chip) (m : Cmd) (addr n : Nat) : List Nat :=
  (linesIn addr n).filter (fun l =>
    match s.cached m.part roleENGINE 0 l with
    | some c => c.flight.isSome
    | none => !(Nat.ble addr (64 * l) && Nat.ble (64 * l + 64) (addr + n)) && (m.got.find l).isNone)

/-- The first partly written line whose fill failed. -/
def Chip.fillFailure (s : Chip) (m : Cmd) (addr n : Nat) : Option Status :=
  (linesIn addr n).findSome? (fun l =>
    match s.cached m.part roleENGINE 0 l with
    | some _ => none
    | none =>
      if Nat.ble addr (64 * l) && Nat.ble (64 * l + 64) (addr + n) then none
      else match m.got.find l with
        | some (st, _) => if st == .ok then none else some st
        | none => none)

/-- A pool write by command `m` whose lines are at hand: each line goes into the way groups as an ENGINE line (R109,
R170). -/
def Chip.poolWrite (s : Chip) (m : Cmd) (addr : Nat) (data : List Byte) : Chip :=
  (linesIn addr data.length).foldl (fun s l =>
    let old := ((s.engineLine m l).map (·.2)).getD (zeroBytes 64)
    s.putLine m.part roleENGINE 0 l (overLine l old addr data)) s

/-- Whether command `m` is a kernel in compatibility mode (R231). -/
def Cmd.isCompat (m : Cmd) : Bool := m.isChain && bitAt m.slot 153

/-- The requests that the engines of command `m` may have in flight (Tables 6.1 and 7.1, R231): pool requests, and WRITE
packets to other E9s. A command without engines is the sequencer's own. -/
def Cmd.poolLimit (m : Cmd) : Nat :=
  if m.isCompat then 16 else (m.engines.map (fun e => if Nat.blt e 64 then 512 else 1024)).sum
def Cmd.writeLimit (m : Cmd) : Nat := if m.isCompat then 16 else 256 * m.engines.length

/-- The lines asked for by RdCurrent, a sector at a time (R109), within the limit of R200; the run function asks for the
rest when it is entered again. Lines at hand and lines already asked for are left. -/
def Chip.fetch (s : Chip) (id : Nat) (lines : List Nat) : Chip :=
  (distinct (lines.map (· / 4))).foldl (fun s sec =>
    match s.cmd? id with
    | none => s
    | some m =>
      if !m.engines.isEmpty && Nat.ble m.poolLimit (distinct (m.asked.map (·.1))).length then s else
      let ls := lines.filter (fun l => l / 4 == sec && (s.engineLine m l).isNone && !m.asked.any (fun e => e.2 == l))
      if ls.isEmpty then s
      else
        let mask := ls.foldl (fun k l => k ||| 2 ^ (l % 4)) 0
        let (s, tag) := s.ask (.job id sec) m.part 0 s.selfEid { msg := mRdCurrent, lmask := mask, saddr := sec } []
        match s.cmd? id with
        | none => s
        | some m => s.setCmd { m with asked := ls.map (fun l => (tag, l)) ++ m.asked }) s

/-- A destination of bytes. -/
inductive Dest where
  | pool (addr : Nat)
  | stg (off : Nat)
  | scr (engine off : Nat)
  | remote (eid space engine off : Nat)
deriving DecidableEq, Repr

/-- The place a locator names, for the engines of this E9. -/
def Chip.destOf (s : Chip) (l : Locator) : Dest :=
  if l.space == 0 then .pool l.addr
  else if l.eid != s.selfEid then .remote l.eid l.space l.engine l.addr
  else if l.space == 1 then .stg l.addr
  else .scr l.engine l.addr

/-- A place moved on by `n` bytes. -/
def Dest.plus (d : Dest) (n : Nat) : Dest :=
  match d with
  | .pool a => .pool (a + n)
  | .stg o => .stg (o + n)
  | .scr e o => .scr e (o + n)
  | .remote eid sp e o => .remote eid sp e (o + n)

/-- Bytes read from a local place by command `m`. -/
def Chip.readAt (s : Chip) (m : Cmd) (d : Dest) (n : Nat) : RdRes :=
  match d with
  | .pool a => s.poolRead m a n
  | .stg o =>
    match s.stgRead m.part o n with
    | .ok b => .ok b
    | .error st => .fail st 2 o
  | .scr e o =>
    match s.scrRead e o n with
    | .ok b => .ok b
    | .error st => .fail st 3 (o + e <<< 56)
  | .remote _ _ _ _ => .fail .formatInvalid 0 0

/-- WRITE packets with ACK to another E9, 4,096 bytes each (R346), awaited by command `m`. -/
def Chip.remoteWrite (s : Chip) (m : Cmd) (eid space engine off : Nat) (data : List Byte) (counter : Option Nat) :
    Chip × Cmd :=
  (upFrom 0 (ceilDiv data.length 4096)).foldl (fun (acc : Chip × Cmd) i =>
    let (s, m) := acc
    let d := (data.drop (4096 * i)).take 4096
    let segs := ceilDiv d.length 256
    let tag := s.seq.nextTag % 2 ^ 32
    let p : Packet :=
      { cls := clsWRITE, partition := m.part, dst := eid, src := s.selfEid, segs := segs,
        body := WriteExt.body { addr := off + 4096 * i, space := space, engine := engine, countEn := counter.isSome,
                                counter := counter.getD 0, ack := true, wtag := tag, length := d.length },
        payload := d ++ zeroBytes (256 * segs - d.length) }
    if s.suppressed p then (s, m) else
    let s := s.modSeq (fun q => { q with
      nextTag := q.nextTag + 1
      outs := q.outs ++ [{ tag := tag, pool := false, cmd := m.id, issuer := m.issuer }] })
    let inFlight := (m.waits.filter (fun w => w.2.isNone)).length
    let m := { m with waits := m.waits ++ [(2 * tag, none)] }
    if !m.unsent.isEmpty || (!m.engines.isEmpty && Nat.ble m.writeLimit inFlight) then
      (s, { m with unsent := m.unsent ++ [p] })
    else (s.send p, m)) (s, m)

/-- WRITE packets that waited on the limit leave as earlier ones are answered (R200). -/
def Chip.sendWaiting (s : Chip) : Chip :=
  s.seq.cmds.foldl (fun s m0 =>
    if m0.unsent.isEmpty then s
    else match s.cmd? m0.id with
      | none => s
      | some m =>
        let inFlight := (m.waits.filter (fun w => w.2.isNone)).length - m.unsent.length
        let n := m.writeLimit - inFlight
        let s := s.setCmd { m with unsent := m.unsent.drop n }
        (m.unsent.take n).foldl (fun s p => s.send p) s) s

/-- Bytes written by command `m`, whose checks and fills are done; local places take them now, with the arrival at
their counter (R178). -/
def Chip.writeAt (s : Chip) (m : Cmd) (d : Dest) (data : List Byte) (counter : Option Nat) : Chip × Cmd :=
  let arrive (s : Chip) : Chip := match counter with | some c => s.arrive c data.length | none => s
  match d with
  | .pool a => (s.poolWrite m a data, m)
  | .stg o => (arrive (s.stgPut m.part o data), m)
  | .scr e o => (arrive (s.scrPut e o data), m)
  | .remote eid sp e o => s.remoteWrite m eid sp e o data counter

/-- What stands before a write: needs, a failure, or nothing (an empty read). -/
def Chip.writeReady (s : Chip) (m : Cmd) (d : Dest) (n : Nat) : RdRes :=
  match d with
  | .pool a =>
    match s.poolMay m.part a n with
    | some st => .fail st 1 a
    | none =>
      let l := s.fillNeeds m a n
      if !l.isEmpty then .need l
      else match s.fillFailure m a n with
        | some st => .fail st 1 a
        | none => .ok []
  | .stg o => if s.stgHas m.part o n then .ok [] else .fail .quota 2 o
  | .scr e o => if Nat.ble (o + n) (scrSize e) then .ok [] else .fail .lengthRange 3 (o + e <<< 56)
  | .remote _ _ _ _ => .ok []

/-- What ended transactions bring to the commands that wait for them (R109, R180): lines read, writebacks flushed. -/
def Chip.takeEnded (s : Chip) : Chip :=
  let l := s.pool.ended
  -- what a stopped command had asked for is counted and discarded (R301)
  let orphans := (l.filter (fun x => match (s.pool.asks.find x.tag).map (fun a => a.who) with
    | some (Asker.job id _) => id != 0 && (s.cmd? id).isNone
    | _ => false)).length
  let s := if orphans == 0 then s else s.bump A.SEQ_STATUS F.SEQ_STATUS_ORPHAN_REPLIES 65535 orphans
  let s := s.modPool (fun q => { q with ended := [], asks := l.foldl (fun t x => t.erase x.tag) q.asks })
  l.foldl (fun s x =>
    s.modSeq (fun q =>
      { q with
        outs := q.outs.filter (fun o => !(o.pool && o.tag == x.tag))
        cmds := q.cmds.map (fun m =>
          let mine := (m.asked.filter (fun e => e.1 == x.tag)).map (·.2)
          { m with
            got := mine.foldl (fun t l =>
              t.put l (x.status, ((x.lines.find? (fun e => e.1 == l % 4)).map (·.2)).getD (zeroBytes 64))) m.got
            asked := m.asked.filter (fun e => e.1 != x.tag)
            waits := m.waits.map (fun w => if w.1 == 2 * x.tag + 1 then (w.1, some x.status) else w) }) })) s

/-- A STATUS answer to a write or an add of this E9 (R180, R346): the command that waits has its status; one without a
command is an orphan of R301. The second result is whether the answer was one. -/
def Chip.takeAnswer (s : Chip) (tag : Nat) (st : Status) : Chip × Bool :=
  match s.seq.outs.find? (fun o => !o.pool && o.tag == tag) with
  | none => (s, false)
  | some o =>
    let s := s.modSeq (fun q =>
      { q with
        outs := q.outs.filter (fun x => !(!x.pool && x.tag == tag))
        cmds := q.cmds.map (fun m =>
          { m with waits := m.waits.map (fun w => if w.1 == 2 * tag then (w.1, some st) else w) }) })
    if (s.cmd? o.cmd).isNone then (s.count A.SEQ_STATUS F.SEQ_STATUS_ORPHAN_REPLIES, true) else (s, true)

end Sys2Proof.Machine
end

