-- ==== Sys2Proof/Machine/Float.lean ====
section
/-!
DEFINITION. Binary floating-point arithmetic of the cells and matrix tiles (spec/06_compute_cells.md R202, R203, R215,
spec/07_matrix_and_codec.md): exact values, one rounding to nearest with ties to even, canonical NaN.
-/
namespace Sys2Proof.Machine

/-- A floating-point format: bits of the exponent and of the fraction. -/
structure Fmt where
  ebits : Nat
  fbits : Nat
deriving DecidableEq, Repr

/-- FP32, BF16 and FP16. -/
def fp32 : Fmt := ⟨8, 23⟩
def bf16 : Fmt := ⟨8, 7⟩
def fp16 : Fmt := ⟨5, 10⟩

/-- A value: a finite one is (-1)^neg × m × 2^e. -/
inductive Val where
  | nan
  | inf (neg : Bool)
  | fin (neg : Bool) (m : Nat) (e : Int)
deriving DecidableEq, Repr

def Fmt.width (f : Fmt) : Nat := 1 + f.ebits + f.fbits
def Fmt.bias (f : Fmt) : Nat := 2 ^ (f.ebits - 1) - 1

/-- The exponent of the last place of a subnormal number. -/
def Fmt.tiny (f : Fmt) : Int := 1 - (f.bias : Int) - (f.fbits : Int)

/-- The value of a code. -/
def Fmt.decode (f : Fmt) (c : Nat) : Val :=
  let neg := c.testBit (f.ebits + f.fbits)
  let ex := bits c f.fbits f.ebits
  let fr := bits c 0 f.fbits
  if ex == 2 ^ f.ebits - 1 then (if fr == 0 then .inf neg else .nan)
  else if ex == 0 then .fin neg fr f.tiny
  else .fin neg (2 ^ f.fbits + fr) (f.tiny + (ex : Int) - 1)

/-- The canonical quiet NaN: the exponent all ones and the first fraction bit set (R202). -/
def Fmt.nanCode (f : Fmt) : Nat := (2 ^ f.ebits - 1) <<< f.fbits + 2 ^ (f.fbits - 1)
def Fmt.infCode (f : Fmt) (neg : Bool) : Nat := b2n neg <<< (f.ebits + f.fbits) + (2 ^ f.ebits - 1) <<< f.fbits

/-- `m / 2^k` rounded to nearest, ties to even. -/
def shiftRound (m k : Nat) : Nat :=
  let q := m >>> k
  let r := m % 2 ^ k
  if k == 0 then m else if Nat.blt (2 ^ (k - 1)) r || (r == 2 ^ (k - 1) && q % 2 == 1) then q + 1 else q

/-- The code nearest to m × 2^e, ties to even; overflow gives infinity (R202, R203). -/
def Fmt.round (f : Fmt) (neg : Bool) (m : Nat) (e : Int) : Nat :=
  let sign := b2n neg <<< (f.ebits + f.fbits)
  if m == 0 then sign
  else
    let top : Int := (m.log2 : Int) + e
    let lsb : Int := max f.tiny (top - (f.fbits : Int))
    let q := if e ≥ lsb then m <<< (e - lsb).toNat else shiftRound m (lsb - e).toNat
    -- q < 2^(fbits+1), or 2^(fbits+1) after a carry
    let (q, lsb) := if q == 2 ^ (f.fbits + 1) then (2 ^ f.fbits, lsb + 1) else (q, lsb)
    if Nat.blt q (2 ^ f.fbits) then sign + q
    else
      let ex := (lsb - f.tiny + 1).toNat
      if Nat.ble (2 ^ f.ebits - 1) ex then f.infCode neg else sign + ex <<< f.fbits + (q - 2 ^ f.fbits)

/-- The code of a value. -/
def Fmt.encode (f : Fmt) : Val → Nat
  | .nan => f.nanCode
  | .inf neg => f.infCode neg
  | .fin neg m e => f.round neg m e

def Val.neg? : Val → Bool
  | .nan => false
  | .inf n => n
  | .fin n _ _ => n

/-- The sum of two values, exactly. +∞ plus -∞ gives NaN; an exact zero of unlike signs is +0. -/
def Val.add : Val → Val → Val
  | .nan, _ => .nan
  | _, .nan => .nan
  | .inf a, .inf b => if a == b then .inf a else .nan
  | .inf a, _ => .inf a
  | _, .inf b => .inf b
  | .fin n1 m1 e1, .fin n2 m2 e2 =>
    let e := min e1 e2
    let a : Int := (m1 : Int) * 2 ^ (e1 - e).toNat * (if n1 then -1 else 1)
    let b : Int := (m2 : Int) * 2 ^ (e2 - e).toNat * (if n2 then -1 else 1)
    let c := a + b
    if c == 0 then .fin (n1 && n2) 0 e else .fin (decide (c < 0)) c.natAbs e

/-- The product of two values, exactly. -/
def Val.mul : Val → Val → Val
  | .nan, _ => .nan
  | _, .nan => .nan
  | .inf a, .inf b => .inf (a != b)
  | .inf a, .fin n m _ => if m == 0 then .nan else .inf (a != n)
  | .fin n m _, .inf b => if m == 0 then .nan else .inf (n != b)
  | .fin n1 m1 e1, .fin n2 m2 e2 => .fin (n1 != n2) (m1 * m2) (e1 + e2)

/-- The quotient, to 160 bits with the remainder kept in the last of them, so that one rounding follows. -/
def Val.div : Val → Val → Val
  | .nan, _ => .nan
  | _, .nan => .nan
  | .inf _, .inf _ => .nan
  | .inf a, .fin n _ _ => .inf (a != n)
  | .fin n _ _, .inf b => .fin (n != b) 0 0
  | .fin n1 m1 e1, .fin n2 m2 e2 =>
    if m2 == 0 then (if m1 == 0 then .nan else .inf (n1 != n2))
    else
      let q := (m1 <<< 160) / m2
      let r := (m1 <<< 160) % m2
      .fin (n1 != n2) (2 * q + b2n (r != 0)) (e1 - e2 - 161)

/-- `a < b` of two values that are not NaN; -0 orders as +0. -/
def Val.lt : Val → Val → Bool
  | .nan, _ => false
  | _, .nan => false
  | .inf a, .inf b => a && !b
  | .inf a, _ => a
  | _, .inf b => !b
  | .fin n1 m1 e1, .fin n2 m2 e2 =>
    let e := min e1 e2
    decide ((m1 : Int) * 2 ^ (e1 - e).toNat * (if n1 then -1 else 1)
      < (m2 : Int) * 2 ^ (e2 - e).toNat * (if n2 then -1 else 1))

def Val.eq (a b : Val) : Bool := a != .nan && b != .nan && !(a.lt b) && !(b.lt a)
def Val.le (a b : Val) : Bool := a.lt b || a.eq b

/-- Operations on FP32 codes, each rounded once. -/
def f32add (a b : Nat) : Nat := fp32.encode ((fp32.decode a).add (fp32.decode b))
def f32mul (a b : Nat) : Nat := fp32.encode ((fp32.decode a).mul (fp32.decode b))
def f32div (a b : Nat) : Nat := fp32.encode ((fp32.decode a).div (fp32.decode b))

/-- The negation of an FP32 code. -/
def f32neg (a : Nat) : Nat := a ^^^ 0x80000000

/-- `a - b`. -/
def f32sub (a b : Nat) : Nat := f32add a (f32neg b)

def f32isNan (a : Nat) : Bool := fp32.decode a == .nan

/-- The least code in the order of R202: exact, -0 below +0, any NaN gives the canonical NaN. -/
def f32min (a b : Nat) : Nat :=
  if f32isNan a || f32isNan b then fp32.nanCode
  else if (fp32.decode a).lt (fp32.decode b) then a
  else if (fp32.decode b).lt (fp32.decode a) then b
  else if a.testBit 31 then a else b

def f32max (a b : Nat) : Nat :=
  if f32isNan a || f32isNan b then fp32.nanCode
  else if (fp32.decode a).lt (fp32.decode b) then b
  else if (fp32.decode b).lt (fp32.decode a) then a
  else if a.testBit 31 then b else a

/-- A code of one format converted to another with one rounding (R203). -/
def convertFmt (src dst : Fmt) (c : Nat) : Nat := dst.encode (src.decode c)

/-- ln 2 × 2^200, rounded down. -/
def ln2Fixed : Nat := 1113844574712631719546256151097547306333272293549090750737802

/-- The Taylor terms of exp at r / 2^200, from the k-th on: `t` the last term, `acc` their sum. -/
def expTaylor (r : Int) : Nat → Nat → Int → Int → Int
  | 0, _, _, acc => acc
  | n + 1, k, t, acc =>
    let t := t * r / (2 ^ 200 * (k : Int))
    expTaylor r n (k + 1) t (acc + t)

/-- exp of a finite value as a value good to more than 150 bits: x = k ln 2 + r. Beyond ±2^10 the result over- or
underflows FP32. -/
def expVal (neg : Bool) (m : Nat) (e : Int) : Val :=
  if m == 0 then .fin false 1 0
  else if (m.log2 : Int) + e ≥ 10 then (if neg then .fin false 0 0 else .inf false)
  else
    let x : Int := if e + 200 ≥ 0 then (m : Int) * 2 ^ (e + 200).toNat else (m : Int) / 2 ^ (-(e + 200)).toNat
    let x := if neg then -x else x
    let k := x / (ln2Fixed : Int)
    let r := x - k * ln2Fixed
    .fin false (expTaylor r 60 1 (2 ^ 200) (2 ^ 200)).toNat (k - 200)

/-- A code moved by `d` units of its last place, within the finite positive numbers. -/
def movedBy (c : Nat) (d : Nat) : Nat :=
  if Nat.ble 3 d then min (c + (d - 2)) 0x7F800000 else c - (2 - d)

/-- exp of an FP32 code, accurate to 2 ulp (R215): the nearest code, moved by -2 to 2 places as Config.expUlp says, which
nothing constrains. -/
def f32exp (a : Nat) : Nat :=
  match fp32.decode a with
  | .nan => fp32.nanCode
  | .inf true => 0
  | .inf false => fp32.infCode false
  | .fin neg m e => movedBy (fp32.encode (expVal neg m e)) (Config.expUlp a % 5)

end Sys2Proof.Machine
end

