-- ==== Sys2Proof/Machine/Codec.lean ====
section
/-!
DEFINITION. The matrix formats, the array's arithmetic, the shingle format and the codebook store
(spec/07_matrix_and_codec.md R240 to R255).
-/
namespace Sys2Proof.Machine

/-- Bits of an element of a format of Table 7.2; 0 for SHINGLE. -/
def mfmtBits (f : Nat) : Nat :=
  if f == 0 then 16 else if f == 8 then 32 else if f == 3 || f == 4 then 6 else if f == 5 then 4
  else if f == 7 then 0 else 8

/-- Whether a format carries E8M0 scales (R241). -/
def mfmtScaled (f : Nat) : Bool := Nat.ble 1 f && Nat.ble f 6

/-- Bytes of a span of `n` elements, its scales included (R241). -/
def mfmtBytes (f n : Nat) : Nat := n * mfmtBits f / 8 + (if mfmtScaled f then n / 32 else 0)

/-- A small float of `eb` exponent and `fb` fraction bits without infinities. -/
def smallFloat (eb fb c : Nat) : Val :=
  let bias : Int := 2 ^ (eb - 1) - 1
  let ex := bits c fb eb
  let fr := bits c 0 fb
  let neg := bitAt c (eb + fb)
  if ex == 0 then .fin neg fr (1 - bias - (fb : Int)) else .fin neg (2 ^ fb + fr) ((ex : Int) - bias - (fb : Int))

/-- An element's value, its scale apart (R241: OCP Microscaling v1.0). -/
def elemVal (f c : Nat) : Val :=
  if f == 0 then bf16.decode c
  else if f == 1 then (if c % 128 == 127 then .nan else smallFloat 4 3 c)
  else if f == 2 then Fmt.decode ⟨5, 2⟩ c
  else if f == 3 then smallFloat 2 3 c
  else if f == 4 then smallFloat 3 2 c
  else if f == 5 then smallFloat 2 1 c
  else if f == 6 then (let i := signedOf 8 c; .fin (decide (i < 0)) i.natAbs (-6))
  else fp32.decode c

/-- Element `i` of a span of `n` elements. -/
def elemAt (f : Nat) (span : List Byte) (i : Nat) : Val :=
  let w := mfmtBits f
  let b := w * i
  elemVal f (bits (natOfBytes ((span.drop (b / 8)).take 4)) (b % 8) w)

/-- Scale `j` of a span of `n` elements: E8M0, 0xFF a NaN (R241). -/
def scaleAt (f n : Nat) (span : List Byte) (j : Nat) : Val :=
  if mfmtScaled f then
    let c := (span.getD (n * mfmtBits f / 8 + j) 0).toNat
    if c == 255 then .nan else .fin false 1 ((c : Int) - 127)
  else .fin false 1 0

/-- Thirty-two elements of a span from element `i`, with their scale. -/
def segmentOf (f n : Nat) (span : List Byte) (i : Nat) : List Val × Val :=
  ((upFrom i 32).map (fun k => elemAt f span k), scaleAt f n span (i / 32))

/-- Segments' products summed exactly, scaled exactly and rounded once to FP32 (R242). -/
def segmentDot (a b : List Val × Val) : Nat :=
  let sum := (a.1.zip b.1).foldl (fun acc e => acc.add (e.1.mul e.2)) (Val.fin false 0 0)
  fp32.encode ((sum.mul a.2).mul b.2)

/-- Segment results added to an FP32 accumulator in ascending order (R242). -/
def dotSegments (l : List ((List Val × Val) × (List Val × Val))) : Nat :=
  l.foldl (fun acc e => f32add acc (segmentDot e.1 e.2)) 0

/-- round64 of Table 7.4. -/
def round64 (n : Nat) : Nat := 64 * ceilDiv n 64

/-- Blocks of a full course (R245). -/
def courseBlocks : Nat := 2097152

/-- BODY of a rate (R244). -/
def bodyBytes (rate : Nat) : Nat := 8 + 32 * rate

/-- S of R245: the bytes from one course to the next. -/
def courseStride (rate : Nat) : Nat :=
  round64 (courseBlocks * bodyBytes rate) + round64 (4 * courseBlocks) + 128 * courseBlocks

/-- Blocks of the course of block `b` in a stream of `n` blocks. -/
def courseLen (n b : Nat) : Nat := min courseBlocks (n - b / courseBlocks * courseBlocks)

/-- Offsets of block `b` in a stream of `n` blocks: its body, its index entry and its course's patch area (R244,
R245). -/
def blockBody (rate b : Nat) : Nat := b / courseBlocks * courseStride rate + b % courseBlocks * bodyBytes rate
def blockIndex (rate n b : Nat) : Nat :=
  b / courseBlocks * courseStride rate + round64 (courseLen n b * bodyBytes rate) + 4 * (b % courseBlocks)
def blockPatches (rate n b : Nat) : Nat :=
  b / courseBlocks * courseStride rate + round64 (courseLen n b * bodyBytes rate) + round64 (4 * courseLen n b)

/-- The largest size of a stream of `n` blocks (R252). -/
def streamBytes (rate n : Nat) : Nat :=
  let c := ceilDiv n courseBlocks
  let last := n - (c - 1) * courseBlocks
  (c - 1) * courseStride rate + round64 (last * bodyBytes rate) + round64 (4 * last) + 128 * last

/-- Centroid `j` of slot `k`, BF16 (R249, R270). -/
def Chip.centroid (s : Chip) (k j : Nat) : Nat := bits (s.regs.word (A.CDC_TABLE k (j / 4))).toNat (16 * (j % 4)) 16

/-- The bytes of the patches that an index entry names: their offset in the patch area and their number. -/
def indexOff (e : Nat) : Nat := 4 * bits e 0 26
def indexCount (e : Nat) : Nat := bits e 26 6

/-- Why a block fails before its patches are read (R248): its header and its index entry. `pinned` are the slots that
the command pinned, `len` the blocks of its course. -/
def blockFault (rate : Nat) (pinned : List Nat) (len hdr idx : Nat) : Option Status :=
  if indexCount idx == 63 then some .lengthRange
  else if bits hdr 12 4 != 0 || bits hdr 32 32 != 0 || bits hdr 8 4 != rate || !pinned.contains (bits hdr 0 8)
      || bitAt hdr 31 || bits hdr 23 8 == 255
      || Nat.ble 33 (indexCount idx) || Nat.blt (32 * len) (bits idx 0 26 + indexCount idx) then some .formatInvalid
  else none

/-- Whether patch entries are well formed (R248): reserved bits zero, positions strictly ascending. -/
def patchesOk : List Nat → Bool
  | [] => true
  | [a] => bits a 8 8 == 0
  | a :: b :: l => bits a 8 8 == 0 && Nat.blt (a % 256) (b % 256) && patchesOk (b :: l)

/-- The 256 values of a block, BF16 codes (R248). -/
def Chip.decodeBlock (s : Chip) (rate : Nat) (body : List Byte) (patches : List Nat) : List Nat :=
  let n := natOfBytes body
  let cb := bits n 0 8
  let scale := bf16.decode (bits n 16 16)
  (upFrom 0 256).map (fun i =>
    match patches.find? (fun p => p % 256 == i) with
    | some p => bits p 16 16
    | none => convertFmt fp32 bf16 (fp32.encode ((bf16.decode (s.centroid cb (bits n (64 + rate * i) rate))).mul scale)))

/-- The square root of an FP32 code that is not negative, rounded once. -/
def f32sqrt (a : Nat) : Nat :=
  match fp32.decode a with
  | .fin false m e =>
    -- m × 2^e = (m × 2^k) × 2^(e-k) with e - k even, and 2^k large
    let k : Int := 200 + (e % 2)
    let x := m * 2 ^ k.toNat
    let r := Nat.sqrt x
    fp32.encode (.fin false (2 * r + b2n (r * r != x)) ((e - k) / 2 - 1))
  | .inf false => a
  | .fin true 0 _ => a
  | _ => fp32.nanCode

/-- A block's scale: bf16(clip × sqrt(mean of squares)), each operation rounded to FP32 in ascending order (R250,
R252; log entry 29). -/
def blockScale (clip : Nat) (x : List Nat) : Nat :=
  let sum := x.foldl (fun acc v => f32add acc (f32mul v v)) 0
  convertFmt fp32 bf16 (f32mul clip (f32sqrt (f32div sum (fp32.encode (.fin false x.length 0)))))

/-- centre(j) of R250 as an exact value: (2j + 1 - 4096) / 4096. -/
def centreOf (j : Nat) : Val :=
  let i : Int := 2 * (j : Int) - 4095
  .fin (decide (i < 0)) i.natAbs (-12)

/-- bin(y) of R250. -/
def binOf (y : Nat) : Nat :=
  match fp32.decode y with
  | .nan => 0
  | .inf neg => if neg then 0 else 4095
  | .fin neg m e =>
    -- floor((y + 1) × 2048)
    let v : Int := (m : Int) * (if neg then -1 else 1)
    let f : Int := if e + 11 ≥ 0 then v * 2 ^ (e + 11).toNat + 2048 else (v + 2048 * 2 ^ (-(e + 11)).toNat) / 2 ^ (-(e + 11)).toNat
    min 4095 f.toNat

/-- The histogram of R250, as the bins in which values fall. -/
def histBins (clip : Nat) (blocks : List (List Nat)) : List Nat :=
  blocks.flatMap (fun x =>
    let sc := blockScale clip x
    -- s > 0
    if !((Val.fin false 0 0).lt (bf16.decode sc)) then []
    else x.map (fun v => binOf (f32div v (fp32.encode (bf16.decode sc)))))

/-- The distance of two values, exactly. -/
def distance (a b : Val) : Val :=
  match a.add (b.mul (.fin true 1 0)) with
  | .fin _ m e => .fin false m e
  | v => v

/-- The first of the values in `l` (with their places) that lies nearest `y`. -/
def nearestOf (l : List (Nat × Val)) (y : Val) : Nat :=
  match l with
  | [] => 0
  | (k, v) :: l =>
    (l.foldl (fun (best : Nat × Val) e => if (distance e.2 y).lt (distance best.2 y) then e else best) (k, v)).1

/-- The places of a list's elements. -/
def numbered {α : Type} (l : List α) : List (Nat × α) := (upFrom 0 l.length).zip l

/-- One refinement pass of R250 over the non-empty bins: FP32 sums in ascending order of bin (log entry 29). -/
def refine (h : List (Nat × Nat)) (c : List Nat) : List Nat :=
  let near := h.map (fun e => (nearestOf (numbered (c.map fp32.decode)) (centreOf e.1), e))
  (numbered c).map (fun kc =>
    let mine := (near.filter (fun e => e.1 == kc.1)).map (·.2)
    if mine.isEmpty then kc.2
    else
      let num := mine.foldl (fun acc e => f32add acc (f32mul (fp32.encode (.fin false e.2 0)) (fp32.encode (centreOf e.1)))) 0
      let den := mine.foldl (fun n e => n + e.2) 0
      f32div num (fp32.encode (.fin false den 0)))

/-- The centroids of R250, BF16 in ascending order; none where the histogram is empty. -/
def buildCentroids (rate clip iter : Nat) (blocks : List (List Nat)) : Option (List Nat) :=
  let bins := histBins clip blocks
  let total := bins.length
  if total == 0 then none
  else
    let h : List (Nat × Nat) :=
      ((distinct (sortBy id bins)).map (fun j => (j, (bins.filter (fun b => b == j)).length)))
    let first (k : Nat) : Nat :=
      -- first j with cumulative count ≥ (k + 0.5) total / 2^rate
      (h.foldl (fun (acc : Nat × Option Nat) e =>
        let cum := acc.1 + e.2
        match acc.2 with
        | some j => (cum, some j)
        | none => (cum, if Nat.ble ((2 * k + 1) * total) (cum * 2 ^ (rate + 1)) then some e.1 else none)) (0, none)).2.getD 4095
    let c := (upFrom 0 (2 ^ rate)).map (fun k => fp32.encode (centreOf (first k)))
    let c := (List.range iter).foldl (fun c _ => refine h c) c
    some (sortBy (fun b => if bitAt b 15 then 32767 - b % 32768 else 32768 + b) (c.map (convertFmt fp32 bf16)))

/-- A value of SRC_FMT (codes 0 to 2 of Table 6.2) as an FP32 code. -/
def srcVal (f c : Nat) : Nat := if f == 0 then c else convertFmt (if f == 1 then bf16 else fp16) fp32 c

/-- The values of a source span. -/
def srcVals (f : Nat) (b : List Byte) : List Nat :=
  let w := if f == 0 then 4 else 2
  (upFrom 0 (b.length / w)).map (fun i => srcVal f (natOfBytes ((b.drop (w * i)).take w)))

/-- An encoded block (R252): its body and its patches. -/
def encodeBlock (rate slot tol clip : Nat) (c x : List Nat) : List Byte × List Nat :=
  let sc := blockScale clip x
  let scf := fp32.encode (bf16.decode sc)
  let cs := numbered (c.map bf16.decode)
  let code (v : Nat) : Nat := if bits sc 0 15 == 0 then 0 else nearestOf cs (fp32.decode (f32div v scf))
  let codes := x.map code
  let err := (x.zip codes).map (fun e =>
    let d := convertFmt fp32 bf16 (f32mul (fp32.encode (bf16.decode (c.getD e.2 0))) scf)
    bits (f32sub e.1 (fp32.encode (bf16.decode d))) 0 31)
  let lim := fp32.decode (f32mul tol scf)
  let beyond := (numbered err).filter (fun e => lim.lt (fp32.decode e.2))
  -- largest error first; errors are codes of numbers that are not negative, so codes order as the numbers do
  let chosen := (sortBy (fun e => 2 ^ 32 - e.2) beyond).take 32
  let patches := (sortBy (fun e => e.1) chosen).map (fun e => e.1 + (convertFmt fp32 bf16 (x.getD e.1 0)) <<< 16)
  let area := (numbered codes).foldl (fun n e => n + e.2 <<< (rate * e.1)) 0
  (bytesOfNat (bodyBytes rate) (slot + rate <<< 8 + sc <<< 16 + area <<< 64), patches)

/-- The address of slot `k`'s owner byte, and its fields. -/
def Chip.slotState (s : Chip) (k : Nat) : Nat := s.rd (A.CDC_SLOT k) F.CDC_SLOT_STATE
def Chip.slotRefs (s : Chip) (k : Nat) : Nat := s.rd (A.CDC_SLOT k) F.CDC_SLOT_REFS
def cbFREE : Nat := 0
def cbBUILDING : Nat := 1
def cbLIVE : Nat := 2
def cbRETIRING : Nat := 3

/-- A slot goes to a state; a FREE one has RATE 0 (Table 7.18). -/
def Chip.setSlot (s : Chip) (k st : Nat) : Chip :=
  let s := s.wr (A.CDC_SLOT k) F.CDC_SLOT_STATE st
  if st == cbFREE then s.wr (A.CDC_SLOT k) F.CDC_SLOT_RATE 0 else s

/-- A pin of (ID, GEN) for partition `p` (R253, Table 7.9): the failing status, or the state with REFS raised. -/
def Chip.pin (s : Chip) (p id gen : Nat) : Except Status Chip :=
  if s.owner (A.CDC_SLOT id) != some p then .error .accessDenied
  else if s.slotState id != cbLIVE || s.rd (A.CDC_SLOT id) F.CDC_SLOT_GEN != gen then .error .formatInvalid
  else if s.slotRefs id == 65535 then .error .busy
  else .ok (s.wr (A.CDC_SLOT id) F.CDC_SLOT_REFS (s.slotRefs id + 1))

/-- One pin released (Table 7.9). -/
def Chip.unpin (s : Chip) (id : Nat) : Chip :=
  let n := s.slotRefs id - 1
  let s := s.wr (A.CDC_SLOT id) F.CDC_SLOT_REFS n
  if s.slotState id == cbRETIRING && n == 0 then s.setSlot id cbFREE else s

/-- Every pin of a command released (R253). -/
def Chip.unpinAll (s : Chip) (m : Cmd) : Chip := m.pins.foldl (fun s k => s.unpin k) s

/-- The pins of a codebook list, all of them or none (R253). -/
def Chip.pinList (s : Chip) (p : Nat) : List (Nat × Nat) → List Nat → Except (Status × Chip) (Chip × List Nat)
  | [], pins => .ok (s, pins)
  | e :: l, pins =>
    match s.pin p e.1 e.2 with
    | .ok s => s.pinList p l (e.1 :: pins)
    | .error st => .error (st, pins.foldl (fun s k => s.unpin k) s)

/-- A codebook is installed: centroids, rate, LIVE, GEN raised by 1 modulo 2^16 with 0 skipped (R254). -/
def Chip.installCodebook (s : Chip) (k rate : Nat) (c : List Nat) : Chip :=
  let words := upFrom 0 64
  let s := words.foldl (fun s i =>
    s.wr (A.CDC_TABLE k i) F.CDC_TABLE_CENTROIDS
      ((upFrom 0 4).foldl (fun n j => n + (c.getD (4 * i + j) 0) <<< (16 * j)) 0)) s
  let g := (s.rd (A.CDC_SLOT k) F.CDC_SLOT_GEN + 1) % 65536
  let s := s.wr (A.CDC_SLOT k) F.CDC_SLOT_GEN (if g == 0 then 1 else g)
  (s.wr (A.CDC_SLOT k) F.CDC_SLOT_RATE rate).setSlot k cbLIVE

/-- CODEBOOK_RETIRE (R254): the status, REFS when it was ordered, and the state. -/
def Chip.retireCodebook (s : Chip) (k : Nat) : Chip × Status × Nat :=
  let r := s.slotRefs k
  if s.slotState k == cbBUILDING then (s, .busy, 0)
  else if s.slotState k == cbLIVE then (s.setSlot k (if r == 0 then cbFREE else cbRETIRING), .ok, r)
  else (s, .ok, r)

end Sys2Proof.Machine
end

