-- ==== Sys2Proof/Machine/Shadow.lean ====
section
/-!
DEFINITION. Shadow comparison: tapped copies, the comparison of units with their references and of digests
(spec/14_errors_and_reliability.md R457 to R460).
-/
namespace Sys2Proof.Machine

/-- Whether partition `p` is the one tapped or shadowed. -/
def Chip.shadowPart (s : Chip) (p : Nat) : Bool := s.rd A.ERR_SHADOW_CFG F.ERR_SHADOW_CFG_PARTITION == p

/-- The partner of the shadow arrangement. -/
def Chip.peerEid (s : Chip) : Nat := s.rd A.ERR_SHADOW_CFG F.ERR_SHADOW_CFG_PEER_EID

/-- In TAP mode a copy of packet `p` goes to the shadow, or is dropped and counted where it cannot be admitted (R458). -/
def Chip.tap (s : Chip) (p : Packet) : Chip :=
  if s.isTap && s.shadowPart p.partition then
    let w := s.sw.waiting
    let r := s.createQuiet { p with dst := s.peerEid, mcast := false, gutter := false, fence := false,
                                    tc := s.rd A.ERR_SHADOW_CFG F.ERR_SHADOW_CFG_TC } none
    match r.2 with
    | .slot _ => r.1.settle
    | .dropped => r.1.count A.ERR_SHADOW_STATUS F.ERR_SHADOW_STATUS_TAP_DROPS
    | .waiting => { r.1 with sw := { r.1.sw with waiting := w } }.count A.ERR_SHADOW_STATUS F.ERR_SHADOW_STATUS_TAP_DROPS
  else s

/-- A collective packet of this E9 is sent, with its copy to the shadow (R458). -/
def Chip.sendTapped (s : Chip) (p : Packet) : Chip := (s.send p).tap p

/-- The collective timeout of partition `p` in ticks: that of the first cell of its list (R217). -/
def Chip.collTimeout (s : Chip) (p : Nat) : Nat :=
  us (s.rd (A.CEL_CFG ((s.cellsOf p).headD 0)) F.CEL_CFG_COLL_TO_US)

/-- The value of an element's code in a format of Table 6.2 that is a float's; SMAX words are FP32. -/
def shadowVal (fmt c : Nat) : Option Val :=
  if fmt == 0 || fmt == 7 then some (fp32.decode c)
  else if fmt == 1 then some (bf16.decode c)
  else if fmt == 2 then some (fp16.decode c)
  else none

/-- The greater of two magnitudes. -/
def Val.magMax (a b : Val) : Val :=
  let m (v : Val) : Val := match v with | .fin _ x e => .fin false x e | .inf _ => .inf false | .nan => .nan
  if (m a).lt (m b) then m b else m a

/-- Whether a shadow value matches its reference (R458). -/
def shadowMatch (rtol floor fmt a b : Nat) : Bool :=
  a == b ||
  match shadowVal fmt a, shadowVal fmt b with
  | some .nan, some .nan => true
  | some (.fin n1 m1 e1), some (.fin n2 m2 e2) =>
    let x := Val.fin n1 m1 e1
    let y := Val.fin n2 m2 e2
    let d := distance x y
    d.le ((fp32.decode rtol).mul (x.magMax y)) || d.le (fp32.decode floor)
  | _, _ => false

/-- An event record of the comparator: the code in DETAIL [7:0], the element offset above it (log entry 30). -/
def Chip.shadowEvent (s : Chip) (code part tag detail : Nat) : Chip :=
  s.log { status := .ok, subsys := .computeCells, partition := some part, tag := tag, detail := code + detail <<< 8, event := true }

/-- A unit compared with its reference (R458). -/
def Chip.compareUnit (s : Chip) (u : ShadowUnit) (ref : List Nat) : Chip :=
  let s := s.wrap A.ERR_SHADOW_STATUS F.ERR_SHADOW_STATUS_COMPARED 1
  let rtol := s.rd A.ERR_SHADOW_TOL F.ERR_SHADOW_TOL_RTOL
  let fl := s.rd A.ERR_SHADOW_TOL F.ERR_SHADOW_TOL_ABS_FLOOR
  let bad := ((upFrom 0 u.codes.length).find? (fun i => !shadowMatch rtol fl u.fmt (u.codes.getD i 0) (ref.getD i 0)))
  match bad with
  | none => s
  | some i =>
    let s := s.count A.ERR_SHADOW_STATUS F.ERR_SHADOW_STATUS_MISMATCHES
    if s.seq.mismatched.contains (u.part, u.collId) then s
    else (s.modSeq (fun q => { q with mismatched := (u.part, u.collId) :: q.mismatched })).shadowEvent 4 u.part u.collId (u.off + i)

/-- The bytes of a code in a unit: a word of an SMAX record is 4 bytes. -/
def ShadowUnit.width (u : ShadowUnit) : Nat := if u.fmt == 7 then 4 else u.size

/-- The codes that a reference holds for a unit, where it covers it. -/
def ShadowRef.codesFor (r : ShadowRef) (u : ShadowUnit) : Option (List Nat) :=
  let e := CollExt.ofBody r.pkt.body
  let at_ := (u.off - e.offset) * u.size
  let n := u.width * u.codes.length
  if r.pkt.partition == u.part && e.collId == u.collId && Nat.ble e.offset u.off && Nat.ble (at_ + n) r.pkt.payload.length then
    let b := (r.pkt.payload.drop at_).take n
    some ((upFrom 0 u.codes.length).map (fun i => natOfBytes ((b.drop (u.width * i)).take u.width)))
  else none

/-- The units that have their reference are compared with it; a reference wholly used is let go. -/
def Chip.compareUnits (s : Chip) : Chip :=
  let s := s.seq.shadows.foldl (fun s u =>
    match s.seq.refs.find? (fun r => (r.codesFor u).isSome) with
    | none => s
    | some r =>
      let s := s.compareUnit u ((r.codesFor u).getD [])
      s.modSeq (fun q => { q with
        shadows := q.shadows.filter (fun x => x != u)
        refs := q.refs.map (fun x => if x == r then { x with used := x.used + u.width * u.codes.length } else x) })) s
  s.modSeq (fun q => { q with refs := q.refs.filter (fun r => Nat.blt r.used r.pkt.payload.length) })

/-- A shadow has completed units of its own (R458). -/
def Chip.ownUnits (s : Chip) (part collId fmt size : Nat) (l : List (Nat × List Nat)) : Chip :=
  if s.isShadow && s.shadowPart part then
    let due := s.raw + s.collTimeout part
    (s.modSeq (fun q => { q with
      shadows := q.shadows ++ l.map (fun e => ⟨part, collId, e.1, size, fmt, e.2, due⟩) })).compareUnits
  else s

/-- A reference of the working E9 arrives. -/
def Chip.takeReference (s : Chip) (p : Packet) : Chip :=
  (s.modSeq (fun q => { q with refs := q.refs ++ [{ pkt := p, due := s.raw + s.collTimeout p.partition }] })).compareUnits

/-- Time moves on to a tick, where that is still to come. -/
def Chip.advanceTo (s : Chip) (t : Nat) : Chip := s.advance (t - s.raw)

/-- The counterpart of the unit or reference at an element offset of a collective is missing (R458): it is let go,
counted and recorded. A reference some of whose units have been compared ends without a count. -/
def Chip.unitMissing (s : Chip) (part collId off : Nat) : Chip :=
  let miss (s : Chip) : Chip :=
    (s.count A.ERR_SHADOW_STATUS F.ERR_SHADOW_STATUS_MISSING).shadowEvent 6 part collId off
  match s.seq.shadows.find? (fun u => u.part == part && u.collId == collId && u.off == off) with
  | some u =>
    miss ((s.advanceTo u.due).modSeq (fun q => { q with shadows := q.shadows.filter (fun x => x != u) }))
  | none =>
    match s.seq.refs.find? (fun r => r.pkt.partition == part && (CollExt.ofBody r.pkt.body).collId == collId
        && (CollExt.ofBody r.pkt.body).offset == off) with
    | some r =>
      let s := (s.advanceTo r.due).modSeq (fun q => { q with refs := q.refs.filter (fun x => x != r) })
      if r.used == 0 then miss s else s
    | none => s

/-- The digest of a span and a result (R459). -/
def digestOf (span : List Byte) (result : Nat) : Nat :=
  let d := (upFrom 0 (ceilDiv span.length 8)).foldl (fun d i =>
    (d + (natOfBytes ((span.drop (8 * i)).take 8) ^^^ (8 * i)) * 0x9E3779B97F4A7C15) % 2 ^ 64) 0
  (d + result) % 2 ^ 64

/-- The two digests of a tag compared, where both have come (R459). -/
def Chip.compareDigests (s : Chip) (tag : Nat) : Chip :=
  match s.seq.digests.find? (fun d => d.own && d.tag == tag), s.seq.digests.find? (fun d => !d.own && d.tag == tag) with
  | some a, some b =>
    let s := s.modSeq (fun q => { q with digests := q.digests.filter (fun d => d != a && d != b) })
    let s := s.wrap A.ERR_SHADOW_STATUS F.ERR_SHADOW_STATUS_COMPARED 1
    if a.status == b.status && a.digest == b.digest then s
    else (s.count A.ERR_SHADOW_STATUS F.ERR_SHADOW_STATUS_MISMATCHES).shadowEvent 5
      (s.rd A.ERR_SHADOW_CFG F.ERR_SHADOW_CFG_PARTITION) tag 0
  | _, _ => s

/-- GATHER or FILTER_SCAN of partition `part` has ended: its digest is sent, or awaits the working E9's (R459). -/
def Chip.ownDigest (s : Chip) (part tag : Nat) (st : Status) (d : Nat) : Chip :=
  if !s.shadowPart part then s
  else if s.isTap then
    s.send { cls := clsSTATUS, tc := s.rd A.ERR_SHADOW_CFG F.ERR_SHADOW_CFG_TC, partition := part, dst := s.peerEid,
             src := s.selfEid, body := StatusBody.body { status := st.code, origClass := clsCMD, addr := d, tag := tag } }
  else if s.isShadow then
    (s.modSeq (fun q => { q with digests := q.digests ++ [⟨true, tag, st.code, d, s.raw + ms 1⟩] })).compareDigests tag
  else s

/-- A STATUS tadpole that carries a digest (R459); the second result is whether it does. -/
def Chip.takeDigest (s : Chip) (p : Packet) : Chip × Bool :=
  let b := StatusBody.ofBody p.body
  if s.isShadow && p.src == s.peerEid && s.shadowPart p.partition && b.origClass == clsCMD then
    ((s.modSeq (fun q => { q with digests := q.digests ++ [⟨false, b.tag, b.status, b.addr, 0⟩] })).compareDigests b.tag, true)
  else (s, false)

/-- The working E9's digest of a tag is absent 1 ms after the shadow's own completion (R459). -/
def Chip.digestMissing (s : Chip) (tag : Nat) : Chip :=
  match s.seq.digests.find? (fun d => d.own && d.tag == tag) with
  | none => s
  | some d =>
    let s := (s.advanceTo d.due).modSeq (fun q => { q with digests := q.digests.filter (fun x => x != d) })
    (s.count A.ERR_SHADOW_STATUS F.ERR_SHADOW_STATUS_MISSING).shadowEvent 6
      (s.rd A.ERR_SHADOW_CFG F.ERR_SHADOW_CFG_PARTITION) tag 0

end Sys2Proof.Machine
end

