-- ==== Sys2Proof/Machine/Reduce.lean ====
section
/-!
DEFINITION. The collective plan record and the arithmetic of reductions, softmax merges, candidate lists and draws
(spec/06_compute_cells.md R201 to R205, R208, R214 to R216, R221 to R226).
-/
namespace Sys2Proof.Machine

/-- A plan header (Table 6.3). -/
structure Plan where
  collId : Nat
  kind : Nat
  op : Nat
  fmtIn : Nat
  fmtOut : Nat
  root : Bool
  localSrc : Bool
  localDst : Bool
  unicast : Bool
  normalise : Bool
  ncontrib : Nat
  seqs : Nat
  group : Nat
  parent : Nat
  dst : Nat
  elements : Nat
  param : Nat
  shardLen : Nat
  base : Nat
  acc : Nat
  src : Nat
  dstOff : Nat
  dstCounter : Nat
  nscatter : Nat
  seed : Nat
  seeded : Bool
deriving DecidableEq, Repr

/-- The plan that a header spells. -/
def Plan.of (h : Nat) : Plan :=
  { collId := bits h 0 16, kind := bits h 16 3, op := bits h 20 4, fmtIn := bits h 24 4, fmtOut := bits h 28 4,
    root := bitAt h 32, localSrc := bitAt h 33, localDst := bitAt h 34, unicast := bitAt h 35, normalise := bitAt h 36,
    ncontrib := bits h 40 8, seqs := bits h 48 4, group := bits h 52 12, parent := bits h 64 14, dst := bits h 80 14,
    elements := bits h 96 32, param := bits h 128 32, shardLen := bits h 160 32, base := bits h 192 32,
    acc := bits h 224 21, src := bits h 256 38, dstOff := bits h 296 38, dstCounter := bits h 336 14,
    nscatter := bits h 352 14, seed := bits h 384 64, seeded := bitAt h 448 }

/-- Whether the reserved bits of a header are zero. -/
def planReservedZero (h : Nat) : Bool :=
  !bitAt h 19 && bits h 37 3 == 0 && bits h 78 2 == 0 && bits h 94 2 == 0 && bits h 245 11 == 0 && bits h 294 2 == 0
    && bits h 334 2 == 0 && bits h 350 2 == 0 && bits h 366 18 == 0 && bits h 449 63 == 0

/-- Bytes of an element of a format of Table 6.2, for head dimension `d`. -/
def fmtSize (f d : Nat) : Nat :=
  if f == 1 || f == 2 then 2 else if f == 4 || f == 6 || f == 8 then 8 else if f == 7 then (d + 32) * 4 else 4

/-- Whether a plan works on candidate lists. -/
def Plan.isCand (p : Plan) : Bool := Nat.ble 6 p.kind

/-- Whether its elements are added up as floats. -/
def Plan.isFloat (p : Plan) : Bool := Nat.ble p.fmtIn 2

/-- The formats of a contribution, of a partial (the carrier of Table 6.2) and of a result. Kinds 3 and 4 convert
nothing (R203). -/
def Plan.inFmt (p : Plan) : Nat := if p.isCand then 8 else p.fmtIn
def Plan.midFmt (p : Plan) : Nat :=
  if p.isCand then 8 else if Nat.ble p.kind 2 then (if p.isFloat then 0 else 4) else p.fmtIn
def Plan.fmtOf (p : Plan) (role : Nat) : Nat := if role == 0 then p.inFmt else if role == 1 then p.midFmt else p.fmtOut

/-- Bytes of an offset unit in a format. -/
def Plan.size (p : Plan) (f : Nat) : Nat := fmtSize f p.param

/-- Offset units of a completion unit, number of completion units and offset units in all (R208). -/
def Plan.unitLen (p : Plan) : Nat := if Nat.ble p.kind 4 then 32 else if p.kind == 5 then 1 else p.param
def Plan.extent (p : Plan) : Nat := if p.isCand then p.seqs * p.param else p.elements
def Plan.unitCount (p : Plan) : Nat := if p.isCand then p.seqs else ceilDiv p.elements p.unitLen

/-- Offset units of completion unit `u`. -/
def Plan.lenOf (p : Plan) (u : Nat) : Nat := min p.unitLen (p.extent - u * p.unitLen)

/-- The accumulator footprint of a unit (Table 6.5). -/
def Plan.footprint (p : Plan) : Nat :=
  if Nat.ble p.kind 2 then (if p.isFloat then 144 else 272)
  else if Nat.ble p.kind 4 then 32 * p.size p.fmtIn + 16
  else if p.kind == 5 then (p.param + 32) * 4 + 16
  else 16 * p.param + 16

/-- The operators and formats that a kind takes (Table 6.4, R203). -/
def Plan.paired (p : Plan) : Bool :=
  if Nat.ble p.kind 2 then
    p.op != 0 && Nat.ble p.fmtIn 4
      && (p.fmtOut == p.fmtIn || (p.isFloat && p.fmtOut == 0) || (!p.isFloat && p.fmtOut == 4))
  else if Nat.ble p.kind 4 then p.op == 0 && Nat.ble p.fmtIn 6 && p.fmtOut == p.fmtIn
  else if p.kind == 5 then p.op == 0 && p.fmtIn == 7 && p.fmtOut == 7
  else p.op == 0 && p.fmtOut == 8 && (if p.localSrc then Nat.ble p.fmtIn 2 else p.fmtIn == 8)

/-- The numbers of `w` bytes that a list of bytes holds. -/
def numbersOf (w : Nat) (b : List Byte) : List Nat :=
  (upFrom 0 (b.length / w)).map (fun i => natOfBytes ((b.drop (w * i)).take w))

/-- The codes of `n` offset units in a format: an SMAX record is its words. -/
def codesOf (f : Nat) (b : List Byte) : List Nat := numbersOf (if f == 7 then 4 else fmtSize f 0) b

/-- The bytes of codes. -/
def bytesOf (f : Nat) (l : List Nat) : List Byte := l.flatMap (bytesOfNat (if f == 7 then 4 else fmtSize f 0))

/-- A contribution's code in the carrier format (R202, R203). -/
def carrierOf (f c : Nat) : Nat :=
  if Nat.ble f 2 then convertFmt (if f == 0 then fp32 else if f == 1 then bf16 else fp16) fp32 c
  else if f == 3 then codeOfInt 64 (signedOf 32 c)
  else c

/-- A carrier code rounded to the result's format (R203). -/
def roundOut (f c : Nat) : Nat :=
  if f == 1 then convertFmt fp32 bf16 c else if f == 2 then convertFmt fp32 fp16 c else if f == 3 then c % 2 ^ 32 else c

/-- Two carrier codes under an operator (R202). -/
def reduceOp (op : Nat) (isFloat : Bool) (a b : Nat) : Nat :=
  if isFloat then (if op == 1 then f32add a b else if op == 2 then f32min a b else f32max a b)
  else if op == 1 then (a + b) % 2 ^ 64
  else if decide (signedOf 64 a < signedOf 64 b) == (op == 2) then a else b

/-- Whether an FP32 code is NaN or +∞. -/
def f32bad (c : Nat) : Bool := f32isNan c || c == fp32.infCode false

/-- An SMAX record is its words: m, l, thirty zeros and o (R214). -/
def smaxIdentity (d : Nat) : List Nat := fp32.infCode true :: List.replicate (d + 31) 0

/-- A record's l is zero. -/
def smaxEmpty (r : List Nat) : Bool := bits (r.getD 1 0) 0 31 == 0

/-- Whether a record is well formed (R214); the all-NaN record of R215 is a record too (log entry 31). -/
def smaxOk (r : List Nat) : Bool := ((r.drop 2).take 30).all (· == 0) || r.all (· == fp32.nanCode)

/-- The merge of two records (R215). -/
def smaxMerge (a b : List Nat) : List Nat :=
  let am := a.getD 0 0
  let al := a.getD 1 0
  let bm := b.getD 0 0
  let bl := b.getD 1 0
  if f32bad am || f32bad al || f32bad bm || f32bad bl then a.map (fun _ => fp32.nanCode)
  else if smaxEmpty b then a
  else if smaxEmpty a then b
  else
    let mx := f32max am bm
    let sa := f32exp (f32sub am mx)
    let sb := f32exp (f32sub bm mx)
    mx :: f32add (f32mul al sa) (f32mul bl sb) :: (List.replicate 30 0
      ++ ((a.drop 32).zip (b.drop 32)).map (fun e => f32add (f32mul e.1 sa) (f32mul e.2 sb)))

/-- A record as it leaves at the commit (R215, R216). -/
def smaxResult (normalise : Bool) (r : List Nat) : List Nat :=
  if smaxEmpty r && !f32bad (r.getD 0 0) then smaxIdentity (r.length - 32)
  else if normalise then
    r.take 32 ++ (r.drop 32).map (fun o => if smaxEmpty r then 0 else f32div o (r.getD 1 0))
  else r

/-- A pad, and a candidate's parts (R221): the code is 8 bytes. -/
def candPad : Nat := fp32.nanCode + 0xFFFFFFFF <<< 32
def candIndex (c : Nat) : Nat := bits c 32 32
def candValue (c : Nat) : Nat := bits c 0 32

/-- 0: a number; 1: a NaN value; 2: a pad. -/
def candRank (c : Nat) : Nat := if candIndex c == 0xFFFFFFFF then 2 else if f32isNan (candValue c) then 1 else 0

/-- Candidate `a` precedes `b` (R221). -/
def candBefore (a b : Nat) : Bool :=
  if candRank a != candRank b then Nat.blt (candRank a) (candRank b)
  else if candRank a == 2 then false
  else
    let x := fp32.decode (candValue a)
    let y := fp32.decode (candValue b)
    y.lt x || (!(x.lt y) && Nat.blt (candIndex a) (candIndex b))

/-- A candidate put into a list in the candidate order. -/
def candInsert (c : Nat) : List Nat → List Nat
  | [] => [c]
  | x :: l => if candBefore c x then c :: x :: l else x :: candInsert c l

/-- Two lists merged, the first `k` kept (R222). -/
def candMerge (k : Nat) (a b : List Nat) : List Nat := (b.foldl (fun l c => (candInsert c l).take k) a).take k

/-- Whether a list is sorted in the candidate order. -/
def candSorted : List Nat → Bool
  | [] => true
  | [_] => true
  | a :: b :: l => !candBefore b a && candSorted (b :: l)

/-- The local list of a shard (R222): its first `k` candidates, padded. -/
def localList (k base fmt : Nat) (logits : List Nat) : List Nat :=
  let l := (numbered logits).foldl (fun l e =>
    let v := carrierOf fmt e.2
    if f32isNan v then l else (candInsert (v + ((base + e.1) % 2 ^ 32) <<< 32) l).take k) []
  (l ++ List.replicate k candPad).take k

/-- A unit's accumulator with a contribution, in carrier codes: the first is copied (R208, R215, R222). -/
def Plan.merge (p : Plan) (acc : Option (List Nat)) (x : List Nat) : List Nat :=
  match acc with
  | none => x
  | some a =>
    if Nat.ble p.kind 2 then (a.zip x).map (fun e => reduceOp p.op p.isFloat e.1 e.2)
    else if p.kind == 5 then smaxMerge a x
    else if p.isCand then candMerge p.param a x
    else x

/-- A unit's result in the codes of FMT_OUT (R203, R216). -/
def Plan.result (p : Plan) (acc : List Nat) : List Nat :=
  if Nat.ble p.kind 2 then acc.map (roundOut p.fmtOut)
  else if p.kind == 5 then smaxResult p.normalise acc
  else acc

/-- An entry of the sampling table (Table 6.10) and its checks (R224). -/
def sampTemp (e : Nat) : Nat := bits e 0 32
def sampTopK (e : Nat) : Nat := bits e 32 16
def sampTopP (e : Nat) : Nat := bits e 64 32
def sampOk (e : Nat) : Bool :=
  bits e 48 16 == 0 && bits e 96 32 == 0
    && (match fp32.decode (sampTemp e) with | .fin neg m _ => m == 0 || !neg | _ => false)
    && (match fp32.decode (sampTopP e) with
        | .fin false m x => m != 0 && (Val.fin false m x).le (.fin false 1 0)
        | _ => false)

/-- The running sums of weights, rounded to FP32 in candidate order. -/
def runningSums (l : List Nat) : List Nat :=
  (l.foldl (fun (acc : List Nat × Nat) w => let t := if acc.1.isEmpty then w else f32add acc.2 w
    (acc.1 ++ [t], t)) ([], 0)).1

/-- What a draw over one sequence's list says (R223): no token, a token, or the draw of one: the token for each of the 32
bits `r`, none where the arithmetic settles none. -/
inductive Draw where
  | none
  | token (i : Nat)
  | drawn (pick : List (Nat × Nat)) (s : Nat)
deriving DecidableEq, Repr

/-- The draw prepared: candidates' indices with their running sums, and the sum of those kept. -/
def drawOf (e : Nat) (list : List Nat) : Draw :=
  let l := (list.take (sampTopK e)).filter (fun c => candRank c == 0)
  match l with
  | [] => .none
  | c0 :: _ =>
    if bits (sampTemp e) 0 31 == 0 then .token (candIndex c0)
    else
      let w := l.map (fun c => f32exp (f32div (f32sub (candValue c) (candValue c0)) (sampTemp e)))
      let sums := runningSums w
      let limit := fp32.decode (f32mul (sampTopP e) (sums.getLastD 0))
      let keep := match sums.findIdx? (fun t => limit.le (fp32.decode t)) with | some j => j + 1 | none => l.length
      .drawn ((l.take keep).zip sums |>.map (fun x => (candIndex x.1, x.2))) (sums.getD (keep - 1) 0)

/-- The token that 32 generator bits draw; none where no running sum reaches the mark (a NaN among the weights). -/
def pickOf (pick : List (Nat × Nat)) (s r : Nat) : Option Nat :=
  let u := fp32.encode (.fin false (2 * r + 1) (-33))
  let mark := fp32.decode (f32mul u s)
  (pick.find? (fun x => mark.le (fp32.decode x.2))).map (·.1)

end Sys2Proof.Machine
end

