-- ==== Sys2Proof/Machine/Collect.lean ====
section
/-!
DEFINITION. Collectives: the open, contributions, the tree, the commit, the watchdog and the abort
(spec/06_compute_cells.md R205 to R226, spec/14_errors_and_reliability.md R458).
-/
namespace Sys2Proof.Machine

/-- A plan record that has passed its checks. -/
structure PlanRec where
  header : Nat
  plan : Plan
  contrib : List Nat
  scatter : List Nat
  sampling : List Nat

/-- Bytes of a list of `n` 16-bit entries, padded to 8. -/
def planListBytes (n : Nat) : Nat := 8 * ceilDiv (2 * n) 8

/-- Whether EID `e` belongs to partition `p` (R163). -/
def Chip.eidOf (s : Chip) (e p : Nat) : Bool :=
  s.flag (A.HOM_HOST e) F.HOM_HOST_ASSIGNED && s.rd (A.HOM_HOST e) F.HOM_HOST_PARTITION == p

/-- The open collective of a partition and COLL_ID. -/
def Chip.coll? (s : Chip) (p id : Nat) : Option Coll := s.seq.colls.find? (fun c => c.part == p && (Plan.of c.plan).collId == id)

/-- CTX_USED of every cell brought up to date (Table 6.17). -/
def Chip.syncContexts (s : Chip) (cells : List Nat) : Chip :=
  cells.foldl (fun s e =>
    s.wr (A.CEL_STATUS e) F.CEL_STATUS_CTX_USED ((s.seq.colls.filter (fun c => c.cells.contains e)).length)) s

/-- The check of a plan in the order of R206 (and R292): a status, or the record; none where it completes with OK and
opens nothing. -/
def Chip.planCheck (s : Chip) (part off op : Nat) : Except Status (Option PlanRec) :=
  match s.stgRead part off 64 with
  | .error st => .error st
  | .ok b =>
    let h := natOfBytes b
    let p := Plan.of h
    let cells := s.cellsOf part
    let c := planListBytes p.ncontrib
    let sc := planListBytes p.nscatter
    let tab := if p.kind == 7 && p.root then 128 else 0
    let lists := if Nat.ble p.ncontrib 128 then s.stgRead part (off + 64) (c + sc + tab) else .error .formatInvalid
    let lb := match lists with | .ok l => l | .error _ => []
    let cent := numbersOf 2 (lb.take c)
    let sent := numbersOf 2 ((lb.drop c).take sc)
    let samp := numbersOf 16 (lb.drop (c + sc))
    let k := p.param
    let inSize := if p.isCand then p.shardLen * p.seqs * fmtSize p.fmtIn 0 else p.elements * p.size p.fmtIn
    let outSize := if p.kind == 7 then 48 else p.extent * p.size p.fmtOut
    -- step 1: R14, R16, R17, then R18
    if !planReservedZero h || Nat.blt 3 p.op || Nat.blt 8 p.fmtIn || Nat.blt 8 p.fmtOut || p.acc % 256 != 0
        || (Nat.blt 128 p.ncontrib && p.ncontrib != 255)
        || (p.isCand && Nat.ble 9 p.seqs && p.seqs != 15)
        || (cent ++ sent).any (fun e => Nat.ble 16384 e)
        || (cent.drop p.ncontrib).any (· != 0) || (sent.drop p.nscatter).any (· != 0)
        || (samp.take p.seqs).any (fun e => !sampOk e) then .error .formatInvalid
    else if p.ncontrib == 255 || p.nscatter == 2 ^ 14 - 1 || p.elements == 2 ^ 32 - 1
        || ((p.kind == 2 || p.isCand) && k == 2 ^ 32 - 1)
        || (p.isCand && (p.seqs == 15 || (p.localSrc && p.shardLen == 2 ^ 32 - 1))) then .error .lengthRange
    else if (!cells.isEmpty && Nat.blt (2 ^ 21) (ceilDiv p.unitCount cells.length * p.footprint + p.acc))
        || (samp.take p.seqs).any (fun e => Nat.blt k (sampTopK e)) then .error .lengthRange
    else if p.elements == 0 || (p.isCand && (p.seqs == 0 || k == 0)) then .ok none
    -- step 2
    else if p.kind != collKind op || !p.paired || Nat.blt 128 (p.ncontrib + b2n p.localSrc)
        || (p.kind == 2 && (p.nscatter * k != p.elements || k % 32 != 0))
        || (p.kind == 5 && (k % 32 != 0 || Nat.blt k 32 || Nat.blt 256 k))
        || (p.isCand && Nat.blt 512 k) then .error .formatInvalid
    -- step 3
    else if cells.isEmpty || (cent.take p.ncontrib ++ sent.take p.nscatter).any (fun e => !s.eidOf e part)
        || (p.localDst && !s.counterIs p.dstCounter part) then .error .accessDenied
    else
      -- step 4
      match lists with
      | .error st => .error st
      | .ok _ =>
        if (p.localSrc && !s.stgHas part p.src inSize) || (p.localDst && !s.stgHas part p.dstOff outSize) then .error .quota
        -- step 5
        else if (s.coll? part p.collId).isSome
            || cells.any (fun e => Nat.ble 16 ((s.seq.colls.filter (fun x => x.cells.contains e)).length)) then .error .busy
        else .ok (some ⟨h, p, cent.take p.ncontrib, sent.take p.nscatter, samp.take p.seqs⟩)

/-- A collective put back in its place. -/
def Chip.setColl (s : Chip) (c : Coll) : Chip :=
  s.modSeq (fun q => { q with colls := q.colls.map (fun x => if x.key == c.key then c else x) })

/-- The collective of a key. -/
def Chip.collKey? (s : Chip) (key : Nat) : Option Coll := s.seq.colls.find? (fun c => c.key == key)

/-- Its plan. -/
def Coll.p (c : Coll) : Plan := Plan.of c.plan

/-- The cell of unit `u` (R208). -/
def Coll.cellOf (c : Coll) (u : Nat) : Nat := c.cells.getD (u % max 1 c.cells.length) 0

/-- A unit. -/
def Coll.unit (c : Coll) (u : Nat) : CUnit := (c.units.find u).getD {}

/-- The mask of every contributor (R210). -/
def Coll.full (c : Coll) : Nat := 2 ^ c.contrib.length - 1 + b2n c.p.localSrc * 2 ^ c.contrib.length

/-- Whether unit `u` is complete (R210). -/
def Coll.done (c : Coll) (u : Nat) : Bool :=
  let p := c.p
  Nat.blt u p.unitCount
    && (if p.kind == 3 || p.kind == 4 then (c.unit u).mask != 0 else (c.unit u).mask == c.full)

/-- Whether contributor `i` (the local source is the last) still owes data; under ALLGATHER and BROADCAST, one that has
filled no unit (log entry 32). -/
def Coll.owes (c : Coll) (i : Nat) : Bool :=
  let us := upFrom 0 c.p.unitCount
  if c.p.kind == 3 || c.p.kind == 4 then us.any (fun u => !c.done u) && us.all (fun u => !bitAt (c.unit u).mask i)
  else us.any (fun u => !bitAt (c.unit u).mask i)

/-- Whether any unit that the context expects is incomplete (R217). A non-root of an ALLGATHER or BROADCAST expects what
its own contributors owe (log entry 32). -/
def Coll.expecting (c : Coll) : Bool :=
  let p := c.p
  if c.committed then false
  else if (p.kind == 3 || p.kind == 4) && !p.root then
    (upFrom 0 (c.contrib.length + b2n p.localSrc)).any (fun i => c.owes i)
  else (upFrom 0 p.unitCount).any (fun u => !c.done u)

/-- A drop counted in the cell of unit `u` (Table 6.17). -/
def Chip.collDrop (s : Chip) (c : Coll) (u : Nat) (f : Fld) : Chip := s.count (A.CEL_STATUS (c.cellOf u)) f

/-- The accumulator and mask of a unit as they lie in the scratchpad (Table 6.5): the accumulator in the carrier format,
the mask in the last 16 bytes (log entry 33). -/
def Chip.mirrorUnit (s : Chip) (c : Coll) (u : Nat) : Chip :=
  let p := c.p
  let x := c.unit u
  let acc := (bytesOf p.midFmt x.acc).take (p.footprint - 16)
  s.scrPut (c.cellOf u) (p.acc + u / max 1 c.cells.length * p.footprint)
    (acc ++ zeroBytes (p.footprint - 16 - acc.length) ++ bytesOfNat 16 x.mask)

/-- The watchdog of a context restarts, or stops where nothing is awaited (R217). -/
def Chip.collWatch (s : Chip) (c : Coll) : Chip :=
  if c.expecting then s.startTimer (.collective c.key) (s.collTimeout c.part) else s.stopTimer (.collective c.key)

/-- Contribution `i` to units given by their carrier codes: a unit already marked, or under kinds 3 and 4 already filled,
is discarded and counted (R210). The second result is whether any was applied. -/
def Chip.collApply (s : Chip) (c : Coll) (i : Nat) (l : List (Nat × List Nat)) : Chip × Coll × Bool :=
  l.foldl (fun (acc : Chip × Coll × Bool) e =>
    let (s, c, took) := acc
    let x := c.unit e.1
    if bitAt x.mask i || ((c.p.kind == 3 || c.p.kind == 4) && x.mask != 0) then
      (s.collDrop c e.1 F.CEL_STATUS_DUP_DROPS, c, took)
    else
      let x := { x with acc := c.p.merge (if x.mask == 0 then none else some x.acc) e.2, mask := x.mask + 2 ^ i }
      let c := { c with units := c.units.put e.1 x }
      (s.mirrorUnit c e.1, c, true)) (s, c, false)

/-- The units of `n` offset units from offset `off`, with their codes in the carrier format; `f` is the format of the
bytes. -/
def Plan.unitsAt (p : Plan) (f off n : Nat) (bytes : List Byte) : List (Nat × List Nat) :=
  let len := max 1 p.unitLen
  let first := off / len
  (upFrom first (ceilDiv (off + n) len - first)).map (fun u =>
    let at_ := (u * len - off) * p.size f
    let codes := codesOf f ((bytes.drop at_).take (p.lenOf u * p.size f))
    (u, if Nat.ble p.kind 2 then codes.map (carrierOf f) else codes))

/-- The runs of units that a packet each takes, from unit `u` on: complete and not yet all sent, up to `mx` of them, cut at
whole segments of `g` units but for the last (log entry 34). -/
def runsFrom (total g mx : Nat) (done sent : Nat → Bool) : Nat → Nat → List (Nat × Nat)
  | 0, _ => []
  | n + 1, u =>
    if Nat.ble total u then []
    else if sent u || !done u then runsFrom total g mx done sent n (u + 1)
    else
      let m := ((upFrom u (min mx (total - u))).takeWhile done).length
      let m := if u + m == total then m else m / g * g
      if m == 0 then runsFrom total g mx done sent n (u + 1) else (u, m) :: runsFrom total g mx done sent n (u + m)

/-- Units of a packet of 4,096 bytes and of a segment, in a format. -/
def Plan.perPacket (p : Plan) (f : Nat) : Nat := if p.isCand then 1 else max 1 (4096 / max 1 (p.unitLen * p.size f))
def Plan.perSegment (p : Plan) (f : Nat) : Nat := if p.isCand || p.kind == 5 then 1 else max 1 (256 / max 1 (p.unitLen * p.size f))

/-- A COLL packet of this E9 from element `off` on. -/
def Chip.collPacketOf (s : Chip) (part collId role off dst : Nat) (mcast : Bool) (data : List Byte) : Packet :=
  let segs := ceilDiv data.length 256
  { cls := clsCOLL, partition := part, dst := dst, src := s.selfEid, mcast := mcast, segs := segs,
    body := CollExt.body { collId := collId, offset := off, role := role }, payload := data ++ zeroBytes (256 * segs - data.length) }

/-- The completed units of a non-root leave as partials to its parent (R212). -/
def Chip.sendPartials (s : Chip) (key : Nat) : Chip :=
  match s.collKey? key with
  | none => s
  | some c =>
    let p := c.p
    let f := p.midFmt
    let runs := if c.full == 0 then [] else
      runsFrom p.unitCount (p.perSegment f) (p.perPacket f) c.done (fun u => (c.unit u).sent) (p.unitCount + 1) 0
    runs.foldl (fun s r =>
      match s.collKey? key with
      | none => s
      | some c =>
        let us := upFrom r.1 r.2
        let pkt := s.collPacketOf c.part p.collId 1 (r.1 * p.unitLen) p.parent false
          (us.flatMap (fun u => bytesOf f (c.unit u).acc))
        let fate := if s.suppressed pkt then (s, Fate.dropped) else s.create pkt
        let s := fate.1.tap pkt
        let stamp := match fate.2 with
          | .slot id => (match s.slot? id with | some sl => [(sl.pkt.fgen, sl.pkt.seq)] | none => [])
          | _ => []
        let c := { c with
          units := us.foldl (fun t u => t.put u { c.unit u with sent := true }) c.units
          sent := stamp ++ c.sent }
        (s.setColl c).ownUnits c.part p.collId f (p.size f) (us.map (fun u => (u * p.unitLen, (c.unit u).acc)))) s

/-- Bytes of the result from element `off` on, put in place at DST_OFFSET as one arrival (R212, R178). -/
def Chip.collLocal (s : Chip) (c : Coll) (off : Nat) (data : List Byte) : Chip :=
  let p := c.p
  if !p.localDst then s
  else match s.arrivalCheck p.dstCounter c.part with
    | some .tableCheck => s.counterBad p.dstCounter c.part
    | some st => s.log { status := st, subsys := .computeCells, partition := some c.part, addrKind := 2, addr := p.dstOff }
    | none => (s.stgPut c.part (p.dstOff + off * p.size p.fmtOut) data).arrive p.dstCounter data.length

/-- The packet that runs in command `id` ends with a status and a RESULT. -/
def Chip.endPacket (s : Chip) (id : Nat) (st : Status) (res : Nat) : Chip :=
  match s.cmd? id with
  | none => s
  | some m => s.setCmd { m with ending := some (st, res) }

/-- A COLL_ID is remembered for one collective timeout (R207, R209, R219; log entry 35). -/
def Chip.keepColl (s : Chip) (part id : Nat) (aborted : Bool) : Chip :=
  (s.modSeq (fun q => { q with kept := (part, id, aborted) :: q.kept.filter (fun k => !(k.1 == part && k.2.1 == id)) })).startTimer
    (.abortMemory part id) (s.collTimeout part)

/-- A context leaves its cells (R213). -/
def Chip.dropColl (s : Chip) (c : Coll) (aborted : Bool) : Chip :=
  let s := s.modSeq (fun q => { q with colls := q.colls.filter (fun x => x.key != c.key) })
  ((s.stopTimer (.collective c.key)).syncContexts c.cells).keepColl c.part c.p.collId aborted

/-- A context closes with OK (R213). -/
def Chip.closeColl (s : Chip) (c : Coll) (res : Nat) : Chip := (s.dropColl c false).endPacket c.cmd .ok res

/-- The units of the result that reach this non-root (R213): what goes to its group or to its own EID (log entry 36). -/
def Chip.wanted (s : Chip) (c : Coll) : List Nat :=
  let p := c.p
  let all := upFrom 0 (if p.kind == 7 then 1 else p.unitCount)
  if p.kind == 2 then
    (numbered c.scatter).flatMap (fun e => if e.2 == s.selfEid then upFrom (e.1 * (p.param / 32)) (p.param / 32) else [])
  else if p.kind == 0 || (Nat.ble 5 p.kind && p.unicast) then (if p.dst == s.selfEid then all else [])
  else all

/-- A non-root closes once its partials are sent and the last of the result has come (R213). -/
def Chip.tryClose (s : Chip) (key : Nat) : Chip :=
  match s.collKey? key with
  | none => s
  | some c =>
    if c.p.root then s
    else
      let own := (c.contrib.length + b2n c.p.localSrc) != 0
      let sent := (c.p.kind == 3 || c.p.kind == 4) || !own || (upFrom 0 c.p.unitCount).all (fun u => (c.unit u).sent)
      if sent && !c.expecting && (s.wanted c).all (fun u => c.seen.contains u) then s.closeColl c 0 else s

/-- The draws of SAMPLE (R223 to R226): the token body's TOKEN and VALID. Seeded bits come from the generator that SEED
alone fixes, others from the partition's. -/
def Chip.drawTokens (s : Chip) (c : Coll) : Chip × Nat × Nat :=
  let p := c.p
  let r := (upFrom 0 p.seqs).foldl (fun (acc : Chip × Nat × Nat × Nat) q =>
    let (s, tok, valid, drawn) := acc
    match drawOf (c.sampling.getD q 0) (c.unit q).acc with
    | .none => (s, tok, valid, drawn)
    | .token t => (s, tok + t <<< (32 * q), valid + 2 ^ q, drawn)
    | .drawn pick sum =>
      let (v, s) := if p.seeded then (Config.drbg p.seed drawn, s) else s.generate c.part
      match pickOf pick sum (v % 2 ^ 32) with
      | some t => (s, tok + t <<< (32 * q), valid + 2 ^ q, drawn + 1)
      | none =>
        let (t, s) := s.draw
        (s, tok + (t % 2 ^ 32) <<< (32 * q), valid + 2 ^ q, drawn + 1)) (s, 0, 0, 0)
  (r.1, r.2.1, r.2.2.1)

/-- Whether SAMPLE needs bits of the partition's generator while a health test fails (R429). -/
def Chip.drawRefused (s : Chip) (c : Coll) : Bool :=
  s.trngFail && !c.p.seeded && (upFrom 0 c.p.seqs).any (fun q =>
    match drawOf (c.sampling.getD q 0) (c.unit q).acc with | .drawn _ _ => true | _ => false)

/-- Result units [lo, hi) leave for one destination in packets of up to 4,096 bytes, and to the local destination
(R212). -/
def Chip.sendResult (s : Chip) (c : Coll) (lo hi dst : Nat) (mcast here : Bool) : Chip :=
  let p := c.p
  let f := p.fmtOut
  let runs := runsFrom hi (p.perSegment f) (p.perPacket f) (fun u => Nat.blt u hi) (fun _ => false) (hi + 1) lo
  runs.foldl (fun s r =>
    let us := upFrom r.1 r.2
    let data := us.flatMap (fun u => bytesOf f (p.result (c.unit u).acc))
    let s := s.sendTapped (s.collPacketOf c.part p.collId 2 (r.1 * p.unitLen) dst mcast data)
    if here then s.collLocal c (r.1 * p.unitLen) data else s) s

/-- An abort tadpole, in Gutter from its first hop (R219). -/
def Chip.abortTadpole (s : Chip) (part collId dst : Nat) (mcast request : Bool) (owing : Nat) : Chip :=
  s.send { cls := clsABORT, partition := part, src := s.selfEid, dst := dst, mcast := mcast, gutter := true,
           body := AbortBody.body { collId := collId, request := request, status := Status.collectiveAbort.code, owing := owing } }

/-- The first listed contributor that still owes data, or 0 (R219). -/
def Coll.owing (c : Coll) : Nat :=
  ((numbered c.contrib).find? (fun e => c.owes e.1)).elim 0 (·.2)

/-- A context is aborted (R219): tadpoles to the parent but for the sender, to the contributors, the group and the
result's other destinations; the record; the command ends with COLLECTIVE_ABORT. `owing` is the first contributor that
owes, where this E9 detects the abort. -/
def Chip.abortColl (s : Chip) (key : Nat) (sender : Option Nat) (owing told : Nat) (parent : Bool) : Chip :=
  match s.collKey? key with
  | none => s
  | some c =>
    let p := c.p
    let uni := p.kind == 0 || (Nat.ble 5 p.kind && p.unicast)
    let ds := c.contrib ++ c.scatter ++ (if uni then [p.dst] else []) ++ (if !p.root && parent then [p.parent] else [])
    let s := (distinct ds).foldl (fun s d =>
      if some d == sender || d == s.selfEid then s else s.abortTadpole c.part p.collId d false false told) s
    let s := if !uni && p.kind != 2 then s.abortTadpole c.part p.collId p.group true false told else s
    let s := c.cells.foldl (fun s e => s.wrB (A.CEL_STATUS e) F.CEL_STATUS_ABORT_SEEN true) s
    let s := s.log { status := .collectiveAbort, subsys := .computeCells, partition := some c.part, addrKind := 2,
                     addr := c.planOff, tag := p.collId, detail := owing }
    (s.dropColl c true).endPacket c.cmd .collectiveAbort 0

/-- The root commits when every unit is complete (R212): it sends the result and closes. -/
def Chip.commit (s : Chip) (key : Nat) : Chip :=
  match s.collKey? key with
  | none => s
  | some c =>
    let p := c.p
    if !p.root || !(upFrom 0 p.unitCount).all c.done then s
    else if p.kind == 7 && s.drawRefused c then (s.abortColl key none 0 0 true).endPacket c.cmd .busy 0
    else
      let c := { c with committed := true }
      let s := (s.setColl c).stopTimer (.collective key)
      if p.kind == 7 then
        let (s, tok, valid) := s.drawTokens c
        let body := tok + valid <<< 256 + p.collId <<< 264
        let pkt : Packet :=
          { cls := clsTOKEN, partition := c.part, src := s.selfEid, mcast := !p.unicast,
            dst := if p.unicast then p.dst else p.group, body := body }
        (((s.sendTapped pkt).collLocal c 0 (bytesOfNat 48 body))).closeColl c valid
      else
        let s :=
          if p.kind == 2 then
            (numbered c.scatter).foldl (fun s e =>
              s.sendResult c (e.1 * (p.param / 32)) ((e.1 + 1) * (p.param / 32)) e.2 false true) s
          else if p.kind == 0 || (Nat.ble 5 p.kind && p.unicast) then s.sendResult c 0 p.unitCount p.dst false true
          else s.sendResult c 0 p.unitCount p.group true true
        let s := s.ownUnits c.part p.collId p.fmtOut (p.size p.fmtOut)
          ((upFrom 0 p.unitCount).map (fun u => (u * p.unitLen, p.result (c.unit u).acc)))
        s.closeColl c 0

/-- What follows of itself once a context has changed: partials, the commit, the close. -/
def Chip.collRun (s : Chip) (key : Nat) : Chip :=
  match s.collKey? key with
  | none => s
  | some c => if c.p.root then s.commit key else (s.sendPartials key).tryClose key

/-- A refused COLL packet is answered, with its record (R209, R211). -/
def Chip.collAnswer (s : Chip) (p : Packet) (st : Status) : Chip :=
  let s := if st.isError then
      s.log { status := st, subsys := .computeCells, partition := some p.partition, srcEid := p.src, tag := p.tag }
    else s
  s.send (s.statusAnswer p st 0)

/-- The parts that a packet of a role covers (R209, R346): a status, or the offset and number of its units. Its elements
are those of the payload up to the end; a whole segment beyond the end reaches beyond (log entry 37). -/
def Plan.cover (p : Plan) (pkt : Packet) : Except Status (Nat × Nat) :=
  let e := CollExt.ofBody pkt.body
  let f := p.fmtOf e.role
  let size := max 1 (p.size f)
  let len := max 1 p.unitLen
  let bytes := 256 * pkt.segs
  -- a slice of REDUCE_SCATTER ends at its own last element
  let top := if e.role == 2 && p.kind == 2 then min p.extent ((e.offset / max 1 p.param + 1) * p.param) else p.extent
  if e.offset % len != 0 then .error .formatInvalid
  else if Nat.ble top e.offset then .error .lengthRange
  else if Nat.ble ((top - e.offset) * size + 256) bytes then .error .lengthRange
  else
    let n := if p.isCand then p.param else min (bytes / size) (top - e.offset)
    if n == 0 || Nat.blt bytes (n * size) then .error .formatInvalid
    else if n % len != 0 && e.offset + n != p.extent then .error .formatInvalid
    else .ok (e.offset, n)

/-- Whether the records or lists of a packet are well formed (R214, R222). -/
def Plan.contentOk (p : Plan) (l : List (Nat × List Nat)) : Bool :=
  if p.kind == 5 then l.all (fun e => smaxOk e.2) else if p.isCand then l.all (fun e => candSorted e.2) else true

/-- A contribution or partial for an open context (R209, R210); the second result is whether it was applied. -/
def Chip.collContribution (s : Chip) (c : Coll) (pkt : Packet) : Chip × Bool :=
  let e := CollExt.ofBody pkt.body
  let p := c.p
  match c.contrib.findIdx? (· == pkt.src) with
  | none => (s.collDrop c 0 F.CEL_STATUS_STRAY_DROPS, false)
  | some i =>
    match p.cover pkt with
    | .error st =>
      let s := if st == .formatInvalid then s.collDrop c (e.offset / max 1 p.unitLen) F.CEL_STATUS_STRAY_DROPS else s
      (s.collAnswer pkt st, false)
    | .ok (off, n) =>
      let l := p.unitsAt (p.fmtOf e.role) off n pkt.payload
      if !p.contentOk l then
        ((s.collDrop c (off / max 1 p.unitLen) F.CEL_STATUS_STRAY_DROPS).collAnswer pkt .formatInvalid, false)
      else
        let (s, c, took) := s.collApply c i l
        if took then
          let s := (s.setColl c).tap pkt
          ((s.collWatch c).collRun c.key, true)
        else (s, false)

/-- A result packet, or a token tadpole, that reaches this non-root (R212, R213). -/
def Chip.collResult (s : Chip) (c : Coll) (pkt : Packet) : Chip × Bool :=
  let p := c.p
  if pkt.cls == clsTOKEN then
    let s := s.collLocal c 0 (bytesOfNat 48 pkt.body)
    ((s.setColl { c with seen := [0] }).tryClose c.key, true)
  else
    match p.cover pkt with
    | .error _ => (s.collDrop c 0 F.CEL_STATUS_STRAY_DROPS, false)
    | .ok (off, n) =>
      let us := upFrom (off / max 1 p.unitLen) (ceilDiv n (max 1 p.unitLen))
      if us.all (fun u => c.seen.contains u) then (s.collDrop c (us.headD 0) F.CEL_STATUS_DUP_DROPS, false)
      else
        let s := s.collLocal c off (pkt.payload.take (n * p.size p.fmtOut))
        ((s.setColl { c with seen := distinct (us ++ c.seen) }).tryClose c.key, true)

/-- Segments of early arrivals that partition `p` holds, and may hold (R211). -/
def Chip.earlyUsed (s : Chip) (p : Nat) : Nat := ((s.seq.early.filter (fun e => e.part == p)).map (fun e => e.pkt.segs)).sum
def Chip.earlyRoom (s : Chip) (p : Nat) : Nat :=
  let cells := s.cellsOf p
  s.rd (A.CEL_CFG (cells.headD 0)) F.CEL_CFG_EARLY_SEGS * cells.length

/-- The packet of slot `id` is held as an early arrival, for one collective timeout (R211). -/
def Chip.noteEarly (s : Chip) (pkt : Packet) (id : Nat) : Chip :=
  s.modSeq (fun q => { q with
    early := q.early ++ [⟨pkt.partition, (CollExt.ofBody pkt.body).collId, pkt, s.raw + s.collTimeout pkt.partition, id⟩] })

/-- A packet that names a COLL_ID with no open context and is not held (R209, R211, R220). -/
def Chip.collOrphan (s : Chip) (pkt : Packet) : Chip × Bool :=
  let e := CollExt.ofBody pkt.body
  let part := pkt.partition
  let cells := s.cellsOf part
  let drop (s : Chip) (f : Fld) : Chip := match cells with | n :: _ => s.count (A.CEL_STATUS n) f | [] => s
  if e.role == 2 then
    if pkt.src == s.selfEid then (s, true) else (drop s F.CEL_STATUS_STRAY_DROPS, false)
  else
    match s.seq.kept.find? (fun k => k.1 == part && k.2.1 == e.collId) with
    | some (_, _, true) => (s.collAnswer pkt .collectiveAbort, false)
    | some (_, _, false) => (drop s F.CEL_STATUS_STRAY_DROPS, false)
    | none => ((drop s F.CEL_STATUS_EARLY_DROPS).collAnswer pkt .busy, false)

/-- Whether the reserved bits of a COLL extension or token body are zero. -/
def collReservedZero (p : Packet) : Bool :=
  if p.cls == clsTOKEN then bits p.body 280 104 == 0 else bits p.body 50 78 == 0 && bits p.body 48 2 != 3

/-- Whether `pkt` is an early arrival that is held: a contribution that names no open context and none remembered, with room left for
the partition (R209, R211). -/
def Chip.earlyHere (s : Chip) (pkt : Packet) : Bool :=
  let e := CollExt.ofBody pkt.body
  let part := pkt.partition
  pkt.cls == clsCOLL && pkt.segs != 0 && collReservedZero pkt && e.role != 2
    && !(e.role != 0 && s.isShadow && s.shadowPart part && pkt.src == s.peerEid)
    && (s.coll? part e.collId).isNone && !s.seq.kept.any (fun k => k.1 == part && k.2.1 == e.collId)
    && !(s.cellsOf part).isEmpty && Nat.ble (s.earlyUsed part + pkt.segs) (s.earlyRoom part)

/-- An early arrival that was not in the buffer is put into it, where its partition may have it; else it is refused (R211, log entry
14). -/
def Chip.earlyNew (s : Chip) (pkt : Packet) : Chip :=
  match s.admission pkt [] false with
  | none => (s.count (A.CEL_STATUS ((s.cellsOf pkt.partition).headD 0)) F.CEL_STATUS_EARLY_DROPS).collAnswer pkt .busy
  | some adm =>
    (s.place { id := s.sw.nextId, pkt := pkt, inPort := localPort, copies := [⟨localPort, pkt.tc, .released, 0⟩], adm := adm,
               filled := pkt.segs, whole := true, held := .early }).noteEarly pkt s.sw.nextId

/-- A COLL packet or token tadpole is consumed here (R209); the second result is whether it was applied (R365). -/
def Chip.collIn (s : Chip) (pkt : Packet) : Chip × Bool :=
  let e := CollExt.ofBody pkt.body
  let id := if pkt.cls == clsTOKEN then bits pkt.body 264 16 else e.collId
  let c := s.coll? pkt.partition id
  if !collReservedZero pkt then
    if pkt.cls == clsTOKEN then (s, false)
    else
      let s := match s.cellsOf pkt.partition with | n :: _ => s.count (A.CEL_STATUS n) F.CEL_STATUS_STRAY_DROPS | [] => s
      (s.collAnswer pkt .formatInvalid, false)
  else if pkt.cls == clsCOLL && e.role != 0 && s.isShadow && s.shadowPart pkt.partition && pkt.src == s.peerEid then
    (s.takeReference pkt, true)
  else if pkt.cls == clsTOKEN then
    match c with
    | none => (s, pkt.src == s.selfEid)
    | some c => if c.p.root then (s, true) else s.collResult c pkt
  else
    match c with
    | none => s.collOrphan pkt
    | some c =>
      if e.role == 2 then
        if c.p.root then (if pkt.src == s.selfEid then (s, true) else (s.collDrop c 0 F.CEL_STATUS_STRAY_DROPS, false))
        else s.collResult c pkt
      else s.collContribution c pkt

/-- The local contribution of a context (R205, R222): its units in the carrier format; none where an SMAX record is
malformed (log entry 38). -/
def Chip.localUnits (s : Chip) (c : Coll) : Option (List (Nat × List Nat)) :=
  let p := c.p
  if p.isCand then
    let w := fmtSize p.fmtIn 0
    some ((upFrom 0 p.seqs).map (fun q =>
      match s.stgRead c.part (p.src + q * p.shardLen * w) (p.shardLen * w) with
      | .ok b => (q, localList p.param p.base p.fmtIn (numbersOf w b))
      | .error _ => (q, localList p.param p.base p.fmtIn [])))
  else
    match s.stgRead c.part p.src (p.elements * p.size p.fmtIn) with
    | .error _ => none
    | .ok b =>
      let l := p.unitsAt p.fmtIn 0 p.elements b
      if p.contentOk l then some l else none

/-- The local contribution as packets, for the copies of R458. -/
def Chip.tapLocal (s : Chip) (c : Coll) : Chip :=
  let p := c.p
  if !s.isTap then s
  else
    let f := p.inFmt
    let bytes : List Byte :=
      if p.isCand then ((s.localUnits c).getD []).flatMap (fun e => bytesOf 8 e.2)
      else match s.stgRead c.part p.src (p.elements * p.size f) with | .ok b => b | .error _ => []
    (runsFrom p.unitCount (p.perSegment f) (p.perPacket f) (fun u => Nat.blt u p.unitCount) (fun _ => false)
      (p.unitCount + 1) 0).foldl (fun s r =>
        let at_ := r.1 * p.unitLen * p.size f
        s.tap (s.collPacketOf c.part p.collId 0 (r.1 * p.unitLen) 0 false
          ((bytes.drop at_).take (r.2 * p.unitLen * p.size f)))) s

/-- A unit of a reduction that nobody contributes to holds what the spec leaves open: free values (log entry 39); the
merge of no records is the identity, of no lists a list of pads. -/
def Chip.emptyUnit (s : Chip) (p : Plan) (u : Nat) : Chip × List Nat :=
  if p.kind == 5 then (s, smaxIdentity p.param)
  else if p.isCand then (s, List.replicate p.param candPad)
  else (upFrom 0 (p.lenOf u)).foldl (fun (acc : Chip × List Nat) _ =>
    let (v, s) := acc.1.draw
    (s, acc.2 ++ [v % (if p.isFloat then 2 ^ 32 else 2 ^ 64)])) (s, [])

/-- The packet of command `cmd` opens a collective from a checked plan (R206, R211, R219). -/
def Chip.openColl (s : Chip) (cmd part off : Nat) (r : PlanRec) : Chip :=
  let p := r.plan
  if s.seq.kept.any (fun k => k.1 == part && k.2.1 == p.collId && k.2.2) then
    let s := (s.modSeq (fun q => { q with kept := q.kept.filter (fun k => !(k.1 == part && k.2.1 == p.collId)) })).stopTimer
      (.abortMemory part p.collId)
    let s := s.log { status := .collectiveAbort, subsys := .computeCells, partition := some part, addrKind := 2, addr := off,
                     tag := p.collId }
    s.endPacket cmd .collectiveAbort 0
  else
    let key := s.seq.nextColl
    let c : Coll := { key := key, part := part, planOff := off, plan := r.header, contrib := r.contrib, scatter := r.scatter,
                      sampling := r.sampling, cmd := cmd, cells := s.cellsOf part }
    let s := s.modSeq (fun q => { q with
      nextColl := key + 1
      colls := q.colls ++ [c]
      kept := q.kept.filter (fun k => !(k.1 == part && k.2.1 == p.collId))
      mismatched := q.mismatched.filter (fun k => k != (part, p.collId)) })
    let s := s.syncContexts c.cells
    let s := (upFrom 0 p.unitCount).foldl (fun s u => s.mirrorUnit c u) s
    -- units that nobody contributes to
    let (s, c) :=
      if c.full == 0 && p.kind != 3 && p.kind != 4 then
        (upFrom 0 p.unitCount).foldl (fun (acc : Chip × Coll) u =>
          let (s, l) := acc.1.emptyUnit p u
          (s, { acc.2 with units := acc.2.units.put u { mask := 0, acc := l } })) (s, c)
      else (s, c)
    let s := (s.setColl c).collWatch c
    -- the local source
    let s :=
      if p.localSrc then
        match s.localUnits c with
        | none => s.abortColl key none c.owing c.owing true
        | some l =>
          let (s, c, _) := s.collApply c c.contrib.length l
          (((s.setColl c).tapLocal c).collWatch c)
      else s
    -- early arrivals, in order of arrival
    let mine := s.seq.early.filter (fun e => e.part == part && e.collId == p.collId)
    let s := s.modSeq (fun q => { q with early := q.early.filter (fun e => !(e.part == part && e.collId == p.collId)) })
    let s := mine.foldl (fun s e =>
      let r := (s.copyDone e.slot localPort).collIn e.pkt
      if r.2 then r.1.flowApplied e.pkt else r.1) s
    s.collRun key

/-- The held early arrivals of a collective that are due, now or once time has moved on to the first of them, are
discarded, and each source gets COLLECTIVE_ABORT (R211). -/
def Chip.earlyExpired (s : Chip) (part id : Nat) : Chip :=
  match s.seq.early.filter (fun e => e.part == part && e.collId == id) with
  | [] => s
  | e :: _ =>
    let s := s.advanceTo e.due
    let gone := s.seq.early.filter (fun x => x.part == part && x.collId == id && Nat.ble x.due s.raw)
    let s := s.modSeq (fun q => { q with early := q.early.filter (fun x => !(gone.contains x)) })
    gone.foldl (fun s x => (s.copyDone x.slot localPort).collAnswer x.pkt .collectiveAbort) s

/-- The watchdog of a context expires (R217). -/
def Chip.collExpired (s : Chip) (key : Nat) : Chip :=
  match s.expire (.collective key), s.collKey? key with
  | some s, some c =>
    let p := c.p
    if p.root then s.abortColl key none c.owing c.owing true
    else
      -- a request upward; the watchdog runs on
      (s.abortTadpole c.part p.collId p.parent false true c.owing).collWatch c
  | some s, none => s
  | none, _ => s

/-- An ABORT tadpole arrives (R217, R219). -/
def Chip.abortIn (s : Chip) (pkt : Packet) : Chip :=
  let b := AbortBody.ofBody pkt.body
  let c := s.coll? pkt.partition b.collId
  if bits pkt.body 17 7 != 0 || bits pkt.body 46 338 != 0 || b.status != Status.collectiveAbort.code then s
  else if b.request then
    match c with
    | none => s
    | some c =>
      if !c.p.root then s.abortTadpole c.part b.collId c.p.parent false true b.owing
      else if c.committed then s
      else s.abortColl c.key (some pkt.src) 0 b.owing true
  else
    match c with
    | none => s.keepColl pkt.partition b.collId true
    | some c => s.abortColl c.key (some pkt.src) 0 b.owing true

/-- The memory of a COLL_ID ends (R219). -/
def Chip.abortForgotten (s : Chip) (part id : Nat) : Chip :=
  match s.expire (.abortMemory part id) with
  | none => s
  | some s => s.modSeq (fun q => { q with kept := q.kept.filter (fun k => !(k.1 == part && k.2.1 == id)) })

/-- A STATUS answer to a COLL packet of this E9: a non-root whose partial met PORT_DOWN aborts its subtree and faults the
partition (R218). -/
def Chip.partialAnswered (s : Chip) (p : Packet) : Chip :=
  let b := StatusBody.ofBody p.body
  if b.origClass != clsCOLL || b.status != Status.portDown.code then s
  else
    match s.seq.colls.find? (fun c => c.part == p.partition && !c.p.root && c.sent.contains (b.origFgen, b.origSeq)) with
    | none => s
    | some c =>
      (s.abortColl c.key none 0 0 false).fault c.part .treeLost { addrKind := 2, addr := c.planOff, eid := s.selfEid }

/-- Every context that command `id` opened is aborted (R282, R301). -/
def Chip.abortOf (s : Chip) (id : Nat) : Chip :=
  (s.seq.colls.filter (fun c => c.cmd == id)).foldl (fun s c => s.abortColl c.key none 0 0 true) s

end Sys2Proof.Machine
end

