-- ==== Sys2Proof/Machine/Kernels.lean ====
section
/-!
DEFINITION. What kernels do on cells and encoder lanes: moves, gathers, scatters, scans, collectives and the codec
(spec/05_memory_model.md R167, R184, spec/06_compute_cells.md R198 to R230, spec/07_matrix_and_codec.md R250 to R254).
Each run function carries its packet as far as it can go now and is entered again when what it waits for has come.
-/
namespace Sys2Proof.Machine

/-- The engine on which a kernel runs: the first of those it spans. -/
def Cmd.engine (m : Cmd) : Nat := m.engines.headD 0

/-- The subsystem that assigns a command's statuses. -/
def Cmd.subsys (m : Cmd) : Subsys :=
  match m.engines with
  | [] => .sequencer
  | e :: _ => if Nat.blt e 64 then .computeCells else .matrixTiles

/-- The endpoint on whose behalf a command acts, as a log record names it. -/
def Cmd.srcEid (m : Cmd) : Nat := match m.origin with | .fabric e => e | _ => 0

/-- The record of a status that the sequencer or an engine assigns to a command (R442). -/
def Chip.logCmd (s : Chip) (m : Cmd) (st : Status) (kind addr detail : Nat) : Chip :=
  if st.isError then
    s.log { status := st, subsys := m.subsys, partition := some m.part, addrKind := kind, addr := addr, srcEid := m.srcEid,
            queue := if Nat.blt m.queue 1024 then some m.queue else none, tag := slotTag m.cur, detail := detail }
  else s

/-- The packet that runs ends with a status assigned here. -/
def Chip.failCmd (s : Chip) (m : Cmd) (st : Status) (kind addr res : Nat) : Chip :=
  (s.logCmd m st kind addr 0).endPacket m.id st res

/-- The packet goes on at a stage. -/
def Chip.atStage (s : Chip) (m : Cmd) (n : Nat) : Chip := s.setCmd { m with stage := n }

/-- The packet has issued its last request: it ends once what it waits for has (R301, R346). -/
def Chip.issued (s : Chip) (m : Cmd) (st : Status) (res : Nat) : Chip :=
  s.setCmd { m with stage := 9, verdict := st, count := res }

/-- What a short address names for command `m` (R279). -/
def Cmd.shortAt (m : Cmd) (l : Locator) : Dest :=
  if l.space == 0 then .pool l.addr else if l.space == 1 then .stg l.addr else .scr m.engine l.addr

/-- The counter that a locator names. -/
def Locator.count? (l : Locator) : Option Nat := if l.countEn then some l.counter else none

/-- Whether a pool write failed its range check here, for the record of it. -/
def Chip.logRange (s : Chip) (m : Cmd) (d : Dest) (n : Nat) : Chip :=
  match d with
  | .pool a =>
    match s.poolMay m.part a n with
    | some st => s.logCmd m st 1 a 0
    | none => s
  | .stg o => if s.stgHas m.part o n then s else s.logCmd m .quota 2 o 0
  | .scr e o => if Nat.ble (o + n) (scrSize e) then s else s.logCmd m .lengthRange 3 (o + e <<< 56) 0
  | .remote _ _ _ _ => s

/-- The readiness of several writes: the first failure, else everything still needed. -/
def Chip.writesReady (s : Chip) (m : Cmd) (l : List (Dest × List Byte)) : RdRes :=
  match l.findSome? (fun e => match s.writeReady m e.1 e.2.length with | .fail st k a => some (st, k, a) | _ => none) with
  | some (st, k, a) => .fail st k a
  | none =>
    let need := l.flatMap (fun e => match s.writeReady m e.1 e.2.length with | .need ls => ls | _ => [])
    if need.isEmpty then .ok [] else .need need

/-- Writes made once all of them can be, then the packet waits for their answers. Each is an arrival of its own at the
counter (R178). -/
def Chip.putMany (s : Chip) (m : Cmd) (l : List (Dest × List Byte)) (counter : Option Nat) (st : Status) (res : Nat) : Chip :=
  match s.writesReady m l with
  | .need ls => s.fetch m.id ls
  | .fail st _ _ => (l.foldl (fun s e => s.logRange m e.1 e.2.length) s).endPacket m.id st 0
  | .ok _ =>
    let r := l.foldl (fun (acc : Chip × Cmd) e => acc.1.writeAt acc.2 e.1 e.2 counter) (s, m)
    r.1.issued r.2 st res

/-- The counter of a local move is read before anything is written (R177, R178): the failing status. -/
def Chip.countCheck (s : Chip) (m : Cmd) (d : Dest) (counter : Option Nat) : Option Status :=
  match d, counter with
  | .stg _, some c => s.arrivalCheck c m.part
  | .scr _ _, some c => s.arrivalCheck c m.part
  | _, _ => none

/-- Bytes moved to a destination, for COPY, FILL and WAIT_COPY (R167). -/
def Chip.moveTo (s : Chip) (m : Cmd) (d : Dest) (data : List Byte) (counter : Option Nat) : Chip :=
  match s.countCheck m d counter with
  | some st => s.failCmd m st 4 (A.SEQ_COUNTER (counter.getD 0)) 0
  | none => s.putMany m [(d, data)] counter .ok data.length

/-- A local read for command `m`: what is still needed is asked for, a failure ends the packet, else the bytes go on. -/
def Chip.reading (s : Chip) (m : Cmd) (d : Dest) (n : Nat) (k : List Byte → Chip) (bad : Chip → Chip := id) : Chip :=
  match s.readAt m d n with
  | .need ls => s.fetch m.id ls
  | .fail st kind a =>
    -- a pool line's status was assigned, and recorded, where the request failed
    let s := bad s
    if kind == 1 then s.endPacket m.id st 0 else s.failCmd m st kind a 0
  | .ok b => k b

/-- COPY from the locators at bytes `a` and `b` with the length at byte `c` (R167). -/
def Chip.runCopy (s : Chip) (m : Cmd) (a b c : Nat) : Chip :=
  let src := Locator.of (prm m.cur a 128)
  let dst := Locator.of (prm m.cur b 128)
  s.reading m (s.destOf src) (prm m.cur c 64) (fun data => s.moveTo m (s.destOf dst) data dst.count?)

/-- FILL: PATTERN repeated from the first destination byte (Table 8.5). -/
def Chip.runFill (s : Chip) (m : Cmd) : Chip :=
  let dst := Locator.of (prm m.cur 8 128)
  let pat := bytesOfNat 8 (prm m.cur 32 64)
  s.moveTo m (s.destOf dst) ((upFrom 0 (prm m.cur 24 64)).map (fun i => pat.getD (i % 8) 0)) dst.count?

/-- WAIT begins (R182): its condition may hold already; its deadline runs from here. -/
def Chip.startWait (s : Chip) (m : Cmd) (c scope target deadlineUs : Nat) : Chip :=
  match s.arrivalCheck c m.part with
  | some st => s.failCmd m st 4 (A.SEQ_COUNTER c) 0
  | none =>
    let s := s.setCmd { m with stage := 5, wait := some ⟨c, scope, target, none⟩ }
    let s := if deadlineUs == 0 then s else s.startTimer (.waitDeadline m.id) (us deadlineUs)
    s.fixWaits c

/-- The rows of GATHER and SCATTER: the byte address of row `i` in its space, or none for an entry with a reserved bit. -/
def rowAddress (form base stride space entry : Nat) : Option Nat :=
  if form == 1 then some ((base + entry * stride) % 2 ^ 64)
  else if Nat.ble (if space == 0 then 2 ^ 56 else 2 ^ 38) entry then none
  else some entry

/-- The fields of GATHER and SCATTER (R227). -/
structure RowCmd where
  contig : Locator
  list : Dest
  form : Nat
  space : Nat
  rows : Nat
  rowBytes : Nat
  base : Nat
  stride : Nat

def Cmd.rowCmd (m : Cmd) : RowCmd :=
  let x := m.cur
  { contig := Locator.of (prm x 8 128)
    list := if bitAt x (8 * 24 + 38) then .scr m.engine (prm x 24 38) else .stg (prm x 24 38)
    form := b2n (bitAt x (8 * 24 + 39)), space := bits x (8 * 24 + 40) 2, rows := prm x 32 32, rowBytes := prm x 36 32
    base := prm x 40 64, stride := prm x 48 64 }

/-- Where row `i` lies; an address beyond its space is an STG offset beyond every capacity, or an unmapped pool address. -/
def rowDest (space a : Nat) : Dest := if space == 0 then .pool a else .stg a

/-- A row that lies beyond the pool's 56 bits has no entry over it (R31). -/
def rowBeyond (space a n : Nat) : Bool := space == 0 && Nat.blt (2 ^ 56) (a + n)

/-- The rows' addresses read from the list. -/
def rowAddresses (r : RowCmd) (list : List Byte) : List (Option Nat) :=
  (numbersOf (if r.form == 0 then 8 else 4) list).map (rowAddress r.form r.base r.stride r.space)

/-- GATHER (R227, R228): every row's lines are asked for, then the rows are moved in list order; a failing row leaves its
destination unchanged. The rows that succeed count as one arrival (log entry 40). -/
def Chip.runGather (s : Chip) (m : Cmd) : Chip :=
  let r := m.rowCmd
  s.reading m r.list (r.rows * (if r.form == 0 then 8 else 4)) (fun lb =>
    let addrs := rowAddresses r lb
    if addrs.any (·.isNone) then s.failCmd m .formatInvalid 2 0 0
    else
      let ads := addrs.map (fun a => a.getD 0)
      let reads := ads.map (fun a => if rowBeyond r.space a r.rowBytes then RdRes.fail .rangeUnmapped 1 a
        else s.readAt m (rowDest r.space a) r.rowBytes)
      let need := reads.flatMap (fun x => match x with | .need l => l | _ => [])
      if !need.isEmpty then s.fetch m.id need
      else
        let d := s.destOf r.contig
        let good := (numbered reads).filterMap (fun e => match e.2 with | .ok b => some (e.1, b) | _ => none)
        let bad := (numbered reads).findSome? (fun e => match e.2 with | .fail st k a => some (e.1, st, k, a) | _ => none)
        match s.countCheck m d r.contig.count? with
        | some st => s.failCmd m st 4 (A.SEQ_COUNTER r.contig.counter) 0
        | none =>
          -- the record of a status assigned here; a line's was written where its request failed
          let s := match bad with
            | some (i, st, k, a) => if k == 2 || rowBeyond r.space a r.rowBytes then s.logCmd m st k a i else s
            | none => s
          let st := match bad with | some (_, st, _, _) => st | none => Status.ok
          let res := match bad with | some (i, _, _, _) => i | none => r.rows
          match d with
          | .remote _ _ _ _ =>
            -- runs of rows that follow one another leave together
            let runs := good.foldl (fun (acc : List (Nat × Nat × List Byte)) e =>
              match acc with
              | (i, n, b) :: l => if i + n == e.1 then (i, n + 1, b ++ e.2) :: l else (e.1, 1, e.2) :: acc
              | [] => [(e.1, 1, e.2)]) []
            s.putMany m (runs.reverse.map (fun x => (d.plus (x.1 * r.rowBytes), x.2.2))) r.contig.count? st res
          | _ =>
            let w := good.foldl (fun (acc : Chip × Cmd) e => acc.1.writeAt acc.2 (d.plus (e.1 * r.rowBytes)) e.2 none) (s, m)
            let s := match r.contig.count? with
              | some c => if good.isEmpty then w.1 else w.1.arrive c (good.length * r.rowBytes)
              | none => w.1
            s.issued w.2 st res)

/-- SCATTER (R227, R228): rows of the contiguous side go to the addresses of the list in list order. -/
def Chip.runScatter (s : Chip) (m : Cmd) : Chip :=
  let r := m.rowCmd
  s.reading m r.list (r.rows * (if r.form == 0 then 8 else 4)) (fun lb =>
    s.reading m (s.destOf r.contig) (r.rows * r.rowBytes) (fun data =>
      let addrs := rowAddresses r lb
      if addrs.any (·.isNone) then s.failCmd m .formatInvalid 2 0 0
      else
        let rows := (numbered addrs).map (fun e =>
          (e.1, e.2.getD 0, (data.drop (e.1 * r.rowBytes)).take r.rowBytes))
        let ready (a : Nat) : RdRes := if rowBeyond r.space a r.rowBytes then .fail .rangeUnmapped 1 a
          else s.writeReady m (rowDest r.space a) r.rowBytes
        let need := rows.flatMap (fun e => match ready e.2.1 with | .need l => l | _ => [])
        if !need.isEmpty then s.fetch m.id need
        else
          let bad := rows.findSome? (fun e => match ready e.2.1 with | .fail st k a => some (e.1, st, k, a) | _ => none)
          let s' := match bad with
            | some (i, st, k, a) =>
              if k == 2 || rowBeyond r.space a r.rowBytes || (s.poolMay m.part a r.rowBytes).isSome then s.logCmd m st k a i else s
            | none => s
          let w := rows.foldl (fun (acc : Chip × Cmd) e =>
            match ready e.2.1 with
            | .ok _ => acc.1.writeAt acc.2 (rowDest r.space e.2.1) e.2.2 none
            | _ => acc) (s', m)
          match bad with
          | some (i, st, _, _) => w.1.issued w.2 st i
          | none => w.1.issued w.2 .ok r.rows))

/-- A key as a value of its format: floats as they are, others as integers (R229). -/
def keyVal (fmt c : Nat) : Val :=
  if fmt == 0 then fp32.decode c else if fmt == 1 then bf16.decode c else if fmt == 2 then fp16.decode c
  else
    let i : Int := if fmt == 3 then signedOf 32 c else if fmt == 4 then signedOf 64 c else (c : Int)
    .fin (decide (i < 0)) i.natAbs 0

/-- Whether a key satisfies a term (Table 6.12); a NaN key satisfies NE only. -/
def termHolds (fmt op x a b : Nat) : Bool :=
  let w := 8 * fmtSize fmt 0
  let v := keyVal fmt x
  let va := keyVal fmt (a % 2 ^ w)
  let vb := keyVal fmt (b % 2 ^ w)
  if op == 7 then (x &&& a % 2 ^ w) == b % 2 ^ w
  else if v == .nan then op == 1
  else if op == 0 then v.eq va
  else if op == 1 then !v.eq va
  else if op == 2 then v.lt va
  else if op == 3 then v.le va
  else if op == 4 then va.lt v
  else if op == 5 then va.le v
  else va.le v && v.le vb

/-- FILTER_SCAN (R229, R230). -/
def Chip.runScan (s : Chip) (m : Cmd) : Chip :=
  let x := m.cur
  let n := prm x 16 32
  let rb := prm x 20 16
  let fmt := bits x 192 4
  let out := m.shortAt (Locator.ofShort (prm x 40 64))
  s.reading m (.stg (prm x 32 38)) 32 (fun pred =>
    s.reading m (m.shortAt (Locator.ofShort (prm x 8 64))) (n * rb) (fun data =>
      let a (i : Nat) : Nat := natOfBytes ((pred.drop (8 * i)).take 8)
      let holds (i : Nat) : Bool :=
        let k := natOfBytes ((data.drop (i * rb + prm x 22 16)).take (fmtSize fmt 0))
        let t1 := termHolds fmt (bits x 200 4) k (a 0) (a 1)
        let t2 := termHolds fmt (bits x 204 4) k (a 2) (a 3)
        if bits x 196 2 == 0 then t1 else if bits x 196 2 == 1 then t1 && t2 else t1 || t2
      let hits := (upFrom 0 n).filter holds
      let rec_ := bitAt x 198
      let unit := if rec_ then rb else 4
      let written := min hits.length (prm x 48 64 / max 1 unit)
      let bytes := (hits.take written).flatMap (fun i =>
        if rec_ then (data.drop (i * rb)).take rb else bytesOfNat 4 (i + prm x 56 32))
      s.putMany m [(out, bytes)] none .ok (hits.length + written <<< 32)))

/-- A collective command opens its contexts (R206); its packet ends when the context closes (R213). -/
def Chip.runCollective (s : Chip) (m : Cmd) : Chip :=
  if m.stage != 0 then s
  else
    let off := prm m.cur 8 38
    match s.planCheck m.part off (slotOp m.cur) with
    | .error st => s.failCmd m st 2 off 0
    | .ok none => s.endPacket m.id .ok 0
    | .ok (some r) =>
      -- the engines are left to the next kernel; the contexts are served beside it (log entry 41)
      let s := s.setCmd { m with stage := 8, engines := if m.isChain then m.engines else [] }
      s.openColl m.id m.part off r

/-- The writes of an encoded stream (Tables 7.4, R245): each block's body, its index entry and, course by course, the
patches. -/
def streamWrites (rate n : Nat) (d : Dest) (blocks : List (List Byte × List Nat)) : List (Dest × List Byte) :=
  let each := (numbered blocks).foldl (fun (acc : List (Dest × List Byte) × Nat) e =>
    let b := e.1
    let off := if b % courseBlocks == 0 then 0 else acc.2
    let ps := e.2.2
    let w : List (Dest × List Byte) :=
      [(d.plus (blockBody rate b), e.2.1), (d.plus (blockIndex rate n b), bytesOfNat 4 (off + ps.length <<< 26))]
        ++ (if ps.isEmpty then [] else [(d.plus (blockPatches rate n b + 4 * off), ps.flatMap (bytesOfNat 4))])
    (acc.1 ++ w, off + ps.length)) ([], 0)
  each.1

/-- Whether an FP32 code is finite. -/
def f32finite (c : Nat) : Bool := match fp32.decode c with | .fin _ _ _ => true | _ => false

/-- Blocks of 256 values. -/
def blocksOf (l : List Nat) : List (List Nat) := (upFrom 0 (l.length / 256)).map (fun i => (l.drop (256 * i)).take 256)

/-- ENCODE (R252): the slot is pinned, the source read, the blocks before a bad value encoded and written. -/
def Chip.runEncode (s : Chip) (m : Cmd) : Chip :=
  let x := m.cur
  let slot := prm x 8 8
  let rate := prm x 9 8
  let fmt := prm x 12 8
  let n := prm x 24 64
  let dst := m.shortAt (Locator.ofShort (prm x 40 64))
  if m.stage == 0 then
    match s.pin m.part slot (prm x 10 16) with
    | .error st => s.failCmd m st 4 (A.CDC_SLOT slot) 0
    | .ok s' =>
      let m := { m with pins := slot :: m.pins, stage := 1 }
      if s.rd (A.CDC_SLOT slot) F.CDC_SLOT_RATE != rate then (s'.setCmd m).failCmd m .formatInvalid 4 (A.CDC_SLOT slot) 0
      else s'.setCmd m
  else
    s.reading m (m.shortAt (Locator.ofShort (prm x 16 64))) (n * fmtSize fmt 0) (fun data =>
      let blocks := blocksOf (srcVals fmt data)
      let good := blocks.takeWhile (fun b => b.all f32finite)
      let c := (upFrom 0 (2 ^ rate)).map (fun j => s.centroid slot j)
      let enc := good.map (encodeBlock rate slot (prm x 36 32) (prm x 32 32) c)
      let writes := streamWrites rate (n / 256) dst enc
      if good.length == blocks.length then
        s.putMany m writes none .ok ((enc.map (fun e => e.2.length)).sum)
      else
        match s.writesReady m writes with
        | .ok _ => (s.logCmd m .formatInvalid 0 0 good.length).putMany m writes none .formatInvalid good.length
        | _ => s.putMany m writes none .formatInvalid good.length)

/-- CODEBOOK_BUILD: a build or a load (R250, R251, R254). -/
def Chip.runBuild (s : Chip) (m : Cmd) : Chip :=
  let x := m.cur
  let slot := prm x 8 8
  let rate := prm x 9 8
  let fmt := prm x 12 8
  if m.stage == 0 then
    if s.slotState slot != cbFREE then s.failCmd m .busy 4 (A.CDC_SLOT slot) 0
    else (s.setSlot slot cbBUILDING).atStage m 1
  else
    s.reading m (m.shortAt (Locator.ofShort (prm x 16 64))) (prm x 24 64 * fmtSize fmt 0) (fun data =>
      let cs : Option (List Nat) :=
        if prm x 10 8 == 0 then buildCentroids rate (prm x 32 32) (prm x 11 8) (blocksOf (srcVals fmt data))
        else
          let l := numbersOf 2 data
          let fin (c : Nat) : Bool := match bf16.decode c with | .fin _ _ _ => true | _ => false
          let rising := ((l.zip (l.drop 1)).all (fun e => (bf16.decode e.1).le (bf16.decode e.2)))
          if l.all fin && rising then some l else none
      match cs with
      | none => (s.setSlot slot cbFREE).failCmd m .formatInvalid 4 (A.CDC_SLOT slot) 0
      | some c =>
        let s := s.installCodebook slot rate c
        s.endPacket m.id .ok (s.rd (A.CDC_SLOT slot) F.CDC_SLOT_GEN))
      (fun s => s.setSlot slot cbFREE)

/-- A packet that has issued everything ends once the last of its requests has (R301, R346). -/
def Chip.runIssued (s : Chip) (m : Cmd) : Chip :=
  if m.waits.any (fun w => w.2.isNone) then s
  else
    match (m.waits.filterMap (·.2)).find? (· != .ok) with
    | some st => s.endPacket m.id (if m.verdict == .ok then st else m.verdict) (if m.verdict == .ok then 0 else m.count)
    | none => s.endPacket m.id m.verdict m.count

end Sys2Proof.Machine
end

