-- ==== Sys2Proof/Machine/Matrix.lean ====
section
/-!
DEFINITION. ATTEND and PROJECT on the matrix tiles (spec/07_matrix_and_codec.md R238 to R248, R257 to R267).
-/
namespace Sys2Proof.Machine

/-- A read of several spans of one place: what any of them needs, the first failure, or all at hand. -/
def Chip.readSpans (s : Chip) (m : Cmd) (d : Dest) (l : List (Nat × Nat)) : RdRes :=
  let rs := l.map (fun e => s.readAt m (d.plus e.1) e.2)
  let need := rs.flatMap (fun x => match x with | .need ls => ls | _ => [])
  if !need.isEmpty then .need need
  else match rs.find? (fun x => match x with | .fail _ _ _ => true | _ => false) with
    | some f => f
    | none => .ok []

/-- The bytes of a span that is at hand. -/
def Chip.spanBytes (s : Chip) (m : Cmd) (d : Dest) (off n : Nat) : List Byte :=
  match s.readAt m (d.plus off) n with
  | .ok b => b
  | _ => []

/-- An operand segment: 32 elements and their scale (R240, R242). -/
abbrev Seg := List Val × Val

/-- What reading operand elements gives: as `RdRes`, with a failed block apart: its status and its body's offset. -/
inductive SegRes where
  | need (lines : List Nat)
  | fail (st : Status) (addrKind addr : Nat)
  | bad (st : Status) (off : Nat)
  | ok (segs : List Seg)

/-- `n` packed elements, a multiple of 32, with a scale each 32 (R241). -/
def unpack (f n : Nat) (elems scales : List Byte) : List Seg :=
  (upFrom 0 (n / 32)).map (fun j =>
    let w := 4 * mfmtBits f
    let x := natOfBytes ((elems.drop (w * j)).take w)
    ((upFrom 0 32).map (fun i => elemVal f (bits x (mfmtBits f * i) (mfmtBits f))),
      if mfmtScaled f then
        (let c := (scales.getD j 0).toNat; if c == 255 then .nan else .fin false 1 ((c : Int) - 127))
      else .fin false 1 0))

/-- Values as segments without scales. -/
def segsOfCodes (codes : List Nat) : List Seg :=
  (upFrom 0 (codes.length / 32)).map (fun j => (((codes.drop (32 * j)).take 32).map bf16.decode, .fin false 1 0))

/-- Elements [e0, e0 + n) of a span of `total` elements at place `d`, in whole segments (R241, R244 to R248). Of a shingle
stream the body, the index entry and the patches of each block are read. -/
def Chip.segsAt (s : Chip) (m : Cmd) (d : Dest) (f rate total e0 n : Nat) : SegRes :=
  if f == 7 then
    let nb := total / 256
    let blocks := upFrom (e0 / 256) ((e0 + n - 1) / 256 - e0 / 256 + 1)
    match s.readSpans m d (blocks.flatMap (fun b => [(blockBody rate b, bodyBytes rate), (blockIndex rate nb b, 4)])) with
    | .need l => .need l
    | .fail st k a => .fail st k a
    | .ok _ =>
      let heads := blocks.map (fun b =>
        (b, s.spanBytes m d (blockBody rate b) (bodyBytes rate), natOfBytes (s.spanBytes m d (blockIndex rate nb b) 4)))
      match heads.findSome? (fun e =>
          (blockFault rate m.pins (courseLen nb e.1) (natOfBytes (e.2.1.take 8)) e.2.2).map (fun st => (st, e.1))) with
      | some (st, b) => .bad st (blockBody rate b)
      | none =>
        let patch (b idx : Nat) : Nat × Nat := (blockPatches rate nb b + indexOff idx, 4 * indexCount idx)
        match s.readSpans m d (heads.map (fun e => patch e.1 e.2.2)) with
        | .need l => .need l
        | .fail st k a => .fail st k a
        | .ok _ =>
          let full := heads.map (fun e =>
            let p := patch e.1 e.2.2
            (e.1, e.2.1, numbersOf 4 (s.spanBytes m d p.1 p.2)))
          match full.find? (fun e => !patchesOk e.2.2) with
          | some e => .bad .formatInvalid (blockBody rate e.1)
          | none =>
            let codes := full.flatMap (fun e => s.decodeBlock rate e.2.1 e.2.2)
            .ok (segsOfCodes ((codes.drop (e0 % 256)).take n))
  else
    let el := (e0 * mfmtBits f / 8, n * mfmtBits f / 8)
    let sc := (total * mfmtBits f / 8 + e0 / 32, if mfmtScaled f then n / 32 else 0)
    match s.readSpans m d [el, sc] with
    | .need l => .need l
    | .fail st k a => .fail st k a
    | .ok _ => .ok (unpack f n (s.spanBytes m d el.1 el.2) (s.spanBytes m d sc.1 sc.2))

/-- Several reads of elements together: what any of them needs, the first failure in their order, or all. -/
def gatherSegs (l : List (Dest × SegRes)) : List Nat × Option (Dest × SegRes) × List (List Seg) :=
  (l.flatMap (fun e => match e.2 with | .need ls => ls | _ => []),
   l.find? (fun e => match e.2 with | .fail _ _ _ => true | .bad _ _ => true | _ => false),
   l.map (fun e => match e.2 with | .ok x => x | _ => []))

/-- The kind and address of a place, for a record. -/
def Dest.record (d : Dest) : Nat × Nat :=
  match d with
  | .pool a => (1, a)
  | .stg o => (2, o)
  | .scr e o => (3, o + e <<< 56)
  | .remote _ _ _ o => (2, o)

/-- A failed block is counted on its tile and recorded with its body's address (R248). -/
def Chip.malformed (s : Chip) (m : Cmd) (tile : Nat) (st : Status) (d : Dest) : Chip :=
  (s.count (A.MTX_STATUS (tile - 64)) F.MTX_STATUS_MALFORMED).logCmd m st d.record.1 d.record.2 0

/-- CB_LIST's first `n` entries (Table 7.10): slot and GEN. -/
def cbList (x n : Nat) : List (Nat × Nat) := (upFrom 0 n).map (fun j => (bits x (512 + 32 * j) 8, bits x (520 + 32 * j) 16))

/-- The reserved bits of CB_LIST and of what follows it are zero. -/
def cbReservedZero (x : Nat) : Bool := (upFrom 0 8).all (fun j => bits x (536 + 32 * j) 8 == 0) && bits x 768 256 == 0

/-- The pins of a command's codebook list (R253): the command with them, or its end. -/
def Chip.pinAll (s : Chip) (m : Cmd) (l : List (Nat × Nat)) (next : Nat) : Chip :=
  match s.pinList m.part l [] with
  | .error (st, s') => s'.failCmd m st 4 (A.CDC_SLOT ((l.headD (0, 0)).1)) 0
  | .ok (s', pins) => s'.setCmd { m with pins := pins, stage := next }

/-- An ATTEND descriptor (Table 7.10). -/
structure Attend where
  seqs : Nat
  kvHeads : Nat
  group : Nat
  dim : Nat
  pageTokens : Nat
  fmt : Nat
  coll : Bool
  qWait : Bool
  outCount : Bool
  rate : Nat
  scale : Nat
  window : Nat
  qOff : Nat
  tableOff : Nat
  outOff : Nat
  qCounter : Nat
  qTarget : Nat
  outCounter : Nat
  collId : Nat
  collEid : Nat
  cbCount : Nat

def Attend.of (x : Nat) : Attend :=
  { seqs := bits x 0 4, kvHeads := bits x 8 8, group := bits x 16 5, dim := bits x 24 9, pageTokens := bits x 40 13,
    fmt := bits x 56 3, coll := bitAt x 59, qWait := bitAt x 60, outCount := bitAt x 61, rate := bits x 64 4,
    scale := bits x 96 32, window := bits x 128 32, qOff := bits x 160 38, tableOff := bits x 200 38,
    outOff := bits x 240 38, qCounter := bits x 280 14, qTarget := bits x 296 48, outCounter := bits x 344 14,
    collId := bits x 360 16, collEid := bits x 376 14, cbCount := bits x 392 4 }

/-- The reserved bits of an ATTEND descriptor are zero (Table 7.10). -/
def attendReservedZero (x : Nat) : Bool :=
  bits x 4 4 == 0 && bits x 21 3 == 0 && bits x 33 7 == 0 && bits x 53 3 == 0 && bits x 62 2 == 0 && bits x 68 28 == 0
    && bits x 198 2 == 0 && bits x 238 2 == 0 && bits x 278 2 == 0 && bits x 294 2 == 0 && bits x 358 2 == 0
    && bits x 390 2 == 0 && bits x 396 116 == 0 && cbReservedZero x

/-- A shingle rate beside a format: 2 to 8 with SHINGLE, otherwise 0. -/
def rateOk (f rate : Nat) : Bool := if f == 7 then Nat.ble 2 rate && Nat.ble rate 8 else rate == 0

/-- Bytes of an SMAX record of head dimension `d` (R214). -/
def recBytes (d : Nat) : Nat := (d + 32) * 4

/-- Records that ATTEND returns (R261). -/
def Attend.records (a : Attend) : Nat := a.seqs * a.kvHeads * a.group

/-- The check of an ATTEND descriptor (R259 stages 1 and 2): the ending status, or none where it goes on. -/
def Chip.attendCheck (s : Chip) (part x : Nat) : Option Status :=
  let a := Attend.of x
  if !attendReservedZero x || (Nat.ble 9 a.seqs && a.seqs != 15) then some .formatInvalid
  else if a.seqs == 15 || a.kvHeads == 255 || a.group == 31 || a.dim == 511 || a.pageTokens == 8191 || a.window == 2 ^ 32 - 1
      || a.cbCount == 15 then some .lengthRange
  else if a.kvHeads == 0 || Nat.blt 128 a.kvHeads || a.group == 0 || Nat.blt 16 a.group || a.dim == 0 || a.dim % 32 != 0
      || Nat.blt 256 a.dim || a.pageTokens == 0 || a.pageTokens % 16 != 0 || Nat.blt 4096 a.pageTokens
      || !rateOk a.fmt a.rate || !f32finite a.scale || Nat.blt 8 a.cbCount then some .formatInvalid
  else if a.seqs == 0 then some .ok
  else if (s.tilesOf part).isEmpty || (a.qWait && !s.counterIs a.qCounter part)
      || (a.outCount && !a.coll && !s.counterIs a.outCounter part) then some .accessDenied
  else if !s.stgHas part a.qOff (a.records * a.dim * 2) || !s.stgHas part a.tableOff (16 * a.seqs)
      || (!a.coll && !s.stgHas part a.outOff (a.records * recBytes a.dim)) then some .quota
  else none

/-- A sequence's entries: LEN, NPAGES and its pages' bases (Table 7.11). -/
structure SeqEntry where
  len : Nat
  pages : List (Nat × Nat)

/-- The sequence checks (R259 stage 5): the failing status, or the entries. -/
def Chip.attendSeqs (s : Chip) (part : Nat) (a : Attend) : Except Status (List SeqEntry) :=
  match s.stgRead part a.tableOff (16 * a.seqs) with
  | .error st => .error st
  | .ok b =>
    let es := numbersOf 16 b
    if es.any (fun e => bits e 102 26 != 0) then .error .formatInvalid
    else if es.any (fun e => bits e 0 32 == 2 ^ 32 - 1 || bits e 32 32 == 2 ^ 32 - 1) then .error .lengthRange
    else if es.any (fun e => Nat.blt (bits e 32 32 * a.pageTokens) (bits e 0 32)) then .error .lengthRange
    else if es.any (fun e => !s.stgHas part (bits e 64 38) (16 * bits e 32 32)) then .error .quota
    else
      let l := es.map (fun e =>
        match s.stgRead part (bits e 64 38) (16 * bits e 32 32) with
        | .ok b => (bits e 0 32, numbersOf 16 b)
        | .error _ => (0, []))
      if l.any (fun e => e.2.any (fun p => bits p 56 8 != 0 || bits p 120 8 != 0 || bits p 0 8 != 0 || bits p 64 8 != 0)) then
        .error .formatInvalid
      else .ok (l.map (fun e => ⟨e.1, e.2.map (fun p => (bits p 0 56, bits p 64 56))⟩))

/-- The first visible token (R260). -/
def Attend.lo (a : Attend) (len : Nat) : Nat := if a.window == 0 then 0 else len - a.window

/-- The pieces of a KV head's visible tokens, page by page: page, first element and number of elements (R258). -/
def Attend.pieces (a : Attend) (len h : Nat) : List (Nat × Nat × Nat) :=
  let lo := a.lo len
  if Nat.ble len lo then []
  else
    (upFrom (lo / a.pageTokens) ((len - 1) / a.pageTokens - lo / a.pageTokens + 1)).map (fun j =>
      let t0 := max lo (j * a.pageTokens)
      let t1 := min len ((j + 1) * a.pageTokens)
      (j, (h * a.pageTokens + t0 % a.pageTokens) * a.dim, (t1 - t0) * a.dim))

/-- A list cut into pieces of `n`. -/
def chop {α : Type} (n : Nat) (l : List α) : List (List α) :=
  (upFrom 0 (ceilDiv l.length (max 1 n))).map (fun i => (l.drop (i * max 1 n)).take (max 1 n))

/-- The scaled values of a row of segments. -/
def segVals (l : List Seg) : List Val := l.flatMap (fun g => g.1.map (fun v => v.mul g.2))

/-- Whether a segment holds a NaN. -/
def segNaN (g : Seg) : Bool := g.2 == .nan || g.1.any (· == .nan)

/-- One SMAX record (R260, R242): `q` the query's segments, `toks` the visible tokens' K and V segments, ascending from
token `lo` on. A NaN in K or V gives the record of canonical NaNs. -/
def attendRecord (d scale lo : Nat) (q : List Seg) (toks : List (List Seg × List Seg)) : List Nat :=
  if toks.any (fun t => t.1.any segNaN || t.2.any segNaN) then List.replicate (d + 32) fp32.nanCode
  else
    let chunks := if toks.isEmpty then [] else upFrom (lo / 128) ((lo + toks.length - 1) / 128 - lo / 128 + 1)
    chunks.foldl (fun r j =>
      let t0 := max lo (128 * j)
      let mine := (toks.drop (t0 - lo)).take (128 * (j + 1) - t0)
      let sc := mine.map (fun t => f32mul scale (dotSegments (q.zip t.1)))
      let mc := (sc.drop 1).foldl f32max (sc.headD 0)
      let p := sc.map (fun x => f32exp (f32sub x mc))
      let l := (p.drop 1).foldl f32add (p.headD 0)
      let pv := (p.map (fun x => bf16.decode (convertFmt fp32 bf16 x))).zip (mine.map (fun t => segVals t.2))
      let o := pv.foldl (fun (acc : List Nat) e =>
        (acc.zip e.2).map (fun c => fp32.encode ((fp32.decode c.1).add (e.1.mul c.2)))) (List.replicate d 0)
      smaxMerge r (mc :: l :: (List.replicate 30 0 ++ o))) (smaxIdentity d)

/-- ATTEND fails after its pins (R263): the reply carries `res`, and in COLL mode an abort request goes to the merge. -/
def Chip.attendFail (s : Chip) (m : Cmd) (a : Attend) (st : Status) : Chip :=
  let s := if a.coll then s.abortTadpole m.part a.collId a.collEid false true 0 else s
  s.endPacket m.id st (m.count * a.group)

/-- Records from index `r` on leave for the merge or lie in STG (R262). -/
def Chip.attendDeliver (s : Chip) (m : Cmd) (a : Attend) (r : Nat) (recs : List (List Nat)) : Chip :=
  if a.coll then
    let per := max 1 (4096 / recBytes a.dim)
    (numbered (chop per recs)).foldl (fun s e =>
      s.send (s.collPacketOf m.part a.collId 0 (r + e.1 * per) a.collEid false (e.2.flatMap (fun x => x.flatMap (bytesOfNat 4))))) s
  else s.stgPut m.part (a.outOff + r * recBytes a.dim) (recs.flatMap (fun x => x.flatMap (bytesOfNat 4)))

/-- The K and V reads of item (s, h). -/
def Chip.attendReads (s : Chip) (m : Cmd) (a : Attend) (e : SeqEntry) (h : Nat) : List (Dest × SegRes) :=
  let total := a.kvHeads * a.pageTokens * a.dim
  (a.pieces e.len h).flatMap (fun p =>
    let pg := e.pages.getD p.1 (0, 0)
    [(Dest.pool pg.1, s.segsAt m (.pool pg.1) a.fmt a.rate total p.2.1 p.2.2),
     (Dest.pool pg.2, s.segsAt m (.pool pg.2) a.fmt a.rate total p.2.1 p.2.2)])

/-- Items from number `m.count` on, in ascending order, as far as their pages are at hand (R260, R261, R263). -/
def Chip.attendItems (a : Attend) (seqs : List SeqEntry) (id : Nat) : Nat → Chip → Chip
  | 0, s => s
  | n + 1, s =>
    match s.cmd? id with
    | none => s
    | some m =>
      let k := m.count
      if Nat.ble (a.seqs * a.kvHeads) k then
        -- every record is delivered: one arrival (R262)
        if a.outCount && !a.coll then
          match s.arrivalCheck a.outCounter m.part with
          | some st => s.failCmd m st 4 (A.SEQ_COUNTER a.outCounter) (k * a.group)
          | none => (s.arrive a.outCounter (a.records * recBytes a.dim)).endPacket id .ok a.records
        else s.endPacket id .ok a.records
      else
        let si := k / max 1 a.kvHeads
        let h := k % max 1 a.kvHeads
        let e := seqs.getD si ⟨0, []⟩
        let (need, bad, got) := gatherSegs (s.attendReads m a e h)
        if !need.isEmpty then s.fetch id need
        else match bad with
          | some (d, .bad st off) =>
            (s.malformed m (m.engines.getD (k % max 1 m.engines.length) 64) st (d.plus off)).attendFail m a st
          | some (_, .fail st _ _) => s.attendFail m a st
          | some _ => s
          | none =>
            let rows := chop (a.dim / 32)
            let pairs := chop 2 got
            let toks := pairs.flatMap (fun p => (rows (p.getD 0 [])).zip (rows (p.getD 1 [])))
            let recs := (upFrom 0 a.group).map (fun g =>
              let q := (k * a.group + g) * a.dim * 2
              attendRecord a.dim a.scale (a.lo e.len)
                (segsOfCodes (numbersOf 2 (s.spanBytes m (.stg a.qOff) q (2 * a.dim)))) toks)
            let s := (s.attendDeliver m a (k * a.group) recs).setCmd { m with count := k + 1 }
            Chip.attendItems a seqs id n s

/-- ATTEND (R257 to R263). -/
def Chip.runAttend (s : Chip) (m : Cmd) : Chip :=
  let off := prm m.cur 8 38
  match s.stgRead m.part off 128 with
  | .error st => s.failCmd m st 2 off 0
  | .ok b =>
    let x := natOfBytes b
    -- the descriptor is read once, when the command starts
    let x := if m.stage == 0 then x else (m.kept.getD x)
    let a := Attend.of x
    if m.stage == 0 then
      match s.attendCheck m.part x with
      | some .ok => s.endPacket m.id .ok 0
      | some st => s.failCmd m st 2 off 0
      | none => s.pinAll { m with kept := some x } (cbList x a.cbCount) 1
    else if m.stage == 1 then
      if !a.qWait then s.atStage m 3
      else match s.arrivalCheck a.qCounter m.part with
        | some st => (s.logCmd m st 4 (A.SEQ_COUNTER a.qCounter) 0).attendFail m a st
        | none => (s.setCmd { m with stage := 2, wait := some ⟨a.qCounter, 2, a.qTarget, none⟩ }).fixWaits a.qCounter
    else if m.stage == 2 then
      match m.wait.bind (·.fixed) with
      | none => s
      | some (st, _) =>
        let m := { m with wait := none }
        if st == .ok then s.setCmd { m with stage := 3 } else (s.setCmd m).attendFail m a st
    else
      match s.attendSeqs m.part a with
      | .error st => (s.logCmd m st 2 a.tableOff 0).attendFail m a st
      | .ok seqs => Chip.attendItems a seqs m.id (a.seqs * a.kvHeads + 1) s

/-- A PROJECT descriptor (Table 7.12). -/
structure Project where
  rows : Nat
  k : Nat
  n : Nat
  xFmt : Nat
  wFmt : Nat
  bf16Out : Bool
  coll : Bool
  outCount : Bool
  xScr : Bool
  rate : Nat
  wSpace : Nat
  xOff : Nat
  wAddr : Nat
  yOff : Nat
  outCounter : Nat
  collId : Nat
  collEid : Nat
  cbCount : Nat

def Project.of (x : Nat) : Project :=
  { rows := bits x 0 13, k := bits x 32 18, n := bits x 64 18, xFmt := bits x 84 4, wFmt := bits x 88 4,
    bf16Out := bitAt x 92, coll := bitAt x 93, outCount := bitAt x 94, xScr := bitAt x 95, rate := bits x 96 4,
    wSpace := bits x 100 2, xOff := bits x 128 38, wAddr := bits x 168 56, yOff := bits x 232 38,
    outCounter := bits x 272 14, collId := bits x 288 16, collEid := bits x 304 14, cbCount := bits x 320 4 }

/-- The reserved bits of a PROJECT descriptor are zero, with its reserved encodings (Table 7.12, R240). -/
def projectReservedZero (x : Nat) : Bool :=
  bits x 13 19 == 0 && bits x 50 14 == 0 && bits x 82 2 == 0 && bits x 102 26 == 0 && bits x 166 2 == 0 && bits x 224 8 == 0
    && bits x 270 2 == 0 && bits x 286 2 == 0 && bits x 318 2 == 0 && bits x 324 188 == 0 && cbReservedZero x
    && Nat.ble (bits x 84 4) 8 && Nat.ble (bits x 88 4) 8 && bits x 100 2 != 3

/-- Bytes of W that are read whatever its patches are. -/
def Project.wBytes (p : Project) : Nat :=
  let n := p.n * p.k
  if p.wFmt == 7 then blockPatches p.rate (n / 256) (n / 256 - 1) else mfmtBytes p.wFmt n

/-- Bytes of an element of Y. -/
def Project.ySize (p : Project) : Nat := if p.bf16Out then 2 else 4

/-- The check of a PROJECT descriptor (R265; R259 stages 1 and 2). -/
def Chip.projectCheck (s : Chip) (m : Cmd) (x : Nat) : Option Status :=
  let p := Project.of x
  let part := m.part
  let scr := p.xScr || p.wSpace == 2
  if !projectReservedZero x then some .formatInvalid
  else if p.rows == 8191 || p.k == 2 ^ 18 - 1 || p.n == 2 ^ 18 - 1 || p.cbCount == 15
      || (m.isChain && ((p.xScr && Nat.blt (scrSize m.engine) (p.xOff + mfmtBytes p.xFmt (p.rows * p.k)))
        || (p.wSpace == 2 && Nat.blt (scrSize m.engine) (p.wAddr + p.wBytes)))) then some .lengthRange
  else if Nat.blt 4096 p.rows || p.k % 32 != 0 || (p.wFmt == 7 && p.k % 256 != 0) || Nat.blt 131072 p.k || p.n % 32 != 0
      || Nat.blt 131072 p.n || Nat.ble 7 p.xFmt || p.wFmt == 8 || !rateOk p.wFmt p.rate || p.wAddr % 256 != 0
      || Nat.blt 8 p.cbCount || (p.coll && p.bf16Out) || (scr && !m.isChain) then some .formatInvalid
  else if p.rows == 0 || p.k == 0 || p.n == 0 then some .ok
  else if (s.tilesOf part).isEmpty || (p.outCount && !p.coll && !s.counterIs p.outCounter part) then some .accessDenied
  else if (!p.xScr && !s.stgHas part p.xOff (mfmtBytes p.xFmt (p.rows * p.k)))
      || (p.wSpace == 1 && !s.stgHas part p.wAddr p.wBytes)
      || (!p.coll && !s.stgHas part p.yOff (p.rows * p.n * p.ySize)) then some .quota
  else none

/-- PROJECT fails after its pins (R267, R263). -/
def Chip.projectFail (s : Chip) (m : Cmd) (p : Project) (st : Status) : Chip :=
  (if p.coll then s.abortTadpole m.part p.collId p.collEid false true 0 else s).endPacket m.id st 0

/-- PROJECT (R265 to R267). -/
def Chip.runProject (s : Chip) (m : Cmd) : Chip :=
  let off := prm m.cur 8 38
  match s.stgRead m.part off 128 with
  | .error st => s.failCmd m st 2 off 0
  | .ok b =>
    let x := if m.stage == 0 then natOfBytes b else m.kept.getD (natOfBytes b)
    let p := Project.of x
    if m.stage == 0 then
      match s.projectCheck m x with
      | some .ok => s.endPacket m.id .ok 0
      | some st => s.failCmd m st 2 off 0
      | none => s.pinAll { m with kept := some x } (cbList x p.cbCount) 1
    else
      let xd : Dest := if p.xScr then .scr m.engine p.xOff else .stg p.xOff
      let wd : Dest := if p.wSpace == 0 then .pool p.wAddr else if p.wSpace == 1 then .stg p.wAddr else .scr m.engine p.wAddr
      let (need, bad, got) := gatherSegs
        [(xd, s.segsAt m xd p.xFmt 0 (p.rows * p.k) 0 (p.rows * p.k)), (wd, s.segsAt m wd p.wFmt p.rate (p.n * p.k) 0 (p.n * p.k))]
      if !need.isEmpty then s.fetch m.id need
      else match bad with
        | some (d, .bad st o) =>
          -- the tile of the block's column (R266)
          let b := o / courseStride p.rate * courseBlocks + o % courseStride p.rate / bodyBytes p.rate
          let j := b * 256 / max 1 p.k / 128
          (s.malformed m (m.engines.getD (j % max 1 m.engines.length) 64) st (d.plus o)).projectFail m p st
        | some (_, .fail st k a) => (if k == 1 then s else s.logCmd m st k a 0).projectFail m p st
        | some _ => s
        | none =>
          let xs := chop (p.k / 32) (got.getD 0 [])
          let ws := chop (p.k / 32) (got.getD 1 [])
          let y := xs.flatMap (fun xr => ws.map (fun wr => dotSegments (wr.zip xr)))
          if p.coll then
            let s := (numbered (chop 1024 y)).foldl (fun s e =>
              s.send (s.collPacketOf m.part p.collId 0 (1024 * e.1) p.collEid false (e.2.flatMap (bytesOfNat 4)))) s
            s.endPacket m.id .ok y.length
          else
            match (if p.outCount then s.arrivalCheck p.outCounter m.part else none) with
            | some st => s.failCmd m st 4 (A.SEQ_COUNTER p.outCounter) 0
            | none =>
              let data := y.flatMap (fun c => if p.bf16Out then bytesOfNat 2 (convertFmt fp32 bf16 c) else bytesOfNat 4 c)
              let s := s.stgPut m.part p.yOff data
              (if p.outCount then s.arrive p.outCounter data.length else s).endPacket m.id .ok y.length

/-- Blocks of the largest share of any tile (R264): what the descriptor and the sequence table of an ATTEND say when it is
admitted; BF16 and MX pages count one block per 256 values. -/
def Chip.attendBlocks (s : Chip) (part tiles x : Nat) : Nat :=
  let a := Attend.of x
  let lens := match s.stgRead part a.tableOff (16 * a.seqs) with
    | .ok b => (numbersOf 16 b).map (fun e => bits e 0 32)
    | .error _ => []
  let items := (upFrom 0 (a.seqs * a.kvHeads)).map (fun k =>
    let len := lens.getD (k / max 1 a.kvHeads) 0
    ((a.pieces len (k % max 1 a.kvHeads)).map (fun p => 2 * ((p.2.1 + p.2.2 - 1) / 256 - p.2.1 / 256 + 1))).sum)
  let n := max 1 tiles
  (upFrom 0 n).foldl (fun m i => max m (((numbered items).filter (fun e => e.1 % n == i)).map (·.2)).sum) 0

/-- The core-bound worst case of PROJECT in ns (R267): 10 µs and the larger of the array's and the expander's time at the
guaranteed rates of Table 7.3, over the column blocks of the fullest of `tiles` tiles. -/
def projectNs (tiles x : Nat) : Nat :=
  let p := Project.of x
  let n := max 1 tiles
  -- outputs of the fullest tile: the first of them takes blocks 0, n, 2n, ...
  let outs := min p.n (128 * ceilDiv (ceilDiv p.n 128) n)
  let flops := 2 * p.rows * p.k * outs
  let cls (f : Nat) : Nat := if f == 0 || f == 7 then 28125 else 56250
  let fp4 := p.xFmt == 5 && p.wFmt == 5
  let rate := if fp4 then 112500 else min (cls p.xFmt) (cls p.wFmt)
  let array := ceilDiv flops rate
  let expand := if p.wFmt == 7 then ceilDiv (outs * p.k) 640 else 0
  10000 + max array expand

end Sys2Proof.Machine
end

