-- ==== Sys2Proof/Machine/Units.lean ====
section
/-!
DEFINITION. The units of assignment (spec/13_partitions_and_security.md R415, R419), their owner bytes (R111, R449) and the
partition to which an RWL register belongs (spec/00_scope.md R11).
-/
namespace Sys2Proof.Machine

/-- States of a partition (Table 13.11). -/
def psFREE : Nat := 0
def psCREATED : Nat := 1
def psSEALED : Nat := 2
def psDRAINING : Nat := 3
def psDRAINED : Nat := 4
def psSCRUBBING : Nat := 5
def psSCRUBBED : Nat := 6

/-- The state of partition `p`. -/
def Chip.pstate (s : Chip) (p : Nat) : Nat := s.rd (A.PTN_STATE p) F.PTN_STATE_STATE
def Chip.setPstate (s : Chip) (p v : Nat) : Chip := s.wr (A.PTN_STATE p) F.PTN_STATE_STATE v

/-- Units of a kind on one E9 (Table 13.1). -/
def unitCount (k : Nat) : Nat := [64, 16, 128, 256, 192, 512, 1024, 32, 128, 256, 256].getD k 0

/-- The address of the owner byte of unit `n` of kind `k` (Table 13.1). -/
def unitAddr (k n : Nat) : Nat :=
  if k == 0 then A.CEL_OWNER n else if k == 1 then A.MTX_OWNER n else if k == 2 then A.PTN_OWN_WG 0 + 2 * n
  else if k == 3 then A.PTN_OWN_BANK 0 + 2 * n else if k == 4 then A.PTN_OWN_HBM 0 + 2 * n
  else if k == 5 then A.PTN_OWN_DRAM 0 + 2 * n else if k == 6 then A.PTN_OWN_FLASH 0 + 2 * n
  else if k == 7 then A.PTN_OWN_TRAYC 0 + 2 * n else if k == 8 then A.PRT_OWNER n
  else if k == 9 then A.SEQ_CBLK_OWNER 0 + 2 * n else A.CDC_SLOT n

/-- The owner byte at a 16-bit entry set, its complement with it. -/
def Chip.setOwner (s : Chip) (a byte : Nat) : Chip :=
  s.wr (a / 8 * 8) ⟨8 * (a % 8), 16⟩ (byte % 256 + (255 - byte % 256) * 256)

/-- The units of kind `k` that partition `p` owns, ascending. -/
def Chip.unitsOf (s : Chip) (k p : Nat) : List Nat :=
  (upFrom 0 (unitCount k)).filter (fun n => s.owner (unitAddr k n) == some p)

/-- Whether a unit awaits zeroing (R426): a tray channel or a mode C tray. -/
def Chip.awaitsZero (s : Chip) (k n : Nat) : Bool :=
  if k == 5 then s.pool.unzeroed.contains (n / 16, n % 16, false)
  else if k == 6 then s.pool.unzeroed.contains (n / 32, n % 32, true)
  else k == 7 && s.pool.unzeroed.contains (n, 0, false)

/-- The checks of PARTITION_RESERVE that hold in every state (R418, R419): KIND, the span, and 170 HBM channels. -/
def Chip.reserveCheck (s : Chip) (p k first n : Nat) (ret : Bool) : Option Status :=
  let new := (upFrom first n).filter (fun u => s.owner (unitAddr k u) != some p)
  if Nat.blt 10 k || Nat.blt (unitCount k) (first + n) || (k == 4 && !ret && Nat.blt 170 ((s.unitsOf 4 p).length + new.length)) then
    some .formatInvalid
  else if n == 0 then some .ok
  else none

/-- PARTITION_RESERVE (R419) on units of a partition that may be changed: the status and the units changed. A unit whose
owner byte fails its check is not changed (R449); a channel of a stack that failed training counts as owned by another
(R516). -/
def Chip.reserve (s : Chip) (p k first n : Nat) (ret : Bool) : Chip × Status × Nat :=
  let us := upFrom first n
  let dead (u : Nat) : Bool := k == 4 && bitAt (s.rd A.GLB_BOOT_STATUS F.GLB_BOOT_STATUS_HBM_FAIL) (u / 32)
  let free (u : Nat) : Bool := (s.owner (unitAddr k u)).isNone && !s.awaitsZero k u && !dead u
  let mine (u : Nat) : Bool := s.owner (unitAddr k u) == some p
  if us.any (fun u => !s.ownerOk (unitAddr k u)) then (s, .tableCheck, 0)
  else if ret then
    if us.all mine then (us.foldl (fun s u => s.setOwner (unitAddr k u) 0) s, .ok, n) else (s, .busy, 0)
  else if us.all (fun u => mine u || free u) then
    let new := us.filter free
    (new.foldl (fun s u => s.setOwner (unitAddr k u) (64 + p)) s, .ok, new.length)
  else (s, .busy, 0)

/-- Whether PARTITION_SEAL of partition `p` has passed its instant and not yet ended (R420). -/
def Chip.sealing (s : Chip) (p : Nat) : Bool :=
  s.seq.cmds.any (fun m => m.stage == 1 && m.phase == .running && slotOp m.slot == oPARTITION_SEAL && prm m.slot 8 6 == p)

/-- Whether the RWL registers of partition `p` are locked (R11, R420): from the instant of its seal to its release. -/
def Chip.locked (s : Chip) (p : Nat) : Bool := Nat.ble psSEALED (s.pstate p) || s.sealing p

/-- The partition to which the RWL fields of a register belong, owner bytes apart (R11). -/
def Chip.rwlPart (s : Chip) (l : Loc) : Option Nat :=
  match l.kind with
  | .seqQCfg | .seqQSched => some (l.i / 16)
  | .homHost => if s.flag l.base F.HOM_HOST_ASSIGNED then some (s.rd l.base F.HOM_HOST_PARTITION) else none
  | .homVregion => some (s.rd l.base F.HOM_VREGION_PARTITION)
  | .celCfg => s.owner (A.CEL_OWNER l.i)
  | .swcQuota | .errFaultCfg => some l.i
  | .tirDportMap =>
    if s.mode (4 * l.i) == modeD then some (s.rd (A.PRT_PROFILE s.active (4 * l.i)) F.PRT_PROFILE_PARTITION) else none
  | _ => none

/-- The RWL fields of partition `p` returned to their reset values (R11), a HOM_HOST entry whole (R163). -/
def Chip.releaseFields (s : Chip) (p : Nat) : Chip :=
  let mine := s.regs.filterMap (fun e =>
    match locateKey e.1 with
    | none => none
    | some l => if s.rwlPart l == some p then some l else none)
  mine.foldl (fun s l =>
    (l.kind.fields l.i l.j).foldl (fun s f =>
      if f.acc == .rwl || l.kind == .homHost then s.wr l.base f.fld f.reset else s) s) s

/-- Register words in [lo, hi) returned to their reset values. -/
def Chip.resetRegs (s : Chip) (lo hi : Nat) : Chip :=
  { s with regs := s.regs.filter (fun e => !(Nat.ble lo e.1 && Nat.blt e.1 hi)) }

end Sys2Proof.Machine
end

