-- ==== Sys2Proof/Machine/Versions.lean ====
section
/-!
DEFINITION. Version and ownership commands as the home orders them (spec/05_memory_model.md R186 to R194), and the commands
that leave for another home (spec/08_commands_and_scheduling.md R284).
-/
namespace Sys2Proof.Machine

/-- What the home answers a command: its status, its RESULT and the state. -/
abbrev HomeAns := Chip × Status × Nat

/-- The number after `n`, from 1 to 2^32 - 1 round, past those of live versions (R186). -/
def Chip.nextVersion (s : Chip) (i n : Nat) : Nat :=
  let succ (k : Nat) : Nat := if Nat.ble (2 ^ 32 - 1) k then 1 else k + 1
  (List.range 9).foldl (fun k _ => if (s.version i k).isSome then succ k else k) (succ n)

/-- The region of partition `p` whose first byte is at `addr`. -/
def Chip.regionAt (s : Chip) (p addr : Nat) : Option Nat :=
  match s.regionOf p (addr / 16384) with
  | some i => if addr == 16384 * s.rd (A.HOM_VREGION i) F.HOM_VREGION_BASE_TILE then some i else none
  | none => none

/-- `n` frames that follow one another on a channel of partition `p`, all free: the first frame. -/
def Chip.freeRun (s : Chip) (p tray ch n : Nat) : Option Nat :=
  if !s.ownsDram p tray ch then none
  else
    let t := s.tray tray
    let base := t.frameBase ch
    let taken (f : Nat) : Bool := (s.pool.frames.find (frameKey tray f)).isSome
    let tables := s.tableFrames s.active tray ch
    let inTable (f : Nat) : Bool := tables.any (fun e => Nat.ble e.1 f && Nat.blt f e.2)
    (upFrom (base + s.reservedFrames tray ch) (t.frames ch - s.reservedFrames tray ch)).find? (fun f =>
      Nat.ble (f + n) (base + t.frames ch) && (upFrom f n).all (fun g => !taken g && !inTable g))

/-- VERSION_OPEN (R187). An address that is no region's first byte is FORMAT_INVALID (log entry 42). -/
def Chip.versionOpen (s : Chip) (p eid addr : Nat) (write : Bool) : HomeAns :=
  match s.regionAt p addr with
  | none => (s, .formatInvalid, 0)
  | some i =>
    let a := A.HOM_VREGION i
    let cur := s.rd a F.HOM_VREGION_CURRENT
    if (s.viewOf eid i).isSome || Nat.ble 16384 s.pool.views.length || Nat.ble 8 (s.rd a F.HOM_VREGION_LIVE) then (s, .busy, 0)
    else if !write then
      (s.modPool (fun q => { q with views := q.views ++ [⟨eid, i, cur, false⟩] }), .ok, cur)
    else
      match s.homed (addr / 16384) with
      | none => (s, .rangeUnmapped, 0)
      | some r =>
        let tray := s.rng r F.PTN_RANGE_META_TRAY
        let n := ceilDiv (8 * s.rd a F.HOM_VREGION_TILES) 16384
        match s.freeRun p tray (s.rng r F.PTN_RANGE_META_CHAN) n with
        | none => (s, .quota, 0)
        | some f =>
          let num := s.nextVersion i (s.rd a F.HOM_VREGION_ISSUED)
          let base := ((s.version i cur).map (·.map)).getD []
          let s := s.modPool (fun q =>
            { q with
              frames := (upFrom f n).foldl (fun t g => t.put (frameKey tray g) storeMark) q.frames
              versions := q.versions ++
                [{ region := i, number := num, base := cur, working := true, map := base, own := [],
                   mapAt := some (frameKey tray f, n) }]
              views := q.views ++ [⟨eid, i, num, true⟩] })
          ((s.wr a F.HOM_VREGION_ISSUED num).syncLive i, .ok, num + cur <<< 32)

/-- VERSION_CLOSE (R191): the view of EID `eid` ends; without one nothing does. -/
def Chip.versionClose (s : Chip) (p eid addr : Nat) : HomeAns :=
  match s.regionAt p addr with
  | none => (s, .formatInvalid, 0)
  | some i => if (s.viewOf eid i).isSome then (s.closeView eid i, .ok, 0) else (s, .ok, 0)

/-- VERSION_PUBLISH (R190). -/
def Chip.versionPublish (s : Chip) (p eid addr base working : Nat) : HomeAns :=
  match s.regionAt p addr with
  | none => (s, .formatInvalid, 0)
  | some i =>
    let a := A.HOM_VREGION i
    let cur := s.rd a F.HOM_VREGION_CURRENT
    match s.viewOf eid i with
    | none => (s, .accessDenied, 0)
    | some v =>
      if !v.write || v.version != working then (s, .accessDenied, 0)
      else if cur == base then
        let s := s.modPool (fun q => { q with
          versions := q.versions.map (fun x => if x.region == i && x.number == working then { x with working := false } else x) })
        ((s.wr a F.HOM_VREGION_CURRENT working).closeView eid i, .ok, working)
      else (s.closeView eid i, .versionConflict, cur)

/-- A region begins anew (R186): version 1, its contents now. -/
def Chip.startRegion (s : Chip) (i : Nat) : Chip :=
  let a := A.HOM_VREGION i
  let s := s.modPool (fun q =>
    { q with
      views := q.views.filter (fun v => v.region != i)
      versions := q.versions.filter (fun v => v.region != i) ++ [{ region := i, number := 1, base := 0, working := false, map := [], own := [] }] })
  ((s.wr a F.HOM_VREGION_CURRENT 1).wr a F.HOM_VREGION_ISSUED 1).syncLive i

/-- A region ends: its views and its versions go (log entry 42). -/
def Chip.endRegion (s : Chip) (i : Nat) : Chip :=
  (s.modPool (fun q =>
    { q with views := q.views.filter (fun v => v.region != i), versions := q.versions.filter (fun v => v.region != i) })).wr
    (A.HOM_VREGION i) F.HOM_VREGION_LIVE 0

/-- Whether a region lies wholly within one PINNED, HOMED range of its partition (R186). -/
def Chip.regionFits (s : Chip) (i : Nat) : Bool :=
  let a := A.HOM_VREGION i
  let base := s.rd a F.HOM_VREGION_BASE_TILE
  let n := s.rd a F.HOM_VREGION_TILES
  (s.homedRanges s.active).any (fun r =>
    s.rng r F.PTN_RANGE_PARTITION == s.rd a F.HOM_VREGION_PARTITION && !s.tiered r
      && Nat.ble (s.rng r F.PTN_RANGE_BASE_TILE) base
      && Nat.ble (base + n) (s.rng r F.PTN_RANGE_BASE_TILE + s.rng r F.PTN_RANGE_TILES))

/-! ### Ownership records -/

/-- The record of a line. -/
def Chip.record (s : Chip) (line : Nat) : Option Nat :=
  (s.listed (A.HOM_OWN 0) 32 8192).find? (fun i =>
    s.flag (A.HOM_OWN i) F.HOM_OWN_VALID && s.rd (A.HOM_OWN i) F.HOM_OWN_ADDR == line)

/-- A record that is free: the lowest. -/
def Chip.freeRecord (s : Chip) : Option Nat := (upFrom 0 8192).find? (fun i => !s.flag (A.HOM_OWN i) F.HOM_OWN_VALID)

/-- A record written. Its states: 0 OWNED, 1 HANDOFF, 2 ORPHAN. -/
def Chip.setRecord (s : Chip) (i st p line owner next deadline : Nat) : Chip :=
  let a := A.HOM_OWN i
  let s := (s.wrB a F.HOM_OWN_VALID true).wr a F.HOM_OWN_STATE st
  let s := (s.wr a F.HOM_OWN_PARTITION p).wr a F.HOM_OWN_ADDR line
  ((s.wr a F.HOM_OWN_OWNER owner).wr a F.HOM_OWN_NEXT next).wr a F.HOM_OWN_DEADLINE deadline

/-- A record freed. -/
def Chip.freeOwn (s : Chip) (i : Nat) : Chip :=
  let a := A.HOM_OWN i
  let s := (s.setRecord i 0 0 0 0 0 0).wrB a F.HOM_OWN_VALID false
  s.stopTimer (.handoff i)

/-- STATE and OWNER as a reply carries them (Table 8.8). -/
def Chip.ownResult (s : Chip) (i : Nat) : Nat := s.rd (A.HOM_OWN i) F.HOM_OWN_STATE + s.rd (A.HOM_OWN i) F.HOM_OWN_OWNER <<< 32

/-- OWN_CLAIM (Table 5.8). -/
def Chip.ownClaim (s : Chip) (p line expected new : Nat) : HomeAns :=
  match s.record line with
  | none =>
    if expected != 0 then (s, .ownerMismatch, 0)
    else match s.freeRecord with
      | none => (s, .busy, 0)
      | some i => (s.setRecord i 0 p line new 0 0, .ok, 0)
  | some i =>
    let a := A.HOM_OWN i
    let st := s.rd a F.HOM_OWN_STATE
    let o := s.rd a F.HOM_OWN_OWNER
    let res := s.ownResult i
    let yes := if st == 0 then expected == o
      else if st == 1 then expected == o && new == s.rd a F.HOM_OWN_NEXT
      else expected == 0
    if yes then ((s.setRecord i 0 p line new 0 0).stopTimer (.handoff i), .ok, res) else (s, .ownerMismatch, res)

/-- OWN_RELEASE (Table 5.8, R194). -/
def Chip.ownRelease (s : Chip) (p line expected next : Nat) : HomeAns :=
  match s.record line with
  | none => (s, .ownerMismatch, 0)
  | some i =>
    let a := A.HOM_OWN i
    let o := s.rd a F.HOM_OWN_OWNER
    let res := s.ownResult i
    if s.rd a F.HOM_OWN_STATE == 2 || expected != o then (s, .ownerMismatch, res)
    else if next == 0 then (s.freeOwn i, .ok, res)
    else
      let hold := ms (s.rd A.GLB_TIMERS0 F.GLB_TIMERS0_HANDOFF_MS)
      ((s.setRecord i 1 p line o next ((s.tb + hold) % 2 ^ 64)).startTimer (.handoff i) hold, .ok, res)

/-- The handoff timer of record `i` expires (R194, Table 5.8): ORPHAN, and the event to Newt. -/
def Chip.handoffExpired (s : Chip) (i : Nat) : Chip :=
  match s.expire (.handoff i) with
  | none => s
  | some s =>
    let a := A.HOM_OWN i
    let line := s.rd a F.HOM_OWN_ADDR
    let s' := s.setRecord i 2 (s.rd a F.HOM_OWN_PARTITION) line (s.rd a F.HOM_OWN_OWNER) 0 0
    s'.newtEvent 0x2B (s.rd a F.HOM_OWN_OWNER <<< 8) 1 (64 * line)

/-- Where a version or ownership command of partition `p` for a pool address goes (R31, R284): refused here, ordered here,
or carried to another home. -/
inductive Home where
  | refused (st : Status)
  | here
  | away
deriving DecidableEq, Repr

def Chip.homeFor (s : Chip) (p addr : Nat) : Home :=
  let t := addr / 16384
  match s.rangeCheck s.active p t with
  | .unmapped => .refused .rangeUnmapped
  | .foreign => .refused .accessDenied
  | .broken _ => .refused .tableCheck
  | .entry _ _ => if (s.homed t).isSome then .here else .away

end Sys2Proof.Machine
end

