-- ==== Sys2Proof/Machine/Commands.lean ====
section
/-!
DEFINITION. The checks of a command (spec/08_commands_and_scheduling.md R280) and what the sequencer's own commands do, but
for those that act on queues (Queues.lean) and administrative ones (Partitions.lean): memory, counters, versions, ownership
and codebook retirement.
-/
namespace Sys2Proof.Machine

/-- Whether a command's source is the physical function or Newt's path (R271). -/
def Chip.fromPf (s : Chip) (m : Cmd) : Bool :=
  match m.origin with
  | .newt _ => true
  | .ring => s.rd (A.SEQ_Q_CFG m.queue) F.SEQ_Q_CFG_SOURCE == 1
  | .fabric _ => false

/-- Whether two spans of `n` bytes overlap in one space (R167). -/
def Chip.overlaps (s : Chip) (a b : Locator) (n : Nat) : Bool :=
  a.space == b.space && (a.space == 0 || b.eid == s.selfEid) && (a.space != 2 || a.engine == b.engine)
    && Nat.blt a.addr (b.addr + n) && Nat.blt b.addr (a.addr + n)

/-- Whether a locator's span of `n` bytes runs past its buffer (R17). The capacity of STG is a matter of R112. -/
def Locator.tooLong (l : Locator) (n : Nat) : Bool :=
  (l.space == 0 && Nat.blt (2 ^ 56) (l.addr + n)) || (l.space == 2 && Nat.blt (scrSize l.engine) (l.addr + n))

/-- Whether partition `part` owns what a locator names on this E9 (R279, R280 step 3). -/
def Chip.locatorOk (s : Chip) (part : Nat) (l : Locator) : Bool :=
  l.space == 0 || l.eid != s.selfEid
    || ((l.space != 2 || s.engineOf l.engine == some part) && (!l.countEn || s.counterIs l.counter part))

/-- The R17, range and ownership checks of a move of `n` bytes (R167). -/
def Chip.moveCheck (s : Chip) (part : Nat) (src : Option Locator) (dst : Locator) (n : Nat) : Option Status :=
  if dst.tooLong n || (src.elim false (fun l => l.tooLong n)) then some .lengthRange
  else if (dst.space == 0 && dst.countEn)
      || src.elim false (fun l => l.countEn || (l.space != 0 && l.eid != s.selfEid) || s.overlaps l dst n) then
    some .formatInvalid
  else if n == 0 then some .ok
  else if !s.locatorOk part dst || !src.elim true (fun l => s.locatorOk part l) then some .accessDenied
  else none

/-- The span check of FLUSH_RANGE, TIER_HINT and PREFETCH: LENGTH_RANGE past the end of the range that covers the address
(R17). -/
def Chip.spanCheck (s : Chip) (part addr n : Nat) : Option Status :=
  match s.rangeCheck s.active part (addr / 16384) with
  | .entry i _ =>
    let a := A.PTN_RANGE s.active i
    if Nat.blt (16384 * (s.rd a F.PTN_RANGE_BASE_TILE + s.rd a F.PTN_RANGE_TILES)) (addr + n) then some .lengthRange else none
  | _ => none

/-- The checks of a short address's span of `n` bytes on engine `e`. -/
def shortTooLong (e : Option Nat) (l : Locator) (n : Nat) : Bool :=
  (l.space == 0 && Nat.blt (2 ^ 56) (l.addr + n))
    || (l.space == 2 && Nat.blt (match e with | some e => scrSize e | none => 2 ^ 23) (l.addr + n))

/-- The checks of GATHER and SCATTER (R227). -/
def Chip.rowCheck (s : Chip) (m : Cmd) : Option Status :=
  let r := m.rowCmd
  let scatter := slotOp m.cur == oSCATTER
  let listN := r.rows * (if r.form == 0 then 8 else 4)
  let c := r.contig
  if c.tooLong (r.rows * r.rowBytes)
      || (bitAt m.cur (8 * 24 + 38) && Nat.blt (scrSize m.engine) (prm m.cur 24 38 + listN)) then some .lengthRange
  else if c.space == 0 || (scatter && (c.countEn || c.eid != s.selfEid)) || Nat.blt 1048576 r.rows || Nat.blt 65536 r.rowBytes then
    some .formatInvalid
  else if r.rows == 0 || r.rowBytes == 0 then some .ok
  else if !s.locatorOk m.part c then some .accessDenied
  else none

/-- The checks of FILTER_SCAN (R229). -/
def Chip.scanCheck (m : Cmd) : Option Status :=
  let x := m.cur
  let n := prm x 16 32
  let rb := prm x 20 16
  let key := prm x 22 16
  let fmt := bits x 192 4
  let size := fmtSize fmt 0
  let out := Locator.ofShort (prm x 40 64)
  let mask (op : Nat) : Bool := op == 7 && Nat.ble fmt 2
  if shortTooLong (some m.engine) (Locator.ofShort (prm x 8 64)) (n * rb) || shortTooLong (some m.engine) out (prm x 48 64) then
    some .lengthRange
  else if rb % 4 != 0 || Nat.blt 4096 rb || (rb != 0 && (key % size != 0 || Nat.blt rb (key + size))) || out.space == 0
      || mask (bits x 200 4) || (bits x 196 2 != 0 && mask (bits x 204 4)) then some .formatInvalid
  else if n == 0 || rb == 0 then some .ok
  else none

/-- A positive finite FP32 code (CLIP), and a TOL: not negative, +∞ allowed (Table 7.8). -/
def clipOk (c : Nat) : Bool := Nat.blt 0 c && Nat.blt c 0x7F800000
def tolOk (c : Nat) : Bool := Nat.ble c 0x7F800000 || c == 0x80000000

/-- The checks of ENCODE and CODEBOOK_BUILD (R249, R250, R252). -/
def Chip.codecCheck (s : Chip) (m : Cmd) : Option Status :=
  let x := m.cur
  let rate := prm x 9 8
  let fmt := prm x 12 8
  let n := prm x 24 64
  let slot := prm x 8 8
  let denied := (s.tilesOf m.part).isEmpty || s.owner (A.CDC_SLOT slot) != some m.part
  let src := Locator.ofShort (prm x 16 64)
  let tooLong := shortTooLong (some m.engine) src (n * fmtSize fmt 0)
  let rateBad := Nat.blt rate 2 || Nat.blt 8 rate
  if slotOp x == oENCODE then
    let dst := Locator.ofShort (prm x 40 64)
    if tooLong || (!rateBad && n != 0 && Nat.blt (prm x 48 64) (streamBytes rate (n / 256)))
        || shortTooLong none dst (prm x 48 64) then some .lengthRange
    else if rateBad || Nat.blt 2 fmt || n % 256 != 0 || !clipOk (prm x 32 32) || !tolOk (prm x 36 32) || dst.space == 2
        || dst.addr % 256 != 0 then some .formatInvalid
    else if denied then some .accessDenied
    else if n == 0 then some .ok
    else none
  else
    let load := prm x 10 8 == 1
    if tooLong then some .lengthRange
    else if rateBad || Nat.blt 1 (prm x 10 8) || Nat.blt 2 fmt || Nat.blt 16 (prm x 11 8)
        || (load && (fmt != 1 || (n != 2 ^ rate && n != 0))) || (!load && (n % 256 != 0 || !clipOk (prm x 32 32))) then
      some .formatInvalid
    else if denied then some .accessDenied
    else if n == 0 then some .ok
    else none

/-- The checks of WAIT, and of WAIT_COPY's wait (R182). -/
def Chip.waitCheck (s : Chip) (part ref : Nat) : Option Status :=
  if crefEid ref != s.selfEid then some .formatInvalid
  else if !s.counterIs (crefIndex ref) part then some .accessDenied
  else none

/-- The checks of KERNEL_LAUNCH (Table 8.7). -/
def Chip.launchCheck (s : Chip) (m : Cmd) : Option Status :=
  let x := m.cur
  let e := prm x 18 8
  let n := prm x 16 16
  let any := bitAt x 152
  let compat := bitAt x 153
  if (any && e != 0) || (compat && Nat.ble 64 e) || Nat.blt 4096 n || prm x 20 32 == 0 then some .formatInvalid
  else if n == 0 then some .ok
  else if !any && s.engineOf e != some m.part then some .accessDenied
  else if !s.stgHas m.part (prm x 8 38) (64 * n) then some .quota
  else none

/-- The checks of R280, steps 1 to 3, on the packet that runs in command `m`: the ending status, `ok` where R18 ends it.
`chain` is whether it is a packet of a chain. -/
def Chip.checkCmd (s : Chip) (m : Cmd) (chain : Bool) : Option Status :=
  let x := m.cur
  let o := slotOp x
  let part := m.part
  match packetCheck x with
  | some st => some st
  | none =>
    if opIsAdmin o && !s.fromPf m then some .accessDenied
    else if o == oCANCEL then (if prm x 8 10 / 16 == part then none else some .accessDenied)
    else if o == oJOB_SUSPEND || o == oJOB_RESUME then (if prm x 8 16 == 0 then some .formatInvalid else none)
    else if o == oCOPY then s.moveCheck part (some (Locator.of (prm x 8 128))) (Locator.of (prm x 24 128)) (prm x 40 64)
    else if o == oFILL then s.moveCheck part none (Locator.of (prm x 8 128)) (prm x 24 64)
    else if o == oWAIT_COPY then
      match s.moveCheck part (some (Locator.of (prm x 24 128))) (Locator.of (prm x 40 128)) (prm x 56 64) with
      | some .ok => s.waitCheck part (prm x 8 32)
      | some st => if st == .accessDenied && crefEid (prm x 8 32) != s.selfEid then some .formatInvalid else some st
      | none => s.waitCheck part (prm x 8 32)
    else if o == oFLUSH_RANGE || o == oTIER_HINT || o == oPREFETCH then
      match s.spanCheck part (prm x 8 56) (prm x 16 64) with
      | some st => some st
      | none => if prm x 16 64 == 0 then some .ok else none
    else if o == oCOUNTER_SET then s.waitCheck part (prm x 8 32)
    else if o == oCOUNTER_ADD then
      let ref := prm x 8 32
      let remote := crefEid ref != s.selfEid
      if prm x 12 8 == 1 && (!chain || remote) then some .formatInvalid
      else if remote && prm x 16 48 == 0 then some .ok
      else if !remote && !s.counterIs (crefIndex ref) part then some .accessDenied
      else none
    else if o == oWAIT then s.waitCheck part (prm x 8 32)
    else if o == oGATHER || o == oSCATTER then s.rowCheck m
    else if o == oFILTER_SCAN then Chip.scanCheck m
    else if o == oKERNEL_LAUNCH then s.launchCheck m
    else if o == oATTEND || o == oPROJECT then (if (s.tilesOf part).isEmpty then some .accessDenied else none)
    else if o == oENCODE || o == oCODEBOOK_BUILD then s.codecCheck m
    else if o == oCODEBOOK_RETIRE then
      if (s.tilesOf part).isEmpty || s.owner (A.CDC_SLOT (prm x 8 8)) != some part then some .accessDenied else none
    else if o == oVERSION_CLOSE then (if bitAt x (8 * 16 + 15) && !s.fromPf m then some .accessDenied else none)
    else if o == oOWN_CLAIM then (if prm x 8 56 % 64 != 0 || prm x 20 32 == 0 then some .formatInvalid else none)
    else if o == oOWN_RELEASE then (if prm x 8 56 % 64 != 0 then some .formatInvalid else none)
    else if o == oPARTITION_RESERVE then s.reserveCheck (prm x 8 6) (prm x 9 8) (prm x 10 16) (prm x 12 16) (bitAt x (8 * 14))
    else if o == oLOST_ACK then (if !bitAt x (8 * 24) && prm x 16 64 == 0 then some .ok else none)
    else none

/-! ### Memory commands of the sequencer -/

/-- FLUSH_RANGE (R109): the ENGINE lines of the span are written back; it waits for those already in flight as well. -/
def Chip.runFlush (s : Chip) (m : Cmd) : Chip :=
  let addr := prm m.cur 8 56
  let len := prm m.cur 16 64
  let inSpan (l : Nat) : Bool := Nat.ble (addr / 64) l && Nat.ble l ((addr + len - 1) / 64)
  let mine := ((s.cacheOf m.part).filter (fun e => keyRole e.1 == roleENGINE && inSpan (keyLine e.1)))
  let flying := distinct (mine.filterMap (fun e => e.2.flight))
  let idle := (mine.filter (fun e => e.2.flight.isNone)).map (fun e => keyLine e.1)
  let r := (distinct (idle.map (· / 4))).foldl (fun (acc : Chip × List Nat) sec =>
    match acc.1.pushSector m.part sec with
    | (s, some tag) => (s, acc.2 ++ [tag])
    | (s, none) => (s, acc.2)) (s, [])
  let s := r.1.modSeq (fun q => { q with
    outs := q.outs ++ r.2.map (fun t => { tag := t, pool := true, cmd := m.id, issuer := m.issuer }) })
  s.issued { m with waits := (flying ++ r.2).map (fun t => (2 * t + 1, none)) } .ok idle.length

/-- The tiles on which a hint or a prefetch of bytes [addr, addr+n) acts (R113): those of the replica where the range is
redirected. `whole` leaves out those partly covered. -/
def Chip.hintTiles (s : Chip) (r : RangeRef) (addr n : Nat) (whole : Bool) : List Nat :=
  let lo := if whole then ceilDiv addr 16384 else addr / 16384
  let hi := if whole then (addr + n) / 16384 else (addr + n + 16383) / 16384
  (upFrom lo (hi - lo)).map (fun t => if s.rangeRedirected r then s.replicaTile r t else t)

/-- Where TIER_HINT and PREFETCH act: the HOMED range, or the status that ends them (R31). -/
def Chip.hintRange (s : Chip) (m : Cmd) (addr : Nat) : Except Status RangeRef :=
  match s.rangeCheck s.active m.part (addr / 16384) with
  | .unmapped => .error .rangeUnmapped
  | .foreign => .error .accessDenied
  | .broken _ => .error .tableCheck
  | .entry i k => if k == 1 then .ok ⟨s.active, i⟩ else .error .staleEpoch

/-- Promotions that HOT hints started and that wait for a frame are tried (R113). -/
def Chip.promoteWanted (s : Chip) : Chip :=
  if s.asleep then s else
  s.pool.wanted.foldl (fun s t =>
    let s := if (s.tile t).state == .flash then s.promote t else s
    if (s.tile t).state == .flash then s else s.modPool (fun q => { q with wanted := q.wanted.filter (· != t) })) s

/-- TIER_HINT (R113). -/
def Chip.runHint (s : Chip) (m : Cmd) : Chip :=
  let addr := prm m.cur 8 56
  let n := prm m.cur 16 64
  let mode := prm m.cur 24 8
  match s.hintRange m addr with
  | .error st => s.failCmd m st 1 addr 0
  | .ok r =>
    if mode == 3 then
      let l := s.hintTiles r addr n true
      (l.foldl (fun s t => s.discardTile t) s).endPacket m.id .ok l.length
    else if !s.tiered r then s.endPacket m.id .ok 0
    else
      let l := s.hintTiles r addr n false
      let s := l.foldl (fun s t =>
        let age := s.age
        let s := s.modTile t (fun x => { x with hint := mode, hintAge := age })
        if mode == 1 && (s.tile t).state == .flash then s.modPool (fun q => { q with wanted := distinct (q.wanted ++ [t]) }) else s) s
      s.promoteWanted.endPacket m.id .ok l.length

/-- PREFETCH (Table 8.5): the tiles to promote are listed, under 2^20 before their promotion starts and 2^20 + 1 after. -/
def Chip.runPrefetch (s : Chip) (m : Cmd) : Chip :=
  let addr := prm m.cur 8 56
  match s.hintRange m addr with
  | .error st => s.failCmd m st 1 addr 0
  | .ok r =>
    let m := if m.stage != 0 then m else
      { m with stage := 1
               asked := ((s.hintTiles r addr (prm m.cur 16 64) false).filter (fun t =>
                 (s.tile t).state == .flash || (s.tile t).state == .promoting)).map (fun t => (2 ^ 20, t)) }
    let s := m.asked.foldl (fun s (e : Nat × Nat) => if e.1 == 2 ^ 20 && (s.tile e.2).state == TileState.flash then s.promote e.2 else s) s
    let m := { m with asked := m.asked.map (fun (e : Nat × Nat) => if (s.tile e.2).state == TileState.flash then e else (2 ^ 20 + 1, e.2)) }
    let ended (e : Nat × Nat) : Bool := e.1 == 2 ^ 20 + 1 && (s.tile e.2).state != .promoting
    if m.asked.all ended then
      let bad := m.asked.any (fun (e : Nat × Nat) => (s.tile e.2).state == TileState.flash)
      let good := (m.asked.filter (fun (e : Nat × Nat) => (s.tile e.2).state != TileState.flash)).length
      (s.setCmd { m with asked := [] }).endPacket m.id (if bad then .uncorrectable else .ok) good
    else s.setCmd m

/-! ### Counters -/

/-- COUNTER_SET (R181). -/
def Chip.runCounterSet (s : Chip) (m : Cmd) : Chip :=
  let c := crefIndex (prm m.cur 8 32)
  if !s.counterOk c then s.failCmd m .tableCheck 4 (A.SEQ_COUNTER c) 0
  else
    let o := s.counter c F.SEQ_COUNTER_OWNER_JOB
    let job := if Nat.blt m.queue 1024 then s.rd (A.SEQ_Q_CFG m.queue) F.SEQ_Q_CFG_JOB else 0
    if o != 0 && job != o && !s.fromPf m then s.endPacket m.id .ownerMismatch 0
    else (s.counterSet c (prm m.cur 16 48) (prm m.cur 12 1) (prm m.cur 22 16)).endPacket m.id .ok 0

/-- The add itself: applied here, or sent with FENCE to the counter's E9 (R179). An add of zero changes nothing and answers
VALUE. -/
def Chip.addNow (s : Chip) (m : Cmd) : Chip :=
  let ref := prm m.cur 8 32
  let c := crefIndex ref
  let n := prm m.cur 16 48
  let sc := prm m.cur 12 8
  if crefEid ref == s.selfEid then
    if !s.counterOk c then s.failCmd m .tableCheck 4 (A.SEQ_COUNTER c) 0
    else
      let s := if n == 0 then s else s.counterAdd c n sc
      s.endPacket m.id .ok (s.counterValue c)
  else
    let tag := s.seq.nextTag % 2 ^ 32
    let p : Packet := { cls := clsCOUNTER, partition := m.part, dst := crefEid ref, src := s.selfEid, fence := true,
                        body := CounterBody.body { counter := c, scope := sc, operand := n, ctag := tag } }
    if s.suppressed p then s.endPacket m.id .ok 0
    else
      let s := s.modSeq (fun q => { q with
        nextTag := q.nextTag + 1
        outs := q.outs ++ [{ tag := tag, pool := false, cmd := m.id, issuer := m.issuer, add := true }] })
      (s.send p).issued { m with waits := [(2 * tag, none)] } .ok 0

/-- COUNTER_ADD (R179, R180): under DOMAIN it waits first for what is outstanding of the issuer's writes. -/
def Chip.runCounterAdd (s : Chip) (m : Cmd) : Chip :=
  if prm m.cur 12 8 != 3 || prm m.cur 16 48 == 0 then s.addNow m
  else if m.stage == 0 then
    let mine := (s.seq.outs.filter (fun o => o.issuer == m.issuer && !o.add)).map (fun o =>
      if o.pool then 2 * o.tag + 1 else 2 * o.tag)
    let lines := distinct ((s.cacheOf m.part).filterMap (fun e => if keyRole e.1 == roleENGINE then e.2.flight else none))
    let all := distinct (mine ++ lines.map (fun t => 2 * t + 1))
    s.setCmd { m with stage := 1, waits := all.map (fun k => (k, none)) }
  else if m.waits.any (fun w => w.2.isNone) then s
  else
    match (m.waits.filterMap (·.2)).find? (· != .ok) with
    | some st => s.endPacket m.id st 0
    | none => s.addNow { m with waits := [] }

/-! ### Codebooks, versions and ownership -/

/-- CODEBOOK_RETIRE (R254). -/
def Chip.runRetire (s : Chip) (m : Cmd) : Chip :=
  let k := prm m.cur 8 8
  let (s, st, r) := s.retireCodebook k
  if st == .ok then s.endPacket m.id .ok r else s.failCmd m st 4 (A.CDC_SLOT k) 0

/-- The agent on whose behalf a version or ownership command acts (R284). -/
def Chip.agentOf (s : Chip) (m : Cmd) : Nat := match m.origin with | .fabric e => e | _ => s.selfEid

/-- What the home answers to a version or ownership command whose address it homes (R187 to R193, R159). -/
def Chip.atHome (s : Chip) (m : Cmd) : HomeAns :=
  let x := m.cur
  let o := slotOp x
  let addr := prm x 8 56
  let e := s.agentOf m
  if o == oVERSION_OPEN then s.versionOpen m.part e addr (bitAt x (8 * 16))
  else if o == oVERSION_CLOSE then s.versionClose m.part (if bitAt x (8 * 16 + 15) then prm x 16 14 else e) addr
  else if o == oVERSION_PUBLISH then s.versionPublish m.part e addr (prm x 16 32) (prm x 20 32)
  else if o == oOWN_CLAIM then s.ownClaim m.part (addr / 64) (prm x 16 32) (prm x 20 32)
  else if o == oOWN_RELEASE then s.ownRelease m.part (addr / 64) (prm x 16 32) (prm x 20 32)
  else
    let n := (s.lostEntries).length
    let s := s.ackLost m.part addr (prm x 16 64) (bitAt x (8 * 24))
    (s, .ok, n - (s.lostEntries).length)

/-- A version or ownership command (R284): ordered here, or carried to another home, of which nothing comes back but what
the transaction timeout says (log entry 43). -/
def Chip.runHomeCmd (s : Chip) (m : Cmd) : Chip :=
  let addr := prm m.cur 8 56
  if m.stage != 0 then s.runIssued m
  else
    -- R159: a span that is not HOMED here for the partition is denied
    let lost := slotOp m.cur == oLOST_ACK
    match s.homeFor m.part addr with
    | .refused st => s.failCmd m (if lost && st != .tableCheck then .accessDenied else st) 1 addr 0
    | .here =>
      let last := if lost && !bitAt m.cur (8 * 24) then (addr + prm m.cur 16 64 - 1) / 16384 else addr / 16384
      if lost && !((upFrom (addr / 16384) (last - addr / 16384 + 1)).all (fun t =>
          match s.homeFor m.part (16384 * t) with | .here => true | _ => false)) then s.failCmd m .accessDenied 1 addr 0
      else
        let (s, st, res) := s.atHome m
        let s := if st.isError then
            s.log { status := st, subsys := .homeAgent, partition := some m.part, addrKind := 1, addr := addr,
                    srcEid := s.agentOf m, tag := slotTag m.cur }
          else s
        s.endPacket m.id st res
    | .away =>
      let tag := s.freshTag
      let eid := s.homeOf (addr / 16384)
      let s := (s.modPool (fun q => { q with
        nextAsk := (tag + 1) % 65536
        asks := q.asks.put tag { who := .job m.id 0, pkt := { partition := m.part, dst := eid, src := s.selfEid } } })).startTimer
        (.txn tag) s.txnTimeout
      (s.emitOut (.toHome eid tag m.cur)).issued { m with waits := [(2 * tag + 1, none)] } .ok 0

/-- The packet `m.cur` of a command that the sequencer carries out itself (R285). -/
def Chip.runSequencer (s : Chip) (m : Cmd) : Chip :=
  let o := slotOp m.cur
  if o == oFLUSH_RANGE then (if m.stage == 9 then s.runIssued m else s.runFlush m)
  else if o == oTIER_HINT then s.runHint m
  else if o == oPREFETCH then s.runPrefetch m
  else if o == oCOUNTER_SET then s.runCounterSet m
  else if o == oCOUNTER_ADD then (if m.stage == 9 then s.runIssued m else s.runCounterAdd m)
  else if o == oWAIT then
    (if m.stage == 0 then
      s.startWait m (crefIndex (prm m.cur 8 32)) (prm m.cur 12 8) (prm m.cur 14 48) (prm m.cur 20 32)
    else s)
  else if o == oCODEBOOK_RETIRE then s.runRetire m
  else if Nat.ble 0x70 o && Nat.ble o 0x82 then s.runHomeCmd m
  else s

/-- The operations of cells and encoder lanes, and ATTEND and PROJECT: the packet `m.cur` on the engines of `m`. -/
def Chip.runEngine (s : Chip) (m : Cmd) : Chip :=
  let o := slotOp m.cur
  if m.stage == 9 then s.runIssued m
  else if o == oCOPY then s.runCopy m 8 24 40
  else if o == oFILL then s.runFill m
  else if o == oWAIT_COPY then
    (if m.stage == 0 then
      s.startWait m (crefIndex (prm m.cur 8 32)) (prm m.cur 12 8) (prm m.cur 14 48) (prm m.cur 20 32)
    else if m.stage == 5 then s
    else if prm m.cur 56 64 == 0 then s.endPacket m.id .ok 0
    else s.runCopy m 24 40 56)
  else if opIsColl o then s.runCollective m
  else if o == oGATHER then s.runGather m
  else if o == oSCATTER then s.runScatter m
  else if o == oFILTER_SCAN then s.runScan m
  else if o == oATTEND then s.runAttend m
  else if o == oPROJECT then s.runProject m
  else if o == oENCODE then s.runEncode m
  else if o == oCODEBOOK_BUILD then s.runBuild m
  else s.runSequencer m

end Sys2Proof.Machine
end

