-- ==== Sys2Proof/Machine/Queues.lean ====
section
/-!
DEFINITION. Command queues: rings, doorbells, fabric commands, replies, the end and the stop of a command, CANCEL, jobs,
enable and disable (spec/08_commands_and_scheduling.md R271 to R282, R296 to R298, R301, R304).
-/
namespace Sys2Proof.Machine

/-- The run-time of queue `q`. -/
def Chip.queue (s : Chip) (q : Nat) : Queue := (s.seq.queues.find q).getD {}
def Chip.modQueue (s : Chip) (q : Nat) (f : Queue → Queue) : Chip :=
  s.modSeq (fun x => { x with queues := x.queues.put q (f ((x.queues.find q).getD {})) })

/-- Newt's path into the sequencer, as a queue (R271). -/
def newtQueue : Nat := 1024

/-- Fields of queue `q`'s registers; Newt's path has none. -/
def Chip.qSource (s : Chip) (q : Nat) : Nat := if q == newtQueue then 1 else s.rd (A.SEQ_Q_CFG q) F.SEQ_Q_CFG_SOURCE
def Chip.qFlag (s : Chip) (q : Nat) (f : Fld) : Bool := q != newtQueue && s.flag (A.SEQ_Q_STATE q) f
def Chip.qEnabled (s : Chip) (q : Nat) : Bool := q == newtQueue || s.flag (A.SEQ_Q_STATE q) F.SEQ_Q_STATE_ENABLED

/-- The owning function of queue `q`'s rings: the physical function, or a virtual function. -/
def Chip.qOwner (s : Chip) (q : Nat) : Option Nat := if s.qSource q == 2 then some (q / 16) else none

/-- The function that a queue's source names. -/
def Chip.qFunction (s : Chip) (q : Nat) : Option Source :=
  if s.qSource q == 1 then some .pf else if s.qSource q == 2 then some (.vf (q / 16)) else none

/-- Entries of the two rings. -/
def Chip.sqEntries (s : Chip) (q : Nat) : Nat := max 1 (s.rd (A.SEQ_Q_RING q) F.SEQ_Q_RING_SQ_ENTRIES)
def Chip.cqEntries (s : Chip) (q : Nat) : Nat := max 1 (s.rd (A.SEQ_Q_RING q) F.SEQ_Q_RING_CQ_ENTRIES)

/-- The 128 bits of a reply (Table 8.2). -/
def Reply.word (r : Reply) (phase : Nat) : Nat :=
  r.tag % 2 ^ 32 + (r.status % 256) <<< 32 + (phase % 2) <<< 40 + (r.queue % 1024) <<< 48 + (r.result % 2 ^ 64) <<< 64

/-- Waiting replies of queue `q` are written while its completion ring has room and the host link is up (R275, R339). -/
def Chip.writeReplies (s : Chip) (q : Nat) : Chip :=
  let x := s.queue q
  let n := s.cqEntries q
  let k := if s.seq.hostUp then min x.replies.length (n - (x.cqTail - x.cqHead)) else 0
  let now := x.replies.take k
  let s := s.modQueue q (fun x => { x with replies := x.replies.drop k, cqTail := x.cqTail + k })
  let base := 4096 * s.rd (A.SEQ_Q_CQ_BASE q) F.SEQ_Q_CQ_BASE_ADDR
  (numbered now).foldl (fun s e =>
    let i := x.cqTail + e.1
    let s := s.emitOut (.hostWrite (base + 16 * (i % n)) (bytesOfNat 16 (e.2.word (1 - i / n % 2))))
    if e.2.notify then s.interrupt (s.qOwner q) (s.rd (A.SEQ_Q_RING q) F.SEQ_Q_RING_VECTOR) else s) s

/-- A reply goes where its command came from (R275, R276). -/
def Chip.reply (s : Chip) (o : Origin) (part : Nat) (r : Reply) : Chip :=
  match o with
  | .ring => (s.modQueue r.queue (fun x => { x with replies := x.replies ++ [r] })).writeReplies r.queue
  | .fabric e => s.send { cls := clsREPLY, partition := part, dst := e, src := s.selfEid, body := r.word 0 }
  | .newt who => s.modSeq (fun q => { q with newtDone := q.newtDone ++ [(who, r.tag, r.status, r.result)] })

/-- The reply of a packet with a status: none under QUIET where it is OK (Table 8.1), but that CMD_SUBMIT always has its
reply (R474). -/
def Chip.replyTo (s : Chip) (m : Cmd) (x : Nat) (st : Status) (res : Nat) : Chip :=
  let newt := match m.origin with | .newt _ => true | _ => false
  if slotQuiet x && st == .ok && !newt then s
  else s.reply m.origin m.part { tag := slotTag x, status := st.code, queue := m.queue, result := res, notify := slotNotify x }

/-- A command ends (R278): its pins are released, its timers stop, its reply is written. -/
def Chip.completeCmd (s : Chip) (m : Cmd) (st : Status) (res : Nat) : Chip :=
  let s := s.unpinAll m
  let s := (s.stopTimer (.waitDeadline m.id)).stopTimer (.kernel m.id)
  let s := s.modSeq (fun q => { q with cmds := q.cmds.filter (fun x => x.id != m.id) })
  s.replyTo m m.slot st res

/-- A codebook slot that a stopped build held returns to FREE (Table 7.9). -/
def Chip.dropBuild (s : Chip) (m : Cmd) : Chip :=
  if slotOp m.cur == oCODEBOOK_BUILD && m.stage == 1 && m.phase == .running then s.setSlot (prm m.cur 8 8) cbFREE else s

/-- A kernel, or another running command, is stopped (R301): contexts aborted, pins released, its reply. -/
def Chip.stopCmd (s : Chip) (m : Cmd) (st : Status) (res : Nat) : Chip :=
  let s := s.abortOf m.id
  (s.dropBuild m).completeCmd m st res

/-- A command that the sequencer ends with a status of its own, with its record (R442). -/
def Chip.endCmd (s : Chip) (m : Cmd) (st : Status) (kind addr : Nat) : Chip :=
  (s.logCmd { m with cur := m.slot, engines := [] } st kind addr 0).completeCmd m st 0

/-- Whether a command's status is fixed (R282). -/
def Cmd.isFixed (m : Cmd) : Bool :=
  m.ending.isSome || (match m.phase with | .ended _ _ => true | _ => false)
    || (slotOp m.slot == oWAIT && (m.wait.elim false (fun w => w.fixed.isSome)))

/-- CANCEL (R282) by command `me`, which does not act on itself (log entry 56): the state, and whether it acted. -/
def Chip.cancel (s : Chip) (me q tag : Nat) : Chip × Bool :=
  match s.seq.cmds.find? (fun m => m.id != me && m.queue == q && slotTag m.slot == tag && !m.isFixed) with
  | none => (s, false)
  | some m =>
    let o := slotOp m.slot
    match m.phase with
    | .running =>
      if opIsAdmin o then (s, false)
      else if opIsColl o then (s.stopCmd m .collectiveAbort 0, true)
      else (((s.logCmd { m with cur := m.slot } .timeout 0 0 0).stopCmd m .timeout (if m.isChain then m.pc else 0)), true)
    | _ => (s.endCmd m .timeout 0 0, true)

/-- The queues of job `j` of partition `p`. -/
def Chip.jobQueues (s : Chip) (p j : Nat) : List Nat :=
  (upFrom (16 * p) 16).filter (fun q => s.rd (A.SEQ_Q_CFG q) F.SEQ_Q_CFG_JOB == j)

/-- JOB_SUSPEND and JOB_RESUME (R296): the queues affected. -/
def Chip.setSuspended (s : Chip) (p j : Nat) (on : Bool) : Chip × Nat :=
  let l := s.jobQueues p j
  (l.foldl (fun s q => s.wrB (A.SEQ_Q_STATE q) F.SEQ_Q_STATE_SUSPENDED on) s, l.length)

/-! ### Submission -/

/-- A command enters its queue (R274, R276, R277). -/
def Chip.submit (s : Chip) (q : Nat) (part : Nat) (o : Origin) (slot : Nat) : Chip :=
  let id := s.seq.nextCmd
  let m : Cmd := { id := id, queue := q, part := part, origin := o, slot := slot, cur := slot }
  if s.scrubbing part then
    (s.logCmd m .partitionScrubbing 0 0 0).replyTo m slot .partitionScrubbing 0
  else s.modSeq (fun x => { x with nextCmd := id + 1, cmds := x.cmds ++ [m] })

/-- The fetch of slots from SQ_HEAD to the tail (R274): nothing while the queue is halted or disabled, the host link down,
the part in Eaves, or 256 replies waiting (R275, R339). -/
def Chip.fetchMore (s : Chip) (q : Nat) : Chip :=
  let x := s.queue q
  let n := s.sqEntries q
  let head := (s.rd (A.SEQ_Q_STATE q) F.SEQ_Q_STATE_SQ_HEAD + x.fetching) % n
  let k := (x.tail + n - head) % n
  if !s.qEnabled q || s.qFlag q F.SEQ_Q_STATE_HALTED || x.disabling || !s.seq.hostUp || s.asleep || Nat.ble 256 x.replies.length
      || k == 0 then s
  else
    let s := s.modQueue q (fun x => { x with fetching := x.fetching + k })
    if Nat.ble (head + k) n then s.emitOut (.hostRead q head k)
    else (s.emitOut (.hostRead q head (n - head))).emitOut (.hostRead q 0 (head + k - n))

/-- Slots fetched from a ring arrive (R274). -/
def Chip.slotsIn (s : Chip) (q : Nat) (slots : List Nat) : Chip :=
  let x := s.queue q
  let now := slots.take x.fetching
  let head := (s.rd (A.SEQ_Q_STATE q) F.SEQ_Q_STATE_SQ_HEAD + now.length) % s.sqEntries q
  let s := s.modQueue q (fun x => { x with fetching := x.fetching - now.length })
  let s := if now.isEmpty then s else s.wr (A.SEQ_Q_STATE q) F.SEQ_Q_STATE_SQ_HEAD head
  now.foldl (fun s w => s.submit q (q / 16) .ring w) s

/-- A doorbell that is refused (R273), and one that halts its queue (R274, R275). -/
def Chip.doorbellDenied (s : Chip) (q off : Nat) (st : Status) : Chip :=
  (s.count A.SEQ_STATUS F.SEQ_STATUS_DOORBELL_ERRORS).log
    { status := st, subsys := .sequencer, partition := some (q / 16), queue := some q, addrKind := 9, addr := 4096 * q + off }
def Chip.doorbellHalts (s : Chip) (q off : Nat) : Chip :=
  (s.doorbellDenied q off .formatInvalid).wrB (A.SEQ_Q_STATE q) F.SEQ_Q_STATE_HALTED true

/-- Whether the page of queue `q` is in the BAR2 of a source (R273, R543). Newt firmware has no doorbells. -/
def Source.hasPage (src : Source) (q : Nat) : Bool :=
  match src with
  | .pf => true
  | .vf p => q / 16 == p
  | .newt => false

/-- SQ_TAIL is written (R273, R274, R277). Bits [31:16] are reserved and ignored (R12). -/
def Chip.sqTail (s : Chip) (src : Source) (q v : Nat) : Chip :=
  let i := v % 65536
  if !src.hasPage q then s
  else if s.qFunction q != some src || !s.qEnabled q then s.doorbellDenied q 0 .accessDenied
  else if s.qFlag q F.SEQ_Q_STATE_HALTED then s
  else if Nat.ble (s.sqEntries q) i then s.doorbellHalts q 0
  else if s.asleep then s.modQueue q (fun x => { x with latched := some i })
  else (s.modQueue q (fun x => { x with tail := i })).fetchMore q

/-- CQ_HEAD is written (R275): the slots up to it are free again. -/
def Chip.cqHead (s : Chip) (src : Source) (q v : Nat) : Chip :=
  let i := v % 65536
  if !src.hasPage q then s
  else if s.qFunction q != some src || !s.qEnabled q then s.doorbellDenied q 8 .accessDenied
  else
    let x := s.queue q
    let n := s.cqEntries q
    let used := x.cqTail - x.cqHead
    let k := (i + n - x.cqHead % n) % n
    -- a full ring freed whole names the slot it began at
    let k := if k == 0 && used == n then n else k
    if Nat.ble n i || Nat.blt used k then s.doorbellHalts q 8
    else (((s.modQueue q (fun x => { x with cqHead := x.cqHead + k })).writeReplies q).fetchMore q)

/-- A fabric command is refused (R276). -/
def Chip.refuseFabric (s : Chip) (eid part q slot : Nat) (st : Status) : Chip :=
  let s := s.log { status := st, subsys := .sequencer, partition := some part, queue := some q, srcEid := eid, tag := slotTag slot }
  s.reply (.fabric eid) part { tag := slotTag slot, status := st.code, queue := q, result := 0, notify := false }

/-- The partition of an endpoint (R163, R276). -/
def Chip.hostPart (s : Chip) (e : Nat) : Option Nat :=
  if s.flag (A.HOM_HOST e) F.HOM_HOST_ASSIGNED then some (s.rd (A.HOM_HOST e) F.HOM_HOST_PARTITION) else none

/-- One slot of a CMD packet of endpoint `e` and partition `p` (R276), and whether it was taken. -/
def Chip.cmdSlot (s : Chip) (e p w : Nat) : Chip × Bool :=
  let q := slotQueue w
  if slotOp w == oNOP then (s, false)
  else if s.asleep then (s.refuseFabric e p q w .waking, false)
  else if s.hostPart e != some (q / 16) || s.qSource q != 3 || !s.qEnabled q || (s.queue q).disabling then
    (s.refuseFabric e p q w .accessDenied, false)
  else if Nat.ble 256 ((s.seq.cmds.filter (fun m => m.queue == q && m.phase == .fetched)).length) then
    ((s.count A.SEQ_STATUS F.SEQ_STATUS_FABRIC_BUSY).refuseFabric e p q w .busy, false)
  else (s.submit q (q / 16) (.fabric e) w, true)

/-- The slots of a CMD packet (R276), and whether any was taken. -/
def Chip.cmdPacket (s : Chip) (p : Packet) : Chip × Bool :=
  let slots := (upFrom 0 (p.payload.length / 64)).map (fun i => natOfBytes ((p.payload.drop (64 * i)).take 64))
  slots.foldl (fun (acc : Chip × Bool) w =>
    let r := acc.1.cmdSlot p.src p.partition w
    (r.1, acc.2 || r.2)) (s, false)

/-! ### Enable and disable -/

/-- The engines to which a queue is bound (R293). -/
def Chip.boundTo (s : Chip) (q : Nat) : List Nat :=
  if q == newtQueue then []
  else
    let es := s.rd (A.SEQ_Q_CFG q) F.SEQ_Q_CFG_ENGINE_SET
    if es == 1 then [s.rd (A.SEQ_Q_CFG q) F.SEQ_Q_CFG_ENGINE] else if es == 2 then s.tilesOf (q / 16) else []

/-- Frame and budget of a queue in µs. -/
def Chip.qFrame (s : Chip) (q : Nat) : Nat := if q == newtQueue then 0 else s.rd (A.SEQ_Q_CFG q) F.SEQ_Q_CFG_FRAME_US
def Chip.qBudget (s : Chip) (q : Nat) : Nat := s.rd (A.SEQ_Q_SCHED q) F.SEQ_Q_SCHED_BUDGET_US

/-- The framed queues that are enabled. -/
def Chip.framedQueues (s : Chip) : List Nat :=
  (s.listed (A.SEQ_Q_CFG 0) 64 1024).filter (fun q => s.qFrame q != 0 && s.qEnabled q)

/-- The check of R298 at every engine to which queue `q` would be bound: the sum of budget over frame, and the largest
budget over the smallest frame, are at most 1. -/
def Chip.loadOk (s : Chip) (q : Nat) : Bool :=
  s.qFrame q == 0 || (s.boundTo q).all (fun e =>
    let qs := q :: (s.framedQueues.filter (fun x => x != q && (s.boundTo x).contains e))
    let d := qs.foldl (fun n x => n * s.qFrame x) 1
    let sum := qs.foldl (fun n x => n + s.qBudget x * (d / max 1 (s.qFrame x))) 0
    let big := qs.foldl (fun n x => max n (s.qBudget x)) 0
    let least := qs.foldl (fun n x => min n (s.qFrame x)) (s.qFrame q)
    -- sum / d + big / least ≤ 1
    Nat.ble (sum * least + big * d) (d * least))

/-- A record of a failed ENABLE. -/
def Chip.enableFails (s : Chip) (q : Nat) (st : Status) (reg : Nat) : Chip :=
  s.log { status := st, subsys := .sequencer, partition := some (q / 16), queue := some q, addrKind := 4, addr := reg }

/-- Whether a ring size is one that R272 allows. -/
def ringSizeOk (n : Nat) : Bool := isPow2 n && Nat.ble 16 n && Nat.ble n 65536

/-- ENABLE (R304, R421). -/
def Chip.enableQueue (s : Chip) (q : Nat) : Chip :=
  let src := s.qSource q
  let fr := s.qFrame q
  let sched := A.SEQ_Q_SCHED q
  let ph := s.rd sched F.SEQ_Q_SCHED_PHASE_US
  let es := s.rd (A.SEQ_Q_CFG q) F.SEQ_Q_CFG_ENGINE_SET
  if s.rd (A.PTN_STATE (q / 16)) F.PTN_STATE_STATE != 2 then s.enableFails q .accessDenied (A.SEQ_Q_CTL q)
  else if src == 0 then s.enableFails q .formatInvalid (A.SEQ_Q_CFG q)
  else if src != 3 && !(ringSizeOk (s.rd (A.SEQ_Q_RING q) F.SEQ_Q_RING_SQ_ENTRIES)
      && ringSizeOk (s.rd (A.SEQ_Q_RING q) F.SEQ_Q_RING_CQ_ENTRIES)) then s.enableFails q .formatInvalid (A.SEQ_Q_RING q)
  else if fr == 0 && (s.qBudget q != 0 || ph != 0) then s.enableFails q .formatInvalid sched
  else if fr != 0 && (s.qBudget q == 0 || Nat.blt fr (s.qBudget q) || Nat.ble fr ph) then s.enableFails q .formatInvalid sched
  else if fr != 0 && es == 0 then s.enableFails q .formatInvalid (A.SEQ_Q_CFG q)
  else if !s.loadOk q then s.enableFails q .quota (A.SEQ_Q_CFG q)
  else
    let s := s.modQueue q (fun x => { x with tail := 0, fetching := 0, cqTail := 0, cqHead := 0, disabling := false, latched := none })
    let a := A.SEQ_Q_STATE q
    ((s.wrB a F.SEQ_Q_STATE_ENABLED true).wrB a F.SEQ_Q_STATE_HALTED false).wr a F.SEQ_Q_STATE_SQ_HEAD 0

/-- DISABLE (R304): fetching stops at once. -/
def Chip.disableQueue (s : Chip) (q : Nat) : Chip :=
  if s.qEnabled q then s.modQueue q (fun x => { x with disabling := true, fetching := 0, latched := none }) else s

/-- Whether a queue has nothing running, waiting to start or waiting to be written. -/
def Chip.queueIdle (s : Chip) (q : Nat) : Bool := !s.seq.cmds.any (fun m => m.queue == q) && (s.queue q).replies.isEmpty

/-- ENABLED clears once the disabled queue is idle (R304). -/
def Chip.disableDone (s : Chip) (q : Nat) : Chip :=
  if (s.queue q).disabling && s.queueIdle q then
    (s.modQueue q (fun x => { x with disabling := false })).wrB (A.SEQ_Q_STATE q) F.SEQ_Q_STATE_ENABLED false
  else s

/-- SEQ_Q_CTL is written (R304); both bits together change nothing. -/
def Chip.queueControl (s : Chip) (q v : Nat) : Chip :=
  if v % 4 == 3 then s.enableFails q .formatInvalid (A.SEQ_Q_CTL q)
  else if v % 4 == 1 then s.enableQueue q
  else if v % 4 == 2 then s.disableQueue q
  else s

/-- Every queue of a set is emptied, as by a control-plane reset or a scrub: no replies, ENABLED 0 (R277, R541). -/
def Chip.clearQueues (s : Chip) (pick : Nat → Bool) : Chip :=
  let gone := s.seq.cmds.filter (fun m => pick m.queue)
  let s := gone.foldl (fun s m =>
    (((s.dropBuild m).unpinAll m).stopTimer (.waitDeadline m.id)).stopTimer (.kernel m.id)) s
  let s := s.modSeq (fun x => { x with
    cmds := x.cmds.filter (fun m => !pick m.queue)
    queues := x.queues.filter (fun e => !pick e.1) })
  { s with regs := s.regs.filter (fun e =>
      let q := (e.1 - A.SEQ_Q_STATE 0) / 64
      !(Nat.ble (A.SEQ_Q_STATE 0) e.1 && Nat.blt q 1024 && e.1 == A.SEQ_Q_STATE q && pick q)) }

end Sys2Proof.Machine
end

