-- ==== Sys2Proof/Machine/RegWrite.lean ====
section
/-!
DEFINITION. A write of a register word, field by field (spec/00_scope.md R10, R12, R13; spec/18_register_map.md R538, R548).
-/
namespace Sys2Proof.Machine

/-- A write of some bits of one register word: those of `mask` take the bits of `data`. -/
structure WordWrite where
  loc : Loc
  key : Nat
  data : Nat
  mask : Nat
deriving DecidableEq, Repr

/-- The fields of the entry that holds a word. -/
def Loc.specs (l : Loc) : List FieldSpec := l.kind.fields l.i l.j

/-- The bits of field `f` that the write covers, and what it puts there. -/
def WordWrite.maskOf (w : WordWrite) (f : Fld) : Nat := bits (w.mask <<< (64 * w.loc.word)) f.lo f.width
def WordWrite.dataOf (w : WordWrite) (f : Fld) : Nat := bits (w.data <<< (64 * w.loc.word)) f.lo f.width

/-- Whether the write covers some bit of field `f`, and whether it writes a 1 into it. -/
def WordWrite.touches (w : WordWrite) (f : Fld) : Bool := w.maskOf f != 0
def WordWrite.ones (w : WordWrite) (f : Fld) : Nat := w.maskOf f &&& w.dataOf f
def WordWrite.sets (w : WordWrite) (f : Fld) : Bool := w.ones f != 0

/-- `old` with the bits of the mask taken from `new`. -/
def mergeBits (width old mask new : Nat) : Nat := (old &&& complementOf width mask) ||| (new &&& mask)

/-- What field `f` would hold after the write, were it written as RW. -/
def Chip.fieldAfter (s : Chip) (w : WordWrite) (f : FieldSpec) : Nat :=
  mergeBits f.fld.width (if f.acc == .wo then 0 else s.rd w.loc.base f.fld) (w.maskOf f.fld) (w.dataOf f.fld)

/-- Whether the write places no reserved encoding in a field that it writes (R13). -/
def Chip.encodingOk (s : Chip) (w : WordWrite) : Bool :=
  w.loc.specs.all (fun f =>
    !w.touches f.fld || !(f.acc == .rw || f.acc == .rwl || f.acc == .wo) || f.legal.ok (s.fieldAfter w f))

/-- One field written under its access type (R10). A WO field stores nothing: its action is its own. -/
def Chip.applyField (s : Chip) (w : WordWrite) (locked : Bool) (f : FieldSpec) : Chip :=
  let a := w.loc.base
  match f.acc with
  | .ro | .wo => s
  | .rw => s.wr a f.fld (s.fieldAfter w f)
  | .rwl => if locked then s else s.wr a f.fld (s.fieldAfter w f)
  | .w1c => s.wr a f.fld (s.rd a f.fld &&& complementOf f.fld.width (w.ones f.fld))
  | .w1s => s.wr a f.fld (s.rd a f.fld ||| w.ones f.fld)

/-- The write applied field by field, the fields of `keep` left as they are (R548); a word of a complement that software may
write is stored whole (R539). -/
def Chip.applyWord (s : Chip) (w : WordWrite) (locked : Bool) (keep : List Fld) : Chip :=
  if Nat.blt w.loc.word w.loc.kind.words then
    (w.loc.specs.filter (fun f => w.touches f.fld && !keep.contains f.fld)).foldl (fun s f => s.applyField w locked f) s
  else if w.loc.specs.any (fun f => f.acc == .rw) then
    { s with regs := s.regs.setWord w.key (BitVec.ofNat 64 (mergeBits 64 (s.regs.word w.key).toNat w.mask w.data)) }
  else s

/-- The subsystem that holds the block of a BAR0 offset (Table 18.1, Table 1.1). -/
def blockSubsys (a : Nat) : Subsys :=
  if a < 0x200000 then .paceUnit else if a < 0x400000 then .newt else if a < 0x600000 then .portArray
  else if a < 0x800000 then .routeUnit else if a < 0x900000 then .switchCore else if a < 0xA00000 then .trafficManager
  else if a < 0xC00000 then .homeAgent else if a < 0xE00000 then .tierManager else if a < 0x1000000 then .partitionUnit
  else if a < 0x1400000 then .computeCells else if a < 0x1600000 then .matrixTiles else if a < 0x1800000 then .sequencer
  else .paceUnit

/-- Bits of a word written by Newt firmware from an image (R56, R91, R329): reserved bits are ignored, and a reserved encoding
leaves the word unchanged and is logged (R12, R13). -/
def Chip.loadBits (s : Chip) (a v mask : Nat) : Chip :=
  match locateKey a with
  | none => s
  | some l =>
    let w : WordWrite := { loc := l, key := a, data := v, mask := mask }
    if s.encodingOk w then s.applyWord w false [] else s.logReg .formatInvalid (blockSubsys a) a

end Sys2Proof.Machine
end

