-- ==== Sys2Proof/Machine/Image.lean ====
section
/-!
DEFINITION. The firmware image (spec/15_management_subsystem.md R489, R490) and the loading of its sections (R493).
-/
namespace Sys2Proof.Machine

/-- `n` bytes of a list from byte `i` on, and the number they spell. -/
def slice (l : List Byte) (i n : Nat) : List Byte := (l.drop i).take n
def leAt (l : List Byte) (i n : Nat) : Nat := natOfBytes (slice l i n)

/-- Newt changed. -/
def Chip.modNewt (s : Chip) (f : Newt → Newt) : Chip := { s with newt := f s.newt }

/-- Bytes of a chunk. -/
def chunkBytes : Nat := 65536

/-- "PLYE9IMG" (Table 15.12). -/
def imageMagic : List Byte := [0x50, 0x4C, 0x59, 0x45, 0x39, 0x49, 0x4D, 0x47]

/-- Fields of chunk 0 (Table 15.12). -/
def imgVersion (h : List Byte) : Nat := leAt h 8 4
def imgSvn (h : List Byte) : Nat := leAt h 12 1
def imgChunks (h : List Byte) : Nat := leAt h 13 1
def imgKey (h : List Byte) : List Byte := slice h 16 133
def imgSignature (h : List Byte) : List Byte := slice h 384 132

/-- What the signature covers: bytes 0 to 8,703 with the field itself zero. -/
def imgSigned (h : List Byte) : List Byte := h.take 384 ++ List.replicate 132 0 ++ slice h 516 (8704 - 516)

/-- A section of an image. -/
structure ImgSection where
  type : Nat
  index : Nat
  offset : Nat
  length : Nat
deriving DecidableEq, Repr

/-- The sections that chunk 0 lists; TYPE 0 is an entry not in use (log entry 49). -/
def imgSections (h : List Byte) : List ImgSection :=
  ((upFrom 0 16).map (fun i =>
    let e := leAt h (256 + 8 * i) 8
    { type := bits e 0 8, index := bits e 8 8, offset := bits e 16 24, length := bits e 40 24 })).filter (fun x => x.type != 0)

/-- Whether a section lies within the image and has the size of its type: a table's registers are 256 bytes, a profile's and a
program's 64 entries and 16 timers are 576 (log entry 49). -/
def ImgSection.fits (x : ImgSection) (chunks : Nat) : Bool :=
  Nat.ble (x.offset + x.length) ((chunks - 1) * chunkBytes) &&
  match x.type with
  | 1 => Nat.ble x.length 1048576
  | 2 => x.length == 256
  | 3 => x.length == 576 && Nat.blt x.index 16
  | 4 => x.length == 576 && Nat.ble 1 x.index && Nat.ble x.index 5
  | 5 => true
  | _ => false

/-- Whether no two sections overlap. -/
def disjointSections : List ImgSection → Bool
  | [] => true
  | x :: l => l.all (fun y => Nat.ble (x.offset + x.length) y.offset || Nat.ble (y.offset + y.length) x.offset)
      && disjointSections l

/-- FUSED_SVN: as made, or as raised since (R491). -/
def Chip.fusedSvn (s : Chip) : Nat := max (Config.svn % 64) s.newt.fusedSvn

/-- The first of checks 1 to 4 of R490 that chunk 0 fails. A SVN above 63 is a reserved encoding and fails check 1. -/
def Chip.headFails (s : Chip) (h : List Byte) : Option Nat :=
  if h.take 8 != imageMagic || !(Nat.ble 2 (imgChunks h) && Nat.ble (imgChunks h) 128) || Nat.ble 64 (imgSvn h) then some 1
  else if Config.sha512 (imgKey h) != Config.keyDigest then some 2
  else if !Config.ecdsaOk (imgKey h) (imgSigned h) (imgSignature h) then some 3
  else if Nat.blt (imgSvn h) s.fusedSvn then some 4
  else none

/-- Whether a chunk has the digest that the manifest gives it (R490 check 5). -/
def chunkMatches (h : List Byte) (i : Nat) (c : List Byte) : Bool := Config.sha512 c == leAt h (512 + 64 * i) 64

/-- The first check of R490 that an image fails, with the chunk it fails at. -/
def Chip.imageFails (s : Chip) (img : Tab (List Byte)) : Option (Nat × Nat) :=
  match img.find 0 with
  | none => some (1, 0)
  | some h =>
    match s.headFails h with
    | some k => some (k, 0)
    | none =>
      match (upFrom 1 (imgChunks h - 1)).find? (fun i => !((img.find i).elim false (chunkMatches h i))) with
      | some i => some (5, i)
      | none =>
        let xs := imgSections h
        if xs.all (fun x => x.fits (imgChunks h)) && disjointSections xs then none else some (6, 0)

/-- Byte `i` of the sections of an image, counted from chunk 1. -/
def imgByte (img : Tab (List Byte)) (i : Nat) : Byte := ((img.find (1 + i / chunkBytes)).getD []).getD (i % chunkBytes) 0

/-- The section of a type and index of the image that runs. -/
def Chip.section? (s : Chip) (type index : Nat) : Option ImgSection :=
  (s.newt.image.find 0).bind (fun h => (imgSections h).find? (fun x => x.type == type && x.index == index))

/-- The 8 bytes of a section from byte `i` of it. -/
def Chip.sectionWord (s : Chip) (x : ImgSection) (i : Nat) : Nat :=
  natOfBytes ((upFrom (x.offset + i) 8).map (imgByte s.newt.image))

/-- `n` words of a section from byte `from_` of it written from register key `a` on. -/
def Chip.loadWords (s : Chip) (x : ImgSection) (from_ a n : Nat) : Chip :=
  (upFrom 0 n).foldl (fun s k => s.loadBits (a + 8 * k) (s.sectionWord x (from_ + 8 * k)) (2 ^ 64 - 1)) s

/-- The curve table of the image written, entry by entry (R56, R493, R537). -/
def Chip.loadCurve (s : Chip) : Chip :=
  match (s.newt.image.find 0).bind (fun h => (imgSections h).find? (fun x => x.type == 2)) with
  | some x => (upFrom 0 128).foldl (fun s k =>
      s.loadBits (A.PCE_CURVE 0 0 + 8 * (k / 4)) (s.sectionWord x (8 * (k / 4))) (65535 <<< (16 * (k % 4)))) s
  | none => s

/-- Tray profile `p` of the image written (R91, R493). -/
def Chip.loadProfile (s : Chip) (p : Nat) : Chip :=
  match s.section? 3 p with
  | some x => (s.loadWords x 0 (A.TIR_PROF p 0) 64).loadWords x 512 (A.TIR_PROF_TIMER p 0) 8
  | none => s

/-- The training program of port `n`'s mode written (R329, R493). -/
def Chip.loadProgram (s : Chip) (n : Nat) : Chip :=
  let m := s.mode n
  let s := match s.section? 4 m with
    | some x => (s.loadWords x 0 (A.PRT_TRAIN n 0) 64).loadWords x 512 (A.PRT_TRAIN_TIMER n 0) 8
    | none => s
  s.modNewt (fun w => { w with programs := w.programs.put n m, owed := w.owed.filter (fun k => k != n) })

/-- Port `n` out of service takes the program it owes, or that of a new mode (R493; log entry 50). -/
def Chip.freshProgram (s : Chip) (n : Nat) : Chip :=
  if s.mode n == modeOFF || s.inService n then s
  else if s.newt.owed.contains n || (s.newt.programs.find n).getD 0 != s.mode n then s.loadProgram n
  else s

end Sys2Proof.Machine
end

