-- ==== Sys2Proof/Machine/Trays.lean ====
section
/-!
DEFINITION. Trays (spec/03_pool_and_tiers.md R84 to R94, R117 to R119): answers to tray operations, control messages,
the tray-profile machine, binding, loss, mode C; and the gangs of mode D (R120 to R124, R161).
-/
namespace Sys2Proof.Machine

/-- Commands that wait for a tray: the job takes its status. -/
def Chip.tellCommand (s : Chip) (n : Nat) (st : Status) : Chip :=
  match (s.tray n).command with
  | some j => (s.modTray n (fun t => { t with command := none })).modPool (fun q => { q with cmdDone := q.cmdDone ++ [(j, st)] })
  | none => s

/-- The state of tray `n` becomes `x`: the event to Newt, and the command that waited for it (R86, R89). -/
def Chip.setTrayState (s : Chip) (n x : Nat) : Chip :=
  let s := (s.wr (A.TIR_TRAY_STATUS n) F.TIR_TRAY_STATUS_STATE x).trayEvent n
  if x == trayREADY || x == trayABSENT then s.tellCommand n .ok else s

/-- The profile of tray `n`, as its port's profile names it. -/
def Chip.trayProfile (s : Chip) (n : Nat) : Nat := s.rd (A.TIR_TRAY_STATUS n) F.TIR_TRAY_STATUS_PROFILE

/-- Timer `k` of profile `p` in µs: timer 0 is none. -/
def Chip.profileTimer (s : Chip) (p k : Nat) : Nat :=
  if k == 0 then 0
  else s.rd (A.TIR_PROF_TIMER p (k / 2)) (if k % 2 == 0 then F.TIR_PROF_TIMER_T0 else F.TIR_PROF_TIMER_T1)

/-- Profile events (Table 3.5). -/
def pevLINK_UP : Nat := 0
def pevLINK_DOWN : Nat := 1
def pevMSG_IN : Nat := 2
def pevTIMER : Nat := 3
def pevCMD_FORMAT : Nat := 4
def pevCMD_DETACH : Nat := 5
def pevSTATUS_FATAL : Nat := 6
def pevCHECK_PASS : Nat := 7
def pevCHECK_FAIL : Nat := 8

/-- A TRAY_MSG tadpole is sent to tray `n` (R93). -/
def Chip.sendTrayMsg (s : Chip) (n body : Nat) : Chip :=
  s.sendLink (s.tray n).port { cls := clsTRAY_MSG, src := s.selfEid, body := body }

/-- Partitions that own a channel of tray `n`, or the tray. -/
def Chip.trayOwners (s : Chip) (n : Nat) : List Nat :=
  distinct (((upFrom 0 16).filterMap (fun ch => s.owner (A.PTN_OWN_DRAM 0 + 2 * (16 * n + ch))))
    ++ ((upFrom 0 32).filterMap (fun ch => s.owner (A.PTN_OWN_FLASH 0 + 2 * (32 * n + ch))))
    ++ (s.owner (A.PTN_OWN_TRAYC 0 + 2 * n)).toList)

/-- Whether a range uses tray `n`. -/
def Chip.rangeUses (s : Chip) (r : RangeRef) (n : Nat) : Bool :=
  bitAt (s.rng r F.PTN_RANGE_TRAY_MASK) n || s.rng r F.PTN_RANGE_META_TRAY == n

/-- The ranges on a lost tray: a paired one whose replica is whole is redirected, another fails (R117, R118). -/
def Chip.redirectRanges (s : Chip) (n : Nat) : Chip :=
  let rs := (s.homedRanges s.active).filter (fun r => s.rangeUses r n)
  rs.foldl (fun s r =>
    let base := s.rng r F.PTN_RANGE_BASE_TILE
    if s.flag r.at F.PTN_RANGE_REPLICA_EN && !s.rangeFailed (s.replicaOf r) && !s.rangeUses (s.replicaOf r) n
        && !s.rangeRedirected r && (s.pool.replicas.find base).isNone then
      s.modPool (fun q => { q with redirected := base :: q.redirected })
    else s.modPool (fun q => { q with failed := base :: q.failed })) s

/-- A channel of partition `p` cannot be zeroed by its scrub (R426): it awaits zeroing; each such channel is recorded once. -/
def Chip.unscrubbed (s : Chip) (p n ch : Nat) (flash : Bool) : Chip :=
  if s.pool.unzeroed.contains (n, ch, flash) then s
  else
    let a := if flash then A.PTN_OWN_FLASH 0 + 2 * (32 * n + ch)
      else if s.trayIsC n then A.PTN_OWN_TRAYC 0 + 2 * n else A.PTN_OWN_DRAM 0 + 2 * (16 * n + ch)
    let s := s.modPool (fun q => { q with unzeroed := (n, ch, flash) :: q.unzeroed })
    (s.wrB (A.PTN_STATE p) F.PTN_STATE_SCRUB_ERR true).log
      { status := .uncorrectable, subsys := .partitionUnit, partition := some p, addrKind := 4, addr := a }

/-- A zeroing operation of partition `p`'s scrub has ended. -/
def Chip.scrubAnswer (s : Chip) (p n ch : Nat) (flash ok : Bool) : Chip :=
  let s := s.modPool (fun q => { q with scrubs := q.scrubs.mapAt p (· - 1) })
  if ok then s else s.unscrubbed p n ch flash

/-- A tray operation to a lost tray is flushed (R117): a sector access ends with PORT_DOWN, but for a paired write, which
ends when the replica has acknowledged it. -/
def Chip.flushTop (s : Chip) (tag : Nat) (rec : TrayRec) : Chip :=
  let s := (s.modPool (fun q => { q with tops := q.tops.erase tag })).stopTimer (.tray tag)
  match rec.job with
  | .sector id =>
    match s.pool.ops.find? (fun o => o.id == id) with
    | none => s
    | some o =>
      if o.write.isSome && Nat.ble 2 o.owed then s.setOp { o with owed := o.owed - 1 }
      else s.opDone o .portDown []
  | .promote t =>
    let waiting := s.pool.ops.filter (fun o => o.tile == t && o.store == 0)
    waiting.foldl (fun s o => s.opDone o .portDown []) s
  | .xferRead x _ | .xferWrite x _ => s.xferDone x
  | .scrub p fl => s.scrubAnswer p rec.tray rec.srcCh fl false
  | _ => s

/-- The accesses that found no way to their tray end with PORT_DOWN. -/
def Chip.flushDead (s : Chip) : Chip := (s.pool.tops.filter (fun e => e.2.dead)).foldl (fun s e => s.flushTop e.1 e.2) s

/-- Tray `n` is declared LOST (R117): what is in flight is flushed, its ranges redirected or failed, the partitions told.
A tray that is ABSENT is never declared LOST. -/
def Chip.loseTray (s : Chip) (n : Nat) : Chip :=
  if s.trayState n == trayABSENT || s.trayState n == trayLOST then s
  else
    let s := (s.wrB (A.TIR_TRAY_STATUS n) F.TIR_TRAY_STATUS_LOST_SEEN true).setTrayState n trayLOST
    let s := s.tellCommand n .portDown
    let s := s.modTray n (fun t => { t with running := false, binds := [], owed := 0, loading := false })
    let s := ((s.stopTimer (.profile n)).stopTimer (.binding n)).stopTimer (.absence (s.tray n).port)
    let s := (s.pool.tops.filter (fun e => e.2.tray == n)).foldl (fun s e => s.flushTop e.1 e.2) s
    let s := s.redirectRanges n
    let port := (s.tray n).port
    let s := s.log { status := .portDown, subsys := .tierManager, addrKind := 4, addr := A.TIR_TRAY_STATUS n, port := port,
                     fault := true }
    let s := (distinct (s.trayOwners n ++ ((s.homedRanges s.active).filter (fun r => s.rangeUses r n)).map
        (fun r => s.rng r F.PTN_RANGE_PARTITION))).foldl (fun s p =>
      s.fault p .trayLost { addrKind := 4, addr := A.TIR_TRAY_STATUS n, eid := s.selfEid, port := port }) s
    s.tierPump.homeSettle

/-- The tag of a channel: its owner, with BOUND (R423). -/
def bindTag (o : Option Nat) : Nat := match o with | some p => p + 64 | none => 0

/-- The channel tags of tray `n`: DRAM or flash (Table 3.14). -/
def Chip.bindTags (s : Chip) (n : Nat) (flash : Bool) : Nat :=
  if flash then (upFrom 0 32).foldl (fun b c => b + bindTag (s.owner (A.PTN_OWN_FLASH 0 + 2 * (32 * n + c))) <<< (8 * c)) 0
  else (upFrom 0 16).foldl (fun b c => b + bindTag (s.owner (A.PTN_OWN_DRAM 0 + 2 * (16 * n + c))) <<< (8 * c)) 0

/-- CHANNEL_BIND is sent to tray `n`, the DRAM tags first (R93): each waits for its BIND_ACK. -/
def Chip.bindTray (s : Chip) (n : Nat) : Chip :=
  let d := s.bindTags n false
  let f := s.bindTags n true
  let s := s.modTray n (fun t => { t with binds := t.binds ++ [(false, d), (true, f)] })
  let us1 := s.profileTimer (s.trayProfile n) 1
  let s := s.startTimer (.binding n) (if us1 == 0 then 1000000 else us us1)
  (s.sendTrayMsg n (4 + d <<< 16)).sendTrayMsg n (4 + 256 + f <<< 16)

/-- A BIND_ACK of tray `n` (R93): the tags sent, or the tray is LOST. -/
def Chip.bindAck (s : Chip) (n : Nat) (flash : Bool) (tags : Nat) : Chip :=
  match (s.tray n).binds with
  | [] => s
  | b :: rest =>
    if b == (flash, tags) then
      let s := s.modTray n (fun t => { t with binds := rest })
      if rest.isEmpty then s.stopTimer (.binding n) else s
    else s.loseTray n

/-- The messages of an identity that are still to come. -/
def Identity.channelMessages (i : Identity) : Nat := ceilDiv i.dramCh 8 + ceilDiv i.flashCh 8

/-- Whether an identity lies within the limits of R84 and has the type of the port's profile (R85). -/
def Identity.ok (i : Identity) (type : Nat) : Bool :=
  i.type == type && Nat.ble i.dramCh 16 && Nat.ble i.flashCh 32 && Nat.ble 64 i.eraseTiles && Nat.ble i.eraseTiles 4096
    && (i.dramCap.take i.dramCh).all (fun c => Nat.ble c 524288) && (i.flashCap.take i.flashCh).all (fun c => Nat.ble c 8388608)

/-- CRC-32 of the IEEE 802.3 polynomial, one bit at a time. -/
def crcBit (c : Nat) : Nat := if c % 2 == 1 then c / 2 ^^^ 0xEDB88320 else c / 2
def crcByte (c : Nat) (b : Byte) : Nat :=
  crcBit (crcBit (crcBit (crcBit (crcBit (crcBit (crcBit (crcBit (c ^^^ b.toNat))))))))
def crc32 (l : List Byte) : Nat := l.foldl crcByte 0xFFFFFFFF ^^^ 0xFFFFFFFF

/-- "BILMATRY" as a number, byte 0 the least significant (Table 3.15). -/
def headerMagic : Nat := 0x595254414D4C4942

/-- A fresh metadata header (Table 3.15). -/
def headerOf (domain time serial eid : Nat) : List Byte :=
  let h := bytesOfNat 8 headerMagic ++ bytesOfNat 2 1 ++ zeroBytes 6 ++ bytesOfNat 8 domain ++ bytesOfNat 8 time
    ++ bytesOfNat 8 serial ++ bytesOfNat 2 (eid % 2 ^ 14) ++ zeroBytes 210
  h ++ bytesOfNat 4 (crc32 h)

/-- CHECK_HEADER's test (R94). -/
def headerPasses (h : List Byte) (domain : Nat) : Bool :=
  natOfBytes (h.take 8) == headerMagic && natOfBytes ((h.drop 8).take 2) == 1
    && natOfBytes ((h.drop 252).take 4) == crc32 (h.take 252)
    && natOfBytes ((h.drop 16).take 8) == domain && domain != 0

/-- The first VALID entry of profile `p` that matches a state and an event; MSG_IN also matches the code in ARG (R90). -/
def Chip.profileEntry (s : Chip) (p st ev code : Nat) : Option Nat :=
  ((upFrom 0 64).map (fun e => A.TIR_PROF p e)).find? (fun a =>
    s.flag a F.TIR_PROF_VALID && s.rd a F.TIR_PROF_STATE == st && s.rd a F.TIR_PROF_EVENT == ev
      && (ev != pevMSG_IN || s.rd a F.TIR_PROF_ARG == code))

/-- LOAD_IDENTITY where every message has come: CHECK_PASS or CHECK_FAIL, or nothing yet (R93). -/
def Chip.loadIdentity (s : Chip) (n : Nat) : Chip × Option Nat :=
  let t := s.tray n
  if !t.identSeen || Nat.blt t.chansSeen t.building.channelMessages then (s.modTray n (fun t => { t with loading := true }), none)
  else if t.building.ok (s.trayProfile n) then
    let s := s.modTray n (fun t => { t with ident := t.building, loading := false })
    let a := A.TIR_TRAY_STATUS n
    ((s.wr a F.TIR_TRAY_STATUS_DRAM_CH t.building.dramCh).wr a F.TIR_TRAY_STATUS_FLASH_CH t.building.flashCh, some pevCHECK_PASS)
  else
    ((s.logReg .formatInvalid .tierManager (A.TIR_TRAY_STATUS n)).modTray n (fun t => { t with loading := false }),
     some pevCHECK_FAIL)

/-- FLUSH_TRAY: the dirty HOME lines of the tray's ranges are written back (R89 step 3); the stored tile entries are the
tile tables themselves (log entry 19). -/
def Chip.flushTray (s : Chip) (n : Nat) : Chip × Option Nat :=
  let mine := s.pool.cache.filter (fun e => keyRole e.1 == roleHOME && e.2.dirty &&
    (match s.homed (keyLine e.1 / 256) with | some r => s.rangeUses r n | none => false))
  let s := s.modTray n (fun t => { t with owed := mine.length, bad := false })
  let s := mine.foldl (fun s e =>
    (s.modPool (fun q => { q with cache := q.cache.put e.1 { e.2 with dirty := false } })).writeHomeLine e.1 e.2 (.flush n)) s
  (s, if mine.isEmpty then some pevCHECK_PASS else none)

/-- ZERO_CHANNELS: a zero command to every channel (R86); a mode C tray has none to give (log entry 25). -/
def Chip.zeroChannels (s : Chip) (n : Nat) : Chip × Option Nat :=
  if s.trayIsC n then (s.forgetTray n, some pevCHECK_PASS)
  else
    let i := (s.tray n).ident
    let s := s.modTray n (fun t => { t with owed := i.dramCh + i.flashCh, bad := false })
    let s := (upFrom 0 i.dramCh).foldl (fun s ch =>
      s.sendTray { tray := n, job := .zero n, op := 7, srcCh := ch } 0 [] false false 0) s
    let s := (upFrom 0 i.flashCh).foldl (fun s ch =>
      s.sendTray { tray := n, job := .zero n, op := 7, srcCh := ch } 0 [] true false 0) s
    (s, if i.dramCh + i.flashCh == 0 then some pevCHECK_PASS else none)

/-- The channels of tray `n` that await zeroing are zeroed, now that it is READY (R426). -/
def Chip.zeroAwaited (s : Chip) (n : Nat) : Chip :=
  (s.pool.unzeroed.filter (fun e => e.1 == n)).foldl (fun s e =>
    s.sendTray { tray := n, job := .zero ((if e.2.2 then 2048 else 1024) + n), op := 7, srcCh := e.2.1 } 0 [] e.2.2 false 0) s

/-- An action of the profile machine (Table 3.5); the second result is the event it raises at once. -/
def Chip.profileAction (s : Chip) (n act arg : Nat) : Chip × Option Nat :=
  if act == 1 then (s.sendTrayMsg n (arg % 256), none)
  else if act == 2 then s.loadIdentity n
  else if act == 3 then (s.readSector (.header n) n 0 0 none 0, none)
  else if act == 4 then
    (s.writeSector (.headerWrite n) n 0 0 15
      (headerOf (s.rd A.TIR_DOMAIN_ID F.TIR_DOMAIN_ID_DOMAIN) s.tb (s.tray n).ident.serial s.selfEid) none 0, none)
  else if act == 5 then s.zeroChannels n
  else if act == 6 then
    let s := s.setTrayState n (arg % 8)
    (if arg % 8 == trayREADY then s.zeroAwaited n else s, none)
  else if act == 7 then s.flushTray n
  else if act == 8 then (s.emitOut (.cxlStep ((s.tray n).port / 4) arg), none)
  else if act == 9 then (s.loseTray n, none)
  else (s, none)

/-- An event of tray `n`'s profile machine (R90), and those its actions raise in turn. -/
def Chip.profileRun : Nat → Chip → Nat → Nat → Nat → Chip
  | 0, s, _, _, _ => s
  | fuel + 1, s, n, ev, code =>
    if !(s.tray n).running then s
    else
      let p := s.trayProfile n
      match s.profileEntry p (s.tray n).pstate ev code with
      | none =>
        if s.trayState n == trayREADY then s.count (A.TIR_TRAY_STATUS n) F.TIR_TRAY_STATUS_UNMATCHED else s.loseTray n
      | some a =>
        let s := s.modTray n (fun t => { t with pstate := s.rd a F.TIR_PROF_NEXT })
        let k := s.rd a F.TIR_PROF_TIMER
        let s := if s.profileTimer p k != 0 then s.startTimer (.profile n) (us (s.profileTimer p k)) else s
        match s.profileAction n (s.rd a F.TIR_PROF_ACTION) (s.rd a F.TIR_PROF_ARG) with
        | (s, some ev') => s.profileRun fuel n ev' 0
        | (s, none) => s

/-- An event of tray `n`. A chain of actions that raise events one after the other is at most as long as the profile is
(log entry 26). -/
def Chip.profileEvent (s : Chip) (n ev code : Nat) : Chip := s.profileRun 64 n ev code

/-- The port of a tray enters service: the machine starts in state 0 at LINK_UP (R85, R90). -/
def Chip.trayLinkUp (s : Chip) (port : Nat) : Chip :=
  let a := A.PRT_PROFILE s.active port
  let n := s.rd a F.PRT_PROFILE_TRAY_INDEX
  let st := A.TIR_TRAY_STATUS n
  let back := s.running (.absence port) && s.trayState n != trayLOST && s.trayState n != trayABSENT
  let s := s.stopTimer (.absence port)
  let s := (s.wrB st F.TIR_TRAY_STATUS_MODE_C (s.mode port == modeC)).wr st F.TIR_TRAY_STATUS_PROFILE (s.rd a F.PRT_PROFILE_TRAY_PROFILE)
  let s := s.modTray n (fun t =>
    { t with port := port, pstate := if back then t.pstate else 0, running := true, building := {}, identSeen := false,
             chansSeen := 0, loading := false, owed := 0 })
  s.profileEvent n pevLINK_UP 0

/-- The port of a tray leaves service: LINK_DOWN, and 2 ms in which it may come back (R117). -/
def Chip.trayLinkDown (s : Chip) (port : Nat) : Chip :=
  match s.pool.trays.find? (fun e => e.2.port == port && e.2.running) with
  | none => s
  | some (n, _) => (s.startTimer (.absence port) 2000000).profileEvent n pevLINK_DOWN 0

/-! ### Control messages (R93) -/

/-- Whether the bits of a control message that its code does not use are zero (R14, Table 3.14). -/
def trayMsgOk (b : Nat) : Bool :=
  let c := bits b 0 8
  if c == 2 then bits b 37 11 == 0 && bits b 144 240 == 0
  else if c == 3 then bits b 14 18 == 0 && bits b 288 96 == 0 && bits b 9 3 == 0
  else if c == 5 then bits b 9 7 == 0 && bits b 272 112 == 0
  else if c == 8 then bits b 16 368 == 0
  else if c == 7 then bits b 8 376 == 0
  else Nat.ble 0x40 c

/-- An IDENTITY message. -/
def identityOf (b : Nat) (old : Identity) : Identity :=
  { old with type := bits b 8 4, dramCh := bits b 12 5, flashCh := bits b 17 6, persist := bitAt b 23, eraseTiles := bits b 24 13,
             promoteUs := bits b 48 16, programUs := bits b 64 16, serial := bits b 80 64 }

/-- The capacities of an IDENTITY_CH message laid into a list from FIRST on. -/
def withCaps (l : List Nat) (first count b : Nat) : List Nat :=
  (upFrom 0 count).map (fun c =>
    if Nat.ble first c && Nat.blt c (first + 8) then bits b (32 * (c - first) + 32) 32 else l.getD c 0)

/-- A TRAY_MSG of tray `n` arrives (R93). -/
def Chip.trayMessage (s : Chip) (n b : Nat) : Chip :=
  let c := bits b 0 8
  if !trayMsgOk b then s.log { status := .formatInvalid, subsys := .tierManager, addrKind := 4, addr := A.TIR_TRAY_STATUS n }
  else if c == 2 then
    let s := s.modTray n (fun t => { t with building := identityOf b t.building, identSeen := true })
    let wasLoading := (s.tray n).loading
    if wasLoading then
      match s.loadIdentity n with
      | (s, some ev) => s.profileEvent n ev 0
      | (s, none) => s
    else s.profileEvent n pevMSG_IN 2
  else if c == 3 then
    let flash := bitAt b 8
    let first := bits b 9 5
    let s := s.modTray n (fun t =>
      let i := t.building
      { t with
        chansSeen := t.chansSeen + 1
        building := if flash then { i with flashCap := withCaps i.flashCap first i.flashCh b }
          else { i with dramCap := withCaps i.dramCap first i.dramCh b } })
    if (s.tray n).loading then
      match s.loadIdentity n with
      | (s, some ev) => s.profileEvent n ev 0
      | (s, none) => s
    else s
  else if c == 5 then s.bindAck n (bitAt b 8) (bits b 16 256)
  else if c == 8 then
    let s := s.log { status := .uncorrectable, subsys := .tierManager, addrKind := 4, addr := A.TIR_TRAY_STATUS n,
                     port := (s.tray n).port, detail := bits b 8 8 }
    (s.profileEvent n pevSTATUS_FATAL 0).loseTray n
  else s.profileEvent n pevMSG_IN c

/-! ### Answers of tray operations (R348) -/

/-- An operation of a profile action has ended: the last of them raises CHECK_PASS or CHECK_FAIL (log entry 26). -/
def Chip.profileOpDone (s : Chip) (n : Nat) (ok : Bool) : Chip :=
  let s := s.modTray n (fun t => { t with owed := t.owed - 1, bad := t.bad || !ok })
  if (s.tray n).owed == 0 then
    if (s.tray n).bad then s.profileEvent n pevCHECK_FAIL 0 else s.profileEvent n pevCHECK_PASS 0
  else s

/-- A flash tile being moved has been read into its spare frame (R104). -/
def Chip.movedIn (s : Chip) (t n l ftray frame : Nat) (ok : Bool) : Chip :=
  let e := s.tile t
  match s.homed t with
  | none => s.dropFrame ftray frame
  | some r =>
    if !ok || !(e.inFlash && e.flashTray == n && e.flashTile == l) then s.dropFrame ftray frame
    else
      match s.newLocation r with
      | none => s.dropFrame ftray frame
      | some (nt, nl) =>
        let (sch, si) := chanOf (s.tray ftray).ident.dramCap frame 0
        let (dch, di) := chanOf (s.tray nt).ident.flashCap nl 0
        (s.takeLocation nt nl t).sendTray
          { tray := nt, job := .moveOut t n l ftray frame nt nl, op := 4, srcCh := sch, srcIndex := si, dstCh := dch, dstIndex := di }
          0 [] false true (s.rng r F.PTN_RANGE_PARTITION)

/-- The moved tile has been programmed: its entry switches, unless a newer location stands (R104). -/
def Chip.movedOut (s : Chip) (t n l ftray frame nt nl : Nat) (ok : Bool) : Chip :=
  let e := s.tile t
  let (ch, b) := s.blockOf n l
  let (nch, nb) := s.blockOf nt nl
  let s := s.dropFrame ftray frame
  if !ok then
    ((s.dropLocation nt nl).retireBlock nt nch nb).modPool (fun q => { q with moves := q.moves ++ [t] })
  else if e.inFlash && e.flashTray == n && e.flashTile == l then
    ((s.dropLocation n l).modTile t (fun x => { x with flashTray := nt, flashTile := nl })).eraseIfEmpty n ch b
  else s.dropLocation nt nl

/-- The flash tiles on which `t`'s old block waited: blocks emptied by a writeback are erased. -/
def Chip.eraseEmptied (s : Chip) (n : Nat) : Chip :=
  ((s.pool.blocks.keysIn (n * 2 ^ 40) ((n + 1) * 2 ^ 40)).filter (fun k => (s.block k).emptying && !(s.block k).retired)).foldl
    (fun s k => s.eraseIfEmpty n (bits k 30 10) (k % 2 ^ 30)) s

/-- The uncorrectable answer of a read is reported to the data's partition (Table 14.7 cause 3). -/
def Chip.dataLost (s : Chip) (p addr : Nat) : Chip :=
  (s.logFault { status := .uncorrectable, subsys := .tierManager, partition := some p, addrKind := 1, addr := addr } p .dataLost
    { addrKind := 1, addr := addr, eid := s.selfEid }).uncorrectable .tierManager

/-- How a sector access ended (R348, R116): a tray's answer, or the transaction timeout. -/
def Chip.sectorAnswer (s : Chip) (id : Nat) (st : Status) (data : List Byte) : Chip :=
  match s.pool.ops.find? (fun o => o.id == id) with
  | none => s
  | some o =>
    let s := if st != .uncorrectable || o.write.isSome then s else
      match s.homed o.tile with
      | some r => s.dataLost (s.rng r F.PTN_RANGE_PARTITION) (sectorNo o.tile o.sector * 256)
      | none => s
    let o' := { o with owed := o.owed - 1, status := if o.status == .ok then st else o.status, data := data }
    if o'.owed == 0 then s.opDone o' o'.status data else s.setOp o'

/-- How the tray operation with tag `tag` ended, with the sector of a read: OK, UNCORRECTABLE for any other status of the tray
(R348), or TIMEOUT for its transaction timer (Table 2.4). -/
def Chip.trayAnswer (s : Chip) (tag : Nat) (st : Status) (data : List Byte) : Chip :=
  match s.pool.tops.find tag with
  | none => s
  | some rec =>
    let ok := st == .ok
    let s := (s.modPool (fun q => { q with tops := q.tops.erase tag })).stopTimer (.tray tag)
    let data := match rec.key with | some (k, sec) => if rec.op == 1 then Config.decrypt k sec data else data | none => data
    let n := rec.tray
    let s := match rec.job with
      | .sector id => s.sectorAnswer id st data
      | .promote t => s.promoted t ok
      | .program t nt l => s.programmed t nt l ok
      | .moveIn t nt l ft f => s.movedIn t nt l ft f ok
      | .moveOut t nt l ft f mt ml => s.movedOut t nt l ft f mt ml ok
      | .erase _ k =>
        if ok then s.modBlock k (fun b => { erases := b.erases + 1 })
        else s.retireBlock n (bits k 30 10) (k % 2 ^ 30)
      | .zero m =>
        if Nat.ble 1024 m then
          if ok then s.modPool (fun q => { q with unzeroed := q.unzeroed.filter (fun e => e != (n, rec.srcCh, Nat.ble 2048 m)) }) else s
        else
          let s := s.profileOpDone n ok
          if (s.tray n).owed == 0 && ok then s.forgetTray n else s
      | .scrub p fl => s.scrubAnswer p n rec.srcCh fl ok
      | .header m =>
        if ok && headerPasses data (s.rd A.TIR_DOMAIN_ID F.TIR_DOMAIN_ID_DOMAIN) then s.profileEvent m pevCHECK_PASS 0
        else s.profileEvent m pevCHECK_FAIL 0
      | .headerWrite m => s.profileEvent m (if ok then pevCHECK_PASS else pevCHECK_FAIL) 0
      | .copy _ id => s.modPool (fun q => { q with stores := q.stores.mapAt id (fun y => { y with ready := ok }) })
      | .xferRead x k => s.xferStep x k true ok data
      | .xferWrite x k => s.xferStep x k false ok []
    let s := ((s.tierPump).eraseEmptied n).background n
    let s := (s.pool.sweeps.map (·.1)).foldl (fun s p => s.sweepPump p) s
    let flushing := s.pool.done.any (fun e => e.1 == .flush n)
    let s := s.replicaPump.homeSettle
    if flushing && (s.tray n).owed == 0 then s.profileEvent n pevCHECK_PASS 0 else s

/-- A mode C device answers (R88): the lines of an operation are gathered; poison is UNCORRECTABLE. -/
def Chip.cxlAnswer (s : Chip) (n : Nat) (a : CxlAnswer) : Chip :=
  match a with
  | .step ok cap =>
    let s := if ok && cap != 0 then
        (s.modTray n (fun t => { t with ident := { t.ident with dramCh := 1, dramCap := [cap] } })).wr (A.TIR_TRAY_STATUS n)
          F.TIR_TRAY_STATUS_DRAM_CH 1
      else s
    s.profileEvent n (if ok then pevCHECK_PASS else pevCHECK_FAIL) 0
  | .mem addr data poison =>
    match s.pool.tops.find? (fun e => e.2.tray == n && e.2.lines.contains addr) with
    | none => s
    | some (tag, rec) =>
      if poison then s.trayAnswer tag .uncorrectable []
      else
        let rec' := { rec with lines := rec.lines.filter (· != addr), got := rec.got ++ [(addr / 64 % 4, data)] }
        if rec'.lines.isEmpty then s.trayAnswer tag .ok (payloadOf rec'.got)
        else s.modPool (fun q => { q with tops := q.tops.put tag rec' })

/-! ### Mode D gangs (R120 to R124, R161) -/

/-- The EID of gang `g`: the lowest one that the active route table attaches at its first port. DEDUCED (log entry 13). -/
def Chip.gangEid (s : Chip) (g : Nat) : Nat :=
  let base := A.RTE_ROUTE s.active 0
  match (s.regs.keysIn base (base + 16 * 16384)).find? (fun a =>
      a % 16 == 0 && s.rd a F.RTE_ROUTE_KIND == 2 && s.rd a F.RTE_ROUTE_PORT == 4 * g) with
  | some a => (a - base) / 16
  | none => 0

/-- The partition of gang `g`. -/
def Chip.gangPart (s : Chip) (g : Nat) : Nat := s.rd (A.PRT_PROFILE s.active (4 * g)) F.PRT_PROFILE_PARTITION

/-- The windows of gang `g`: device base, size and pool base in bytes, laid end to end (R547). -/
def Chip.gangWindows (s : Chip) (g : Nat) : List (Nat × Nat × Nat) :=
  ((upFrom 0 8).foldl (fun (r : Nat × List (Nat × Nat × Nat)) k =>
    let a := A.TIR_DPORT_MAP g k
    if s.flag a F.TIR_DPORT_MAP_VALID then
      let n := s.rd a F.TIR_DPORT_MAP_SIZE * 2 ^ 28
      (r.1 + n, r.2 ++ [(r.1, n, s.rd a F.TIR_DPORT_MAP_POOL_BASE * 2 ^ 28)])
    else r) (0, [])).2

/-- The pool address of a device address (R121). -/
def Chip.gangAddr (s : Chip) (g dpa : Nat) : Option Nat :=
  ((s.gangWindows g).find? (fun w => Nat.ble w.1 dpa && Nat.blt dpa (w.1 + w.2.1))).map (fun w => w.2.2 + (dpa - w.1))

/-- The capacity that gang `g` reports: the sum of its windows (R121). -/
def Chip.gangCapacity (s : Chip) (g : Nat) : Nat := (s.gangWindows g).foldl (fun n w => n + w.2.1) 0

/-- A request of the CPU of gang `g`, mapped by Table 3.11: to the home here, or to the remote one. -/
def Chip.gangRequest (s : Chip) (g tag dpa msg : Nat) (who : Asker) (data : List Byte) : Chip :=
  let p := s.gangPart g
  if s.scrubbing p then s.gangError g tag .partitionScrubbing p dpa
  else
    match s.gangAddr g dpa with
    | none => s.gangError g tag .rangeUnmapped p dpa
    | some a =>
      let line := a / 64
      let c : Coh := { msg := msg, lmask := 2 ^ (line % 4), saddr := line / 4 }
      let eid := s.gangEid g
      let merging := match who with | .gangMerge _ _ _ _ _ => true | _ => false
      if (s.homed (line / 256)).isSome && !merging then
        s.homeRequest { cls := if cohIsData msg then clsCOH_DATA else clsCOH, epoch := s.active, partition := p, src := eid,
                        dst := s.selfEid, segs := if cohIsData msg then 1 else 0, body := Coh.body c,
                        payload := payloadOf [(line % 4, data)] } (some (g, tag))
      else (s.ask who p 0 eid c (payloadOf [(line % 4, data)])).1.tellAskers

/-- A snoop of a home leaves to the CPU of gang `g` (Table 4.11). -/
def Chip.gangSnoop (s : Chip) (g : Nat) (p : Packet) : Chip :=
  let c := Coh.ofBody p.body
  let k := if c.msg == mSnpInv then SnoopKind.inv else if c.msg == mSnpShare then .share else .cur
  let line := 4 * c.saddr + (argMin id ((upFrom 0 4).filter (fun j => bitAt c.lmask j))).getD 0
  let s := s.modPool (fun q => { q with biSnoops := q.biSnoops ++ [⟨g, p.src, p.partition, p.tc, c.txn, c.saddr, c.lmask, k⟩] })
  s.emitOut (.biSnoop g c.msg (line * 64))

/-- The response that the home gets (Table 4.11). -/
def biRspMsg (k : SnoopKind) (r : BiRsp) : Nat :=
  match k, r with
  | .inv, _ => mRspI
  | .share, .birspS => mRspS
  | .share, _ => mRspI
  | .cur, .birspI => mRspI
  | .cur, _ => mRspCur

/-- The CPU of gang `g` answers the oldest back-invalidation snoop of the line at a pool address (R161). -/
def Chip.biResponse (s : Chip) (g addr : Nat) (r : BiRsp) : Chip :=
  match s.pool.biSnoops.find? (fun b => b.gang == g && b.saddr == addr / 256 && bitAt b.lmask (addr / 64 % 4)) with
  | none => s
  | some b =>
    let s := s.modPool (fun q => { q with biSnoops := q.biSnoops.filter (fun x => x != b) })
    let p : Packet := { cls := clsCOH, tc := b.tc, partition := b.part, dst := b.home, src := s.gangEid g,
                        body := Coh.body { msg := biRspMsg b.kind r, txn := b.txn, saddr := b.saddr, lmask := b.lmask } }
    if b.home == s.selfEid then s.snoopResponse p else s.send p

/-- The Heartbeat of gang `g` to this home, while its link is up (R161). -/
def Chip.gangBeat (s : Chip) (g : Nat) : Chip :=
  if s.inService (4 * g) then s.heartbeat { src := s.gangEid g, partition := s.gangPart g } else s

/-- A packet that leaves by the port of a mode D gang: a snoop becomes a back-invalidation snoop, a completion the CPU's
answer. -/
def Chip.toGang (s : Chip) (g : Nat) (p : Packet) : Chip :=
  let c := Coh.ofBody p.body
  if (p.cls == clsCOH || p.cls == clsCOH_DATA) && Nat.ble 0x10 c.msg && Nat.ble c.msg 0x12 then s.gangSnoop g p
  else if p.cls == clsCOH || p.cls == clsCOH_DATA then s.completionIn p
  else s

end Sys2Proof.Machine
end

