-- ==== Sys2Proof/Machine/Training.lean ====
section
/-!
DEFINITION. The training machine of each port (spec/09_ports_and_links.md R315, R316, R325 to R335) and a port's entry
into and departure from service (R308, R391, R117, R153).
-/
namespace Sys2Proof.Machine

/-- Training events (Table 9.6). -/
def tevENABLE : Nat := 0
def tevSIGNAL : Nat := 1
def tevSIGNAL_LOST : Nat := 2
def tevLOCK : Nat := 3
def tevMSG_IN : Nat := 4
def tevTIMER : Nat := 5
def tevCHECK_PASS : Nat := 6
def tevCHECK_FAIL : Nat := 7
def tevLANE_FAIL : Nat := 8
def tevREPLAY_LIMIT : Nat := 9
def tevEAVES_ENTER : Nat := 10
def tevEAVES_EXIT : Nat := 11

/-- Training actions (Table 9.6) that end later. -/
def tactADAPT : Nat := 2
def tactSELF_TEST : Nat := 4
def tactSPARE : Nat := 5
def tactKEY_EXCHANGE : Nat := 8
def tactLTSSM : Nat := 11
def tactIDE_SETUP : Nat := 12

/-- A field of PRT_STATUS of port `n` set. -/
def Chip.portSet (s : Chip) (n : Nat) (f : Fld) (v : Nat) : Chip := s.wr (A.PRT_STATUS n) f v

/-- The state of port `n`'s training machine. -/
def Chip.trainState (s : Chip) (n : Nat) : Nat := s.rd (A.PRT_STATUS n) F.PRT_STATUS_TRAIN_STATE

/-- Timer `k` of port `n`'s program in µs. -/
def Chip.trainTimer (s : Chip) (n k : Nat) : Nat :=
  if k == 0 then 0
  else s.rd (A.PRT_TRAIN_TIMER n (k / 2)) (if k % 2 == 0 then F.PRT_TRAIN_TIMER_T0 else F.PRT_TRAIN_TIMER_T1)

/-- The caching hosts that port `n` attaches: the partner of a mode F port, the gang's EID in mode D. -/
def Chip.hostAt (s : Chip) (n : Nat) : Option Nat :=
  let e := if s.mode n == modeD then s.gangEid (n / 4) else s.rd (A.PRT_STATUS n) F.PRT_STATUS_PARTNER_EID
  let a := A.HOM_HOST e
  if (s.mode n == modeF || s.mode n == modeD) && s.flag a F.HOM_HOST_ASSIGNED && s.flag a F.HOM_HOST_CACHING then some e else none

/-- The owner's fault report of a mode F port or mode D gang that leaves service (Table 14.7 cause 8). -/
def Chip.portLost (s : Chip) (n : Nat) : Chip :=
  if s.mode n == modeF || s.mode n == modeD then
    match s.owner (A.PRT_OWNER n) with
    | some p => s.fault p .portLost { addrKind := 4, addr := A.PRT_STATUS n, eid := s.rd (A.PRT_STATUS n) F.PRT_STATUS_PARTNER_EID, port := n }
    | none => s
  else s

/-- Port `n` leaves service: its queues are flushed, its tray or host has 2 ms to come back (R117, R153, R391). -/
def Chip.depart (s : Chip) (n : Nat) : Chip :=
  let s := if s.inService n then
      let s := (s.portSet n F.PRT_STATUS_IN_SERVICE 0).portSet n F.PRT_STATUS_DOWN_SEEN 1
      let s := s.count (A.PRT_ERR_CNT n) F.PRT_ERR_CNT_RETRAINS
      let s := (s.flushPort n).portLost n
      let s := s.trayLinkDown n
      if (s.hostAt n).isSome then s.startTimer (.absence n) 2000000 else s
    else s
  let s := ((s.portSet n F.PRT_STATUS_EAVES 0).portSet n F.PRT_STATUS_LANES 0).wrB (A.PRT_KEY_STATUS n) F.PRT_KEY_STATUS_KEYED false
  let s := (s.wrB (A.PRT_KEY_STATUS n) F.PRT_KEY_STATUS_UPDATING false).stopTimer (.training n)
  let s := match (s.port n).rotate with
    | some j => s.modPool (fun q => { q with cmdDone := q.cmdDone ++ [(j, Status.portDown)] })
    | none => s
  (s.modPort n (fun p => { p with txTrain := [], busy := none, update := .idle, rotate := none, pattern := none, gangUp := false })).freshProgram n

/-- DOWN (Table 9.6): out of service; ARG 0 tries again after BACKOFF_US, ARG 1 parks. -/
def Chip.goDown (s : Chip) (n arg : Nat) : Chip :=
  let s := s.depart n
  if arg == 0 then
    (s.modPort n (fun p => { p with parked := false })).startTimer (.backoff n)
      (us (s.rd (A.PRT_LINK_CFG n) F.PRT_LINK_CFG_BACKOFF_US))
  else (s.modPort n (fun p => { p with parked := true })).stopTimer (.backoff n)

/-- The TS_ID payload of this E9 on port `n` (Table 9.17). -/
def Chip.tsIdOf (s : Chip) (n : Nat) : Nat :=
  2 + s.selfEid <<< 8 + (s.port n).width <<< 24 + 1 <<< 28
    + s.rd (A.PRT_PROFILE s.active n) F.PRT_PROFILE_EAVES_EN <<< 29 + s.rd A.GLB_SERIAL F.GLB_SERIAL_SERIAL <<< 64

/-- SEND: training message `code`, twice under one SEQ (R330). -/
def Chip.trainSend (s : Chip) (n code : Nat) : Chip :=
  let m : TrainMsg := { code := code, seq := (s.port n).txTrainSeq, length := if code == 1 then 16 else 0,
                        payload := if code == 1 then bytesOfNat 16 (s.tsIdOf n) else [] }
  s.modPort n (fun p => { p with txTrain := p.txTrain ++ [m, m], txTrainSeq := (p.txTrainSeq + 1) % 256 })

/-- CHECK_CAPS: the partner's TS_ID against the profile (R330). -/
def Chip.capsOk (s : Chip) (n : Nat) : Bool :=
  match (s.port n).tsId with
  | none => false
  | some t =>
    let m := s.mode n
    bits t 0 2 == (if m == modeF then 1 else if m == modeU then 2 else 3) && bits t 24 4 == (s.port n).width && bitAt t 28

/-- SET_WIDTH: four lanes where none failed, two where a pair passes (R316). -/
def Chip.setWidth (s : Chip) (n w : Nat) : Chip × Bool :=
  let f := (s.port n).failed
  let ok := if w == 4 then f % 16 == 0 else w == 2 && (f % 4 == 0 || f / 4 % 4 == 0)
  if ok then
    ((((s.modPort n (fun p => { p with width := w })).portSet n F.PRT_STATUS_LANES w).portSet n F.PRT_STATUS_DEGRADED (b2n (w == 2))),
     true)
  else (s, false)

/-- Whether the spare of port `n`'s group is free (R315): no port of the group has it in use. -/
def Chip.spareFree (s : Chip) (n : Nat) : Bool :=
  !(upFrom (16 * (n / 16)) 16).any (fun k => s.flag (A.PRT_STATUS k) F.PRT_STATUS_SPARE_IN_USE)

/-- SERVICE: the port enters service; the tray's machine gets LINK_UP, and the tadpoles held in Eaves are delivered in
arrival order (R329, R335). -/
def Chip.enterService (s : Chip) (n : Nat) : Chip :=
  let was := s.inService n
  let s := ((s.portSet n F.PRT_STATUS_IN_SERVICE 1).portSet n F.PRT_STATUS_EAVES 0).stopTimer (.training n)
  let lanes := s.rd (A.PRT_STATUS n) F.PRT_STATUS_LANES
  let s := if lanes == 0 then s.portSet n F.PRT_STATUS_LANES (s.port n).width else s
  let s := if was then s
    else if s.mode n == modeT || s.mode n == modeC then s.trayLinkUp n
    else s.stopTimer (.absence n)
  let held := (s.port n).wakeQueue
  let s := s.modPort n (fun p => { p with wakeQueue := [] })
  held.foldl (fun s p => (s.acceptHeader n p).1) s

/-- EAVES_LANE: only the keep-alive lane runs (R333). -/
def Chip.eavesLane (s : Chip) (n : Nat) : Chip := s.portSet n F.PRT_STATUS_EAVES 1

/-- A training action (Table 9.6): the state after it and the event it raises at once. -/
def Chip.trainAction (s : Chip) (n act arg : Nat) : Chip × Option Nat :=
  let later (k : Nat) : Chip × Option Nat := (s.modPort n (fun p => { p with busy := some k }), none)
  let check (ok : Bool) : Nat := if ok then tevCHECK_PASS else tevCHECK_FAIL
  if act == 1 then (s.modPort n (fun p => { p with pattern := some arg }), none)
  else if act == 2 then later tactADAPT
  else if act == 3 then (s.trainSend n arg, none)
  else if act == 4 then later tactSELF_TEST
  else if act == 5 then if s.spareFree n then later tactSPARE else (s, some tevCHECK_FAIL)
  else if act == 6 then
    let r := s.setWidth n arg
    (r.1, some (check r.2))
  else if act == 7 then
    let ok := s.capsOk n
    let s := match (s.port n).tsId with | some t => s.portSet n F.PRT_STATUS_PARTNER_EID (bits t 8 14) | none => s
    (s, some (check ok))
  else if act == 8 then
    ((s.modPort n (fun p => { p with busy := some tactKEY_EXCHANGE })).emitOut (.spdmPort n 0), none)
  else if act == 9 then (s.enterService n, none)
  else if act == 10 then (s.goDown n arg, none)
  else if act == 11 then later tactLTSSM
  else if act == 12 then later tactIDE_SETUP
  else if act == 13 then (s.eavesLane n, none)
  else (s, none)

/-- The first VALID entry of port `n`'s program for a state and an event (R329). -/
def Chip.trainEntry (s : Chip) (n st ev code : Nat) : Option Nat :=
  ((upFrom 0 64).map (fun e => A.PRT_TRAIN n e)).find? (fun a =>
    s.flag a F.PRT_TRAIN_VALID && s.rd a F.PRT_TRAIN_STATE == st && s.rd a F.PRT_TRAIN_EVENT == ev
      && (ev != tevMSG_IN || s.rd a F.PRT_TRAIN_ARG % 256 == code))

/-- An event of port `n`'s training machine (R329) and those that its actions raise in turn. -/
def Chip.trainRun : Nat → Chip → Nat → Nat → Nat → Chip
  | 0, s, _, _, _ => s
  | fuel + 1, s, n, ev, code =>
    match s.trainEntry n (s.trainState n) ev code with
    | none =>
      if s.inService n then s.count (A.PRT_STATUS n) F.PRT_STATUS_UNMATCHED
      else (s.goDown n 0).portSet n F.PRT_STATUS_TRAIN_STATE 0
    | some a =>
      let arg := s.rd a F.PRT_TRAIN_ARG
      let k := s.rd a F.PRT_TRAIN_TIMER
      let next := s.rd a F.PRT_TRAIN_NEXT
      let s := s.portSet n F.PRT_STATUS_TRAIN_STATE next
      let s := if s.trainTimer n k != 0 then s.startTimer (.training n) (us (s.trainTimer n k)) else s
      match s.trainAction n (s.rd a F.PRT_TRAIN_ACTION) (if ev == tevMSG_IN then bits arg 8 8 else arg) with
      | (s, some ev') => s.trainRun fuel n ev' 0
      | (s, none) => s

/-- An event of port `n`: a chain of actions that raise events at once is no longer than the program (log entry 26). -/
def Chip.trainEvent (s : Chip) (n ev code : Nat) : Chip :=
  if s.mode n == 0 then s else s.trainRun 64 n ev code

/-- ENABLE: the machine's message numbers begin again (R330). -/
def Chip.enable (s : Chip) (n : Nat) : Chip :=
  ((s.freshProgram n).modPort n (fun p => { p with txTrainSeq := 0, rxTrainSeq := none, tsId := none, parked := false })).trainEvent n
    tevENABLE 0

/-- The port retrains at once (R341, R308): out of service as by DOWN with ARG 0, then ENABLE without a backoff. -/
def Chip.retrain (s : Chip) (n : Nat) : Chip :=
  ((((s.depart n).stopTimer (.backoff n)).portSet n F.PRT_STATUS_TRAIN_STATE 0)).enable n

/-- REPLAY_LIMIT is reached (R325). -/
def Chip.replayLimit (s : Chip) (n : Nat) : Chip :=
  (s.logReg .portDown .portArray (A.PRT_STATUS n)).trainEvent n tevREPLAY_LIMIT 0

/-- Whether a training message is well formed (R330). -/
def trainMsgOk (m : TrainMsg) : Bool :=
  Nat.ble 1 m.code && Nat.ble m.code 5 && !m.rsv && Nat.ble m.length 608 && (m.code != 1 || m.length == 16)
    && (m.code == 1 || m.code == 2 || m.length == 0)

/-- A TRAIN flit's message arrives on port `n` (R330): the first good copy counts. A fragment of the key exchange goes to
the exchange (log entry 27). -/
def Chip.trainMessage (s : Chip) (n : Nat) (m : TrainMsg) (fecOk : Bool) : Chip :=
  if !fecOk || !trainMsgOk m || (s.port n).rxTrainSeq == some m.seq then s
  else
    let s := s.modPort n (fun p => { p with rxTrainSeq := some m.seq })
    let s := if m.code == 1 then s.modPort n (fun p => { p with tsId := some (natOfBytes (m.payload.take 16)) }) else s
    if m.code == 2 then s.emitOut (.spdmPort n 1) else s.trainEvent n tevMSG_IN m.code

/-- A training action of port `n` that was under way has ended; one that was not does nothing. -/
def Chip.actionDone (s : Chip) (n act : Nat) (f : Chip → Chip) : Chip :=
  if (s.port n).busy == some act then f (s.modPort n (fun p => { p with busy := none })) else s

/-- The self-test of port `n` ends with these failed lanes (R315): CHECK_PASS or LANE_FAIL. -/
def Chip.selfTested (s : Chip) (n failed : Nat) : Chip :=
  s.actionDone n tactSELF_TEST (fun s =>
    let s := s.modPort n (fun p => { p with failed := failed % 16, width := if failed % 16 == 0 then 4 else p.width })
    if failed % 16 == 0 then
      (((s.portSet n F.PRT_STATUS_LANES 4).portSet n F.PRT_STATUS_DEGRADED 0)).trainEvent n tevCHECK_PASS 0
    else s.trainEvent n tevLANE_FAIL 0)

/-- The spare has been steered onto the lowest failed lane, or could not be (R315). -/
def Chip.spareSteered (s : Chip) (n : Nat) (ok : Bool) : Chip :=
  s.actionDone n tactSPARE (fun s =>
    let f := (s.port n).failed
    match (upFrom 0 4).find? (fun j => bitAt f j) with
    | none => s.trainEvent n tevCHECK_PASS 0
    | some lane =>
      if !ok then s.trainEvent n tevCHECK_FAIL 0
      else
        let s := (s.portSet n F.PRT_STATUS_SPARE_IN_USE 1).portSet n F.PRT_STATUS_SPARE_LANE lane
        let s := s.newtEvent 0x2A (n <<< 8 + lane <<< 16)
        let s := s.modPort n (fun p => { p with failed := putBit f lane false })
        if putBit f lane false == 0 then
          (((s.modPort n (fun p => { p with width := 4 })).portSet n F.PRT_STATUS_LANES 4)).trainEvent n tevCHECK_PASS 0
        else s.trainEvent n tevCHECK_FAIL 0)

/-- The key exchange of port `n` completes or fails (R326, R327). -/
def Chip.keyExchanged (s : Chip) (n : Nat) (ok : Bool) : Chip :=
  s.actionDone n tactKEY_EXCHANGE (fun s =>
    if ok then
      let a := A.PRT_KEY_STATUS n
      let s := ((s.wrB a F.PRT_KEY_STATUS_KEYED true).wrap a F.PRT_KEY_STATUS_GEN 1).wr a F.PRT_KEY_STATUS_GROUPS 0
      let s := (s.modPort n (fun p => { p with txCtr := 0, rxPhase := 0 })).wr a F.PRT_KEY_STATUS_PHASE 0
      s.trainEvent n tevCHECK_PASS 0
    else
      ((s.portSet n F.PRT_STATUS_KEY_FAIL_SEEN 1).logReg .accessDenied .portArray (A.PRT_STATUS n)).trainEvent n tevCHECK_FAIL 0)

/-- The LTSSM of a gang reaches L0 at a width, or fails (R312, R331). -/
def Chip.ltssmDone (s : Chip) (n : Nat) (ok : Bool) (width : Nat) : Chip :=
  s.actionDone n tactLTSSM (fun s =>
    if ok then (s.portSet n F.PRT_STATUS_LANES width).trainEvent n tevCHECK_PASS 0 else s.trainEvent n tevCHECK_FAIL 0)

/-- CXL IDE of a gang is established, or fails. -/
def Chip.ideDone (s : Chip) (n : Nat) (ok : Bool) : Chip :=
  s.actionDone n tactIDE_SETUP (fun s =>
    if ok then (s.modPort n (fun p => { p with gangUp := true })).trainEvent n tevCHECK_PASS 0
    else s.trainEvent n tevCHECK_FAIL 0)

/-- 2 ms out of service (R117, R153): the tray is LOST, or the host failed. -/
def Chip.absent (s : Chip) (n : Nat) : Chip :=
  let s := match s.pool.trays.find? (fun e => e.2.port == n && e.2.running) with
    | some (t, _) => s.loseTray t
    | none => s
  match s.hostAt n with
  | some e => s.declareFailed e
  | none => s

/-- A link-management tadpole's SPDM fragment on port `n` (R328). -/
def Chip.linkFragment (s : Chip) (n : Nat) (f : LinkFragment) : Chip :=
  match f with
  | .ask =>
    ((s.modPort n (fun p => { p with update := .switched })).wrB (A.PRT_KEY_STATUS n) F.PRT_KEY_STATUS_UPDATING true).sendLink n
      { cls := clsLINK, src := s.selfEid, body := 2 }
  | .confirm =>
    if (s.port n).update == .asked then s.modPort n (fun p => { p with update := .switched }) else s
  | .fail => (s.goDown n 0).portSet n F.PRT_STATUS_TRAIN_STATE 0

/-- The command that waited for a link key update of port `n` is told once the new phase is sent. -/
def Chip.tellRotate (s : Chip) (n : Nat) : Chip :=
  match (s.port n).rotate with
  | some j =>
    if (s.port n).update == .idle then
      (s.modPort n (fun p => { p with rotate := none })).modPool (fun q => { q with cmdDone := q.cmdDone ++ [(j, Status.ok)] })
    else s
  | none => s

end Sys2Proof.Machine
end

