-- ==== Sys2Proof/Machine/Epoch.lean ====
section
/-!
DEFINITION. Epochs (spec/10_packets_and_routing.md R370 to R375): arming, the checks of an install
(spec/03_pool_and_tiers.md R80, R112, R115; spec/09_ports_and_links.md R307; spec/13_partitions_and_security.md R423) and
its effect (R308, R118, R119).
-/
namespace Sys2Proof.Machine

/-! ### Arming -/

/-- The state of the version that is not active set (Table 10.9). -/
def Chip.setOther (s : Chip) (v : Nat) : Chip := s.wr A.RTE_EPOCH F.RTE_EPOCH_OTHER_STATE v

/-- The first entry of version `v`, in ascending address, that fails its complement check (R539): its BAR0 offset and its unit. An
entry that the register file does not list holds its reset value, which passes. -/
def Chip.badEntry (s : Chip) (v : Nat) : Option (Subsys × Nat) :=
  let bad (at_ : Nat → Nat) (stride count words : Nat) : List Nat :=
    (s.listed (at_ 0) stride count).filter (fun i => !s.checked (at_ i) words)
  let route := (bad (fun _ => A.RTE_GUTTER v) 16 1 1).map (fun _ => A.RTE_GUTTER v)
    ++ (bad (A.RTE_PGROUP v) 32 256 2).map (A.RTE_PGROUP v) ++ (bad (A.RTE_ROUTE v) 16 16384 1).map (A.RTE_ROUTE v)
    ++ (bad (A.RTE_MCAST v) 64 4096 4).map (A.RTE_MCAST v)
  let part := (bad (A.PTN_PART v) 16 64 1).map (A.PTN_PART v) ++ (bad (A.PTN_RANGE v) 64 4096 4).map (fun i => 0xE80000 + 64 * i)
  match route, part with
  | a :: _, _ => some (.routeUnit, a)
  | [], a :: _ => some (.partitionUnit, a)
  | [], [] => none

/-- ARM and DISARM (R372, R539): from CLOSED to ARMED and back; any other state is BUSY, and ARM checks the entries first. -/
def Chip.arm (s : Chip) : Chip :=
  match s.badEntry s.shadowV with
  | some (sub, a) => s.logReg .tableCheck sub a
  | none => if s.otherState == 0 then s.setOther 1 else s.logReg .busy .routeUnit A.RTE_EPOCH_CTL
def Chip.disarm (s : Chip) : Chip :=
  if s.otherState == 1 then s.setOther 0 else s.logReg .busy .routeUnit A.RTE_EPOCH_CTL

/-- RTE_DROPS0 and RTE_DROPS1 zeroed (R376). -/
def Chip.clearDrops (s : Chip) : Chip :=
  [F.RTE_DROPS0_PARTITION, F.RTE_DROPS0_STALE, F.RTE_DROPS0_HOPS, F.RTE_DROPS0_GUTTER].foldl (fun s f => s.wr A.RTE_DROPS0 f 0)
    ([F.RTE_DROPS1_FORMAT, F.RTE_DROPS1_FENCE_TIMEOUT, F.RTE_DROPS1_MCAST].foldl (fun s f => s.wr A.RTE_DROPS1 f 0) s)

/-- RTE_EPOCH_CTL is written (R372, R376, Table 10.13): ARM with DISARM changes nothing. -/
def Chip.epochControl (s : Chip) (v : Nat) : Chip :=
  if bitAt v 0 && bitAt v 1 then s.logReg .formatInvalid .routeUnit A.RTE_EPOCH_CTL
  else
    let s := if bitAt v 2 then s.clearDrops else s
    if bitAt v 0 then s.arm else if bitAt v 1 then s.disarm else s

/-! ### The range table (R80) -/

/-- The entries of version `v` that the register file lists, ascending; an unlisted one is unused. -/
def Chip.rangeEntries (s : Chip) (v : Nat) : List RangeRef :=
  (s.listed (A.PTN_RANGE v 0) 64 4096).map (fun i => ⟨v, i⟩)

/-- Fields of an entry. -/
def Chip.rBase (s : Chip) (r : RangeRef) : Nat := s.rng r F.PTN_RANGE_BASE_TILE
def Chip.rTiles (s : Chip) (r : RangeRef) : Nat := s.rng r F.PTN_RANGE_TILES
def Chip.rKind (s : Chip) (r : RangeRef) : Nat := s.rng r F.PTN_RANGE_KIND

/-- The trays of an entry: those of TRAY_MASK. -/
def Chip.rTrays (s : Chip) (r : RangeRef) : List Nat := (upFrom 0 32).filter (fun n => bitAt (s.rng r F.PTN_RANGE_TRAY_MASK) n)

/-- Whether an entry covers addresses. -/
def Chip.rCovers (s : Chip) (r : RangeRef) : Bool := s.rKind r != 0 && s.rTiles r != 0

/-- Steps 1 to 3. -/
def Chip.rangeForm (s : Chip) (r : RangeRef) : Option Status :=
  let homed := s.rKind r == 1
  if s.rTiles r == 2 ^ 34 - 1 || Nat.blt (2 ^ 42) (s.rBase r + s.rTiles r) then some .lengthRange
  else if s.rKind r == 3 || (homed && Nat.ble 2 (s.rng r F.PTN_RANGE_POLICY))
      || (!homed && (s.rng r F.PTN_RANGE_POLICY != 0 || s.flag r.at F.PTN_RANGE_REPLICA_EN))
      || (homed && s.rTiles r != 0 && s.isShadow) then some .formatInvalid
  else none

/-- Whether two entries overlap. -/
def Chip.rOverlap (s : Chip) (a b : RangeRef) : Bool :=
  Nat.blt (s.rBase a) (s.rBase b + s.rTiles b) && Nat.blt (s.rBase b) (s.rBase a + s.rTiles a)

/-- The pairing rules of R115. -/
def Chip.pairOk (s : Chip) (r : RangeRef) : Bool :=
  let q := s.replicaOf r
  let mine := s.rng r F.PTN_RANGE_META_TRAY :: s.rTrays r
  s.rKind q == 1 && s.rng q F.PTN_RANGE_PARTITION == s.rng r F.PTN_RANGE_PARTITION
    && s.rng q F.PTN_RANGE_POLICY == s.rng r F.PTN_RANGE_POLICY && s.rTiles q == s.rTiles r
    && !s.flag q.at F.PTN_RANGE_REPLICA_EN
    && !(s.rng q F.PTN_RANGE_META_TRAY :: s.rTrays q).any (fun n => mine.contains n)

/-- Step 6: the trays of a HOMED entry. -/
def Chip.traysOk (s : Chip) (r : RangeRef) : Bool :=
  (s.rng r F.PTN_RANGE_META_TRAY :: s.rTrays r).all (fun n =>
    let a := A.PRT_PROFILE r.v (s.tray n).port
    s.trayState n == trayREADY && (s.rd a F.PRT_PROFILE_MODE == modeT || s.rd a F.PRT_PROFILE_MODE == modeC)
      && s.rd a F.PRT_PROFILE_TRAY_INDEX == n)
  && !(s.rng r F.PTN_RANGE_META_CHAN == 0 && Nat.blt (s.rng r F.PTN_RANGE_TABLE_BASE) 4)

/-- Steps 1 to 7 of entry `r`. -/
def Chip.rangeStep (s : Chip) (live : List RangeRef) (r : RangeRef) : Option Status :=
  if !s.checked r.at 4 then some .tableCheck
  else
    match s.rangeForm r with
    | some st => some st
    | none =>
      if !s.rCovers r then none
      else if live.any (fun o => o != r && s.rOverlap o r) then some .formatInvalid
      else if s.rKind r != 1 then none
      else if (s.flag r.at F.PTN_RANGE_REPLICA_EN && !s.pairOk r) || !s.traysOk r then some .formatInvalid
      else
        let p := s.rng r F.PTN_RANGE_PARTITION
        if !s.ownsDram p (s.rng r F.PTN_RANGE_META_TRAY) (s.rng r F.PTN_RANGE_META_CHAN) || (s.banksOf p).isEmpty then
          some .accessDenied
        else none

/-! ### What an install charges (R112) -/

/-- The fields by which a range is the same in two versions. -/
def Chip.rangeKey (s : Chip) (r : RangeRef) : List Nat :=
  [s.rBase r, s.rTiles r, s.rng r F.PTN_RANGE_POLICY, s.rng r F.PTN_RANGE_TRAY_MASK, s.rng r F.PTN_RANGE_META_TRAY,
   s.rng r F.PTN_RANGE_META_CHAN, s.rng r F.PTN_RANGE_TABLE_BASE, s.rng r F.PTN_RANGE_PARTITION]

/-- Whether the active version maps a range of the other version alike. -/
def Chip.keeps (s : Chip) (r : RangeRef) : Bool :=
  (s.homedRanges s.active).any (fun o => s.rangeKey o == s.rangeKey r)

/-- What charging has done so far: frames taken by channel (16 × tray + channel), the PINNED charges, the TIERED ranges
charged, and the first range that did not fit. -/
structure Charging where
  taken : Tab Nat := []
  charges : Tab (List (Nat × Nat) × Nat) := []
  tiered : List RangeRef := []
  tooBig : Option Nat := none

/-- Frames of a channel that charging may give: not set aside, not held by a copy of a version, not yet taken. -/
def Chip.chargeable (s : Chip) (c : Charging) (u : Nat) : Nat :=
  let t := s.tray (u / 16)
  let b := t.frameBase (u % 16)
  let copies := (s.pool.frames.filter (fun e =>
    Nat.ble (frameKey (u / 16) b) e.1 && Nat.blt e.1 (frameKey (u / 16) (b + t.frames (u % 16))) && Nat.ble storeMark e.2)).length
  t.frames (u % 16) - s.reservedFrames (u / 16) (u % 16) - copies - (c.taken.find u).getD 0

/-- `n` frames taken on a channel. -/
def Charging.take (c : Charging) (u n : Nat) : Charging := { c with taken := c.taken.put u ((c.taken.find u).getD 0 + n) }

/-- Flash tiles that partition `p`'s TIERED ranges on a range's trays may fill: less the over-provisioning (R105). -/
def Chip.flashRoom (s : Chip) (p mask : Nat) : Nat :=
  let all := (s.flashChannels p mask).foldl (fun n c => n + (s.tray c.1).flashTiles c.2) 0
  all * (100 - s.rd A.TIR_FTL_CFG0 F.TIR_FTL_CFG0_OP) / 100

/-- One range charged. -/
def Chip.charge (s : Chip) (c : Charging) (r : RangeRef) : Charging :=
  if c.tooBig.isSome then c
  else
    let p := s.rng r F.PTN_RANGE_PARTITION
    let mask := s.rng r F.PTN_RANGE_TRAY_MASK
    let meta_ := 16 * s.rng r F.PTN_RANGE_META_TRAY + s.rng r F.PTN_RANGE_META_CHAN
    let bytes := 4096 * s.rng r F.PTN_RANGE_TABLE_BASE + 16 * s.rTiles r
    let table := ceilDiv bytes 16384 - 4096 * s.rng r F.PTN_RANGE_TABLE_BASE / 16384
    let inRegion := s.trayIsC (meta_ / 16)
    let fits := Nat.ble bytes (16384 * (s.tray (meta_ / 16)).frames (meta_ % 16))
      && (inRegion || Nat.ble table (s.chargeable c meta_))
    if !fits then { c with tooBig := some r.i }
    else
      let c := if inRegion then c else c.take meta_ table
      if s.tiered r then
        let mapped := (c.tiered.filter (fun o => s.rng o F.PTN_RANGE_PARTITION == p
          && (s.rng o F.PTN_RANGE_TRAY_MASK &&& mask) != 0)).foldl (fun n o => n + s.rTiles o) 0
        let left := (s.dramChannels p (2 ^ 32 - 1)).foldl (fun n e => n + s.chargeable c (16 * e.1 + e.2)) 0
        if Nat.blt (s.flashRoom p mask) (mapped + s.rTiles r) || Nat.blt left 1024 then { c with tooBig := some r.i }
        else { c with tiered := c.tiered ++ [r] }
      else
        match (if s.keeps r then s.pool.charges.find (s.rBase r) else none) with
        | some ch =>
          let before := ch.1.map (·.2)
          let after := (spreadFrom before ch.2).getD before
          let c := (ch.1.zip after).foldl (fun c e => c.take e.1.1 (e.1.2 - e.2)) c
          { c with charges := c.charges.put (s.rBase r) ch }
        | none =>
          let us := (s.dramChannels p mask).map (fun e => 16 * e.1 + e.2)
          let before := us.map (s.chargeable c)
          match spreadFrom before (s.rTiles r) with
          | none => { c with tooBig := some r.i }
          | some after =>
            let c := (us.zip (before.zip after)).foldl (fun c e => c.take e.1 (e.2.1 - e.2.2)) c
            { c with charges := c.charges.put (s.rBase r) (us.zip before, s.rTiles r) }

/-- Every HOMED range of version `v` charged: those kept first, then the others, each in ascending index. -/
def Chip.chargeAll (s : Chip) (v : Nat) : Charging :=
  let l := (s.homedRanges v).filter (fun r => s.rTiles r != 2 ^ 34 - 1)
  (l.filter s.keeps ++ l.filter (fun r => !s.keeps r)).foldl s.charge {}

/-- The range table of version `v` checked: the first failing entry's status and address. -/
def Chip.checkRanges (s : Chip) (v : Nat) : Option (Status × Nat) :=
  let all := s.rangeEntries v
  let live := all.filter s.rCovers
  let tooBig := (s.chargeAll v).tooBig
  all.findSome? (fun r =>
    match s.rangeStep live r with
    | some st => some (st, s.rangeOffset v r.i)
    | none => if tooBig == some r.i then some (.quota, s.rangeOffset v r.i) else none)

/-! ### The port profiles and the partition table -/

/-- The first failing port profile of version `v` (R307, R83), checked port by port. -/
def Chip.checkProfiles (s : Chip) (v : Nat) : Option (Status × Nat) :=
  let word (n : Nat) : Nat := (s.regs.word (A.PRT_PROFILE v n)).toNat
  let mode (n : Nat) : Nat := s.modeOf v n
  let index (n : Nat) : Nat := s.rd (A.PRT_PROFILE v n) F.PRT_PROFILE_TRAY_INDEX
  let isTray (n : Nat) : Bool := mode n == modeT || (mode n == modeC && n % 4 == 0)
  let width (n : Nat) : Nat := if mode n == modeT then 1 else 4
  (upFrom 0 128).findSome? (fun n =>
    let p := s.rd (A.PRT_PROFILE v n) F.PRT_PROFILE_PARTITION
    let m := mode n
    let own := s.owner (A.PRT_OWNER n)
    let off := 0x400008 + 0x4000 * n
    let before := (upFrom 0 n).filter isTray
    let ports := (upFrom 0 (n + 1)).foldl (fun k x => if isTray x then k + width x else k) 0
    if Nat.ble 6 m || s.rd (A.PRT_PROFILE v n) F.PRT_PROFILE_TRAIN_PROG != 0 || (m != modeF && m != modeD && p != 0)
        || (Nat.ble 4 m && (upFrom 0 4).any (fun k => word (n / 4 * 4 + k) != word n)) then some (.formatInvalid, off)
    else if ((m == modeF || m == modeD) && own != some p) || ((m == modeU || m == modeT || m == modeC) && own.isSome) then
      some (.accessDenied, off)
    else if isTray n && (Nat.blt 32 ports || before.any (fun x => index x == index n)) then some (.formatInvalid, off)
    else none)

/-- The first failing entry of the partition table (R423). -/
def Chip.checkParts (s : Chip) (v : Nat) : Option (Status × Nat) :=
  (upFrom 0 64).findSome? (fun p =>
    let a := A.PTN_PART v p
    if !s.checked a 1 then some (.tableCheck, a)
    else if s.flag a F.PTN_PART_LOCAL && Nat.ble (s.rd (A.PTN_STATE p) F.PTN_STATE_STATE) 1 then some (.accessDenied, a)
    else none)

/-! ### The effect of an install -/

/-- The keys of a range's tile entries. -/
def Chip.tableSpan (s : Chip) (r : RangeRef) : Nat × Nat :=
  let k := s.tileKey r (s.rBase r)
  (k, k + 16 * s.rTiles r)

/-- The tile entries of a range with tiles that are not ZERO, as (tile, entry). -/
def Chip.tilesOfRange (s : Chip) (r : RangeRef) : List (Nat × Tile) :=
  let k := s.tableSpan r
  (s.pool.tiles.filter (fun e => Nat.ble k.1 e.1 && Nat.blt e.1 k.2 && e.2.state != .zero)).map (fun e =>
    (s.rBase r + (e.1 - k.1) / 16, e.2))

/-- A range that no version maps any more is forgotten: its entries, their frames and flash, and the HOME lines of its
tiles. -/
def Chip.forgetRange (s : Chip) (r : RangeRef) : Chip :=
  let p := s.rng r F.PTN_RANGE_PARTITION
  let k := s.tableSpan r
  let l := s.tilesOfRange r
  let s := l.foldl (fun s e =>
    let s := if e.2.framed then s.dropFrame e.2.dramTray e.2.dramFrame else s
    let s := if e.2.inFlash then s.dropLocation e.2.flashTray e.2.flashTile else s
    s.moveCount p e.2 {}) s
  let lo := cacheKey p roleHOME 0 (256 * s.rBase r)
  let s := s.modPool (fun q => { q with
    tiles := q.tiles.filter (fun e => !(Nat.ble k.1 e.1 && Nat.blt e.1 k.2))
    cache := q.cache.filter (fun e => !(Nat.ble lo e.1 && Nat.blt e.1 (lo + 256 * s.rTiles r))) })
  s.destroyKeys p

/-- Whether two tile tables overlap. -/
def Chip.tablesMeet (s : Chip) (a b : RangeRef) : Bool :=
  let x := s.tableSpan a
  let y := s.tableSpan b
  Nat.blt x.1 y.2 && Nat.blt y.1 x.2

/-- A survivor's copy into a replica that the old version did not pair it with begins (R119). -/
def Chip.startReplicas (s : Chip) (old : Nat) : Chip :=
  let was (r : RangeRef) : Bool := (s.homedRanges old).any (fun o =>
    s.rangeKey o == s.rangeKey r && s.flag o.at F.PTN_RANGE_REPLICA_EN && s.rangeKey (s.replicaOf o) == s.rangeKey (s.replicaOf r)
      && (s.pool.replicas.find (s.rBase o)).isNone && !s.rangeFailed (s.replicaOf o))
  let paired := (s.homedRanges s.active).filter (fun r => s.flag r.at F.PTN_RANGE_REPLICA_EN)
  let s := s.modPool (fun q => { q with replicas := q.replicas.filter (fun e => paired.any (fun r => s.rBase r == e.1)) })
  (paired.filter (fun r => !was r)).foldl (fun s r =>
    s.modPool (fun q => { q with replicas := q.replicas.put (s.rBase r) ((s.tilesOfRange r).map (·.1)) })) s

/-- The ports whose profiles differ between the versions in more than EAVES_EN (R308). -/
def Chip.changedPorts (s : Chip) (v : Nat) : List Nat :=
  (upFrom 0 128).filter (fun n =>
    let w (x : Nat) : Nat := putBit (s.regs.word (A.PRT_PROFILE x n)).toNat 22 false
    w v != w (1 - v))

/-- A passing install (R373): the versions change places, and what hangs on them follows. -/
def Chip.activate (s : Chip) : Chip :=
  let old := s.active
  let v := 1 - old
  let c := s.chargeAll v
  let fresh := (s.homedRanges v).filter (fun r => !s.keeps r)
  let keptBases := ((s.homedRanges v).filter s.keeps).map s.rBase
  let gone := (s.homedRanges old).filter (fun o => !(s.homedRanges v).any (fun r => s.rangeKey r == s.rangeKey o))
  -- a new range's table begins empty, whatever lay there
  let s := (gone.filter (fun o => fresh.any (fun r => s.tablesMeet o r))).foldl Chip.forgetRange s
  let ports := s.changedPorts v
  let s := ports.foldl Chip.depart s
  let s := (s.wr A.RTE_EPOCH F.RTE_EPOCH_ACTIVE v).setOther 2
  let s := (s.wrap A.RTE_EPOCH F.RTE_EPOCH_INSTALLS 1).syncDrain
  let s := s.startTimer .drainHold (us (s.rd A.RTE_FLOW_CFG F.RTE_FLOW_CFG_DRAIN_HOLD_US))
  let s := s.modPool (fun q => { q with
    charges := c.charges
    failed := q.failed.filter keptBases.contains
    redirected := q.redirected.filter keptBases.contains })
  let s := s.startReplicas old
  let s := ports.foldl Chip.retrain s
  s.replicaPump.tierPump

/-- EPOCH_INSTALL (R373): its status, its RESULT, and the address for the record of a failure. -/
def Chip.install (s : Chip) : Chip × Status × Nat × Nat :=
  if s.otherState != 1 then (s, .busy, 0, A.RTE_EPOCH)
  else
    let v := s.shadowV
    match (s.checkRanges v).orElse (fun _ => (s.checkProfiles v).orElse (fun _ => s.checkParts v)) with
    | some (st, a) => (s, st, 0, a)
    | none =>
      let s := s.activate
      (s, .ok, s.active + (s.rd A.RTE_EPOCH F.RTE_EPOCH_INSTALLS) <<< 32, 0)

/-- Whether the active version maps a range of the closing one alike, or lays another range's table over its own. -/
def Chip.keepsNow (s : Chip) (o : RangeRef) : Bool :=
  s.keeps o || (s.homedRanges s.active).any (fun r => s.tablesMeet o r)

/-- The DRAINING version closes once DRAIN is 0 and DRAIN_HOLD_US has passed (Table 10.9); the ranges that only it mapped
are forgotten. -/
def Chip.drainClose (s : Chip) : Chip :=
  if s.otherState != 2 || s.rd A.RTE_EPOCH F.RTE_EPOCH_DRAIN != 0 then s
  else
    let s := (s.expire .drainHold).getD s
    let gone := (s.homedRanges s.shadowV).filter (fun o => !s.keepsNow o)
    ((gone.foldl Chip.forgetRange s).setOther 0).tierPump

/-- The copy into a new replica has ended (R119): mirroring begins. -/
def Chip.replicaCopied (s : Chip) (base : Nat) : Chip :=
  match s.pool.replicas.find base with
  | some [] => s.modPool (fun q => { q with replicas := q.replicas.erase base })
  | _ => s

end Sys2Proof.Machine
end

