-- ==== Sys2Proof/Machine/Partitions.lean ====
section
/-!
DEFINITION. The lifecycle of partitions (spec/13_partitions_and_security.md R417 to R427), their keys (R429 to R434), and the
other administrative commands (Table 8.9).
-/
namespace Sys2Proof.Machine

/-- The status and RESULT of a command, recorded where the status is an Error (R442). -/
def Chip.endAdmin (s : Chip) (m : Cmd) (sub : Subsys) (st : Status) (res kind addr : Nat) : Chip :=
  let s := if st.isError then
      s.log { status := st, subsys := sub, partition := some m.part, addrKind := kind, addr := addr, srcEid := m.srcEid,
              queue := if Nat.blt m.queue 1024 then some m.queue else none, tag := slotTag m.cur }
    else s
  s.endPacket m.id st res

/-- The running command of opcode `op` on partition `p`. -/
def Chip.adminOf (s : Chip) (op p : Nat) : Option Cmd :=
  s.seq.cmds.find? (fun m => m.phase == .running && m.stage == 1 && slotOp m.slot == op && prm m.slot 8 6 == p)

/-! ### Keys -/

/-- A new memory key of partition `p` in slot `g`, LIVE and NEWEST (R431, R432). -/
def Chip.newKey (s : Chip) (p g : Nat) : Chip :=
  let (k, s) := s.generate p
  let s := s.modPool (fun q => { q with keys := q.keys.put (4 * p + g) k })
  let live := s.rd (A.KEY_MEM p) F.KEY_MEM_LIVE
  (s.wrKey p F.KEY_MEM_LIVE (putBit live g true)).wrKey p F.KEY_MEM_NEWEST g

/-- Every tile of partition `p` that its sweep visits, in ascending order of range and tile (R433). -/
def Chip.sweepTiles (s : Chip) (p : Nat) : List Nat :=
  let newest := s.rd (A.KEY_MEM p) F.KEY_MEM_NEWEST
  ((s.homedRanges s.active).filter (fun r => s.rng r F.PTN_RANGE_PARTITION == p)).flatMap (fun r =>
    let k := s.tableSpan r
    let listed := (s.pool.tiles.filter (fun e => Nat.ble k.1 e.1 && Nat.blt e.1 k.2)).map (fun e =>
      (s.rBase r + (e.1 - k.1) / 16, e.2))
    ((listed.filter (fun e => (e.2.state != .zero || !(s.copiesOf e.1).isEmpty) && e.2.keyGen != newest)).map (·.1)))

/-- The sweep starts, or is retargeted at the new NEWEST (R433): a tile under way is finished and visited again. -/
def Chip.startSweep (s : Chip) (p : Nat) : Chip :=
  let todo := s.sweepTiles p
  let s := (s.wrKey p F.KEY_MEM_SWEEPING 1).wrKey p F.KEY_MEM_SWEPT 0
  match s.pool.sweeps.find p with
  | some (t :: _) =>
    if (s.tile t).sweeping then s.modPool (fun q => { q with sweeps := q.sweeps.put p (t :: todo) })
    else s.sweepNext p todo
  | _ => s.sweepNext p todo

/-- KEY_ROTATE (R432, R328). -/
def Chip.runRotate (s : Chip) (m : Cmd) : Chip :=
  let p := prm m.cur 8 6
  let port := prm m.cur 10 16
  if prm m.cur 9 8 == 0 then
    let st := s.pstate p
    let g := (s.rd (A.KEY_MEM p) F.KEY_MEM_NEWEST + 1) % 4
    if Nat.ble st psCREATED then s.endAdmin m .partitionUnit .busy 0 4 (A.PTN_STATE p)
    else if Nat.ble psSCRUBBING st then s.endAdmin m .partitionUnit .keyRetired 0 4 (A.PTN_STATE p)
    else if s.trngFail || bitAt (s.rd (A.KEY_MEM p) F.KEY_MEM_LIVE) g then s.endAdmin m .partitionUnit .busy 0 4 (A.KEY_MEM p)
    else ((s.newKey p g).startSweep p).endPacket m.id .ok g
  else if Nat.ble 128 port then s.endAdmin m .partitionUnit .formatInvalid 0 0 0
  else if (s.owner (A.PRT_OWNER port)).getD 0 != p then s.endAdmin m .partitionUnit .accessDenied 0 4 (A.PRT_OWNER port)
  else if m.stage == 0 then
    if s.trngFail || !s.inService port || s.flag (A.PRT_KEY_STATUS port) F.PRT_KEY_STATUS_UPDATING then
      s.endAdmin m .partitionUnit .busy 0 4 (A.PRT_STATUS port)
    else
      let s := s.setCmd { m with stage := 1 }
      (s.modPort port (fun x => { x with rotate := some m.id })).startKeyUpdate port
  else s

/-! ### Create, seal, drain -/

/-- PARTITION_CREATE (Table 13.3). -/
def Chip.runCreate (s : Chip) (m : Cmd) : Chip :=
  let p := prm m.cur 8 6
  if s.pstate p != psFREE then s.endAdmin m .partitionUnit .busy 0 4 (A.PTN_STATE p)
  else (s.setPstate p psCREATED).endPacket m.id .ok 0

/-- PARTITION_RESERVE (R418, R419). -/
def Chip.runReserve (s : Chip) (m : Cmd) : Chip :=
  let p := prm m.cur 8 6
  let k := prm m.cur 9 8
  if s.pstate p != psCREATED || s.sealing p then s.endAdmin m .partitionUnit .busy 0 4 (A.PTN_STATE p)
  else
    match s.reserve p k (prm m.cur 10 16) (prm m.cur 12 16) (bitAt m.cur (8 * 14)) with
    | (s, st, n) => s.endAdmin m .partitionUnit st n 4 (unitAddr k (prm m.cur 10 16))

/-- The checks of PARTITION_SEAL at its instant (R420). -/
def Chip.sealCheck (s : Chip) (p : Nat) : Option Status :=
  let has (k : Nat) : Bool := !(s.unitsOf k p).isEmpty
  if (has 0 || has 1) && !has 2 then some .quota
  else if has 6 && !has 5 then some .formatInvalid
  else if (has 5 || has 6 || has 7) && !has 3 then some .formatInvalid
  else if s.trngFail then some .busy
  else none

/-- The mode T trays that hold a channel of partition `p`, and are attached. -/
def Chip.boundTrays (s : Chip) (p : Nat) : List Nat :=
  (distinct ((s.unitsOf 5 p).map (· / 16) ++ (s.unitsOf 6 p).map (· / 32))).filter (fun n =>
    s.trayState n != trayABSENT && s.trayState n != trayLOST && !s.trayIsC n)

/-- PARTITION_SEAL (R420): the checks and the lock at one instant, then the reseed, the key and the channel bindings. -/
def Chip.runSeal (s : Chip) (m : Cmd) : Chip :=
  let p := prm m.cur 8 6
  if m.stage != 0 then s
  else if s.pstate p != psCREATED || s.sealing p then s.endAdmin m .partitionUnit .busy 0 4 (A.PTN_STATE p)
  else
    match s.sealCheck p with
    | some st => s.endAdmin m .partitionUnit st 0 4 (A.PTN_STATE p)
    | none =>
      let trays := s.boundTrays p
      let s := s.setCmd { m with stage := 1, asked := trays.map (fun n => (n, 0)) }
      let s := (s.reseed p).newKey p 0
      trays.foldl Chip.bindTray s

/-- Whether the binding exchanges a command waits for have ended. -/
def Chip.bindingDone (s : Chip) (m : Cmd) : Bool := m.asked.all (fun e => (s.tray e.1).binds.isEmpty)

/-- The seal of partition `p` ends (R420 step 4), once the bindings are in force. -/
def Chip.sealDone (s : Chip) (p : Nat) : Chip :=
  match s.adminOf oPARTITION_SEAL p with
  | none => s
  | some m =>
    if s.bindingDone m then
      ((s.setPstate p psSEALED).wrap (A.PTN_STATE p) F.PTN_STATE_SEALS 1).endPacket m.id .ok 0
    else s

/-- The walk of a draining partition goes on (R422 step 5): every entry that no transaction holds is invalidated through
the back-invalidation buffer, as room in it allows. -/
def Chip.drainWalk (s : Chip) (p : Nat) : Chip :=
  (s.banksOf p).foldl (fun s b =>
    ((s.bank b).sets.flatMap (·.2)).foldl (fun s v =>
      match v.txn, s.freshTxn b with
      | none, some i =>
        if Nat.ble 64 (s.backUsed b) || Nat.ble 255 (s.slotsUsed b) then s
        else
          let s := s.setWays b v.line ((s.ways b v.line).filter (fun e => e.line != v.line))
          s.sendSnoops i 0 { line := v.line, part := p, kind := .backInval, prior := v.state, members := [],
                             snoops := s.snoopsFor .backInval v.state 16384 }
      | _, _ => s) s) s

/-- The walks of every draining partition. -/
def Chip.drainWalks (s : Chip) : Chip :=
  ((upFrom 0 64).filter (fun p => s.pstate p == psDRAINING)).foldl Chip.drainWalk s

/-- PARTITION_DRAIN (R422). -/
def Chip.runDrain (s : Chip) (m : Cmd) : Chip :=
  let p := prm m.cur 8 6
  if m.stage != 0 then s
  else if s.pstate p != psSEALED then s.endAdmin m .partitionUnit .busy 0 4 (A.PTN_STATE p)
  else
    let s := (s.setCmd { m with stage := 1 }).setPstate p psDRAINING
    let s := (upFrom (16 * p) 16).foldl Chip.disableQueue s
    let isWait (x : Cmd) : Bool := x.part == p && (slotOp x.cur == oWAIT || slotOp x.cur == oWAIT_COPY) && x.ending.isNone
    let s := (s.seq.cmds.filter isWait).foldl (fun s x =>
      if x.phase == .running then
        let s := (s.stopTimer (.waitDeadline x.id)).setCmd { x with wait := none }
        s.failCmd { x with wait := none } .timeout 0 0 0
      else if x.isChain then s
      else s.endCmd x .timeout 0 0) s
    let s := (s.seq.colls.filter (fun c => c.part == p)).foldl (fun s c => s.abortColl c.key none 0 0 true) s
    s.drainWalk p

/-- Whether a draining partition has drained (R422): no active command but the drain, no context, the walk ended. -/
def Chip.drained (s : Chip) (p : Nat) : Bool :=
  let drain := (s.adminOf oPARTITION_DRAIN p).map (·.id)
  !s.seq.cmds.any (fun x => x.part == p && x.phase != .fetched && some x.id != drain)
    && !s.seq.colls.any (fun c => c.part == p)
    && (s.banksOf p).all (fun b => (s.bank b).sets.all (fun e => e.2.isEmpty)) && !s.pool.txns.any (fun e => e.2.part == p)

/-- The drain of partition `p` ends. -/
def Chip.drainDone (s : Chip) (p : Nat) : Chip :=
  if s.pstate p == psDRAINING && s.drained p then
    let s := s.setPstate p psDRAINED
    match s.adminOf oPARTITION_DRAIN p with
    | none => s
    | some m => s.endPacket m.id .ok 0
  else s

/-! ### Scrub and release -/

/-- The keys of partition `p` destroyed (R424 step 2). -/
def Chip.dropKeys (s : Chip) (p : Nat) : Chip :=
  let s := s.modPool (fun q => { q with
    keys := q.keys.filter (fun e => e.1 / 4 != p)
    sweeps := q.sweeps.erase p })
  let s := [F.KEY_MEM_LIVE, F.KEY_MEM_SWEEPING, F.KEY_MEM_TILES0, F.KEY_MEM_TILES1, F.KEY_MEM_TILES2, F.KEY_MEM_TILES3].foldl
    (fun s f => s.wrKey p f 0) s
  s.wrKey p F.KEY_MEM_DESTROYED 1

/-- An engine's scratchpad and pins, as its reset leaves them (R197, R237). -/
def Chip.resetEngine (s : Chip) (e : Nat) : Chip :=
  let mine := s.seq.cmds.filter (fun m => m.engines.contains e)
  (mine.foldl (fun s m => s.unpinAll m) s).scrZero e

/-- The home's state of partition `p` cleared (Table 13.5): directory banks, transactions, lost lines, regions, records. -/
def Chip.scrubHome (s : Chip) (p : Nat) : Chip :=
  let banks := s.banksOf p
  let mine := s.pool.txns.filter (fun e => e.2.part == p)
  let s := mine.foldl (fun s e => e.2.snoops.foldl (fun s x => s.stopTimer (.snoop e.1 x.eid)) s) s
  let s := (s.pool.combs.filter (fun e => e.2.part == p)).foldl (fun s e => s.stopTimer (.combining e.1)) s
  let s := s.modPool (fun q => { q with
    banks := banks.foldl (fun t b => t.erase b) q.banks
    txns := q.txns.filter (fun e => e.2.part != p)
    waits := q.waits.filter (fun w => !banks.contains w.bank)
    reqs := q.reqs.filter (fun e => e.2.pkt.partition != p)
    combs := q.combs.filter (fun e => e.2.part != p) })
  let s := s.ackLost p 0 (2 ^ 56) true
  let regions := (s.listed (A.HOM_VREGION 0) 32 4096).filter (fun i => s.rd (A.HOM_VREGION i) F.HOM_VREGION_PARTITION == p)
  let s := regions.foldl (fun s i =>
    let a := A.HOM_VREGION i
    let lo := s.rd a F.HOM_VREGION_BASE_TILE
    let hi := lo + s.rd a F.HOM_VREGION_TILES
    let maps := s.pool.versions.filterMap (fun v => if v.region == i then v.mapAt else none)
    let s := s.modPool (fun q => { q with
      stores := q.stores.filter (fun e => !(Nat.ble lo e.2.tile && Nat.blt e.2.tile hi))
      frames := maps.foldl (fun t k => (upFrom 0 k.2).foldl (fun t j => t.erase (k.1 + j)) t) q.frames })
    let s := s.endRegion i
    ((s.wrB a F.HOM_VREGION_VALID false).wr a F.HOM_VREGION_CURRENT 0).wr a F.HOM_VREGION_ISSUED 0) s
  ((s.listed (A.HOM_OWN 0) 32 8192).filter (fun i => s.rd (A.HOM_OWN i) F.HOM_OWN_PARTITION == p)).foldl Chip.freeOwn s

/-- What the model holds of a DRAM channel and of a flash channel that is being zeroed: of flash, the wear stays (R425). -/
def Chip.forgetDram (s : Chip) (n ch : Nat) : Chip :=
  let t := s.tray n
  let lo := frameKey n (t.frameBase ch)
  let hi := frameKey n (t.frameBase ch + t.frames ch)
  let k := (16 * n + ch) * 2 ^ 44
  s.modPool (fun q => { q with
    tiles := q.tiles.filter (fun e => !(Nat.ble k e.1 && Nat.blt e.1 (k + 2 ^ 44)))
    frames := q.frames.filter (fun e => !(Nat.ble lo e.1 && Nat.blt e.1 hi)) })
def Chip.forgetFlash (s : Chip) (n ch : Nat) : Chip :=
  let t := s.tray n
  let lo := flashKey n (t.flashBase ch)
  let hi := flashKey n (t.flashBase ch + t.flashTiles ch)
  let b := blockKey n ch 0
  s.modPool (fun q => { q with
    flash := q.flash.filter (fun e => !(Nat.ble lo e.1 && Nat.blt e.1 hi))
    blocks := q.blocks.map (fun e =>
      if Nat.ble b e.1 && Nat.blt e.1 (blockKey n (ch + 1) 0) then (e.1, { erases := e.2.erases, retired := e.2.retired }) else e) })

/-- A zeroing operation of partition `p`'s scrub is sent. -/
def Chip.scrubOp (s : Chip) (p n op ch index : Nat) (flash : Bool) : Chip :=
  let s := s.modPool (fun q => { q with scrubs := q.scrubs.alter p 0 (· + 1) })
  s.sendTray { tray := n, job := .scrub p flash, op := op, srcCh := ch, srcIndex := index } 0 [] flash false p

/-- A mode C tray is zeroed by MemWr over its whole capacity; one answer, at device address 0, stands for them all (log
entry 44). -/
def Chip.scrubC (s : Chip) (p n : Nat) : Chip :=
  let tag := s.pool.nextTag
  let s := s.modPool (fun q => { q with
    scrubs := q.scrubs.alter p 0 (· + 1)
    nextTag := tag + 1
    tops := q.tops.put tag { tray := n, job := .scrub p false, op := 7, lines := [0] } })
  (s.startTimer (.tray tag) s.txnTimeout).emitOut (.cxlZero ((s.tray n).port / 4) (16384 * (s.tray n).frames 0))

/-- Whether a tray can be zeroed now (R426). -/
def Chip.canZero (s : Chip) (n : Nat) : Bool := s.trayState n != trayABSENT && s.trayState n != trayLOST

/-- The tray memory of partition `p` is zeroed (Table 13.5): DRAM channels, flash channels block by block, mode C trays. -/
def Chip.scrubTrays (s : Chip) (p : Nat) : Chip :=
  let s := (s.unitsOf 5 p).foldl (fun s u =>
    let s := s.forgetDram (u / 16) (u % 16)
    if s.canZero (u / 16) then s.scrubOp p (u / 16) 7 (u % 16) 0 false else s.unscrubbed p (u / 16) (u % 16) false) s
  let s := (s.unitsOf 6 p).foldl (fun s u =>
    let n := u / 32
    let ch := u % 32
    let s := s.forgetFlash n ch
    if s.canZero n then
      ((upFrom 1 (s.blockCount n ch - 1)).filter (fun b => !(s.block (blockKey n ch b)).retired)).foldl (fun s b =>
        s.scrubOp p n 6 ch b true) s
    else s.unscrubbed p n ch true) s
  (s.unitsOf 7 p).foldl (fun s n =>
    let s := s.forgetDram n 0
    if s.canZero n then s.scrubC p n else s.unscrubbed p n 0 false) s

/-- The on-die units of partition `p` cleared (Table 13.5). -/
def Chip.scrubDie (s : Chip) (p : Nat) : Chip :=
  let s := (s.unitsOf 0 p).foldl Chip.resetEngine s
  let s := ((s.unitsOf 1 p).map (64 + ·)).foldl Chip.resetEngine s
  let s := (s.unitsOf 4 p).foldl Chip.hbmZero s
  let s := s.modPool (fun q => { q with cache := (s.cacheOf p).foldl (fun t e => t.erase e.1) q.cache })
  let s := s.scrubHome p
  let s := (s.unitsOf 9 p).foldl (fun s b => s.resetRegs (A.SEQ_COUNTER (64 * b)) (A.SEQ_COUNTER (64 * b + 64))) s
  (s.unitsOf 10 p).foldl (fun s k =>
    ((s.setSlot k cbFREE).wr (A.CDC_SLOT k) F.CDC_SLOT_REFS 0).resetRegs (A.CDC_TABLE k 0) (A.CDC_TABLE k 64)) s

/-- Whether a HOMED range of partition `p` stands in the active version or in an ARMED one (R424). -/
def Chip.homesRange (s : Chip) (p : Nat) : Bool :=
  let has (v : Nat) : Bool := (s.homedRanges v).any (fun r => s.rng r F.PTN_RANGE_PARTITION == p)
  has s.active || (s.otherState == 1 && has s.shadowV)

/-- PARTITION_SCRUB (R424). What is left in the queues of the partition gets PARTITION_SCRUBBING (R427). -/
def Chip.runScrub (s : Chip) (m : Cmd) : Chip :=
  let p := prm m.cur 8 6
  if m.stage != 0 then s
  else if s.pstate p != psDRAINED || s.homesRange p then s.endAdmin m .partitionUnit .busy 0 4 (A.PTN_STATE p)
  else
    let large := !(s.unitsOf 1 p).isEmpty || Nat.blt 8 (s.unitsOf 0 p).length
    let s := (s.setCmd { m with stage := 1 }).setPstate p psSCRUBBING
    let s := s.wrB (A.PTN_STATE p) F.PTN_STATE_LARGE large
    let s := (s.seq.cmds.filter (fun x => x.part == p && x.phase == .fetched)).foldl (fun s x => s.endCmd x .partitionScrubbing 0 0) s
    ((s.dropKeys p).scrubDie p).scrubTrays p

/-- The scrub of partition `p` ends once every row of Table 13.5 has (R427). -/
def Chip.scrubDone (s : Chip) (p : Nat) : Chip :=
  if s.pstate p == psSCRUBBING && (s.pool.scrubs.find p).getD 0 == 0 then
    let s := (s.setPstate p psSCRUBBED).modPool (fun q => { q with scrubs := q.scrubs.erase p })
    match s.adminOf oPARTITION_SCRUB p with
    | none => s
    | some m => s.endPacket m.id .ok 0
  else s

/-- Every owner byte of partition `p` returned to its reset value. -/
def Chip.freeUnits (s : Chip) (p : Nat) : Chip :=
  (upFrom 0 11).foldl (fun s k => (s.unitsOf k p).foldl (fun s n => s.setOwner (unitAddr k n) 0) s) s

/-- Whether VALID or LOCAL of partition `p` is set in a version. -/
def Chip.partUsed (s : Chip) (p : Nat) : Bool :=
  [0, 1].any (fun v => s.flag (A.PTN_PART v p) F.PTN_PART_VALID || s.flag (A.PTN_PART v p) F.PTN_PART_LOCAL)

/-- PARTITION_RELEASE (R427, Table 13.3); the bindings of its trays are cleared before STATE becomes FREE. -/
def Chip.runRelease (s : Chip) (m : Cmd) : Chip :=
  let p := prm m.cur 8 6
  let free (s : Chip) : Chip :=
    (((s.setPstate p psFREE).wrB (A.PTN_STATE p) F.PTN_STATE_LARGE false).wrKey p F.KEY_MEM_DESTROYED 0).endPacket m.id .ok 0
  if m.stage == 1 then (if s.bindingDone m then free s else s)
  else if s.pstate p == psCREATED && !s.sealing p then
    if (upFrom 0 11).all (fun k => (s.unitsOf k p).isEmpty) then free (s.releaseFields p)
    else s.endAdmin m .partitionUnit .busy 0 4 (A.PTN_STATE p)
  else if s.pstate p == psSCRUBBED && !s.partUsed p then
    let trays := s.boundTrays p
    let s := (s.releaseFields p).freeUnits p
    let s := trays.foldl Chip.bindTray s
    let m := { m with stage := 1, asked := trays.map (fun n => (n, 0)) }
    let s := s.setCmd m
    if s.bindingDone m then free s else s
  else s.endAdmin m .partitionUnit .busy 0 4 (A.PTN_STATE p)

/-! ### The generator's health -/

/-- A health test of the TRNG fails (R429). -/
def Chip.trngFails (s : Chip) : Chip :=
  let s := (s.wrB A.KEY_STATUS F.KEY_STATUS_TRNG_FAIL true).wrB A.KEY_STATUS F.KEY_STATUS_TRNG_FAIL_SEEN true
  s.logReg .busy .partitionUnit A.KEY_STATUS

/-- The tests pass again: instances that owe their reseed make it. -/
def Chip.trngPasses (s : Chip) : Chip :=
  if !s.trngFail then s
  else
    let s := s.wrB A.KEY_STATUS F.KEY_STATUS_TRNG_FAIL false
    ((s.drbgUse.filter (fun e => Nat.ble (2 ^ 20) e.2)).map (·.1)).foldl Chip.reseed s

/-- An owner byte is written directly (R417): a PARTITION_RESERVE of that one unit, by the partition in [5:0], which OWNED
clear returns. One that fails is discarded and recorded. -/
def Chip.writeOwner (s : Chip) (k n byte : Nat) : Chip :=
  let p := byte % 64
  let ret := !bitAt byte 6
  let fail (st : Status) : Chip := s.logReg st .partitionUnit (unitAddr k n)
  -- the value held is written back, or nothing is owned and nothing asked for
  if byte % 128 == s.ownerHalf (unitAddr k n) % 256 && s.ownerOk (unitAddr k n) then s
  else
    -- a byte without OWNED names the partition that gives the unit back
    let p := if ret then (s.owner (unitAddr k n)).getD p else p
    match s.reserveCheck p k n 1 ret with
    | some st => if st == .ok then s else fail st
    | none =>
      if s.pstate p != psCREATED || s.sealing p then fail .busy
      else
        match s.reserve p k n 1 ret with
        | (s', .ok, _) => s'
        | (_, st, _) => fail st

/-! ### Administrative commands -/

/-- TRAY_FORMAT and TRAY_DETACH (R86, R89): the tray's machine takes the command, and the state it reaches ends it. -/
def Chip.runTray (s : Chip) (m : Cmd) : Chip :=
  let n := prm m.cur 8 5
  if m.stage != 0 then s
  else
    let format := slotOp m.cur == oTRAY_FORMAT
    let st := s.trayState n
    let bad (x : Status) : Chip := s.endAdmin m .tierManager x 0 4 (A.TIR_TRAY_STATUS n)
    if st == trayABSENT || st == trayLOST then bad .portDown
    else if (format && st != trayBLANK) || (!format && st != trayREADY) || (s.tray n).command.isSome then bad .busy
    else
      let s := (s.setCmd { m with stage := 1 }).modTray n (fun t => { t with command := some m.id })
      s.profileEvent n (if format then pevCMD_FORMAT else pevCMD_DETACH) 0

/-- What ended for commands that waited for a tray or a link key update. -/
def Chip.takeCmdDone (s : Chip) : Chip :=
  let l := s.pool.cmdDone
  let s := s.modPool (fun q => { q with cmdDone := [] })
  l.foldl (fun s e =>
    match s.cmd? e.1 with
    | none => s
    | some m =>
      if m.stage != 1 || m.phase != .running then s
      else if slotOp m.slot == oKEY_ROTATE then
        let port := prm m.slot 10 16
        s.endAdmin m .partitionUnit e.2 (if e.2 == .ok then s.rd (A.PRT_KEY_STATUS port) F.PRT_KEY_STATUS_GEN else 0) 4 (A.PRT_STATUS port)
      else s.endAdmin m .tierManager e.2 0 4 (A.TIR_TRAY_STATUS (prm m.slot 8 5))) s

/-- An administrative command starts, or goes on (Table 8.9). -/
def Chip.runAdmin (s : Chip) (m : Cmd) : Chip :=
  let o := slotOp m.cur
  if o == oPARTITION_CREATE then s.runCreate m
  else if o == oPARTITION_RESERVE then s.runReserve m
  else if o == oPARTITION_SEAL then s.runSeal m
  else if o == oPARTITION_DRAIN then s.runDrain m
  else if o == oPARTITION_SCRUB then s.runScrub m
  else if o == oPARTITION_RELEASE then s.runRelease m
  else if o == oKEY_ROTATE then s.runRotate m
  else if o == oEPOCH_INSTALL then
    match s.install with
    | (s, st, res, a) => s.endAdmin m (if a == A.RTE_EPOCH then .routeUnit else .partitionUnit) st res 4 a
  else s.runTray m

end Sys2Proof.Machine
end

