-- ==== Sys2Proof/Machine/Sequencer.lean ====
section
/-!
DEFINITION. The command sequencer at work (spec/08_commands_and_scheduling.md R280 to R302): the start of commands in queue
order, admission against frames, dispatch to engines, chains, boosts, the watchdog, and the status registers of engines and
queues.
-/
namespace Sys2Proof.Machine

/-- The floor of pace level `l` in percent (Table 0.2). -/
def floorOf (l : Nat) : Nat := 100 - 10 * (l % 8)

/-- Whether a command has left its queue: it counts in ACTIVE (R281). -/
def Cmd.isStarted (m : Cmd) : Bool := m.phase != .fetched

/-- Whether a command runs on engines or waits for its engine's last report. -/
def Cmd.isOn (m : Cmd) : Bool := match m.phase with | .running => true | .ended _ _ => true | _ => false

/-- The effective priority of a queue (R294), and whether its job holds it (R296, R297). -/
def Chip.effPrio (s : Chip) (q : Nat) : Nat := if q == newtQueue then 7 else s.rd (A.SEQ_Q_STATE q) F.SEQ_Q_STATE_EFF_PRIORITY
def Chip.isHeldBack (s : Chip) (q : Nat) : Bool :=
  s.qFlag q F.SEQ_Q_STATE_SUSPENDED && !s.qFlag q F.SEQ_Q_STATE_BOOSTED

/-! ### Worst-case times -/

/-- The core-bound and clocked worst case of a kernel in ns (Table 8.10), over `n` engines. -/
def Chip.worstCase (s : Chip) (m : Cmd) (n : Nat) : Nat × Nat :=
  let x := m.slot
  let o := slotOp x
  let n := max 1 n
  let desc (k : Nat) : Nat := match s.stgRead m.part (prm x 8 38) k with | .ok b => natOfBytes b | .error _ => 0
  if o == oKERNEL_LAUNCH then (prm x 20 32, prm x 24 32)
  else if o == oCOPY then (1000 + ceilDiv (prm x 40 64) 160, 0)
  else if o == oFILL then (1000 + ceilDiv (prm x 24 64) 160, 0)
  else if o == oWAIT_COPY then (1000 + ceilDiv (prm x 56 64) 160, 0)
  else if o == oGATHER || o == oSCATTER then (1000 + ceilDiv (prm x 32 32 * prm x 36 32) 160, 0)
  else if o == oFILTER_SCAN then (1000 + ceilDiv (prm x 16 32 * prm x 20 16) 150, 0)
  else if o == oENCODE then (1000 + ceilDiv (prm x 24 64) 128, 0)
  else if o == oCODEBOOK_BUILD then (1000 + ceilDiv (prm x 24 64) 128 + 4000 * prm x 11 8, 0)
  else if o == oATTEND then (10000 + ceilDiv (2 * s.attendBlocks m.part n (desc 128)) 5, 0)
  else if o == oPROJECT then (projectNs n (desc 128), 0)
  else
    let p := Plan.of (desc 64)
    let sources := p.ncontrib + b2n p.localSrc
    let input := sources * p.elements * p.size p.fmtIn
    if p.kind == 3 || p.kind == 4 then (1000 + ceilDiv (p.extent * p.size p.fmtOut) (160 * n), 0)
    else if p.kind == 5 then (1000 + ceilDiv input (90 * n), 0)
    else if p.isCand then
      let logits := if p.localSrc then p.shardLen * p.seqs * fmtSize p.fmtIn 0 else 0
      let cands := sources * p.seqs * p.param
      (1000 + ceilDiv (logits * 4 * n + cands * 150) (600 * n), 0)
    else (1000 + ceilDiv input (180 * n), 0)

/-! ### Engines -/

/-- The engines a kernel asks for (R285, R293): one of a list, or all of it. -/
inductive Need where
  | one (l : List Nat)
  | all (l : List Nat)
deriving DecidableEq, Repr

def Need.list : Need → List Nat
  | .one l => l
  | .all l => l

/-- The engines over which the worst case of Table 8.10 is spread. -/
def Need.span : Need → Nat
  | .one _ => 1
  | .all l => l.length

/-- The engines that kernel `m` may take: QUOTA where all it could use are reserved to other queues, ACCESS_DENIED where it
names an engine other than its queue's binding (R293). -/
def Chip.needs (s : Chip) (m : Cmd) : Except Status Need :=
  let o := slotOp m.slot
  let any := m.queue == newtQueue || s.rd (A.SEQ_Q_CFG m.queue) F.SEQ_Q_CFG_ENGINE_SET == 0
  let bound := s.boundTo m.queue
  let framed := s.framedQueues
  let mayUse (e : Nat) : Bool := bound.contains e || !framed.any (fun x => (s.boundTo x).contains e)
  let cells := s.cellsOf m.part
  let tiles := s.tilesOf m.part
  let oneOf (l : List Nat) : Except Status Need :=
    let l := l.filter mayUse
    if l.isEmpty then .error .quota else .ok (.one l)
  let every (l : List Nat) : Except Status Need := if l.isEmpty || !l.all mayUse then .error .quota else .ok (.all l)
  let cellPool := if any then cells else bound.filter (fun e => cells.contains e)
  let tilePool := if any then tiles else bound.filter (fun e => tiles.contains e)
  if o == oKERNEL_LAUNCH then
    let e := prm m.slot 18 8
    if bitAt m.slot 152 then oneOf cellPool
    else if !any && !bound.contains e then .error .accessDenied
    else oneOf [e]
  else if opIsColl o then every cells
  else if o == oATTEND || o == oPROJECT then every (if any then tilePool.filter mayUse else tilePool)
  else if o == oENCODE || o == oCODEBOOK_BUILD then oneOf tilePool
  else oneOf cellPool

/-- Engines that run a kernel or are being reset. -/
def Chip.busyEngines (s : Chip) : List Nat :=
  (s.seq.cmds.filter Cmd.isOn).flatMap (·.engines)
    ++ s.timers.filterMap (fun e => match e.1 with | .engineReset n => some n | _ => none)

/-! ### Frames and admission -/

/-- The budget of queue `q` in its current frame (R289): where a boundary has passed, it is BUDGET_US again. -/
def Chip.frameSync (s : Chip) (q : Nat) : Chip :=
  let f := us (s.qFrame q)
  if f == 0 then s
  else
    let ph := us (s.rd (A.SEQ_Q_SCHED q) F.SEQ_Q_SCHED_PHASE_US)
    let fin := s.tb + f - (s.tb + f - ph % f) % f
    if (s.queue q).frameEnd == fin then s
    else
      (s.modQueue q (fun x => { x with frameEnd := fin, budget := us (s.qBudget q) })).wr (A.SEQ_Q_STATE q)
        F.SEQ_Q_STATE_BUDGET_LEFT (s.qBudget q)

/-- A frame of queue `q` begins (R289): at this moment where its boundary has not been noted yet, else at the next one. -/
def Chip.frameBegins (s : Chip) (q : Nat) : Chip :=
  let f := us (s.qFrame q)
  if f == 0 then s
  else
    let fin := s.tb + f - (s.tb + f - us (s.rd (A.SEQ_Q_SCHED q) F.SEQ_Q_SCHED_PHASE_US) % f) % f
    (if (s.queue q).frameEnd == fin then s.advance (fin - s.tb) else s).frameSync q

/-- Admission of a checked kernel (R288, R290, R62). -/
def Chip.takeIn (s : Chip) (m : Cmd) : Chip :=
  match s.needs m with
  | .error st => s.endCmd m st 0 0
  | .ok need =>
    let pce := A.PCE_STATUS
    if s.flag pce F.PCE_STATUS_SHORTFALL && s.rd pce F.PCE_STATUS_LEVEL_ACTIVE == 7 then
      s.setCmd { m with phase := .held, deadline := none }
    else
      let fl := floorOf (s.rd pce F.PCE_STATUS_ADMIT_LEVEL)
      let w := s.worstCase m need.span
      let scaled := ceilDiv (100 * w.1) fl + w.2
      let ready (s : Chip) (d : Option Nat) : Chip :=
        let n := s.seq.nextAdmit
        (s.modSeq (fun q => { q with nextAdmit := n + 1 })).setCmd
          { m with phase := .ready, deadline := d, admitted := n, scaled := scaled, floor := fl }
      if s.qFrame m.queue == 0 then ready s none
      else
        let s := s.frameSync m.queue
        let x := s.queue m.queue
        if Nat.blt (us (s.qBudget m.queue)) scaled then s.endCmd m .quota 0 0
        else if Nat.blt x.budget scaled then s.setCmd { m with phase := .held, deadline := some x.frameEnd }
        else
          let s := s.modQueue m.queue (fun x => { x with budget := x.budget - scaled })
          ready (s.wr (A.SEQ_Q_STATE m.queue) F.SEQ_Q_STATE_BUDGET_LEFT ((x.budget - scaled) / 1000)) (some x.frameEnd)

/-- Held kernels whose frame has ended, or whose shortfall has, are tested again (R290, R62). -/
def Chip.retestHeld (s : Chip) : Chip :=
  (s.seq.cmds.filter (fun m => m.phase == .held)).foldl (fun s m =>
    let s := s.frameSync m.queue
    match m.deadline with
    | some d => if (s.queue m.queue).frameEnd == d then s else s.takeIn m
    | none => s.takeIn m) s

/-! ### Start -/

/-- The first failing check of a command that is about to start (R278, R280). -/
def Chip.startCheck (s : Chip) (m : Cmd) : Option Status :=
  let o := slotOp m.slot
  let m := { m with engines := if o == oENCODE || o == oCODEBOOK_BUILD then [64] else [] }
  if (opFields o).isSome && m.origin == .ring && slotQueue m.slot != m.queue then some .formatInvalid
  else s.checkCmd m false

/-- Whether command `m` may start, `before` being what stands before it in the list (R281, R296, R297). -/
def Chip.mayStart (s : Chip) (before : List Cmd) (m : Cmd) : Bool :=
  let mine := before.filter (fun x => x.queue == m.queue)
  let active := (s.seq.cmds.filter (fun x => x.queue == m.queue && x.isStarted)).length
  let limit := if m.queue == newtQueue then 64 else s.rd (A.SEQ_Q_SCHED m.queue) F.SEQ_Q_SCHED_MAX_ACTIVE
  m.phase == .fetched && !s.asleep && !s.isHeldBack m.queue && mine.all Cmd.isStarted && Nat.blt active limit
    && (mine.isEmpty || (!slotBarrier m.slot && slotOp m.slot != oBARRIER))
    && !mine.any (fun x => x.phase == .held || slotOp x.slot == oWAIT || slotOp x.slot == oWAIT_COPY)

/-- The first command that may start. -/
def Chip.nextStart (s : Chip) : List Cmd → List Cmd → Option Cmd
  | _, [] => none
  | before, m :: l => if s.mayStart before m then some m else Chip.nextStart s (before ++ [m]) l

/-- A command starts (R280, R281, Tables 8.4 to 8.9). -/
def Chip.startCmd (s : Chip) (m : Cmd) : Chip :=
  let o := slotOp m.slot
  match s.startCheck m with
  | some .ok => s.completeCmd m .ok 0
  | some st => s.endCmd m st 0 0
  | none =>
    if o == oNOP || o == oBARRIER then s.completeCmd m .ok 0
    else if o == oCANCEL then
      let (s, acted) := s.cancel m.id (prm m.slot 8 10) (prm m.slot 12 32)
      s.completeCmd m .ok (b2n acted)
    else if o == oJOB_SUSPEND || o == oJOB_RESUME then
      let r := s.setSuspended m.part (prm m.slot 8 16) (o == oJOB_SUSPEND)
      r.1.completeCmd m .ok r.2
    else if opIsKernel o then s.takeIn m
    else s.setCmd { m with phase := .running }

/-- Commands start one after another until none may. -/
def Chip.startAll : Nat → Chip → Chip
  | 0, s => s
  | k + 1, s =>
    match s.nextStart [] s.seq.cmds with
    | none => s
    | some m => Chip.startAll k (s.startCmd m)

/-! ### Dispatch -/

/-- The order in which ready kernels are served (R294): framed ones by deadline, then the others; by effective priority, then
by admission. -/
def Chip.kernelKey (s : Chip) (m : Cmd) : Nat :=
  ((m.deadline.getD (2 ^ 80)) * 8 + s.effPrio m.queue) * 2 ^ 64 + m.admitted

/-- The families a chain may hold on an engine (R198, R238). -/
def chainMay (tile : Bool) (o : Nat) : Bool :=
  (Nat.ble 0x10 o && Nat.ble o 0x14) || (Nat.ble 0x20 o && Nat.ble o 0x23)
    || (if tile then o == oATTEND || o == oPROJECT || (Nat.ble 0x60 o && Nat.ble o 0x62)
        else opIsColl o || (Nat.ble 0x40 o && Nat.ble o 0x42))

/-- Whether a chain holds a command of another family. -/
def Chip.chainBad (s : Chip) (m : Cmd) (e : Nat) : Bool :=
  (upFrom 0 (prm m.slot 16 16)).any (fun i =>
    match s.stgRead m.part (prm m.slot 8 38 + 64 * i) 1 with
    | .ok b => (opFields (natOfBytes b)).isSome && !chainMay (Nat.ble 64 e) (natOfBytes b)
    | .error _ => false)

/-- A kernel is dispatched to its engines with its watchdog's limit (R300, R231, R238). -/
def Chip.launch (s : Chip) (m : Cmd) (es : List Nat) : Chip :=
  let e := es.headD 0
  if m.isCompat && !s.flag (A.CEL_CFG e) F.CEL_CFG_COMPAT_EN then s.endCmd m .opcodeInvalid 0 0
  else if m.isChain && s.chainBad m e then s.endCmd m .formatInvalid 2 (prm m.slot 8 38)
  else
    let act := floorOf (s.rd A.PCE_STATUS F.PCE_STATUS_LEVEL_ACTIVE)
    let k := m.scaled * (100 + s.rd A.SEQ_CTL F.SEQ_CTL_WD_MARGIN)
    let limit := if Nat.blt act m.floor then ceilDiv (k * m.floor) (100 * act) else ceilDiv k 100
    s.setCmd { m with phase := .running, engines := es, limit := limit }

/-- Ready kernels start on idle engines in their order; engines that one waits for are kept for it (R294). -/
def Chip.dispatch (s : Chip) : Chip :=
  if s.asleep then s else
  let l := sortBy s.kernelKey (s.seq.cmds.filter (fun m => m.phase == .ready && !s.isHeldBack m.queue))
  (l.foldl (fun (acc : Chip × List Nat) m =>
    match acc.1.needs m with
    | .error st => (acc.1.endCmd m st 0 0, acc.2)
    | .ok (.one es) =>
      match es.find? (fun e => !acc.2.contains e) with
      | some e => (acc.1.launch m [e], e :: acc.2)
      | none => acc
    | .ok (.all es) =>
      (if es.any (fun e => acc.2.contains e) then acc.1 else acc.1.launch m es, es ++ acc.2)) (s, s.busyEngines)).1

/-! ### Running -/

/-- The next packet of a chain is read and checked (R198, R280). -/
def Chip.chainNext (s : Chip) (m : Cmd) : Chip :=
  let off := prm m.slot 8 38 + 64 * m.pc
  match s.stgRead m.part off 64 with
  | .error st => s.failCmd m st 2 off 0
  | .ok b =>
    let m := { m with cur := natOfBytes b }
    let s := s.setCmd m
    if (opFields (slotOp m.cur)).isSome && !chainMay (Nat.ble 64 m.engine) (slotOp m.cur) then s.failCmd m .formatInvalid 2 off 0
    else
      match s.checkCmd m true with
      | some .ok => s.endPacket m.id .ok 0
      | some st => s.failCmd m st 2 off 0
      | none => s

/-- A running command goes as far as it can. -/
def Chip.runCmd (s : Chip) (m : Cmd) : Chip :=
  if m.phase != .running || m.ending.isSome then s
  else if m.isChain then (if m.cur == m.slot then s.chainNext m else s.runEngine m)
  else if opIsAdmin (slotOp m.slot) then s.runAdmin m
  else if opIsKernel (slotOp m.slot) then s.runEngine m
  else s.runSequencer m

/-- Whether the chain goes on after a packet's status (R199). -/
def chainGoesOn (x : Nat) (st : Status) : Bool :=
  st == .ok || (st == .scopeMismatch && (slotOp x == oWAIT || slotOp x == oWAIT_COPY))

/-- A kernel has ended with its status fixed: its watchdog runs until KERNEL_COMPLETE. -/
def Chip.kernelEnds (s : Chip) (m : Cmd) (st : Status) (res : Nat) : Chip :=
  (s.setCmd { m with phase := .ended st res, ending := none }).startTimer (.kernel m.id) m.limit

/-- What has ended is carried on: a chain to its next packet, a kernel to its end, another command to its reply. -/
def Chip.endOne (s : Chip) (m : Cmd) : Chip :=
  match m.ending with
  | none => s
  | some (st, res) =>
    if m.isChain then
      let s := match m.origin with | .newt _ => s | _ => s.replyTo m m.cur st res
      let s := (s.unpinAll m).stopTimer (.waitDeadline m.id)
      let pc := m.pc + 1
      let op := m.cur
      let m := { m with pc := pc, cur := m.slot, stage := 0, count := 0, verdict := .ok, got := [], asked := [], waits := [],
                        unsent := [], wait := none, kept := none, pins := [], ending := none }
      if !chainGoesOn op st then s.kernelEnds m st pc
      else if pc == prm m.slot 16 16 then s.kernelEnds m .ok pc
      else s.setCmd m
    else if opIsKernel (slotOp m.slot) && !m.engines.isEmpty then
      let s := (s.unpinAll m).stopTimer (.waitDeadline m.id)
      s.kernelEnds { m with pins := [] } st res
    else s.completeCmd m st res

/-- Every running command goes on, and what has ended is carried on. -/
def Chip.runAll (s : Chip) : Chip :=
  let s := (s.seq.cmds.map (·.id)).foldl (fun s i => match s.cmd? i with | some m => s.runCmd m | none => s) s
  (s.seq.cmds.map (·.id)).foldl (fun s i => match s.cmd? i with | some m => s.endOne m | none => s) s

/-! ### Boosts -/

/-- The boosts that pending WAITs call for (R297), as partition × 65,536 + job with the priority: `n` rounds of the
transitive rule. -/
def Chip.boosts (s : Chip) : Nat → List (Nat × Nat)
  | 0 => []
  | n + 1 =>
    let prev := Chip.boosts s n
    let jobOf (q : Nat) : Nat := 65536 * (q / 16) + s.rd (A.SEQ_Q_CFG q) F.SEQ_Q_CFG_JOB
    let prio (q : Nat) : Nat :=
      if q == newtQueue then 7
      else
        let own := s.rd (A.SEQ_Q_CFG q) F.SEQ_Q_CFG_PRIORITY
        match prev.find? (fun b => b.1 == jobOf q) with
        | some b => if s.qFlag q F.SEQ_Q_STATE_SUSPENDED then min own b.2 else own
        | none => own
    s.seq.cmds.foldl (fun acc m =>
      match m.wait with
      | none => acc
      | some w =>
        let j := s.counter w.counter F.SEQ_COUNTER_OWNER_JOB
        let key := 65536 * m.part + j
        if w.fixed.isSome || j == 0 || !(s.jobQueues m.part j).any (fun q => s.qFlag q F.SEQ_Q_STATE_SUSPENDED) then acc
        else
          let p := prio m.queue
          match acc.find? (fun b => b.1 == key) with
          | some b => (key, min p b.2) :: acc.filter (fun b => b.1 != key)
          | none => (key, p) :: acc) []

/-- BOOSTED, EFF_PRIORITY and ACTIVE of every queue that is configured or active. -/
def Chip.syncQueues (s : Chip) : Chip :=
  let qs := distinct (s.listed (A.SEQ_Q_CFG 0) 64 1024 ++ (s.seq.cmds.map (·.queue)).filter (fun q => Nat.blt q 1024))
  let pending := (s.seq.cmds.filter (fun m => m.wait.elim false (fun w => w.fixed.isNone))).length
  let b := s.boosts (if pending == 0 then 0 else pending + 1)
  qs.foldl (fun s q =>
    let a := A.SEQ_Q_STATE q
    let own := s.rd (A.SEQ_Q_CFG q) F.SEQ_Q_CFG_PRIORITY
    let job := s.rd (A.SEQ_Q_CFG q) F.SEQ_Q_CFG_JOB
    let hit := if s.qFlag q F.SEQ_Q_STATE_SUSPENDED && job != 0 then b.find? (fun x => x.1 == 65536 * (q / 16) + job) else none
    let s := s.wrB a F.SEQ_Q_STATE_BOOSTED hit.isSome
    let s := s.wr a F.SEQ_Q_STATE_EFF_PRIORITY (match hit with | some x => min own x.2 | none => own)
    s.wr a F.SEQ_Q_STATE_ACTIVE ((s.seq.cmds.filter (fun m => m.queue == q && m.isStarted)).length)) s

/-! ### Status registers of engines -/

/-- RUNNING, COMPAT, ENCODING and the counts in flight of engine `e` (Tables 6.17, 6.18, 7.16, 7.17); the requests of a
kernel on several engines count on them in turn. -/
def Chip.syncEngine (s : Chip) (e : Nat) : Chip :=
  let m := s.seq.cmds.find? (fun m => m.isOn && m.engines.contains e)
  let share (m : Cmd) (n : Nat) : Nat :=
    let k := m.engines.length
    let i := m.engines.findIdx (· == e)
    n / max 1 k + b2n (Nat.blt i (n % max 1 k))
  let pool := m.elim 0 (fun m => share m (distinct (m.asked.map (·.1))).length)
  let wr := m.elim 0 (fun m => share m (s.seq.outs.filter (fun o => !o.pool && !o.add && o.cmd == m.id)).length)
  if Nat.blt e 64 then
    let a := A.CEL_STATUS e
    let s := (s.wrB a F.CEL_STATUS_RUNNING m.isSome).wrB a F.CEL_STATUS_COMPAT (m.elim false Cmd.isCompat)
    (s.wr (A.CEL_OUTSTANDING e) F.CEL_OUTSTANDING_POOL_REQS pool).wr (A.CEL_OUTSTANDING e) F.CEL_OUTSTANDING_REMOTE_WR wr
  else
    let t := e - 64
    let a := A.MTX_STATUS t
    let enc := m.elim false (fun m => slotOp m.cur == oENCODE || slotOp m.cur == oCODEBOOK_BUILD)
    let s := (s.wrB a F.MTX_STATUS_RUNNING m.isSome).wrB a F.MTX_STATUS_ENCODING enc
    (s.wr (A.MTX_OUTSTANDING t) F.MTX_OUTSTANDING_POOL_REQS pool).wr (A.MTX_OUTSTANDING t) F.MTX_OUTSTANDING_REMOTE_WR wr

/-- The engines whose status is not at rest. -/
def Chip.syncEngines (s : Chip) : Chip :=
  let es := distinct ((s.seq.cmds.flatMap (·.engines)) ++ s.listed (A.CEL_STATUS 0) 0x10000 64
    ++ (s.listed (A.MTX_STATUS 0) 0x10000 16).map (64 + ·))
  (es.filter (fun e => Nat.blt e 80)).foldl Chip.syncEngine s

/-! ### Reports that end a command -/

/-- The command of queue `q` whose packet under way has a TAG. -/
def Chip.byTag (s : Chip) (q tag : Nat) (ok : Cmd → Bool) : Option Cmd :=
  s.seq.cmds.find? (fun m => m.queue == q && (slotTag m.slot == tag || slotTag m.cur == tag) && ok m)

/-- A kernel that has ended leaves its engines and its reply is written (R278, R301). -/
def Chip.kernelComplete (s : Chip) (q tag : Nat) : Chip :=
  match s.byTag q tag (fun m => match m.phase with | .ended _ _ => true | _ => false) with
  | some m => match m.phase with | .ended st res => s.completeCmd m st res | _ => s
  | none => s

/-- The watchdog of a kernel reaches its limit (R300, R301). -/
def Chip.kernelStop (s : Chip) (q tag : Nat) : Chip :=
  match s.byTag q tag (fun m => s.running (.kernel m.id)) with
  | none => s
  | some m =>
    match s.expire (.kernel m.id) with
    | none => s
    | some s =>
      let s := s.count A.SEQ_STATUS F.SEQ_STATUS_OVERRUNS
      let s := if Nat.blt m.queue 1024 then s.wrB (A.SEQ_Q_STATE m.queue) F.SEQ_Q_STATE_OVERRUN_SEEN true else s
      let off := if m.isChain || opIsColl (slotOp m.slot) || slotOp m.slot == oATTEND || slotOp m.slot == oPROJECT then
          prm m.slot 8 38 else 0
      let s := s.logFault { status := .timeout, subsys := .sequencer, partition := some m.part, addrKind := 2, addr := off,
                            srcEid := m.srcEid, queue := if Nat.blt m.queue 1024 then some m.queue else none,
                            tag := slotTag m.slot }
        m.part .overrun { addrKind := 2, addr := off }
      s.stopCmd m .timeout (if m.isChain then m.pc else 0)

/-- The time base reaches the deadline of a WAIT (R182): its status is fixed. -/
def Chip.waitExpires (s : Chip) (q tag : Nat) : Chip :=
  match s.byTag q tag (fun m => s.running (.waitDeadline m.id)) with
  | none => s
  | some m =>
    match s.expire (.waitDeadline m.id), m.wait with
    | some s, some w =>
      if w.fixed.isSome then s else s.setCmd { m with wait := some { w with fixed := some (.timeout, s.counterValue w.counter) } }
    | some s, none => s
    | none, _ => s

/-- A WAIT whose status is fixed completes, or WAIT_COPY goes on to its copy (R182, R184). -/
def Chip.waitComplete (s : Chip) (q tag : Nat) : Chip :=
  match s.byTag q tag (fun m => m.stage == 5 && (m.wait.elim false (fun w => w.fixed.isSome))) with
  | none => s
  | some m =>
    match m.wait.bind (·.fixed) with
    | none => s
    | some (st, v) =>
      let copies := slotOp m.cur == oWAIT_COPY
      let m := { m with wait := none, stage := if copies then 1 else 5 }
      let s := (s.stopTimer (.waitDeadline m.id)).setCmd m
      if copies then (if st == .ok then s else s.failCmd m st 4 (A.SEQ_COUNTER (crefIndex (prm m.cur 8 32))) 0)
      else s.failCmd m st 4 (A.SEQ_COUNTER (crefIndex (prm m.cur 8 32))) v

/-! ### Engine resets -/

/-- CEL_CTL.RESET or MTX_CTL.RESET of engine `e` is written 1 (R234, R269). -/
def Chip.engineReset (s : Chip) (e : Nat) : Chip :=
  if Nat.blt e 64 then
    let a := A.CEL_STATUS e
    if s.flag a F.CEL_STATUS_RUNNING || s.rd a F.CEL_STATUS_CTX_USED != 0 then s.logReg .busy .computeCells (A.CEL_CTL e)
    else (s.wrB a F.CEL_STATUS_RESETTING true).ensureTimer (.engineReset e) (us 20)
  else
    let t := e - 64
    let a := A.MTX_STATUS t
    if s.flag a F.MTX_STATUS_RUNNING || s.flag a F.MTX_STATUS_ENCODING then s.logReg .busy .matrixTiles (A.MTX_CTL t)
    else (s.wrB a F.MTX_STATUS_RESETTING true).ensureTimer (.engineReset e) (us 40)

/-- The reset of engine `e` is done (R197, R237). -/
def Chip.engineResetDone (s : Chip) (e : Nat) : Chip :=
  if s.running (.engineReset e) then
    let s := (s.stopTimer (.engineReset e)).resetEngine e
    if Nat.blt e 64 then s.wrB (A.CEL_STATUS e) F.CEL_STATUS_RESETTING false
    else s.wrB (A.MTX_STATUS (e - 64)) F.MTX_STATUS_RESETTING false
  else s

/-- One round of the sequencer: answers taken, commands carried on, started and dispatched. -/
def Chip.seqRound (s : Chip) : Chip :=
  let s := ((s.takeCmdDone.takeEnded).promoteWanted).runAll
  let s := s.retestHeld
  let s := Chip.startAll (s.seq.cmds.length + 1) s
  (s.syncQueues.dispatch).sendWaiting

end Sys2Proof.Machine
end

