-- ==== Sys2Proof/Machine/Settle.lean ====
section
/-!
DEFINITION. What follows of itself after a command (log entry 10): the pool, the home and the sequencer go on until nothing
changes any more.
-/
namespace Sys2Proof.Machine

/-- One round of the tier manager and the home. Key sweeps and replica copies pause outside ACTIVE (Table 16.2). -/
def Chip.poolRound (s : Chip) : Chip :=
  let s := s.tierPump.flushDead
  let s := if s.asleep then s else ((s.pool.sweeps.map (·.1)).foldl Chip.sweepPump s).replicaPump
  (((s.drainWalks).homeSettle).tellAskers).engineWrites

/-- `n` rounds, or fewer where one changes nothing. -/
def Chip.rounds : Nat → Chip → Chip
  | 0, s => s
  | n + 1, s =>
    let s' := s.poolRound.seqRound
    if s'.seq = s.seq ∧ s'.pool = s.pool then s' else Chip.rounds n s'

/-- What follows of itself. What is left after the last round goes on at the next command. -/
def Chip.finish (s : Chip) : Chip :=
  let packets := (s.seq.cmds.map (fun m => if m.isChain then prm m.slot 16 16 else 1)).sum
  (Chip.rounds (32 + 4 * packets) s).syncEngines

end Sys2Proof.Machine
end

