-- ==== Sys2Proof/Machine/Pace.lean ====
section
/-!
DEFINITION. The pace controller and the time base (spec/02_pace_and_time.md).
-/
namespace Sys2Proof.Machine

/-! ### Sensors and the curve -/

/-- A window of 1 µs closes (R47, R48): each sensor's count, with the result of its complement check. -/
def Chip.windowClose (s : Chip) (counts : List (Nat × Bool)) : Chip :=
  let rate (i : Nat) : Option Nat :=
    match counts[i]? with
    | some (c, ok) => if ok && c != 0 then some (c * 4096 / Config.sensorRef i) else none
    | none => none
  { s with pace := { s.pace with windows := ((upFrom 0 256).map rate :: s.pace.windows).take 10 } }

/-- Entry `t` of the curve of level `l` in mV (R55). -/
def Chip.curvePoint (s : Chip) (l t : Nat) : Nat := s.rd (A.PCE_CURVE l (t / 4)) ⟨16 * (t % 4), 12⟩

/-- The curve voltage of level `l` at a temperature in 0.125 °C (R55): points stand 7 °C apart; below the first and above the
last the end point holds. -/
def Chip.curveMv (s : Chip) (l : Nat) (temp : Int) : Nat :=
  let t := temp.toNat
  let i := t / 56
  if Nat.ble 15 i then s.curvePoint l 15
  else (s.curvePoint l i * (56 - t % 56) + s.curvePoint l (i + 1) * (t % 56)) / 56

/-- The new core voltage (R51): `v` the present one, `c` the curve voltage, `step` the limit, `d` the loop's own step. -/
def newVoltage (v c step : Nat) (d : Int) : Nat :=
  let lo : Int := (c : Int) - 50
  let hi : Int := (c : Int) + 50
  let x : Int :=
    if (v : Int) < lo then min lo (v + step)
    else if hi < (v : Int) then max hi ((v : Int) - step)
    else max lo (min hi (v + max (-(step : Int)) (min step d)))
  (max 620 (min 850 x)).toNat

/-! ### Levels -/

/-- LEVEL_ACTIVE. -/
def Chip.levelActive (s : Chip) : Nat := s.rd A.PCE_STATUS F.PCE_STATUS_LEVEL_ACTIVE

/-- ADMIT_LEVEL brought up to date (R59, R62, Table 2.7). -/
def Chip.syncAdmit (s : Chip) : Chip :=
  let base := match s.pace.change with | .lower l => max l s.levelActive | _ => s.levelActive
  let l := if s.flag A.PCE_STATUS F.PCE_STATUS_SHORTFALL then max base (min 7 (s.levelActive + 1)) else base
  s.wr A.PCE_STATUS F.PCE_STATUS_ADMIT_LEVEL l

/-- A change set, with TRANSITION (R59). -/
def Chip.setChange (s : Chip) (c : Change) : Chip :=
  ({ s with pace := { s.pace with change := c } }).wrB A.PCE_STATUS F.PCE_STATUS_TRANSITION (c != Change.none)

/-- The loop is retargeted, and the level in force is `l` (R59). -/
def Chip.retarget (s : Chip) (l : Nat) : Chip :=
  let s := { s with pace := { s.pace with target := l, met := 0, under := 0 } }
  (s.wr A.PCE_STATUS F.PCE_STATUS_LEVEL_ACTIVE l).setChange (.settle l)

/-- The remaining watchdog time of every kernel multiplied by old floor ÷ new floor (R59, R300). -/
def Chip.stretchKernels (s : Chip) (old new : Nat) : Chip :=
  let s : Chip := { s with timers := s.timers.map (fun (e : Timer × Nat) =>
    match e.1 with
    | .kernel _ => (e.1, s.raw + ceilDiv ((e.2 - s.raw) * floorOf old) (floorOf new))
    | _ => e) }
  s.modSeq (fun q => { q with cmds := q.cmds.map (fun m =>
    if m.phase == .running then { m with limit := ceilDiv (m.limit * floorOf old) (floorOf new) } else m) })

/-- A forced lowering to level `l` (R59). -/
def Chip.forceLower (s : Chip) (l : Nat) : Chip := ((s.stretchKernels s.levelActive l).retarget l).syncAdmit

/-- The level that is commanded now: that of the change in progress, or LEVEL_ACTIVE. -/
def Chip.goal (s : Chip) : Nat :=
  match s.pace.change with
  | .none => s.levelActive
  | .raise l => l
  | .lower l => l
  | .settle l => l

/-- PCE_POLICY has been written (R59, R60). A write by which Newt restores the level ends the throttling (R61). -/
def Chip.policySet (s : Chip) : Chip :=
  let l := s.rd A.PCE_POLICY F.PCE_POLICY_LEVEL
  let hot := s.pace.tmax ≥ 8 * (s.rd A.PCE_POLICY F.PCE_POLICY_THROTTLE_T : Int) && s.flag A.PCE_POLICY F.PCE_POLICY_THROTTLE_EN
  let s := if hot then s else s.wrB A.PCE_STATUS F.PCE_STATUS_THROTTLING false
  if l == s.goal then s
  else if Nat.blt l s.levelActive then
    (({ s with pace := { s.pace with target := l, met := 0, under := 0 } }).setChange (.raise l)).syncAdmit
  else if s.flag A.PCE_POLICY F.PCE_POLICY_FORCE && Nat.blt s.levelActive l then s.forceLower l
  else (s.setChange (.lower l)).syncAdmit

/-- Whether a kernel admitted against a floor above that of level `l` has not finished. -/
def Chip.fasterKernels (s : Chip) (l : Nat) : Bool :=
  s.seq.cmds.any (fun m => opIsKernel (slotOp m.slot) && m.phase != .fetched && m.phase != .held && Nat.blt (floorOf l) m.floor)

/-- The loop of a lowering retargets (R59): not while the loop is open. -/
def Chip.lowerRetarget (s : Chip) : Chip :=
  match s.pace.change with
  | .lower l =>
    if s.fasterKernels l || s.rd A.PCE_POLICY F.PCE_POLICY_STEP_MV == 0 then s else (s.retarget l).syncAdmit
  | _ => s

/-- One lowering of the throttle (R61): by one level, down to P7. -/
def Chip.throttle (s : Chip) : Chip :=
  let s := (s.wrB A.PCE_STATUS F.PCE_STATUS_THROTTLING true).startTimer .throttle (ms 1)
  if Nat.blt s.levelActive 7 then s.forceLower (s.levelActive + 1) else s

/-- Whether the throttle acts at the last temperature formed. -/
def Chip.tooHot (s : Chip) : Bool :=
  s.flag A.PCE_POLICY F.PCE_POLICY_THROTTLE_EN
    && decide (s.pace.tmax ≥ 8 * (s.rd A.PCE_POLICY F.PCE_POLICY_THROTTLE_T : Int))

/-- 1 ms of throttling has passed (R61). -/
def Chip.throttleAgain (s : Chip) : Chip :=
  match s.expire .throttle with
  | none => s
  | some s => if s.tooHot then s.throttle else s

/-! ### The control step -/

/-- A shortfall starts (R62). -/
def Chip.shortfall (s : Chip) : Chip :=
  if s.flag A.PCE_STATUS F.PCE_STATUS_SHORTFALL then s
  else
    let s := (s.wrB A.PCE_STATUS F.PCE_STATUS_SHORTFALL true).wrB A.PCE_STATUS F.PCE_STATUS_SHORTFALL_SEEN true
    ({ s with pace := { s.pace with met := 0 } }.logReg .timeout .paceUnit A.PCE_STATUS).syncAdmit

/-- A shortfall ends after 100 good periods, and where it was the AVSBus, after a write has succeeded (R53, R62). -/
def Chip.endShortfall (s : Chip) : Chip :=
  if s.flag A.PCE_STATUS F.PCE_STATUS_SHORTFALL && Nat.ble 100 s.pace.met && !s.pace.avsBad then
    (s.wrB A.PCE_STATUS F.PCE_STATUS_SHORTFALL false).syncAdmit
  else s

/-- A voltage write (R51, R52). -/
def Chip.avsWrite (s : Chip) (mv : Nat) : Chip :=
  if s.flag A.PCE_STATUS F.PCE_STATUS_AVS_FAULT || s.pace.avs.isSome then s
  else ({ s with pace := { s.pace with avs := some (mv, 1) } }).emitOut (.avsWrite mv)

/-- What stands for the limit of a step: STEP_MV, or 20 mV during a wake (R505). -/
def Chip.stepLimit (s : Chip) : Nat := if s.powerState == 3 then 20 else s.rd A.PCE_POLICY F.PCE_POLICY_STEP_MV

/-- A change completes where its condition holds (R59). -/
def Chip.endChange (s : Chip) : Chip :=
  if s.stepLimit == 0 then s
  else
    match s.pace.change with
    | .raise l =>
      if Nat.ble 2 s.pace.met && s.powerState != 3 then
        ((s.wr A.PCE_STATUS F.PCE_STATUS_LEVEL_ACTIVE l).setChange .none).syncAdmit
      else s
    | .settle l =>
      let v := s.rd A.PCE_STATUS F.PCE_STATUS_VCORE_MV
      let c := s.curveMv l s.pace.tmax
      if Nat.ble c (v + 50) && Nat.ble v (c + 50) then (s.setChange .none).syncAdmit else s
    | _ => s

/-- The sensors excluded from this period (R49). -/
def Chip.excluded (s : Chip) : List Nat :=
  (upFrom 0 256).filter (fun i => s.pace.windows.any (fun w => (w.getD i none).isNone))

/-- rmin of this period (R49). -/
def Chip.rmin (s : Chip) (bad : List Nat) : Nat :=
  let rates := s.pace.windows.flatMap (fun w => (numbered w).filterMap (fun e => if bad.contains e.1 then none else e.2))
  match rates with
  | [] => 0
  | r :: l => l.foldl min r

/-- The control step of a period (Table 2.1): `tmax` is the highest die temperature, in 0.125 °C. -/
def Chip.paceStep (s : Chip) (tmax : Int) : Chip :=
  if !s.flag A.GLB_BOOT_STATUS F.GLB_BOOT_STATUS_READY || s.inEaves then
    { s with pace := { s.pace with windows := [], tmax := tmax } }
  else
    let bad := s.excluded
    let s := bad.foldl (fun s i => s.log { status := .tableCheck, subsys := .paceUnit, addrKind := 8, addr := i }) s
    let rmin := s.rmin bad
    let many := Nat.blt 16 bad.length
    let guard := s.rd A.PCE_POLICY F.PCE_POLICY_GUARD
    let lvl := s.pace.target
    let v := s.rd A.PCE_STATUS F.PCE_STATUS_VCORE_MV
    let c := s.curveMv lvl tmax
    let step := s.stepLimit
    let met := !many && Nat.ble (floorOf lvl * 4096 + 100 * guard) (100 * rmin)
    let low := Nat.blt (100 * rmin) (floorOf s.levelActive * 4096) && (Nat.ble (min 850 (c + 50)) v || step == 0)
    let s := { s with pace := { s.pace with
      windows := [], tmax := tmax
      met := if met then s.pace.met + 1 else 0
      under := if low then s.pace.under + 1 else 0 } }
    let s := if many || Nat.ble 2 s.pace.under || s.pace.avsBad then s.shortfall else s
    let s := (s.endShortfall).endChange
    let s := if s.tooHot && !s.running .throttle then s.throttle else s
    -- the loop's own step is proportional to target − rmin
    let lvl := s.pace.target
    let c := s.curveMv lvl tmax
    let gap : Int := ((floorOf lvl * 4096 / 100 + guard : Nat) : Int) - rmin
    if step == 0 then s else s.avsWrite (newVoltage v c step (Int.tdiv (gap * Config.paceGainNum) (Config.paceGainDen + 1)))

/-- The voltage write ends (R53). -/
def Chip.avsDone (s : Chip) (ok : Bool) : Chip :=
  match s.pace.avs with
  | none => s
  | some (mv, tries) =>
    if ok then
      let s := s.wr A.PCE_STATUS F.PCE_STATUS_VCORE_MV mv
      ({ s with pace := { s.pace with avs := none, avsBad := false } }).endShortfall
    else if Nat.blt tries 3 then
      ({ s with pace := { s.pace with avs := some (mv, tries + 1) } }).emitOut (.avsWrite mv)
    else
      let s := { s with pace := { s.pace with avs := none, avsBad := true } }
      (s.wrB A.PCE_STATUS F.PCE_STATUS_AVS_FAULT true).shortfall

/-! ### The time base -/

/-- Whether the parent port is a mode U port in service (R68). -/
def Chip.parentUp (s : Chip) : Bool :=
  let n := s.rd A.PCE_TB_PARENT F.PCE_TB_PARENT_PORT
  s.mode n == modeU && s.inService n

/-- Whether time tadpoles are exchanged with the parent. -/
def Chip.hasParent (s : Chip) : Bool :=
  s.flag A.PCE_TB_PARENT F.PCE_TB_PARENT_EN && !s.flag A.PCE_TB_PARENT F.PCE_TB_PARENT_ROOT && s.parentUp

/-- PARENT_LOST and the exchange timer brought up to date (R69, Table 18.7). A parent link that returns makes the first
alignment due again. -/
def Chip.syncTime (s : Chip) : Chip :=
  let lost := s.flag A.PCE_TB_PARENT F.PCE_TB_PARENT_EN && !s.parentUp
  let s := if s.flag A.PCE_TB_ADJ F.PCE_TB_ADJ_PARENT_LOST == lost then s else s.wrB A.PCE_TB_ADJ F.PCE_TB_ADJ_PARENT_LOST lost
  if s.hasParent then s.ensureTimer .exchange (us (s.rd A.GLB_TIMERS1 F.GLB_TIMERS1_TT_EXCH_US))
  else if s.running .exchange then { s.stopTimer .exchange with align := { s.align with done := false } }
  else s

/-- PCE_TB_PARENT has been written: EN newly set makes the first alignment due (R69). -/
def Chip.parentSet (s : Chip) (was : Bool) : Chip :=
  if s.flag A.PCE_TB_PARENT F.PCE_TB_PARENT_EN && !was then { s with align := { s.align with done := false } } else s

/-- A link-local TIME tadpole on port `n` (R69, R347). -/
def Chip.sendTime (s : Chip) (n : Nat) (t : TimeBody) : Chip :=
  s.sendLink n { cls := clsTIME, src := s.selfEid, body := t.body }

/-- The exchange interval ends: the child sends its time (R69). -/
def Chip.timeExchange (s : Chip) : Chip :=
  match s.expire .exchange with
  | none => s
  | some s =>
    if s.hasParent then
      (s.sendTime (s.rd A.PCE_TB_PARENT F.PCE_TB_PARENT_PORT) { t1 := s.tb }).startTimer .exchange
        (us (s.rd A.GLB_TIMERS1 F.GLB_TIMERS1_TT_EXCH_US))
    else s

/-- An offset of the time base from its reference in ns, positive where the reference is ahead, is stepped out or slewed out
(R69). -/
def Chip.correctTime (s : Chip) (o : Int) (first : Bool) : Chip :=
  let s := s.wr A.PCE_TB_ADJ F.PCE_TB_ADJ_OFFSET_NS (codeOfInt 32 o)
  if 1000 < o || (first && o < -1000) then
    let s := (s.wrB A.PCE_TB_ADJ F.PCE_TB_ADJ_STEP_SEEN true).wr A.PCE_TB_ADJ F.PCE_TB_ADJ_SLEW_PPM 0
    { s with tb := codeOfInt 64 (s.tb + o), align := { done := true } }
  else
    let s := s.wr A.PCE_TB_ADJ F.PCE_TB_ADJ_SLEW_PPM (codeOfInt 11 (if o == 0 then 0 else if o < 0 then -1000 else 1000))
    { s with align := { done := true, slew := o } }

/-- A TIME tadpole arrives on port `n` (R69, R347): a request is answered, an answer of the parent corrects the time. -/
def Chip.timeTadpole (s : Chip) (n : Nat) (p : Packet) : Chip :=
  let t := TimeBody.ofBody p.body
  if bits p.body 193 191 != 0 then s.countCause cntFORMAT
  else if !t.response then s.sendTime n { t1 := t.t1, t2 := s.tb, t3 := s.tb, response := true }
  else if s.hasParent && n == s.rd A.PCE_TB_PARENT F.PCE_TB_PARENT_PORT then
    let d (a b : Nat) : Int := signedOf 64 (a + 2 ^ 64 - b)
    s.correctTime ((d t.t2 t.t1 - d s.tb t.t3) / 2) (!s.align.done)
  else s

/-- An IEEE 1588 exchange has measured the offset from the grandmaster (R472): on the time root it steers the time base; on
every other E9 it only reports. -/
def Chip.ptpOffset (s : Chip) (o : Int) : Chip :=
  if s.flag A.PCE_TB_PARENT F.PCE_TB_PARENT_ROOT then s.correctTime o false else s

/-- The limit of a stage that is stuck runs out (R72): a record, and Newt is told which plane holds it. -/
def Chip.stuckStage (s : Chip) (stage plane : Nat) : Chip :=
  let s := s.log { status := .timeout, subsys := .paceUnit, addrKind := 8, addr := stage % 65536 }
  { s with power := { s.power with stuck := distinct (s.power.stuck ++ [plane]) } }

end Sys2Proof.Machine
end

