-- ==== Sys2Proof/Machine/Resets.lean ====
section
/-!
DEFINITION. The resets of the data plane and of the control plane and what they share (spec/01_architecture.md R28, R29,
Table 1.3; spec/09_ports_and_links.md R339; spec/16_power_reset_boot.md R508, R511).
-/
namespace Sys2Proof.Machine

/-- The partitions that are SEALED. -/
def Chip.sealedParts (s : Chip) : List Nat := (upFrom 0 64).filter (fun p => s.pstate p == psSEALED)

/-- The packet buffer and the flow state emptied without any answer (Table 1.3, R369), with early arrivals, references of a
shadow and tadpoles held for a wake. -/
def Chip.clearPackets (s : Chip) : Chip :=
  let timers := s.timers.filter (fun e => match e.1 with
    | .reassembly _ | .fenceHold _ | .sourceFence _ _ => false
    | _ => true)
  let s := { s with timers := timers, sw := { s.sw with slots := [], waiting := [] }, flows := {} }
  let s := (s.listed (A.SWC_USAGE 0) 16 64).foldl (fun s p => s.wr (A.SWC_USAGE p) F.SWC_USAGE_USED 0) s
  let s := s.modSeq (fun q => { q with early := [], refs := [] })
  { s.syncDrain with ports := s.ports.map (fun e => (e.1, { e.2.cleared with wakeQueue := [] })) }

/-- The open transactions of the home and of its gangs end without an answer; each Busy line enters the lost-line table, its
entry in the state it had before (Table 1.3). -/
def Chip.clearHome (s : Chip) : Chip :=
  let s := s.pool.txns.foldl (fun s e => (s.closeTxn e.1 e.2.prior).addLost e.2.part e.2.line) s
  let timers := s.timers.filter (fun e => match e.1 with | .snoop _ _ | .combining _ => false | _ => true)
  { s with timers := timers }.modPool (fun q => { q with
    txns := [], reqs := [], waits := [], combs := [], biSnoops := []
    done := q.done.filter (fun d => match d.1 with | .txn _ => false | _ => true)
    ops := q.ops.map (fun (o : TierOp) => match o.who with | .txn _ => { o with who := .evict } | _ => o) })

/-- The transactions of this E9's own requesters end without an answer, but for those of commands, whose timers run on. A line
whose writeback was in flight stays dirty (R109). -/
def Chip.clearAsks (s : Chip) : Chip :=
  let gone := s.pool.asks.filter (fun e => match e.2.who with | .job _ _ => false | _ => true)
  let s := gone.foldl (fun s e => s.stopTimer (.txn e.1)) s
  s.modPool (fun q => { q with
    asks := q.asks.filter (fun e => match e.2.who with | .job _ _ => true | _ => false)
    ended := q.ended.filter (fun x => !gone.any (fun e => e.1 == x.tag))
    engWrites := []
    cache := q.cache.map (fun e => (e.1, { e.2 with flight := none })) })

/-- The kernels that hold engines end (R218; log entry 47: DEDUCED, TIMEOUT), and every scratchpad is zeroed (R197, R237). -/
def Chip.clearEngines (s : Chip) : Chip :=
  let s := s.seq.colls.foldl (fun s c => s.abortColl c.key none 0 0 true) s
  let s := (s.seq.cmds.filter (fun m => m.isOn && !m.engines.isEmpty && m.ending.isNone)).foldl
    (fun s m => s.stopCmd m .timeout (if m.isChain then m.pc else 0)) s
  s.modSeq (fun q => { q with scr := [] })

/-- The ports that have a mode retrain (R28, R308). -/
def Chip.retrainPorts (s : Chip) : Chip :=
  ((upFrom 0 128).filter (fun n => s.mode n != modeOFF)).foldl Chip.retrain s

/-- A data-plane reset of the cause given (R28, R29, Table 14.7). -/
def Chip.dataReset (s : Chip) (cause : Nat) : Chip :=
  let s := ((s.clearEngines.clearPackets).clearHome).clearAsks
  let s := (s.resetTraffic.audit).retrainPorts
  let s := s.sealedParts.foldl (fun s p =>
    s.logFault { status := .portDown, subsys := .switchCore, partition := some p } p .dataReset {}) s
  s.wr A.GLB_RESET_CAUSE F.GLB_RESET_CAUSE_DATA cause

/-- The codebook store at a control-plane reset (R255). -/
def Chip.resetCodebooks (s : Chip) : Chip :=
  (s.listed (A.CDC_SLOT 0) 8 256).foldl (fun s k =>
    let s := s.wr (A.CDC_SLOT k) F.CDC_SLOT_REFS 0
    if s.slotState k == cbBUILDING || s.slotState k == cbRETIRING then s.setSlot k cbFREE else s) s

/-- Messages of Newt whose command is lost in a control-plane reset are answered BUSY (R475; log entry 48). -/
def Chip.dropNewtCommands (s : Chip) : Chip :=
  let lost := s.seq.cmds.filterMap (fun m => match m.origin with
    | .newt w => some (w, slotTag m.slot, Status.busy.code, 0)
    | _ => none)
  s.modSeq (fun q => { q with newtDone := q.newtDone ++ lost })

/-- A control-plane reset of the cause given (R28, R177, R255, R277, Table 14.7). -/
def Chip.controlReset (s : Chip) (cause : Nat) : Chip :=
  let s := s.seq.colls.foldl (fun s c => s.dropColl c true) s
  let s := s.dropNewtCommands.clearQueues (fun _ => true)
  let jobs := s.pool.asks.filter (fun e => match e.2.who with | .job _ _ => true | _ => false)
  let s := jobs.foldl (fun s e => s.stopTimer (.txn e.1)) s
  let s := s.modSeq (fun q => { q with outs := [] })
  let s := s.modPool (fun q => { q with
    asks := q.asks.filter (fun e => match e.2.who with | .job _ _ => false | _ => true)
    ended := q.ended.filter (fun x => !jobs.any (fun e => e.1 == x.tag))
    cmdDone := []
    trays := q.trays.map (fun e => (e.1, { e.2 with command := none })) })
  let s : Chip := { s with latchVf := [], ports := s.ports.map (fun e => (e.1, { e.2 with rotate := none })) }
  let s := s.countersReset.resetCodebooks
  let s := s.sealedParts.foldl (fun s p =>
    s.logFault { status := .timeout, subsys := .sequencer, partition := some p } p .controlReset {}) s
  s.wr A.GLB_RESET_CAUSE F.GLB_RESET_CAUSE_CONTROL cause

/-- A Function Level Reset of virtual function `n` (R339): its VF_RING queues are disabled and the replies that wait for them
discarded. -/
def Chip.vfReset (s : Chip) (n : Nat) : Chip :=
  let qs := (upFrom (16 * n) 16).filter (fun q => s.qSource q == 2 && s.qEnabled q)
  qs.foldl (fun s q => (s.modQueue q (fun x => { x with replies := [] })).disableQueue q) s

/-- The host link is lost or comes back (R339): fetching and replies wait meanwhile. -/
def Chip.hostLink (s : Chip) (up : Bool) : Chip :=
  let s := s.modSeq (fun q => { q with hostUp := up })
  if up then (s.seq.queues.map (·.1)).foldl (fun s q => (s.writeReplies q).fetchMore q) s else s

end Sys2Proof.Machine
end

