-- ==== Sys2Proof/Machine/Newt.lean ====
section
/-!
DEFINITION. Newt itself (spec/15_management_subsystem.md): its status, alerts and sensors, sessions, event and sample rings,
persistent log, configuration, and the start and reset of the management plane.
-/
namespace Sys2Proof.Machine

/-! ### Status -/

/-- States of Newt (Table 15.8). -/
def nsBOOTING : Nat := 0
def nsRUNNING : Nat := 1
def nsRECOVERY : Nat := 2
def nsUPDATING : Nat := 3
def nsRESETTING : Nat := 4

/-- NWT_STATUS.STATE, and a field of NWT_STATUS set. -/
def Chip.newtState (s : Chip) : Nat := s.rd A.NWT_STATUS F.NWT_STATUS_STATE
def Chip.nwtSet (s : Chip) (f : Fld) (v : Nat) : Chip := s.wr A.NWT_STATUS f v
def Chip.setNewtState (s : Chip) (v : Nat) : Chip := s.nwtSet F.NWT_STATUS_STATE v

/-- Whether Newt serves messages: RUNNING, RECOVERY or UPDATING. -/
def Chip.newtUp (s : Chip) : Bool := Nat.ble nsRUNNING s.newtState && Nat.ble s.newtState nsUPDATING

/-- Whether the boot ROM serves in recovery (R494): no image runs. -/
def Chip.recovering (s : Chip) : Bool := s.newt.image.isEmpty

/-- The boot stage (Table 16.11) and the BOOT_MODE strap (Table 16.6). -/
def Chip.stage (s : Chip) : Nat := s.rd A.GLB_BOOT_STATUS F.GLB_BOOT_STATUS_STAGE
def Chip.setStage (s : Chip) (n : Nat) : Chip := s.wr A.GLB_BOOT_STATUS F.GLB_BOOT_STATUS_STAGE n
def Chip.bootMode (s : Chip) : Nat := s.rd A.GLB_STRAPS F.GLB_STRAPS_BOOT_MODE
def Chip.enrolStrap (s : Chip) : Bool := s.flag A.GLB_STRAPS F.GLB_STRAPS_ENROLL_EN

/-- Whether READY is set (R513). -/
def Chip.ready (s : Chip) : Bool := s.flag A.GLB_BOOT_STATUS F.GLB_BOOT_STATUS_READY

/-- Whether a partition had a fault of cause `c` less than 1 s ago (R483). -/
def Chip.faultRecent (s : Chip) (c : Nat) : Bool :=
  (s.listed (A.ERR_FAULT 0 0) 32 1024).any (fun k =>
    let a := A.ERR_FAULT (k / 16) (k % 16)
    s.rd a F.ERR_FAULT_CAUSE == c && Nat.blt s.tb (s.rd a F.ERR_FAULT_TIME + 1000000000))

/-- The sensors whose record the register file lists. -/
def Chip.sensors (s : Chip) : List Nat := s.listed (A.NWT_SENSOR 0) 16 340

/-- The alert set, in the order of R483. -/
def Chip.alertSet (s : Chip) : List Bool :=
  [ s.sensors.any (fun i =>
      let a := A.NWT_SENSOR i
      s.flag a F.NWT_SENSOR_ALERT_EN && (s.flag a F.NWT_SENSOR_ABOVE || s.flag a F.NWT_SENSOR_BELOW)),
    s.flag A.NWT_STATUS F.NWT_STATUS_IMAGE_INVALID,
    s.newtState == nsRECOVERY,
    !s.newt.configured,
    s.trngFail,
    s.flag A.PCE_STATUS F.PCE_STATUS_SHORTFALL,
    (upFrom 1 10).any (fun c => bitAt s.newt.config.policy.causes c && s.faultRecent c) ]

/-- Whether ALERT_N is low: the alert set, and the loss of XTAL_25M (R483, R526). -/
def Chip.alert (s : Chip) : Bool :=
  (s.newtUp && s.alertSet.any (fun b => b)) || s.flag A.GLB_CLK_STATUS F.GLB_CLK_STATUS_XTAL_LOST

/-- The fields of NWT_STATUS that Newt derives (Table 15.8), from boot stage 2 on. -/
def Chip.syncNewt (s : Chip) : Chip :=
  if Nat.blt s.stage 2 then s
  else
    let s := s.nwtSet F.NWT_STATUS_HOST_UPDATE_EN (b2n s.newt.config.policy.hostUpdate)
    let s := s.nwtSet F.NWT_STATUS_FUSED_SVN s.fusedSvn
    let s := s.nwtSet F.NWT_STATUS_SESSIONS s.newt.sessions.length
    let s := s.nwtSet F.NWT_STATUS_PENDING s.newt.owed.length
    s.nwtSet F.NWT_STATUS_ALERT (b2n s.alert)

/-- The 256 bytes of the I3C window (R484). -/
def Chip.i3cWindow (s : Chip) : List Byte :=
  let alerts := (upFrom 0 7).foldl (fun n i => n + b2n (s.alertSet.getD i false) * 2 ^ i) 0
  bytesOfNat 8 (s.regs.word A.NWT_STATUS).toNat ++ bytesOfNat 2 (codeOfInt 16 s.pace.tmax)
    ++ bytesOfNat 2 (s.rd (A.NWT_SENSOR 83) F.NWT_SENSOR_VALUE) ++ bytesOfNat 2 s.levelActive ++ zeroBytes 2
    ++ bytesOfNat 8 alerts ++ bytesOfNat 8 (s.rd A.ERR_STATUS F.ERR_STATUS_HEAD) ++ zeroBytes 224

/-! ### Sensors (R481, R482) -/

/-- ABOVE and BELOW of sensor `i` after its value or its thresholds have changed; a change is an event (R482). -/
def Chip.syncSensor (s : Chip) (i : Nat) : Chip :=
  let a := A.NWT_SENSOR i
  let code := s.rd a F.NWT_SENSOR_VALUE
  let v := signedOf 16 code
  let above := decide (signedOf 16 (s.rd a F.NWT_SENSOR_WARN_HIGH) < v)
  let below := decide (v < signedOf 16 (s.rd a F.NWT_SENSOR_WARN_LOW))
  let changed := above != s.flag a F.NWT_SENSOR_ABOVE || below != s.flag a F.NWT_SENSOR_BELOW
  let s := (s.wrB a F.NWT_SENSOR_ABOVE above).wrB a F.NWT_SENSOR_BELOW below
  if changed then s.newtEvent 0x24 (i <<< 8 + code <<< 24) else s

/-- The sensor hub reads sensor `i`: the code of the reading, and whether the source is up and passes its check. In Eaves the
handshake-rate sensors are not valid (R495). -/
def Chip.sensorRead (s : Chip) (i code : Nat) (ok : Bool) : Chip :=
  let a := A.NWT_SENSOR i
  if !ok || (s.inEaves && Nat.ble 84 i) then s.wrB a F.NWT_SENSOR_VALID false
  else
    let v := signedOf 16 code
    let first := !s.newt.seen.contains i
    let lo := if first || decide (v < signedOf 16 (s.rd a F.NWT_SENSOR_MIN)) then code else s.rd a F.NWT_SENSOR_MIN
    let hi := if first || decide (signedOf 16 (s.rd a F.NWT_SENSOR_MAX) < v) then code else s.rd a F.NWT_SENSOR_MAX
    let s := ((s.wr a F.NWT_SENSOR_VALUE code).wr a F.NWT_SENSOR_MIN lo).wr a F.NWT_SENSOR_MAX hi
    let s := (s.wrB a F.NWT_SENSOR_VALID true).wr a F.NWT_SENSOR_AGE s.tb
    let s := s.modNewt (fun n => { n with seen := if first then i :: n.seen else n.seen })
    s.syncSensor i

/-- The thresholds of the policy record put into the sensor records (Table 15.9). -/
def Chip.applyThresholds (s : Chip) : Chip :=
  let ts := s.newt.config.policy.thresholds
  let is := distinct (s.sensors ++ ts.map (·.index))
  is.foldl (fun s i =>
    let a := A.NWT_SENSOR i
    let t := (ts.find? (fun t => t.index == i)).getD ⟨i, 0x7FFF, 0x8000, false⟩
    let s := (s.wr a F.NWT_SENSOR_WARN_HIGH t.warnHigh).wr a F.NWT_SENSOR_WARN_LOW t.warnLow
    (s.wrB a F.NWT_SENSOR_ALERT_EN t.alert).syncSensor i) s

/-! ### Sessions and updates (R470, R492) -/

/-- The present update is abandoned (R492): the slot stays invalid. The record's step and chunk are free values. -/
def Chip.abandonUpdate (s : Chip) : Chip :=
  if s.newt.update.isNone then s
  else
    let s := s.modNewt (fun n => { n with update := none })
    let s := s.setNewtState (if s.recovering then nsRECOVERY else nsRUNNING)
    let r := s.draw
    r.2.newtEvent 0x27 ((r.1 % 2 ^ 24) <<< 8)

/-- Session `n` ends (R470): its subscriptions and its update with it. The reason code is a free value. -/
def Chip.endSession (s : Chip) (n : Nat) : Chip :=
  match s.newt.sessions.find n with
  | none => s
  | some x =>
    let s := s.modNewt (fun w => { w with
      sessions := w.sessions.erase n
      logSub := if w.logSub.elim false (fun e => e.1 == n) then none else w.logSub
      sampleSub := if w.sampleSub.elim false (fun e => e.1 == n) then none else w.sampleSub })
    let s := (s.stopTimer (.session n)).emitOut (.sessionEnd n)
    let s := if s.newt.update.elim false (fun u => u.who == n) then s.abandonUpdate else s
    let r := s.draw
    r.2.newtEvent 0x23 (x.port <<< 8 + (r.1 % 256) <<< 16)

/-- Every session ends. -/
def Chip.endSessions (s : Chip) (pick : Session → Bool) : Chip :=
  ((s.newt.sessions.filter (fun e => pick e.2)).map (·.1)).foldl Chip.endSession s

/-! ### Event ring, persistent log and samples (R486 to R488) -/

/-- A message to the subscriber of a stream. -/
def Chip.push (s : Chip) (sub : Option (Nat × Nat)) (code : Nat) (data : List Byte) : Chip :=
  match sub with
  | some (n, tag) => s.emitOut (.mgmt n code true 0 tag data)
  | none => s

/-- A change of the configuration, written into the older copy with a generation one higher than the current one; it takes
effect at once (R467, R474). -/
def Chip.saveConfig (s : Chip) (f : NvConfig → NvConfig) : Chip :=
  let c := { f s.newt.config with generation := s.newt.config.generation + 1 }
  let genA := s.newt.copyA.elim 0 (·.generation)
  let genB := s.newt.copyB.elim 0 (·.generation)
  s.modNewt (fun n =>
    if Nat.ble genA genB then { n with copyA := some c, config := c, configured := true }
    else { n with copyB := some c, config := c, configured := true })

/-- The copy of the configuration with the higher generation (R467). -/
def Chip.pickConfig (s : Chip) : Option NvConfig :=
  match s.newt.copyA, s.newt.copyB with
  | some a, some b => some (if Nat.ble a.generation b.generation then b else a)
  | some a, none => some a
  | none, b => b

/-- The configuration taken at a start (R467): the copy with the higher generation; none leaves it empty, with an event. -/
def Chip.takeConfig (s : Chip) : Chip :=
  match s.pickConfig with
  | some c => (s.modNewt (fun n => { n with config := c, configured := true })).applyThresholds
  | none => ((s.modNewt (fun n => { n with config := {}, configured := false })).applyThresholds).newtEvent 0x28 0

/-- A correctable-error summary that Newt copies: a third one of its location and symbol within 24 h adds a repair (R467). The
symbol, which no record holds, is a free value. -/
def Chip.noteSummary (s : Chip) (rec : Nat) : Chip :=
  if !(bitAt rec 82 && bits rec 232 8 == 1 && bits rec 84 4 == 6) then s
  else
    let r := s.draw
    let s := r.2
    let here : Repair := ⟨bits rec 96 64, r.1 % 36⟩
    let recent := s.newt.summaries.filter (fun e => Nat.ble s.tb (e.2 + 86400000000000))
    let n := (recent.filter (fun e => e.1 == here)).length + 1
    let s := s.modNewt (fun w => { w with summaries := (here, s.tb) :: recent })
    let reps := s.newt.config.repairs
    if Nat.ble 3 n && Nat.blt reps.length 64 && !reps.contains here then
      s.saveConfig (fun c => { c with repairs := c.repairs ++ [here] })
    else s

/-- Newt copies the records of the error log into its event ring and pushes each to the subscriber (R486). Records that were
overwritten first are counted, and one event follows what the log still held. -/
def Chip.copyEvents (s : Chip) : Chip :=
  if !s.newtUp then s
  else
    let lost := s.errSeq - s.newt.copied - 4096
    let from_ := s.newt.copied + lost
    let recs := (upFrom from_ (s.errSeq - from_)).map (fun k => s.regs.span (A.ERR_LOG (k % 4096)) 8)
    let s := s.modNewt (fun n => { n with
      copied := s.errSeq
      ring := (n.ring ++ recs).drop ((n.ring ++ recs).length - 16384) })
    let s := recs.foldl (fun s r => s.push s.newt.logSub 0x04 (bytesOfNat 64 r)) s
    let s := recs.foldl Chip.noteSummary s
    if lost == 0 then s else s.newtEvent 0x2C ((lost % 2 ^ 32) <<< 8)

/-- SEQ_NO of a record. -/
def recSeq (r : Nat) : Nat := bits r 296 64

/-- A record kept in the persistent log: the sector with the lowest number is erased when all are full (R487). -/
def Chip.keepRecord (s : Chip) (r : Nat) : Chip :=
  s.modNewt (fun n =>
    let l := if Nat.ble 883872 n.persist.length then n.persist.drop 1023 else n.persist
    { n with persist := l ++ [r] })

/-- One record copied to the persistent log while the credit lasts, 10 ms a record; a run beyond it is replaced by one record of
code 0x2C (R487). -/
def Chip.copyPersistent (s : Chip) (r : Nat) : Chip :=
  let n := s.newt
  if Nat.blt n.credit 10000000 then
    s.modNewt (fun n => { n with skipped := n.skipped + 1, skipFrom := if n.skipped == 0 then recSeq r else n.skipFrom,
                                 persisted := recSeq r + 1 })
  else
    let gap : LogRec := { status := .ok, subsys := .newt, detail := 0x2C + (n.skipped % 2 ^ 32) <<< 8, event := true }
    let s := if n.skipped == 0 then s else s.keepRecord (gap.word s.tb n.skipFrom)
    (s.keepRecord r).modNewt (fun n => { n with credit := n.credit - 10000000, skipped := 0, persisted := recSeq r + 1 })

/-- Newt copies its event ring into the persistent log, at most 100 records a second over 10 s in bursts of up to 1,000
(R487). -/
def Chip.copyLog (s : Chip) : Chip :=
  if !s.newtUp then s
  else
    let s := s.modNewt (fun n => { n with
      credit := min 10000000000 (n.credit + (s.raw - n.creditAt)), creditAt := s.raw })
    (s.newt.ring.filter (fun r => Nat.ble s.newt.persisted (recSeq r))).foldl Chip.copyPersistent s

/-- Newt forwards up to 32 sample records to the subscriber, or discards what the ring holds (R488). -/
def Chip.forwardSamples (s : Chip) : Chip :=
  if !s.newtUp then s
  else
    match s.newt.sampleSub with
    | none => { s with samples := [] }
    | some _ =>
      if s.samples.isEmpty then s
      else
        { s.push s.newt.sampleSub 0x05 ((s.samples.take 32).flatMap (bytesOfNat 192)) with samples := s.samples.drop 32 }

/-! ### Start and reset of the management plane -/

/-- The management watchdog restarted (R465). -/
def Chip.kickWatchdog (s : Chip) : Chip := s.startTimer .management 1000000000

/-- The tray profiles that no attached tray uses any more are written (R493). -/
def Chip.loadProfiles (s : Chip) : Chip :=
  let used (p : Nat) : Bool := (upFrom 0 32).any (fun n =>
    s.trayState n != trayABSENT && s.trayState n != trayLOST && s.trayProfile n == p)
  let due := s.newt.owed.filter (fun k => Nat.ble 128 k && !used (k - 128))
  due.foldl (fun s k => (s.loadProfile (k - 128)).modNewt (fun n => { n with owed := n.owed.filter (fun j => j != k) })) s

/-- The sections of a new image loaded: the curve table at once, profiles and programs as their users allow (R493). -/
def Chip.loadImage (s : Chip) : Chip :=
  let xs := ((s.newt.image.find 0).map imgSections).getD []
  let profiles := distinct ((xs.filter (fun x => x.type == 3)).map (·.index))
  let ports := (upFrom 0 128).filter (fun n => s.mode n != modeOFF && xs.any (fun x => x.type == 4 && x.index == s.mode n))
  let s := s.loadCurve.modNewt (fun n => { n with owed := ports ++ profiles.map (128 + ·), programs := [] })
  ((ports.foldl Chip.freshProgram s).modNewt (fun n => { n with
    programs := (ports.filter s.inService).foldl (fun t p => t.put p (s.mode p)) n.programs })).loadProfiles

/-- The boot ROM and Newt start (R467, R490, R493, R494, R509): the configuration is taken, the slot is checked, and the image
runs or recovery begins. RECOVER holds at every start but that of an image just installed (log entry 51). -/
def Chip.startNewt (s : Chip) (cause : Nat) : Chip :=
  let s := s.takeConfig
  let fails := s.imageFails s.newt.slot
  let s := (s.nwtSet F.NWT_STATUS_IMAGE_INVALID (b2n fails.isSome)).wr A.GLB_BOOT_STATUS F.GLB_BOOT_STATUS_MP_RESET 0
  let s := (s.modNewt (fun n => { n with ring := [], copied := n.persisted, update := none })).kickWatchdog
  let s := s.newtEvent 0x20 (cause <<< 8)
  if fails.isSome || (s.bootMode == 2 && cause != 5) then
    let s := (s.setNewtState nsRECOVERY).modNewt (fun n => { n with image := [] })
    let s := (s.wr A.NWT_VERSION F.NWT_VERSION_IMAGE_VERSION 0).nwtSet F.NWT_STATUS_IMAGE_SVN 0
    match fails with
    | some (k, c) => s.newtEvent 0x27 (k <<< 8 + c <<< 16)
    | none => s
  else
    let h := (s.newt.slot.find 0).getD []
    let fresh := s.newt.image != s.newt.slot
    let s := (s.setNewtState nsRUNNING).modNewt (fun n => { n with image := n.slot })
    let s := (s.wr A.NWT_VERSION F.NWT_VERSION_IMAGE_VERSION (imgVersion h)).nwtSet F.NWT_STATUS_IMAGE_SVN (imgSvn h)
    let s := if fresh then s.loadImage else s
    { s with samplesArmed := true }

/-- The management plane is reset (R462, R465, R497, R508): `event` is the cause of Table 15.11 and `cause` that of Table 16.8.
A reset requested while one runs merges into it (R511). -/
def Chip.mgmtReset (s : Chip) (event cause : Nat) : Chip :=
  if s.flag A.GLB_BOOT_STATUS F.GLB_BOOT_STATUS_MP_RESET then s
  else
    let s := (s.endSessions (fun _ => true)).abandonUpdate
    let s := (s.stopTimer .management).modNewt (fun n => { n with ring := [], cause := event })
    let s := { s with samples := [], samplesArmed := false }
    let s := s.wr A.NWT_HOST_CTL F.NWT_HOST_CTL_BUSY 0
    let s := s.modSeq (fun q => { q with newtDone := q.newtDone.filter (fun e => Nat.ble 16 e.1) })
    let s := (s.setNewtState nsRESETTING).wr A.GLB_BOOT_STATUS F.GLB_BOOT_STATUS_MP_RESET 1
    s.wr A.GLB_RESET_CAUSE F.GLB_RESET_CAUSE_MANAGEMENT cause

/-- Newt has restarted (R509): where the planes were held for want of an image, the boot goes on from stage 3 (R515). -/
def Chip.restartDone (s : Chip) : Chip :=
  if s.newtState != nsRESETTING then s
  else
    let was := s.recovering
    let s := s.startNewt s.newt.cause
    if s.stage == 7 && was && !s.recovering then s.setStage 3 else s

end Sys2Proof.Machine
end

