-- ==== Sys2Proof/Machine/PowerState.lean ====
section
/-!
DEFINITION. Power states, reset pins, boot and clocks (spec/16_power_reset_boot.md, spec/17_electrical_and_package.md R526 to
R533, spec/09_ports_and_links.md R314, R333 to R335).
-/
namespace Sys2Proof.Machine

def Chip.modPower (s : Chip) (f : Power → Power) : Chip := { s with power := f s.power }

/-- A field of PCE_PWR_STATUS set. -/
def Chip.pwrSet (s : Chip) (f : Fld) (v : Nat) : Chip := s.wr A.PCE_PWR_STATUS f v
def Chip.setPowerState (s : Chip) (v : Nat) : Chip := s.pwrSet F.PCE_PWR_STATUS_STATE v

/-! ### Requests of a mode D gang (R122, R161, R334) -/

/-- A request of a gang's CPU handed on (R122, R161): MemRd as what it asks for (0 RdCurrent, 1 RdShared, 2 RdOwn), MemRdData as
RdShared, MemWr as WrBack, MemWrPtl as RdOwn, merge and WrBack. -/
def Chip.cpuNow (s : Chip) (h : HeldCpu) : Chip :=
  let msg := if h.op == 0 then (if h.arg == 0 then mRdCurrent else if h.arg == 1 then mRdShared else mRdOwn)
    else if h.op == 1 then mRdShared else if h.op == 2 then mWrBack else mRdOwn
  let line := ((s.gangAddr h.gang h.dpa).getD 0) / 64
  let who : Asker := if h.op == 3 then .gangMerge h.gang h.tag line h.arg h.data else .gang h.gang h.tag
  s.gangRequest h.gang h.tag h.dpa msg who h.data

/-- A CXL.mem request of gang `h.gang`'s CPU: held in Eaves until the wake (R334). -/
def Chip.cpuRequest (s : Chip) (h : HeldCpu) : Chip :=
  if !s.inService (4 * h.gang) || s.mode (4 * h.gang) != modeD then s
  else if s.eavesGoverns (4 * h.gang) || s.powerState == 3 then s.modPower (fun w => { w with held := w.held ++ [h] })
  else s.cpuNow h

/-! ### Waking (R504, R505) -/

/-- The wake starts (Table 16.3); its bound counts from the tick `at_` of the request. -/
def Chip.startWake (s : Chip) (cause at_ : Nat) : Chip :=
  let s := (s.setPowerState 3).pwrSet F.PCE_PWR_STATUS_WAKE_CAUSE cause
  let s := s.modPower (fun w => { w with wakeFrom := at_, wakeAfter := none, stepFive := false })
  let s := { s with pace := { s.pace with target := s.rd A.PCE_POLICY F.PCE_POLICY_LEVEL, met := 0, under := 0 } }
  ((upFrom 0 128).filter (fun n => s.mode n != modeOFF)).foldl (fun s n =>
    if Nat.ble modeC (s.mode n) then (if s.flag (A.PRT_STATUS n) F.PRT_STATUS_EAVES then s.enterService n else s)
    else if s.flag (A.PRT_STATUS n) F.PRT_STATUS_EAVES then s.trainEvent n tevEAVES_EXIT 0
    else s.retrain n) s

/-- Queues resume and fetch the doorbells that were latched (R277, R503, R505). -/
def Chip.resumeQueues (s : Chip) : Chip :=
  let s := s.modSeq (fun q => { q with queues := q.queues.map (fun e =>
    (e.1, match e.2.latched with | some i => { e.2 with tail := i, latched := none } | none => e.2)) })
  (s.seq.queues.map (·.1)).foldl Chip.fetchMore s

/-- Background work goes on from where it paused (R502). -/
def Chip.resumeWork (s : Chip) : Chip :=
  ((upFrom 0 32).filter (fun n => s.trayState n == trayREADY)).foldl Chip.background s

/-- Entry is abandoned (R503). -/
def Chip.abandonEntry (s : Chip) : Chip :=
  ((s.setPowerState 0).stopTimer .eavesEntry).resumeQueues.resumeWork

/-- Something asks for a wake (R503, R504): 1 WAKE, 2 traffic, 3 a doorbell, 4 a plane reset. -/
def Chip.wakeReq (s : Chip) (cause : Nat) : Chip :=
  let st := s.powerState
  if st == 1 then
    if s.power.stepFive then
      s.modPower (fun w => { w with wakeAfter := if w.wakeAfter.isSome then w.wakeAfter else some (cause, s.raw) })
    else s.abandonEntry
  else if st == 2 then s.startWake cause s.raw
  else s

/-- Traffic has arrived on a port (R334), and a doorbell has been written (R277). -/
def Chip.trafficWakes (s : Chip) : Chip := if s.flag A.PCE_PWR_CTL F.PCE_PWR_CTL_WAKE_TRAFFIC then s.wakeReq 2 else s
def Chip.doorbellWakes (s : Chip) : Chip := if s.flag A.PCE_PWR_CTL F.PCE_PWR_CTL_WAKE_DOORBELL then s.wakeReq 3 else s

/-- A reset of plane `plane` (0 data, 1 control) is asked for (R508, R511): merged where the plane is in reset, done after the
wake where the part is asleep. -/
def Chip.requestReset (s : Chip) (plane cause : Nat) : Chip :=
  let inReset := s.flag A.GLB_BOOT_STATUS (if plane == 0 then F.GLB_BOOT_STATUS_DP_RESET else F.GLB_BOOT_STATUS_CP_RESET)
  let now (s : Chip) : Chip := if plane == 0 then s.dataReset cause else s.controlReset cause
  if inReset then s
  else if s.powerState == 0 then now s
  else if s.powerState == 1 && !s.power.stepFive then now (s.wakeReq 4)
  else
    let s := s.modPower (fun w => if plane == 0 then { w with resetData := some (w.resetData.getD cause) }
                                  else { w with resetControl := some (w.resetControl.getD cause) })
    s.wakeReq 4

/-- The wake ends (Table 16.3 step 6): scratchpads zeroed, heartbeat timers and buckets full, queues resumed, the raise to LEVEL
begun, held requests served, and a plane reset that waited performed (R499, R500, R511). -/
def Chip.wakeDone (s : Chip) : Chip :=
  if s.powerState != 3 then s
  else
    let s := s.modSeq (fun q => { q with scr := [] })
    let s := s.setPowerState 0
    let s := s.pwrSet F.PCE_PWR_STATUS_LAST_WAKE_NS (min cap32 (s.raw - s.power.wakeFrom))
    let hosts := (s.listed (A.HOM_HOST 0) 8 16384).filter (fun e =>
      let a := A.HOM_HOST e
      s.flag a F.HOM_HOST_ASSIGNED && s.flag a F.HOM_HOST_CACHING && !s.flag a F.HOM_HOST_FAILED)
    let s := hosts.foldl Chip.startHeartbeat s
    let s := s.resetTraffic.resumeQueues.resumeWork.policySet
    let cpu := s.power.held
    let rd := s.power.resetData
    let rc := s.power.resetControl
    let s := s.modPower (fun w => { w with held := [], resetData := none, resetControl := none })
    let s := cpu.foldl Chip.cpuNow s
    let s := match rd with | some c => s.dataReset c | none => s
    match rc with | some c => s.controlReset c | none => s

/-! ### Entering Eaves (R501 to R503) -/

/-- Whether entry is refused (R501). -/
def Chip.eavesRefused (s : Chip) : Bool :=
  s.powerState != 0 || s.otherState != 0 || s.flag A.PCE_STATUS F.PCE_STATUS_TRANSITION
    || (upFrom 0 64).any (fun p => s.pstate p == psDRAINING || s.pstate p == psSCRUBBING)
    || (upFrom 0 32).any (fun n => s.trayState n == trayATTACHING || s.trayState n == trayDRAINING)

/-- EAVES_ENTER (R501, R502 step 1). -/
def Chip.eavesEnter (s : Chip) : Chip :=
  if s.eavesRefused then s.logReg .busy .paceUnit A.PCE_PWR_CTL
  else
    let s := (s.setPowerState 1).modPower (fun w => { w with stepFive := false, wakeAfter := none })
    s.startTimer .eavesEntry (ms (s.rd A.PCE_PWR_CTL F.PCE_PWR_CTL_ENTRY_MS))

/-- Every dirty line of the write cache is sent on its way (Table 16.2 step 3). -/
def Chip.pushAll (s : Chip) : Chip :=
  s.pool.cache.foldl (fun s e =>
    match s.pool.cache.find e.1 with
    | none => s
    | some l =>
      if keyRole e.1 == roleENGINE then (s.pushSector (e.1 / 2 ^ 71) (keyLine e.1 / 4)).1
      else if l.dirty then
        let s := (s.modPool (fun q => { q with cache := q.cache.put e.1 { l with dirty := false } }))
        s.writeHomeLine e.1 l .evict
      else s) s

/-- Whether the engines and the collectives have ended (step 2). -/
def Chip.enginesIdle (s : Chip) : Bool := s.seq.cmds.all (fun m => m.engines.isEmpty) && s.seq.colls.isEmpty
def Chip.poolIdle (s : Chip) : Bool :=
  s.pool.ops.isEmpty && s.pool.tops.isEmpty && s.pool.xfers.isEmpty && s.pool.txns.isEmpty && s.pool.reqs.isEmpty
    && s.pool.combs.isEmpty && s.pool.biSnoops.isEmpty
    && s.pool.cache.all (fun e => keyRole e.1 == roleHOME && !e.2.dirty)

/-- Step 5: each port in service follows R333. -/
def Chip.portsToEaves (s : Chip) : Chip :=
  let s := (s.stopTimer .eavesEntry).modPower (fun w => { w with stepFive := true })
  ((upFrom 0 128).filter s.inService).foldl (fun s n =>
    if Nat.ble modeC (s.mode n) then s.eavesLane n
    else if s.flag (A.PRT_PROFILE s.active n) F.PRT_PROFILE_EAVES_EN then s.trainEvent n tevEAVES_ENTER 0
    else (s.goDown n 1).portSet n F.PRT_STATUS_TRAIN_STATE 0) s

/-- Step 6: what the buffer holds is discarded and answered WAKING; only those answers are left in it. -/
def Chip.flushForEaves (s : Chip) : Chip :=
  let l : List Packet := s.sw.slots.map (fun sl => sl.pkt) ++ s.sw.waiting.map (fun w => w.pkt)
  let s : Chip := { s with sw := { s.sw with waiting := [] } }
  let s := s.sw.slots.foldl (fun s sl => s.dropSlot sl.id) s
  let s := s.modSeq (fun q => { q with early := [] })
  let s : Chip := { s with flows := { s.flows with src := s.flows.src.map (fun e => (e.1, { e.2 with held := [] })) } }
  (l.foldl (fun s p => s.answerDiscard (some (p, .waking))) s).settle

/-- Step 7: the core is power-gated. A wake asked for since step 5 follows at once (R503). -/
def Chip.sleep (s : Chip) : Chip :=
  let s := s.modPool (fun q => { q with cache := [] })
  let p := A.PCE_STATUS
  let s := ((s.wr p F.PCE_STATUS_LEVEL_ACTIVE 7).wr p F.PCE_STATUS_ADMIT_LEVEL 7).wr p F.PCE_STATUS_VCORE_MV 620
  let s := ({ s with pace := { s.pace with windows := [], avs := none, change := .none, target := 7 } }).emitOut (.avsWrite 620)
  let s := { s with timers := s.timers.filter (fun e => match e.1 with | .heartbeat _ => false | _ => true) }
  let s := (s.setPowerState 2).wrap A.PCE_PWR_STATUS F.PCE_PWR_STATUS_ENTRIES 1
  match s.power.wakeAfter with
  | some (c, t) => s.startWake c t
  | none => s

/-- Entry goes as far as it can (Table 16.2). -/
def Chip.eavesProgress (s : Chip) : Chip :=
  if s.powerState != 1 then s
  else if !s.power.stepFive then
    if !s.enginesIdle then s
    else if !s.poolIdle then s.pushAll
    else s.portsToEaves
  else if (upFrom 0 128).all (fun n => !s.inService n || s.flag (A.PRT_STATUS n) F.PRT_STATUS_EAVES) then s.flushForEaves.sleep
  else s

/-- ENTRY_MS runs out before step 5 (R503). -/
def Chip.eavesTimeout (s : Chip) : Chip :=
  match s.expire .eavesEntry with
  | none => s
  | some s =>
    ((s.abandonEntry).wrB A.PCE_PWR_STATUS F.PCE_PWR_STATUS_ABANDON_SEEN true).logReg .timeout .paceUnit A.PCE_PWR_CTL

/-- A write of 1 to a WO field of PCE_PWR_CTL. -/
def Chip.powerControl (s : Chip) (enter wake : Bool) : Chip :=
  if enter && wake then s.logReg .formatInvalid .paceUnit A.PCE_PWR_CTL
  else if enter then s.eavesEnter
  else if wake then s.wakeReq 1
  else s

/-! ### Reset pins and boot (R508 to R516) -/

/-- PORST_N is asserted (R510): everything but the fuses, the SPI NOR, the level of PERST_N and THERMTRIP_N is as at reset. Time
goes on, and the model's own records with it. -/
def Chip.porstAssert (s : Chip) : Chip :=
  { Chip.reset with
    raw := s.raw, free := s.free, out := s.out
    power := { Chip.reset.power with perst := s.power.perst, thermtrip := s.power.thermtrip }
    newt := { Chip.reset.newt with slot := s.newt.slot, copyA := s.newt.copyA, copyB := s.newt.copyB
                                   persist := s.newt.persist, fusedSvn := s.newt.fusedSvn } }

/-- PORST_N is released (R512, R513): the straps are latched and boot stage 1 begins. -/
def Chip.porstRelease (s : Chip) (enrol : Bool) (i3c mode : Nat) : Chip :=
  if !s.power.porst then s
  else
    let s := s.modPower (fun w => { w with porst := false })
    let a := A.GLB_STRAPS
    let s := ((s.wrB a F.GLB_STRAPS_ENROLL_EN enrol).wr a F.GLB_STRAPS_I3C_ADDR i3c).wr a F.GLB_STRAPS_BOOT_MODE mode
    let s : Chip := { s.setStage 1 with tb := 0 }
    let s := s.modSeq (fun q => { q with hostUp := !s.power.perst })
    if mode % 4 == 3 then s.logReg .formatInvalid .paceUnit A.GLB_STRAPS else s

/-- Column repairs of the list are applied (R456). Whether a macro has a spare column left is a free value. -/
def Chip.applyRepairs (s : Chip) : Chip :=
  ((s.pickConfig.map (·.repairs)).getD []).foldl (fun s r =>
    let d := s.draw
    if d.1 % 2 == 0 then d.2
    else d.2.log { status := .quota, subsys := .paceUnit, addrKind := 6, addr := r.location }) s

/-- Stage 4 begins (R513, R516): the two planes leave reset, the DRBG instances reseed, and the stacks of `hbmFail` do not
train. -/
def Chip.stageFour (s : Chip) (hbmFail : Nat) : Chip :=
  let a := A.GLB_BOOT_STATUS
  let s := ((s.setStage 4).wr a F.GLB_BOOT_STATUS_DP_RESET 0).wr a F.GLB_BOOT_STATUS_CP_RESET 0
  let s := (upFrom 0 65).foldl Chip.reseed s
  let s := s.wr a F.GLB_BOOT_STATUS_HBM_FAIL hbmFail
  ((upFrom 0 6).filter (fun k => bitAt hbmFail k)).foldl (fun s k =>
    s.log { status := .uncorrectable, subsys := .stagingStore, addrKind := 6, addr := Subsys.stagingStore.num <<< 56 + k }) s

/-- A boot stage ends and the next begins (Table 16.7). -/
def Chip.bootAdvance (s : Chip) (hbmFail : Nat) : Chip :=
  let st := s.stage
  if st == 1 then ((s.setStage 2).wr (A.GLB_PAD_CFG 2) F.GLB_PAD_CFG_SLEW 2).applyRepairs
  else if st == 2 then
    let s := (s.startNewt 0).setStage 3
    if s.flag A.NWT_STATUS F.NWT_STATUS_IMAGE_INVALID then s.setStage 7 else s
  else if st == 3 then if s.bootMode == 1 then s.setStage 7 else s.stageFour hbmFail
  else if st == 4 then (s.setStage 5).audit
  else if st == 5 then
    let s := (s.setStage 6).wr A.GLB_BOOT_STATUS F.GLB_BOOT_STATUS_READY 1
    s.wr A.GLB_BOOT_STATUS F.GLB_BOOT_STATUS_READY_US (min cap32 (s.tb / 1000))
  else s

/-- RELEASE (R515): the boot goes on from stage 4 where HOLD held it. -/
def Chip.bootRelease (s : Chip) : Chip :=
  if s.stage == 7 && s.bootMode == 1 && !s.recovering then s.stageFour 0 else s

/-- PERST_N is asserted (R510) and released (R514). -/
def Chip.perstAssert (s : Chip) : Chip :=
  ((s.modPower (fun w => { w with perst := true })).modSeq (fun q => { q with hostUp := false })).requestReset 1 5
def Chip.perstRelease (s : Chip) : Chip :=
  let s := s.modPower (fun w => { w with perst := false })
  if Nat.blt 0 s.stage then s.hostLink true else s

/-! ### Clocks, trip and pads (R314, R526, R531, R533) -/

/-- A clock is lost: its bit, CLK_LOST_SEEN and the record (R526). -/
def Chip.clockLost (s : Chip) (f : Fld) : Chip :=
  let a := A.GLB_CLK_STATUS
  ((s.wr a f 1).wr a F.GLB_CLK_STATUS_CLK_LOST_SEEN 1).logReg .timeout .paceUnit a

/-- REFCLK_FAB input `k` is lost, and returns (R314). -/
def Chip.fabLost (s : Chip) (k : Nat) : Chip :=
  let a := A.GLB_CLK_STATUS
  let s := (s.wr a F.GLB_CLK_STATUS_REFCLK_FAB_LOST (putBit (s.rd a F.GLB_CLK_STATUS_REFCLK_FAB_LOST) k true)).wr a
    F.GLB_CLK_STATUS_CLK_LOST_SEEN 1
  (upFrom (16 * k) 16).foldl (fun s n =>
    ((s.goDown n 1).portSet n F.PRT_STATUS_TRAIN_STATE 0).portSet n F.PRT_STATUS_REFCLK_LOST 1) s
def Chip.fabBack (s : Chip) (k : Nat) : Chip :=
  let a := A.GLB_CLK_STATUS
  let s := s.wr a F.GLB_CLK_STATUS_REFCLK_FAB_LOST (putBit (s.rd a F.GLB_CLK_STATUS_REFCLK_FAB_LOST) k false)
  (upFrom (16 * k) 16).foldl (fun s n =>
    let s := s.portSet n F.PRT_STATUS_REFCLK_LOST 0
    if s.mode n == modeOFF then s else s.retrain n) s

/-- The pads of group 2 take their new setting at the end of Newt's SPI transfer (R531; log entry 1). -/
def Chip.spiDone (s : Chip) : Chip := s.modPower (fun w => { w with padWait := none })

end Sys2Proof.Machine
end

