-- ==== Sys2Proof/Machine/Mailbox.lean ====
section
/-!
DEFINITION. Management messages and the commands that the NWT mailbox may issue (spec/15_management_subsystem.md R473, R474,
R480, R481, R489 to R494).
-/
namespace Sys2Proof.Machine

/-- Codes of the management commands (Table 15.6). -/
def mcIDENTIFY : Nat := 0x01
def mcSENSOR_READ : Nat := 0x02
def mcLOG_READ : Nat := 0x03
def mcLOG_SUBSCRIBE : Nat := 0x04
def mcSAMPLE_SUBSCRIBE : Nat := 0x05
def mcSPDM : Nat := 0x06
def mcREG_READ : Nat := 0x10
def mcREG_WRITE : Nat := 0x11
def mcCMD_SUBMIT : Nat := 0x12
def mcDECLARE : Nat := 0x13
def mcPLANE_RESET : Nat := 0x14
def mcIMAGE_BEGIN : Nat := 0x20
def mcIMAGE_CHUNK : Nat := 0x21
def mcIMAGE_END : Nat := 0x22
def mcSVN_ADVANCE : Nat := 0x23
def mcANCHOR_SET : Nat := 0x30
def mcANCHOR_CLEAR : Nat := 0x31
def mcNET_CONFIG : Nat := 0x32
def mcPOLICY_SET : Nat := 0x33

/-- Whether Table 15.6 lists a code. -/
def mcKnown (c : Nat) : Bool :=
  (Nat.ble 1 c && Nat.ble c 6) || (Nat.ble 0x10 c && Nat.ble c 0x14) || (Nat.ble 0x20 c && Nat.ble c 0x23)
    || (Nat.ble 0x30 c && Nat.ble c 0x33)

/-- Who issues from the mailbox; sessions are 0 to 7. -/
def whoMailbox : Nat := 16

/-- What follows a reply (R474, R478, R493, R497). -/
inductive After where
  | nothing
  /-- The management plane is reset, with the cause of Table 15.11 and that of Table 16.8. -/
  | reset (event cause : Nat)
  /-- The sessions of a management port, or those opened under an anchor slot, end. -/
  | endPort (p : Nat)
  | endAnchor (slot : Nat)
deriving DecidableEq, Repr

/-- How a command of management ends: its status and reply payload, whether a record has been written for it already, and what
follows the reply. -/
structure MgmtRes where
  s : Chip
  st : Status := .ok
  data : List Byte := []
  logged : Bool := false
  after : After := .nothing

/-- A refusal. -/
def Chip.refuse (s : Chip) (st : Status) : MgmtRes := { s := s, st := st }

/-- The first failing check of a header (R474 step 1, R14, R16, R17). -/
def MgmtHead.fails (h : MgmtHead) (data : List Byte) : Option Status :=
  if h.rsv || h.response || h.push || h.status != 0 then some .formatInvalid
  else if Nat.ble 69633 h.length then some .lengthRange
  else if h.length != data.length then some .formatInvalid
  else none

/-- The header at the start of 16 bytes (Table 15.5), with its code. -/
def headOfBytes (b : List Byte) : Nat × MgmtHead :=
  let n := natOfBytes (b.take 16)
  (bits n 0 8,
   { response := bitAt n 8, push := bitAt n 9, status := bits n 16 8, tag := bits n 32 32, length := bits n 64 32
     rsv := bits n 10 6 != 0 || bits n 24 8 != 0 || bits n 96 32 != 0 })

/-- The bytes of a reply (Table 15.5). -/
def replyBytes (code : Nat) (st : Status) (tag : Nat) (data : List Byte) : List Byte :=
  bytesOfNat 16 (code % 256 + 1 <<< 8 + st.code <<< 16 + (tag % 2 ^ 32) <<< 32 + (data.length % 2 ^ 32) <<< 64) ++ data

/-- What follows a reply is done. -/
def Chip.doAfter (s : Chip) (a : After) : Chip :=
  match a with
  | .nothing => s
  | .reset e c => s.mgmtReset e c
  | .endPort p => s.endSessions (fun x => x.port == p)
  | .endAnchor k => s.endSessions (fun x => x.anchor == some k)

/-- The record of a management command that ends with a status of kind Error (R442). -/
def MgmtRes.recorded (r : MgmtRes) (tag : Nat) : Chip :=
  if r.st.isError && !r.logged then r.s.log { status := r.st, subsys := .newt, tag := tag } else r.s

/-! ### The commands -/

/-- IDENTIFY (Table 15.6). The order and width of the fields are the table's (log entry 52). -/
def Chip.mgmtIdentify (s : Chip) : List Byte :=
  bytesOfNat 8 (s.rd A.GLB_SERIAL F.GLB_SERIAL_SERIAL) ++ bytesOfNat 4 (s.rd A.NWT_VERSION F.NWT_VERSION_IMAGE_VERSION)
    ++ bytesOfNat 1 (s.rd A.NWT_STATUS F.NWT_STATUS_IMAGE_SVN) ++ bytesOfNat 1 s.fusedSvn ++ bytesOfNat 1 s.newtState

/-- SENSOR_READ (R481). A COUNT above its limit is a length beyond the range behind it (R17), one of 0 reads nothing (R18). -/
def Chip.mgmtSensorRead (s : Chip) (d : List Byte) : MgmtRes :=
  let first := leAt d 0 2
  let n := leAt d 2 2
  let flags := leAt d 4 1
  if d.length != 5 || Nat.ble 2 flags then s.refuse .formatInvalid
  else if n == 65535 || Nat.blt 340 n || (n != 0 && Nat.blt 340 (first + n)) then s.refuse .lengthRange
  else
    let is := upFrom first n
    let data := is.flatMap (fun i => bytesOfNat 16 (s.regs.span (A.NWT_SENSOR i) 2))
    { s := if flags == 1 then s.modNewt (fun w => { w with seen := w.seen.filter (fun i => !is.contains i) }) else s
      data := data }

/-- LOG_READ (R474): records in order, from the first held at or after the one named. -/
def Chip.mgmtLogRead (s : Chip) (d : List Byte) : MgmtRes :=
  let n := leAt d 8 2
  let src := leAt d 10 1
  if d.length != 11 || Nat.ble 2 src then s.refuse .formatInvalid
  else if n == 65535 || Nat.blt 1024 n then s.refuse .lengthRange
  else
    let l := if src == 0 then s.newt.ring else s.newt.persist
    { s := s, data := ((l.filter (fun r => Nat.ble (leAt d 0 8) (recSeq r))).take n).flatMap (bytesOfNat 64) }

/-- IMAGE_BEGIN (R492 step 1). -/
def Chip.mgmtImageBegin (s : Chip) (who : Nat) (d : List Byte) : MgmtRes :=
  if d.length != chunkBytes then s.refuse .formatInvalid
  else if s.newt.update.isSome then s.refuse .busy
  else
    match s.headFails d with
    | some k => s.refuse (if k == 4 then .keyRetired else .formatInvalid)
    | none =>
      let s := s.modNewt (fun n => { n with slot := n.slot.erase 0, update := some { who := who, head := d } })
      let s := (s.nwtSet F.NWT_STATUS_IMAGE_INVALID 1).setNewtState nsUPDATING
      { s := s.newtEvent 0x25 (imgVersion d <<< 8) }

/-- IMAGE_CHUNK (R492 step 2). -/
def Chip.mgmtImageChunk (s : Chip) (who : Nat) (d : List Byte) : MgmtRes :=
  let i := leAt d 0 4
  let c := d.drop 4
  match s.newt.update with
  | none => s.refuse .busy
  | some u =>
    if u.who != who then s.refuse .busy
    else if d.length != chunkBytes + 4 || i == 0 || Nat.ble (imgChunks u.head) i || u.got.contains i || !chunkMatches u.head i c then
      s.refuse .formatInvalid
    else { s := s.modNewt (fun n => { n with slot := n.slot.put i c, update := some { u with got := i :: u.got } }) }

/-- IMAGE_END (R492 step 3, R493, R494). -/
def Chip.mgmtImageEnd (s : Chip) (who : Nat) (d : List Byte) : MgmtRes :=
  match s.newt.update with
  | none => s.refuse .busy
  | some u =>
    let missing := imgChunks u.head - 1 - u.got.length
    if u.who != who then s.refuse .busy
    else if d.length != 1 || Nat.ble 2 (leAt d 0 1) then s.refuse .formatInvalid
    else if missing != 0 then { s := s, st := .formatInvalid, data := bytesOfNat 1 missing }
    else
      let s := s.modNewt (fun n => { n with slot := n.slot.put 0 u.head, update := none })
      let s := s.setNewtState (if s.recovering then nsRECOVERY else nsRUNNING)
      match s.imageFails s.newt.slot with
      | some (k, c) => { s := s.newtEvent 0x27 (k <<< 8 + c <<< 16), st := .formatInvalid, data := bytesOfNat 1 0, logged := true }
      | none =>
        let s := (s.nwtSet F.NWT_STATUS_IMAGE_INVALID 0).newtEvent 0x26 (imgVersion u.head <<< 8)
        { s := s, data := bytesOfNat 1 0
          after := if leAt d 0 1 == 1 || s.recovering then .reset 5 9 else .nothing }

/-- A command that the mailbox may issue. -/
def Chip.mgmtBase (s : Chip) (who code : Nat) (d : List Byte) : MgmtRes :=
  if code == mcIDENTIFY then (if d.isEmpty then { s := s, data := s.mgmtIdentify } else s.refuse .formatInvalid)
  else if code == mcSENSOR_READ then s.mgmtSensorRead d
  else if code == mcLOG_READ then s.mgmtLogRead d
  else if code == mcIMAGE_BEGIN then s.mgmtImageBegin who d
  else if code == mcIMAGE_CHUNK then s.mgmtImageChunk who d
  else if code == mcIMAGE_END then s.mgmtImageEnd who d
  else s.refuse .accessDenied

/-! ### The mailbox (R480) -/

/-- `n` bytes of NWT_HOST_BUF from byte 0. -/
def Chip.hostBuf (s : Chip) (n : Nat) : List Byte :=
  ((upFrom 0 (ceilDiv n 8)).flatMap (fun k => bytesOfNat 8 (s.regs.word (A.NWT_HOST_BUF k)).toNat)).take n

/-- Bytes written over NWT_HOST_BUF from byte 0. -/
def Chip.writeHostBuf (s : Chip) (b : List Byte) : Chip :=
  (upFrom 0 (ceilDiv b.length 8)).foldl (fun s k =>
    let part := slice b (8 * k) 8
    let old := bytesOfNat 8 (s.regs.word (A.NWT_HOST_BUF k)).toNat
    { s with regs := s.regs.setWord (A.NWT_HOST_BUF k) (BitVec.ofNat 64 (natOfBytes (part ++ old.drop part.length))) }) s

/-- Whether the mailbox may issue a command (R480, R494). -/
def Chip.mailboxMay (s : Chip) (code : Nat) : Bool :=
  !s.recovering && ((Nat.ble 1 code && Nat.ble code 3)
    || (Nat.ble 0x20 code && Nat.ble code 0x22 && s.flag A.NWT_STATUS F.NWT_STATUS_HOST_UPDATE_EN))

/-- GO (R480): the message in NWT_HOST_BUF runs, and its reply is written over it. While Newt does not serve, nothing runs. -/
def Chip.mailboxGo (s : Chip) : Chip :=
  if s.flag A.NWT_HOST_CTL F.NWT_HOST_CTL_BUSY then s.logReg .busy .newt A.NWT_HOST_CTL
  else if !s.newtUp then s
  else
    let (code, h) := headOfBytes (s.hostBuf 16)
    let d := (s.hostBuf (16 + min h.length 69632)).drop 16
    let r := match h.fails d with
      | some st => s.refuse st
      | none =>
        if !mcKnown code then s.refuse .opcodeInvalid
        else if !s.mailboxMay code then s.refuse .accessDenied
        else s.mgmtBase whoMailbox code d
    let reply := replyBytes code r.st h.tag r.data
    let s := (r.recorded h.tag).writeHostBuf reply
    let a := A.NWT_HOST_CTL
    let s := ((s.wr a F.NWT_HOST_CTL_DONE 1).wr a F.NWT_HOST_CTL_STATUS r.st.code).wr a F.NWT_HOST_CTL_LENGTH reply.length
    s.doAfter r.after

end Sys2Proof.Machine
end

