-- ==== Sys2Proof/Machine/View.lean ====
section
/-!
DEFINITION. Which register a BAR0 offset reaches and who may see it (spec/18_register_map.md R536, R540, R542, Table 18.2), and
the planes whose blocks are not served (spec/15_management_subsystem.md R475, spec/16_power_reset_boot.md R514).
-/
namespace Sys2Proof.Machine

/-- The register word that a BAR0 offset reaches, its key, and whether the window it is reached through is RO. -/
structure Site where
  loc : Loc
  key : Nat
  ro : Bool
deriving DecidableEq, Repr

/-- The key of an offset that is a multiple of 8, and whether it lies in an RO window (R540). -/
def Chip.windowKey (s : Chip) (off : Nat) : Nat × Bool :=
  if Nat.ble 0xE80000 off && Nat.blt off 0xEC0000 then (A.PTN_RANGE s.shadowV 0 + (off - 0xE80000), false)
  else if Nat.ble 0xEC0000 off && Nat.blt off 0xF00000 then (A.PTN_RANGE s.active 0 + (off - 0xEC0000), true)
  else if Nat.ble 0x400000 off && Nat.blt off 0x600000 && off % 0x4000 == 0 then
    (A.PRT_PROFILE s.active ((off - 0x400000) / 0x4000), true)
  else if Nat.ble 0x400000 off && Nat.blt off 0x600000 && off % 0x4000 == 8 then
    (A.PRT_PROFILE s.shadowV ((off - 0x400000) / 0x4000), false)
  else (off, false)

/-- The registers whose last index 1 is an active copy (R411, Table 12.4), and slot 0 of PTN_TRUST (R438). -/
def Loc.isCopy (l : Loc) : Bool :=
  match l.kind with
  | .tmgCfg => l.i == 1
  | .tmgMeterRate | .tmgMeterBurst | .tmgClass => l.j == 1
  | .tmgOutRate | .tmgOutBurst => l.k == 1
  | .ptnTrust => l.i == 0
  | _ => false

/-- The register word at a BAR0 offset; none where nothing is assigned (R536). -/
def Chip.site (s : Chip) (off : Nat) : Option Site :=
  if Nat.ble 0x4000000 off then none
  else
    let (key, ro) := s.windowKey (off / 8 * 8)
    (locateKey key).map (fun l => { loc := l, key := key, ro := ro || l.isCopy })

/-- The arrays that hold owner bytes, four to a word (R417, R537). -/
def RegKind.isOwnArray : RegKind → Bool
  | .ptnOwnWg | .ptnOwnBank | .ptnOwnHbm | .ptnOwnDram | .ptnOwnFlash | .ptnOwnTrayc | .seqCblkOwner => true
  | _ => false

/-- Every bit of a word, and none. -/
def allBits : Nat := 2 ^ 64 - 1

/-- The bits of a register word that virtual function `p` reads (Table 18.2); 0 outside its view. -/
def Chip.vfSees (s : Chip) (p : Nat) (l : Loc) : Nat :=
  let part (b : Bool) : Nat := if b then allBits else 0
  let port (n : Nat) : Nat := part (s.owner (A.PRT_OWNER n) == some p)
  if l.kind.isOwnArray then allBits
  else
    match l.kind with
    | .glbBootStatus | .glbId | .pceStatus | .pceTb | .pcePwrStatus | .rteEpoch | .keyStatus => allBits
    | .prtOwner | .celOwner | .mtxOwner => allBits
    | .prtStatus | .prtLinkCfg | .prtErrCnt | .prtFecCorr | .prtKeyStatus | .prtCtl | .prtTrain | .prtTrainTimer => port l.i
    | .prtProfile => port l.j
    | .tmgMeterRate | .tmgMeterBurst | .tmgMeterState | .tmgMeterCnt => port (l.i / 8)
    | .swcQuota | .swcUsage | .tmgClass | .ptnState | .keyMem | .errFaultCfg | .errFaultPtr | .errFault => part (l.i == p)
    | .tmgOutRate | .tmgOutBurst | .ptnPart => part (l.j == p)
    | .homHost => part (s.flag l.base F.HOM_HOST_ASSIGNED && s.rd l.base F.HOM_HOST_PARTITION == p)
    | .homLost => part (s.rd l.base F.HOM_LOST_PARTITION == p)
    | .homVregion => part (s.rd l.base F.HOM_VREGION_PARTITION == p)
    | .homOwn => part (s.rd l.base F.HOM_OWN_PARTITION == p)
    | .tirDportMap => port (4 * l.i)
    | .ptnRange => part (s.rd l.base F.PTN_RANGE_PARTITION == p)
    | .celCfg | .celStatus | .celOutstanding | .celCtl => part (s.owner (A.CEL_OWNER l.i) == some p)
    | .mtxStatus | .mtxOutstanding | .mtxCtl => part (s.owner (A.MTX_OWNER l.i) == some p)
    | .cdcSlot => if s.owner (A.CDC_SLOT l.i) == some p then allBits else 0xFFFF
    | .cdcTable => part (s.owner (A.CDC_SLOT l.i) == some p)
    | .seqQCfg | .seqQSched | .seqQSqBase | .seqQCqBase | .seqQRing | .seqQState | .seqQCtl => part (l.i / 16 == p)
    | .seqCounter => part (s.owner (unitAddr 9 (l.i / 64)) == some p)
    | _ => 0

/-- The bits of a register word that a source reads (R479, R542). -/
def Chip.seenBy (s : Chip) (src : Source) (l : Loc) : Nat :=
  match src with
  | .vf p => s.vfSees p l
  | _ => allBits

/-- The partition of a virtual function. -/
def Source.part : Source → Option Nat
  | .vf p => some p
  | _ => none

/-- Whether a function's BAR accesses have no effect and read zero: those of a virtual function whose partition does not exist
(R337), and those to other blocks than GLB and ERR before READY (R514). -/
def Chip.deaf (s : Chip) (src : Source) (off : Nat) : Bool :=
  let served := s.ready || Nat.blt off 0x100000 || (Nat.ble 0x1800000 off && Nat.blt off 0x1A00000)
  match src with
  | .pf => !served
  | .vf p => s.pstate p == psFREE || !served
  | .newt => false

/-- What an access to a block of a plane in reset, or in Eaves, completes with (R24, R475). -/
def Chip.unserved (s : Chip) (off : Nat) : Option Status :=
  let plane := (blockSubsys off).plane
  if plane == 2 then none
  else if s.flag A.GLB_BOOT_STATUS (if plane == 0 then F.GLB_BOOT_STATUS_DP_RESET else F.GLB_BOOT_STATUS_CP_RESET) then some .busy
  else if s.inEaves then some .waking
  else none

end Sys2Proof.Machine
end

