-- ==== Sys2Proof/Machine/Writers.lean ====
section
/-!
DEFINITION. The rules that stand before a register write (spec/18_register_map.md R537 to R549 and the rules of each block): who
may write a register, when it may not be written, which values it refuses and which fields it leaves as they are.
-/
namespace Sys2Proof.Machine

/-! ### Who -/

/-- Registers that Newt firmware alone writes (R54, R397, R461, R544). -/
def RegKind.newtOnly : RegKind → Bool
  | .pcePolicy | .pceTbParent | .pceMwdog | .swcSampleCfg | .swcSampleFilter | .errRepairAddr | .errRepairCtl | .errRepairData => true
  | _ => false

/-- Registers that Newt firmware writes from a signed image alone (R56, R91, R329). -/
def RegKind.imageOnly : RegKind → Bool
  | .pceCurve | .tirProf | .tirProfTimer | .prtTrain | .prtTrainTimer => true
  | _ => false

/-- Registers that the function of a queue writes (R303). -/
def RegKind.ofQueue : RegKind → Bool
  | .seqQSqBase | .seqQCqBase | .seqQRing | .seqQCtl => true
  | _ => false

/-- The registers of the NWT block (R479). -/
def RegKind.ofNewt : RegKind → Bool
  | .nwtStatus | .nwtVersion | .nwtHostCtl | .nwtHostBuf | .nwtSensor => true
  | _ => false

/-- Whether a source may write a register at all; `image` is whether Newt firmware loads an image. -/
def Chip.mayWrite (s : Chip) (src : Source) (image : Bool) (l : Loc) : Bool :=
  match src with
  | .vf p =>
    (l.kind.ofQueue && l.i / 16 == p && s.rd (A.SEQ_Q_CFG l.i) F.SEQ_Q_CFG_SOURCE == 2)
      || (l.kind == .errFaultPtr && l.i == p)
  | .pf =>
    !(l.kind.newtOnly || l.kind.imageOnly || (l.kind.ofNewt && l.kind != .nwtHostCtl && l.kind != .nwtHostBuf))
  | .newt =>
    !((l.kind.imageOnly && !image) || l.kind.ofQueue || l.kind == .errFaultPtr || (l.kind.ofNewt && l.kind != .nwtHostCtl))

/-! ### When -/

/-- Whether a partition has a running kernel or an open collective (R460). -/
def Chip.computing (s : Chip) (p : Nat) : Bool :=
  s.seq.colls.any (fun c => c.part == p)
    || s.seq.cmds.any (fun m => m.part == p && opIsKernel (slotOp m.slot) && (m.phase == .ready || m.phase == .running))

/-- The status of a write that the state of the part does not allow now (R303, R371, R460, R546). -/
def Chip.notNow (s : Chip) (w : WordWrite) : Option Status :=
  let l := w.loc
  let table (v : Nat) : Option Status := if s.closed v then none else some .busy
  match l.kind with
  | .seqQCfg | .seqQSched | .seqQSqBase | .seqQCqBase | .seqQRing => if s.qEnabled l.i then some .busy else none
  | .rteGutter | .rtePgroup | .rteRoute | .rteMcast | .ptnPart | .ptnRange | .prtProfile => table l.i
  | .tirDomainId =>
    let held (n : Nat) : Bool := [trayATTACHING, trayREADY, trayDRAINING].contains (s.trayState n)
    if (upFrom 0 32).any held then some .busy else none
  | .errShadowCfg =>
    if w.touches F.ERR_SHADOW_CFG_MODE && s.computing (s.rd l.base F.ERR_SHADOW_CFG_PARTITION) then some .busy else none
  | _ => none

/-! ### What -/

/-- Whether the RWL fields of a register are locked (R11, R420). -/
def Chip.lockedAt (s : Chip) (l : Loc) : Bool :=
  match s.rwlPart l with
  | some p => s.locked p
  | none => false

/-- The encodings of R13 that one field alone does not show, on the state as the write would leave it (R186, R410, R517, R535,
R546). -/
def Chip.jointOk (s : Chip) (w : WordWrite) : Bool :=
  let l := w.loc
  let a := l.base
  match l.kind with
  | .tirFtlCfg0 => Nat.ble (s.rd a F.TIR_FTL_CFG0_GC_LOW + 1) (s.rd a F.TIR_FTL_CFG0_GC_HIGH)
  | .tirTierCfg => Nat.ble (s.rd a F.TIR_TIER_CFG_PRESS_LOW + 1) (s.rd a F.TIR_TIER_CFG_PRESS_HIGH)
  | .tmgMeterRate => Nat.ble (s.rd a F.TMG_METER_RATE_CIR) (s.rd a F.TMG_METER_RATE_PIR)
  | .tmgOutRate => Nat.ble (s.rd a F.TMG_OUT_RATE_CIR) (s.rd a F.TMG_OUT_RATE_PIR)
  | .tmgMeterBurst => Nat.ble (s.rd a F.TMG_METER_BURST_CBS) (s.rd a F.TMG_METER_BURST_PBS)
  | .tmgOutBurst => Nat.ble (s.rd a F.TMG_OUT_BURST_CBS) (s.rd a F.TMG_OUT_BURST_PBS)
  | .glbPadCfg =>
    (l.i != 0 || s.rd a F.GLB_PAD_CFG_SLEW == 0) && (l.i != 7 || s.rd a F.GLB_PAD_CFG_FILTER == 0)
      && (l.i == 2 || l.i == 6 || !s.flag a F.GLB_PAD_CFG_SPREAD_EN)
  | .pcePwrCtl => !(w.sets F.PCE_PWR_CTL_EAVES_ENTER && w.sets F.PCE_PWR_CTL_WAKE)
  | .homVregion => !(w.touches F.HOM_VREGION_VALID && s.flag a F.HOM_VREGION_VALID) || s.regionFits l.i
  | _ => true

/-- Whether the reserves fit the descriptors (R384), on the state as the write would leave it. -/
def Chip.reservesFit (s : Chip) : Bool :=
  let mins := (s.listed (A.SWC_QUOTA 0) 16 64).foldl (fun n p => n + s.rd (A.SWC_QUOTA p) F.SWC_QUOTA_MIN_UNITS) 0
  Nat.ble (mins + 128 * s.rd A.RTE_CFG F.RTE_CFG_GUTTER_SEGS + 512) (196608 - s.sw.retiredDesc)

/-- The status with which the whole write is discarded (R13, R384); `t` is the state as the write would leave it. -/
def Chip.wholeFails (s t : Chip) (w : WordWrite) : Option Status :=
  if !s.encodingOk w || !t.jointOk w then some .formatInvalid
  else if w.loc.kind == .swcQuota
      && !(t.reservesFit && Nat.ble (t.rd w.loc.base F.SWC_QUOTA_MIN_UNITS) (t.rd w.loc.base F.SWC_QUOTA_MAX_UNITS)) then some .quota
  else none

/-- The fields that a rule leaves as they are, each with the status under which that is logged, if it is (R548, and R16, R53,
R160, R163, R384, R545, R549). -/
def Chip.leftOut (s : Chip) (src : Source) (w : WordWrite) : List (Fld × Option Status) :=
  let l := w.loc
  let a := l.base
  let differs (f : FieldSpec) : Bool := s.fieldAfter w f != s.rd a f.fld
  let locks := if s.lockedAt l then
      (l.specs.filter (fun f => f.acc == .rwl && w.touches f.fld && differs f)).map (fun f => (f.fld, some Status.accessDenied))
    else []
  let drop (c : Bool) (f : Fld) (st : Option Status) : List (Fld × Option Status) := if c then [(f, st)] else []
  let own := match l.kind with
    | .homHost =>
      drop (w.sets F.HOM_HOST_DECLARE && src != .newt) F.HOM_HOST_DECLARE (some .accessDenied)
        ++ drop (w.sets F.HOM_HOST_FAILED && src != .pf) F.HOM_HOST_FAILED (some .accessDenied)
        ++ drop (w.sets F.HOM_HOST_FAILED && src == .pf && s.flag a F.HOM_HOST_WALKING) F.HOM_HOST_FAILED none
    | .pceStatus => drop (w.sets F.PCE_STATUS_AVS_FAULT && src != .newt) F.PCE_STATUS_AVS_FAULT (some .accessDenied)
    | .pceTbAdj =>
      let o := F.PCE_TB_ADJ_OFFSET_NS
      let changes := mergeBits 32 (s.rd a o) (w.maskOf o) (w.dataOf o) != s.rd a o
      drop (changes && !(src == .newt && s.flag A.PCE_TB_PARENT F.PCE_TB_PARENT_ROOT)) o (some .accessDenied)
    | .nwtHostCtl => drop (w.sets F.NWT_HOST_CTL_GO && src == .newt) F.NWT_HOST_CTL_GO (some .accessDenied)
    | .tirDportMap =>
      let z := F.TIR_DPORT_MAP_SIZE
      drop (w.touches z && mergeBits 20 (s.rd a z) (w.maskOf z) (w.dataOf z) == 2 ^ 20 - 1) z (some .lengthRange)
    | .rteCfg =>
      let g := F.RTE_CFG_GUTTER_SEGS
      let v := mergeBits 11 (s.rd a g) (w.maskOf g) (w.dataOf g)
      drop (w.touches g && v != s.rd a g && !(s.wr a g v).reservesFit) g (some .quota)
    | _ => []
  locks ++ own

end Sys2Proof.Machine
end

