-- ==== Sys2Proof/Machine/Bus.lean ====
section
/-!
DEFINITION. Register accesses (spec/18_register_map.md R536 to R549): what a write does beside storing its fields, owner bytes
(R417, R539), complement repair (spec/14_errors_and_reliability.md R450), reads (R545) and doorbells in BAR2 (R543).
-/
namespace Sys2Proof.Machine

/-- A record of a register access that a rule refuses. -/
def Chip.refuseAccess (s : Chip) (src : Source) (st : Status) (off : Nat) : Chip :=
  s.log { status := st, subsys := blockSubsys off, partition := src.part, addrKind := 4, addr := off }

/-! ### What writes start -/

/-- PRT_CTL (R341). -/
def Chip.portControl (s : Chip) (n : Nat) (retrain clear : Bool) : Chip :=
  let s := if clear then
      let s := { s with regs := (s.regs.setWord (A.PRT_ERR_CNT n) 0).setWord (A.PRT_FEC_CORR n) 0 }
      (s.wr (A.PRT_STATUS n) F.PRT_STATUS_UNMATCHED 0).wr (A.PRT_STATUS n) F.PRT_STATUS_WAKING_DROPS 0
    else s
  if !retrain then s
  else if s.mode n == modeOFF then s.logReg .busy .portArray (A.PRT_CTL n)
  else s.retrain n

/-- SWC_CTL (R394, Table 11.8). -/
def Chip.switchControl (s : Chip) (audit clear : Bool) : Chip :=
  let s := if clear then
      let s := { s with regs := s.regs.setWord A.SWC_DROPS 0 }
      (upFrom 0 64).foldl (fun s p => s.wr (A.SWC_USAGE p) F.SWC_USAGE_PEAK 0) s
    else s
  let busy := (upFrom 0 128).any s.inService || (upFrom 0 64).any (fun e => s.flag (A.CEL_STATUS e) F.CEL_STATUS_RUNNING)
    || (upFrom 0 16).any (fun t => s.flag (A.MTX_STATUS t) F.MTX_STATUS_RUNNING)
  if !audit then s
  else if busy then s.logReg .busy .switchCore A.SWC_CTL
  else s.audit

/-- TMG_CTL.CLEAR_COUNTS (R414). -/
def Chip.clearMeterCounts (s : Chip) : Chip :=
  (s.resetRegs (A.TMG_METER_CNT 0) (A.TMG_METER_CNT 1024)).wr A.TMG_STATUS F.TMG_STATUS_CHECKS 0

/-- A repair (R450): an entry that fails its check takes the value of ERR_REPAIR_DATA with its complement, and an event of code 3
is written; one that passes, or that no complement protects, is left alone. -/
def Chip.repair (s : Chip) : Chip :=
  let off := s.rd A.ERR_REPAIR_ADDR F.ERR_REPAIR_ADDR_OFFSET
  let data := s.regs.span (A.ERR_REPAIR_DATA 0) 8
  let passes := s.logReg .busy .newt A.ERR_REPAIR_CTL
  let done (s : Chip) : Chip := s.logEvent (blockSubsys off) 3 4 off
  match s.site off with
  | none => passes
  | some x =>
    let l := x.loc
    let own := x.key + off % 8
    let isOwn := (l.kind.isOwnArray && off % 2 == 0)
      || ([RegKind.prtOwner, .celOwner, .mtxOwner, .cdcSlot].contains l.kind && off % 8 == 0)
    if isOwn then (if s.ownerOk own then passes else done (s.setOwner own data))
    else if !l.kind.hasComplement || l.word != 0 || off % 8 != 0 || s.checked l.base l.kind.words then passes
    else done { s with regs := s.regs.setProtected l.base l.kind.words data }

/-- HOM_HOST[e] has been written (R125, R153 to R160, R163); `old` is the state before. -/
def Chip.hostSet (s old : Chip) (e : Nat) (declare : Bool) : Chip :=
  let a := A.HOM_HOST e
  let caches (s : Chip) : Bool := s.flag a F.HOM_HOST_ASSIGNED && s.flag a F.HOM_HOST_CACHING
  let back := old.flag a F.HOM_HOST_FAILED && !s.flag a F.HOM_HOST_FAILED
  let s := if back then s.wr a F.HOM_HOST_LOST_LINES 0 else s
  let s := if !caches s then s.stopTimer (.heartbeat e)
    else if back || (!caches old && !s.flag a F.HOM_HOST_FAILED) then s.startHeartbeat e
    else s
  if !declare then s
  else if caches s then s.declareFailed e
  else s.logReg .formatInvalid .homeAgent a

/-- HOM_VREGION[i] has been written (R186). -/
def Chip.regionSet (s old : Chip) (i : Nat) : Chip :=
  let a := A.HOM_VREGION i
  let was := old.flag a F.HOM_VREGION_VALID
  let now := s.flag a F.HOM_VREGION_VALID
  if now && !was then s.startRegion i else if was && !now then s.endRegion i else s

/-- What a write starts once its fields are stored; `old` is the state before it, `keep` the fields left out. -/
def Chip.afterWrite (s old : Chip) (src : Source) (w : WordWrite) (keep : List Fld) : Chip :=
  let l := w.loc
  let on (f : Fld) : Bool := w.sets f && !keep.contains f
  match l.kind with
  | .glbResetCtl =>
    let s := if on F.GLB_RESET_CTL_DATA then s.requestReset 0 2 else s
    let s := if on F.GLB_RESET_CTL_CONTROL then s.requestReset 1 2 else s
    if on F.GLB_RESET_CTL_RELEASE then s.bootRelease else s
  | .pcePolicy => s.policySet
  | .pceTbParent => (s.parentSet (old.flag A.PCE_TB_PARENT F.PCE_TB_PARENT_EN)).syncTime
  | .pceTbAdj =>
    if src == .newt && w.touches F.PCE_TB_ADJ_OFFSET_NS && !keep.contains F.PCE_TB_ADJ_OFFSET_NS then
      s.ptpOffset (signedOf 32 (s.rd A.PCE_TB_ADJ F.PCE_TB_ADJ_OFFSET_NS))
    else s
  | .pceMwdog => if on F.PCE_MWDOG_KICK then s.kickWatchdog else s
  | .pcePwrCtl => s.powerControl (on F.PCE_PWR_CTL_EAVES_ENTER) (on F.PCE_PWR_CTL_WAKE)
  | .nwtHostCtl => if on F.NWT_HOST_CTL_GO then s.mailboxGo else s
  | .prtCtl => s.portControl l.i (on F.PRT_CTL_RETRAIN) (on F.PRT_CTL_CLEAR_COUNTS)
  | .rteEpochCtl => s.epochControl (w.data &&& w.mask)
  | .swcCtl => s.switchControl (on F.SWC_CTL_AUDIT) (on F.SWC_CTL_CLEAR_DROPS)
  | .swcSampleCfg =>
    if s.flag A.SWC_SAMPLE_CFG F.SWC_SAMPLE_CFG_EN && !old.flag A.SWC_SAMPLE_CFG F.SWC_SAMPLE_CFG_EN then
      { s with sw := { s.sw with sampleNo := 0 } }
    else s
  | .tmgCfg | .tmgMeterRate | .tmgMeterBurst | .tmgClass | .tmgOutRate | .tmgOutBurst =>
    { s with traffic := { s.traffic with written := s.traffic.written.put w.key s.raw } }
  | .tmgCtl => if on F.TMG_CTL_CLEAR_COUNTS then s.clearMeterCounts else s
  | .homVregion => s.regionSet old l.i
  | .homHost => s.hostSet old l.i (on F.HOM_HOST_DECLARE)
  | .seqQCtl => s.queueControl l.i (w.data &&& w.mask)
  | .celCtl => if on F.CEL_CTL_RESET then s.engineReset l.i else s
  | .mtxCtl => if on F.MTX_CTL_RESET then s.engineReset (64 + l.i) else s
  | .errRepairCtl => if on F.ERR_REPAIR_CTL_GO then s.repair else s
  | _ => s

/-! ### Writes -/

/-- A write of a register of fields (R548): discarded whole, or applied field by field, with one record for each rule that
discards some; then what it starts. -/
def Chip.writeFields (s : Chip) (src : Source) (w : WordWrite) (off : Nat) : Chip :=
  let left := s.leftOut src w
  let keep := left.map (·.1)
  let t := s.applyWord w (s.lockedAt w.loc) keep
  match s.wholeFails t w with
  | some st => s.refuseAccess src st off
  | none =>
    let t := ([Status.accessDenied, .lengthRange, .quota].filter (fun st => left.any (fun x => x.2 == some st))).foldl
      (fun t st => t.refuseAccess src st off) t
    t.afterWrite s src w keep

/-- A write of curve entries (R537): each is checked and written on its own. -/
def Chip.writeCurve (s : Chip) (src : Source) (w : WordWrite) (off : Nat) : Chip :=
  (w.loc.specs.filter (fun f => w.touches f.fld)).foldl (fun s f =>
    if f.legal.ok (s.fieldAfter w f) then s.applyField w false f
    else s.refuseAccess src .formatInvalid (off + 2 * (f.fld.lo / 16))) s

/-- The kind of unit whose owner bytes a register holds, and the number of the unit in 16-bit entry `h` of the word
(Table 13.1). -/
def Loc.unit (l : Loc) (h : Nat) : Option (Nat × Nat) :=
  match l.kind with
  | .celOwner => if h == 0 then some (0, l.i) else none
  | .mtxOwner => if h == 0 then some (1, l.i) else none
  | .ptnOwnWg => some (2, 4 * l.i + h)
  | .ptnOwnBank => some (3, 4 * l.i + h)
  | .ptnOwnHbm => some (4, 4 * l.i + h)
  | .ptnOwnDram => some (5, 4 * l.i + h)
  | .ptnOwnFlash => some (6, 4 * l.i + h)
  | .ptnOwnTrayc => some (7, 4 * l.i + h)
  | .prtOwner => if h == 0 then some (8, l.i) else none
  | .seqCblkOwner => some (9, 4 * l.i + h)
  | .cdcSlot => if h == 0 then some (10, l.i) else none
  | _ => none

/-- A write of owner bytes (R417, R539): one after the other, each with its complement. -/
def Chip.writeOwners (s : Chip) (src : Source) (w : WordWrite) (off : Nat) : Chip :=
  (upFrom 0 4).foldl (fun s h =>
    match w.loc.unit h with
    | none => s
    | some (k, n) =>
      if bits w.mask (16 * h) 16 == 0 then s
      else
        let v := mergeBits 16 (s.ownerHalf (unitAddr k n)) (bits w.mask (16 * h) 16) (bits w.data (16 * h) 16)
        if v % 256 + v / 256 != 255 then s.refuseAccess src .tableCheck (off + 2 * h) else s.writeOwner k n (v % 256)) s

/-- Whether a width is one that R537 accepts for a write. -/
def writeWidthOk (k : Option RegKind) (off bytes : Nat) : Bool :=
  let narrow := k.elim false (fun k => k.isOwnArray || k == .pceCurve)
  (bytes == 4 || bytes == 8 || (bytes == 2 && narrow)) && off % bytes == 0

/-- A write of some bits of an assigned register in a plane that is served. -/
def Chip.writeWord (s : Chip) (src : Source) (image : Bool) (x : Site) (off data mask : Nat) : Chip :=
  let w : WordWrite := { loc := x.loc, key := x.key, data := data, mask := mask }
  let entry := off / 8 * 8 - 8 * x.loc.word
  if !s.mayWrite src image x.loc then s.refuseAccess src .accessDenied entry
  else if x.ro then s
  else
    match s.notNow w with
    | some st => s.refuseAccess src st entry
    | none =>
      if (x.loc.unit 0).isSome then s.writeOwners src w (off / 8 * 8)
      else if x.loc.kind == .pceCurve then s.writeCurve src w (off / 8 * 8)
      else s.writeFields src w entry

/-- A write of `bytes` bytes at a BAR0 offset. `image` is whether Newt firmware loads an image with it (R56, R91). -/
def Chip.busWrite (s : Chip) (src : Source) (image : Bool) (off bytes data : Nat) : Chip :=
  let x := s.site off
  if s.deaf src off || (x.elim 0 (fun x => s.seenBy src x.loc) == 0 && src.part.isSome) then s
  else if !writeWidthOk (x.map (·.loc.kind)) off bytes then s.refuseAccess src .formatInvalid off
  else
    match x with
    | none => s.refuseAccess src .accessDenied off
    | some x =>
      match s.unserved off with
      | some st => s.refuseAccess src st off
      | none =>
        let sh := 8 * (off % 8)
        s.writeWord src image x off ((data % 2 ^ (8 * bytes)) <<< sh) ((2 ^ (8 * bytes) - 1) <<< sh)

/-! ### Reads -/

/-- The latch of PCE_TB_HI of a source, and one loaded (R545). -/
def Chip.latch (s : Chip) (src : Source) : Nat :=
  match src with
  | .pf => s.latchPf
  | .vf p => (s.latchVf.find p).getD 0
  | .newt => s.latchNewt
def Chip.setLatch (s : Chip) (src : Source) (v : Nat) : Chip :=
  match src with
  | .pf => { s with latchPf := v }
  | .vf p => { s with latchVf := s.latchVf.put p v }
  | .newt => { s with latchNewt := v }

/-- A register word as a read of `bytes` bytes of it finds it, and the state after: a read of PCE_TB_LO loads the reader's latch
(R67, R545). -/
def Chip.readWord (s : Chip) (src : Source) (x : Site) (off bytes : Nat) : Chip × Nat :=
  if x.loc.kind == .pceTb then
    let lo := s.tb % 2 ^ 32
    let hi := s.tb / 2 ^ 32 % 2 ^ 32
    let s' := if Nat.blt (off % 8) 4 then s.setLatch src hi else s
    (s', lo + (if bytes == 8 then hi else s.latch src) <<< 32)
  else if x.loc.kind == .swcFree then
    let t := (s.wr A.SWC_FREE F.SWC_FREE_FREE_SEGS s.freeSegs).wr A.SWC_FREE F.SWC_FREE_FREE_DESC s.freeDesc
    (s, (t.regs.word x.key).toNat)
  else (s, (s.regs.word x.key).toNat &&& s.seenBy src x.loc)

/-- A read of `bytes` bytes at a BAR0 offset: the state after, and the value (R536, R537, R542). -/
def Chip.busRead (s : Chip) (src : Source) (off bytes : Nat) : Chip × Nat :=
  let x := s.site off
  let sees := x.elim 0 (fun x => s.seenBy src x.loc)
  if s.deaf src off || (sees == 0 && src.part.isSome) then (s, 0)
  else if !([1, 2, 4, 8].contains bytes && off % bytes == 0) then (s.refuseAccess src .formatInvalid off, 0)
  else
    match x with
    | none => (s, 0)
    | some x =>
      if (s.unserved off).isSome then (s, 0)
      else
        let (s, v) := s.readWord src x off bytes
        (s, bits v (8 * (off % 8)) (8 * bytes))

/-! ### BAR2 (R543) -/

/-- A write in BAR2: a doorbell, where it is 32 or 64 bits wide at a doorbell's offset of a queue of the function; else nothing. -/
def Chip.doorbell (s : Chip) (src : Source) (off bytes data : Nat) : Chip :=
  let q := off / 0x1000
  let reg := off % 0x1000
  let free := src.part.elim false (fun p => s.pstate p == psFREE)
  if free || !s.ready || !(bytes == 4 || bytes == 8) || Nat.ble 0x400000 off || !src.hasPage q then s
  else if reg == 0 then (s.sqTail src q (data % 2 ^ 32)).doorbellWakes
  else if reg == 8 then (s.cqHead src q (data % 2 ^ 32)).doorbellWakes
  else s

end Sys2Proof.Machine
end

