-- ==== Sys2Proof/Machine/Spdm.lean ====
section
/-!
DEFINITION. SPDM measurements (spec/13_partitions_and_security.md R435 to R437, Table 13.9) and IDE key management on the host
attach port (spec/09_ports_and_links.md R338).
-/
namespace Sys2Proof.Machine

/-- The request that bytes spell, as SPDM 1.3 lays them out: version, code, two parameters. PRESUMED (log entry 46): the manual
names SPDM 1.3 and does not repeat it. -/
def spdmParse (d : List Byte) : SpdmReq :=
  if leAt d 1 1 == 0xE0 then .measurement (leAt d 3 1) (bitAt (leAt d 2 1) 1) else .other (leAt d 1 1) (d.drop 2)

/-- A bitmap of the units of kind `k` that partition `p` owns, padded to a whole byte (R436). -/
def Chip.unitBitmap (s : Chip) (k p : Nat) : List Byte :=
  let n := (s.unitsOf k p).foldl (fun n u => n + 2 ^ u) 0
  bytesOfNat (ceilDiv (unitCount k) 8) n

/-- The partition record (R436). The header's bytes hold p, STATE, SAMPLE_OK, the filter bit and the LIVE mask in that order
(log entry 52). -/
def Chip.partitionRecord (s : Chip) (p : Nat) : List Byte :=
  let q := A.SWC_QUOTA p
  [BitVec.ofNat 8 p, BitVec.ofNat 8 (s.pstate p), BitVec.ofNat 8 (s.rd q F.SWC_QUOTA_SAMPLE_OK),
    BitVec.ofNat 8 (b2n (bitAt (s.rd A.SWC_SAMPLE_FILTER F.SWC_SAMPLE_FILTER_PARTITIONS) p)),
    BitVec.ofNat 8 (s.rd (A.KEY_MEM p) F.KEY_MEM_LIVE), 0, 0, 0]
  ++ bytesOfNat 8 (s.regs.word q).toNat ++ (upFrom 0 11).flatMap (fun k => s.unitBitmap k p)

/-- The active version of the tables of block 4: words that differ from their reset values, by key. -/
def Chip.activeTables (s : Chip) : List (Nat × Word) :=
  let v := s.active
  s.regs.filter (fun e => match locateKey e.1 with
    | some l => l.i == v && [RegKind.rteGutter, .rtePgroup, .rteRoute, .rteMcast, .ptnPart, .ptnRange, .prtProfile].contains l.kind
    | none => false)

/-- A measurement block (Table 13.9): its raw form where it has one and that is asked for, else its digest. -/
def Chip.measurement (s : Chip) (index : Nat) (raw : Bool) : Option (List Byte) :=
  let form (b : List Byte) : List Byte := if raw then b else bytesOfNat 64 (Config.sha512 b)
  if index == 1 then some (bytesOfNat 64 Config.bootRomDigest)
  else if index == 2 then some (bytesOfNat 64 (Config.sha512 (s.newt.image.flatMap (·.2))))
  else if index == 3 then some (form Config.securityFuses)
  else if index == 4 then some (bytesOfNat 64 (Config.tableDigest s.activeTables))
  else if Nat.ble 16 index && Nat.blt index 80 then some (form (s.partitionRecord (index - 16)))
  else none

/-- Whether a requester receives a block (R436); `fn` is a virtual function's partition. -/
def mayMeasure (fn : Option Nat) (index : Nat) : Bool :=
  match fn with
  | none => true
  | some p => (Nat.ble 1 index && Nat.ble index 4) || index == 16 + p

/-- The code and the content of an SPDM response: MEASUREMENTS (0x60) with the block, ERROR (0x7F) where the requester receives no
such block, or what another request is answered (log entry 46). -/
def Chip.spdmReply (s : Chip) (fn : Option Nat) (r : SpdmReq) : Nat × List Byte :=
  match r with
  | .measurement i raw =>
    match (if mayMeasure fn i then s.measurement i raw else none) with
    | some b => (0x60, b)
    | none => (0x7F, [])
  | .other c d => (c % 128, Config.spdmAnswer c d)

/-- An SPDM request to the physical function (none) or to virtual function `p` (R436); a function that is not enabled answers
nothing (R337). -/
def Chip.spdmRequest (s : Chip) (fn : Option Nat) (r : SpdmReq) : Chip :=
  if fn.elim false (fun p => s.pstate p == psFREE) then s
  else
    let a := s.spdmReply fn r
    s.emitOut (.spdm fn a.1 a.2)

/-- An IDE_KM request on the host attach port (R338): QUERY, K_SET_GO and K_SET_STOP are answered, KEY_PROG with the failure status,
and no key is installed. K_SET_GO takes the stream out of its insecure state. -/
def Chip.ideRequest (s : Chip) (code stream : Nat) : Chip :=
  let s := if code == 4 then { s with power := { s.power with insecure := s.power.insecure.filter (· != stream) } } else s
  s.emitOut (.ideKm code (if code == 2 then 1 else 0))

/-- An IDE integrity failure of a stream (R338). -/
def Chip.ideFailure (s : Chip) (stream : Nat) : Chip :=
  let s := { s with power := { s.power with insecure := distinct (s.power.insecure ++ [stream]) } }
  s.log { status := .accessDenied, subsys := .hostPort }

end Sys2Proof.Machine
end

