-- ==== Sys2Proof/Machine/Manage.lean ====
section
/-!
DEFINITION. Management sessions and their commands (spec/15_management_subsystem.md R469 to R478, R488, R491), and what follows of
itself after a command (log entry 10).
-/
namespace Sys2Proof.Machine

/-! ### Sessions (R469 to R471) -/

/-- Session `n` changed. -/
def Chip.modSession (s : Chip) (n : Nat) (f : Session → Session) : Chip :=
  s.modNewt (fun w => { w with sessions := w.sessions.mapAt n f })

/-- The idle limit of a session, in ns. -/
def Chip.idleLimit (s : Chip) : Nat := s.newt.config.policy.idle * 1000000000

/-- The anchors of a role. -/
def NvConfig.hasRole (c : NvConfig) (role : Nat) : Bool := c.anchors.any (fun e => e.2.role == role)

/-- A session opens in the lowest free place (R469, R470). -/
def Chip.openSession (s : Chip) (port : Nat) (anchor : Option Nat) (role : Role) : Chip :=
  match (upFrom 0 8).find? (fun n => (s.newt.sessions.find n).isNone) with
  | none => s
  | some n =>
    let s := (s.generate 64).2
    let s := s.modNewt (fun w => { w with sessions := w.sessions.put n { port := port, anchor := anchor, role := role } })
    (s.startTimer (.session n) s.idleLimit).newtEvent 0x21 (port <<< 8 + (anchor.getD 0) <<< 16)

/-- A TLS handshake arrives at management port `port`: the digest of the peer's root certificate, whether every other check of R469
passes, and whether the certificate is self-consistent. A ninth is refused at the TCP level. The alert in the record of a refusal
is a free value. -/
def Chip.handshake (s : Chip) (port digest : Nat) (ok selfOk : Bool) : Chip :=
  if !s.newtUp || Nat.ble 8 s.newt.sessions.length then s
  else
    let refused : Chip := let r := s.draw; r.2.newtEvent 0x22 (port <<< 8 + (r.1 % 256) <<< 16)
    if !ok then refused
    else if !s.newt.config.hasRole 1 then
      if s.enrolStrap && selfOk then s.openSession port none .enrol else refused
    else
      match s.newt.config.anchors.find? (fun e => e.2.digest == digest && e.2.role != 0) with
      | some (slot, a) => s.openSession port (some slot) (if a.role == 1 then .operator else .auditor)
      | none => refused

/-- The idle limit of session `n` runs out. -/
def Chip.sessionIdle (s : Chip) (n : Nat) : Chip :=
  match s.expire (.session n) with
  | none => s
  | some s => s.endSession n

/-- Whether a role may issue a command (Table 15.6, R471), and recovery admits it (R494). -/
def Chip.mayIssue (s : Chip) (r : Role) (code : Nat) : Bool :=
  let role := match r with
    | .operator => true
    | .auditor => (Nat.ble 1 code && Nat.ble code 4) || code == mcSPDM || code == mcREG_READ
    | .enrol => code == mcANCHOR_SET || code == mcIDENTIFY || code == mcSPDM
  let boot := !s.recovering || code == mcIDENTIFY || (Nat.ble mcIMAGE_BEGIN code && Nat.ble code mcIMAGE_END)
    || (code == mcANCHOR_SET && s.enrolStrap)
  role && boot

/-! ### The commands of sessions -/

/-- A subscription (R474): on, refused where another session holds it, or off. -/
def subscribe (sub : Option (Nat × Nat)) (n tag : Nat) (on : Bool) : Option (Option (Nat × Nat)) :=
  match sub with
  | some (m, t) => if m == n then some (if on then some (n, tag) else none) else if on then none else some (some (m, t))
  | none => some (if on then some (n, tag) else none)

/-- LOG_SUBSCRIBE and SAMPLE_SUBSCRIBE. -/
def Chip.mgmtSubscribe (s : Chip) (samples : Bool) (n tag : Nat) (d : List Byte) : MgmtRes :=
  if d.length != 1 || Nat.ble 2 (leAt d 0 1) then s.refuse .formatInvalid
  else
    match subscribe (if samples then s.newt.sampleSub else s.newt.logSub) n tag (leAt d 0 1 == 1) with
    | none => s.refuse .busy
    | some x => { s := s.modNewt (fun w => if samples then { w with sampleSub := x } else { w with logSub := x }) }

/-- REG_READ (R475): the words, or the status of a plane that is not served. -/
def Chip.mgmtRegRead (s : Chip) (d : List Byte) : MgmtRes :=
  let off := leAt d 0 4
  let n := leAt d 4 2
  if d.length != 6 || off % 8 != 0 then s.refuse .formatInvalid
  else if Nat.blt 512 n || Nat.blt 0x4000000 (off + 8 * n) then s.refuse .lengthRange
  else
    match (upFrom 0 n).findSome? (fun i => s.unserved (off + 8 * i)) with
    | some st => s.refuse st
    | none =>
      let r := (upFrom 0 n).foldl (fun (acc : Chip × List Byte) i =>
        let x := acc.1.busRead .newt (off + 8 * i) 8
        (x.1, acc.2 ++ bytesOfNat 8 x.2)) (s, [])
      { s := r.1, data := r.2 }

/-- The status of the first record written from SEQ_NO `from_` on that reports a discarded register access: no event, of kind Error
or not, with the address of a register (R475). -/
def Chip.statusSince (s : Chip) (from_ : Nat) : Status :=
  ((upFrom from_ (s.errSeq - from_)).findSome? (fun k =>
    let a := A.ERR_LOG (k % 4096)
    if s.rd a F.ERR_LOG_STATUS != 0 && !s.flag a F.ERR_LOG_EVENT && s.rd a F.ERR_LOG_ADDR_KIND == 4 then
      Status.ofCode (s.rd a F.ERR_LOG_STATUS)
    else none)).getD .ok

/-- REG_WRITE (R475): a write with the authority of Newt firmware of the bits of the mask. -/
def Chip.mgmtRegWrite (s : Chip) (d : List Byte) : MgmtRes :=
  let off := leAt d 0 4
  if d.length != 24 || leAt d 4 4 != 0 || off % 8 != 0 then s.refuse .formatInvalid
  else
    match s.unserved off with
    | some st => s.refuse st
    | none =>
      let t := match s.site off with
        | none => s.refuseAccess .newt .accessDenied off
        | some x => s.writeWord .newt false x off (leAt d 8 8) (leAt d 16 8)
      { s := t, st := t.statusSince s.errSeq, logged := true }

/-- DECLARE (R477). -/
def Chip.mgmtDeclare (s : Chip) (d : List Byte) : MgmtRes :=
  let kind := leAt d 0 1
  let i := leAt d 2 2
  let caching := s.flag (A.HOM_HOST i) F.HOM_HOST_ASSIGNED && s.flag (A.HOM_HOST i) F.HOM_HOST_CACHING
  if d.length != 4 || leAt d 1 1 != 0 || Nat.ble 2 kind || (kind == 0 && Nat.ble 16384 i) || (kind == 1 && Nat.ble 32 i) then
    s.refuse .formatInvalid
  else
    match s.unserved (if kind == 0 then A.HOM_HOST i else A.TIR_TRAY_STATUS i) with
    | some st => s.refuse st
    | none =>
      if kind == 0 then
        if !caching then s.refuse .formatInvalid
        else if s.hostFailed i then s.refuse .busy
        else { s := s.declareFailed i }
      else if s.trayState i == trayLOST then s.refuse .busy
      else { s := s.loseTray i }

/-- PLANE_RESET. -/
def Chip.mgmtPlaneReset (s : Chip) (d : List Byte) : MgmtRes :=
  let p := leAt d 0 1
  if d.length != 1 || Nat.ble 3 p then s.refuse .formatInvalid
  else if p == 2 then { s := s, after := .reset 3 3 }
  else { s := s.requestReset p 3 }

/-- SVN_ADVANCE (R491). -/
def Chip.mgmtSvnAdvance (s : Chip) (d : List Byte) : MgmtRes :=
  let t := leAt d 0 1
  if d.length != 1 || t == 0 || Nat.ble 64 t then s.refuse .formatInvalid
  else if Nat.blt t s.fusedSvn || Nat.blt (s.rd A.NWT_STATUS F.NWT_STATUS_IMAGE_SVN) t then s.refuse .quota
  else
    let s := s.modNewt (fun n => { n with fusedSvn := t })
    { s := s, data := bytesOfNat 1 s.fusedSvn }

/-- Anchors changed by `f`, slot `slot` among them (R478): BUSY where no OPERATOR would remain, but in a boot with ENROLL_EN high. -/
def Chip.changeAnchor (s : Chip) (slot role : Nat) (f : Tab Anchor → Tab Anchor) : MgmtRes :=
  let c := { s.newt.config with anchors := f s.newt.config.anchors }
  if s.newt.config.hasRole 1 && !c.hasRole 1 && !s.enrolStrap then s.refuse .busy
  else
    let s := s.saveConfig (fun c => { c with anchors := f c.anchors })
    { s := s.newtEvent 0x2F (slot <<< 8 + role <<< 16), after := .endAnchor slot }

/-- ANCHOR_SET and ANCHOR_CLEAR (R478). -/
def Chip.mgmtAnchorSet (s : Chip) (d : List Byte) : MgmtRes :=
  let slot := leAt d 0 1
  let role := leAt d 1 1
  let digest := leAt d 8 64
  if d.length != 72 || Nat.ble 4 slot || role == 0 || Nat.ble 3 role || leAt d 2 6 != 0 || digest == 0 then s.refuse .formatInvalid
  else s.changeAnchor slot role (fun t => t.put slot { role := role, digest := digest })
def Chip.mgmtAnchorClear (s : Chip) (d : List Byte) : MgmtRes :=
  let slot := leAt d 0 1
  if d.length != 1 || Nat.ble 4 slot then s.refuse .formatInvalid
  else s.changeAnchor slot 0 (fun t => t.erase slot)

/-- NET_CONFIG (R474): the record of the port in byte 0; the sessions of the port end after the reply. -/
def Chip.mgmtNetConfig (s : Chip) (d : List Byte) : MgmtRes :=
  let port := leAt d 0 1
  if d.isEmpty || Nat.ble 2 port then s.refuse .formatInvalid
  else { s := s.saveConfig (fun c => { c with nets := c.nets.put port (d.drop 1) }), after := .endPort port }

/-- Whether a policy record holds no reserved value (Table 15.3). -/
def Policy.ok (p : Policy) : Bool :=
  Nat.ble 10 p.idle && Nat.ble p.idle 3600 && bits p.causes 1 10 * 2 == p.causes
    && p.thresholds.all (fun t => Nat.blt t.index 340 && Nat.blt t.warnHigh 65536 && Nat.blt t.warnLow 65536)

/-- POLICY_SET (R467, R474, R482). -/
def Chip.mgmtPolicySet (s : Chip) (p : Policy) : MgmtRes :=
  if !p.ok then s.refuse .formatInvalid
  else { s := (s.saveConfig (fun c => { c with policy := p })).applyThresholds }

/-- A command of session `n` past its first three checks (Table 15.6); CMD_SUBMIT is apart. -/
def Chip.mgmtCommand (s : Chip) (n : Nat) (m : MgmtMsg) : MgmtRes :=
  let c := m.code
  let d := m.data
  if c == mcLOG_SUBSCRIBE then s.mgmtSubscribe false n m.head.tag d
  else if c == mcSAMPLE_SUBSCRIBE then s.mgmtSubscribe true n m.head.tag d
  else if c == mcSPDM then { s := s, data := (s.spdmReply none (spdmParse d)).2 }
  else if c == mcREG_READ then s.mgmtRegRead d
  else if c == mcREG_WRITE then s.mgmtRegWrite d
  else if c == mcDECLARE then s.mgmtDeclare d
  else if c == mcPLANE_RESET then s.mgmtPlaneReset d
  else if c == mcSVN_ADVANCE then s.mgmtSvnAdvance d
  else if c == mcANCHOR_SET then s.mgmtAnchorSet d
  else if c == mcANCHOR_CLEAR then s.mgmtAnchorClear d
  else if c == mcNET_CONFIG then s.mgmtNetConfig d
  else if c == mcPOLICY_SET then s.mgmtPolicySet m.policy
  else s.mgmtBase n c d

/-- The reply of a command of session `n`, its record, and what follows it (R442, R474). -/
def Chip.mgmtReply (n : Nat) (m : MgmtMsg) (r : MgmtRes) : Chip :=
  ((r.recorded m.head.tag).emitOut (.mgmt n m.code false r.st.code m.head.tag r.data)).doAfter r.after

/-- Why CMD_SUBMIT cannot place its packet (R475, R476). -/
def Chip.submitFails (s : Chip) (d : List Byte) : Option Status :=
  if d.length != 64 then some .formatInvalid
  else if s.flag A.GLB_BOOT_STATUS F.GLB_BOOT_STATUS_CP_RESET then some .busy
  else if s.asleep then some .waking
  else none

/-- A message of session `n` runs (R474). -/
def Chip.mgmtRun (s : Chip) (n : Nat) (role : Role) (m : MgmtMsg) : Chip :=
  let bad (st : Status) : Chip := Chip.mgmtReply n m (s.refuse st)
  match m.head.fails m.data with
  | some st => bad st
  | none =>
    if !mcKnown m.code then bad .opcodeInvalid
    else if !s.mayIssue role m.code then bad .accessDenied
    else if m.code == mcCMD_SUBMIT then
      match s.submitFails m.data with
      | some st => bad st
      | none =>
        let slot := natOfBytes m.data
        (s.modSession n (fun x => { x with running := some m.head.tag })).submit newtQueue (slotQueue slot / 16) (.newt n) slot
    else Chip.mgmtReply n m (s.mgmtCommand n m)

/-- A message arrives on session `n` (R470, R474, R476): it waits where a command of the session runs. -/
def Chip.mgmtArrive (s : Chip) (n : Nat) (m : MgmtMsg) : Chip :=
  if !s.newtUp then s
  else
    match s.newt.sessions.find n with
    | none => s
    | some x =>
      let s := s.startTimer (.session n) s.idleLimit
      if x.running.isSome || !x.waiting.isEmpty then s.modSession n (fun x => { x with waiting := x.waiting ++ [m] })
      else s.mgmtRun n x.role m

/-! ### What follows of itself -/

/-- The messages of session `n` that waited run, until one of them waits in its turn. -/
def Chip.runWaiting (n : Nat) : Nat → Chip → Chip
  | 0, s => s
  | k + 1, s =>
    match s.newt.sessions.find n with
    | none => s
    | some x =>
      match x.running, x.waiting with
      | none, m :: l => Chip.runWaiting n k ((s.modSession n (fun x => { x with waiting := l })).mgmtRun n x.role m)
      | _, _ => s

/-- Commands of Newt's path that have ended are answered (R476): the reply of CMD_SUBMIT is the command's own. -/
def Chip.deliver (s : Chip) : Chip :=
  let l := s.seq.newtDone
  let s := s.modSeq (fun q => { q with newtDone := [] })
  l.foldl (fun s e =>
    match e with
    | (n, tag, st, res) =>
      match s.newt.sessions.find n with
      | none => s
      | some x =>
        match x.running with
        | none => s
        | some t =>
          let r : Reply := { tag := tag, status := st, queue := 0, result := res, notify := false }
          let s := s.modSession n (fun x => { x with running := none })
          Chip.runWaiting n (x.waiting.length + 1) (s.emitOut (.mgmt n mcCMD_SUBMIT false 0 t (bytesOfNat 16 (r.word 0))))) s

/-- The part goes on until nothing changes, Newt's own commands answered as they end. -/
def Chip.serve : Nat → Chip → Chip
  | 0, s => s.finish
  | k + 1, s =>
    let s := s.finish
    if s.seq.newtDone.isEmpty then s else Chip.serve k s.deliver

/-- What follows of itself after a command (log entry 10): the pool, the home and the sequencer go on, Newt answers, what was owed
is loaded, and the status that follows from other state is brought up to date. -/
def Chip.conclude (s : Chip) : Chip :=
  let waiting := s.newt.sessions.foldl (fun n e => n + e.2.waiting.length) 0
  (((Chip.serve (waiting + 2) s).loadProfiles).syncTime).syncNewt

/-- A tick of 1 ns passes with no command waiting (log entry 1). -/
def Chip.idleTick (s : Chip) : Chip := (s.advance 1).spiDone

end Sys2Proof.Machine
end

