-- ==== Sys2Proof/Machine/Arrivals.lean ====
section
/-!
DEFINITION. What a command of the table does where it puts several operations together: arrivals of packets, flits and tray
answers, timers that expire, one bit of a register written, and command packets by their fields.
-/
namespace Sys2Proof.Machine

/-! ### Packets that reach this E9 -/

/-- A packet bound for a consumer on this E9: taken from the buffer where it is there (R366), applied by `f`, and counted at the
destination edge (R365). -/
def Chip.consume (s : Chip) (p : Packet) (f : Chip → Chip) : Chip :=
  let (s, now) := s.takeLocal p
  if now then (f s).flowApplied p else s

/-- The same for a consumer of a data class that says whether it applied the packet. A packet with SEGS 0 has no effect, is
answered OK and counts (R343); one that the consumer discards does not count, and a fenced one leaves its interval at 0
(R365, R368; log entry 55). -/
def Chip.consumeIf (s : Chip) (p : Packet) (f : Chip → Chip × Bool) : Chip :=
  let (s, now) := s.takeLocal p
  if !now then s
  else
    let (s, took) := if p.segs == 0 && classIsData p.cls then (s.send (s.statusAnswer p .ok 0), true) else f s
    if took then s.flowApplied p else if p.fence && !p.mcast then s.setArrivals p.src p.fgen 0 else s

/-- A COLL packet is applied here, or held in the buffer as an early arrival (R209, R211, Table 11.1). -/
def Chip.collPacket (s : Chip) (p : Packet) : Chip :=
  if !s.earlyHere p then s.consumeIf p (fun s => s.collIn p)
  else
    match s.releasedLocal p with
    | some sl => (s.setHeld sl.id .early).noteEarly p sl.id
    | none =>
      let (s, now) := s.takeLocal p
      if now then s.earlyNew p else s

/-- An AtomicAny (R147, R149): combined here, executed at this home, or sent on. One that would overflow an entry closes it
and is forwarded as it stands. -/
def Chip.atomicIn (s : Chip) (p : Packet) : Chip :=
  let port := match s.sw.slots.find? (fun sl => sl.pkt == p && sl.copies.any (fun c => c.out == localPort)) with
    | some sl => sl.inPort
    | none => localPort
  s.consume p (fun s =>
    let full := s.overfull p
    match if full.isSome then none else s.combine p with
    | some s => s
    | none =>
      let s := match full with | some n => s.closeComb n | none => s
      if p.dst == s.selfEid then s.homeRequest p none
      else
        let r := if s.mode port == modeF || s.mode port == modeD || port == localPort then s.fromSource p port true none
          else s.offer p port false true none
        (r.1.answerDiscard r.2.2).settle)

/-- What a STATUS answer for this E9 itself says: a digest of shadow comparison (R459), or the answer to a write, an add or a
collective packet (R180, R218). -/
def Chip.statusFor (s : Chip) (p : Packet) : Chip :=
  let b := StatusBody.ofBody p.body
  let (s, digest) := s.takeDigest p
  if digest then s
  else if b.origClass == clsWRITE || b.origClass == clsCOUNTER then
    (s.takeAnswer b.tag ((Status.ofCode b.status).getD .formatInvalid)).1
  else s.partialAnswered p

/-- A STATUS tadpole (R347, R367): the fence it answers completes, and an answer for an attached endpoint passes on. -/
def Chip.statusIn (s : Chip) (p : Packet) : Chip :=
  if !statusReservedZero p.body then s
  else
    let port := s.sourceOf p.dst
    let s := s.fenceAnswered port (StatusBody.ofBody p.body)
    if port != localPort then s else s.consume p (fun s => s.statusFor p)

/-- A FENCE_DONE tadpole at the source edge (R367). -/
def Chip.fenceDoneIn (s : Chip) (p : Packet) : Chip :=
  s.consume p (fun s =>
    let g := bits p.body 0 2
    let k := flowKey (s.sourceOf p.dst) (bits p.body 2 10)
    if (s.flow k).out.any (fun e => e.1 == g) then s.fenceComplete k g else s)

/-! ### Trays, gangs and engines -/

/-- The answer of a tray in TRAY_DATA or TRAY_CPL (R348): TTAG, the status, and the sector. One
with SEGS 0 has no effect (R343). -/
def Chip.trayIn (s : Chip) (p : Packet) : Chip :=
  s.consume p (fun s =>
    if p.cls == clsTRAY_DATA && p.segs == 0 then s else
    s.trayAnswer (bits p.body 96 32) (if bits p.body 88 8 == 0 then .ok else .uncorrectable) (p.payload.take 256))

/-- The transaction timer of a requester expires (R139, Table 2.4): its request completes with TIMEOUT. -/
def Chip.timedOut (s : Chip) (t : TimedTxn) : Chip :=
  match t with
  | .ask tag =>
    match s.expire (.txn tag) with
    | none => s
    | some s => (s.endAsk tag .timeout 0 []).tellAskers
  | .tray ttag =>
    match s.expire (.tray ttag) with
    | none => s
    | some s => s.trayAnswer ttag .timeout []

/-- The cleaner's scan (R97): tiles marked at the last scan and still dirty are programmed, tiles dirty now are marked. -/
def Chip.cleanScan (s : Chip) : Chip :=
  let s := (s.expire .cleaner).getD s
  let s := s.startTimer .cleaner (ms (s.rd A.TIR_TIER_CFG F.TIR_TIER_CFG_CLEAN_MS))
  if s.asleep then s
  else
    (upFrom 0 64).foldl (fun s p =>
      (s.tieredTiles p).foldl (fun s e =>
        let s := if e.2.state == .dramDirty && e.2.scanMark then s.program e.1 false else s
        s.modTile e.1 (fun x => { x with scanMark := x.state == .dramDirty })) s) s

/-- The code word of a held line that an engine reads (R445, R446, Table 14.5): a dirty line that fails is lost. -/
def Chip.lineRead (s : Chip) (p line : Nat) (ecc : EccResult) : Chip :=
  match ecc with
  | .clean => s
  | .corrected => s.corrected .tierManager line
  | .failed => (s.dataLost p (64 * line)).dropLine (cacheKey p roleENGINE 0 line)

/-- An engine's pool read outside a command the model carries (R109): a hit among the ENGINE lines of its partition, else a
RdCurrent of the line to its home. An engine without a partition has nothing to read. -/
def Chip.engineRead (s : Chip) (e addr : Nat) (ecc : EccResult) : Chip :=
  match s.engineOf e with
  | none => s
  | some p =>
    let line := addr / 64
    match s.cached p roleENGINE 0 line with
    | some _ => s.lineRead p line ecc
    | none => (s.ask (.job 0 (line / 4)) p 0 s.selfEid { msg := mRdCurrent, lmask := 2 ^ (line % 4), saddr := line / 4 } []).1

/-- An engine's pool write outside a command the model carries (R109, R170): checked, cut at line boundaries, and made or kept
waiting for its fills. -/
def Chip.engineWrite (s : Chip) (e addr : Nat) (data : List Byte) : Chip :=
  match s.engineOf e with
  | none => s
  | some p =>
    match s.poolMay p addr data.length with
    | some st => s.logPool st p addr
    | none =>
      let s := (linesIn addr data.length).foldl (fun s l =>
        let lo := max addr (64 * l)
        let hi := min (addr + data.length) (64 * l + 64)
        let k := s.pool.nextEngWrite
        let w : EngWrite := { id := k, part := p, addr := lo, data := (data.drop (lo - addr)).take (hi - lo) }
        s.modPool (fun q => { q with engWrites := q.engWrites ++ [w], nextEngWrite := k + 1 })) s
      s.engineWrites

/-- Return codes of a mode D mailbox. PRESUMED (log entry 53): the manual names Unsupported and gives no code. -/
def mailboxUnsupported : Nat := 3

/-- A mailbox reply of gang `g`, where it is a mode D gang (R124). -/
def Chip.gangMailbox (s : Chip) (g code : Nat) (data : List Byte) : Chip :=
  if s.mode (4 * g) == modeD then s.emitOut (.mailboxD g code data) else s

/-- A mailbox command whose payload no rule lays out (R124; log entry 53). -/
def Chip.gangLog (s : Chip) (g cmd : Nat) : Chip :=
  let (k, s) := (s.free, { s with free := s.free + 1 })
  s.gangMailbox g 0 (Config.cxlMailbox g cmd k)

/-- The bytes of an event record: handle, status, pool address and time (R123; log entry 53). -/
def MediaEvent.bytes (e : MediaEvent) : List Byte :=
  bytesOfNat 8 e.handle ++ bytesOfNat 8 e.status ++ bytesOfNat 8 e.addr ++ bytesOfNat 8 e.time

/-- The device event log of gang `g` (R123). -/
def Chip.gangEvents (s : Chip) (g : Nat) : List MediaEvent := (s.pool.media.find g).getD []

/-- Event records with these handles leave the device event log. -/
def Chip.clearGangEvents (s : Chip) (g : Nat) (handles : List Nat) : Chip :=
  if s.mode (4 * g) == modeD then
    s.modPool (fun q => { q with media := q.media.mapAt g (fun l => l.filter (fun e => !handles.contains e.handle)) })
  else s

/-! ### Ports and outputs -/

/-- A flit arrives on port `n` (R321, R322, R330). -/
def Chip.flitArrives (s : Chip) (n : Nat) (f : Flit) (crossingFull : Bool) : Chip :=
  if f.kind == 2 && !f.rsv then
    (s.bump (A.PRT_FEC_CORR n) F.PRT_FEC_CORR_CORRECTED (2 ^ 64 - 1) f.fecCorr).trainMessage n f.msg f.fecOk
  else
    let (s, limit, wakes) := s.flitIn n f crossingFull
    let s := if limit then s.replayLimit n else s
    if wakes then s.trafficWakes else s

/-- The replay timer of port `n` expires (R324). -/
def Chip.replayExpired (s : Chip) (n : Nat) : Chip :=
  match s.expire (.replay n) with
  | none => s
  | some s =>
    let (s, limit) := s.replay n
    if limit then s.replayLimit n else s

/-- The training timer of port `n` expires (R329), and so does the backoff of DOWN. -/
def Chip.trainExpired (s : Chip) (n : Nat) : Chip :=
  match s.expire (.training n) with
  | none => s
  | some s => s.trainEvent n tevTIMER 0
def Chip.backoffOver (s : Chip) (n : Nat) : Chip :=
  match s.expire (.backoff n) with
  | none => s
  | some s => s.enable n

/-- A packet whose code word fails when output `o` reads it (R446, Table 14.5): discarded and answered with UNCORRECTABLE, its
segment withheld from the free list. -/
def Chip.packetLost (s : Chip) (sl : Slot) : Chip :=
  let s := { s with sw := { s.sw with withheldSegs := s.sw.withheldSegs + 1 } }
  let s := (s.uncorrectable .switchCore).logDiscard sl.pkt .uncorrectable none sl.inPort
  ((s.dropSlot sl.id).answerDiscard (some (sl.pkt, .uncorrectable))).settle

/-- The traffic manager serves output `o` (R398); `ecc` is what the check symbols of the packet read say. A packet handed to the
transmitter of its destination's own port, or to its gang, is applied there (R365). -/
def Chip.serveOutput (s : Chip) (o : Nat) (ecc : EccResult) : Chip :=
  if !s.inService o || s.inEaves then s
  else
    match s.selectOutput o with
    | none => s
    | some (s, sl) =>
      match ecc with
      | .failed => s.packetLost sl
      | _ =>
        let s := if ecc == .corrected then s.corrected .switchCore sl.id else s
        let s := if s.mode o == modeD then (s.toGang (o / 4) sl.pkt).copyDone sl.id o else s.queueUnits o sl.id sl.pkt
        if s.atDestEdge sl.pkt then s.flowApplied sl.pkt else s

/-! ### Timers -/

/-- The profile timer of tray `n` (R90), its binding timer (R93) and the absence timer of port `n` (R117). -/
def Chip.profileExpired (s : Chip) (n : Nat) : Chip :=
  match s.expire (.profile n) with
  | none => s
  | some s => s.profileEvent n pevTIMER 0
def Chip.bindExpired (s : Chip) (n : Nat) : Chip :=
  match s.expire (.binding n) with
  | none => s
  | some s => s.loseTray n
def Chip.absenceExpired (s : Chip) (n : Nat) : Chip :=
  match s.expire (.absence n) with
  | none => s
  | some s => s.absent n

/-- No Heartbeat of caching host `e` within its interval (R153); nothing in Eaves, where the timers stand still. -/
def Chip.heartbeatMissed (s : Chip) (e : Nat) : Chip :=
  if s.asleep then s
  else
    match s.expire (.heartbeat e) with
    | none => s
    | some s => s.declareFailed e

/-- The walk for failed host `e` ends (R155). -/
def Chip.walkDone (s : Chip) (e : Nat) : Chip :=
  match s.expire (.walk e) with
  | none => s
  | some s => s.wrB (A.HOM_HOST e) F.HOM_HOST_WALKING false

/-- Combining entry `n` reaches the end of its window (R147). -/
def Chip.combWindow (s : Chip) (n : Nat) : Chip :=
  match s.expire (.combining n) with
  | none => s
  | some s => s.closeComb n

/-- The HANDOFF record `i` runs out (R194); nothing in Eaves. -/
def Chip.handoffOver (s : Chip) (i : Nat) : Chip := if s.asleep then s else s.handoffExpired i

/-- The reassembly timer of a buffered packet (R386): its segments are freed and its source gets TIMEOUT. -/
def Chip.reassemblyExpired (s : Chip) (id : Nat) : Chip :=
  match s.expire (.reassembly id), s.slot? id with
  | some s, some sl =>
    let n := sl.inPort
    let s := s.modPort n (fun p => { p with rxPacket := p.rxPacket.map (fun r =>
      if r.slot == some id then { r with slot := none, orphan := true } else r) })
    let may := match (s.port n).logR386 with | some t => Nat.ble (t + 1000000) s.raw | none => true
    let at_ := if Nat.blt n 128 then A.PRT_STATUS n else A.SWC_DROPS
    let s := if may then (s.logReg .timeout .switchCore at_).modPort n (fun p => { p with logR386 := some s.raw }) else s
    (((s.count A.SWC_DROPS F.SWC_DROPS_REASM_TIMEOUTS).dropSlot id).answerDiscard (some (sl.pkt, .timeout))).settle
  | some s, none => s
  | none, _ => s

/-- A fenced packet has been held for FENCE_HOLD_US (R368): discarded and answered, its interval's count back at 0. -/
def Chip.fenceHoldExpired (s : Chip) (id : Nat) : Chip :=
  match s.expire (.fenceHold id), s.slot? id with
  | some s, some sl =>
    let p := sl.pkt
    let s := (s.setArrivals p.src p.fgen 0).count A.RTE_DROPS1 F.RTE_DROPS1_FENCE_TIMEOUT
    let s := s.logFault { status := .timeout, subsys := .routeUnit, partition := some p.partition, addrKind := p.address.1,
                          addr := p.address.2, srcEid := p.src, port := sl.inPort, tag := p.tag }
      p.partition .fenceTimeout { addrKind := p.address.1, addr := p.address.2, eid := p.src }
    ((s.dropSlot id).answerDiscard (some (p, .timeout))).settle
  | some s, none => s
  | none, _ => s

/-- The outstanding fence of interval `g` towards edge `edge` of the source at port `port` ends unanswered (R367). -/
def Chip.sourceFenceOver (s : Chip) (port edge g : Nat) : Chip :=
  let k := flowKey port edge
  match s.expire (.sourceFence k g) with
  | none => s
  | some s => s.fenceComplete k g

/-- The management watchdog reaches 1 s (R465): the management plane is reset. -/
def Chip.managementLate (s : Chip) : Chip :=
  match s.expire .management with
  | none => s
  | some s => (s.log { status := .timeout, subsys := .newt, addrKind := 4, addr := A.PCE_MWDOG }).mgmtReset 2 7

/-- The management plane is reset for a cause (R497, Table 15.11). -/
def Chip.resetManagement (s : Chip) (c : MgmtCause) : Chip :=
  match c with
  | .lockstep => s.mgmtReset 1 6
  | .watchdog => s.mgmtReset 2 7
  | .planeReset => s.mgmtReset 3 3
  | .sramError => s.mgmtReset 4 8
  | .activation => s.mgmtReset 5 9

/-- Newt firmware resets the planes that hold a stuck stage (R72, R496). -/
def Chip.resetStuck (s : Chip) : Chip :=
  let l := s.power.stuck
  l.foldl (fun s p => s.requestReset p 4) (s.modPower (fun w => { w with stuck := [] }))

/-- The number of a plane. -/
def Plane.num (p : Plane) : Nat := match p with | .data => 0 | .control => 1

/-! ### One bit of a register -/

/-- A write of 64 bits that sets field `f` of the register word at `off` and holds every other field at its value: RW fields are written
back, W1C and WO fields are written 0. -/
def Chip.writeBit (s : Chip) (src : Source) (off : Nat) (f : Fld) : Chip :=
  let keep := ((locateKey off).map (fun l => (l.specs.filter (fun x => x.acc == .rw || x.acc == .rwl)).foldl
    (fun n x => n + (s.rd off x.fld) <<< x.fld.lo) 0)).getD 0
  s.busWrite src false off 8 (keep ||| 2 ^ f.lo)

/-- An owner byte and its complement written through the register map (R417): 2 bytes in the packed arrays, 4 in the register of a
cell, a matrix tile, a port or a codebook slot. `half` is the byte with its complement above it. -/
def Chip.writeOwnerByte (s : Chip) (src : Source) (kind n half : Nat) : Chip :=
  let wide := kind == 0 || kind == 1 || kind == 8 || kind == 10
  s.busWrite src false (unitAddr kind n) (if wide then 4 else 2) half

/-- A pad group is configured (R531): during an SPI transfer of Newt the old setting of group 2 stays on the pads to its end. -/
def Chip.padWrite (s : Chip) (src : Source) (g data : Nat) (spi : Bool) : Chip :=
  let old := (s.regs.word (A.GLB_PAD_CFG g)).toNat
  let s := s.busWrite src false (A.GLB_PAD_CFG g) 8 data
  if g == 2 && spi then s.modPower (fun w => { w with padWait := some (w.padWait.getD old) }) else s

/-! ### Command packets -/

/-- A command packet reaches the sequencer (R271, R274, R276, R476): as the next slot fetched from its queue's ring, as a slot of a
CMD packet, or on Newt's path. A ring without a fetch under way stands for one (log entry 14). -/
def Chip.issueSlot (s : Chip) (h : CmdHead) (w : Nat) : Chip :=
  let q := h.queue.val
  match h.from_ with
  | .ring =>
    if (s.queue q).fetching != 0 then (s.slotsIn q [w]).conclude
    else if s.qEnabled q && s.qSource q != 3 && !s.asleep then (s.submit q (q / 16) .ring w).conclude
    else s
  | .fabric e => ((s.cmdSlot e.val (q / 16) w).1).conclude
  | .newt => if s.flag A.GLB_BOOT_STATUS F.GLB_BOOT_STATUS_CP_RESET || s.asleep then s
    else (s.submit newtQueue (q / 16) (.newt 17) w).conclude

/-- The command packet of a head, an opcode and parameters reaches the sequencer. -/
def Chip.issue (s : Chip) (h : CmdHead) (op : Nat) (l : List Par) : Chip := s.issueSlot h (h.packet op l)

end Sys2Proof.Machine
end

