-- ==== Sys2Proof/Machine/RowsColl.lean ====
section
/-!
DEFINITION. The meanings of the commands of collectives, rows 94 to 106 of spec/opcode_table.json.
-/
namespace Sys2Proof.Machine

/-- REDUCE. R205, R208, Table 8.6: the plan stands at an STG offset. -/
def execReduce (h : CmdHead) (plan : Nat) (s : State) : Host.Outcome State Fault Refusal :=
  .next (s.run (fun s => s.issue h oREDUCE [par 8 38 plan]))

/-- ALLREDUCE. R35, R205, Table 8.6: the plan stands at an STG offset. -/
def execAllreduce (h : CmdHead) (plan : Nat) (s : State) : Host.Outcome State Fault Refusal :=
  .next (s.run (fun s => s.issue h oALLREDUCE [par 8 38 plan]))

/-- REDUCE_SCATTER. R205, Table 8.6: the plan stands at an STG offset. -/
def execReduceScatter (h : CmdHead) (plan : Nat) (s : State) : Host.Outcome State Fault Refusal :=
  .next (s.run (fun s => s.issue h oREDUCE_SCATTER [par 8 38 plan]))

/-- ALLGATHER. R205, Table 8.6: the plan stands at an STG offset. -/
def execAllgather (h : CmdHead) (plan : Nat) (s : State) : Host.Outcome State Fault Refusal :=
  .next (s.run (fun s => s.issue h oALLGATHER [par 8 38 plan]))

/-- BROADCAST. R205, Table 8.6: the plan stands at an STG offset. -/
def execBroadcast (h : CmdHead) (plan : Nat) (s : State) : Host.Outcome State Fault Refusal :=
  .next (s.run (fun s => s.issue h oBROADCAST [par 8 38 plan]))

/-- SMAX_MERGE. R215, Table 8.6: the plan stands at an STG offset. -/
def execSmaxMerge (h : CmdHead) (plan : Nat) (s : State) : Host.Outcome State Fault Refusal :=
  .next (s.run (fun s => s.issue h oSMAX_MERGE [par 8 38 plan]))

/-- TOPK. R222, Table 8.6: the plan stands at an STG offset. -/
def execTopk (h : CmdHead) (plan : Nat) (s : State) : Host.Outcome State Fault Refusal :=
  .next (s.run (fun s => s.issue h oTOPK [par 8 38 plan]))

/-- SAMPLE. R223, Table 8.6: the plan stands at an STG offset. -/
def execSample (h : CmdHead) (plan : Nat) (s : State) : Host.Outcome State Fault Refusal :=
  .next (s.run (fun s => s.issue h oSAMPLE [par 8 38 plan]))

/-- COLL_PACKET. R209: a COLL packet arrives. -/
def execCollPacket (p : Packet) (s : State) : Host.Outcome State Fault Refusal :=
  .next (s.run (fun s => (s.collPacket p).conclude))

/-- EARLY_ARRIVAL_EXPIRY. R211: early arrivals of a collective have been held for one collective timeout. -/
def execEarlyArrivalExpiry (part : Fin 64) (coll : Nat) (s : State) : Host.Outcome State Fault Refusal :=
  .next (s.run (fun s => (s.earlyExpired part.val coll).conclude))

/-- COLLECTIVE_WATCHDOG_EXPIRY. R217: the collective watchdog of open collective `key` expires. -/
def execCollectiveWatchdogExpiry (key : Nat) (s : State) : Host.Outcome State Fault Refusal :=
  .next (s.run (fun s => (s.collExpired key).conclude))

/-- ABORT_TADPOLE. R219: an ABORT tadpole arrives. -/
def execAbortTadpole (p : Packet) (s : State) : Host.Outcome State Fault Refusal :=
  .next (s.run (fun s => (s.consume p (fun s => s.abortIn p)).conclude))

/-- ABORT_MEMORY_EXPIRY. R219: an abort kept for a COLL_ID is forgotten. -/
def execAbortMemoryExpiry (part : Fin 64) (coll : Nat) (s : State) : Host.Outcome State Fault Refusal :=
  .next (s.run (fun s => (s.abortForgotten part.val coll).conclude))

end Sys2Proof.Machine
end

