-- ==== Sys2Proof/Machine/RowsHome.lean ====
section
/-!
DEFINITION. The meanings of the commands of the home agent, combining and the pool write cache, rows 20 to 40 of spec/opcode_table.json.
-/
namespace Sys2Proof.Machine

/-- RD_SHARED. R136, Table 4.6: a RdShared reaches the home. -/
def execRdShared (p : Packet) (s : State) : Host.Outcome State Fault Refusal :=
  .next (s.run (fun s => (s.consume p (fun s => s.homeRequest p none)).conclude))

/-- RD_OWN. R136, Table 4.6: a RdOwn reaches the home. -/
def execRdOwn (p : Packet) (s : State) : Host.Outcome State Fault Refusal :=
  .next (s.run (fun s => (s.consume p (fun s => s.homeRequest p none)).conclude))

/-- RD_CURRENT. R136, Table 4.6: a RdCurrent reaches the home. -/
def execRdCurrent (p : Packet) (s : State) : Host.Outcome State Fault Refusal :=
  .next (s.run (fun s => (s.consume p (fun s => s.homeRequest p none)).conclude))

/-- WRBACK. R137: a WrBack reaches the home. -/
def execWrBack (p : Packet) (s : State) : Host.Outcome State Fault Refusal :=
  .next (s.run (fun s => (s.consume p (fun s => s.homeRequest p none)).conclude))

/-- CLEAN_EVICT. R136: a CleanEvict reaches the home. -/
def execCleanEvict (p : Packet) (s : State) : Host.Outcome State Fault Refusal :=
  .next (s.run (fun s => (s.consume p (fun s => s.homeRequest p none)).conclude))

/-- ATOMIC_ANY. R147, R149: an AtomicAny arrives at this E9. -/
def execAtomicAny (p : Packet) (s : State) : Host.Outcome State Fault Refusal :=
  .next (s.run (fun s => (s.atomicIn p).conclude))

/-- HEARTBEAT. R154: a Heartbeat of a caching host. -/
def execHeartbeat (p : Packet) (s : State) : Host.Outcome State Fault Refusal :=
  .next (s.run (fun s => (s.consume p (fun s => s.heartbeat p)).conclude))

/-- SNOOP_RESPONSE. R140, R141: a response to a snoop reaches the home. -/
def execSnoopResponse (p : Packet) (s : State) : Host.Outcome State Fault Refusal :=
  .next (s.run (fun s => (s.consume p (fun s => s.snoopResponse p)).conclude))

/-- SNOOP_TIMEOUT. R142: the snoop of transaction `txn` to host `eid` expires. -/
def execSnoopTimeout (txn : Nat) (eid : Fin 16384) (s : State) : Host.Outcome State Fault Refusal :=
  .next (s.run (fun s => (s.snoopExpired txn eid.val).conclude))

/-- HEARTBEAT_TIMEOUT. R153: no Heartbeat of host `eid` within its interval. -/
def execHeartbeatTimeout (eid : Fin 16384) (s : State) : Host.Outcome State Fault Refusal :=
  .next (s.run (fun s => (s.heartbeatMissed eid.val).conclude))

/-- FAILURE_WALK_DONE. R155: the walk for failed host `eid` ends. -/
def execFailureWalkDone (eid : Fin 16384) (s : State) : Host.Outcome State Fault Refusal :=
  .next (s.run (fun s => (s.walkDone eid.val).conclude))

/-- HOST_DECLARE. R163: 1 is written to HOM_HOST[e].DECLARE. -/
def execHostDeclare (src : Source) (eid : Fin 16384) (s : State) : Host.Outcome State Fault Refusal :=
  .next (s.run (fun s => (s.writeBit src (A.HOM_HOST eid.val) F.HOM_HOST_DECLARE).conclude))

/-- HOST_FAILED_CLEAR. R160: 1 is written to HOM_HOST[e].FAILED. -/
def execHostFailedClear (src : Source) (eid : Fin 16384) (s : State) : Host.Outcome State Fault Refusal :=
  .next (s.run (fun s => (s.writeBit src (A.HOM_HOST eid.val) F.HOM_HOST_FAILED).conclude))

/-- COMBINING_WINDOW_CLOSE. R147: combining entry `n` closes. -/
def execCombiningWindowClose (n : Nat) (s : State) : Host.Outcome State Fault Refusal :=
  .next (s.run (fun s => (s.combWindow n).conclude))

/-- ATOMIC_RSP. R148: an AtomicRsp reaches a combining E9 or an engine. -/
def execAtomicRsp (p : Packet) (s : State) : Host.Outcome State Fault Refusal :=
  .next (s.run (fun s => (s.consume p (fun s => s.completionIn p)).conclude))

/-- DATA_COMPLETION. R136: a Data completion reaches its requester. -/
def execDataCompletion (p : Packet) (s : State) : Host.Outcome State Fault Refusal :=
  .next (s.run (fun s => (s.consume p (fun s => s.completionIn p)).conclude))

/-- WBACK_COMPLETION. R109: a WbAck reaches the writing E9. -/
def execWbackCompletion (p : Packet) (s : State) : Host.Outcome State Fault Refusal :=
  .next (s.run (fun s => (s.consume p (fun s => s.completionIn p)).conclude))

/-- ERR_COMPLETION. R135, R375: an Err reaches its requester. -/
def execErrCompletion (p : Packet) (s : State) : Host.Outcome State Fault Refusal :=
  .next (s.run (fun s => (s.consume p (fun s => s.completionIn p)).conclude))

/-- ENGINE_POOL_READ. R109, R445, R446: an engine reads the line of a pool address; `ecc` is what the check symbols of a held line say. -/
def execEnginePoolRead (engine : Fin 80) (addr : Nat) (ecc : EccResult) (s : State) : Host.Outcome State Fault Refusal :=
  .next (s.run (fun s => (s.engineRead engine.val addr ecc).conclude))

/-- ENGINE_POOL_WRITE. R109, R170: an engine writes pool bytes. -/
def execEnginePoolWrite (engine : Fin 80) (addr : Nat) (data : List Byte) (s : State) : Host.Outcome State Fault Refusal :=
  .next (s.run (fun s => (s.engineWrite engine.val addr data).conclude))

/-- CLEANER_SCAN. R97: the cleaner scans the DRAM tier. -/
def execCleanerScan (s : State) : Host.Outcome State Fault Refusal :=
  .next (s.run (fun s => (s.cleanScan).conclude))

end Sys2Proof.Machine
end

