-- ==== Sys2Proof/Machine/RowsKernel.lean ====
section
/-!
DEFINITION. The meanings of the commands of kernels, engines and queue control, rows 107 to 125 of spec/opcode_table.json.
-/
namespace Sys2Proof.Machine

/-- GATHER. R227, Table 8.6. -/
def execGather (h : CmdHead) (dst : Locator) (a : RowArgs) (s : State) : Host.Outcome State Fault Refusal :=
  .next (s.run (fun s => s.issue h oGATHER (parLoc 8 dst :: a.pars)))

/-- SCATTER. R227, Table 8.6. -/
def execScatter (h : CmdHead) (src : Locator) (a : RowArgs) (s : State) : Host.Outcome State Fault Refusal :=
  .next (s.run (fun s => s.issue h oSCATTER (parLoc 8 src :: a.pars)))

/-- FILTER_SCAN. R229, R230, Table 8.6. -/
def execFilterScan (h : CmdHead) (a : ScanArgs) (s : State) : Host.Outcome State Fault Refusal :=
  .next (s.run (fun s => s.issue h oFILTER_SCAN a.pars))

/-- KERNEL_LAUNCH. R198, R231, Table 8.7. -/
def execKernelLaunch (h : CmdHead) (chain packets engine : Nat) (anyCell compat : Bool) (core clocked : Nat) (s : State) : Host.Outcome State Fault Refusal :=
  .next (s.run (fun s => s.issue h oKERNEL_LAUNCH [par 8 38 chain, par 16 16 packets, par 18 8 engine, ⟨152, 1, b2n anyCell⟩, ⟨153, 1, b2n compat⟩, par 20 32 core, par 24 32 clocked]))

/-- FRAME_BOUNDARY. R289: a frame of queue `q` begins. -/
def execFrameBoundary (q : Fin 1024) (s : State) : Host.Outcome State Fault Refusal :=
  .next (s.run (fun s => (s.frameBegins q.val).conclude))

/-- KERNEL_COMPLETE. R278, R295: the kernel of a TAG that has ended leaves its engines. -/
def execKernelComplete (q : Fin 1025) (tag : Nat) (s : State) : Host.Outcome State Fault Refusal :=
  .next (s.run (fun s => (s.kernelComplete q.val tag).conclude))

/-- KERNEL_WATCHDOG_STOP. R301: the active time of a kernel reaches its limit. -/
def execKernelWatchdogStop (q : Fin 1025) (tag : Nat) (s : State) : Host.Outcome State Fault Refusal :=
  .next (s.run (fun s => (s.kernelStop q.val tag).conclude))

/-- CELL_RESET. R234: 1 is written to CEL_CTL.RESET. -/
def execCellReset (src : Source) (n : Fin 64) (s : State) : Host.Outcome State Fault Refusal :=
  .next (s.run (fun s => (s.writeBit src (A.CEL_CTL n.val) F.CEL_CTL_RESET).conclude))

/-- CELL_RESET_DONE. R197: the reset of a cell completes. -/
def execCellResetDone (n : Fin 64) (s : State) : Host.Outcome State Fault Refusal :=
  .next (s.run (fun s => (s.engineResetDone n.val).conclude))

/-- ATTEND. R259, Table 8.7: the descriptor stands at an STG offset. -/
def execAttend (h : CmdHead) (desc : Nat) (s : State) : Host.Outcome State Fault Refusal :=
  .next (s.run (fun s => s.issue h oATTEND [par 8 38 desc]))

/-- PROJECT. R265, Table 8.7: the descriptor stands at an STG offset. -/
def execProject (h : CmdHead) (desc : Nat) (s : State) : Host.Outcome State Fault Refusal :=
  .next (s.run (fun s => s.issue h oPROJECT [par 8 38 desc]))

/-- ENCODE. R252, Table 8.7. -/
def execEncode (h : CmdHead) (a : EncodeArgs) (s : State) : Host.Outcome State Fault Refusal :=
  .next (s.run (fun s => s.issue h oENCODE a.pars))

/-- CODEBOOK_BUILD. R250, R251, Table 8.7. -/
def execCodebookBuild (h : CmdHead) (a : BuildArgs) (s : State) : Host.Outcome State Fault Refusal :=
  .next (s.run (fun s => s.issue h oCODEBOOK_BUILD a.pars))

/-- CODEBOOK_RETIRE. R254, Table 8.7. -/
def execCodebookRetire (h : CmdHead) (slot : Nat) (s : State) : Host.Outcome State Fault Refusal :=
  .next (s.run (fun s => s.issue h oCODEBOOK_RETIRE [par 8 8 slot]))

/-- MATRIX_TILE_RESET. R269: 1 is written to MTX_CTL.RESET. -/
def execMatrixTileReset (src : Source) (n : Fin 16) (s : State) : Host.Outcome State Fault Refusal :=
  .next (s.run (fun s => (s.writeBit src (A.MTX_CTL n.val) F.MTX_CTL_RESET).conclude))

/-- MATRIX_TILE_RESET_DONE. R237: the reset of a matrix tile completes. -/
def execMatrixTileResetDone (n : Fin 16) (s : State) : Host.Outcome State Fault Refusal :=
  .next (s.run (fun s => (s.engineResetDone (64 + n.val)).conclude))

/-- QUEUE_ENABLE. R304: 1 is written to SEQ_Q_CTL.ENABLE. -/
def execQueueEnable (src : Source) (q : Fin 1024) (s : State) : Host.Outcome State Fault Refusal :=
  .next (s.run (fun s => (s.writeBit src (A.SEQ_Q_CTL q.val) F.SEQ_Q_CTL_ENABLE).conclude))

/-- QUEUE_DISABLE. R304: 1 is written to SEQ_Q_CTL.DISABLE. -/
def execQueueDisable (src : Source) (q : Fin 1024) (s : State) : Host.Outcome State Fault Refusal :=
  .next (s.run (fun s => (s.writeBit src (A.SEQ_Q_CTL q.val) F.SEQ_Q_CTL_DISABLE).conclude))

/-- QUEUE_DISABLE_COMPLETE. R304: a disabled queue is idle. -/
def execQueueDisableComplete (q : Fin 1024) (s : State) : Host.Outcome State Fault Refusal :=
  .next (s.run (fun s => (s.disableDone q.val).conclude))

end Sys2Proof.Machine
end

