-- ==== Sys2Proof/Machine/RowsNewt.lean ====
section
/-!
DEFINITION. The meanings of the commands of Newt, rows 181 to 210 of spec/opcode_table.json.
-/
namespace Sys2Proof.Machine

/-- MANAGEMENT_WATCHDOG_EXPIRY. R465: the management watchdog reaches 1 s. -/
def execManagementWatchdogExpiry (s : State) : Host.Outcome State Fault Refusal :=
  .next (s.run (fun s => (s.managementLate).conclude))

/-- WATCHDOG_KICK. R465: 1 is written to PCE_MWDOG.KICK. -/
def execWatchdogKick (src : Source) (s : State) : Host.Outcome State Fault Refusal :=
  .next (s.run (fun s => (s.writeBit src A.PCE_MWDOG F.PCE_MWDOG_KICK).conclude))

/-- TLS_HANDSHAKE. R469: a peer opens a TLS 1.3 session on a management port: the digest of its root certificate, whether every other check of R469 passes, and whether the certificate is self-consistent. -/
def execTlsHandshake (port : Fin 2) (digest : Nat) (ok selfOk : Bool) (s : State) : Host.Outcome State Fault Refusal :=
  .next (s.run (fun s => (s.handshake port.val digest ok selfOk).conclude))

/-- SESSION_IDLE_TIMEOUT. R470: session `n` has been idle for the idle limit. -/
def execSessionIdleTimeout (n : Fin 8) (s : State) : Host.Outcome State Fault Refusal :=
  .next (s.run (fun s => (s.sessionIdle n.val).conclude))

/-- SESSION_CLOSE. R470: the peer closes session `n`. -/
def execSessionClose (n : Fin 8) (s : State) : Host.Outcome State Fault Refusal :=
  .next (s.run (fun s => (s.endSession n.val).conclude))

/-- IDENTIFY. R474, Table 15.6: the command arrives on session `n`. -/
def execIdentify (n : Fin 8) (head : MgmtHead) (data : List Byte) (s : State) : Host.Outcome State Fault Refusal :=
  .next (s.run (fun s => (s.mgmtArrive n.val { code := mcIDENTIFY, head := head, data := data }).conclude))

/-- SENSOR_READ. R481, Table 15.6: the command arrives on session `n`. -/
def execSensorReadCmd (n : Fin 8) (head : MgmtHead) (data : List Byte) (s : State) : Host.Outcome State Fault Refusal :=
  .next (s.run (fun s => (s.mgmtArrive n.val { code := mcSENSOR_READ, head := head, data := data }).conclude))

/-- LOG_READ. R474, Table 15.6: the command arrives on session `n`. -/
def execLogRead (n : Fin 8) (head : MgmtHead) (data : List Byte) (s : State) : Host.Outcome State Fault Refusal :=
  .next (s.run (fun s => (s.mgmtArrive n.val { code := mcLOG_READ, head := head, data := data }).conclude))

/-- LOG_SUBSCRIBE. R474, Table 15.6: the command arrives on session `n`. -/
def execLogSubscribe (n : Fin 8) (head : MgmtHead) (data : List Byte) (s : State) : Host.Outcome State Fault Refusal :=
  .next (s.run (fun s => (s.mgmtArrive n.val { code := mcLOG_SUBSCRIBE, head := head, data := data }).conclude))

/-- SAMPLE_SUBSCRIBE. R488, Table 15.6: the command arrives on session `n`. -/
def execSampleSubscribe (n : Fin 8) (head : MgmtHead) (data : List Byte) (s : State) : Host.Outcome State Fault Refusal :=
  .next (s.run (fun s => (s.mgmtArrive n.val { code := mcSAMPLE_SUBSCRIBE, head := head, data := data }).conclude))

/-- SPDM. R436, Table 15.6: the command arrives on session `n`. -/
def execSpdm (n : Fin 8) (head : MgmtHead) (data : List Byte) (s : State) : Host.Outcome State Fault Refusal :=
  .next (s.run (fun s => (s.mgmtArrive n.val { code := mcSPDM, head := head, data := data }).conclude))

/-- REG_READ. R475, Table 15.6: the command arrives on session `n`. -/
def execRegRead (n : Fin 8) (head : MgmtHead) (data : List Byte) (s : State) : Host.Outcome State Fault Refusal :=
  .next (s.run (fun s => (s.mgmtArrive n.val { code := mcREG_READ, head := head, data := data }).conclude))

/-- REG_WRITE. R475, Table 15.6: the command arrives on session `n`. -/
def execRegWrite (n : Fin 8) (head : MgmtHead) (data : List Byte) (s : State) : Host.Outcome State Fault Refusal :=
  .next (s.run (fun s => (s.mgmtArrive n.val { code := mcREG_WRITE, head := head, data := data }).conclude))

/-- CMD_SUBMIT. R476, Table 15.6: the command arrives on session `n`. -/
def execCmdSubmit (n : Fin 8) (head : MgmtHead) (data : List Byte) (s : State) : Host.Outcome State Fault Refusal :=
  .next (s.run (fun s => (s.mgmtArrive n.val { code := mcCMD_SUBMIT, head := head, data := data }).conclude))

/-- DECLARE. R477, Table 15.6: the command arrives on session `n`. -/
def execDeclare (n : Fin 8) (head : MgmtHead) (data : List Byte) (s : State) : Host.Outcome State Fault Refusal :=
  .next (s.run (fun s => (s.mgmtArrive n.val { code := mcDECLARE, head := head, data := data }).conclude))

/-- PLANE_RESET. R508, Table 15.6: the command arrives on session `n`. -/
def execPlaneReset (n : Fin 8) (head : MgmtHead) (data : List Byte) (s : State) : Host.Outcome State Fault Refusal :=
  .next (s.run (fun s => (s.mgmtArrive n.val { code := mcPLANE_RESET, head := head, data := data }).conclude))

/-- IMAGE_BEGIN. R492, Table 15.6: the command arrives on session `n`. -/
def execImageBegin (n : Fin 8) (head : MgmtHead) (data : List Byte) (s : State) : Host.Outcome State Fault Refusal :=
  .next (s.run (fun s => (s.mgmtArrive n.val { code := mcIMAGE_BEGIN, head := head, data := data }).conclude))

/-- IMAGE_CHUNK. R492, Table 15.6: the command arrives on session `n`. -/
def execImageChunk (n : Fin 8) (head : MgmtHead) (data : List Byte) (s : State) : Host.Outcome State Fault Refusal :=
  .next (s.run (fun s => (s.mgmtArrive n.val { code := mcIMAGE_CHUNK, head := head, data := data }).conclude))

/-- IMAGE_END. R492, Table 15.6: the command arrives on session `n`. -/
def execImageEnd (n : Fin 8) (head : MgmtHead) (data : List Byte) (s : State) : Host.Outcome State Fault Refusal :=
  .next (s.run (fun s => (s.mgmtArrive n.val { code := mcIMAGE_END, head := head, data := data }).conclude))

/-- SVN_ADVANCE. R491, Table 15.6: the command arrives on session `n`. -/
def execSvnAdvance (n : Fin 8) (head : MgmtHead) (data : List Byte) (s : State) : Host.Outcome State Fault Refusal :=
  .next (s.run (fun s => (s.mgmtArrive n.val { code := mcSVN_ADVANCE, head := head, data := data }).conclude))

/-- ANCHOR_SET. R478, Table 15.6: the command arrives on session `n`. -/
def execAnchorSet (n : Fin 8) (head : MgmtHead) (data : List Byte) (s : State) : Host.Outcome State Fault Refusal :=
  .next (s.run (fun s => (s.mgmtArrive n.val { code := mcANCHOR_SET, head := head, data := data }).conclude))

/-- ANCHOR_CLEAR. R478, Table 15.6: the command arrives on session `n`. -/
def execAnchorClear (n : Fin 8) (head : MgmtHead) (data : List Byte) (s : State) : Host.Outcome State Fault Refusal :=
  .next (s.run (fun s => (s.mgmtArrive n.val { code := mcANCHOR_CLEAR, head := head, data := data }).conclude))

/-- NET_CONFIG. R474, Table 15.6: the command arrives on session `n`. -/
def execNetConfig (n : Fin 8) (head : MgmtHead) (data : List Byte) (s : State) : Host.Outcome State Fault Refusal :=
  .next (s.run (fun s => (s.mgmtArrive n.val { code := mcNET_CONFIG, head := head, data := data }).conclude))

/-- POLICY_SET. R474, Table 15.3: the command arrives on session `n`; the policy record by its fields (log entry 52). -/
def execPolicySet (n : Fin 8) (head : MgmtHead) (policy : Policy) (s : State) : Host.Outcome State Fault Refusal :=
  .next (s.run (fun s => (s.mgmtArrive n.val { code := mcPOLICY_SET, head := head, policy := policy }).conclude))

/-- MAILBOX_GO. R480: 1 is written to NWT_HOST_CTL.GO. -/
def execMailboxGo (src : Source) (s : State) : Host.Outcome State Fault Refusal :=
  .next (s.run (fun s => (s.writeBit src A.NWT_HOST_CTL F.NWT_HOST_CTL_GO).conclude))

/-- SENSOR_POLL. R481: the sensor hub reads source `source`: the code of the reading, and whether the source is up and passes its check. -/
def execSensorPoll (source : Fin 340) (code : Nat) (ok : Bool) (s : State) : Host.Outcome State Fault Refusal :=
  .next (s.run (fun s => (s.sensorRead source.val code ok).conclude))

/-- EVENT_RING_COPY. R486: Newt copies new error-log records into its event ring. -/
def execEventRingCopy (s : State) : Host.Outcome State Fault Refusal :=
  .next (s.run (fun s => s.copyEvents.syncNewt))

/-- PERSISTENT_LOG_COPY. R487: Newt copies event-ring records into the persistent log. -/
def execPersistentLogCopy (s : State) : Host.Outcome State Fault Refusal :=
  .next (s.run (fun s => s.copyLog.syncNewt))

/-- SAMPLE_FORWARD. R488: Newt pushes sample records, or discards them. -/
def execSampleForward (s : State) : Host.Outcome State Fault Refusal :=
  .next (s.run (fun s => s.forwardSamples))

/-- PTP_MESSAGE. R472: an IEEE 1588 exchange has measured the offset from the grandmaster, in ns. -/
def execPtpMessage (offset : Int) (s : State) : Host.Outcome State Fault Refusal :=
  .next (s.run (fun s => (s.ptpOffset offset).conclude))

end Sys2Proof.Machine
end

