-- ==== Sys2Proof/Machine/RowsPace.lean ====
section
/-!
DEFINITION. The meanings of the commands of pace, voltage and time, rows 3 to 12 of spec/opcode_table.json.
-/
namespace Sys2Proof.Machine

/-- SENSOR_WINDOW_CLOSE. R47: each of the 256 sensors' count, with the result of its complement check. -/
def execSensorWindowClose (counts : List (Nat × Bool)) (s : State) : Host.Outcome State Fault Refusal :=
  .next (s.run (fun s => s.windowClose counts))

/-- PACE_CONTROL_STEP. R50, Table 2.1: `tmax` is the highest die temperature, in 0.125 °C. -/
def execPaceControlStep (tmax : Int) (s : State) : Host.Outcome State Fault Refusal :=
  .next (s.run (fun s => (s.paceStep tmax).conclude))

/-- AVS_WRITE_DONE. R53: the voltage write under way ends. -/
def execAvsWriteDone (ok : Bool) (s : State) : Host.Outcome State Fault Refusal :=
  .next (s.run (fun s => (s.avsDone ok).conclude))

/-- PCE_POLICY_WRITE. R59: PCE_POLICY is written whole. -/
def execPcePolicyWrite (src : Source) (data : Nat) (s : State) : Host.Outcome State Fault Refusal :=
  .next (s.run (fun s => (s.busWrite src (src == .newt) A.PCE_POLICY 8 data).conclude))

/-- LOWER_RETARGET. R59: the loop of a lowering retargets. -/
def execLowerRetarget (s : State) : Host.Outcome State Fault Refusal :=
  .next (s.run (fun s => (s.lowerRetarget).conclude))

/-- THROTTLE_LOWERING. R61: 1 ms of throttling has passed. -/
def execThrottleLowering (s : State) : Host.Outcome State Fault Refusal :=
  .next (s.run (fun s => (s.throttleAgain).conclude))

/-- TIME_TADPOLE_EXCHANGE. R69: the exchange interval ends. -/
def execTimeTadpoleExchange (s : State) : Host.Outcome State Fault Refusal :=
  .next (s.run (fun s => (s.timeExchange).conclude))

/-- TIME_TADPOLE. R69, R347: a TIME tadpole arrives on port `n`. -/
def execTimeTadpole (n : Fin 128) (p : Packet) (s : State) : Host.Outcome State Fault Refusal :=
  .next (s.run (fun s => (s.consume p (fun s => s.timeTadpole n.val p)).conclude))

/-- STUCK_HANDSHAKE_TIMEOUT. R72: the stuck-handshake timer of a stage of a plane expires. -/
def execStuckHandshakeTimeout (stage : Nat) (plane : Plane) (s : State) : Host.Outcome State Fault Refusal :=
  .next (s.run (fun s => (s.stuckStage stage plane.num).conclude))

/-- STUCK_STAGE_RESET. R496: Newt firmware resets each plane that holds a stuck stage. -/
def execStuckStageReset (s : State) : Host.Outcome State Fault Refusal :=
  .next (s.run (fun s => (s.resetStuck).conclude))

end Sys2Proof.Machine
end

