-- ==== Sys2Proof/Machine/RowsPartition.lean ====
section
/-!
DEFINITION. The meanings of the commands of partitions, keys and epochs, rows 126 to 139 of spec/opcode_table.json.
-/
namespace Sys2Proof.Machine

/-- PARTITION_CREATE. R418, Table 8.9. -/
def execPartitionCreate (h : CmdHead) (part : Fin 64) (s : State) : Host.Outcome State Fault Refusal :=
  .next (s.run (fun s => s.issue h oPARTITION_CREATE [par 8 6 part.val]))

/-- PARTITION_RESERVE. R419, Table 8.9. -/
def execPartitionReserve (h : CmdHead) (part : Fin 64) (kind first count : Nat) (ret : Bool) (s : State) : Host.Outcome State Fault Refusal :=
  .next (s.run (fun s => s.issue h oPARTITION_RESERVE [par 8 6 part.val, par 9 8 kind, par 10 16 first, par 12 16 count, par 14 1 (b2n ret)]))

/-- PARTITION_SEAL. R420, Table 8.9. -/
def execPartitionSeal (h : CmdHead) (part : Fin 64) (s : State) : Host.Outcome State Fault Refusal :=
  .next (s.run (fun s => s.issue h oPARTITION_SEAL [par 8 6 part.val]))

/-- SEAL_COMPLETE. R420: the channel-binding exchanges of a seal have ended. -/
def execSealComplete (part : Fin 64) (s : State) : Host.Outcome State Fault Refusal :=
  .next (s.run (fun s => (s.sealDone part.val).conclude))

/-- PARTITION_DRAIN. R422, Table 8.9. -/
def execPartitionDrain (h : CmdHead) (part : Fin 64) (s : State) : Host.Outcome State Fault Refusal :=
  .next (s.run (fun s => s.issue h oPARTITION_DRAIN [par 8 6 part.val]))

/-- PARTITION_DRAIN_COMPLETE. R422: queues, engines and the walk are idle. -/
def execPartitionDrainComplete (part : Fin 64) (s : State) : Host.Outcome State Fault Refusal :=
  .next (s.run (fun s => (s.drainDone part.val).conclude))

/-- PARTITION_SCRUB. R424, Table 8.9. -/
def execPartitionScrub (h : CmdHead) (part : Fin 64) (s : State) : Host.Outcome State Fault Refusal :=
  .next (s.run (fun s => s.issue h oPARTITION_SCRUB [par 8 6 part.val]))

/-- PARTITION_SCRUB_COMPLETE. R427: every row of Table 13.5 has ended. -/
def execPartitionScrubComplete (part : Fin 64) (s : State) : Host.Outcome State Fault Refusal :=
  .next (s.run (fun s => (s.scrubDone part.val).conclude))

/-- PARTITION_RELEASE. R427, Table 8.9. -/
def execPartitionRelease (h : CmdHead) (part : Fin 64) (s : State) : Host.Outcome State Fault Refusal :=
  .next (s.run (fun s => s.issue h oPARTITION_RELEASE [par 8 6 part.val]))

/-- KEY_ROTATE. R432, Table 8.9: kind 0 a memory key, 1 the link keys of a port. -/
def execKeyRotate (h : CmdHead) (part : Fin 64) (kind port : Nat) (s : State) : Host.Outcome State Fault Refusal :=
  .next (s.run (fun s => s.issue h oKEY_ROTATE [par 8 6 part.val, par 9 8 kind, par 10 16 port]))

/-- EPOCH_INSTALL. R373, Table 8.9. -/
def execEpochInstall (h : CmdHead) (s : State) : Host.Outcome State Fault Refusal :=
  .next (s.run (fun s => s.issue h oEPOCH_INSTALL []))

/-- TRNG_HEALTH_FAIL. R429: a TRNG health test fails. -/
def execTrngHealthFail (s : State) : Host.Outcome State Fault Refusal :=
  .next (s.run (fun s => (s.trngFails).conclude))

/-- TRNG_HEALTH_PASS. R429: the TRNG health tests pass again. -/
def execTrngHealthPass (s : State) : Host.Outcome State Fault Refusal :=
  .next (s.run (fun s => (s.trngPasses).conclude))

/-- SPDM_REQUEST. R436: an SPDM request to the physical function, or to virtual function `vf`. -/
def execSpdmRequest (vf : Option (Fin 64)) (q : SpdmReq) (s : State) : Host.Outcome State Fault Refusal :=
  .next (s.run (fun s => s.spdmRequest (vf.map (·.val)) q))

end Sys2Proof.Machine
end

