-- ==== Sys2Proof/Machine/RowsPort.lean ====
section
/-!
DEFINITION. The meanings of the commands of ports, links and the host attach port, rows 140 to 165 of spec/opcode_table.json.
-/
namespace Sys2Proof.Machine

/-- FLIT_RECEIVE. R322, R65: a flit arrives on port `n`; `crossingFull` is whether its crossing FIFO is above its mark. -/
def execFlitReceive (n : Fin 128) (f : Flit) (crossingFull : Bool) (s : State) : Host.Outcome State Fault Refusal :=
  .next (s.run (fun s => (s.flitArrives n.val f crossingFull).conclude))

/-- FLIT_TRANSMIT. R320: port `n` transmits a flit. -/
def execFlitTransmit (n : Fin 128) (s : State) : Host.Outcome State Fault Refusal :=
  .next (s.run (fun s => ((s.flitOut n.val).tellRotate n.val).conclude))

/-- REPLAY_TIMER_EXPIRY. R324: the replay timer of port `n` expires. -/
def execReplayTimerExpiry (n : Fin 128) (s : State) : Host.Outcome State Fault Refusal :=
  .next (s.run (fun s => (s.replayExpired n.val).conclude))

/-- LINK_TADPOLE. R328: a link-management tadpole arrives on port `n`; `f` is what its SPDM fragment says (log entry 5). -/
def execLinkTadpole (n : Fin 128) (p : Packet) (f : LinkFragment) (s : State) : Host.Outcome State Fault Refusal :=
  .next (s.run (fun s => (s.consume p (fun s => s.linkFragment n.val f)).conclude))

/-- TRAIN_MSG_RECEIVE. R330: a training message arrives on port `n`. -/
def execTrainMsgReceive (n : Fin 128) (m : TrainMsg) (s : State) : Host.Outcome State Fault Refusal :=
  .next (s.run (fun s => (s.trainMessage n.val m true).conclude))

/-- SIGNAL_DETECT. R329: signal on every lane in use of port `n`. -/
def execSignalDetect (n : Fin 128) (s : State) : Host.Outcome State Fault Refusal :=
  .next (s.run (fun s => (s.trainEvent n.val tevSIGNAL 0).conclude))

/-- SIGNAL_LOST. R329: signal lost on a lane in use of port `n`. -/
def execSignalLost (n : Fin 128) (s : State) : Host.Outcome State Fault Refusal :=
  .next (s.run (fun s => (s.trainEvent n.val tevSIGNAL_LOST 0).conclude))

/-- LOCK. R329: adaptation, alignment and deskew of port `n` complete. -/
def execLock (n : Fin 128) (s : State) : Host.Outcome State Fault Refusal :=
  .next (s.run (fun s => (s.actionDone n.val tactADAPT (fun s => s.trainEvent n.val tevLOCK 0)).conclude))

/-- TRAINING_TIMER_EXPIRY. R329: the training timer of port `n` expires. -/
def execTrainingTimerExpiry (n : Fin 128) (s : State) : Host.Outcome State Fault Refusal :=
  .next (s.run (fun s => (s.trainExpired n.val).conclude))

/-- BACKOFF_EXPIRY. R329: the backoff of port `n` ends. -/
def execBackoffExpiry (n : Fin 128) (s : State) : Host.Outcome State Fault Refusal :=
  .next (s.run (fun s => (s.backoffOver n.val).conclude))

/-- SELF_TEST_DONE. R315: the self-test of port `n` ends; a bit for each lane that failed. -/
def execSelfTestDone (n : Fin 128) (failed : Fin 16) (s : State) : Host.Outcome State Fault Refusal :=
  .next (s.run (fun s => (s.selfTested n.val failed.val).conclude))

/-- KEY_EXCHANGE_DONE. R327: the SPDM key exchange of port `n` ends. -/
def execKeyExchangeDone (n : Fin 128) (ok : Bool) (s : State) : Host.Outcome State Fault Refusal :=
  .next (s.run (fun s => (s.keyExchanged n.val ok).conclude))

/-- LTSSM_DONE. R331: the LTSSM of the gang at port `n` reaches L0 at a width, or fails. -/
def execLtssmDone (n : Fin 128) (ok : Bool) (width : Nat) (s : State) : Host.Outcome State Fault Refusal :=
  .next (s.run (fun s => (s.ltssmDone n.val ok width).conclude))

/-- IDE_SETUP_DONE. R331: CXL IDE setup of the gang at port `n` ends. -/
def execIdeSetupDone (n : Fin 128) (ok : Bool) (s : State) : Host.Outcome State Fault Refusal :=
  .next (s.run (fun s => (s.ideDone n.val ok).conclude))

/-- PORT_RETRAIN. R341: 1 is written to PRT_CTL.RETRAIN. -/
def execPortRetrain (src : Source) (n : Fin 128) (s : State) : Host.Outcome State Fault Refusal :=
  .next (s.run (fun s => (s.writeBit src (A.PRT_CTL n.val) F.PRT_CTL_RETRAIN).conclude))

/-- PORT_CLEAR_COUNTS. R341: 1 is written to PRT_CTL.CLEAR_COUNTS. -/
def execPortClearCounts (src : Source) (n : Fin 128) (s : State) : Host.Outcome State Fault Refusal :=
  .next (s.run (fun s => (s.writeBit src (A.PRT_CTL n.val) F.PRT_CTL_CLEAR_COUNTS).conclude))

/-- REFCLK_FAB_LOSS. R314: REFCLK_FAB input `k` is lost. -/
def execRefclkFabLoss (k : Fin 8) (s : State) : Host.Outcome State Fault Refusal :=
  .next (s.run (fun s => (s.fabLost k.val).conclude))

/-- REFCLK_FAB_RETURN. R314: REFCLK_FAB input `k` has been present for 1 ms. -/
def execRefclkFabReturn (k : Fin 8) (s : State) : Host.Outcome State Fault Refusal :=
  .next (s.run (fun s => (s.fabBack k.val).conclude))

/-- VF_FLR. R339: a Function Level Reset of a virtual function. -/
def execVfFlr (vf : Fin 64) (s : State) : Host.Outcome State Fault Refusal :=
  .next (s.run (fun s => (s.vfReset vf.val).conclude))

/-- PF_FLR. R339: a Function Level Reset of the physical function, or a Hot Reset. -/
def execPfFlr (s : State) : Host.Outcome State Fault Refusal :=
  .next (s.run (fun s => (s.requestReset 1 5).conclude))

/-- HOST_LINK_LOSS. R339: the host link is lost without reset. -/
def execHostLinkLoss (s : State) : Host.Outcome State Fault Refusal :=
  .next (s.run (fun s => (s.hostLink false).conclude))

/-- IDE_INTEGRITY_FAILURE. R338: an IDE integrity failure of a stream. -/
def execIdeIntegrityFailure (stream : Nat) (s : State) : Host.Outcome State Fault Refusal :=
  .next (s.run (fun s => (s.ideFailure stream).syncNewt))

/-- IDE_KM_QUERY. R338: IDE_KM QUERY on the host attach port. -/
def execIdeKmQuery (stream : Nat) (s : State) : Host.Outcome State Fault Refusal :=
  .next (s.run (fun s => s.ideRequest 0 stream))

/-- K_SET_GO. R338: IDE_KM K_SET_GO on the host attach port. -/
def execKSetGo (stream : Nat) (s : State) : Host.Outcome State Fault Refusal :=
  .next (s.run (fun s => s.ideRequest 4 stream))

/-- K_SET_STOP. R338: IDE_KM K_SET_STOP on the host attach port. -/
def execKSetStop (stream : Nat) (s : State) : Host.Outcome State Fault Refusal :=
  .next (s.run (fun s => s.ideRequest 5 stream))

/-- KEY_PROG. R338: IDE_KM KEY_PROG on the host attach port. -/
def execKeyProg (stream : Nat) (s : State) : Host.Outcome State Fault Refusal :=
  .next (s.run (fun s => s.ideRequest 2 stream))

end Sys2Proof.Machine
end

