-- ==== Sys2Proof/Machine/RowsPower.lean ====
section
/-!
DEFINITION. The meanings of the commands of power states, pins, clocks and boot, rows 211 to 232 of spec/opcode_table.json.
-/
namespace Sys2Proof.Machine

/-- EAVES_ENTER. R501: 1 is written to PCE_PWR_CTL.EAVES_ENTER. -/
def execEavesEnter (src : Source) (s : State) : Host.Outcome State Fault Refusal :=
  .next (s.run (fun s => (s.writeBit src A.PCE_PWR_CTL F.PCE_PWR_CTL_EAVES_ENTER).conclude))

/-- EAVES_ENTRY_PROGRESS. R502, Table 16.2: entry goes on. -/
def execEavesEntryProgress (s : State) : Host.Outcome State Fault Refusal :=
  .next (s.run (fun s => (s.eavesProgress).conclude))

/-- EAVES_ENTRY_TIMEOUT. R503: ENTRY_MS expires before step 5. -/
def execEavesEntryTimeout (s : State) : Host.Outcome State Fault Refusal :=
  .next (s.run (fun s => (s.eavesTimeout).conclude))

/-- WAKE. R504: 1 is written to PCE_PWR_CTL.WAKE. -/
def execWake (src : Source) (s : State) : Host.Outcome State Fault Refusal :=
  .next (s.run (fun s => (s.writeBit src A.PCE_PWR_CTL F.PCE_PWR_CTL_WAKE).conclude))

/-- WAKE_COMPLETE. R505: the wake ends. -/
def execWakeComplete (s : State) : Host.Outcome State Fault Refusal :=
  .next (s.run (fun s => (s.wakeDone).conclude))

/-- PORST_N_ASSERT. R510: PORST_N is asserted. -/
def execPorstNAssert (s : State) : Host.Outcome State Fault Refusal :=
  .next (s.run (fun s => s.porstAssert))

/-- PORST_N_RELEASE. R512, R513: PORST_N is released and the straps are latched. -/
def execPorstNRelease (enrol : Bool) (i3c : Fin 16) (mode : Fin 4) (s : State) : Host.Outcome State Fault Refusal :=
  .next (s.run (fun s => (s.porstRelease enrol i3c.val mode.val).conclude))

/-- BOOT_STAGE_ADVANCE. R513, R516: a boot stage completes; a bit for each HBM stack that does not train. -/
def execBootStageAdvance (hbmFail : Fin 64) (s : State) : Host.Outcome State Fault Refusal :=
  .next (s.run (fun s => (s.bootAdvance hbmFail.val).conclude))

/-- PERST_N_ASSERT. R510: PERST_N is asserted. -/
def execPerstNAssert (s : State) : Host.Outcome State Fault Refusal :=
  .next (s.run (fun s => (s.perstAssert).conclude))

/-- PERST_N_RELEASE. R514: PERST_N is released. -/
def execPerstNRelease (s : State) : Host.Outcome State Fault Refusal :=
  .next (s.run (fun s => (s.perstRelease).conclude))

/-- DATA_RESET_REQUEST. R508: 1 is written to GLB_RESET_CTL.DATA. -/
def execDataResetRequest (src : Source) (s : State) : Host.Outcome State Fault Refusal :=
  .next (s.run (fun s => (s.writeBit src A.GLB_RESET_CTL F.GLB_RESET_CTL_DATA).conclude))

/-- CONTROL_RESET_REQUEST. R508: 1 is written to GLB_RESET_CTL.CONTROL. -/
def execControlResetRequest (src : Source) (s : State) : Host.Outcome State Fault Refusal :=
  .next (s.run (fun s => (s.writeBit src A.GLB_RESET_CTL F.GLB_RESET_CTL_CONTROL).conclude))

/-- RELEASE. R515: 1 is written to GLB_RESET_CTL.RELEASE. -/
def execRelease (src : Source) (s : State) : Host.Outcome State Fault Refusal :=
  .next (s.run (fun s => (s.writeBit src A.GLB_RESET_CTL F.GLB_RESET_CTL_RELEASE).conclude))

/-- THERMAL_TRIP. R533: a die sensor reaches 115 °C. -/
def execThermalTrip (s : State) : Host.Outcome State Fault Refusal :=
  .next (s.run (fun s => (s.modPower (fun w => { w with thermtrip := true })).emitOut .thermtrip))

/-- REFCLK_PCIE_LOSS. R526: REFCLK_PCIE is lost. -/
def execRefclkPcieLoss (s : State) : Host.Outcome State Fault Refusal :=
  .next (s.run (fun s => ((s.clockLost F.GLB_CLK_STATUS_REFCLK_PCIE_LOST).hostLink false).conclude))

/-- XTAL_LOSS. R526: XTAL_25M is lost. -/
def execXtalLoss (s : State) : Host.Outcome State Fault Refusal :=
  .next (s.run (fun s => (s.clockLost F.GLB_CLK_STATUS_XTAL_LOST).conclude))

/-- XTAL_RETURN. R526: XTAL_25M has been present for 1 ms. -/
def execXtalReturn (s : State) : Host.Outcome State Fault Refusal :=
  .next (s.run (fun s => (s.wr A.GLB_CLK_STATUS F.GLB_CLK_STATUS_XTAL_LOST 0).conclude))

/-- PAD_CFG_WRITE. R531: GLB_PAD_CFG[g] is written; `spi` is whether an SPI transfer of Newt is under way. -/
def execPadCfgWrite (src : Source) (g : Fin 8) (data : Nat) (spi : Bool) (s : State) : Host.Outcome State Fault Refusal :=
  .next (s.run (fun s => (s.padWrite src g.val data spi).conclude))

/-- HOST_LINK_RETURN. R339: the host attach link returns. -/
def execHostLinkReturn (s : State) : Host.Outcome State Fault Refusal :=
  .next (s.run (fun s => (s.hostLink true).conclude))

/-- REFCLK_PCIE_RETURN. R526: REFCLK_PCIE is present again. -/
def execRefclkPcieReturn (s : State) : Host.Outcome State Fault Refusal :=
  .next (s.run (fun s => (s.wr A.GLB_CLK_STATUS F.GLB_CLK_STATUS_REFCLK_PCIE_LOST 0).conclude))

/-- MANAGEMENT_RESTART_DONE. R509: Newt finishes restarting. -/
def execManagementRestartDone (s : State) : Host.Outcome State Fault Refusal :=
  .next (s.run (fun s => (s.restartDone).conclude))

/-- SPARE_STEER_DONE. R315: steering of the spare lane of port `n` ends. -/
def execSpareSteerDone (n : Fin 128) (ok : Bool) (s : State) : Host.Outcome State Fault Refusal :=
  .next (s.run (fun s => (s.spareSteered n.val ok).conclude))

end Sys2Proof.Machine
end

