-- ==== Sys2Proof/Machine/RowsQueue.lean ====
section
/-!
DEFINITION. The meanings of the commands of queues, counters, versions and ownership, rows 63 to 93 of spec/opcode_table.json.
-/
namespace Sys2Proof.Machine

/-- SQ_TAIL. R274: SQ_TAIL of queue `q` is written in BAR2. -/
def execSqTail (src : Source) (q : Fin 1024) (bytes data : Nat) (s : State) : Host.Outcome State Fault Refusal :=
  .next (s.run (fun s => (s.doorbell src (0x1000 * q.val) bytes data).conclude))

/-- CQ_HEAD. R275: CQ_HEAD of queue `q` is written in BAR2. -/
def execCqHead (src : Source) (q : Fin 1024) (bytes data : Nat) (s : State) : Host.Outcome State Fault Refusal :=
  .next (s.run (fun s => (s.doorbell src (0x1000 * q.val + 8) bytes data).conclude))

/-- SQ_FETCH_COMPLETE. R274: slots fetched from the ring of queue `q` arrive. -/
def execSqFetchComplete (q : Fin 1024) (slots : List Nat) (s : State) : Host.Outcome State Fault Refusal :=
  .next (s.run (fun s => (s.slotsIn q.val slots).conclude))

/-- CMD_PACKET. R276: a CMD packet delivers command slots. -/
def execCmdPacket (p : Packet) (s : State) : Host.Outcome State Fault Refusal :=
  .next (s.run (fun s => (s.consumeIf p (fun s => s.cmdPacket p)).conclude))

/-- NOP. R283, Table 8.4. -/
def execNop (h : CmdHead) (s : State) : Host.Outcome State Fault Refusal :=
  .next (s.run (fun s => s.issue h oNOP []))

/-- BARRIER. R283, Table 8.4. -/
def execBarrier (h : CmdHead) (s : State) : Host.Outcome State Fault Refusal :=
  .next (s.run (fun s => s.issue h oBARRIER []))

/-- CANCEL. R282, Table 8.4. -/
def execCancel (h : CmdHead) (queue tag : Nat) (s : State) : Host.Outcome State Fault Refusal :=
  .next (s.run (fun s => s.issue h oCANCEL [par 8 10 queue, par 12 32 tag]))

/-- JOB_SUSPEND. R296, Table 8.4. -/
def execJobSuspend (h : CmdHead) (job : Nat) (s : State) : Host.Outcome State Fault Refusal :=
  .next (s.run (fun s => s.issue h oJOB_SUSPEND [par 8 16 job]))

/-- JOB_RESUME. R296, Table 8.4. -/
def execJobResume (h : CmdHead) (job : Nat) (s : State) : Host.Outcome State Fault Refusal :=
  .next (s.run (fun s => s.issue h oJOB_RESUME [par 8 16 job]))

/-- COPY. R167, Table 8.5. -/
def execCopy (h : CmdHead) (src dst : Locator) (len : Nat) (s : State) : Host.Outcome State Fault Refusal :=
  .next (s.run (fun s => s.issue h oCOPY [parLoc 8 src, parLoc 24 dst, par 40 64 len]))

/-- FILL. R283, Table 8.5. -/
def execFill (h : CmdHead) (dst : Locator) (len pattern : Nat) (s : State) : Host.Outcome State Fault Refusal :=
  .next (s.run (fun s => s.issue h oFILL [parLoc 8 dst, par 24 64 len, par 32 64 pattern]))

/-- FLUSH_RANGE. R109, Table 8.5. -/
def execFlushRange (h : CmdHead) (addr len : Nat) (s : State) : Host.Outcome State Fault Refusal :=
  .next (s.run (fun s => s.issue h oFLUSH_RANGE [par 8 56 addr, par 16 64 len]))

/-- TIER_HINT. R113, Table 8.5. -/
def execTierHint (h : CmdHead) (addr len mode : Nat) (s : State) : Host.Outcome State Fault Refusal :=
  .next (s.run (fun s => s.issue h oTIER_HINT [par 8 56 addr, par 16 64 len, par 24 8 mode]))

/-- PREFETCH. R283, Table 8.5. -/
def execPrefetch (h : CmdHead) (addr len : Nat) (s : State) : Host.Outcome State Fault Refusal :=
  .next (s.run (fun s => s.issue h oPREFETCH [par 8 56 addr, par 16 64 len]))

/-- COUNTER_SET. R181, Table 8.5. -/
def execCounterSet (h : CmdHead) (c : CounterRef) (mode value job : Nat) (s : State) : Host.Outcome State Fault Refusal :=
  .next (s.run (fun s => s.issue h oCOUNTER_SET [parCref 8 c, par 12 1 mode, par 16 48 value, par 22 16 job]))

/-- COUNTER_ADD. R179, Table 8.5. -/
def execCounterAdd (h : CmdHead) (c : CounterRef) (scope operand : Nat) (s : State) : Host.Outcome State Fault Refusal :=
  .next (s.run (fun s => s.issue h oCOUNTER_ADD [parCref 8 c, par 12 8 scope, par 16 48 operand]))

/-- WAIT. R182, Table 8.5; the deadline is in µs from issue, 0 for none. -/
def execWait (h : CmdHead) (c : CounterRef) (scope target deadline : Nat) (s : State) : Host.Outcome State Fault Refusal :=
  .next (s.run (fun s => s.issue h oWAIT [parCref 8 c, par 12 8 scope, par 14 48 target, par 20 32 deadline]))

/-- WAIT_COPY. R184, Table 8.5. -/
def execWaitCopy (h : CmdHead) (c : CounterRef) (scope target deadline : Nat) (src dst : Locator) (len : Nat) (s : State) : Host.Outcome State Fault Refusal :=
  .next (s.run (fun s => s.issue h oWAIT_COPY [parCref 8 c, par 12 8 scope, par 14 48 target, par 20 32 deadline, parLoc 24 src, parLoc 40 dst, par 56 64 len]))

/-- WAIT_COMPLETE. R182: the WAIT of a TAG whose status is fixed completes; queue 1,024 is Newt's path. -/
def execWaitComplete (q : Fin 1025) (tag : Nat) (s : State) : Host.Outcome State Fault Refusal :=
  .next (s.run (fun s => (s.waitComplete q.val tag).conclude))

/-- WAIT_DEADLINE. R182: the time base reaches the deadline of a WAIT. -/
def execWaitDeadline (q : Fin 1025) (tag : Nat) (s : State) : Host.Outcome State Fault Refusal :=
  .next (s.run (fun s => (s.waitExpires q.val tag).conclude))

/-- COUNTER_TADPOLE. R179, R347: a COUNTER tadpole arrives. -/
def execCounterTadpole (p : Packet) (s : State) : Host.Outcome State Fault Refusal :=
  .next (s.run (fun s => (s.consume p (fun s => s.counterTadpole p)).conclude))

/-- WRITE_PACKET. R178: a WRITE packet arrives. -/
def execWritePacket (p : Packet) (s : State) : Host.Outcome State Fault Refusal :=
  .next (s.run (fun s => (s.consumeIf p (fun s => s.writePacket p)).conclude))

/-- STATUS_TADPOLE. R347, R367: a STATUS tadpole arrives. -/
def execStatusTadpole (p : Packet) (s : State) : Host.Outcome State Fault Refusal :=
  .next (s.run (fun s => (s.statusIn p).conclude))

/-- VERSION_OPEN. R187, Table 8.8. -/
def execVersionOpen (h : CmdHead) (addr mode : Nat) (s : State) : Host.Outcome State Fault Refusal :=
  .next (s.run (fun s => s.issue h oVERSION_OPEN [par 8 56 addr, par 16 8 mode]))

/-- VERSION_CLOSE. R191, Table 8.8: OTHER with its EID, where given. -/
def execVersionClose (h : CmdHead) (addr : Nat) (other : Option (Fin 16384)) (s : State) : Host.Outcome State Fault Refusal :=
  .next (s.run (fun s => s.issue h oVERSION_CLOSE [par 8 56 addr, par 16 14 ((other.map (·.val)).getD 0), ⟨143, 1, b2n other.isSome⟩]))

/-- VERSION_PUBLISH. R190, Table 8.8. -/
def execVersionPublish (h : CmdHead) (addr base working : Nat) (s : State) : Host.Outcome State Fault Refusal :=
  .next (s.run (fun s => s.issue h oVERSION_PUBLISH [par 8 56 addr, par 16 32 base, par 20 32 working]))

/-- VREGION_VALID_WRITE. R186: word 0 of HOM_VREGION[region] is written. -/
def execVregionValidWrite (src : Source) (region : Fin 4096) (data : Nat) (s : State) : Host.Outcome State Fault Refusal :=
  .next (s.run (fun s => (s.busWrite src false (A.HOM_VREGION region.val) 8 data).conclude))

/-- OWN_CLAIM. R193, Table 8.8. -/
def execOwnClaim (h : CmdHead) (addr expected new : Nat) (s : State) : Host.Outcome State Fault Refusal :=
  .next (s.run (fun s => s.issue h oOWN_CLAIM [par 8 56 addr, par 16 32 expected, par 20 32 new]))

/-- OWN_RELEASE. R193, Table 8.8. -/
def execOwnRelease (h : CmdHead) (addr expected next : Nat) (s : State) : Host.Outcome State Fault Refusal :=
  .next (s.run (fun s => s.issue h oOWN_RELEASE [par 8 56 addr, par 16 32 expected, par 20 32 next]))

/-- HANDOFF_EXPIRY. R194: the handoff timer of record `record` expires. -/
def execHandoffExpiry (record : Nat) (s : State) : Host.Outcome State Fault Refusal :=
  .next (s.run (fun s => (s.handoffOver record).conclude))

/-- LOST_ACK. R159, Table 8.8. -/
def execLostAck (h : CmdHead) (addr len : Nat) (all : Bool) (s : State) : Host.Outcome State Fault Refusal :=
  .next (s.run (fun s => s.issue h oLOST_ACK [par 8 56 addr, par 16 64 len, par 24 1 (b2n all)]))

end Sys2Proof.Machine
end

