-- ==== Sys2Proof/Machine/RowsRegister.lean ====
section
/-!
DEFINITION. The meanings of the commands of register accesses, rows 0 to 2 of spec/opcode_table.json.
-/
namespace Sys2Proof.Machine

/-- REGISTER_WRITE. R548: a write of `bytes` bytes at BAR0 offset `off`; Newt firmware writes with the authority of an image (R56, R91). -/
def execRegisterWrite (src : Source) (off bytes data : Nat) (s : State) : Host.Outcome State Fault Refusal :=
  .next (s.run (fun s => (s.busWrite src (src == .newt) off bytes data).conclude))

/-- OWNER_BYTE_WRITE. R417: owner byte `half % 256` with its complement above it, to unit `unit` of kind `kind` (Table 13.1). -/
def execOwnerByteWrite (src : Source) (kind : Fin 11) (unit half : Nat) (s : State) : Host.Outcome State Fault Refusal :=
  .next (s.run (fun s => (s.writeOwnerByte src kind.val unit half).conclude))

/-- TB_LO_READ. R545, R537: a read of `bytes` bytes at BAR0 offset `off`; at PCE_TB_LO it loads the latch of the source. -/
def execTbLoRead (src : Source) (off bytes : Nat) (s : State) : Host.Outcome State Fault Refusal :=
  .next (s.run (fun s => (s.busRead src off bytes).1.emitOut (.regRead src off (s.busRead src off bytes).2)))

end Sys2Proof.Machine
end

