-- ==== Sys2Proof/Machine/RowsReset.lean ====
section
/-!
DEFINITION. The meanings of the commands of timeouts, plane resets and audits, rows 13 to 19 of spec/opcode_table.json.
-/
namespace Sys2Proof.Machine

/-- TRANSACTION_TIMEOUT. R139, Table 2.4: a requester's transaction timer expires. -/
def execTransactionTimeout (t : TimedTxn) (s : State) : Host.Outcome State Fault Refusal :=
  .next (s.run (fun s => (s.timedOut t).conclude))

/-- DATA_PLANE_RESET. R28, R508: the data plane is reset; the cause is that of Table 15.11. -/
def execDataPlaneReset (cause : Fin 6) (s : State) : Host.Outcome State Fault Refusal :=
  .next (s.run (fun s => (s.requestReset 0 cause.val).conclude))

/-- CONTROL_PLANE_RESET. R28, R508: the control plane is reset; the cause is that of Table 15.11. -/
def execControlPlaneReset (cause : Fin 6) (s : State) : Host.Outcome State Fault Refusal :=
  .next (s.run (fun s => (s.requestReset 1 cause.val).conclude))

/-- MANAGEMENT_PLANE_RESET. R497: Newt is reset. -/
def execManagementPlaneReset (cause : MgmtCause) (s : State) : Host.Outcome State Fault Refusal :=
  .next (s.run (fun s => (s.resetManagement cause).conclude))

/-- BUFFER_AUDIT. R393: the leaked-buffer detector audits both pools. -/
def execBufferAudit (s : State) : Host.Outcome State Fault Refusal :=
  .next (s.run (fun s => (s.audit).conclude))

/-- SWC_CLEAR_DROPS. R397: 1 is written to SWC_CTL.CLEAR_DROPS. -/
def execSwcClearDrops (src : Source) (s : State) : Host.Outcome State Fault Refusal :=
  .next (s.run (fun s => (s.writeBit src A.SWC_CTL F.SWC_CTL_CLEAR_DROPS).conclude))

/-- SWC_AUDIT_REQUEST. R394: 1 is written to SWC_CTL.AUDIT. -/
def execSwcAuditRequest (src : Source) (s : State) : Host.Outcome State Fault Refusal :=
  .next (s.run (fun s => (s.writeBit src A.SWC_CTL F.SWC_CTL_AUDIT).conclude))

end Sys2Proof.Machine
end

