-- ==== Sys2Proof/Machine/RowsSwitch.lean ====
section
/-!
DEFINITION. The meanings of the commands of outputs, fences, epochs, meters and shadow comparison, rows 166 to 180 of spec/opcode_table.json.
-/
namespace Sys2Proof.Machine

/-- OUTPUT_SELECT. R398, R445, R446: the traffic manager serves output `o`; `ecc` is what the check symbols of the packet read say. -/
def execOutputSelect (o : Fin 128) (ecc : EccResult) (s : State) : Host.Outcome State Fault Refusal :=
  .next (s.run (fun s => (s.serveOutput o.val ecc).conclude))

/-- REASSEMBLY_TIMEOUT. R386: the reassembly timer of buffered packet `id` expires. -/
def execReassemblyTimeout (id : Nat) (s : State) : Host.Outcome State Fault Refusal :=
  .next (s.run (fun s => (s.reassemblyExpired id).conclude))

/-- FENCE_HOLD_TIMEOUT. R368: fenced packet `id` has been held for FENCE_HOLD_US. -/
def execFenceHoldTimeout (id : Nat) (s : State) : Host.Outcome State Fault Refusal :=
  .next (s.run (fun s => (s.fenceHoldExpired id).conclude))

/-- FENCE_DONE. R367: a FENCE_DONE reaches the source edge. -/
def execFenceDone (p : Packet) (s : State) : Host.Outcome State Fault Refusal :=
  .next (s.run (fun s => (s.fenceDoneIn p).conclude))

/-- SOURCE_FENCE_EXPIRY. R367: the outstanding fence of an interval of a flow ends unanswered; port 128 is this E9. -/
def execSourceFenceExpiry (port : Fin 129) (edge : Fin 1024) (g : Fin 4) (s : State) : Host.Outcome State Fault Refusal :=
  .next (s.run (fun s => (s.sourceFenceOver port.val edge.val g.val).conclude))

/-- ARM. R372: 1 is written to RTE_EPOCH_CTL.ARM. -/
def execArm (src : Source) (s : State) : Host.Outcome State Fault Refusal :=
  .next (s.run (fun s => (s.writeBit src A.RTE_EPOCH_CTL F.RTE_EPOCH_CTL_ARM).conclude))

/-- DISARM. R372: 1 is written to RTE_EPOCH_CTL.DISARM. -/
def execDisarm (src : Source) (s : State) : Host.Outcome State Fault Refusal :=
  .next (s.run (fun s => (s.writeBit src A.RTE_EPOCH_CTL F.RTE_EPOCH_CTL_DISARM).conclude))

/-- RTE_CLEAR_DROPS. R376: 1 is written to RTE_EPOCH_CTL.CLEAR_DROPS. -/
def execRteClearDrops (src : Source) (s : State) : Host.Outcome State Fault Refusal :=
  .next (s.run (fun s => (s.writeBit src A.RTE_EPOCH_CTL F.RTE_EPOCH_CTL_CLEAR_DROPS).conclude))

/-- EPOCH_DRAIN_CLOSE. R371: DRAIN is 0 and DRAIN_HOLD_US has passed. -/
def execEpochDrainClose (s : State) : Host.Outcome State Fault Refusal :=
  .next (s.run (fun s => (s.drainClose).conclude))

/-- REFILL_BOUNDARY. R410: the next refill boundary. -/
def execRefillBoundary (s : State) : Host.Outcome State Fault Refusal :=
  .next (s.run (fun s => (s.advance s.toRefill).refill))

/-- TMG_CLEAR_COUNTS. R414: 1 is written to TMG_CTL.CLEAR_COUNTS. -/
def execTmgClearCounts (src : Source) (s : State) : Host.Outcome State Fault Refusal :=
  .next (s.run (fun s => (s.writeBit src A.TMG_CTL F.TMG_CTL_CLEAR_COUNTS).conclude))

/-- COMPLEMENT_REPAIR. R450: 1 is written to ERR_REPAIR_CTL.GO. -/
def execComplementRepair (src : Source) (s : State) : Host.Outcome State Fault Refusal :=
  .next (s.run (fun s => (s.writeBit src A.ERR_REPAIR_CTL F.ERR_REPAIR_CTL_GO).conclude))

/-- SHADOW_MISSING_TIMEOUT. R458: a unit of a collective, or its reference, is missing one collective timeout after the other. -/
def execShadowMissingTimeout (part : Fin 64) (coll off : Nat) (s : State) : Host.Outcome State Fault Refusal :=
  .next (s.run (fun s => (s.unitMissing part.val coll off).conclude))

/-- SHADOW_DIGEST_TIMEOUT. R459: the counterpart of the digest of a TAG is missing 1 ms after the shadow's own. -/
def execShadowDigestTimeout (tag : Nat) (s : State) : Host.Outcome State Fault Refusal :=
  .next (s.run (fun s => (s.digestMissing tag).conclude))

/-- LOCKSTEP_MISMATCH. R462: Newt's checker core detects a mismatch. -/
def execLockstepMismatch (s : State) : Host.Outcome State Fault Refusal :=
  .next (s.run (fun s => (s.resetManagement .lockstep).conclude))

end Sys2Proof.Machine
end

