-- ==== Sys2Proof/Machine/RowsTray.lean ====
section
/-!
DEFINITION. The meanings of the commands of trays and CXL gangs, rows 41 to 62 of spec/opcode_table.json.
-/
namespace Sys2Proof.Machine

/-- TRAY_DATA_RECEIVE. R348, Table 10.5: a TRAY_DATA answer arrives. -/
def execTrayDataReceive (p : Packet) (s : State) : Host.Outcome State Fault Refusal :=
  .next (s.run (fun s => (s.trayIn p).conclude))

/-- TRAY_CPL_RECEIVE. R348, Table 10.5: a TRAY_CPL answer arrives. -/
def execTrayCplReceive (p : Packet) (s : State) : Host.Outcome State Fault Refusal :=
  .next (s.run (fun s => (s.trayIn p).conclude))

/-- CXL_MEM_RESPONSE. R88: the device of a mode C tray answers. -/
def execCxlMemResponse (tray : Fin 32) (a : CxlAnswer) (s : State) : Host.Outcome State Fault Refusal :=
  .next (s.run (fun s => (s.cxlAnswer tray.val a).conclude))

/-- TRAY_MSG_RECEIVE. R93, R349: a TRAY_MSG of a tray arrives. -/
def execTrayMsgReceive (tray : Fin 32) (p : Packet) (s : State) : Host.Outcome State Fault Refusal :=
  .next (s.run (fun s => (s.consume p (fun s => s.trayMessage tray.val p.body)).conclude))

/-- BIND_ACK_TIMEOUT. R93: the binding timer of a tray expires. -/
def execBindAckTimeout (tray : Fin 32) (s : State) : Host.Outcome State Fault Refusal :=
  .next (s.run (fun s => (s.bindExpired tray.val).conclude))

/-- PROFILE_TIMER_EXPIRY. R90: the profile timer of a tray expires. -/
def execProfileTimerExpiry (tray : Fin 32) (s : State) : Host.Outcome State Fault Refusal :=
  .next (s.run (fun s => (s.profileExpired tray.val).conclude))

/-- PORT_ABSENCE_TIMEOUT. R117, R153: port `n` has been out of service for 2 ms. -/
def execPortAbsenceTimeout (n : Fin 128) (s : State) : Host.Outcome State Fault Refusal :=
  .next (s.run (fun s => (s.absenceExpired n.val).conclude))

/-- REPLICA_COPY_DONE. R119: the copy into the replica of the range at tile `base` ends. -/
def execReplicaCopyDone (base : Nat) (s : State) : Host.Outcome State Fault Refusal :=
  .next (s.run (fun s => (s.replicaCopied base).conclude))

/-- TRAY_FORMAT. R86, Table 8.9: TRAY_FORMAT. -/
def execTrayFormat (h : CmdHead) (tray : Fin 32) (s : State) : Host.Outcome State Fault Refusal :=
  .next (s.run (fun s => s.issue h oTRAY_FORMAT [par 8 5 tray.val]))

/-- TRAY_DETACH. R89, Table 8.9: TRAY_DETACH. -/
def execTrayDetach (h : CmdHead) (tray : Fin 32) (s : State) : Host.Outcome State Fault Refusal :=
  .next (s.run (fun s => s.issue h oTRAY_DETACH [par 8 5 tray.val]))

/-- MEMRD. R122: MemRd, or MemRdData, of the CPU of a mode D gang; `what` asks for 0 no state, 1 shared, 2 ownership (Table 4.11). -/
def execMemRd (g : Fin 32) (tag : Nat) (withData : Bool) (what : Fin 3) (dpa : Nat) (s : State) : Host.Outcome State Fault Refusal :=
  .next (s.run (fun s => (s.cpuRequest { gang := g.val, tag := tag, op := b2n withData, dpa := dpa, arg := what.val }).conclude))

/-- MEMWR. R122: MemWr of the CPU of a mode D gang. -/
def execMemWr (g : Fin 32) (tag dpa : Nat) (data : List Byte) (s : State) : Host.Outcome State Fault Refusal :=
  .next (s.run (fun s => (s.cpuRequest { gang := g.val, tag := tag, op := 2, dpa := dpa, data := data }).conclude))

/-- MEMWRPTL. R122, R161: MemWrPtl of the CPU of a mode D gang, with its byte enables. -/
def execMemWrPtl (g : Fin 32) (tag dpa mask : Nat) (data : List Byte) (s : State) : Host.Outcome State Fault Refusal :=
  .next (s.run (fun s => (s.cpuRequest { gang := g.val, tag := tag, op := 3, dpa := dpa, arg := mask, data := data }).conclude))

/-- BI_SNOOP_RESPONSE. R161, Table 4.11: the CPU answers a back-invalidation snoop of the line at a pool address. -/
def execBiSnoopResponse (g : Fin 32) (addr : Nat) (r : BiRsp) (s : State) : Host.Outcome State Fault Refusal :=
  .next (s.run (fun s => (s.biResponse g.val addr r).conclude))

/-- GANG_HEARTBEAT. R161: a mode D gang sends its Heartbeat. -/
def execGangHeartbeat (g : Fin 32) (s : State) : Host.Outcome State Fault Refusal :=
  .next (s.run (fun s => (s.gangBeat g.val).conclude))

/-- IDENTIFY_MEMORY_DEVICE. R121, R124: the capacity of the gang, in 256 MiB (log entry 53). -/
def execIdentifyMemoryDevice (g : Fin 32) (s : State) : Host.Outcome State Fault Refusal :=
  .next (s.run (fun s => s.gangMailbox g.val 0 (bytesOfNat 8 (s.gangCapacity g.val / 2 ^ 28))))

/-- GET_SUPPORTED_LOGS. R124: the payload is open (log entry 53). -/
def execGetSupportedLogs (g : Fin 32) (s : State) : Host.Outcome State Fault Refusal :=
  .next (s.run (fun s => s.gangLog g.val 0))

/-- GET_LOG. R124: the payload is open (log entry 53). -/
def execGetLog (g : Fin 32) (s : State) : Host.Outcome State Fault Refusal :=
  .next (s.run (fun s => s.gangLog g.val 1))

/-- GET_HEALTH_INFO. R124: the payload is open (log entry 53). -/
def execGetHealthInfo (g : Fin 32) (s : State) : Host.Outcome State Fault Refusal :=
  .next (s.run (fun s => s.gangLog g.val 2))

/-- GET_EVENT_RECORDS. R123, R124: the device event log of the gang. -/
def execGetEventRecords (g : Fin 32) (s : State) : Host.Outcome State Fault Refusal :=
  .next (s.run (fun s => s.gangMailbox g.val 0 ((s.gangEvents g.val).flatMap MediaEvent.bytes)))

/-- CLEAR_EVENT_RECORDS. R124: records leave the device event log by handle. -/
def execClearEventRecords (g : Fin 32) (handles : List Nat) (s : State) : Host.Outcome State Fault Refusal :=
  .next (s.run (fun s => (s.clearGangEvents g.val handles).gangMailbox g.val 0 []))

/-- UNSUPPORTED_MAILBOX_COMMAND. R124: any other command completes with Unsupported. -/
def execUnsupportedMailboxCommand (g : Fin 32) (s : State) : Host.Outcome State Fault Refusal :=
  .next (s.run (fun s => s.gangMailbox g.val mailboxUnsupported []))

end Sys2Proof.Machine
end

