-- ==== Sys2Proof/Machine/Dispatch.lean ====
section
/-!
DEFINITION. The effect of a command on everything but the queue: one arm for each constructor.
-/
namespace Sys2Proof.Machine

/-- What a command does. -/
def exec (i : Instr) (s : State) : Host.Outcome State Fault Refusal :=
  match i with
  | .registerWrite src off bytes data => Sys2Proof.Machine.execRegisterWrite src off bytes data s
  | .ownerByteWrite src kind unit half => Sys2Proof.Machine.execOwnerByteWrite src kind unit half s
  | .tbLoRead src off bytes => Sys2Proof.Machine.execTbLoRead src off bytes s
  | .sensorWindowClose counts => Sys2Proof.Machine.execSensorWindowClose counts s
  | .paceControlStep tmax => Sys2Proof.Machine.execPaceControlStep tmax s
  | .avsWriteDone ok => Sys2Proof.Machine.execAvsWriteDone ok s
  | .pcePolicyWrite src data => Sys2Proof.Machine.execPcePolicyWrite src data s
  | .lowerRetarget => Sys2Proof.Machine.execLowerRetarget s
  | .throttleLowering => Sys2Proof.Machine.execThrottleLowering s
  | .timeTadpoleExchange => Sys2Proof.Machine.execTimeTadpoleExchange s
  | .timeTadpole n p => Sys2Proof.Machine.execTimeTadpole n p s
  | .stuckHandshakeTimeout stage plane => Sys2Proof.Machine.execStuckHandshakeTimeout stage plane s
  | .stuckStageReset => Sys2Proof.Machine.execStuckStageReset s
  | .transactionTimeout t => Sys2Proof.Machine.execTransactionTimeout t s
  | .dataPlaneReset cause => Sys2Proof.Machine.execDataPlaneReset cause s
  | .controlPlaneReset cause => Sys2Proof.Machine.execControlPlaneReset cause s
  | .managementPlaneReset cause => Sys2Proof.Machine.execManagementPlaneReset cause s
  | .bufferAudit => Sys2Proof.Machine.execBufferAudit s
  | .swcClearDrops src => Sys2Proof.Machine.execSwcClearDrops src s
  | .swcAuditRequest src => Sys2Proof.Machine.execSwcAuditRequest src s
  | .rdShared p => Sys2Proof.Machine.execRdShared p s
  | .rdOwn p => Sys2Proof.Machine.execRdOwn p s
  | .rdCurrent p => Sys2Proof.Machine.execRdCurrent p s
  | .wrBack p => Sys2Proof.Machine.execWrBack p s
  | .cleanEvict p => Sys2Proof.Machine.execCleanEvict p s
  | .atomicAny p => Sys2Proof.Machine.execAtomicAny p s
  | .heartbeat p => Sys2Proof.Machine.execHeartbeat p s
  | .snoopResponse p => Sys2Proof.Machine.execSnoopResponse p s
  | .snoopTimeout txn eid => Sys2Proof.Machine.execSnoopTimeout txn eid s
  | .heartbeatTimeout eid => Sys2Proof.Machine.execHeartbeatTimeout eid s
  | .failureWalkDone eid => Sys2Proof.Machine.execFailureWalkDone eid s
  | .hostDeclare src eid => Sys2Proof.Machine.execHostDeclare src eid s
  | .hostFailedClear src eid => Sys2Proof.Machine.execHostFailedClear src eid s
  | .combiningWindowClose n => Sys2Proof.Machine.execCombiningWindowClose n s
  | .atomicRsp p => Sys2Proof.Machine.execAtomicRsp p s
  | .dataCompletion p => Sys2Proof.Machine.execDataCompletion p s
  | .wbackCompletion p => Sys2Proof.Machine.execWbackCompletion p s
  | .errCompletion p => Sys2Proof.Machine.execErrCompletion p s
  | .enginePoolRead engine addr ecc => Sys2Proof.Machine.execEnginePoolRead engine addr ecc s
  | .enginePoolWrite engine addr data => Sys2Proof.Machine.execEnginePoolWrite engine addr data s
  | .cleanerScan => Sys2Proof.Machine.execCleanerScan s
  | .trayDataReceive p => Sys2Proof.Machine.execTrayDataReceive p s
  | .trayCplReceive p => Sys2Proof.Machine.execTrayCplReceive p s
  | .cxlMemResponse tray a => Sys2Proof.Machine.execCxlMemResponse tray a s
  | .trayMsgReceive tray p => Sys2Proof.Machine.execTrayMsgReceive tray p s
  | .bindAckTimeout tray => Sys2Proof.Machine.execBindAckTimeout tray s
  | .profileTimerExpiry tray => Sys2Proof.Machine.execProfileTimerExpiry tray s
  | .portAbsenceTimeout n => Sys2Proof.Machine.execPortAbsenceTimeout n s
  | .replicaCopyDone base => Sys2Proof.Machine.execReplicaCopyDone base s
  | .trayFormat h tray => Sys2Proof.Machine.execTrayFormat h tray s
  | .trayDetach h tray => Sys2Proof.Machine.execTrayDetach h tray s
  | .memRd g tag withData what dpa => Sys2Proof.Machine.execMemRd g tag withData what dpa s
  | .memWr g tag dpa data => Sys2Proof.Machine.execMemWr g tag dpa data s
  | .memWrPtl g tag dpa mask data => Sys2Proof.Machine.execMemWrPtl g tag dpa mask data s
  | .biSnoopResponse g addr r => Sys2Proof.Machine.execBiSnoopResponse g addr r s
  | .gangHeartbeat g => Sys2Proof.Machine.execGangHeartbeat g s
  | .identifyMemoryDevice g => Sys2Proof.Machine.execIdentifyMemoryDevice g s
  | .getSupportedLogs g => Sys2Proof.Machine.execGetSupportedLogs g s
  | .getLog g => Sys2Proof.Machine.execGetLog g s
  | .getHealthInfo g => Sys2Proof.Machine.execGetHealthInfo g s
  | .getEventRecords g => Sys2Proof.Machine.execGetEventRecords g s
  | .clearEventRecords g handles => Sys2Proof.Machine.execClearEventRecords g handles s
  | .unsupportedMailboxCommand g => Sys2Proof.Machine.execUnsupportedMailboxCommand g s
  | .sqTail src q bytes data => Sys2Proof.Machine.execSqTail src q bytes data s
  | .cqHead src q bytes data => Sys2Proof.Machine.execCqHead src q bytes data s
  | .sqFetchComplete q slots => Sys2Proof.Machine.execSqFetchComplete q slots s
  | .cmdPacket p => Sys2Proof.Machine.execCmdPacket p s
  | .nop h => Sys2Proof.Machine.execNop h s
  | .barrier h => Sys2Proof.Machine.execBarrier h s
  | .cancel h queue tag => Sys2Proof.Machine.execCancel h queue tag s
  | .jobSuspend h job => Sys2Proof.Machine.execJobSuspend h job s
  | .jobResume h job => Sys2Proof.Machine.execJobResume h job s
  | .copy h src dst len => Sys2Proof.Machine.execCopy h src dst len s
  | .fill h dst len pattern => Sys2Proof.Machine.execFill h dst len pattern s
  | .flushRange h addr len => Sys2Proof.Machine.execFlushRange h addr len s
  | .tierHint h addr len mode => Sys2Proof.Machine.execTierHint h addr len mode s
  | .prefetch h addr len => Sys2Proof.Machine.execPrefetch h addr len s
  | .counterSet h c mode value job => Sys2Proof.Machine.execCounterSet h c mode value job s
  | .counterAdd h c scope operand => Sys2Proof.Machine.execCounterAdd h c scope operand s
  | .wait h c scope target deadline => Sys2Proof.Machine.execWait h c scope target deadline s
  | .waitCopy h c scope target deadline src dst len => Sys2Proof.Machine.execWaitCopy h c scope target deadline src dst len s
  | .waitComplete q tag => Sys2Proof.Machine.execWaitComplete q tag s
  | .waitDeadline q tag => Sys2Proof.Machine.execWaitDeadline q tag s
  | .counterTadpole p => Sys2Proof.Machine.execCounterTadpole p s
  | .writePacket p => Sys2Proof.Machine.execWritePacket p s
  | .statusTadpole p => Sys2Proof.Machine.execStatusTadpole p s
  | .versionOpen h addr mode => Sys2Proof.Machine.execVersionOpen h addr mode s
  | .versionClose h addr other => Sys2Proof.Machine.execVersionClose h addr other s
  | .versionPublish h addr base working => Sys2Proof.Machine.execVersionPublish h addr base working s
  | .vregionValidWrite src region data => Sys2Proof.Machine.execVregionValidWrite src region data s
  | .ownClaim h addr expected new => Sys2Proof.Machine.execOwnClaim h addr expected new s
  | .ownRelease h addr expected next => Sys2Proof.Machine.execOwnRelease h addr expected next s
  | .handoffExpiry record => Sys2Proof.Machine.execHandoffExpiry record s
  | .lostAck h addr len all => Sys2Proof.Machine.execLostAck h addr len all s
  | .reduce h plan => Sys2Proof.Machine.execReduce h plan s
  | .allreduce h plan => Sys2Proof.Machine.execAllreduce h plan s
  | .reduceScatter h plan => Sys2Proof.Machine.execReduceScatter h plan s
  | .allgather h plan => Sys2Proof.Machine.execAllgather h plan s
  | .broadcast h plan => Sys2Proof.Machine.execBroadcast h plan s
  | .smaxMerge h plan => Sys2Proof.Machine.execSmaxMerge h plan s
  | .topk h plan => Sys2Proof.Machine.execTopk h plan s
  | .sample h plan => Sys2Proof.Machine.execSample h plan s
  | .collPacket p => Sys2Proof.Machine.execCollPacket p s
  | .earlyArrivalExpiry part coll => Sys2Proof.Machine.execEarlyArrivalExpiry part coll s
  | .collectiveWatchdogExpiry key => Sys2Proof.Machine.execCollectiveWatchdogExpiry key s
  | .abortTadpole p => Sys2Proof.Machine.execAbortTadpole p s
  | .abortMemoryExpiry part coll => Sys2Proof.Machine.execAbortMemoryExpiry part coll s
  | .gather h dst a => Sys2Proof.Machine.execGather h dst a s
  | .scatter h src a => Sys2Proof.Machine.execScatter h src a s
  | .filterScan h a => Sys2Proof.Machine.execFilterScan h a s
  | .kernelLaunch h chain packets engine anyCell compat core clocked => Sys2Proof.Machine.execKernelLaunch h chain packets engine anyCell compat core clocked s
  | .frameBoundary q => Sys2Proof.Machine.execFrameBoundary q s
  | .kernelComplete q tag => Sys2Proof.Machine.execKernelComplete q tag s
  | .kernelWatchdogStop q tag => Sys2Proof.Machine.execKernelWatchdogStop q tag s
  | .cellReset src n => Sys2Proof.Machine.execCellReset src n s
  | .cellResetDone n => Sys2Proof.Machine.execCellResetDone n s
  | .attend h desc => Sys2Proof.Machine.execAttend h desc s
  | .project h desc => Sys2Proof.Machine.execProject h desc s
  | .encode h a => Sys2Proof.Machine.execEncode h a s
  | .codebookBuild h a => Sys2Proof.Machine.execCodebookBuild h a s
  | .codebookRetire h slot => Sys2Proof.Machine.execCodebookRetire h slot s
  | .matrixTileReset src n => Sys2Proof.Machine.execMatrixTileReset src n s
  | .matrixTileResetDone n => Sys2Proof.Machine.execMatrixTileResetDone n s
  | .queueEnable src q => Sys2Proof.Machine.execQueueEnable src q s
  | .queueDisable src q => Sys2Proof.Machine.execQueueDisable src q s
  | .queueDisableComplete q => Sys2Proof.Machine.execQueueDisableComplete q s
  | .partitionCreate h part => Sys2Proof.Machine.execPartitionCreate h part s
  | .partitionReserve h part kind first count ret => Sys2Proof.Machine.execPartitionReserve h part kind first count ret s
  | .partitionSeal h part => Sys2Proof.Machine.execPartitionSeal h part s
  | .sealComplete part => Sys2Proof.Machine.execSealComplete part s
  | .partitionDrain h part => Sys2Proof.Machine.execPartitionDrain h part s
  | .partitionDrainComplete part => Sys2Proof.Machine.execPartitionDrainComplete part s
  | .partitionScrub h part => Sys2Proof.Machine.execPartitionScrub h part s
  | .partitionScrubComplete part => Sys2Proof.Machine.execPartitionScrubComplete part s
  | .partitionRelease h part => Sys2Proof.Machine.execPartitionRelease h part s
  | .keyRotate h part kind port => Sys2Proof.Machine.execKeyRotate h part kind port s
  | .epochInstall h => Sys2Proof.Machine.execEpochInstall h s
  | .trngHealthFail => Sys2Proof.Machine.execTrngHealthFail s
  | .trngHealthPass => Sys2Proof.Machine.execTrngHealthPass s
  | .spdmRequest vf q => Sys2Proof.Machine.execSpdmRequest vf q s
  | .flitReceive n f crossingFull => Sys2Proof.Machine.execFlitReceive n f crossingFull s
  | .flitTransmit n => Sys2Proof.Machine.execFlitTransmit n s
  | .replayTimerExpiry n => Sys2Proof.Machine.execReplayTimerExpiry n s
  | .linkTadpole n p f => Sys2Proof.Machine.execLinkTadpole n p f s
  | .trainMsgReceive n m => Sys2Proof.Machine.execTrainMsgReceive n m s
  | .signalDetect n => Sys2Proof.Machine.execSignalDetect n s
  | .signalLost n => Sys2Proof.Machine.execSignalLost n s
  | .lock n => Sys2Proof.Machine.execLock n s
  | .trainingTimerExpiry n => Sys2Proof.Machine.execTrainingTimerExpiry n s
  | .backoffExpiry n => Sys2Proof.Machine.execBackoffExpiry n s
  | .selfTestDone n failed => Sys2Proof.Machine.execSelfTestDone n failed s
  | .keyExchangeDone n ok => Sys2Proof.Machine.execKeyExchangeDone n ok s
  | .ltssmDone n ok width => Sys2Proof.Machine.execLtssmDone n ok width s
  | .ideSetupDone n ok => Sys2Proof.Machine.execIdeSetupDone n ok s
  | .portRetrain src n => Sys2Proof.Machine.execPortRetrain src n s
  | .portClearCounts src n => Sys2Proof.Machine.execPortClearCounts src n s
  | .refclkFabLoss k => Sys2Proof.Machine.execRefclkFabLoss k s
  | .refclkFabReturn k => Sys2Proof.Machine.execRefclkFabReturn k s
  | .vfFlr vf => Sys2Proof.Machine.execVfFlr vf s
  | .pfFlr => Sys2Proof.Machine.execPfFlr s
  | .hostLinkLoss => Sys2Proof.Machine.execHostLinkLoss s
  | .ideIntegrityFailure stream => Sys2Proof.Machine.execIdeIntegrityFailure stream s
  | .ideKmQuery stream => Sys2Proof.Machine.execIdeKmQuery stream s
  | .kSetGo stream => Sys2Proof.Machine.execKSetGo stream s
  | .kSetStop stream => Sys2Proof.Machine.execKSetStop stream s
  | .keyProg stream => Sys2Proof.Machine.execKeyProg stream s
  | .outputSelect o ecc => Sys2Proof.Machine.execOutputSelect o ecc s
  | .reassemblyTimeout id => Sys2Proof.Machine.execReassemblyTimeout id s
  | .fenceHoldTimeout id => Sys2Proof.Machine.execFenceHoldTimeout id s
  | .fenceDone p => Sys2Proof.Machine.execFenceDone p s
  | .sourceFenceExpiry port edge g => Sys2Proof.Machine.execSourceFenceExpiry port edge g s
  | .arm src => Sys2Proof.Machine.execArm src s
  | .disarm src => Sys2Proof.Machine.execDisarm src s
  | .rteClearDrops src => Sys2Proof.Machine.execRteClearDrops src s
  | .epochDrainClose => Sys2Proof.Machine.execEpochDrainClose s
  | .refillBoundary => Sys2Proof.Machine.execRefillBoundary s
  | .tmgClearCounts src => Sys2Proof.Machine.execTmgClearCounts src s
  | .complementRepair src => Sys2Proof.Machine.execComplementRepair src s
  | .shadowMissingTimeout part coll off => Sys2Proof.Machine.execShadowMissingTimeout part coll off s
  | .shadowDigestTimeout tag => Sys2Proof.Machine.execShadowDigestTimeout tag s
  | .lockstepMismatch => Sys2Proof.Machine.execLockstepMismatch s
  | .managementWatchdogExpiry => Sys2Proof.Machine.execManagementWatchdogExpiry s
  | .watchdogKick src => Sys2Proof.Machine.execWatchdogKick src s
  | .tlsHandshake port digest ok selfOk => Sys2Proof.Machine.execTlsHandshake port digest ok selfOk s
  | .sessionIdleTimeout n => Sys2Proof.Machine.execSessionIdleTimeout n s
  | .sessionClose n => Sys2Proof.Machine.execSessionClose n s
  | .identify n head data => Sys2Proof.Machine.execIdentify n head data s
  | .sensorReadCmd n head data => Sys2Proof.Machine.execSensorReadCmd n head data s
  | .logRead n head data => Sys2Proof.Machine.execLogRead n head data s
  | .logSubscribe n head data => Sys2Proof.Machine.execLogSubscribe n head data s
  | .sampleSubscribe n head data => Sys2Proof.Machine.execSampleSubscribe n head data s
  | .spdm n head data => Sys2Proof.Machine.execSpdm n head data s
  | .regRead n head data => Sys2Proof.Machine.execRegRead n head data s
  | .regWrite n head data => Sys2Proof.Machine.execRegWrite n head data s
  | .cmdSubmit n head data => Sys2Proof.Machine.execCmdSubmit n head data s
  | .declare n head data => Sys2Proof.Machine.execDeclare n head data s
  | .planeReset n head data => Sys2Proof.Machine.execPlaneReset n head data s
  | .imageBegin n head data => Sys2Proof.Machine.execImageBegin n head data s
  | .imageChunk n head data => Sys2Proof.Machine.execImageChunk n head data s
  | .imageEnd n head data => Sys2Proof.Machine.execImageEnd n head data s
  | .svnAdvance n head data => Sys2Proof.Machine.execSvnAdvance n head data s
  | .anchorSet n head data => Sys2Proof.Machine.execAnchorSet n head data s
  | .anchorClear n head data => Sys2Proof.Machine.execAnchorClear n head data s
  | .netConfig n head data => Sys2Proof.Machine.execNetConfig n head data s
  | .policySet n head policy => Sys2Proof.Machine.execPolicySet n head policy s
  | .mailboxGo src => Sys2Proof.Machine.execMailboxGo src s
  | .sensorPoll source code ok => Sys2Proof.Machine.execSensorPoll source code ok s
  | .eventRingCopy => Sys2Proof.Machine.execEventRingCopy s
  | .persistentLogCopy => Sys2Proof.Machine.execPersistentLogCopy s
  | .sampleForward => Sys2Proof.Machine.execSampleForward s
  | .ptpMessage offset => Sys2Proof.Machine.execPtpMessage offset s
  | .eavesEnter src => Sys2Proof.Machine.execEavesEnter src s
  | .eavesEntryProgress => Sys2Proof.Machine.execEavesEntryProgress s
  | .eavesEntryTimeout => Sys2Proof.Machine.execEavesEntryTimeout s
  | .wake src => Sys2Proof.Machine.execWake src s
  | .wakeComplete => Sys2Proof.Machine.execWakeComplete s
  | .porstNAssert => Sys2Proof.Machine.execPorstNAssert s
  | .porstNRelease enrol i3c mode => Sys2Proof.Machine.execPorstNRelease enrol i3c mode s
  | .bootStageAdvance hbmFail => Sys2Proof.Machine.execBootStageAdvance hbmFail s
  | .perstNAssert => Sys2Proof.Machine.execPerstNAssert s
  | .perstNRelease => Sys2Proof.Machine.execPerstNRelease s
  | .dataResetRequest src => Sys2Proof.Machine.execDataResetRequest src s
  | .controlResetRequest src => Sys2Proof.Machine.execControlResetRequest src s
  | .release src => Sys2Proof.Machine.execRelease src s
  | .thermalTrip => Sys2Proof.Machine.execThermalTrip s
  | .refclkPcieLoss => Sys2Proof.Machine.execRefclkPcieLoss s
  | .xtalLoss => Sys2Proof.Machine.execXtalLoss s
  | .xtalReturn => Sys2Proof.Machine.execXtalReturn s
  | .padCfgWrite src g data spi => Sys2Proof.Machine.execPadCfgWrite src g data spi s
  | .hostLinkReturn => Sys2Proof.Machine.execHostLinkReturn s
  | .refclkPcieReturn => Sys2Proof.Machine.execRefclkPcieReturn s
  | .managementRestartDone => Sys2Proof.Machine.execManagementRestartDone s
  | .spareSteerDone n ok => Sys2Proof.Machine.execSpareSteerDone n ok s

end Sys2Proof.Machine
end

