-- ==== Sys2Proof/Safety.lean ====
section
/-!
DEFINITION. The terms statements use: what a safe run is, and when a register access of the control host or of Newt is served.
-/
namespace Sys2Proof.Machine

/-- The step at a state goes on. -/
def State.goesOn (s : State) : Prop := ∃ t, step s = .next t

/-- `n` steps from a state all go on and end in `t`. -/
def runs : Nat → State → State → Prop
  | 0, s, t => s = t
  | n + 1, s, t => ∃ u, step s = .next u ∧ runs n u t

/-- The next state once a command's own effect has made the part `u`: what follows of itself has happened too (log entry 10), and the
waiting commands are as they were. -/
def State.after (s : State) (u : Chip) : State := { s with toChip := u.conclude }

/-- The local consumer may apply packet `p` now, and the part as it applies it: a copy of the packet in the buffer is done with; a
packet that is not in the buffer is applied as it is (log entry 14). -/
abbrev Chip.accepts (s : Chip) (p : Packet) : Prop := (s.takeLocal p).2 = true
def Chip.taken (s : Chip) (p : Packet) : Chip := (s.takeLocal p).1

/-- The accesses of `src` at a BAR0 offset are served (R24, R337, R475, R514): the block answers the source, its plane is out of reset,
and the part is not in Eaves. -/
abbrev Chip.serves (s : Chip) (src : Source) (off : Nat) : Prop := s.deaf src off = false ∧ s.unserved off = none

/-- Two fields share no bit of the register space. -/
abbrev apart (a : Nat) (f : Fld) (b : Nat) (g : Fld) : Prop := 8 * b + g.lo + g.width ≤ 8 * a + f.lo ∨ 8 * a + f.lo + f.width ≤ 8 * b + g.lo

/-- Nothing is under way at the home: no transaction is open, no request waits, no result of the tiers is to be taken. -/
abbrev Chip.homeQuiet (s : Chip) : Prop := s.pool.txns = [] ∧ s.pool.waits = [] ∧ s.pool.done = []

/-- A request for line `j` of its sector alone passes every check of the home (R14, R31, R125, R129, R133, R145, R158, R188): well formed,
homed here, permitted, not lost, in no versioned region, with room in the set of its bank `b`. -/
def Chip.homeAdmits (s : Chip) (p : Packet) (j b : Nat) : Prop :=
  let c := Coh.ofBody p.body
  let line := 4 * c.saddr + j
  cohFormatOk p = true ∧ j < 4 ∧ c.lmask = 2 ^ j ∧ (∃ i, s.rangeCheck p.epoch p.partition (p.poolAddr / 16384) = .entry i 1)
    ∧ s.powerState = 0 ∧ s.mayRequest p = none ∧ s.lostHit p.partition line = .clear ∧ s.regionOf p.partition (line / 256) = none
    ∧ s.bankOf p.partition line = some b ∧ (s.ways b line).length < 16

/-- The tier manager has nothing to go on with after an operation of tray `n`: no flash work, no key sweep, no replica copy. -/
abbrev Chip.tierIdle (s : Chip) (n : Nat) : Prop :=
  s.pool.blocks = [] ∧ s.pool.moves = [] ∧ s.pool.sweeps = [] ∧ s.pool.replicas = [] ∧ (s.tray n).ident.flashCap = []

/-- The line that such a request names. -/
def Packet.lineOf (p : Packet) (j : Nat) : Nat := 4 * (Coh.ofBody p.body).saddr + j

/-- The home request that a request of gang `g`'s CPU for the line at pool address `a` becomes (Table 3.11). -/
def Chip.gangPacket (s : Chip) (g msg a : Nat) (data : List Byte) : Packet :=
  { cls := if cohIsData msg then clsCOH_DATA else clsCOH, epoch := s.active, partition := s.gangPart g, src := s.gangEid g, dst := s.selfEid
    segs := if cohIsData msg then 1 else 0, body := Coh.body { msg := msg, lmask := 2 ^ (a / 64 % 4), saddr := a / 64 / 4 }
    payload := payloadOf [(a / 64 % 4, data)] }

/-- The write cache has room for one more line of partition `p`. -/
abbrev Chip.cacheHasRoom (s : Chip) (p : Nat) : Prop := (s.cacheOf p).length < s.cacheRoom p

/-- The control host or Newt firmware. -/
abbrev Source.central (src : Source) : Prop := src = .pf ∨ src = .newt

/-- Where a command packet waits, and where its reply goes, by the way it comes (R271). -/
def CmdHead.lane (h : CmdHead) : Nat := match h.from_ with | .newt => newtQueue | _ => h.queue.val
def CmdHead.origin (h : CmdHead) : Origin := match h.from_ with | .ring => .ring | .fabric e => .fabric e.val | .newt => .newt 17

/-- The command that packet `w` makes: the next one in the order of arrival, of the partition of the queue that the packet names. -/
def Chip.cmdOf (s : Chip) (h : CmdHead) (w : Nat) : Cmd :=
  { id := s.seq.nextCmd, queue := h.lane, part := h.queue.val / 16, origin := h.origin, slot := w, cur := w }

/-- The part with that command last among those it holds. -/
def Chip.entered (s : Chip) (h : CmdHead) (w : Nat) : Chip :=
  { s with seq := { s.seq with nextCmd := s.seq.nextCmd + 1, cmds := s.seq.cmds ++ [s.cmdOf h w] } }

/-- The source may bring a packet now (R271, R274, R276, R277): the part is awake; a ring's queue is enabled and not of FABRIC source;
a fabric command comes from an endpoint of the partition to an enabled FABRIC queue that is not being disabled and holds fewer than 256
commands not started; Newt's path is open outside a control-plane reset. -/
def Chip.takesSlot (s : Chip) (h : CmdHead) (w : Nat) : Prop :=
  s.powerState = 0 ∧ match h.from_ with
    | .ring => (s.queue h.queue.val).fetching = 0 ∧ s.qEnabled h.queue.val = true ∧ s.qSource h.queue.val ≠ 3
    | .fabric e => slotOp w ≠ oNOP ∧ slotQueue w = h.queue.val ∧ s.hostPart e.val = some (h.queue.val / 16) ∧ s.qSource h.queue.val = 3
        ∧ s.qEnabled h.queue.val = true ∧ (s.queue h.queue.val).disabling = false
        ∧ (s.seq.cmds.filter (fun m => m.queue == h.queue.val && m.phase == .fetched)).length < 256
    | .newt => s.flag A.GLB_BOOT_STATUS F.GLB_BOOT_STATUS_CP_RESET = false

/-- Command `c` is message `m` on management session `n` (Table 15.6). -/
def isMessage (c : Instr) (n : Fin 8) (m : MgmtMsg) : Prop :=
  (m.policy = {} ∧
    ((c = .identify n m.head m.data ∧ m.code = mcIDENTIFY) ∨ (c = .sensorReadCmd n m.head m.data ∧ m.code = mcSENSOR_READ)
      ∨ (c = .logRead n m.head m.data ∧ m.code = mcLOG_READ) ∨ (c = .logSubscribe n m.head m.data ∧ m.code = mcLOG_SUBSCRIBE)
      ∨ (c = .sampleSubscribe n m.head m.data ∧ m.code = mcSAMPLE_SUBSCRIBE) ∨ (c = .spdm n m.head m.data ∧ m.code = mcSPDM)
      ∨ (c = .regRead n m.head m.data ∧ m.code = mcREG_READ) ∨ (c = .regWrite n m.head m.data ∧ m.code = mcREG_WRITE)
      ∨ (c = .cmdSubmit n m.head m.data ∧ m.code = mcCMD_SUBMIT) ∨ (c = .declare n m.head m.data ∧ m.code = mcDECLARE)
      ∨ (c = .planeReset n m.head m.data ∧ m.code = mcPLANE_RESET) ∨ (c = .imageBegin n m.head m.data ∧ m.code = mcIMAGE_BEGIN)
      ∨ (c = .imageChunk n m.head m.data ∧ m.code = mcIMAGE_CHUNK) ∨ (c = .imageEnd n m.head m.data ∧ m.code = mcIMAGE_END)
      ∨ (c = .svnAdvance n m.head m.data ∧ m.code = mcSVN_ADVANCE) ∨ (c = .anchorSet n m.head m.data ∧ m.code = mcANCHOR_SET)
      ∨ (c = .anchorClear n m.head m.data ∧ m.code = mcANCHOR_CLEAR) ∨ (c = .netConfig n m.head m.data ∧ m.code = mcNET_CONFIG)))
  ∨ (c = .policySet n m.head m.policy ∧ m.code = mcPOLICY_SET ∧ m.data = [])

/-- Nothing is under way in the sequencer or in the pool. -/
abbrev Chip.still (s : Chip) : Prop :=
  s.seq.cmds = [] ∧ s.seq.newtDone = [] ∧ s.pool.cmdDone = [] ∧ s.pool.ended = [] ∧ s.pool.wanted = [] ∧ s.pool.ops = []
    ∧ s.pool.tops = [] ∧ s.pool.sweeps = [] ∧ s.pool.replicas = [] ∧ s.homeQuiet ∧ s.pool.engWrites = [] ∧ s.pool.banks = []
    ∧ s.newt.owed = []

end Sys2Proof.Machine
end

