-- ==== Sys2Proof/WellFormed.lean ====
section
/-!
DEFINITION. When a command is well formed: every operand fits the field that carries it, a packet has the class and the message of
its row, and a unit's number names a unit of the part.
-/
namespace Sys2Proof
open Sys2Proof.Machine

/-- Whether a source is one the part has. -/
def Machine.Source.ok (src : Source) : Bool :=
  match src with
  | .vf p => Nat.blt p 64
  | _ => true

/-- Whether an access has one of the widths of a bus and lies in BAR0, with data that fits. -/
def Machine.accessOk (off bytes data : Nat) : Bool :=
  [1, 2, 4, 8].contains bytes && Nat.blt off 0x4000000 && Nat.blt data (2 ^ (8 * bytes))

/-- Whether a packet's fields fit their places (Tables 10.1 and 10.2): a data packet has up to 16 segments (R343) and as much payload, a
tadpole neither. -/
def Machine.Packet.ok (p : Packet) : Bool :=
  classKnown p.cls && Nat.blt p.epoch 2 && Nat.blt p.tc 8 && Nat.blt p.dst 16384 && Nat.blt p.src 16384 && Nat.blt p.fgen 4
    && Nat.blt p.partition 64 && Nat.blt p.defl 32 && Nat.blt p.hops 128 && Nat.blt p.seq 65536
    && (if classIsData p.cls then Nat.ble p.segs 16 && p.payload.length == 256 * p.segs && Nat.blt p.body (2 ^ 128)
        else p.segs == 0 && p.payload.isEmpty && Nat.blt p.body (2 ^ 384))

/-- Whether a training message's fields fit (Table 9.16). -/
def Machine.TrainMsg.ok (m : TrainMsg) : Bool :=
  Nat.blt m.code 256 && Nat.blt m.seq 256 && Nat.ble m.length 608 && m.payload.length == m.length

/-- Whether a flit's fields fit (Tables 9.3 and 9.4). -/
def Machine.Flit.ok (f : Flit) : Bool :=
  Nat.blt f.seq 4096 && Nat.blt f.kind 4 && Nat.blt f.phase 2 && Nat.ble f.units.length (if f.sealWord.isSome then 18 else 20)
    && f.units.all (fun u => Nat.blt u (2 ^ 256)) && f.msg.ok
    && f.sealWord.all (fun x => Nat.blt x.ackSeq 4096 && Nat.blt x.groupLen 16 && Nat.blt x.groupCtr (2 ^ 64))

/-- Whether the answer of a mode C device carries a line (R88). -/
def Machine.CxlAnswer.ok (a : CxlAnswer) : Bool :=
  match a with
  | .mem _ data poison => poison || data.length == 64 || data.isEmpty
  | .step _ _ => true

/-- Whether an SPDM request's codes fit a byte. -/
def Machine.SpdmReq.ok (q : SpdmReq) : Bool :=
  match q with
  | .measurement i _ => Nat.blt i 256
  | .other c _ => Nat.blt c 256

/-- Whether a management header's fields fit (Table 15.5). -/
def Machine.MgmtHead.ok (h : MgmtHead) : Bool :=
  Nat.blt h.status 256 && Nat.blt h.tag (2 ^ 32) && Nat.blt h.length (2 ^ 32)

/-- Whether a command packet's TAG fits (Table 8.1), and the parts of a locator (Table 8.3), or of a short address (R279). -/
def Machine.CmdHead.ok (h : CmdHead) : Bool := Nat.blt h.tag (2 ^ 32)
def Machine.Locator.fits (l : Locator) : Bool :=
  Nat.blt l.addr (2 ^ 56) && Nat.blt l.space 4 && Nat.blt l.eid 16384 && Nat.blt l.engine 128 && Nat.blt l.counter 16384 && !l.rsv

def Machine.Locator.fitsShort (l : Locator) : Bool :=
  Nat.blt l.addr (2 ^ 56) && Nat.blt l.space 4 && l.eid == 0 && l.engine == 0 && !l.countEn && l.counter == 0 && !l.rsv

/-- Whether the parameters of Tables 8.6 and 8.7 fit their places. -/
def Machine.RowArgs.ok (a : RowArgs) : Bool :=
  Nat.blt a.list (2 ^ 38) && Nat.blt a.rowSpace 4 && Nat.blt a.count (2 ^ 32) && Nat.blt a.rowBytes (2 ^ 32) && Nat.blt a.base (2 ^ 64)
    && Nat.blt a.stride (2 ^ 64)
def Machine.ScanArgs.ok (a : ScanArgs) : Bool :=
  a.records.fitsShort && Nat.blt a.count (2 ^ 32) && Nat.blt a.recordBytes 65536 && Nat.blt a.keyOffset 65536 && Nat.blt a.keyFmt 16
    && Nat.blt a.combine 4 && Nat.blt a.op1 16 && Nat.blt a.op2 16 && Nat.blt a.pred (2 ^ 38) && a.output.fitsShort
    && Nat.blt a.outLen (2 ^ 64) && Nat.blt a.baseIndex (2 ^ 32)
def Machine.EncodeArgs.ok (a : EncodeArgs) : Bool :=
  Nat.blt a.slot 256 && Nat.blt a.rate 256 && Nat.blt a.gen 65536 && Nat.blt a.srcFmt 256 && a.src.fitsShort && Nat.blt a.count (2 ^ 64)
    && Nat.blt a.clip (2 ^ 32) && Nat.blt a.tol (2 ^ 32) && a.dst.fitsShort && Nat.blt a.dstLen (2 ^ 64)
def Machine.BuildArgs.ok (a : BuildArgs) : Bool :=
  Nat.blt a.slot 256 && Nat.blt a.rate 256 && Nat.blt a.mode 256 && Nat.blt a.iter 256 && Nat.blt a.srcFmt 256 && a.src.fitsShort
    && Nat.blt a.count (2 ^ 64) && Nat.blt a.clip (2 ^ 32)

/-- Whether a command's operands fit the fields that carry them and name units of the part. -/
def Instr.wellFormed (i : Instr) : Bool :=
  match i with
  | .registerWrite src off bytes data => src.ok && accessOk off bytes data
  | .ownerByteWrite src kind unit half => src.ok && Nat.blt unit (unitCount kind.val) && Nat.blt half 65536
  | .tbLoRead src off bytes => src.ok && accessOk off bytes 0
  | .sensorWindowClose counts => counts.length == 256
  | .paceControlStep tmax => decide (-1000 ≤ tmax ∧ tmax ≤ 2000)
  | .avsWriteDone _ => true
  | .pcePolicyWrite src data => src.ok && Nat.blt data (2 ^ 64)
  | .lowerRetarget => true
  | .throttleLowering => true
  | .timeTadpoleExchange => true
  | .timeTadpole _ p => p.ok && p.cls == clsTIME
  | .stuckHandshakeTimeout stage _ => Nat.blt stage 65536
  | .stuckStageReset => true
  | .transactionTimeout _ => true
  | .dataPlaneReset cause => Nat.ble 2 cause.val && Nat.ble cause.val 4
  | .controlPlaneReset cause => Nat.ble 2 cause.val
  | .managementPlaneReset _ => true
  | .bufferAudit => true
  | .swcClearDrops src => src.ok
  | .swcAuditRequest src => src.ok
  | .rdShared p => p.ok && (p.cls == clsCOH || p.cls == clsCOH_DATA) && ((Coh.ofBody p.body).msg == mRdShared)
  | .rdOwn p => p.ok && (p.cls == clsCOH || p.cls == clsCOH_DATA) && ((Coh.ofBody p.body).msg == mRdOwn)
  | .rdCurrent p => p.ok && (p.cls == clsCOH || p.cls == clsCOH_DATA) && ((Coh.ofBody p.body).msg == mRdCurrent)
  | .wrBack p => p.ok && (p.cls == clsCOH || p.cls == clsCOH_DATA) && ((Coh.ofBody p.body).msg == mWrBack)
  | .cleanEvict p => p.ok && (p.cls == clsCOH || p.cls == clsCOH_DATA) && ((Coh.ofBody p.body).msg == mCleanEvict)
  | .atomicAny p => p.ok && (p.cls == clsCOH || p.cls == clsCOH_DATA) && ((Coh.ofBody p.body).msg == mAtomicAny)
  | .heartbeat p => p.ok && (p.cls == clsCOH || p.cls == clsCOH_DATA) && ((Coh.ofBody p.body).msg == mHeartbeat)
  | .snoopResponse p => p.ok && (p.cls == clsCOH || p.cls == clsCOH_DATA) && cohIsSnoopResponse (Coh.ofBody p.body).msg
  | .snoopTimeout _ _ => true
  | .heartbeatTimeout _ => true
  | .failureWalkDone _ => true
  | .hostDeclare src _ => src.ok
  | .hostFailedClear src _ => src.ok
  | .combiningWindowClose _ => true
  | .atomicRsp p => p.ok && (p.cls == clsCOH || p.cls == clsCOH_DATA) && ((Coh.ofBody p.body).msg == mAtomicRsp)
  | .dataCompletion p => p.ok && (p.cls == clsCOH || p.cls == clsCOH_DATA) && ((Coh.ofBody p.body).msg == mData)
  | .wbackCompletion p => p.ok && (p.cls == clsCOH || p.cls == clsCOH_DATA) && ((Coh.ofBody p.body).msg == mWbAck)
  | .errCompletion p => p.ok && (p.cls == clsCOH || p.cls == clsCOH_DATA) && ((Coh.ofBody p.body).msg == mErr)
  | .enginePoolRead _ addr _ => Nat.blt addr (2 ^ 56)
  | .enginePoolWrite _ addr data => Nat.blt addr (2 ^ 56) && Nat.ble (addr + data.length) (2 ^ 56)
  | .cleanerScan => true
  | .trayDataReceive p => p.ok && p.cls == clsTRAY_DATA
  | .trayCplReceive p => p.ok && p.cls == clsTRAY_CPL
  | .cxlMemResponse _ a => a.ok
  | .trayMsgReceive _ p => p.ok && p.cls == clsTRAY_MSG
  | .bindAckTimeout _ => true
  | .profileTimerExpiry _ => true
  | .portAbsenceTimeout _ => true
  | .replicaCopyDone base => Nat.blt base (2 ^ 42)
  | .trayFormat h _ => h.ok
  | .trayDetach h _ => h.ok
  | .memRd _ tag _ _ dpa => Nat.blt tag 65536 && Nat.blt dpa (2 ^ 52)
  | .memWr _ tag dpa data => Nat.blt tag 65536 && Nat.blt dpa (2 ^ 52) && data.length == 64
  | .memWrPtl _ tag dpa mask data => Nat.blt tag 65536 && Nat.blt dpa (2 ^ 52) && Nat.blt mask (2 ^ 64) && data.length == 64
  | .biSnoopResponse _ addr _ => Nat.blt addr (2 ^ 56)
  | .gangHeartbeat _ => true
  | .identifyMemoryDevice _ => true
  | .getSupportedLogs _ => true
  | .getLog _ => true
  | .getHealthInfo _ => true
  | .getEventRecords _ => true
  | .clearEventRecords _ handles => handles.all (fun n => Nat.blt n (2 ^ 64))
  | .unsupportedMailboxCommand _ => true
  | .sqTail src _ bytes data => src.ok && accessOk 0 bytes data
  | .cqHead src _ bytes data => src.ok && accessOk 8 bytes data
  | .sqFetchComplete _ slots => slots.all (fun n => Nat.blt n (2 ^ 512))
  | .cmdPacket p => p.ok && p.cls == clsCMD
  | .nop h => h.ok
  | .barrier h => h.ok
  | .cancel h queue tag => h.ok && Nat.blt queue 1024 && Nat.blt tag (2 ^ 32)
  | .jobSuspend h job => h.ok && Nat.blt job 65536
  | .jobResume h job => h.ok && Nat.blt job 65536
  | .copy h src dst len => h.ok && src.fits && dst.fits && Nat.blt len (2 ^ 64)
  | .fill h dst len pattern => h.ok && dst.fits && Nat.blt len (2 ^ 64) && Nat.blt pattern (2 ^ 64)
  | .flushRange h addr len => h.ok && Nat.blt addr (2 ^ 56) && Nat.blt len (2 ^ 64)
  | .tierHint h addr len mode => h.ok && Nat.blt addr (2 ^ 56) && Nat.blt len (2 ^ 64) && Nat.blt mode 4
  | .prefetch h addr len => h.ok && Nat.blt addr (2 ^ 56) && Nat.blt len (2 ^ 64)
  | .counterSet h _ mode value job => h.ok && Nat.blt mode 2 && Nat.blt value (2 ^ 48) && Nat.blt job 65536
  | .counterAdd h _ scope operand => h.ok && Nat.ble 1 scope && Nat.ble scope 3 && Nat.blt operand (2 ^ 48)
  | .wait h _ scope target deadline => h.ok && Nat.ble 1 scope && Nat.ble scope 3 && Nat.blt target (2 ^ 48) && Nat.blt deadline (2 ^ 32)
  | .waitCopy h _ scope target deadline src dst len => h.ok && Nat.ble 1 scope && Nat.ble scope 3 && Nat.blt target (2 ^ 48) && Nat.blt deadline (2 ^ 32) && src.fits && dst.fits && Nat.blt len (2 ^ 64)
  | .waitComplete _ tag => Nat.blt tag (2 ^ 32)
  | .waitDeadline _ tag => Nat.blt tag (2 ^ 32)
  | .counterTadpole p => p.ok && p.cls == clsCOUNTER
  | .writePacket p => p.ok && p.cls == clsWRITE
  | .statusTadpole p => p.ok && p.cls == clsSTATUS
  | .versionOpen h addr mode => h.ok && Nat.blt addr (2 ^ 56) && Nat.blt mode 2
  | .versionClose h addr _ => h.ok && Nat.blt addr (2 ^ 56)
  | .versionPublish h addr base working => h.ok && Nat.blt addr (2 ^ 56) && Nat.blt base (2 ^ 32) && Nat.blt working (2 ^ 32)
  | .vregionValidWrite src _ data => src.ok && Nat.blt data (2 ^ 64)
  | .ownClaim h addr expected new => h.ok && Nat.blt addr (2 ^ 56) && Nat.blt expected (2 ^ 32) && Nat.blt new (2 ^ 32)
  | .ownRelease h addr expected next => h.ok && Nat.blt addr (2 ^ 56) && Nat.blt expected (2 ^ 32) && Nat.blt next (2 ^ 32)
  | .handoffExpiry _ => true
  | .lostAck h addr len _ => h.ok && Nat.blt addr (2 ^ 56) && Nat.blt len (2 ^ 64)
  | .reduce h plan => h.ok && Nat.blt plan (2 ^ 38)
  | .allreduce h plan => h.ok && Nat.blt plan (2 ^ 38)
  | .reduceScatter h plan => h.ok && Nat.blt plan (2 ^ 38)
  | .allgather h plan => h.ok && Nat.blt plan (2 ^ 38)
  | .broadcast h plan => h.ok && Nat.blt plan (2 ^ 38)
  | .smaxMerge h plan => h.ok && Nat.blt plan (2 ^ 38)
  | .topk h plan => h.ok && Nat.blt plan (2 ^ 38)
  | .sample h plan => h.ok && Nat.blt plan (2 ^ 38)
  | .collPacket p => p.ok && p.cls == clsCOLL
  | .earlyArrivalExpiry _ coll => Nat.blt coll 65536
  | .collectiveWatchdogExpiry _ => true
  | .abortTadpole p => p.ok && p.cls == clsABORT
  | .abortMemoryExpiry _ coll => Nat.blt coll 65536
  | .gather h dst a => h.ok && dst.fits && a.ok
  | .scatter h src a => h.ok && src.fits && a.ok
  | .filterScan h a => h.ok && a.ok
  | .kernelLaunch h chain packets engine _ _ core clocked => h.ok && Nat.blt chain (2 ^ 38) && Nat.blt packets 65536 && Nat.blt engine 80 && Nat.blt core (2 ^ 32) && Nat.blt clocked (2 ^ 32)
  | .frameBoundary _ => true
  | .kernelComplete _ tag => Nat.blt tag (2 ^ 32)
  | .kernelWatchdogStop _ tag => Nat.blt tag (2 ^ 32)
  | .cellReset src _ => src.ok
  | .cellResetDone _ => true
  | .attend h desc => h.ok && Nat.blt desc (2 ^ 38)
  | .project h desc => h.ok && Nat.blt desc (2 ^ 38)
  | .encode h a => h.ok && a.ok
  | .codebookBuild h a => h.ok && a.ok
  | .codebookRetire h slot => h.ok && Nat.blt slot 256
  | .matrixTileReset src _ => src.ok
  | .matrixTileResetDone _ => true
  | .queueEnable src _ => src.ok
  | .queueDisable src _ => src.ok
  | .queueDisableComplete _ => true
  | .partitionCreate h _ => h.ok
  | .partitionReserve h _ kind first count _ => h.ok && Nat.blt kind 11 && Nat.blt first 65536 && Nat.blt count 65536
  | .partitionSeal h _ => h.ok
  | .sealComplete _ => true
  | .partitionDrain h _ => h.ok
  | .partitionDrainComplete _ => true
  | .partitionScrub h _ => h.ok
  | .partitionScrubComplete _ => true
  | .partitionRelease h _ => h.ok
  | .keyRotate h _ kind port => h.ok && Nat.blt kind 2 && Nat.blt port 128
  | .epochInstall h => h.ok
  | .trngHealthFail => true
  | .trngHealthPass => true
  | .spdmRequest _ q => q.ok
  | .flitReceive _ f _ => f.ok
  | .flitTransmit _ => true
  | .replayTimerExpiry _ => true
  | .linkTadpole _ p _ => p.ok && p.cls == clsLINK
  | .trainMsgReceive _ m => m.ok
  | .signalDetect _ => true
  | .signalLost _ => true
  | .lock _ => true
  | .trainingTimerExpiry _ => true
  | .backoffExpiry _ => true
  | .selfTestDone _ _ => true
  | .keyExchangeDone _ _ => true
  | .ltssmDone _ _ width => Nat.ble width 16
  | .ideSetupDone _ _ => true
  | .portRetrain src _ => src.ok
  | .portClearCounts src _ => src.ok
  | .refclkFabLoss _ => true
  | .refclkFabReturn _ => true
  | .vfFlr _ => true
  | .pfFlr => true
  | .hostLinkLoss => true
  | .ideIntegrityFailure stream => Nat.blt stream 256
  | .ideKmQuery stream => Nat.blt stream 256
  | .kSetGo stream => Nat.blt stream 256
  | .kSetStop stream => Nat.blt stream 256
  | .keyProg stream => Nat.blt stream 256
  | .outputSelect _ _ => true
  | .reassemblyTimeout _ => true
  | .fenceHoldTimeout _ => true
  | .fenceDone p => p.ok && p.cls == clsFENCE_DONE
  | .sourceFenceExpiry _ _ _ => true
  | .arm src => src.ok
  | .disarm src => src.ok
  | .rteClearDrops src => src.ok
  | .epochDrainClose => true
  | .refillBoundary => true
  | .tmgClearCounts src => src.ok
  | .complementRepair src => src.ok
  | .shadowMissingTimeout _ coll _ => Nat.blt coll 65536
  | .shadowDigestTimeout tag => Nat.blt tag (2 ^ 32)
  | .lockstepMismatch => true
  | .managementWatchdogExpiry => true
  | .watchdogKick src => src.ok
  | .tlsHandshake _ digest _ _ => Nat.blt digest (2 ^ 512)
  | .sessionIdleTimeout _ => true
  | .sessionClose _ => true
  | .identify _ head _ => head.ok
  | .sensorReadCmd _ head _ => head.ok
  | .logRead _ head _ => head.ok
  | .logSubscribe _ head _ => head.ok
  | .sampleSubscribe _ head _ => head.ok
  | .spdm _ head _ => head.ok
  | .regRead _ head _ => head.ok
  | .regWrite _ head _ => head.ok
  | .cmdSubmit _ head _ => head.ok
  | .declare _ head _ => head.ok
  | .planeReset _ head _ => head.ok
  | .imageBegin _ head _ => head.ok
  | .imageChunk _ head _ => head.ok
  | .imageEnd _ head _ => head.ok
  | .svnAdvance _ head _ => head.ok
  | .anchorSet _ head _ => head.ok
  | .anchorClear _ head _ => head.ok
  | .netConfig _ head _ => head.ok
  | .policySet _ head _ => head.ok
  | .mailboxGo src => src.ok
  | .sensorPoll _ code _ => Nat.blt code 65536
  | .eventRingCopy => true
  | .persistentLogCopy => true
  | .sampleForward => true
  | .ptpMessage offset => decide (-(2 ^ 63) ≤ offset ∧ offset < 2 ^ 63)
  | .eavesEnter src => src.ok
  | .eavesEntryProgress => true
  | .eavesEntryTimeout => true
  | .wake src => src.ok
  | .wakeComplete => true
  | .porstNAssert => true
  | .porstNRelease _ _ _ => true
  | .bootStageAdvance _ => true
  | .perstNAssert => true
  | .perstNRelease => true
  | .dataResetRequest src => src.ok
  | .controlResetRequest src => src.ok
  | .release src => src.ok
  | .thermalTrip => true
  | .refclkPcieLoss => true
  | .xtalLoss => true
  | .xtalReturn => true
  | .padCfgWrite src _ data _ => src.ok && Nat.blt data (2 ^ 64)
  | .hostLinkReturn => true
  | .refclkPcieReturn => true
  | .managementRestartDone => true
  | .spareSteerDone _ _ => true

end Sys2Proof
end

