-- ==== Sys2Proof/Certificates/Slice0/Obligations.lean ====
section
/-!
DEFINITION. The statements for the provers. A statement about a command's effect has the form: at a state and operands that meet its
hypotheses, exec answers a next state; the state is s.after u, in which u is the part as the command's own effect leaves it and what
follows of itself (log entry 10) has happened after it, or the part itself where nothing follows.
-/
open Sys2Proof Sys2Proof.Machine

/-! ### The queue, the step and the reset state -/

/-- A step with a command at the front of the queue is that command, with the rest of the queue. -/
def Obligations.StepRunsTheFrontCommand : Prop :=
  ∀ (c : Instr) (rest : List Instr) (s : State), step { s with pending := c :: rest } = exec c { s with pending := rest }

/-- A step on an empty queue passes one tick of the time base (the model's choice, log entry 1; R66): nothing but time, the
correction of time under R69 and the pads of R531 changes. -/
def Obligations.EmptyQueuePassesOneTick : Prop :=
  ∀ s : State, s.pending = [] →
    ∃ t : State, step s = .next t ∧ t.pending = [] ∧ t.raw = s.raw + 1
      ∧ (s.align.slew = 0 → t.tb = (s.tb + 1) % 2 ^ 64 ∧ t.regs = s.regs)
      ∧ t.toChip = { s.toChip with raw := t.raw, tb := t.tb, regs := t.regs, align := t.align
                                   power := { s.power with padWait := none } }

/-- Every command answers a next state, in every state and whatever its operands, and leaves the waiting commands as they are: no
command of the part stops it. -/
def Obligations.EveryCommandAnswersNext : Prop :=
  ∀ (c : Instr) (s : State), ∃ t, exec c s = .next t ∧ t.pending = s.pending

/-- The queue is served first in, first out: commands in front of a queue are all executed, in order, one each step; the effect of
each depends on the part alone, not on what waits; and the rest of the queue is left waiting. -/
def Obligations.QueueRunsInOrder : Prop :=
  ∃ f : Instr → Chip → Chip, (∀ c s, exec c s = .next { s with toChip := f c s.toChip })
    ∧ ∀ (l rest : List Instr) (s : State), s.pending = l ++ rest →
        runs l.length s { toChip := l.foldl (fun u c => f c u) s.toChip, pending := rest }

/-- A queue of well-formed commands stays one at every step. -/
def Obligations.WaitingCommandsStayWellFormed : Prop :=
  ∀ s t : State, (∀ c ∈ s.pending, c.wellFormed = true) → step s = .next t →
    (∀ c ∈ t.pending, c.wellFormed = true) ∧ t.pending.length ≤ s.pending.length

/-- The state right after power is applied: no command waits, the two planes and Newt are in reset, the part is not READY, no timer
runs, the memories list nothing, and registers have the reset values of their tables (R541): PCE_POLICY asks for level 4 with a guard
of 123, a throttle temperature of 100 °C and steps of 10 mV, and the transaction timer is 50 µs (Table 2.4). -/
def Obligations.ResetValues : Prop :=
  State.reset.pending = [] ∧ State.reset.timers = [] ∧ State.reset.seq.stg = [] ∧ State.reset.seq.scr = []
    ∧ State.reset.flag A.GLB_BOOT_STATUS F.GLB_BOOT_STATUS_READY = false
    ∧ State.reset.flag A.GLB_BOOT_STATUS F.GLB_BOOT_STATUS_DP_RESET = true
    ∧ State.reset.flag A.GLB_BOOT_STATUS F.GLB_BOOT_STATUS_CP_RESET = true
    ∧ State.reset.flag A.GLB_BOOT_STATUS F.GLB_BOOT_STATUS_MP_RESET = true
    ∧ State.reset.rd A.PCE_POLICY F.PCE_POLICY_LEVEL = 4 ∧ State.reset.rd A.PCE_POLICY F.PCE_POLICY_GUARD = 123
    ∧ State.reset.rd A.PCE_POLICY F.PCE_POLICY_THROTTLE_T = 100 ∧ State.reset.rd A.PCE_POLICY F.PCE_POLICY_STEP_MV = 10
    ∧ State.reset.rd A.PCE_STATUS F.PCE_STATUS_LEVEL_ACTIVE = 4 ∧ State.reset.rd A.GLB_TIMERS0 F.GLB_TIMERS0_TXN_US = 50

/-! ### Registers -/

/-- The register file: a field reads as it was written, a field apart from it reads as before, and so for the fields of a
complement-protected entry, which passes its check after every write through it (R77); every write keeps the file's canonical form. -/
def Obligations.RegisterFileReadsBack : Prop :=
  ∀ (r : RegFile) (a : Nat) (f : Fld) (v : Nat),
    (r.set a f v).get a f = v % 2 ^ f.width
    ∧ (∀ (b : Nat) (g : Fld), 8 * b + g.lo + g.width ≤ 8 * a + f.lo ∨ 8 * a + f.lo + f.width ≤ 8 * b + g.lo →
        (r.set a f v).get b g = r.get b g)
    ∧ (∀ n, f.lo + f.width ≤ 64 * n → (r.setP a n f v).checked a n = true ∧ (r.setP a n f v).get a f = v % 2 ^ f.width
        ∧ ∀ g : Fld, g.lo + g.width ≤ 64 * n → (g.lo + g.width ≤ f.lo ∨ f.lo + f.width ≤ g.lo) →
            (r.setP a n f v).get a g = r.get a g)
    ∧ (Tab.canonical resetWord r = true → Tab.canonical resetWord (r.set a f v) = true
        ∧ ∀ n, Tab.canonical resetWord (r.setP a n f v) = true)

/-- REGISTER_WRITE (R10, R12, R548): a 64-bit write of an assigned register of fields that a source may write, of which no rule
discards anything, writes each field under its own access type: RO and WO fields keep their value, RW and RWL fields take the bits
written, W1C fields lose the bits written as 1 and W1S fields gain them; what the write starts comes after it. -/
def Obligations.RegisterWriteByAccessType : Prop :=
  ∀ (src : Source) (l : Loc) (off data : Nat) (s : State),
    let w : WordWrite := ⟨l, off, data, 2 ^ 64 - 1⟩
    s.site off = some ⟨l, off, false⟩ → l.base = off → l.word = 0 → off % 8 = 0 → data < 2 ^ 64 → s.serves src off → src.part = none →
    s.mayWrite src (src == .newt) l = true → s.notNow w = none → (l.unit 0).isSome = false → l.kind ≠ .pceCurve →
    s.leftOut src w = [] → s.wholeFails (s.applyWord w (s.lockedAt l) []) w = none → s.lockedAt l = false →
    ∃ u : Chip, exec (.registerWrite src off 8 data) s = .next (s.after (u.afterWrite s.toChip src w []))
      ∧ u = { s.toChip with regs := u.regs }
      ∧ ∀ f ∈ l.specs, f.fld.lo + f.fld.width ≤ 64 → u.rd off f.fld =
          match f.acc with
          | .ro | .wo => s.rd off f.fld
          | .rw | .rwl => bits data f.fld.lo f.fld.width
          | .w1c => s.rd off f.fld &&& complementOf f.fld.width (bits data f.fld.lo f.fld.width)
          | .w1s => s.rd off f.fld ||| bits data f.fld.lo f.fld.width

/-- TB_LO_READ (R67, R545): a 32-bit read of PCE_TB_LO returns the low half of the time base and loads the reader's own latch with the
high half, which the next 32-bit read of PCE_TB_HI by the same source returns whatever the time base reads then; the latches of the
other sources, and everything else, stay as they are. -/
def Obligations.TimeBaseReadLatchesHighHalf : Prop :=
  ∀ (src : Source) (s : State), s.deaf src A.PCE_TB = false →
    ∃ t : State, exec (.tbLoRead src A.PCE_TB 4) s = .next t
      ∧ t.out = .regRead src A.PCE_TB (s.tb % 2 ^ 32) :: s.out ∧ t.latch src = s.tb / 2 ^ 32 % 2 ^ 32
      ∧ (∀ src', src' ≠ src → t.latch src' = s.latch src')
      ∧ t = { s with out := t.out, latchPf := t.latchPf, latchVf := t.latchVf, latchNewt := t.latchNewt }
      ∧ ∀ n, ∃ v, exec (.tbLoRead src (A.PCE_TB + 4) 4) { t with tb := n } = .next v
          ∧ v.out = .regRead src (A.PCE_TB + 4) (s.tb / 2 ^ 32 % 2 ^ 32) :: t.out

/-- TB_LO_READ elsewhere (R542): a virtual function reads zero at every register that Table 18.2 does not put in its view, and the read
changes nothing but the record of it. -/
def Obligations.VirtualFunctionReadsZeroOutsideItsView : Prop :=
  ∀ (p off bytes : Nat) (s : State),
    (∀ x, s.site off = some x → s.vfSees p x.loc = 0) →
    exec (.tbLoRead (.vf p) off bytes) s = .next { s with out := .regRead (.vf p) off 0 :: s.out }

/-! ### Pace, voltage and time -/

/-- SENSOR_WINDOW_CLOSE (R47, R48, R49): each of the 256 sensors' counts, over its reference count and in units of 1/4,096, joins the
windows of the period, of which ten are kept; a sensor whose count is zero, fails its check or is not there gives none. Nothing else
changes. -/
def Obligations.SensorWindowAddsTheRates : Prop :=
  ∀ (counts : List (Nat × Bool)) (s : State), ∃ w : List (Option Nat),
    exec (.sensorWindowClose counts) s = .next { s with pace := { s.pace with windows := (w :: s.pace.windows).take 10 } }
    ∧ w.length = 256
    ∧ ∀ i, i < 256 → w[i]? = some (match counts[i]? with
        | some (c, true) => if c = 0 then none else some (c * 4096 / Config.sensorRef i)
        | _ => none)

/-- PACE_CONTROL_STEP (R50, R51, R53): where READY is set and no write is under way or has failed, the step writes one voltage: inside
620 to 850 mV, no further than the step limit from the present one, inside the band of 50 mV on either side of the curve while the
present voltage lies inside it, and else towards the band by the limit, or to its near edge; with a limit of 0 it writes none. VCORE_MV
itself stays until the write ends. -/
def Obligations.ControlStepKeepsTheVoltageInBounds : Prop :=
  ∀ (tmax : Int) (s : State), s.flag A.GLB_BOOT_STATUS F.GLB_BOOT_STATUS_READY = true → s.inEaves = false →
    s.flag A.PCE_STATUS F.PCE_STATUS_AVS_FAULT = false → s.pace.avs = none →
    let v := s.rd A.PCE_STATUS F.PCE_STATUS_VCORE_MV
    let step := s.stepLimit
    620 ≤ v → v ≤ 850 →
    ∃ u : Chip, exec (.paceControlStep tmax) s = .next (s.after u) ∧ u.pace.tmax = tmax ∧ u.pace.windows = []
      ∧ u.rd A.PCE_STATUS F.PCE_STATUS_VCORE_MV = v ∧ (∀ l t, l < 8 → t < 16 → u.curvePoint l t = s.curvePoint l t)
      ∧ (step = 0 → u.out = s.out ∧ u.pace.avs = none)
      ∧ (step ≠ 0 → ∃ mv, u.out = .avsWrite mv :: s.out ∧ u.pace.avs = some (mv, 1)
          ∧ 620 ≤ mv ∧ mv ≤ 850 ∧ mv ≤ v + step ∧ v ≤ mv + step
          ∧ let c := u.curveMv u.pace.target tmax
            (c ≤ v + 50 → v ≤ c + 50 → c ≤ mv + 50 ∧ mv ≤ c + 50)
            ∧ (v + 50 < c → mv = min 850 (min (c - 50) (v + step)))
            ∧ (c + 50 < v → mv = max 620 (max (c + 50) (v - step))))

/-- AVS_WRITE_DONE (R53): a write that ends well gives the core voltage; one that fails is tried again, twice; the third failure sets
AVS_FAULT and a shortfall, and nothing is written. -/
def Obligations.VoltageWriteIsTriedThreeTimes : Prop :=
  ∀ (s : State) (mv tries : Nat), s.pace.avs = some (mv, tries) →
    (∃ u : Chip, exec (.avsWriteDone true) s = .next (s.after u)
        ∧ u.rd A.PCE_STATUS F.PCE_STATUS_VCORE_MV = mv % 4096 ∧ u.pace = { s.pace with avs := none, avsBad := false }
        ∧ u = { s.toChip with regs := u.regs, pace := u.pace })
    ∧ (tries < 3 → exec (.avsWriteDone false) s =
        .next (s.after { s.toChip with pace := { s.pace with avs := some (mv, tries + 1) }, out := .avsWrite mv :: s.out }))
    ∧ (3 ≤ tries → ∃ u : Chip, exec (.avsWriteDone false) s = .next (s.after u)
        ∧ u.flag A.PCE_STATUS F.PCE_STATUS_AVS_FAULT = true ∧ u.flag A.PCE_STATUS F.PCE_STATUS_SHORTFALL = true
        ∧ u.pace.avs = none ∧ u.pace.avsBad = true ∧ u.out = s.out
        ∧ u.rd A.PCE_STATUS F.PCE_STATUS_VCORE_MV = s.rd A.PCE_STATUS F.PCE_STATUS_VCORE_MV)

/-- PCE_POLICY_WRITE, LOWER_RETARGET and THROTTLE_LOWERING (R54, R59, R60, R61). A write of the policy by Newt puts each of its fields;
where the throttle is not acting it clears THROTTLING; a faster level retargets the loop and leaves LEVEL_ACTIVE; a slower one raises
ADMIT_LEVEL and keeps the target; a slower one with FORCE retargets the loop and takes effect at once; a write by the control host
is discarded with one record. LOWER_RETARGET takes the level once no kernel admitted against a faster floor is left and STEP_MV is not
0. THROTTLE_LOWERING, while the temperature stays at the limit, lowers by one level and starts the next 1 ms. -/
def Obligations.LevelChangesFollowThePolicy : Prop :=
  (∀ (data : Nat) (s : State), data < 2 ^ 64 → s.serves .newt A.PCE_POLICY →
      60 ≤ bits data 16 7 → bits data 16 7 ≤ 105 → bits data 24 8 ≤ 20 →
      ∃ u : Chip, exec (.pcePolicyWrite .newt data) s = .next (s.after u)
        ∧ (∀ f ∈ [F.PCE_POLICY_LEVEL, F.PCE_POLICY_FORCE, F.PCE_POLICY_GUARD, F.PCE_POLICY_THROTTLE_T, F.PCE_POLICY_THROTTLE_EN,
              F.PCE_POLICY_STEP_MV], u.rd A.PCE_POLICY f = bits data f.lo f.width)
        ∧ let l := bits data 0 3
          let was := s.levelActive
          (l ≠ s.goal →
            (l < was → u.pace.change = .raise l ∧ u.pace.target = l ∧ u.levelActive = was)
            ∧ (was < l → bits data 3 1 = 0 → u.pace.change = .lower l ∧ u.pace.target = s.pace.target ∧ u.levelActive = was
                ∧ l ≤ u.rd A.PCE_STATUS F.PCE_STATUS_ADMIT_LEVEL)
            ∧ (was < l → bits data 3 1 = 1 → u.pace.change = .settle l ∧ u.pace.target = l ∧ u.levelActive = l))
          ∧ (l = s.goal → u.pace = s.pace ∧ u.levelActive = was))
  ∧ (∀ (data : Nat) (s : State), s.serves .pf A.PCE_POLICY →
      exec (.pcePolicyWrite .pf data) s =
        .next (s.after (s.log { status := .accessDenied, subsys := .paceUnit, addrKind := 4, addr := A.PCE_POLICY })))
  ∧ (∀ (s : State) (l : Nat), s.pace.change = .lower l → s.fasterKernels l = false → s.rd A.PCE_POLICY F.PCE_POLICY_STEP_MV ≠ 0 → l < 8 →
      ∃ u : Chip, exec .lowerRetarget s = .next (s.after u) ∧ u.levelActive = l ∧ u.pace.target = l ∧ u.pace.change = .settle l
        ∧ u = { s.toChip with regs := u.regs, pace := u.pace })
  ∧ (∀ (s : State) (c : Chip), s.expire .throttle = some c → c.tooHot = true → c.levelActive < 7 →
      ∃ u : Chip, exec .throttleLowering s = .next (s.after u) ∧ u.levelActive = c.levelActive + 1
        ∧ u.pace.target = c.levelActive + 1 ∧ u.flag A.PCE_STATUS F.PCE_STATUS_THROTTLING = true
        ∧ u.due .throttle = some (c.raw + 1000000))

/-- TIME_TADPOLE_EXCHANGE, TIME_TADPOLE and PTP_MESSAGE (R69, R472). A child sends its time to its parent when the interval ends, and
the next interval begins. A request is answered on the port it came on, with both times of this E9. An answer of the parent gives the
offset ((t2 - t1) - (t4 - t3)) / 2: it is written to OFFSET_NS; one of more than 1 µs behind, or, at the first alignment, of more than
1 µs either way, is stepped out at once and sets STEP_SEEN; any other is left to be slewed out. PTP_MESSAGE does the same for the
offset of the time root, and changes nothing on another E9. -/
def Obligations.OffsetsAreSteppedOrSlewedOut : Prop :=
  (∀ (s : State) (c : Chip), s.expire .exchange = some c → c.hasParent = true →
      ∃ u : Chip, exec .timeTadpoleExchange s = .next (s.after u)
        ∧ u = (c.sendTime (c.rd A.PCE_TB_PARENT F.PCE_TB_PARENT_PORT) { t1 := c.tb }).startTimer .exchange
                (c.rd A.GLB_TIMERS1 F.GLB_TIMERS1_TT_EXCH_US * 1000))
  ∧ (∀ (n : Fin 128) (p : Packet) (s : State), s.accepts p → bits p.body 193 191 = 0 → (TimeBody.ofBody p.body).response = false →
      let v := s.taken p
      exec (.timeTadpole n p) s = .next (s.after
        ((v.sendTime n.val { t1 := (TimeBody.ofBody p.body).t1, t2 := v.tb, t3 := v.tb, response := true }).flowApplied p)))
  ∧ (∀ (n : Fin 128) (p : Packet) (s : State) (o : Int), s.accepts p → bits p.body 193 191 = 0 →
      let t := TimeBody.ofBody p.body
      let v := s.taken p
      t.response = true → v.hasParent = true → n.val = v.rd A.PCE_TB_PARENT F.PCE_TB_PARENT_PORT →
      o = ((signedOf 64 (t.t2 + 2 ^ 64 - t.t1)) - signedOf 64 (v.tb + 2 ^ 64 - t.t3)) / 2 →
      ∃ u : Chip, exec (.timeTadpole n p) s = .next (s.after (u.flowApplied p))
        ∧ u.rd A.PCE_TB_ADJ F.PCE_TB_ADJ_OFFSET_NS = codeOfInt 32 o ∧ u.align.done = true
        ∧ ((1000 < o ∨ v.align.done = false ∧ o < -1000) →
            u.tb = codeOfInt 64 (v.tb + o) ∧ u.align.slew = 0 ∧ u.flag A.PCE_TB_ADJ F.PCE_TB_ADJ_STEP_SEEN = true)
        ∧ (o ≤ 1000 → (v.align.done = true ∨ -1000 ≤ o) → u.tb = v.tb ∧ u.align.slew = o)
        ∧ u = { v with regs := u.regs, tb := u.tb, align := u.align })
  ∧ (∀ (o : Int) (s : State), s.flag A.PCE_TB_PARENT F.PCE_TB_PARENT_ROOT = true →
      ∃ u : Chip, exec (.ptpMessage o) s = .next (s.after u)
        ∧ u.rd A.PCE_TB_ADJ F.PCE_TB_ADJ_OFFSET_NS = codeOfInt 32 o
        ∧ (1000 < o → u.tb = codeOfInt 64 (s.tb + o) ∧ u.align.slew = 0)
        ∧ (o ≤ 1000 → u.tb = s.tb ∧ u.align.slew = o)
        ∧ u = { s.toChip with regs := u.regs, tb := u.tb, align := u.align })
  ∧ (∀ (o : Int) (s : State), s.flag A.PCE_TB_PARENT F.PCE_TB_PARENT_ROOT = false → exec (.ptpMessage o) s = .next (s.after s.toChip))

/-! ### Resets, pins, clocks, boot and power states -/

/-- DATA_PLANE_RESET, CONTROL_PLANE_RESET, DATA_RESET_REQUEST, CONTROL_RESET_REQUEST and PF_FLR (R508, R511, R339): each asks for a
reset of one plane for a cause. It merges where the plane is in reset; it is performed at once in ACTIVE, and then GLB_RESET_CAUSE
records the cause; in WAKING it waits for the end of the wake, the first cause kept. -/
def Obligations.PlaneResetsMergeOrHappenOrWait : Prop :=
  ∀ (c : Instr) (cause : Nat) (s : State),
    ((∃ k : Fin 6, c = .dataPlaneReset k ∧ cause = k.val)
      ∨ (∃ src : Source, src.central ∧ s.serves src A.GLB_RESET_CTL ∧ c = .dataResetRequest src ∧ cause = 2) →
        (s.flag A.GLB_BOOT_STATUS F.GLB_BOOT_STATUS_DP_RESET = true → exec c s = .next (s.after s.toChip))
        ∧ (s.flag A.GLB_BOOT_STATUS F.GLB_BOOT_STATUS_DP_RESET = false → s.powerState = 0 →
            ∃ u : Chip, exec c s = .next (s.after u) ∧ u.rd A.GLB_RESET_CAUSE F.GLB_RESET_CAUSE_DATA = cause)
        ∧ (s.flag A.GLB_BOOT_STATUS F.GLB_BOOT_STATUS_DP_RESET = false → s.powerState = 3 →
            exec c s = .next (s.after { s.toChip with power := { s.power with resetData := some (s.power.resetData.getD cause) } })))
    ∧ ((∃ k : Fin 6, c = .controlPlaneReset k ∧ cause = k.val)
      ∨ (∃ src : Source, src.central ∧ s.serves src A.GLB_RESET_CTL ∧ c = .controlResetRequest src ∧ cause = 2)
      ∨ (c = .pfFlr ∧ cause = 5) →
        (s.flag A.GLB_BOOT_STATUS F.GLB_BOOT_STATUS_CP_RESET = true → exec c s = .next (s.after s.toChip))
        ∧ (s.flag A.GLB_BOOT_STATUS F.GLB_BOOT_STATUS_CP_RESET = false → s.powerState = 0 →
            ∃ u : Chip, exec c s = .next (s.after u) ∧ u.rd A.GLB_RESET_CAUSE F.GLB_RESET_CAUSE_CONTROL = cause)
        ∧ (s.flag A.GLB_BOOT_STATUS F.GLB_BOOT_STATUS_CP_RESET = false → s.powerState = 3 →
            exec c s = .next (s.after { s.toChip with power := { s.power with resetControl := some (s.power.resetControl.getD cause) } })))

/-- MANAGEMENT_PLANE_RESET, LOCKSTEP_MISMATCH and MANAGEMENT_WATCHDOG_EXPIRY (R497, R508): every session, subscription, update and
sample ends and the event ring is cleared; Newt reads RESETTING, its plane is in reset and its cause is recorded; the configuration and
the persistent log stay. A reset requested while one runs merges (R511). MANAGEMENT_RESTART_DONE (R509): outside a restart nothing
happens; at the end of one Newt runs the image of the slot, or none in recovery, with an empty event ring and no update. -/
def Obligations.ManagementResetEndsEverySession : Prop :=
  (∀ (c : Instr) (s : State) (b : Chip) (cause : Nat),
      (c = .managementPlaneReset .lockstep ∧ b = s.toChip ∧ cause = 6) ∨ (c = .lockstepMismatch ∧ b = s.toChip ∧ cause = 6)
        ∨ (c = .managementPlaneReset .watchdog ∧ b = s.toChip ∧ cause = 7) ∨ (c = .managementPlaneReset .planeReset ∧ b = s.toChip ∧ cause = 3)
        ∨ (c = .managementPlaneReset .sramError ∧ b = s.toChip ∧ cause = 8)
        ∨ (c = .managementPlaneReset .activation ∧ b = s.toChip ∧ cause = 9)
        ∨ (c = .managementWatchdogExpiry ∧ cause = 7 ∧ ∃ e, s.expire .management = some e
            ∧ b = e.log { status := .timeout, subsys := .newt, addrKind := 4, addr := A.PCE_MWDOG }) →
      (b.flag A.GLB_BOOT_STATUS F.GLB_BOOT_STATUS_MP_RESET = false →
        ∃ u : Chip, exec c s = .next (s.after u) ∧ u.newt.sessions = [] ∧ u.newt.update = none ∧ u.newt.ring = [] ∧ u.samples = []
          ∧ u.samplesArmed = false ∧ u.newt.config = s.newt.config ∧ u.newt.persist = s.newt.persist ∧ u.newtState = nsRESETTING
          ∧ u.flag A.GLB_BOOT_STATUS F.GLB_BOOT_STATUS_MP_RESET = true
          ∧ u.rd A.GLB_RESET_CAUSE F.GLB_RESET_CAUSE_MANAGEMENT = cause ∧ u.running .management = false)
      ∧ (b.flag A.GLB_BOOT_STATUS F.GLB_BOOT_STATUS_MP_RESET = true → exec c s = .next (s.after b)))
  ∧ (∀ s : State, s.newtState ≠ nsRESETTING → exec .managementRestartDone s = .next (s.after s.toChip))
  ∧ (∀ s : State, s.newtState = nsRESETTING → ∃ u : Chip, exec .managementRestartDone s = .next (s.after u)
      ∧ u.newt.ring = [] ∧ u.newt.update = none ∧ (u.newt.image = [] ∨ u.newt.image = s.newt.slot)
      ∧ u.newt.slot = s.newt.slot ∧ u.newt.persist = s.newt.persist)

/-- PORST_N_ASSERT, PORST_N_RELEASE and THERMAL_TRIP (R510, R512, R513, R533, R443). The assertion resets every domain: every register
reads its reset value, nothing is stored, no timer runs and no record is left in the error log; the SPI NOR, the fuses and THERMTRIP_N
stay. The release latches the straps, starts the time base at 0 and begins boot stage 1, and the reserved BOOT_MODE 3 leaves one
record. The trip drives THERMTRIP_N low and does nothing else. -/
def Obligations.PowerOnResetAndTrip : Prop :=
  (∀ s : State, ∃ t : State, exec .porstNAssert s = .next t ∧ t.pending = s.pending ∧ (∀ a f, t.rd a f = State.reset.rd a f)
      ∧ t.timers = [] ∧ t.tb = 0 ∧ t.errSeq = 0 ∧ t.ports = [] ∧ t.sw = {} ∧ t.flows = {} ∧ t.pool = {} ∧ t.seq = {} ∧ t.pace = {}
      ∧ t.newt.sessions = [] ∧ t.newt.slot = s.newt.slot ∧ t.newt.persist = s.newt.persist ∧ t.newt.fusedSvn = s.newt.fusedSvn
      ∧ t.power.porst = true ∧ t.power.thermtrip = s.power.thermtrip ∧ t.power.perst = s.power.perst)
  ∧ (∀ (enrol : Bool) (i3c : Fin 16) (mode : Fin 4) (s : State), s.power.porst = true →
      ∃ u : Chip, exec (.porstNRelease enrol i3c mode) s = .next (s.after u)
        ∧ u.flag A.GLB_STRAPS F.GLB_STRAPS_ENROLL_EN = enrol ∧ u.rd A.GLB_STRAPS F.GLB_STRAPS_I3C_ADDR = i3c.val
        ∧ u.bootMode = mode.val ∧ u.stage = 1 ∧ u.tb = 0 ∧ u.power = { s.power with porst := false }
        ∧ u.errSeq = s.errSeq + (if mode.val = 3 then 1 else 0))
  ∧ (∀ (enrol : Bool) (i3c : Fin 16) (mode : Fin 4) (s : State), s.power.porst = false →
      exec (.porstNRelease enrol i3c mode) s = .next (s.after s.toChip))
  ∧ (∀ s : State, exec .thermalTrip s = .next { s with power := { s.power with thermtrip := true }, out := .thermtrip :: s.out })

/-- PERST_N_ASSERT, PERST_N_RELEASE, HOST_LINK_LOSS, HOST_LINK_RETURN, VF_FLR, REFCLK_PCIE_LOSS, REFCLK_PCIE_RETURN, XTAL_LOSS and
XTAL_RETURN (R339, R510, R514, R526). PERST_N takes the host link down and asks for the control-plane reset; the link comes back with
its release, not before boot stage 1. A loss of the link resets no plane and changes nothing else. A lost clock sets its bit and
CLK_LOST_SEEN and leaves one record; REFCLK_PCIE takes the host link with it; a clock that returns clears its bit and nothing else. A
Function Level Reset of VF n disables the VF_RING queues of partition n and discards the replies that wait for them, and leaves every
other queue as it is. -/
def Obligations.HostLinkAndClocks : Prop :=
  (∀ s : State, s.flag A.GLB_BOOT_STATUS F.GLB_BOOT_STATUS_CP_RESET = true →
      exec .perstNAssert s = .next (s.after { s.toChip with power := { s.power with perst := true }, seq := { s.seq with hostUp := false } }))
  ∧ (∀ s : State, s.flag A.GLB_BOOT_STATUS F.GLB_BOOT_STATUS_CP_RESET = false → s.powerState = 0 →
      ∃ u : Chip, exec .perstNAssert s = .next (s.after u) ∧ u.rd A.GLB_RESET_CAUSE F.GLB_RESET_CAUSE_CONTROL = 5)
  ∧ (∀ s : State, s.stage = 0 → exec .perstNRelease s = .next (s.after { s.toChip with power := { s.power with perst := false } }))
  ∧ (∀ s : State, 0 < s.stage → ∃ u : Chip, exec .perstNRelease s = .next (s.after u) ∧ u.power.perst = false ∧ u.seq.hostUp = true)
  ∧ (∀ s : State, exec .hostLinkLoss s = .next (s.after { s.toChip with seq := { s.seq with hostUp := false } }))
  ∧ (∀ s : State, ∃ u : Chip, exec .hostLinkReturn s = .next (s.after u)
      ∧ u = { s.toChip with seq := { s.seq with hostUp := true, queues := u.seq.queues }, out := u.out })
  ∧ (∀ (n : Fin 64) (s : State), ∃ u : Chip, exec (.vfFlr n) s = .next (s.after u)
      ∧ u = { s.toChip with seq := { s.seq with queues := u.seq.queues } }
      ∧ (∀ q, q / 16 ≠ n.val → u.seq.queues.find q = s.seq.queues.find q)
      ∧ ∀ q, q / 16 = n.val → s.qSource q = 2 → s.qEnabled q = true → (u.queue q).disabling = true ∧ (u.queue q).replies = [])
  ∧ (∀ s : State, ∃ u : Chip, exec .refclkPcieLoss s = .next (s.after u) ∧ u.flag A.GLB_CLK_STATUS F.GLB_CLK_STATUS_REFCLK_PCIE_LOST = true
      ∧ u.flag A.GLB_CLK_STATUS F.GLB_CLK_STATUS_CLK_LOST_SEEN = true
      ∧ u = { s.toChip with regs := u.regs, errSeq := s.errSeq + 1, seq := { s.seq with hostUp := false } })
  ∧ (∀ s : State, ∃ u : Chip, exec .xtalLoss s = .next (s.after u) ∧ u.flag A.GLB_CLK_STATUS F.GLB_CLK_STATUS_XTAL_LOST = true
      ∧ u.flag A.GLB_CLK_STATUS F.GLB_CLK_STATUS_CLK_LOST_SEEN = true ∧ u = { s.toChip with regs := u.regs, errSeq := s.errSeq + 1 })
  ∧ (∀ (c : Instr) (f : Fld) (s : State),
      (c = .xtalReturn ∧ f = F.GLB_CLK_STATUS_XTAL_LOST) ∨ (c = .refclkPcieReturn ∧ f = F.GLB_CLK_STATUS_REFCLK_PCIE_LOST) →
      ∃ u : Chip, exec c s = .next (s.after u) ∧ u.rd A.GLB_CLK_STATUS f = 0 ∧ u = { s.toChip with regs := u.regs }
        ∧ ∀ b g, apart A.GLB_CLK_STATUS f b g → u.rd b g = s.rd b g)

/-- REFCLK_FAB_LOSS and REFCLK_FAB_RETURN (R314, R526): the loss of input k sets its bit and CLK_LOST_SEEN; each of its 16 ports, out of
service, reads REFCLK_LOST; the return clears the bit, and REFCLK_LOST with it. -/
def Obligations.FabricClockCoversSixteenPorts : Prop :=
  ∀ (k : Fin 8) (s : State), (∀ n, n / 16 = k.val → s.mode n = modeOFF ∧ s.inService n = false) →
    (∃ u : Chip, exec (.refclkFabLoss k) s = .next (s.after u)
      ∧ bitAt (u.rd A.GLB_CLK_STATUS F.GLB_CLK_STATUS_REFCLK_FAB_LOST) k.val = true
      ∧ u.flag A.GLB_CLK_STATUS F.GLB_CLK_STATUS_CLK_LOST_SEEN = true
      ∧ (∀ n, n / 16 = k.val → u.flag (A.PRT_STATUS n) F.PRT_STATUS_REFCLK_LOST = true ∧ (u.port n).parked = true)
      ∧ ∀ n, n < 128 → n / 16 ≠ k.val → u.port n = s.port n
          ∧ u.flag (A.PRT_STATUS n) F.PRT_STATUS_REFCLK_LOST = s.flag (A.PRT_STATUS n) F.PRT_STATUS_REFCLK_LOST)
    ∧ ∃ u : Chip, exec (.refclkFabReturn k) s = .next (s.after u)
      ∧ bitAt (u.rd A.GLB_CLK_STATUS F.GLB_CLK_STATUS_REFCLK_FAB_LOST) k.val = false
      ∧ (∀ n, n / 16 = k.val → u.flag (A.PRT_STATUS n) F.PRT_STATUS_REFCLK_LOST = false)
      ∧ u = { s.toChip with regs := u.regs }

/-- BOOT_STAGE_ADVANCE and RELEASE (R513, R515): the end of a stage begins the next one: stage 2 after stage 1; stage 3 after stage 2, or
HELD where the slot holds no valid image; after stage 3 HELD under BOOT_MODE HOLD, else stage 4 with both planes out of reset;
and READY after stage 5, with LEVEL_ACTIVE as the pace controller left it. RELEASE goes on from HELD under HOLD with
stage 4, and has no effect elsewhere. WATCHDOG_KICK (R465) starts the 1 s of the management watchdog again. -/
def Obligations.BootGoesStageByStage : Prop :=
  (∀ (h : Fin 64) (s : State), s.stage = 1 → ∃ u : Chip, exec (.bootStageAdvance h) s = .next (s.after u) ∧ u.stage = 2)
  ∧ (∀ (h : Fin 64) (s : State), s.stage = 2 → ∃ u : Chip, exec (.bootStageAdvance h) s = .next (s.after u)
      ∧ u.stage = (if u.flag A.NWT_STATUS F.NWT_STATUS_IMAGE_INVALID then 7 else 3))
  ∧ (∀ (h : Fin 64) (s : State), s.stage = 3 → ∃ u : Chip, exec (.bootStageAdvance h) s = .next (s.after u)
      ∧ (s.bootMode = 1 → u.stage = 7 ∧ u.flag A.GLB_BOOT_STATUS F.GLB_BOOT_STATUS_DP_RESET = s.flag A.GLB_BOOT_STATUS F.GLB_BOOT_STATUS_DP_RESET)
      ∧ (s.bootMode ≠ 1 → u.stage = 4 ∧ u.flag A.GLB_BOOT_STATUS F.GLB_BOOT_STATUS_DP_RESET = false
          ∧ u.flag A.GLB_BOOT_STATUS F.GLB_BOOT_STATUS_CP_RESET = false ∧ u.rd A.GLB_BOOT_STATUS F.GLB_BOOT_STATUS_HBM_FAIL = h.val))
  ∧ (∀ (h : Fin 64) (s : State), s.stage = 5 → ∃ u : Chip, exec (.bootStageAdvance h) s = .next (s.after u)
      ∧ u.stage = 6 ∧ u.ready = true ∧ u.rd A.GLB_BOOT_STATUS F.GLB_BOOT_STATUS_READY_US = min cap32 (s.tb / 1000)
      ∧ u.levelActive = s.levelActive ∧ u = { s.toChip with regs := u.regs })
  ∧ (∀ (src : Source) (s : State), src.central → s.serves src A.GLB_RESET_CTL →
      (s.stage = 7 → s.bootMode = 1 → s.recovering = false → ∃ u : Chip, exec (.release src) s = .next (s.after u) ∧ u.stage = 4
        ∧ u.flag A.GLB_BOOT_STATUS F.GLB_BOOT_STATUS_DP_RESET = false ∧ u.flag A.GLB_BOOT_STATUS F.GLB_BOOT_STATUS_CP_RESET = false)
      ∧ (s.stage ≠ 7 ∨ s.bootMode ≠ 1 → exec (.release src) s = .next (s.after s.toChip)))
  ∧ (∀ s : State, s.serves .newt A.PCE_MWDOG → ∃ u : Chip, exec (.watchdogKick .newt) s = .next (s.after u)
      ∧ u.due .management = some (s.raw + 1000000000) ∧ u = { s.toChip with timers := u.timers })

/-- EAVES_ENTER (R501): where nothing refuses it the part reads ENTERING, and ENTRY_MS runs; where STATE is not ACTIVE, a partition is
DRAINING or SCRUBBING, OTHER_STATE is not CLOSED, a tray is ATTACHING or DRAINING, or TRANSITION reads 1, the write changes nothing but
the log, which takes one record with BUSY and the register's address. -/
def Obligations.EavesEntryIsRefusedUnlessAllIsQuiet : Prop :=
  ∀ (src : Source) (s : State), src.central → s.serves src A.PCE_PWR_CTL →
    1 ≤ s.rd A.PCE_PWR_CTL F.PCE_PWR_CTL_ENTRY_MS → s.rd A.PCE_PWR_CTL F.PCE_PWR_CTL_ENTRY_MS ≤ 1000 →
    let refused : Prop := s.powerState ≠ 0 ∨ (∃ p, p < 64 ∧ (s.pstate p = psDRAINING ∨ s.pstate p = psSCRUBBING))
      ∨ s.rd A.RTE_EPOCH F.RTE_EPOCH_OTHER_STATE ≠ 0 ∨ (∃ n, n < 32 ∧ (s.trayState n = trayATTACHING ∨ s.trayState n = trayDRAINING))
      ∨ s.flag A.PCE_STATUS F.PCE_STATUS_TRANSITION = true
    ∃ u : Chip, exec (.eavesEnter src) s = .next (s.after u)
      ∧ (¬ refused → u.powerState = 1 ∧ u.due .eavesEntry = some (s.raw + s.rd A.PCE_PWR_CTL F.PCE_PWR_CTL_ENTRY_MS * 1000000)
          ∧ u.errSeq = s.errSeq)
      ∧ (refused → u.errSeq = s.errSeq + 1
          ∧ u.rd (A.ERR_LOG (s.errSeq % 4096)) F.ERR_LOG_STATUS = Status.busy.code
          ∧ u.rd (A.ERR_LOG (s.errSeq % 4096)) F.ERR_LOG_ADDR = A.PCE_PWR_CTL
          ∧ u.powerState = s.powerState ∧ u = { s.toChip with regs := u.regs, errSeq := u.errSeq })

/-- EAVES_ENTRY_PROGRESS, EAVES_ENTRY_TIMEOUT, WAKE and WAKE_COMPLETE (R502 to R505, R498). Entry goes on in ENTERING alone; before step
5 it waits for the engines and the collectives; at its end, with nothing left in the buffer, STATE reads EAVES with both levels 7 and
VDD_CORE at 620 mV, and the write cache is empty. ENTRY_MS that runs out sets ABANDON_SEEN. A wake asked for at step 5 or later follows
the entry, the first request kept; in EAVES it begins at once with its cause; in ACTIVE and WAKING it changes nothing. A wake that ends
zeroes every scratchpad, and nothing happens where none is under way. -/
def Obligations.EavesEntryAndWakeGoInOrder : Prop :=
  (∀ s : State, s.powerState ≠ 1 → exec .eavesEntryProgress s = .next (s.after s.toChip))
  ∧ (∀ s : State, s.powerState = 1 → s.power.stepFive = false → s.enginesIdle = false → exec .eavesEntryProgress s = .next (s.after s.toChip))
  ∧ (∀ s : State, s.powerState = 1 → s.power.stepFive = true → s.power.wakeAfter = none → s.sw.slots = [] → s.sw.waiting = [] →
      (∀ n, n < 128 → s.inService n = true → s.flag (A.PRT_STATUS n) F.PRT_STATUS_EAVES = true) →
      ∃ u : Chip, exec .eavesEntryProgress s = .next (s.after u) ∧ u.powerState = 2 ∧ u.levelActive = 7
        ∧ u.rd A.PCE_STATUS F.PCE_STATUS_ADMIT_LEVEL = 7 ∧ u.rd A.PCE_STATUS F.PCE_STATUS_VCORE_MV = 620
        ∧ u.rd A.PCE_PWR_STATUS F.PCE_PWR_STATUS_ENTRIES = (s.rd A.PCE_PWR_STATUS F.PCE_PWR_STATUS_ENTRIES + 1) % 2 ^ F.PCE_PWR_STATUS_ENTRIES.width
        ∧ u.pool.cache = [] ∧ u.out.head? = some (.avsWrite 620))
  ∧ (∀ (s : State) (c : Chip), s.expire .eavesEntry = some c →
      ∃ u : Chip, exec .eavesEntryTimeout s = .next (s.after u) ∧ u.flag A.PCE_PWR_STATUS F.PCE_PWR_STATUS_ABANDON_SEEN = true)
  ∧ (∀ s : State, s.expire .eavesEntry = none → exec .eavesEntryTimeout s = .next (s.after s.toChip))
  ∧ (∀ (src : Source) (s : State), src.central → s.serves src A.PCE_PWR_CTL →
      1 ≤ s.rd A.PCE_PWR_CTL F.PCE_PWR_CTL_ENTRY_MS → s.rd A.PCE_PWR_CTL F.PCE_PWR_CTL_ENTRY_MS ≤ 1000 →
      ∃ u : Chip, exec (.wake src) s = .next (s.after u)
        ∧ (s.powerState = 1 → s.power.stepFive = true →
            u.power = { s.power with wakeAfter := if s.power.wakeAfter.isSome then s.power.wakeAfter else some (1, s.raw) })
        ∧ (s.powerState = 2 → (∀ n, n < 128 → s.mode n = modeOFF) → u.powerState = 3
            ∧ u.rd A.PCE_PWR_STATUS F.PCE_PWR_STATUS_WAKE_CAUSE = 1 ∧ u.power.wakeFrom = s.raw
            ∧ u.pace.target = s.rd A.PCE_POLICY F.PCE_POLICY_LEVEL)
        ∧ (s.powerState = 0 ∨ s.powerState = 3 → u = { s.toChip with regs := u.regs } ∧ u.powerState = s.powerState))
  ∧ (∀ s : State, s.powerState ≠ 3 → exec .wakeComplete s = .next (s.after s.toChip))
  ∧ (∀ s : State, s.powerState = 3 → s.power.held = [] → s.power.resetData = none → s.power.resetControl = none →
      (∀ n, n < 32 → s.trayState n ≠ trayREADY) →
      ∃ u : Chip, exec .wakeComplete s = .next (s.after u) ∧ u.powerState = 0 ∧ u.seq.scr = [] ∧ u.pool = s.pool
        ∧ u.rd A.PCE_PWR_STATUS F.PCE_PWR_STATUS_LAST_WAKE_NS = min cap32 (s.raw - s.power.wakeFrom))

/-- OWNER_BYTE_WRITE (R417, R419, R449), for every kind of unit: an owner byte whose complement is wrong leaves one record with
TABLE_CHECK; a byte that gives a free unit to a partition that is CREATED makes that partition its owner; one with OWNED clear returns
the unit; one for a partition that is in another state leaves one record with BUSY. No other register field changes but in the log. -/
def Obligations.OwnerByteReservesOneUnit : Prop :=
  ∀ (src : Source) (kind : Fin 11) (unit half : Nat) (l : Loc) (key : Nat) (s : State),
    let a := unitAddr kind.val unit
    let p := half % 64
    src.central → s.serves src a → s.site a = some ⟨l, key, false⟩ → l.unit (a % 8 / 2) = some (kind.val, unit) → half < 65536 →
    (half % 256 + half / 256 ≠ 255 →
      exec (.ownerByteWrite src kind unit half) s =
        .next (s.after (s.log { status := .tableCheck, subsys := blockSubsys a, addrKind := 4, addr := a })))
    ∧ (half % 256 = 64 + p → half / 256 = 255 - half % 256 → s.ownerOk a = true → s.owner a = none →
        s.reserveCheck p kind.val unit 1 false = none → s.awaitsZero kind.val unit = false →
        (kind.val = 4 → bitAt (s.rd A.GLB_BOOT_STATUS F.GLB_BOOT_STATUS_HBM_FAIL) (unit / 32) = false) →
        (s.pstate p = psCREATED → s.sealing p = false →
          ∃ u : Chip, exec (.ownerByteWrite src kind unit half) s = .next (s.after u)
            ∧ u.ownerOk a = true ∧ u.owner a = some p ∧ u = { s.toChip with regs := u.regs }
            ∧ ∀ b g, 8 * b + g.lo + g.width ≤ 8 * a ∨ 8 * a + 16 ≤ 8 * b + g.lo → u.rd b g = s.rd b g)
        ∧ (s.pstate p ≠ psCREATED →
            exec (.ownerByteWrite src kind unit half) s = .next (s.after (s.logReg .busy .partitionUnit a))))
    ∧ (∀ q, half = 255 * 256 → s.ownerOk a = true → s.owner a = some q → s.reserveCheck q kind.val unit 1 true = none →
        s.pstate q = psCREATED → s.sealing q = false →
          ∃ u : Chip, exec (.ownerByteWrite src kind unit half) s = .next (s.after u)
            ∧ u.ownerOk a = true ∧ u.owner a = none ∧ u = { s.toChip with regs := u.regs })

/-- PAD_CFG_WRITE (R531, R535): a legal value is stored in the group's register; the setting in force on the pads of group 2 stays the
old one until the end of an SPI transfer of Newt, where one is under way. -/
def Obligations.PadSettingWaitsForTheTransfer : Prop :=
  ∀ (src : Source) (g : Fin 8) (data : Nat) (spi : Bool) (s : State),
    let a := A.GLB_PAD_CFG g.val
    src.central → s.serves src a → data < 2 ^ 64 →
    (g.val = 0 → bits data F.GLB_PAD_CFG_SLEW.lo F.GLB_PAD_CFG_SLEW.width = 0) →
    (g.val = 7 → bits data F.GLB_PAD_CFG_FILTER.lo F.GLB_PAD_CFG_FILTER.width = 0) →
    (g.val ≠ 2 → g.val ≠ 6 → bits data F.GLB_PAD_CFG_SPREAD_EN.lo F.GLB_PAD_CFG_SPREAD_EN.width = 0) →
    ∃ u : Chip, exec (.padCfgWrite src g data spi) s = .next (s.after u)
      ∧ (∀ f ∈ [F.GLB_PAD_CFG_SLEW, F.GLB_PAD_CFG_FILTER, F.GLB_PAD_CFG_SPREAD_EN], u.rd a f = bits data f.lo f.width)
      ∧ u.power = { s.power with padWait := if g.val = 2 ∧ spi = true then some (s.power.padWait.getD (s.regs.word a).toNat) else s.power.padWait }
      ∧ u = { s.toChip with regs := u.regs, power := u.power }
      ∧ ∀ b f, apart a ⟨0, 64⟩ b f → u.rd b f = s.rd b f

/-- SWC_CLEAR_DROPS, RTE_CLEAR_DROPS, TMG_CLEAR_COUNTS and PORT_CLEAR_COUNTS (R397, R376, R414, R341): a write of 1 from the control
host or Newt zeroes the counts of its block and changes no other register field and nothing else. -/
def Obligations.CountsAreCleared : Prop :=
  ∀ (src : Source) (s : State), src.central →
    (s.serves src A.SWC_CTL → ∃ u : Chip, exec (.swcClearDrops src) s = .next (s.after u) ∧ u = { s.toChip with regs := u.regs }
      ∧ (∀ f ∈ [F.SWC_DROPS_REASM_TIMEOUTS, F.SWC_DROPS_ORPHAN_SEGS, F.SWC_DROPS_QUOTA_DROPS, F.SWC_DROPS_FLUSHED], u.rd A.SWC_DROPS f = 0)
      ∧ (∀ p, p < 64 → u.rd (A.SWC_USAGE p) F.SWC_USAGE_PEAK = 0
          ∧ u.rd (A.SWC_USAGE p) F.SWC_USAGE_USED = s.rd (A.SWC_USAGE p) F.SWC_USAGE_USED))
    ∧ (s.serves src A.RTE_EPOCH_CTL → ∃ u : Chip, exec (.rteClearDrops src) s = .next (s.after u) ∧ u = { s.toChip with regs := u.regs }
      ∧ (∀ f ∈ [F.RTE_DROPS0_PARTITION, F.RTE_DROPS0_STALE, F.RTE_DROPS0_HOPS, F.RTE_DROPS0_GUTTER], u.rd A.RTE_DROPS0 f = 0)
      ∧ (∀ f ∈ [F.RTE_DROPS1_FORMAT, F.RTE_DROPS1_FENCE_TIMEOUT, F.RTE_DROPS1_MCAST], u.rd A.RTE_DROPS1 f = 0)
      ∧ ∀ b g, apart A.RTE_DROPS0 ⟨0, 64⟩ b g → apart A.RTE_DROPS1 ⟨0, 64⟩ b g → u.rd b g = s.rd b g)
    ∧ (s.serves src A.TMG_CTL → ∃ u : Chip, exec (.tmgClearCounts src) s = .next (s.after u) ∧ u = { s.toChip with regs := u.regs }
      ∧ u.rd A.TMG_STATUS F.TMG_STATUS_CHECKS = 0
      ∧ ∀ i, i < 1024 → u.regs.word (A.TMG_METER_CNT i) = resetWord (A.TMG_METER_CNT i))
    ∧ ∀ n : Fin 128, s.serves src (A.PRT_CTL n.val) →
      ∃ u : Chip, exec (.portClearCounts src n) s = .next (s.after u) ∧ u = { s.toChip with regs := u.regs }
        ∧ (∀ f ∈ [F.PRT_ERR_CNT_CW_UNCORR, F.PRT_ERR_CNT_SEAL_FAILS, F.PRT_ERR_CNT_REPLAYS, F.PRT_ERR_CNT_RETRAINS],
            u.rd (A.PRT_ERR_CNT n.val) f = 0)
        ∧ u.rd (A.PRT_FEC_CORR n.val) F.PRT_FEC_CORR_CORRECTED = 0 ∧ u.rd (A.PRT_STATUS n.val) F.PRT_STATUS_UNMATCHED = 0
        ∧ u.rd (A.PRT_STATUS n.val) F.PRT_STATUS_WAKING_DROPS = 0 ∧ u.inService n.val = s.inService n.val

/-- BUFFER_AUDIT and SWC_AUDIT_REQUEST (R393, R394), with an empty buffer: an audit ends with DONE_SEEN set and RUNNING clear, nothing
found leaked or held twice (the model's buffer loses no entry, log entry 15), the withheld entries retired, and SWC_FREE showing the
rebuilt counts. A request while a port is in service or an engine runs changes nothing but the log. -/
def Obligations.AuditRebuildsTheFreeLists : Prop :=
  (∀ s : State, s.sw.slots = [] → s.sw.waiting = [] → ∃ u : Chip, exec .bufferAudit s = .next (s.after u)
      ∧ u.flag A.SWC_AUDIT F.SWC_AUDIT_DONE_SEEN = true ∧ u.flag A.SWC_AUDIT F.SWC_AUDIT_RUNNING = false
      ∧ u.rd A.SWC_AUDIT F.SWC_AUDIT_LEAKED = 0 ∧ u.rd A.SWC_AUDIT F.SWC_AUDIT_DOUBLE = 0
      ∧ u.sw.withheldSegs = 0 ∧ u.sw.retiredSegs = s.sw.retiredSegs + s.sw.withheldSegs
      ∧ u.rd A.SWC_FREE F.SWC_FREE_FREE_SEGS = (segPool - u.sw.retiredSegs) % 2 ^ 19
      ∧ u.errSeq = s.errSeq + (s.sw.withheldDesc + s.sw.withheldSegs))
  ∧ (∀ (src : Source) (s : State), src.central → s.serves src A.SWC_CTL →
      ((∃ n, n < 128 ∧ s.inService n = true) ∨ (∃ e, e < 64 ∧ s.flag (A.CEL_STATUS e) F.CEL_STATUS_RUNNING = true)
          ∨ (∃ t, t < 16 ∧ s.flag (A.MTX_STATUS t) F.MTX_STATUS_RUNNING = true) →
        exec (.swcAuditRequest src) s = .next (s.after (s.logReg .busy .switchCore A.SWC_CTL)))
      ∧ ((∀ n, n < 128 → s.inService n = false) → (∀ e, e < 64 → s.flag (A.CEL_STATUS e) F.CEL_STATUS_RUNNING = false) →
          (∀ t, t < 16 → s.flag (A.MTX_STATUS t) F.MTX_STATUS_RUNNING = false) →
          exec (.swcAuditRequest src) s = exec .bufferAudit s))

/-- COMPLEMENT_REPAIR (R450): an entry that fails its check takes the value of ERR_REPAIR_DATA and its complement, whatever its locks,
and one event is written; an entry that passes changes in nothing, and one record with BUSY is written. -/
def Obligations.RepairActsOnFailedEntriesAlone : Prop :=
  ∀ (s : State) (l : Loc) (key : Nat) (ro : Bool),
    let off := s.rd A.ERR_REPAIR_ADDR F.ERR_REPAIR_ADDR_OFFSET
    s.serves .newt A.ERR_REPAIR_CTL → s.site off = some ⟨l, key, ro⟩ → l.kind.hasComplement = true → l.word = 0 → off % 8 = 0 →
    l.kind.isOwnArray = false → l.kind ∉ [RegKind.prtOwner, .celOwner, .mtxOwner, .cdcSlot] → l.base + 16 * l.kind.words ≤ 0x1800000 →
    (s.checked l.base l.kind.words = true → exec (.complementRepair .newt) s = .next (s.after (s.logReg .busy .newt A.ERR_REPAIR_CTL)))
    ∧ (s.checked l.base l.kind.words = false → ∃ u : Chip, exec (.complementRepair .newt) s = .next (s.after u)
        ∧ u.checked l.base l.kind.words = true
        ∧ u.regs.span l.base l.kind.words = s.regs.span (A.ERR_REPAIR_DATA 0) 8 % 2 ^ (64 * l.kind.words)
        ∧ u.errSeq = s.errSeq + 1 ∧ u = { s.toChip with regs := u.regs, errSeq := u.errSeq })

/-! ### The home and its requesters -/

/-- RD_SHARED, RD_OWN and RD_CURRENT (R136, R138, Table 4.6): the read of a line that no host holds and that the write cache of its home
holds is answered at once with the line's bytes. A RdShared and a RdOwn are granted E and their sender becomes the owner; a RdCurrent is
granted no copy and the line stays Invalid. -/
def Obligations.ReadOfAnUnheldLineIsGrantedAtOnce : Prop :=
  ∀ (c : Instr) (p : Packet) (msg grant : Nat) (next : Dir) (j b : Nat) (l : CacheLine) (s : State),
    (c = .rdShared p ∧ msg = mRdShared ∧ grant = 2 ∧ next = .owned p.src) ∨ (c = .rdOwn p ∧ msg = mRdOwn ∧ grant = 2 ∧ next = .owned p.src)
      ∨ (c = .rdCurrent p ∧ msg = mRdCurrent ∧ grant = 0 ∧ next = .invalid) →
    s.accepts p → (Coh.ofBody p.body).msg = msg → (s.taken p).homeAdmits p j b → (s.taken p).homeQuiet →
    (s.taken p).dirOf b (p.lineOf j) = .invalid → (s.taken p).cached p.partition roleHOME 0 (p.lineOf j) = some l →
    ∃ w : Chip, exec c s = .next (s.after ((w.complete p { msg := mData, lmask := 2 ^ j, grant := grant } (payloadOf [(j, l.data)])).flowApplied p))
      ∧ w.dirOf b (p.lineOf j) = next ∧ w.homeQuiet ∧ w = { s.taken p with pool := w.pool }

/-- RD_SHARED, RD_OWN, RD_CURRENT and WRBACK (R134, R136, R140, R142, Table 4.6): a request for a line that another host owns opens a
transaction and sends that host one snoop, with FENCE and its timer: SnpShare for a RdShared, SnpCur for a RdCurrent, SnpInv for the
others. The line stays Owned, and Busy, until the snoop is resolved. -/
def Obligations.RequestForAnOwnedLineSnoopsItsOwner : Prop :=
  ∀ (c : Instr) (p : Packet) (msg : Nat) (kind : TxnKind) (sk : SnoopKind) (j b x : Nat) (s : State),
    (c = .rdShared p ∧ msg = mRdShared ∧ kind = .rdShared ∧ sk = .share) ∨ (c = .rdOwn p ∧ msg = mRdOwn ∧ kind = .rdOwn ∧ sk = .inv)
      ∨ (c = .rdCurrent p ∧ msg = mRdCurrent ∧ kind = .rdCurrent ∧ sk = .cur) ∨ (c = .wrBack p ∧ msg = mWrBack ∧ kind = .wrBack ∧ sk = .inv) →
    s.accepts p → (Coh.ofBody p.body).msg = msg → (s.taken p).homeAdmits p j b → (s.taken p).homeQuiet →
    (s.taken p).dirOf b (p.lineOf j) = .owned x → x ≠ p.src → (s.taken p).hostFailed x = false →
    ∃ w : Chip, exec c s = .next (s.after ((w.send { cls := clsCOH, tc := p.tc, partition := p.partition, dst := x, src := w.selfEid, fence := true
                                                     body := Coh.body { msg := sk.msg, lmask := 2 ^ j, txn := 256 * b
                                                                        saddr := (Coh.ofBody p.body).saddr } }).flowApplied p))
      ∧ w.due (.snoop (256 * b) x) = some (s.raw + (s.taken p).txnTimeout)
      ∧ w.dirOf b (p.lineOf j) = .owned x
      ∧ w.pool.txns = [(256 * b, { line := p.lineOf j, part := p.partition, kind := kind, prior := .owned x
                                   members := [((s.taken p).pool.nextReq, j)], snoops := [{ eid := x, kind := sk, owner := true }] })]
      ∧ w = { s.taken p with pool := w.pool, timers := w.timers }

/-- WRBACK and CLEAN_EVICT (R136, R137, Table 4.6): the owner's WrBack makes its bytes the home's memory, a dirty HOME line of the write
cache, leaves the line Invalid and is acknowledged; a CleanEvict removes its sender from the line's holders and is acknowledged. -/
def Obligations.WriteBackReachesMemory : Prop :=
  ∀ (p : Packet) (j b : Nat) (s : State), s.accepts p → (s.taken p).homeAdmits p j b → (s.taken p).homeQuiet →
    ((Coh.ofBody p.body).msg = mWrBack → (s.taken p).dirOf b (p.lineOf j) = .owned p.src → (s.taken p).cacheHasRoom p.partition →
      ∃ w : Chip, exec (.wrBack p) s = .next (s.after ((w.complete p { msg := mWbAck, lmask := 2 ^ j } []).flowApplied p))
        ∧ w.dirOf b (p.lineOf j) = .invalid ∧ w.homeQuiet ∧ w = { s.taken p with pool := w.pool }
        ∧ w.cached p.partition roleHOME 0 (p.lineOf j)
            = some { data := (p.payload.drop (64 * j)).take 64, dirty := true, wrote := (s.taken p).pool.writes + 1 })
    ∧ ((Coh.ofBody p.body).msg = mCleanEvict →
      ∃ w : Chip, exec (.cleanEvict p) s = .next (s.after ((w.complete p { msg := mEvictAck, lmask := 2 ^ j } []).flowApplied p))
        ∧ w.homeQuiet ∧ w = { s.taken p with pool := w.pool }
        ∧ ((s.taken p).dirOf b (p.lineOf j) = .owned p.src → w.dirOf b (p.lineOf j) = .invalid)
        ∧ ∀ l, (s.taken p).dirOf b (p.lineOf j) = .shared l → w.dirOf b (p.lineOf j) = dirOfHolders (l.filter (· != p.src)))

/-- ATOMIC_ANY (R149, R150, Table 4.9): an atomic on a line that no host holds, of a sender that may not be granted it near, is executed
at the home: the operand's new value is written into the line, and the old one is answered. COMBINING_WINDOW_CLOSE (R147): the entry
closes and one FetchAdd goes out under this E9's EID with the members' sums of OPA and COUNT; nothing happens where the window does not
run. -/
def Obligations.FarAtomicUpdatesTheLine : Prop :=
  (∀ (p : Packet) (j b : Nat) (l : CacheLine) (s : State), s.accepts p → (s.taken p).homeAdmits p j b → (s.taken p).homeQuiet →
      let c := Coh.ofBody p.body
      let old := operandAt l.data (c.offset % 64) c.size
      c.msg = mAtomicAny → atomicCheck c = .run → (s.taken p).combines p = false → p.dst = (s.taken p).selfEid →
      (s.taken p).cachingHost p.partition p.src = false → (s.taken p).dirOf b (p.lineOf j) = .invalid →
      (s.taken p).cached p.partition roleHOME 0 (p.lineOf j) = some l → (s.taken p).cacheHasRoom p.partition →
      ∃ w : Chip, exec (.atomicAny p) s = .next (s.after ((w.complete p { msg := mAtomicRsp, lmask := 2 ^ j, aop := c.aop, size := c.size
                                                                          offset := c.offset, opa := old } []).flowApplied p))
        ∧ w.cached p.partition roleHOME 0 (p.lineOf j)
            = some { data := withOperand l.data (c.offset % 64) c.size (atomicResult c.aop c.size old c.opa c.opb), dirty := true
                     wrote := (s.taken p).pool.writes + 1 }
        ∧ w.dirOf b (p.lineOf j) = .invalid ∧ w.homeQuiet ∧ w = { s.taken p with pool := w.pool })
  ∧ (∀ (n : Nat) (s : State), s.expire (.combining n) = none → exec (.combiningWindowClose n) s = .next (s.after s.toChip))
  ∧ (∀ (n : Nat) (e : Comb) (c : Chip) (s : State), s.expire (.combining n) = some c → c.pool.combs.find n = some e → e.closed = false →
      ∃ u : Chip, exec (.combiningWindowClose n) s = .next (s.after u)
        ∧ u.pool.combs.find n = some { e with closed := true }
        ∧ (u.pool.asks.find c.freshTag).map (fun a => (a.who, a.pkt.src, Coh.ofBody a.pkt.body))
            = some (.comb n, c.selfEid, Coh.ofBody (Coh.body { msg := mAtomicAny, tag := c.freshTag, lmask := e.lmask, saddr := e.saddr
                                                               count := e.count, aop := 1, size := e.size, offset := e.offset, opa := e.sum })))

/-- ATOMIC_RSP (R148): the members of a combining entry are answered in their order of arrival, member k with the old value plus the
operands of the members before it, modulo the size of the operand, and COMBINED set: as if they had been applied one after another.
The entry and its request are gone. -/
def Obligations.CombinedAddsAreAnsweredInTurn : Prop :=
  ∀ (p : Packet) (n : Nat) (e : Comb) (a : Ask) (s : State), s.accepts p →
    let v := s.taken p
    let c := Coh.ofBody p.body
    c.msg = mAtomicRsp → v.pool.asks.find c.tag = some a → a.who = .comb n → v.pool.ended = [] → v.pool.combs.find n = some e →
    ∃ w : Chip, exec (.atomicRsp p) s = .next (s.after (((List.range e.members.length).foldl (fun (t : Chip) k =>
          let q := e.members.getD k {}
          let d := Coh.ofBody q.body
          t.complete q { msg := mAtomicRsp, lmask := d.lmask, combined := true, aop := 1, size := d.size, offset := d.offset
                         opa := (c.opa + ((e.members.take k).map (fun x => (Coh.ofBody x.body).opa)).sum) % 2 ^ (8 * e.size) } []) w
        |>.modPool (fun q => { q with ended := [] })).flowApplied p))
      ∧ w.pool.combs = v.pool.combs.erase n ∧ w.pool.asks = v.pool.asks.erase c.tag
      ∧ w = { v with pool := w.pool, timers := v.timers.filter (fun x => x.1 != Timer.txn c.tag) }

/-- SNOOP_RESPONSE (R140, R141, Table 4.7): a response to no open snoop counts STRAY and does nothing else. RspI resolves the snoop and
says that the host has given its copy up; RspWbPending leaves it open. Other snoops of the transaction keep waiting. -/
def Obligations.SnoopResponseResolvesItsSnoop : Prop :=
  (∀ (p : Packet) (s : State), s.accepts p → (s.taken p).pool.txns.find (Coh.ofBody p.body).txn = none →
      exec (.snoopResponse p) s = .next (s.after (((s.taken p).count A.HOM_STATUS F.HOM_STATUS_STRAY).flowApplied p)))
  ∧ (∀ (p : Packet) (t : HTxn) (n x : Snoop) (s : State), s.accepts p →
      let v := s.taken p
      let i := (Coh.ofBody p.body).txn
      v.pool.txns = [(i, t)] → v.pool.waits = [] → v.pool.done = [] → t.line / 4 = (Coh.ofBody p.body).saddr →
      t.snoops.find? (fun y => y.eid == p.src) = some n → n.done = false → x ∈ t.snoops → x.eid ≠ p.src → x.done = false →
      let after (m : Snoop) : HTxn := { t with snoops := t.snoops.map (fun y => if y.eid == p.src then m else y) }
      ((Coh.ofBody p.body).msg = mRspI →
        exec (.snoopResponse p) s = .next (s.after (({ v with pool := { v.pool with txns := [(i, after { n with done := true, gone := true })] }
                                                              timers := v.timers.filter (fun e => e.1 != Timer.snoop i p.src) }).flowApplied p)))
      ∧ ((Coh.ofBody p.body).msg = mRspWbPending → n.wb = false →
        exec (.snoopResponse p) s = .next (s.after (({ v with pool := { v.pool with
                                                                          txns := [(i, after { n with pending := true, gone := true })] } }).flowApplied p))))

/-- SNOOP_TIMEOUT, HEARTBEAT_TIMEOUT, HEARTBEAT, FAILURE_WALK_DONE, HOST_DECLARE and HOST_FAILED_CLEAR (R142, R153 to R155, R160, R163): a
caching host whose snoop or Heartbeat does not come in time, or that Newt declares, is declared failed: FAILED and WALKING read 1 and its
heartbeat timer stops; a host that does not cache, or has failed before, is not. A Heartbeat starts its host's timer again; WALKING reads
0 after the walk; FAILED is cleared by the control host, with LOST_LINES, and the timer starts again. -/
def Obligations.SilentHostsAreDeclaredFailed : Prop :=
  (∀ (s : Chip) (e : Nat), e < 16384 →
      (s.flag (A.HOM_HOST e) F.HOM_HOST_ASSIGNED = false ∨ s.flag (A.HOM_HOST e) F.HOM_HOST_CACHING = false ∨ s.hostFailed e = true →
        s.declareFailed e = s)
      ∧ (s.flag (A.HOM_HOST e) F.HOM_HOST_ASSIGNED = true → s.flag (A.HOM_HOST e) F.HOM_HOST_CACHING = true → s.hostFailed e = false →
          s.homeQuiet → s.pool.views = [] → s.banksOf (s.rd (A.HOM_HOST e) F.HOM_HOST_PARTITION) = [] →
          s.flag (A.ERR_FAULT_CFG (s.rd (A.HOM_HOST e) F.HOM_HOST_PARTITION)) F.ERR_FAULT_CFG_NOTIFY_EN = false →
          (s.declareFailed e).hostFailed e = true ∧ (s.declareFailed e).flag (A.HOM_HOST e) F.HOM_HOST_WALKING = true
            ∧ (s.declareFailed e).errSeq = s.errSeq + 1 ∧ (s.declareFailed e).pool = s.pool))
  ∧ (∀ (i : Nat) (e : Fin 16384) (s : State),
      (s.pool.txns.find i = none → exec (.snoopTimeout i e) s = .next (s.after s.toChip))
      ∧ ∀ t, s.pool.txns.find i = some t → (∃ n ∈ t.snoops, n.eid = e.val ∧ n.done = false) →
          exec (.snoopTimeout i e) s = .next (s.after (s.declareFailed e.val)))
  ∧ (∀ (e : Fin 16384) (s : State),
      (s.powerState ≠ 0 ∨ s.expire (.heartbeat e.val) = none → exec (.heartbeatTimeout e) s = .next (s.after s.toChip))
      ∧ ∀ c, s.powerState = 0 → s.expire (.heartbeat e.val) = some c → exec (.heartbeatTimeout e) s = .next (s.after (c.declareFailed e.val)))
  ∧ (∀ (p : Packet) (s : State), s.accepts p →
      let v := s.taken p
      exec (.heartbeat p) s = .next (s.after ((if v.cachingHost p.partition p.src = true ∧ v.hostFailed p.src = false
        then v.startTimer (.heartbeat p.src) (ms (v.rd A.HOM_CTL F.HOM_CTL_HB_MS)) else v).flowApplied p)))
  ∧ (∀ (e : Fin 16384) (c : Chip) (s : State), s.expire (.walk e.val) = some c →
      ∃ u : Chip, exec (.failureWalkDone e) s = .next (s.after u) ∧ u.flag (A.HOM_HOST e.val) F.HOM_HOST_WALKING = false
        ∧ u = { c with regs := u.regs })
  ∧ (∀ (e : Fin 16384) (s : State), s.serves .newt (A.HOM_HOST e.val) →
      s.flag (A.HOM_HOST e.val) F.HOM_HOST_ASSIGNED = true → s.flag (A.HOM_HOST e.val) F.HOM_HOST_CACHING = true → s.hostFailed e.val = false →
      s.homeQuiet → s.pool.views = [] → s.banksOf (s.rd (A.HOM_HOST e.val) F.HOM_HOST_PARTITION) = [] →
      s.flag (A.ERR_FAULT_CFG (s.rd (A.HOM_HOST e.val) F.HOM_HOST_PARTITION)) F.ERR_FAULT_CFG_NOTIFY_EN = false →
      ∃ u : Chip, exec (.hostDeclare .newt e) s = .next (s.after u) ∧ u.hostFailed e.val = true)
  ∧ (∀ (e : Fin 16384) (s : State), s.serves .pf (A.HOM_HOST e.val) → s.hostFailed e.val = true →
      s.flag (A.HOM_HOST e.val) F.HOM_HOST_WALKING = false →
      s.flag (A.HOM_HOST e.val) F.HOM_HOST_ASSIGNED = true → s.flag (A.HOM_HOST e.val) F.HOM_HOST_CACHING = true →
      ∃ u : Chip, exec (.hostFailedClear .pf e) s = .next (s.after u) ∧ u.hostFailed e.val = false
        ∧ u.rd (A.HOM_HOST e.val) F.HOM_HOST_LOST_LINES = 0 ∧ u.running (.heartbeat e.val) = true
        ∧ u = { s.toChip with regs := u.regs, timers := u.timers })

/-- DATA_COMPLETION, WBACK_COMPLETION, ERR_COMPLETION and TRANSACTION_TIMEOUT (R109, R135, R139, R375): a completion ends the request of
its tag, with the status of an Err and the bytes of a Data, and stops its timer; a WbAck lets the written lines leave the way groups;
RETRY sends the request again; what names no open request is discarded; the timer ends the request with TIMEOUT. -/
def Obligations.CompletionsEndTheirRequests : Prop :=
  (∀ (c : Instr) (p : Packet) (s : State), c = .dataCompletion p ∨ c = .wbackCompletion p ∨ c = .errCompletion p → s.accepts p →
      let v := s.taken p
      let d := Coh.ofBody p.body
      (v.pool.asks.find d.tag = none → exec c s = .next (s.after (v.flowApplied p)))
      ∧ ∀ a, v.pool.asks.find d.tag = some a → v.pool.ended = [] →
          (∀ n k st, a.who = .job n k → (d.msg = mData ∧ st = .ok) ∨ (d.msg = mErr ∧ d.status = Status.code st ∧ st ≠ .ok ∧ st ≠ .retry
              ∧ st ≠ .staleEpoch) →
            exec c s = .next (s.after (({ v with pool := { v.pool with ended := [⟨d.tag, st, d.opa, linesOf d.lmask p.payload⟩] }
                                                 timers := v.timers.filter (fun e => e.1 != Timer.txn d.tag) }).flowApplied p)))
          ∧ (∀ q lines, a.who = .wcache q lines → d.msg = mWbAck →
              ∃ u : Chip, exec c s = .next (s.after (u.flowApplied p))
                ∧ (∀ l ∈ lines, (v.cached q roleENGINE 0 l).any (fun x => x.flight == some d.tag) = true → u.cached q roleENGINE 0 l = none)
                ∧ u.running (.txn d.tag) = false ∧ u = { v with pool := u.pool, timers := u.timers })
          ∧ (d.msg = mErr → d.status = Status.retry.code → (∃ n k, a.who = .job n k) →
              exec c s = .next (s.after ((({ v with pool := { v.pool with asks := v.pool.asks.put d.tag a } }).sendAsk d.tag a.pkt).flowApplied p))))
  ∧ (∀ (t : TimedTxn) (m : Timer) (s : State), (∃ tag, t = .ask tag ∧ m = .txn tag) ∨ (∃ tag, t = .tray tag ∧ m = .tray tag) →
      s.expire m = none → exec (.transactionTimeout t) s = .next (s.after s.toChip))
  ∧ (∀ (tag n k : Nat) (a : Ask) (c : Chip) (s : State), s.expire (.txn tag) = some c → c.pool.asks.find tag = some a → a.who = .job n k →
      c.pool.ended = [] →
      ∃ u : Chip, exec (.transactionTimeout (.ask tag)) s = .next (s.after u)
        ∧ u = { c with pool := { c.pool with ended := [⟨tag, .timeout, 0, []⟩] }, timers := u.timers } ∧ u.running (.txn tag) = false)

/-- ENGINE_POOL_READ, ENGINE_POOL_WRITE and CLEANER_SCAN (R31, R97, R109, R445, R446): an engine of no partition reads nothing; a read that
finds its line is served from it, a corrected code word being counted; one that does not sends a RdCurrent. A write of a whole line goes
into the way groups; one that its range check refuses leaves one record. A scan starts the next one's interval and marks a dirty tile
that was not marked. -/
def Obligations.EnginesReadAndWriteThePool : Prop :=
  (∀ (e : Fin 80) (addr : Nat) (ecc : EccResult) (s : State),
      (s.engineOf e.val = none → exec (.enginePoolRead e addr ecc) s = .next (s.after s.toChip))
      ∧ ∀ p, s.engineOf e.val = some p →
        (∀ l, s.cached p roleENGINE 0 (addr / 64) = some l →
          (ecc = .clean → exec (.enginePoolRead e addr ecc) s = .next (s.after s.toChip))
          ∧ (ecc = .corrected → ∃ u : Chip, exec (.enginePoolRead e addr ecc) s = .next (s.after u)
              ∧ u.rd (A.ERR_CE_CNT Subsys.tierManager.num) F.ERR_CE_CNT_CE
                  = min cap32 (s.rd (A.ERR_CE_CNT Subsys.tierManager.num) F.ERR_CE_CNT_CE + 1))
          ∧ (ecc = .failed → ∃ u : Chip, exec (.enginePoolRead e addr ecc) s = .next (s.after u) ∧ u.cached p roleENGINE 0 (addr / 64) = none))
        ∧ (s.cached p roleENGINE 0 (addr / 64) = none →
          ∃ u : Chip, exec (.enginePoolRead e addr ecc) s = .next (s.after u)
            ∧ (u.pool.asks.find s.freshTag).map (fun a => (a.pkt.partition, Coh.ofBody a.pkt.body))
                = some (p, Coh.ofBody (Coh.body { msg := mRdCurrent, tag := s.freshTag, lmask := 2 ^ (addr / 64 % 4), saddr := addr / 64 / 4 }))))
  ∧ (∀ (e : Fin 80) (addr p : Nat) (data : List Byte) (s : State), s.engineOf e.val = some p →
      (∀ st, s.poolMay p addr data.length = some st → exec (.enginePoolWrite e addr data) s = .next (s.after (s.logPool st p addr)))
      ∧ (s.poolMay p addr data.length = none → addr % 64 = 0 → data.length = 64 → s.pool.engWrites = [] →
          (s.cached p roleENGINE 0 (addr / 64)).all (fun x => x.flight.isNone) = true → s.cacheHasRoom p →
          ∃ u : Chip, exec (.enginePoolWrite e addr data) s = .next (s.after u)
            ∧ u.cached p roleENGINE 0 (addr / 64) = some { data := data, dirty := true, wrote := s.pool.writes + 1 }
            ∧ u = { s.toChip with pool := u.pool }))
  ∧ (∀ s : State, let c := (s.expire .cleaner).getD s.toChip
      (c.powerState ≠ 0 → exec .cleanerScan s = .next (s.after (c.startTimer .cleaner (ms (c.rd A.TIR_TIER_CFG F.TIR_TIER_CFG_CLEAN_MS)))))
      ∧ ∀ r t e, c.powerState = 0 → c.homedRanges c.active = [r] → c.tieredTiles (c.rng r F.PTN_RANGE_PARTITION) = [(t, e)] →
          c.tile t = e → c.homed t = some r → e.state = .dramDirty → e.scanMark = false →
          ∃ u : Chip, exec .cleanerScan s = .next (s.after u) ∧ u.pool.tiles.find (c.tileKey r t) = some { e with scanMark := true })

/-! ### Trays and gangs -/

/-- TRAY_DATA_RECEIVE, TRAY_CPL_RECEIVE, CXL_MEM_RESPONSE and TRANSACTION_TIMEOUT (R88, R136, R348, Table 2.4): the answer to a sector read
that a RdCurrent waits for, decrypted under its key, is its requester's Data; the answer or the timeout of the write of an evicted line
ends it; an answer that names no operation changes nothing. -/
def Obligations.TrayAnswersEndTheirOperations : Prop :=
  (∀ (c : Instr) (p : Packet) (s : State), c = .trayDataReceive p ∨ c = .trayCplReceive p → s.accepts p →
      p.cls = clsTRAY_DATA ∨ p.cls = clsTRAY_CPL → (s.taken p).pool.tops.find (bits p.body 96 32) = none → exec c s = .next (s.after (s.taken p)))
  ∧ (∀ (c : Instr) (v : Chip) (data : List Byte) (tag i k j b key sec : Nat) (rec : TrayRec) (o : TierOp) (t : HTxn) (q : Packet) (s : State),
      (∃ p, c = .trayDataReceive p ∧ s.accepts p ∧ v = s.taken p ∧ p.cls = clsTRAY_DATA ∧ p.segs ≠ 0 ∧ tag = bits p.body 96 32
          ∧ bits p.body 88 8 = 0 ∧ data = p.payload.take 256)
        ∨ (∃ (n : Fin 32) (addr : Nat) (bytes : List Byte), c = .cxlMemResponse n (.mem addr bytes false) ∧ v = s.toChip
          ∧ v.pool.tops.find? (fun e => e.2.tray == n.val && e.2.lines.contains addr) = some (tag, rec) ∧ rec.lines = [addr] ∧ rec.got = []
          ∧ data = payloadOf [(addr / 64 % 4, bytes)]) →
      v.pool.tops.find tag = some rec → rec.job = .sector o.id → rec.op = 1 → rec.key = some (key, sec) → v.tierIdle rec.tray →
      v.pool.ops = [o] → o.write = none → o.who = .txn i → o.owed = 1 → o.status = .ok →
      v.pool.txns = [(i, t)] → v.pool.waits = [] → v.pool.done = [] → t.kind = .rdCurrent → t.prior = .invalid → t.members = [(k, j)] →
      t.snoops = [] → t.ends = none → t.line % 4 = j → v.bankOf t.part t.line = some b → v.pool.reqs.find k = some { pkt := q, left := [j] } →
      (Coh.ofBody q.body).msg = mRdCurrent →
      ∃ w : Chip, exec c s = .next (s.after (w.complete q { msg := mData, lmask := (Coh.ofBody q.body).lmask }
            (payloadOf [(j, ((Config.decrypt key sec data).drop (64 * j)).take 64)])))
        ∧ w.pool.ops = [] ∧ w.pool.txns = [] ∧ w.pool.tops = v.pool.tops.erase tag ∧ w = { v with pool := w.pool, timers := w.timers })
  ∧ (∀ (c : Instr) (v : Chip) (tag : Nat) (rec : TrayRec) (o : TierOp) (s : State),
      (∃ p, c = .trayCplReceive p ∧ s.accepts p ∧ v = s.taken p ∧ p.cls = clsTRAY_CPL ∧ tag = bits p.body 96 32)
        ∨ (c = .transactionTimeout (.tray tag) ∧ s.expire (.tray tag) = some v) →
      v.pool.tops.find tag = some rec → rec.job = .sector o.id → v.tierIdle rec.tray → v.homeQuiet → v.pool.ops = [o] → o.write.isSome = true →
      o.who = .evict → o.owed = 1 →
      exec c s = .next (s.after { v with pool := { v.pool with tops := v.pool.tops.erase tag, ops := [] }
                                         timers := v.timers.filter (fun e => e.1 != Timer.tray tag) }))

/-- TRAY_MSG_RECEIVE, BIND_ACK_TIMEOUT, PROFILE_TIMER_EXPIRY, PORT_ABSENCE_TIMEOUT and REPLICA_COPY_DONE (R14, R90, R93, R117, R119,
R153): the BIND_ACK of the tags sent ends the binding; another, none in time, and 2 ms of absence lose the tray, unless it is ABSENT or
LOST: it reads LOST with LOST_SEEN, and its profile stops. A malformed message leaves one record. The profile's timer takes the entry for
TIMER. The copy into a replica ends once no tile is left to copy. -/
def Obligations.SilentTraysAreLost : Prop :=
  (∀ (s : Chip) (n : Nat), n < 32 →
      (s.trayState n = trayABSENT ∨ s.trayState n = trayLOST → s.loseTray n = s)
      ∧ (s.trayState n ≠ trayABSENT → s.trayState n ≠ trayLOST → s.pool.tops = [] → s.pool.ops = [] → s.homeQuiet →
          s.homedRanges s.active = [] → s.trayOwners n = [] →
          (s.loseTray n).trayState n = trayLOST ∧ (s.loseTray n).flag (A.TIR_TRAY_STATUS n) F.TIR_TRAY_STATUS_LOST_SEEN = true
            ∧ ((s.loseTray n).tray n).running = false ∧ (s.loseTray n).running (.profile n) = false
            ∧ (s.loseTray n).running (.binding n) = false ∧ (s.loseTray n).errSeq = s.errSeq + 2))
  ∧ (∀ (n : Fin 32) (p : Packet) (s : State), s.accepts p → p.cls = clsTRAY_MSG →
      (trayMsgOk p.body = false → exec (.trayMsgReceive n p) s
        = .next (s.after ((s.taken p).log { status := .formatInvalid, subsys := .tierManager, addrKind := 4, addr := A.TIR_TRAY_STATUS n.val })))
      ∧ ∀ flash tags, trayMsgOk p.body = true → bits p.body 0 8 = 5 → ((s.taken p).tray n.val).binds = [(flash, tags)] →
          (bitAt p.body 8 = flash ∧ bits p.body 16 256 = tags →
            ∃ u : Chip, exec (.trayMsgReceive n p) s = .next (s.after u) ∧ (u.tray n.val).binds = [] ∧ u.running (.binding n.val) = false
              ∧ u = { s.taken p with pool := u.pool, timers := u.timers })
          ∧ (bitAt p.body 8 ≠ flash ∨ bits p.body 16 256 ≠ tags →
            exec (.trayMsgReceive n p) s = .next (s.after ((s.taken p).loseTray n.val))))
  ∧ (∀ (n : Fin 32) (s : State),
      (s.expire (.binding n.val) = none → exec (.bindAckTimeout n) s = .next (s.after s.toChip))
      ∧ (∀ c, s.expire (.binding n.val) = some c → exec (.bindAckTimeout n) s = .next (s.after (c.loseTray n.val)))
      ∧ (s.expire (.profile n.val) = none → exec (.profileTimerExpiry n) s = .next (s.after s.toChip))
      ∧ ∀ c a, s.expire (.profile n.val) = some c → (c.tray n.val).running = true →
          c.profileEntry (c.trayProfile n.val) (c.tray n.val).pstate pevTIMER 0 = some a → c.rd a F.TIR_PROF_ACTION = 0 →
          ∃ u : Chip, exec (.profileTimerExpiry n) s = .next (s.after u)
            ∧ u.tray n.val = { c.tray n.val with pstate := c.rd a F.TIR_PROF_NEXT } ∧ u = { c with pool := u.pool, timers := u.timers })
  ∧ (∀ (n : Fin 128) (s : State),
      (s.expire (.absence n.val) = none → exec (.portAbsenceTimeout n) s = .next (s.after s.toChip))
      ∧ ∀ c, s.expire (.absence n.val) = some c →
          (c.pool.trays.find? (fun e => e.2.port == n.val && e.2.running) = none → ∀ e, c.hostAt n.val = some e →
            exec (.portAbsenceTimeout n) s = .next (s.after (c.declareFailed e)))
          ∧ ∀ m t, c.pool.trays.find? (fun e => e.2.port == n.val && e.2.running) = some (m, t) → (c.loseTray m).hostAt n.val = none →
            exec (.portAbsenceTimeout n) s = .next (s.after (c.loseTray m)))
  ∧ (∀ (base : Nat) (s : State),
      (s.pool.replicas.find base = some [] → exec (.replicaCopyDone base) s
        = .next (s.after { s.toChip with pool := { s.pool with replicas := s.pool.replicas.erase base } }))
      ∧ (s.pool.replicas.find base ≠ some [] → exec (.replicaCopyDone base) s = .next (s.after s.toChip)))

/-- MEMRD, MEMWR, MEMWRPTL, BI_SNOOP_RESPONSE and GANG_HEARTBEAT (R121, R122, R154, R161, R334, Tables 3.11 and 4.11). A request at a gang
out of service changes nothing; one in WAKING is held. A MemRd of a line of this home that nobody holds is answered with its bytes, and
the gang becomes the owner where it asks for more than no state; a MemWr of the owner reaches memory; a MemWrPtl asks for the line with
RdOwn. The CPU's answer to a snoop goes to the home that sent it. A Heartbeat of a gang in service starts its timer again. -/
def Obligations.RequestsOfAGangReachTheHome : Prop :=
  (∀ (c : Instr) (g : Fin 32) (h : HeldCpu) (s : State), h.gang = g.val →
      (∃ tag d what dpa, c = .memRd g tag d what dpa ∧ h = { gang := g.val, tag := tag, op := b2n d, dpa := dpa, arg := what.val })
        ∨ (∃ tag dpa data, c = .memWr g tag dpa data ∧ h = { gang := g.val, tag := tag, op := 2, dpa := dpa, data := data })
        ∨ (∃ tag dpa mask data, c = .memWrPtl g tag dpa mask data
            ∧ h = { gang := g.val, tag := tag, op := 3, dpa := dpa, arg := mask, data := data }) →
      (s.inService (4 * g.val) = false → exec c s = .next (s.after s.toChip))
      ∧ (s.inService (4 * g.val) = true → s.mode (4 * g.val) = modeD → s.powerState = 3 →
          exec c s = .next (s.after { s.toChip with power := { s.power with held := s.power.held ++ [h] } })))
  ∧ (∀ (g : Fin 32) (tag dpa a b : Nat) (s : State), s.inService (4 * g.val) = true → s.mode (4 * g.val) = modeD → s.powerState = 0 →
      s.scrubbing (s.gangPart g.val) = false → s.gangAddr g.val dpa = some a → (s.homed (a / 64 / 256)).isSome = true → s.homeQuiet →
      (∀ (d : Bool) (what : Fin 3) (msg : Nat) (next : Dir) (l : CacheLine),
          (d = false ∧ what = 0 ∧ msg = mRdCurrent ∧ next = .invalid) ∨ (d = false ∧ what = 1 ∧ msg = mRdShared ∧ next = .owned (s.gangEid g.val))
            ∨ (d = false ∧ what = 2 ∧ msg = mRdOwn ∧ next = .owned (s.gangEid g.val)) ∨ (d = true ∧ msg = mRdShared ∧ next = .owned (s.gangEid g.val)) →
          let q := s.gangPacket g.val msg a []
          s.homeAdmits q (a / 64 % 4) b → s.dirOf b (q.lineOf (a / 64 % 4)) = .invalid →
          s.cached (s.gangPart g.val) roleHOME 0 (q.lineOf (a / 64 % 4)) = some l →
          ∃ w : Chip, exec (.memRd g tag d what dpa) s = .next (s.after (w.emitOut (.cxlAnswer g.val tag (some l.data))))
            ∧ w.dirOf b (q.lineOf (a / 64 % 4)) = next ∧ w.homeQuiet ∧ w = { s.toChip with pool := w.pool })
      ∧ (∀ data : List Byte, data.length = 64 →
          let q := s.gangPacket g.val mWrBack a data
          s.homeAdmits q (a / 64 % 4) b → s.dirOf b (q.lineOf (a / 64 % 4)) = .owned (s.gangEid g.val) → s.cacheHasRoom (s.gangPart g.val) →
          ∃ w : Chip, exec (.memWr g tag dpa data) s = .next (s.after (w.emitOut (.cxlAnswer g.val tag (some []))))
            ∧ w.cached (s.gangPart g.val) roleHOME 0 (q.lineOf (a / 64 % 4)) = some { data := data, dirty := true, wrote := s.pool.writes + 1 }
            ∧ w.dirOf b (q.lineOf (a / 64 % 4)) = .invalid ∧ w.homeQuiet ∧ w = { s.toChip with pool := w.pool })
      ∧ (∀ (mask : Nat) (data : List Byte), s.pool.ended = [] →
          ∃ u : Chip, exec (.memWrPtl g tag dpa mask data) s = .next (s.after u)
            ∧ (u.pool.asks.find s.freshTag).map (fun x => (x.who, x.pkt.src, Coh.ofBody x.pkt.body))
                = some (.gangMerge g.val tag (a / 64) mask data, s.gangEid g.val,
                        Coh.ofBody (Coh.body { msg := mRdOwn, tag := s.freshTag, lmask := 2 ^ (a / 64 % 4), saddr := a / 64 / 4 }))))
  ∧ (∀ (g : Fin 32) (addr : Nat) (r : BiRsp) (s : State),
      let snoop := s.pool.biSnoops.find? (fun b => b.gang == g.val && b.saddr == addr / 256 && bitAt b.lmask (addr / 64 % 4))
      (snoop = none → exec (.biSnoopResponse g addr r) s = .next (s.after s.toChip))
      ∧ ∀ b, snoop = some b → b.home ≠ s.selfEid →
          ∃ w : Chip, exec (.biSnoopResponse g addr r) s = .next (s.after (w.send
              { cls := clsCOH, tc := b.tc, partition := b.part, dst := b.home, src := s.gangEid g.val
                body := Coh.body { msg := biRspMsg b.kind r, txn := b.txn, saddr := b.saddr, lmask := b.lmask } }))
            ∧ w = { s.toChip with pool := { s.pool with biSnoops := s.pool.biSnoops.filter (fun x => x != b) } })
  ∧ (∀ (g : Fin 32) (s : State),
      (s.inService (4 * g.val) = false → exec (.gangHeartbeat g) s = .next (s.after s.toChip))
      ∧ (s.inService (4 * g.val) = true → s.cachingHost (s.gangPart g.val) (s.gangEid g.val) = true → s.hostFailed (s.gangEid g.val) = false →
          exec (.gangHeartbeat g) s
            = .next (s.after (s.startTimer (.heartbeat (s.gangEid g.val)) (ms (s.rd A.HOM_CTL F.HOM_CTL_HB_MS))))))

/-- IDENTIFY_MEMORY_DEVICE, GET_SUPPORTED_LOGS, GET_LOG, GET_HEALTH_INFO, GET_EVENT_RECORDS, CLEAR_EVENT_RECORDS and
UNSUPPORTED_MAILBOX_COMMAND (R121, R123, R124): the mailbox of a mode D gang answers each command, and nothing else changes but the event
records that are cleared; the payloads that no rule lays out are free values, the code of Unsupported is the model's (log entry 53). Where
the gang is not of mode D nothing is answered. -/
def Obligations.GangMailboxAnswers : Prop :=
  ∀ (g : Fin 32) (s : State),
    (∀ (c : Instr) (code : Nat) (data : List Byte),
        (c = .identifyMemoryDevice g ∧ code = 0 ∧ data = bytesOfNat 8 (s.gangCapacity g.val / 2 ^ 28))
          ∨ (c = .getEventRecords g ∧ code = 0 ∧ data = (s.gangEvents g.val).flatMap MediaEvent.bytes)
          ∨ (c = .unsupportedMailboxCommand g ∧ code = mailboxUnsupported ∧ data = []) →
        (s.mode (4 * g.val) = modeD → exec c s = .next { s with out := .mailboxD g.val code data :: s.out })
        ∧ (s.mode (4 * g.val) ≠ modeD → exec c s = .next s))
    ∧ (∀ (c : Instr) (k : Nat), (c = .getSupportedLogs g ∧ k = 0) ∨ (c = .getLog g ∧ k = 1) ∨ (c = .getHealthInfo g ∧ k = 2) →
        (s.mode (4 * g.val) = modeD →
          exec c s = .next { s with free := s.free + 1, out := .mailboxD g.val 0 (Config.cxlMailbox g.val k s.free) :: s.out })
        ∧ (s.mode (4 * g.val) ≠ modeD → exec c s = .next { s with free := s.free + 1 }))
    ∧ (∀ handles : List Nat, s.mode (4 * g.val) = modeD →
        ∃ t : State, exec (.clearEventRecords g handles) s = .next t
          ∧ t.gangEvents g.val = (s.gangEvents g.val).filter (fun e => !handles.contains e.handle)
          ∧ t = { s with pool := { s.pool with media := t.pool.media }, out := .mailboxD g.val 0 [] :: s.out })

/-! ### Queues and commands -/

/-- Every command packet (R271, R274, R276, R427) is the next command of the queue it names, or of Newt's path, with its packet as it was
sent; while its partition is scrubbed it is answered PARTITION_SCRUBBING with one record instead. It holds of 47 rows: NOP, BARRIER,
EPOCH_INSTALL, CANCEL, JOB_SUSPEND, JOB_RESUME, COPY, FILL, FLUSH_RANGE, TIER_HINT, PREFETCH, COUNTER_SET, COUNTER_ADD, WAIT, WAIT_COPY,
REDUCE, ALLREDUCE, REDUCE_SCATTER, ALLGATHER, BROADCAST, SMAX_MERGE, TOPK, SAMPLE, GATHER, SCATTER, FILTER_SCAN, KERNEL_LAUNCH, ATTEND,
PROJECT, ENCODE, CODEBOOK_BUILD, CODEBOOK_RETIRE, VERSION_OPEN, VERSION_CLOSE, VERSION_PUBLISH, OWN_CLAIM, OWN_RELEASE, LOST_ACK,
PARTITION_CREATE, PARTITION_RESERVE, PARTITION_SEAL, PARTITION_DRAIN, PARTITION_SCRUB, PARTITION_RELEASE, KEY_ROTATE, TRAY_FORMAT and
TRAY_DETACH. What the command then does is the subject of the statements after this one. -/
def Obligations.CommandPacketsEnterTheirQueue : Prop :=
  ∀ (c : Instr) (h : CmdHead) (w : Nat) (s : State), c.slot = some (h, w) → s.takesSlot h w →
    (s.scrubbing (h.queue.val / 16) = false → exec c s = .next (s.after (s.entered h w)))
    ∧ (s.scrubbing (h.queue.val / 16) = true →
        exec c s = .next (s.after ((s.logCmd (s.cmdOf h w) .partitionScrubbing 0 0 0).reply h.origin (h.queue.val / 16)
          { tag := slotTag w, status := Status.partitionScrubbing.code, queue := h.lane, result := 0, notify := slotNotify w })))

/-- A packet gives back the command it was built from, with every operand at every value its fields admit: no field of a packet of
Tables 8.1 to 8.9 shares a bit with another. -/
def Obligations.CommandPacketRoundTrip : Prop :=
  ∀ (c : Instr) (h : CmdHead) (w : Nat), c.wellFormed = true → c.slot = some (h, w) → decodeSlot h.from_ w = some c

/-- NOP, BARRIER, CANCEL, JOB_SUSPEND and JOB_RESUME (R280 to R283, R296), and every command that a check of R280 ends: with nothing else
under way it ends in the step that brings it. NOP and BARRIER answer OK with RESULT 0; CANCEL of a TAG that no other command of the queue
carries changes nothing and answers 0; the command that CANCEL finds not started is answered TIMEOUT, with a record, and CANCEL answers 1;
the two job commands set or clear SUSPENDED of the queues of the job alone and answer their number. A ring's reply is written to its
completion ring with its PHASE, and none under QUIET where the status is OK. -/
def Obligations.ImmediateCommandsEndAtOnce : Prop :=
  (∀ (c : Instr) (h : CmdHead) (w : Nat) (s : State), c.slot = some (h, w) → s.takesSlot h w → s.still →
      s.scrubbing (h.queue.val / 16) = false → s.isHeldBack h.lane = false →
      (h.from_ = .newt ∨ s.rd (A.SEQ_Q_SCHED h.queue.val) F.SEQ_Q_SCHED_MAX_ACTIVE ≠ 0) →
      (((s.entered h w).startCheck (s.cmdOf h w)).isSome = true ∨ slotOp w ∈ [oNOP, oBARRIER, oCANCEL, oJOB_SUSPEND, oJOB_RESUME]) →
      ∃ t : State, exec c s = .next t ∧ t.seq.cmds = [] ∧ t.pool = s.pool ∧ t.out = ((s.entered h w).startCmd (s.cmdOf h w)).out
        ∧ (h.from_ ≠ .newt → t.seq = ((s.entered h w).startCmd (s.cmdOf h w)).seq))
  ∧ (∀ (s : Chip) (m : Cmd), s.startCheck m = none →
      (slotOp m.slot = oNOP ∨ slotOp m.slot = oBARRIER → s.startCmd m = s.completeCmd m .ok 0)
      ∧ (slotOp m.slot = oCANCEL →
          ((∀ x ∈ s.seq.cmds, x.id = m.id ∨ x.queue ≠ prm m.slot 8 10 ∨ slotTag x.slot ≠ prm m.slot 12 32) → s.startCmd m = s.completeCmd m .ok 0)
          ∧ ∀ (x : Cmd) (l l' : List Cmd), s.seq.cmds = l ++ x :: l' → x.id ≠ m.id → x.queue = prm m.slot 8 10 →
              slotTag x.slot = prm m.slot 12 32 → x.phase = .fetched → x.ending = none → x.wait = none →
              (∀ y ∈ l, y.queue ≠ x.queue ∨ slotTag y.slot ≠ slotTag x.slot) →
              s.startCmd m = (s.endCmd x .timeout 0 0).completeCmd m .ok 1)
      ∧ (slotOp m.slot = oJOB_SUSPEND ∨ slotOp m.slot = oJOB_RESUME →
          ∃ u : Chip, s.startCmd m = u.completeCmd m .ok (s.jobQueues m.part (prm m.slot 8 16)).length ∧ u = { s with regs := u.regs }
            ∧ (∀ q ∈ s.jobQueues m.part (prm m.slot 8 16),
                u.flag (A.SEQ_Q_STATE q) F.SEQ_Q_STATE_SUSPENDED = (slotOp m.slot == oJOB_SUSPEND))
            ∧ ∀ (a : Nat) (f : Fld), (∀ q ∈ s.jobQueues m.part (prm m.slot 8 16), apart (A.SEQ_Q_STATE q) F.SEQ_Q_STATE_SUSPENDED a f) →
                u.rd a f = s.rd a f))
  ∧ (∀ (s : Chip) (m : Cmd) (st : Status) (res : Nat), m.origin = .ring → m.pins = [] →
      let u := s.completeCmd m st res
      u.seq.cmds = s.seq.cmds.filter (fun x => x.id != m.id) ∧ u.regs = s.regs ∧ u.pool = s.pool
        ∧ (slotQuiet m.slot = true → st = .ok → u.out = s.out)
        ∧ (slotQuiet m.slot = false ∨ st ≠ .ok → s.seq.hostUp = true → (s.queue m.queue).replies = [] →
            (s.queue m.queue).cqTail - (s.queue m.queue).cqHead < s.cqEntries m.queue →
            let x := s.queue m.queue
            let r : Reply := { tag := slotTag m.slot, status := st.code, queue := m.queue, result := res, notify := slotNotify m.slot }
            u.out = (if slotNotify m.slot then [.msix (s.qOwner m.queue) (s.rd (A.SEQ_Q_RING m.queue) F.SEQ_Q_RING_VECTOR)] else [])
                ++ .hostWrite (4096 * s.rd (A.SEQ_Q_CQ_BASE m.queue) F.SEQ_Q_CQ_BASE_ADDR + 16 * (x.cqTail % s.cqEntries m.queue))
                (bytesOfNat 16 (r.word (1 - x.cqTail / s.cqEntries m.queue % 2))) :: s.out
              ∧ u.queue m.queue = { x with cqTail := x.cqTail + 1 }))

/-- SQ_TAIL, CQ_HEAD, SQ_FETCH_COMPLETE and CMD_PACKET (R273 to R277). A doorbell of a function that is not the queue's source, or of a
queue that is not enabled, is discarded and counted, with one record (ACCESS_DENIED); an index beyond the ring halts the queue
(FORMAT_INVALID). SQ_TAIL asks for the slots from SQ_HEAD to the tail, in two reads where the ring wraps, and in Eaves is latched. CQ_HEAD
frees the slots up to it. Slots that arrive move SQ_HEAD on and enter their queue. A fabric slot with opcode NOP is skipped; one for
another queue than a FABRIC queue of the sender's partition gets ACCESS_DENIED, one beyond 256 waiting gets BUSY. -/
def Obligations.QueuesTakeTheirSlots : Prop :=
  (∀ (c : Instr) (src : Source) (q : Fin 1024) (v off : Nat) (s : State),
      (c = .sqTail src q 4 v ∧ off = 0) ∨ (c = .cqHead src q 4 v ∧ off = 8) → src.hasPage q.val = true →
      s.ready = true → (∀ p, src.part = some p → s.pstate p ≠ psFREE) → s.powerState = 0 →
      (s.qFunction q.val ≠ some src ∨ s.qEnabled q.val = false →
        exec c s = .next (s.after ((s.count A.SEQ_STATUS F.SEQ_STATUS_DOORBELL_ERRORS).log
          { status := .accessDenied, subsys := .sequencer, partition := some (q.val / 16), queue := some q.val, addrKind := 9
            addr := 4096 * q.val + off })))
      ∧ (s.qFunction q.val = some src → s.qEnabled q.val = true → s.qFlag q.val F.SEQ_Q_STATE_HALTED = false →
          (off = 0 ∧ s.sqEntries q.val ≤ v % 65536) ∨ (off = 8 ∧ s.cqEntries q.val ≤ v % 65536) →
          exec c s = .next (s.after (((s.count A.SEQ_STATUS F.SEQ_STATUS_DOORBELL_ERRORS).log
            { status := .formatInvalid, subsys := .sequencer, partition := some (q.val / 16), queue := some q.val, addrKind := 9
              addr := 4096 * q.val + off }).wrB (A.SEQ_Q_STATE q.val) F.SEQ_Q_STATE_HALTED true))))
  ∧ (∀ (src : Source) (q : Fin 1024) (v : Nat) (s : State), src.hasPage q.val = true → s.ready = true →
      (∀ p, src.part = some p → s.pstate p ≠ psFREE) → s.qFunction q.val = some src → s.qEnabled q.val = true →
      s.qFlag q.val F.SEQ_Q_STATE_HALTED = false →
      let x := s.queue q.val
      (v % 65536 < s.sqEntries q.val → s.powerState ≠ 0 → s.flag A.PCE_PWR_CTL F.PCE_PWR_CTL_WAKE_DOORBELL = false →
        exec (.sqTail src q 4 v) s = .next (s.after (s.modQueue q.val (fun x => { x with latched := some (v % 65536) }))))
      ∧ (s.powerState = 0 → s.seq.hostUp = true → x.disabling = false → x.replies.length < 256 →
          let n := s.sqEntries q.val
          let head := (s.rd (A.SEQ_Q_STATE q.val) F.SEQ_Q_STATE_SQ_HEAD + x.fetching) % n
          v % 65536 < n → v % 65536 ≠ head →
          ∃ u : Chip, exec (.sqTail src q 4 v) s = .next (s.after u) ∧ (u.queue q.val).tail = v % 65536
            ∧ u = { s.toChip with seq := u.seq, out := u.out } ∧ u.seq.cmds = s.seq.cmds
            ∧ (head < v % 65536 → u.out = .hostRead q.val head (v % 65536 - head) :: s.out
                ∧ (u.queue q.val).fetching = x.fetching + (v % 65536 - head))
            ∧ (v % 65536 < head → (u.queue q.val).fetching = x.fetching + (v % 65536 + n - head)
                ∧ u.out = (if v % 65536 = 0 then [.hostRead q.val head (n - head)]
                    else [.hostRead q.val 0 (v % 65536), .hostRead q.val head (n - head)]) ++ s.out))
      ∧ (s.powerState = 0 → x.replies = [] → x.fetching = 0 → x.cqHead ≤ x.cqTail → x.cqTail - x.cqHead < s.cqEntries q.val → v % 65536 < s.cqEntries q.val →
          (v % 65536 + s.cqEntries q.val - x.cqHead % s.cqEntries q.val) % s.cqEntries q.val ≤ x.cqTail - x.cqHead →
          x.tail = s.rd (A.SEQ_Q_STATE q.val) F.SEQ_Q_STATE_SQ_HEAD % s.sqEntries q.val → x.tail < s.sqEntries q.val →
          ∃ u : Chip, exec (.cqHead src q 4 v) s = .next (s.after u)
            ∧ u.queue q.val = { x with cqHead := x.cqHead + (v % 65536 + s.cqEntries q.val - x.cqHead % s.cqEntries q.val) % s.cqEntries q.val }
            ∧ u = { s.toChip with seq := u.seq } ∧ u.seq.cmds = s.seq.cmds))
  ∧ (∀ (q : Fin 1024) (w : Nat) (s : State), s.scrubbing (q.val / 16) = false →
      ((s.queue q.val).fetching = 0 → exec (.sqFetchComplete q [w]) s = .next (s.after (s.modQueue q.val id)))
      ∧ ((s.queue q.val).fetching ≠ 0 →
          ∃ u : Chip, exec (.sqFetchComplete q [w]) s = .next (s.after u)
            ∧ u.seq.cmds = s.seq.cmds ++ [{ id := s.seq.nextCmd, queue := q.val, part := q.val / 16, origin := .ring, slot := w, cur := w }]
            ∧ u.queue q.val = { s.queue q.val with fetching := (s.queue q.val).fetching - 1 }
            ∧ u.rd (A.SEQ_Q_STATE q.val) F.SEQ_Q_STATE_SQ_HEAD
                = (s.rd (A.SEQ_Q_STATE q.val) F.SEQ_Q_STATE_SQ_HEAD + 1) % s.sqEntries q.val % 65536
            ∧ u = { s.toChip with seq := u.seq, regs := u.regs }))
  ∧ (∀ (p : Packet) (s : State), s.accepts p → p.segs ≠ 0 →
      let r := (s.taken p).cmdPacket p
      (r.2 = true → exec (.cmdPacket p) s = .next (s.after (r.1.flowApplied p)))
      ∧ (r.2 = false → p.fence = false → exec (.cmdPacket p) s = .next (s.after r.1)))
  ∧ (∀ (s : Chip) (e p w : Nat), s.powerState = 0 →
      (slotOp w = oNOP → s.cmdSlot e p w = (s, false))
      ∧ (slotOp w ≠ oNOP →
          (s.hostPart e ≠ some (slotQueue w / 16) ∨ s.qSource (slotQueue w) ≠ 3 →
            s.cmdSlot e p w = (s.refuseFabric e p (slotQueue w) w .accessDenied, false))
          ∧ (s.hostPart e = some (slotQueue w / 16) → s.qSource (slotQueue w) = 3 → s.qEnabled (slotQueue w) = true →
              (s.queue (slotQueue w)).disabling = false →
              256 ≤ (s.seq.cmds.filter (fun m => m.queue == slotQueue w && m.phase == .fetched)).length →
              s.cmdSlot e p w = ((s.count A.SEQ_STATUS F.SEQ_STATUS_FABRIC_BUSY).refuseFabric e p (slotQueue w) w .busy, false))))

/-! ### Counters, waits, memory, versions and ownership -/

/-- COUNTER_SET (R181): it sets VALUE, MODE and OWNER_JOB and records scope NONE, and changes nothing else; from a queue of another job than
a non-zero OWNER_JOB, and not from the physical function, it ends with OWNER_MISMATCH and changes nothing. -/
def Obligations.CounterSetWritesOneCounter : Prop :=
  ∀ (s : Chip) (m : Cmd), slotOp m.cur = oCOUNTER_SET →
    let c := crefIndex (prm m.cur 8 32)
    let owner := s.counter c F.SEQ_COUNTER_OWNER_JOB
    let job := if m.queue < 1024 then s.rd (A.SEQ_Q_CFG m.queue) F.SEQ_Q_CFG_JOB else 0
    s.counterOk c = true →
    (owner ≠ 0 ∧ job ≠ owner ∧ s.fromPf m = false → s.runSequencer m = s.endPacket m.id .ownerMismatch 0)
    ∧ (owner = 0 ∨ job = owner ∨ s.fromPf m = true →
        ∃ u : Chip, s.runSequencer m = u.endPacket m.id .ok 0 ∧ u.counterOk c = true
          ∧ u.counterValue c = prm m.cur 16 48 ∧ u.counter c F.SEQ_COUNTER_MODE = prm m.cur 12 1
          ∧ u.counter c F.SEQ_COUNTER_OWNER_JOB = prm m.cur 22 16 ∧ u.counter c F.SEQ_COUNTER_SCOPE = 0
          ∧ u = { s with regs := u.regs, seq := { s.seq with cmds := u.seq.cmds } }
          ∧ ∀ (a : Nat) (f : Fld), 8 * a + f.lo + f.width ≤ 8 * A.SEQ_COUNTER c ∨ 8 * A.SEQ_COUNTER c + 256 ≤ 8 * a + f.lo →
              u.rd a f = s.rd a f)

/-- COUNTER_ADD and COUNTER_TADPOLE (R177, R179, R180, R347): on this E9 the add moves VALUE on modulo 2^48, records its scope and answers the
new VALUE; an add of zero changes nothing; a corrupt entry ends it with TABLE_CHECK, with one record; a DOMAIN add that waits on a write
that failed is not applied and ends with that write's status. A COUNTER tadpole does the same and is answered with STATUS; one of another
partition's counter, of CELL scope or malformed changes no counter. -/
def Obligations.CounterAddsAreReleaseAdds : Prop :=
  (∀ (s : Chip) (m : Cmd), slotOp m.cur = oCOUNTER_ADD → m.stage ≠ 9 → crefEid (prm m.cur 8 32) = s.selfEid →
      let c := crefIndex (prm m.cur 8 32)
      let n := prm m.cur 16 48
      let scope := prm m.cur 12 8
      (scope ≠ 3 ∨ n = 0 ∨ (m.stage = 1 ∧ ∀ w ∈ m.waits, w.2 = some .ok) →
        (s.counterOk c = false → ∃ x : Cmd, s.runSequencer m = s.failCmd x .tableCheck 4 (A.SEQ_COUNTER c) 0 ∧ x.id = m.id)
        ∧ (s.counterOk c = true → n = 0 → s.runSequencer m = s.endPacket m.id .ok (s.counterValue c))
        ∧ (s.counterOk c = true → n ≠ 0 → scope ≤ 3 →
            ∃ u : Chip, s.runSequencer m = u.endPacket m.id .ok ((s.counterValue c + n) % 2 ^ 48) ∧ u.counterOk c = true
              ∧ u.counterValue c = (s.counterValue c + n) % 2 ^ 48 ∧ u.counter c F.SEQ_COUNTER_SCOPE = scope
              ∧ u.counter c F.SEQ_COUNTER_MODE = s.counter c F.SEQ_COUNTER_MODE
              ∧ u.counter c F.SEQ_COUNTER_OWNER_JOB = s.counter c F.SEQ_COUNTER_OWNER_JOB
              ∧ u = { s with regs := u.regs, seq := { s.seq with cmds := u.seq.cmds } }
              ∧ ∀ (a : Nat) (f : Fld), 8 * a + f.lo + f.width ≤ 8 * A.SEQ_COUNTER c ∨ 8 * A.SEQ_COUNTER c + 256 ≤ 8 * a + f.lo →
                  u.rd a f = s.rd a f))
      ∧ (scope = 3 → n ≠ 0 → m.stage ≠ 0 → ∀ (k : Nat) (st : Status), m.waits = [(k, some st)] → st ≠ .ok →
          s.runSequencer m = s.endPacket m.id st 0))
  ∧ (∀ (p : Packet) (s : State), s.accepts p →
      let v := s.taken p
      let b := CounterBody.ofBody p.body
      let no (st : Status) : Chip := let l := v.logArrival p st (some b.counter); (l.send (l.statusAnswer p st 0)).flowApplied p
      (bits p.body 96 288 ≠ 0 ∨ b.scope < 2 → exec (.counterTadpole p) s = .next (s.after (no .formatInvalid)))
      ∧ (bits p.body 96 288 = 0 → 2 ≤ b.scope →
          (v.counterIs b.counter p.partition = false →
            exec (.counterTadpole p) s = .next (s.after (no .accessDenied)))
          ∧ (v.counterIs b.counter p.partition = true →
              (b.operand = 0 → exec (.counterTadpole p) s = .next (s.after ((v.send (v.statusAnswer p .ok 0)).flowApplied p)))
              ∧ (b.operand ≠ 0 → v.counterOk b.counter = true →
                  ∃ u : Chip, exec (.counterTadpole p) s = .next (s.after ((u.send (u.statusAnswer p .ok 0)).flowApplied p))
                    ∧ u.counterValue b.counter = (v.counterValue b.counter + b.operand) % 2 ^ 48
                    ∧ u.counter b.counter F.SEQ_COUNTER_SCOPE = b.scope
                    ∧ u = { v with regs := u.regs, seq := { v.seq with cmds := u.seq.cmds } }))))

/-- WAIT, WAIT_COPY, WAIT_DEADLINE and WAIT_COMPLETE (R182, R184): a WAIT whose condition (VALUE − T) mod 2^48 < 2^47 holds when it begins has
its status fixed at once, OK where its scope is no wider than the one recorded, else SCOPE_MISMATCH; otherwise it stays open, with a timer
where it has a deadline, and the deadline fixes TIMEOUT unless a status is fixed. A WAIT whose status is fixed completes with it and VALUE;
a WAIT_COPY goes on to its copy where it is OK. Nothing happens where no such WAIT is there. -/
def Obligations.WaitsFixTheirStatus : Prop :=
  (∀ (s : Chip) (m : Cmd), slotOp m.cur = oWAIT ∨ slotOp m.cur = oWAIT_COPY → m.stage = 0 →
      s.seq.cmds = [m] →
      let c := crefIndex (prm m.cur 8 32)
      let scope := prm m.cur 12 8
      let t := prm m.cur 14 48
      let us_ := prm m.cur 20 32
      let run := if slotOp m.cur = oWAIT then s.runSequencer m else s.runEngine m
      s.counterIs c m.part = true → s.counterOk c = true →
      ∃ u : Chip, run = u ∧ u = { s with seq := u.seq, timers := u.timers } ∧ u.due (.waitDeadline m.id)
            = (if us_ = 0 then s.due (.waitDeadline m.id) else some (s.raw + us us_))
        ∧ u.seq = { s.seq with cmds := [{ m with stage := 5, wait := some ⟨c, scope, t,
              if waitHolds (s.counterValue c) t then
                some (if scope ≤ s.counter c F.SEQ_COUNTER_SCOPE then .ok else .scopeMismatch, s.counterValue c) else none⟩ }] })
  ∧ (∀ (q : Fin 1025) (tag : Nat) (s : State),
      ((∀ m ∈ s.seq.cmds, m.queue ≠ q.val ∨ (slotTag m.slot ≠ tag ∧ slotTag m.cur ≠ tag)) →
        exec (.waitDeadline q tag) s = .next (s.after s.toChip) ∧ exec (.waitComplete q tag) s = .next (s.after s.toChip))
      ∧ ∀ (m : Cmd) (w : WaitRec), s.seq.cmds = [m] → m.queue = q.val → slotTag m.cur = tag → m.wait = some w → m.stage = 5 →
          (∀ c, w.fixed = none → s.expire (.waitDeadline m.id) = some c →
            exec (.waitDeadline q tag) s = .next (s.after { c with
              seq := { c.seq with cmds := [{ m with wait := some { w with fixed := some (.timeout, c.counterValue w.counter) } }] } }))
          ∧ (w.fixed = none → exec (.waitComplete q tag) s = .next (s.after s.toChip))
          ∧ ∀ st v, w.fixed = some (st, v) →
              let x : Cmd := { m with wait := none, stage := if slotOp m.cur = oWAIT_COPY then 1 else 5 }
              let u : Chip := { s.stopTimer (.waitDeadline m.id) with seq := { s.seq with cmds := [x] } }
              (slotOp m.cur = oWAIT_COPY → st = .ok → exec (.waitComplete q tag) s = .next (s.after u))
              ∧ (slotOp m.cur = oWAIT → st = .ok → exec (.waitComplete q tag) s = .next (s.after (u.endPacket m.id .ok v)))
              ∧ (st ≠ .ok → exec (.waitComplete q tag) s
                  = .next (s.after (u.failCmd x st 4 (A.SEQ_COUNTER (crefIndex (prm m.cur 8 32)))
                      (if slotOp m.cur = oWAIT_COPY then 0 else v)))))

/-- COPY, FILL, WAIT_COPY, WRITE_PACKET and STATUS_TADPOLE (R165 to R168, R178, R184, R346, R347): the bytes written are the source's, the
pattern's or the packet's, every other byte of STG and SCR stays as it was, the memories keep their canonical form, and the counter that is
named moves on by the bytes or by one at DEVICE scope; the packet is answered where it asks for it, and a refused one writes nothing. A
STATUS answer to a write of this E9 ends what waited for it. -/
def Obligations.WritesReachTheirBytes : Prop :=
  (∀ (s : Chip) (m : Cmd) (dst : Locator) (data : List Byte), m.stage ≠ 9 →
      (slotOp m.cur = oFILL ∧ dst = Locator.of (prm m.cur 8 128)
          ∧ data = (upFrom 0 (prm m.cur 24 64)).map (fun i => (bytesOfNat 8 (prm m.cur 32 64)).getD (i % 8) 0))
        ∨ (slotOp m.cur = oCOPY ∧ dst = Locator.of (prm m.cur 24 128)
          ∧ s.readAt m (s.destOf (Locator.of (prm m.cur 8 128))) (prm m.cur 40 64) = .ok data)
        ∨ (slotOp m.cur = oWAIT_COPY ∧ m.stage ≠ 0 ∧ m.stage ≠ 5 ∧ prm m.cur 56 64 ≠ 0 ∧ dst = Locator.of (prm m.cur 40 128)
          ∧ s.readAt m (s.destOf (Locator.of (prm m.cur 24 128))) (prm m.cur 56 64) = .ok data) →
      (dst.countEn = true → s.counterIs dst.counter m.part = true ∧ s.counterOk dst.counter = true) →
      (∀ key : Nat → Nat, ∀ inScr : Bool,
          (inScr = false ∧ s.destOf dst = .stg dst.addr ∧ s.stgHas m.part dst.addr data.length = true ∧ key = stgKey (s.hbmOf m.part))
            ∨ (inScr = true ∧ s.destOf dst = .scr dst.engine dst.addr ∧ dst.addr + data.length ≤ scrSize dst.engine ∧ key = scrKey dst.engine) →
          ∃ u : Chip, s.runEngine m = u.issued m .ok data.length ∧ u = { s with regs := u.regs, seq := u.seq }
            ∧ u.seq = { s.seq with stg := u.seq.stg, scr := u.seq.scr, cmds := u.seq.cmds }
            ∧ (Memory.wf s.seq.stg = true → Memory.wf u.seq.stg = true) ∧ (Memory.wf s.seq.scr = true → Memory.wf u.seq.scr = true)
            ∧ (if inScr then u.seq.stg = s.seq.stg else u.seq.scr = s.seq.scr)
            ∧ (let old := if inScr then s.seq.scr else s.seq.stg
               let new := if inScr then u.seq.scr else u.seq.stg
               (∀ i b, data[i]? = some b → new.byte (key (dst.addr + i)) = b)
                 ∧ ∀ k, (∀ i, i < data.length → k ≠ key (dst.addr + i)) → new.byte k = old.byte k)
            ∧ (dst.countEn = false → u.regs = s.regs ∧ u.seq.cmds = s.seq.cmds)
            ∧ (dst.countEn = true → u.counter dst.counter F.SEQ_COUNTER_SCOPE = 2
                ∧ u.counterValue dst.counter = (s.counterValue dst.counter
                    + (if s.counter dst.counter F.SEQ_COUNTER_MODE = 0 then data.length else 1)) % 2 ^ 48)))
  ∧ (∀ (p : Packet) (s : State), s.accepts p → p.segs ≠ 0 →
      let v := s.taken p
      let w := WriteExt.ofBody p.body
      (∀ st, v.writeCheck p = some st → p.fence = false →
        exec (.writePacket p) s = .next (s.after
          ((v.logArrival p st (if w.countEn then some w.counter else none)).send (v.statusAnswer p st p.address.2))))
      ∧ (v.writeCheck p = none → w.space = 1 →
          ∃ u : Chip, exec (.writePacket p) s = .next (s.after ((if w.ack then u.send (u.statusAnswer p .ok 0) else u).flowApplied p))
            ∧ u = { v with regs := u.regs, seq := { v.seq with stg := u.seq.stg, cmds := u.seq.cmds } } 
            ∧ (Memory.wf v.seq.stg = true → Memory.wf u.seq.stg = true)
            ∧ (∀ i b, i < w.length → p.payload[i]? = some b → u.seq.stg.byte (stgKey (v.hbmOf p.partition) (w.addr + i)) = b)
            ∧ (∀ k, (∀ i, i < w.length → k ≠ stgKey (v.hbmOf p.partition) (w.addr + i)) → u.seq.stg.byte k = v.seq.stg.byte k)
            ∧ (w.countEn = true → u.counter w.counter F.SEQ_COUNTER_SCOPE = 2 ∧ u.counterValue w.counter = (v.counterValue w.counter
                + (if v.counter w.counter F.SEQ_COUNTER_MODE = 0 then w.length else 1)) % 2 ^ 48)))
  ∧ (∀ (p : Packet) (s : State),
      (statusReservedZero p.body = false → exec (.statusTadpole p) s = .next (s.after s.toChip))
      ∧ let v := s.taken p
        let b := StatusBody.ofBody p.body
        (statusReservedZero p.body = true → b.origFence = false → s.sourceOf p.dst = localPort → s.accepts p → v.isShadow = false →
          b.origClass = clsWRITE ∨ b.origClass = clsCOUNTER → ∀ o : OutWrite, v.seq.outs = [o] → o.pool = false → o.tag = b.tag →
          (v.cmd? o.cmd).isSome = true →
          ∃ u : Chip, exec (.statusTadpole p) s = .next (s.after (u.flowApplied p)) ∧ u = { v with seq := { v.seq with outs := [], cmds := u.seq.cmds } }
            ∧ u.seq.cmds = v.seq.cmds.map (fun m => { m with waits := m.waits.map (fun w =>
                if w.1 = 2 * o.tag then (w.1, some ((Status.ofCode b.status).getD .formatInvalid)) else w) })))

/-- OWN_CLAIM, OWN_RELEASE and HANDOFF_EXPIRY (R193, R194, Table 5.8): every row of the table, with STATE and OWNER before the command in
the RESULT; HANDOFF has its deadline at the time base plus the handoff timer of GLB_TIMERS0, and its expiry makes the record an ORPHAN,
with one event. -/
def Obligations.OwnershipTransitions : Prop :=
  let owned (s : Chip) (i st o n : Nat) : Prop := s.rd (A.HOM_OWN i) F.HOM_OWN_STATE = st ∧ s.rd (A.HOM_OWN i) F.HOM_OWN_OWNER = o
    ∧ s.rd (A.HOM_OWN i) F.HOM_OWN_NEXT = n ∧ s.flag (A.HOM_OWN i) F.HOM_OWN_VALID = true
  (∀ (s : Chip) (p line expected new : Nat), line < 2 ^ 50 → new < 2 ^ 32 → p < 64 →
      (s.record line = none →
        (expected ≠ 0 → s.ownClaim p line expected new = (s, .ownerMismatch, 0)) ∧ s.ownRelease p line expected new = (s, .ownerMismatch, 0)
        ∧ (expected = 0 → s.freeRecord = none → s.ownClaim p line expected new = (s, .busy, 0))
        ∧ ∀ i, expected = 0 → s.freeRecord = some i →
            ∃ u, s.ownClaim p line expected new = (u, .ok, 0) ∧ owned u i 0 new 0 ∧ u.rd (A.HOM_OWN i) F.HOM_OWN_ADDR = line
              ∧ u = { s with regs := u.regs })
      ∧ ∀ i st o n, s.record line = some i → owned s i st o n →
          let res := st + o <<< 32
          let yes := (st = 0 ∧ expected = o) ∨ (st = 1 ∧ expected = o ∧ new = n) ∨ (st = 2 ∧ expected = 0)
          (yes → ∃ u, s.ownClaim p line expected new = (u, .ok, res) ∧ owned u i 0 new 0 ∧ u.running (.handoff i) = false
              ∧ u = { s with regs := u.regs, timers := u.timers })
          ∧ (¬ yes → st ≤ 2 → s.ownClaim p line expected new = (s, .ownerMismatch, res))
          ∧ (st = 2 ∨ expected ≠ o → s.ownRelease p line expected new = (s, .ownerMismatch, res))
          ∧ (st < 2 → expected = o → new = 0 →
              ∃ u, s.ownRelease p line expected new = (u, .ok, res) ∧ u.flag (A.HOM_OWN i) F.HOM_OWN_VALID = false
                ∧ u.running (.handoff i) = false ∧ u = { s with regs := u.regs, timers := u.timers })
          ∧ (st < 2 → expected = o → new ≠ 0 →
              let hold := ms (s.rd A.GLB_TIMERS0 F.GLB_TIMERS0_HANDOFF_MS)
              ∃ u, s.ownRelease p line expected new = (u, .ok, res) ∧ owned u i 1 o new
                ∧ u.rd (A.HOM_OWN i) F.HOM_OWN_DEADLINE = (s.tb + hold) % 2 ^ 64 ∧ u.due (.handoff i) = some (s.raw + hold)
                ∧ u = { s with regs := u.regs, timers := u.timers }))
  ∧ (∀ (i : Nat) (s : State),
      (s.powerState ≠ 0 ∨ s.expire (.handoff i) = none → exec (.handoffExpiry i) s = .next (s.after s.toChip))
      ∧ ∀ c o n, s.powerState = 0 → s.expire (.handoff i) = some c → owned c i 1 o n →
          ∃ u : Chip, exec (.handoffExpiry i) s = .next (s.after (u.newtEvent 0x2B (o <<< 8) 1 (64 * c.rd (A.HOM_OWN i) F.HOM_OWN_ADDR)))
            ∧ owned u i 2 o 0 ∧ u = { c with regs := u.regs })

/-- VERSION_OPEN, VERSION_CLOSE, VERSION_PUBLISH and LOST_ACK at the home, and FLUSH_RANGE, TIER_HINT and PREFETCH (R109, R113, R159, R187,
R190, R191, R284): READ gives a view on CURRENT; PUBLISH by the holder of the write view of WORKING makes it CURRENT where CURRENT is the
base, else VERSION_CONFLICT, and the view ends either way; from another it is denied; CLOSE ends the view. LOST_ACK clears the entries inside
its span and no other, with ALL every entry of the partition and its wide bit. A flush without a line to write back, and a hint or a
prefetch in a range that is not TIERED or has no tile in flash, end at once; a hint marks the tiles of the span alone. VREGION_VALID_WRITE
(R186): VALID newly 1 over a region wholly inside one pinned homed range of its partition starts it with CURRENT and ISSUED 1; over any
other region the write is discarded with FORMAT_INVALID; VALID newly 0 ends the region and its versions. -/
def Obligations.HomeCommandsAct : Prop :=
  (∀ (s : Chip) (p eid addr i : Nat), s.regionAt p addr = some i → i < 4096 →
      let a := A.HOM_VREGION i
      let cur := s.rd a F.HOM_VREGION_CURRENT
      ((s.viewOf eid i).isSome = true ∨ 8 ≤ s.rd a F.HOM_VREGION_LIVE → ∀ b, s.versionOpen p eid addr b = (s, .busy, 0))
      ∧ (s.viewOf eid i = none → s.pool.views.length < 16384 → s.rd a F.HOM_VREGION_LIVE < 8 →
          s.versionOpen p eid addr false
            = ({ s with pool := { s.pool with views := s.pool.views ++ [⟨eid, i, cur, false⟩] } }, .ok, cur))
      ∧ (s.viewOf eid i = none → s.pool.views.length < 16384 → s.rd a F.HOM_VREGION_LIVE < 8 → ∀ r f, s.homed (addr / 16384) = some r →
          s.freeRun p (s.rng r F.PTN_RANGE_META_TRAY) (s.rng r F.PTN_RANGE_META_CHAN) (ceilDiv (8 * s.rd a F.HOM_VREGION_TILES) 16384) = some f →
          let num := s.nextVersion i (s.rd a F.HOM_VREGION_ISSUED)
          ∃ u, s.versionOpen p eid addr true = (u, .ok, num + cur <<< 32) ∧ u.viewOf eid i = some ⟨eid, i, num, true⟩
            ∧ u.rd a F.HOM_VREGION_ISSUED = num ∧ u.rd a F.HOM_VREGION_CURRENT = cur)
      ∧ (s.viewOf eid i = none → s.versionClose p eid addr = (s, .ok, 0))
      ∧ ((s.viewOf eid i).isSome = true → ∃ u, s.versionClose p eid addr = (u, .ok, 0) ∧ u.viewOf eid i = none)
      ∧ ∀ base working,
          ((∀ v, s.viewOf eid i = some v → v.write = false ∨ v.version ≠ working) →
            s.versionPublish p eid addr base working = (s, .accessDenied, 0))
          ∧ ∀ v, s.viewOf eid i = some v → v.write = true → v.version = working →
              (cur = base → working < 2 ^ 32 → ∃ u, s.versionPublish p eid addr base working = (u, .ok, working)
                ∧ u.rd a F.HOM_VREGION_CURRENT = working ∧ u.rd a F.HOM_VREGION_ISSUED = s.rd a F.HOM_VREGION_ISSUED ∧ u.viewOf eid i = none)
              ∧ (cur ≠ base → ∃ u, s.versionPublish p eid addr base working = (u, .versionConflict, cur)
                ∧ u.rd a F.HOM_VREGION_CURRENT = cur ∧ u.viewOf eid i = none))
  ∧ (∀ (s : Chip) (p addr len : Nat) (all : Bool), p < 64 →
      let inside (i : Nat) : Prop := s.rd (A.HOM_LOST i) F.HOM_LOST_PARTITION = p ∧ (all = true ∨ (addr ≤ s.lostLine i * 64
        ∧ s.lostLine i * 64 + (if s.flag (A.HOM_LOST i) F.HOM_LOST_GRAN then 16384 else 64) ≤ addr + len))
      let u := s.ackLost p addr len all
      u = { s with regs := u.regs }
        ∧ (∀ i, i ∈ s.lostEntries → (inside i → u.flag (A.HOM_LOST i) F.HOM_LOST_VALID = false)
            ∧ (¬ inside i → u.flag (A.HOM_LOST i) F.HOM_LOST_VALID = true ∧ u.lostLine i = s.lostLine i))
        ∧ u.rd A.HOM_LOST_WIDE F.HOM_LOST_WIDE_WIDE
            = (if all then putBit (s.rd A.HOM_LOST_WIDE F.HOM_LOST_WIDE_WIDE) p false else s.rd A.HOM_LOST_WIDE F.HOM_LOST_WIDE_WIDE))
  ∧ (∀ (s : Chip) (m : Cmd) (op : Nat), m.stage = 0 → s.homeFor m.part (prm m.cur 8 56) = .here → slotOp m.cur = op →
      op ∈ [oVERSION_OPEN, oVERSION_CLOSE, oVERSION_PUBLISH, oOWN_CLAIM, oOWN_RELEASE] →
      ∀ u st res, s.atHome m = (u, st, res) → st.isError = false → s.runSequencer m = u.endPacket m.id st res)
  ∧ (∀ (s : Chip) (m : Cmd), m.stage = 0 → slotOp m.cur = oLOST_ACK → bitAt m.cur 192 = true → s.homeFor m.part (prm m.cur 8 56) = .here →
      s.runSequencer m = (s.ackLost m.part (prm m.cur 8 56) (prm m.cur 16 64) true).endPacket m.id .ok (s.lostEntries.length
        - (s.ackLost m.part (prm m.cur 8 56) (prm m.cur 16 64) true).lostEntries.length))
  ∧ (∀ (s : Chip) (m : Cmd), m.stage = 0 →
      (slotOp m.cur = oFLUSH_RANGE →
        (∀ e ∈ s.cacheOf m.part, keyRole e.1 ≠ roleENGINE) → s.runSequencer m = s.issued { m with waits := [] } .ok 0)
      ∧ ∀ r : RangeRef, s.hintRange m (prm m.cur 8 56) = .ok r →
          let tiles := s.hintTiles r (prm m.cur 8 56) (prm m.cur 16 64) false
          (slotOp m.cur = oTIER_HINT → prm m.cur 24 8 < 3 →
            (s.tiered r = false → s.runSequencer m = s.endPacket m.id .ok 0)
            ∧ (s.tiered r = true → s.pool.wanted = [] → (∀ t ∈ tiles, (s.tile t).state ≠ .flash ∧ (s.homed t).isSome = true) →
                ∃ u : Chip, s.runSequencer m = u.endPacket m.id .ok tiles.length ∧ u = { s with pool := u.pool, regs := u.regs }
                  ∧ ∀ t ∈ tiles, (u.tile t).hint = prm m.cur 24 8))
          ∧ (slotOp m.cur = oPREFETCH → (∀ t ∈ tiles, (s.tile t).state ≠ .flash ∧ (s.tile t).state ≠ .promoting) →
              ∃ u : Chip, s.runSequencer m = u.endPacket m.id .ok 0 ∧ u = { s with seq := { s.seq with cmds := u.seq.cmds } }))
  ∧ (∀ (src : Source) (i : Fin 4096) (data : Nat) (s : State),
        let a := A.HOM_VREGION i.val
        let t := ((s.wr a F.HOM_VREGION_BASE_TILE (bits data 0 42)).wr a F.HOM_VREGION_PARTITION (bits data 42 6)).wr a F.HOM_VREGION_VALID
          (bits data 48 1)
        src.central → s.serves src a → data < 2 ^ 64 → s.locked (s.rd a F.HOM_VREGION_PARTITION) = false →
        (s.flag a F.HOM_VREGION_VALID = false → bits data 48 1 = 1 → t.regionFits i.val = true →
          ∃ u : Chip, exec (.vregionValidWrite src i data) s = .next (s.after u)
            ∧ u.flag a F.HOM_VREGION_VALID = true ∧ u.rd a F.HOM_VREGION_BASE_TILE = bits data 0 42
            ∧ u.rd a F.HOM_VREGION_PARTITION = bits data 42 6 ∧ u.rd a F.HOM_VREGION_CURRENT = 1 ∧ u.rd a F.HOM_VREGION_ISSUED = 1
            ∧ u.rd a F.HOM_VREGION_LIVE = 1
            ∧ u.pool.versions.filter (fun v => v.region == i.val)
                = [{ region := i.val, number := 1, base := 0, working := false, map := [], own := [] }])
        ∧ (bits data 48 1 = 1 → t.regionFits i.val = false →
            exec (.vregionValidWrite src i data) s =
              .next (s.after (s.log { status := .formatInvalid, subsys := .homeAgent, addrKind := 4, addr := a })))
        ∧ (s.flag a F.HOM_VREGION_VALID = true → bits data 48 1 = 0 →
            ∃ u : Chip, exec (.vregionValidWrite src i data) s = .next (s.after u)
              ∧ u.flag a F.HOM_VREGION_VALID = false ∧ u.rd a F.HOM_VREGION_LIVE = 0 ∧ ∀ v ∈ u.pool.versions, v.region ≠ i.val))

/-! ### Collectives, kernels and engines -/

/-- COLL_PACKET, EARLY_ARRIVAL_EXPIRY, COLLECTIVE_WATCHDOG_EXPIRY, ABORT_TADPOLE and ABORT_MEMORY_EXPIRY, and the start of the eight
collective commands (R206, R207, R209 to R211, R217, R219). A plan that fails its checks ends the command with its status; one that passes
opens a context in the cells of the partition, with its watchdog, unless an abort is kept for its COLL_ID. A contribution to a unit fills it
once; a second one of the same contributor, and one of an endpoint that is no contributor, is dropped and counted; a packet for no open
context keeps its place in the packet buffer, or takes one, where there is room, and else is answered BUSY. The watchdog aborts at the root and asks upward elsewhere; an abort ends the
command with COLLECTIVE_ABORT, sets ABORT_SEEN, leaves one record and is remembered; what is held too long, and an abort kept too long, is
forgotten. -/
def Obligations.CollectivesCloseOrAbort : Prop :=
  (∀ (s : Chip) (m : Cmd), opIsColl (slotOp m.cur) = true → m.stage = 0 →
      let off := prm m.cur 8 38
      (∀ st, s.planCheck m.part off (slotOp m.cur) = .error st → s.runEngine m = s.failCmd m st 2 off 0)
      ∧ (s.planCheck m.part off (slotOp m.cur) = .ok none → s.runEngine m = s.endPacket m.id .ok 0)
      ∧ ∀ r, s.planCheck m.part off (slotOp m.cur) = .ok (some r) → r.plan = Plan.of r.header →
          (s.seq.kept.any (fun k => k.1 == m.part && k.2.1 == r.plan.collId && k.2.2) = true →
            ∃ u : Chip, s.runEngine m = u.endPacket m.id .collectiveAbort 0 ∧ u.seq.colls = s.seq.colls ∧ u.errSeq = s.errSeq + 1
              ∧ ∀ k ∈ u.seq.kept, ¬ (k.1 = m.part ∧ k.2.1 = r.plan.collId))
          ∧ (s.seq.kept = [] → r.plan.localSrc = false → r.contrib ≠ [] → r.plan.kind ≠ 3 → r.plan.kind ≠ 4 → r.plan.unitCount ≠ 0 →
              s.collKey? s.seq.nextColl = none → (∀ e ∈ s.seq.early, ¬ (e.part = m.part ∧ e.collId = r.plan.collId)) →
              ∃ u : Chip, s.runEngine m = u ∧ u = { s with regs := u.regs, seq := u.seq, timers := u.timers }
                ∧ u.seq.colls = s.seq.colls ++ [{ key := s.seq.nextColl, part := m.part, planOff := off, plan := r.header, contrib := r.contrib
                                                  scatter := r.scatter, sampling := r.sampling, cmd := m.id, cells := s.cellsOf m.part }]
                ∧ u.due (.collective s.seq.nextColl) = some (s.raw + s.collTimeout m.part)
                ∧ ∀ e ∈ s.cellsOf m.part, u.rd (A.CEL_STATUS e) F.CEL_STATUS_CTX_USED
                    = (u.seq.colls.filter (fun c => c.cells.contains e)).length % 2 ^ F.CEL_STATUS_CTX_USED.width))
  ∧ (∀ (p : Packet) (s : State), s.earlyHere p = true →
      (∀ sl, s.releasedLocal p = some sl → ∃ u : Chip, exec (.collPacket p) s = .next (s.after u)
        ∧ u.seq.early = s.seq.early ++ [⟨p.partition, (CollExt.ofBody p.body).collId, p, s.raw + s.collTimeout p.partition, sl.id⟩]
        ∧ u.sw.slots = s.sw.slots.map (fun x => if x.id == sl.id then { x with held := .early } else x)
        ∧ u = { s.toChip with sw := u.sw, seq := u.seq })
      ∧ (s.releasedLocal p = none → s.accepts p →
        (s.admission p [] false = none → exec (.collPacket p) s = .next (s.after ((s.count
          (A.CEL_STATUS ((s.cellsOf p.partition).headD 0)) F.CEL_STATUS_EARLY_DROPS).collAnswer p .busy)))
        ∧ ∀ adm, s.admission p [] false = some adm → ∃ u : Chip, exec (.collPacket p) s = .next (s.after u)
          ∧ u.seq.early = s.seq.early ++ [⟨p.partition, (CollExt.ofBody p.body).collId, p, s.raw + s.collTimeout p.partition, s.sw.nextId⟩]
          ∧ u.sw.nextId = s.sw.nextId + 1 ∧ u.sw.slots.map (·.pkt) = s.sw.slots.map (·.pkt) ++ [p]
          ∧ u = { s.toChip with sw := u.sw, seq := u.seq, regs := u.regs }))
  ∧ (∀ (p : Packet) (s : State), s.accepts p → p.segs ≠ 0 → p.cls = clsCOLL → s.earlyHere p = false →
      let v := s.taken p
      let e := CollExt.ofBody p.body
      let r := v.collIn p
      (r.2 = true → exec (.collPacket p) s = .next (s.after (r.1.flowApplied p)))
      ∧ (r.2 = false → p.fence = false → exec (.collPacket p) s = .next (s.after r.1))
      ∧ (collReservedZero p = true → v.isShadow = false → e.role < 2 →
          (v.coll? p.partition e.collId = none → v.seq.kept = [] →
            ∀ n l, v.cellsOf p.partition = n :: l → v.earlyRoom p.partition < v.earlyUsed p.partition + p.segs →
                r = ((v.count (A.CEL_STATUS n) F.CEL_STATUS_EARLY_DROPS).collAnswer p .busy, false))
          ∧ ∀ c, v.coll? p.partition e.collId = some c →
              (p.src ∉ c.contrib → r = (v.count (A.CEL_STATUS (c.cellOf 0)) F.CEL_STATUS_STRAY_DROPS, false))
              ∧ ∀ i off n x, c.contrib.findIdx? (· == p.src) = some i → c.p.cover p = .ok (off, n) →
                  c.p.unitsAt (c.p.fmtOf e.role) off n p.payload = [x] → c.p.contentOk [x] = true → c.p.kind ≠ 3 → c.p.kind ≠ 4 →
                  (bitAt (c.unit x.1).mask i = true → r = (v.count (A.CEL_STATUS (c.cellOf x.1)) F.CEL_STATUS_DUP_DROPS, false))
                  ∧ (bitAt (c.unit x.1).mask i = false → c.p.root = true → c.committed = false → v.isTap = false → x.1 < c.p.unitCount →
                      (c.unit x.1).mask + 2 ^ i ≠ c.full → v.seq.colls.filter (fun y => y.key == c.key) = [c] →
                      ∃ u : Chip, r = (u, true) ∧ u = { v with regs := u.regs, seq := u.seq, timers := u.timers }
                        ∧ (u.collKey? c.key).map (fun y => y.unit x.1)
                            = some { acc := c.p.merge (if (c.unit x.1).mask = 0 then none else some (c.unit x.1).acc) x.2
                                     mask := (c.unit x.1).mask + 2 ^ i, sent := (c.unit x.1).sent }
                        ∧ u.due (.collective c.key) = some (v.raw + v.collTimeout c.part))))
  ∧ (∀ (s : Chip) (key : Nat) (snd : Option Nat) (owing told : Nat) (par : Bool),
      (s.collKey? key = none → s.abortColl key snd owing told par = s)
      ∧ ∀ c, s.collKey? key = some c →
          let u := s.abortColl key snd owing told par
          u.collKey? key = none ∧ (∀ x ∈ c.cells, x < 64 → u.flag (A.CEL_STATUS x) F.CEL_STATUS_ABORT_SEEN = true)
            ∧ (c.part, c.p.collId, true) ∈ u.seq.kept ∧ u.running (.collective key) = false
            ∧ ∀ m, s.cmd? c.cmd = some m → u.cmd? c.cmd = some { m with ending := some (.collectiveAbort, 0) })
  ∧ (∀ (key : Nat) (s : State),
      (s.expire (.collective key) = none → exec (.collectiveWatchdogExpiry key) s = .next (s.after s.toChip))
      ∧ ∀ u c, s.expire (.collective key) = some u → s.collKey? key = some c →
          (c.p.root = true → exec (.collectiveWatchdogExpiry key) s = .next (s.after (u.abortColl key none c.owing c.owing true)))
          ∧ (c.p.root = false → exec (.collectiveWatchdogExpiry key) s
              = .next (s.after ((u.abortTadpole c.part c.p.collId c.p.parent false true c.owing).collWatch c))))
  ∧ (∀ (p : Packet) (s : State), s.accepts p →
      let v := s.taken p
      let b := AbortBody.ofBody p.body
      let ok : Prop := bits p.body 17 7 = 0 ∧ bits p.body 46 338 = 0 ∧ b.status = Status.collectiveAbort.code
      (¬ ok → exec (.abortTadpole p) s = .next (s.after (v.flowApplied p)))
      ∧ (ok → v.coll? p.partition b.collId = none →
          (b.request = true → exec (.abortTadpole p) s = .next (s.after (v.flowApplied p)))
          ∧ (b.request = false → ∃ u : Chip, exec (.abortTadpole p) s = .next (s.after (u.flowApplied p))
              ∧ (p.partition, b.collId, true) ∈ u.seq.kept
              ∧ u.due (.abortMemory p.partition b.collId) = some (v.raw + v.collTimeout p.partition)
              ∧ u = { v with seq := u.seq, timers := u.timers }))
      ∧ (ok → ∀ c, v.coll? p.partition b.collId = some c →
          (b.request = true → c.p.root = false →
            exec (.abortTadpole p) s = .next (s.after ((v.abortTadpole c.part b.collId c.p.parent false true b.owing).flowApplied p)))
          ∧ (b.request = false ∨ (c.p.root = true ∧ c.committed = false) →
              exec (.abortTadpole p) s = .next (s.after ((v.abortColl c.key (some p.src) 0 b.owing true).flowApplied p)))))
  ∧ (∀ (part : Fin 64) (coll : Nat) (s : State),
      (s.expire (.abortMemory part.val coll) = none → exec (.abortMemoryExpiry part coll) s = .next (s.after s.toChip))
      ∧ (∀ u, s.expire (.abortMemory part.val coll) = some u → exec (.abortMemoryExpiry part coll) s = .next (s.after { u with
          seq := { u.seq with kept := u.seq.kept.filter (fun k => !(k.1 == part.val && k.2.1 == coll)) } }))
      ∧ ((∀ e ∈ s.seq.early, ¬ (e.part = part.val ∧ e.collId = coll)) → exec (.earlyArrivalExpiry part coll) s = .next (s.after s.toChip))
      ∧ ∀ e, s.seq.early = [e] → e.part = part.val → e.collId = coll →
          exec (.earlyArrivalExpiry part coll) s = .next (s.after ((({ s.advanceTo e.due with
            seq := { s.seq with early := [] } }).copyDone e.slot localPort).collAnswer e.pkt .collectiveAbort)))

/-- FRAME_BOUNDARY, KERNEL_COMPLETE, KERNEL_WATCHDOG_STOP, CELL_RESET, CELL_RESET_DONE, MATRIX_TILE_RESET, MATRIX_TILE_RESET_DONE,
QUEUE_ENABLE, QUEUE_DISABLE and QUEUE_DISABLE_COMPLETE (R197, R234, R237, R269, R278, R288 to R290, R300, R301, R304, R421). A frame renews
the budget; a kernel is admitted against its frame's budget, held until the next one, or refused with QUOTA where it could never fit; one
that has ended completes; one that reaches its limit is stopped with TIMEOUT, counted and recorded. An engine that runs is not reset; a reset
zeroes its scratchpad and takes 20 µs on a cell, 40 µs on a tile. A queue of a partition that is not SEALED is not enabled. -/
def Obligations.KernelsRunInFramesUnderTheirWatchdog : Prop :=
  (∀ (q : Fin 1024) (s : State),
      (s.qFrame q.val = 0 → exec (.frameBoundary q) s = .next (s.after s.toChip))
      ∧ let f := us (s.qFrame q.val)
        let fin := s.tb + f - (s.tb + f - us (s.rd (A.SEQ_Q_SCHED q.val) F.SEQ_Q_SCHED_PHASE_US) % f) % f
        (s.qFrame q.val ≠ 0 → s.align.slew = 0 → fin < 2 ^ 64 →
          ∃ u : Chip, exec (.frameBoundary q) s = .next (s.after u) ∧ (u.queue q.val).budget = us (s.qBudget q.val)
            ∧ u.rd (A.SEQ_Q_STATE q.val) F.SEQ_Q_STATE_BUDGET_LEFT = s.qBudget q.val
            ∧ u.tb = (if (s.queue q.val).frameEnd = fin then fin else s.tb)
            ∧ (u.queue q.val).frameEnd = (if (s.queue q.val).frameEnd = fin then fin + f else fin)))
  ∧ (∀ (s : Chip) (m : Cmd) (need : Need), opIsKernel (slotOp m.slot) = true → s.startCheck m = none → s.needs m = .ok need →
      ¬ (s.flag A.PCE_STATUS F.PCE_STATUS_SHORTFALL = true ∧ s.rd A.PCE_STATUS F.PCE_STATUS_LEVEL_ACTIVE = 7) →
      let fl := floorOf (s.rd A.PCE_STATUS F.PCE_STATUS_ADMIT_LEVEL)
      let w := s.worstCase m need.span
      let scaled := ceilDiv (100 * w.1) fl + w.2
      let x := (s.frameSync m.queue).queue m.queue
      let t := s.frameSync m.queue
      (s.qFrame m.queue = 0 → s.startCmd m = ({ s with seq := { s.seq with nextAdmit := s.seq.nextAdmit + 1 } }).setCmd
          { m with phase := .ready, deadline := none, admitted := s.seq.nextAdmit, scaled := scaled, floor := fl })
      ∧ (s.qFrame m.queue ≠ 0 →
          (us (s.qBudget m.queue) < scaled → s.startCmd m = t.endCmd m .quota 0 0)
          ∧ (scaled ≤ us (s.qBudget m.queue) → x.budget < scaled → s.startCmd m = t.setCmd { m with phase := .held, deadline := some x.frameEnd })
          ∧ (scaled ≤ us (s.qBudget m.queue) → scaled ≤ x.budget →
              ∃ u : Chip, s.startCmd m = u.setCmd { m with phase := .ready, deadline := some x.frameEnd, admitted := s.seq.nextAdmit
                                                           scaled := scaled, floor := fl }
                ∧ (u.queue m.queue).budget = x.budget - scaled ∧ u = { t with regs := u.regs, seq := u.seq })))
  ∧ (∀ (q : Fin 1025) (tag : Nat) (s : State),
      ((∀ m ∈ s.seq.cmds, m.queue ≠ q.val ∨ (slotTag m.slot ≠ tag ∧ slotTag m.cur ≠ tag)) →
        exec (.kernelComplete q tag) s = .next (s.after s.toChip) ∧ exec (.kernelWatchdogStop q tag) s = .next (s.after s.toChip))
      ∧ ∀ m, s.seq.cmds = [m] → m.queue = q.val → slotTag m.slot = tag →
          (∀ st res, m.phase = .ended st res → exec (.kernelComplete q tag) s = .next (s.after (s.completeCmd m st res)))
          ∧ (s.running (.kernel m.id) = false → exec (.kernelWatchdogStop q tag) s = .next (s.after s.toChip))
          ∧ ∀ c, s.expire (.kernel m.id) = some c → q.val < 1024 → m.part < 64 →
              ∃ w : Chip, exec (.kernelWatchdogStop q tag) s = .next (s.after (w.stopCmd m .timeout (if m.isChain then m.pc else 0)))
                ∧ w.flag (A.SEQ_Q_STATE q.val) F.SEQ_Q_STATE_OVERRUN_SEEN = true ∧ s.errSeq < w.errSeq
                ∧ w.rd A.SEQ_STATUS F.SEQ_STATUS_OVERRUNS
                    = min (c.rd A.SEQ_STATUS F.SEQ_STATUS_OVERRUNS + 1) (2 ^ F.SEQ_STATUS_OVERRUNS.width - 1))
  ∧ (∀ (src : Source) (s : State), src.central →
      (∀ n : Fin 64, s.serves src (A.CEL_CTL n.val) →
        (s.flag (A.CEL_STATUS n.val) F.CEL_STATUS_RUNNING = true ∨ s.rd (A.CEL_STATUS n.val) F.CEL_STATUS_CTX_USED ≠ 0 →
          exec (.cellReset src n) s = .next (s.after (s.logReg .busy .computeCells (A.CEL_CTL n.val))))
        ∧ (s.flag (A.CEL_STATUS n.val) F.CEL_STATUS_RUNNING = false → s.rd (A.CEL_STATUS n.val) F.CEL_STATUS_CTX_USED = 0 →
            s.running (.engineReset n.val) = false →
            ∃ u : Chip, exec (.cellReset src n) s = .next (s.after u) ∧ u.flag (A.CEL_STATUS n.val) F.CEL_STATUS_RESETTING = true
              ∧ u.due (.engineReset n.val) = some (s.raw + us 20) ∧ u = { s.toChip with regs := u.regs, timers := u.timers }))
      ∧ (∀ n : Fin 16, s.serves src (A.MTX_CTL n.val) →
        (s.flag (A.MTX_STATUS n.val) F.MTX_STATUS_RUNNING = true ∨ s.flag (A.MTX_STATUS n.val) F.MTX_STATUS_ENCODING = true →
          exec (.matrixTileReset src n) s = .next (s.after (s.logReg .busy .matrixTiles (A.MTX_CTL n.val))))
        ∧ (s.flag (A.MTX_STATUS n.val) F.MTX_STATUS_RUNNING = false → s.flag (A.MTX_STATUS n.val) F.MTX_STATUS_ENCODING = false →
            s.running (.engineReset (64 + n.val)) = false →
            ∃ u : Chip, exec (.matrixTileReset src n) s = .next (s.after u) ∧ u.flag (A.MTX_STATUS n.val) F.MTX_STATUS_RESETTING = true
              ∧ u.due (.engineReset (64 + n.val)) = some (s.raw + us 40) ∧ u = { s.toChip with regs := u.regs, timers := u.timers }))
      ∧ ∀ q : Fin 1024, s.serves src (A.SEQ_Q_CTL q.val) →
        (s.pstate (q.val / 16) ≠ psSEALED → exec (.queueEnable src q) s = .next (s.after (s.log
            { status := .accessDenied, subsys := .sequencer, partition := some (q.val / 16), queue := some q.val, addrKind := 4
              addr := A.SEQ_Q_CTL q.val })))
        ∧ (s.pstate (q.val / 16) = psSEALED → s.qSource q.val = 3 → s.qFrame q.val = 0 → s.qBudget q.val = 0 →
            s.rd (A.SEQ_Q_SCHED q.val) F.SEQ_Q_SCHED_PHASE_US = 0 →
            ∃ u : Chip, exec (.queueEnable src q) s = .next (s.after u) ∧ u.qEnabled q.val = true
              ∧ u.qFlag q.val F.SEQ_Q_STATE_HALTED = false ∧ u.rd (A.SEQ_Q_STATE q.val) F.SEQ_Q_STATE_SQ_HEAD = 0
              ∧ (u.queue q.val).cqTail = 0 ∧ u = { s.toChip with regs := u.regs, seq := { s.seq with queues := u.seq.queues } })
        ∧ (s.qEnabled q.val = true → exec (.queueDisable src q) s = .next (s.after
            (s.modQueue q.val (fun x => { x with disabling := true, fetching := 0, latched := none })))))
  ∧ (∀ (q : Fin 1024) (s : State),
      ((s.queue q.val).disabling = false ∨ s.queueIdle q.val = false → exec (.queueDisableComplete q) s = .next (s.after s.toChip))
      ∧ ((s.queue q.val).disabling = true → s.queueIdle q.val = true →
          ∃ u : Chip, exec (.queueDisableComplete q) s = .next (s.after u) ∧ u.qEnabled q.val = false ∧ (u.queue q.val).disabling = false
            ∧ u = { s.toChip with regs := u.regs, seq := { s.seq with queues := u.seq.queues } }))
  ∧ (∀ (c : Instr) (e : Nat) (s : State),
      (∃ n : Fin 64, c = .cellResetDone n ∧ e = n.val) ∨ (∃ n : Fin 16, c = .matrixTileResetDone n ∧ e = 64 + n.val) →
      (s.running (.engineReset e) = false → exec c s = .next (s.after s.toChip))
      ∧ (s.running (.engineReset e) = true → (∀ m ∈ s.seq.cmds, e ∉ m.engines) →
          ∃ u : Chip, exec c s = .next (s.after u) ∧ (∀ o, o < 2 ^ 23 → u.seq.scr.byte (scrKey e o) = 0)
            ∧ (∀ e' o, e' ≠ e → o < 2 ^ 23 → u.seq.scr.byte (scrKey e' o) = s.seq.scr.byte (scrKey e' o))
            ∧ (if e < 64 then u.flag (A.CEL_STATUS e) F.CEL_STATUS_RESETTING else u.flag (A.MTX_STATUS (e - 64)) F.MTX_STATUS_RESETTING) = false
            ∧ u.running (.engineReset e) = false
            ∧ u = { s.toChip with regs := u.regs, timers := u.timers, seq := { s.seq with scr := u.seq.scr } }))

/-- GATHER, SCATTER, FILTER_SCAN, ENCODE, CODEBOOK_BUILD, CODEBOOK_RETIRE, ATTEND and PROJECT on their engines (R227 to R230, R250 to R254,
R257, R265, Table 7.9): GATHER moves the rows named by its list into one span, SCATTER the other way, in list order, and answers COUNT;
FILTER_SCAN writes the numbers of the records that satisfy its predicate and answers how many there are and how many it wrote. ENCODE pins a
LIVE slot of its own partition and GEN; a build of a slot that is not FREE is BUSY and one of a FREE slot makes it BUILDING, and a load
installs its centroids, LIVE with the next GEN; RETIRE frees a slot without pins and retires one that has some. A descriptor beyond the
partition's STG gives QUOTA. -/
def Obligations.EngineCommandsAct : Prop :=
  (∀ (s : Chip) (m : Cmd) (list : List Byte) (rows : List Nat), m.stage ≠ 9 →
      let r := m.rowCmd
      let n := r.rowBytes
      let key := stgKey (s.hbmOf m.part)
      r.form = 0 → r.space = 1 → s.destOf r.contig = .stg r.contig.addr → r.contig.countEn = false →
      s.stgHas m.part r.contig.addr (r.rows * n) = true → (∀ a ∈ rows, s.stgHas m.part a n = true) → rows.length = r.rows →
      s.readAt m r.list (r.rows * 8) = .ok list → rowAddresses r list = rows.map some → n ≠ 0 →
      (slotOp m.cur = oGATHER →
        ∃ u : Chip, s.runEngine m = u.issued m .ok r.rows ∧ u = { s with seq := { s.seq with stg := u.seq.stg } }
          ∧ (∀ i a k, rows[i]? = some a → k < n → u.seq.stg.byte (key (r.contig.addr + i * n + k)) = s.seq.stg.byte (key (a + k)))
          ∧ ∀ j, (∀ k, k < r.rows * n → j ≠ key (r.contig.addr + k)) → u.seq.stg.byte j = s.seq.stg.byte j)
      ∧ (slotOp m.cur = oSCATTER → rows.Pairwise (fun a b => a + n ≤ b ∨ b + n ≤ a) →
        ∃ u : Chip, s.runEngine m = u.issued m .ok r.rows ∧ u = { s with seq := { s.seq with stg := u.seq.stg } }
          ∧ (∀ i a k, rows[i]? = some a → k < n → u.seq.stg.byte (key (a + k)) = s.seq.stg.byte (key (r.contig.addr + i * n + k)))
          ∧ ∀ j, (∀ a ∈ rows, ∀ k, k < n → j ≠ key (a + k)) → u.seq.stg.byte j = s.seq.stg.byte j))
  ∧ (∀ (s : Chip) (m : Cmd) (pred data : List Byte), slotOp m.cur = oFILTER_SCAN → m.stage ≠ 9 →
      let x := m.cur
      let n := prm x 16 32
      let rb := prm x 20 16
      let fmt := bits x 192 4
      let out := Locator.ofShort (prm x 40 64)
      let a (i : Nat) : Nat := natOfBytes ((pred.drop (8 * i)).take 8)
      let holds (i : Nat) : Bool :=
        let k := natOfBytes ((data.drop (i * rb + prm x 22 16)).take (fmtSize fmt 0))
        let t1 := termHolds fmt (bits x 200 4) k (a 0) (a 1)
        let t2 := termHolds fmt (bits x 204 4) k (a 2) (a 3)
        if bits x 196 2 = 0 then t1 else if bits x 196 2 = 1 then t1 && t2 else t1 || t2
      let hits := (upFrom 0 n).filter holds
      s.stgRead m.part (prm x 32 38) 32 = .ok pred → s.readAt m (m.shortAt (Locator.ofShort (prm x 8 64))) (n * rb) = .ok data →
      bitAt x 198 = false → out.space = 1 → 4 * hits.length ≤ prm x 48 64 → s.stgHas m.part out.addr (4 * hits.length) = true →
      ∃ u : Chip, s.runEngine m = u.issued m .ok (hits.length + hits.length <<< 32)
        ∧ u = { s with seq := { s.seq with stg := u.seq.stg } }
        ∧ (∀ i k b, hits[i]? = some k → b < 4 →
            u.seq.stg.byte (stgKey (s.hbmOf m.part) (out.addr + 4 * i + b)) = (bytesOfNat 4 (k + prm x 56 32)).getD b 0)
        ∧ ∀ j, (∀ k, k < 4 * hits.length → j ≠ stgKey (s.hbmOf m.part) (out.addr + k)) → u.seq.stg.byte j = s.seq.stg.byte j)
  ∧ (∀ (s : Chip) (m : Cmd),
      let k := prm m.cur 8 8
      let a := A.CDC_SLOT k
      (slotOp m.cur = oENCODE → m.stage = 0 → s.owner a = some m.part →
        (s.slotState k ≠ cbLIVE ∨ s.rd a F.CDC_SLOT_GEN ≠ prm m.cur 10 16 → s.runEngine m = s.failCmd m .formatInvalid 4 a 0)
        ∧ (s.slotState k = cbLIVE → s.rd a F.CDC_SLOT_GEN = prm m.cur 10 16 → s.slotRefs k < 65535 → s.rd a F.CDC_SLOT_RATE = prm m.cur 9 8 →
            ∃ u : Chip, s.runEngine m = u.setCmd { m with pins := k :: m.pins, stage := 1 } ∧ u.slotRefs k = s.slotRefs k + 1
              ∧ u = { s with regs := u.regs }))
      ∧ (slotOp m.cur = oCODEBOOK_BUILD → m.stage = 0 →
          (s.slotState k ≠ cbFREE → s.runEngine m = s.failCmd m .busy 4 a 0)
          ∧ (s.slotState k = cbFREE → ∃ u : Chip, s.runEngine m = u.setCmd { m with stage := 1 } ∧ u.slotState k = cbBUILDING
              ∧ u = { s with regs := u.regs }))
      ∧ (slotOp m.cur = oCODEBOOK_BUILD → m.stage = 1 → prm m.cur 10 8 ≠ 0 → prm m.cur 12 8 = 1 → ∀ data : List Byte,
          s.readAt m (m.shortAt (Locator.ofShort (prm m.cur 16 64))) (prm m.cur 24 64 * 2) = .ok data → data.length = 2 ^ (prm m.cur 9 8 + 1) →
          (∀ c ∈ numbersOf 2 data, match bf16.decode c with | .fin _ _ _ => True | _ => False) →
          ((numbersOf 2 data).zip ((numbersOf 2 data).drop 1)).all (fun e => (bf16.decode e.1).le (bf16.decode e.2)) = true →
          2 ≤ prm m.cur 9 8 → prm m.cur 9 8 ≤ 8 →
          let g := (s.rd a F.CDC_SLOT_GEN + 1) % 65536
          let gen := if g = 0 then 1 else g
          ∃ u : Chip, s.runEngine m = u.endPacket m.id .ok gen ∧ u.slotState k = cbLIVE ∧ u.rd a F.CDC_SLOT_GEN = gen
            ∧ u.rd a F.CDC_SLOT_RATE = prm m.cur 9 8 ∧ (∀ j, j < 2 ^ prm m.cur 9 8 → u.centroid k j = (numbersOf 2 data).getD j 0)
            ∧ u = { s with regs := u.regs })
      ∧ (slotOp m.cur = oCODEBOOK_RETIRE →
          (s.slotState k = cbBUILDING → s.runSequencer m = s.failCmd m .busy 4 a 0)
          ∧ (s.slotState k = cbLIVE → ∃ u : Chip, s.runSequencer m = u.endPacket m.id .ok (s.slotRefs k)
              ∧ u.slotState k = (if s.slotRefs k = 0 then cbFREE else cbRETIRING) ∧ u = { s with regs := u.regs })
          ∧ (s.slotState k ≠ cbBUILDING → s.slotState k ≠ cbLIVE → s.runSequencer m = s.endPacket m.id .ok (s.slotRefs k)))
      ∧ (slotOp m.cur = oATTEND ∨ slotOp m.cur = oPROJECT → m.stage = 0 → s.stgHas m.part (prm m.cur 8 38) 128 = false →
          s.runEngine m = s.failCmd m .quota 2 (prm m.cur 8 38) 0))

/-! ### Partitions, links, the switch, epochs and shadow comparison -/

/-- PARTITION_CREATE, PARTITION_RESERVE, PARTITION_SEAL, PARTITION_DRAIN, PARTITION_SCRUB, PARTITION_RELEASE, KEY_ROTATE, TRAY_FORMAT, TRAY_DETACH and
EPOCH_INSTALL as the sequencer runs them, with SEAL_COMPLETE, PARTITION_DRAIN_COMPLETE, PARTITION_SCRUB_COMPLETE, TRNG_HEALTH_FAIL,
TRNG_HEALTH_PASS and SPDM_REQUEST (R86, R89, R373, R418, R419, R420, R422, R424, R427, R429, R432, R436). A partition goes FREE, CREATED, SEALED,
DRAINING, DRAINED, SCRUBBING, SCRUBBED and FREE, and a command in any other state is BUSY with one record; a completion that is not due
changes nothing. A seal makes key 0, a scrub destroys the keys. -/
def Obligations.PartitionsGoThroughTheirStates : Prop :=
  (∀ (s : Chip) (m : Cmd), m.stage = 0 → m.phase = .running →
      let o := slotOp m.cur
      let p := prm m.cur 8 6
      let busy : Prop := s.runAdmin m = s.endAdmin m .partitionUnit .busy 0 4 (A.PTN_STATE p)
      (o = oPARTITION_CREATE → (s.pstate p ≠ psFREE → busy)
        ∧ (s.pstate p = psFREE → ∃ u : Chip, s.runAdmin m = u.endPacket m.id .ok 0 ∧ u.pstate p = psCREATED ∧ u = { s with regs := u.regs }))
      ∧ (o = oPARTITION_RESERVE → (s.pstate p ≠ psCREATED ∨ s.sealing p = true → busy)
        ∧ (s.pstate p = psCREATED → s.sealing p = false →
            ∀ u st n, s.reserve p (prm m.cur 9 8) (prm m.cur 10 16) (prm m.cur 12 16) (bitAt m.cur 112) = (u, st, n) →
              s.runAdmin m = u.endAdmin m .partitionUnit st n 4 (unitAddr (prm m.cur 9 8) (prm m.cur 10 16))))
      ∧ (o = oPARTITION_SEAL → (s.pstate p ≠ psCREATED ∨ s.sealing p = true → busy)
        ∧ (s.pstate p = psCREATED → s.sealing p = false →
          (∀ st, s.sealCheck p = some st → s.runAdmin m = s.endAdmin m .partitionUnit st 0 4 (A.PTN_STATE p))
          ∧ (s.sealCheck p = none → s.boundTrays p = [] →
              let u := s.runAdmin m
              bitAt (u.rd (A.KEY_MEM p) F.KEY_MEM_LIVE) 0 = true ∧ u.rd (A.KEY_MEM p) F.KEY_MEM_NEWEST = 0 ∧ (u.pool.keys.find (4 * p)).isSome = true
                ∧ u.pstate p = psCREATED ∧ (s.cmd? m.id = some m → slotOp m.slot = o → prm m.slot 8 6 = p → u.sealing p = true))))
      ∧ (o = oPARTITION_DRAIN → (s.pstate p ≠ psSEALED → busy)
        ∧ (s.pstate p = psSEALED → s.banksOf p = [] → s.seq.colls = [] → (∀ x ∈ s.seq.cmds, slotOp x.cur ≠ oWAIT ∧ slotOp x.cur ≠ oWAIT_COPY) →
            (s.runAdmin m).pstate p = psDRAINING
              ∧ ∀ q, q / 16 = p → s.qEnabled q = true → ((s.runAdmin m).queue q).disabling = true ∧ ((s.runAdmin m).queue q).fetching = 0))
      ∧ (o = oPARTITION_SCRUB → (s.pstate p ≠ psDRAINED ∨ s.homesRange p = true → busy)
        ∧ (s.pstate p = psDRAINED → s.homesRange p = false → (∀ k, k < 11 → s.unitsOf k p = []) →
            (∀ x ∈ s.seq.cmds, x.part ≠ p ∨ x.phase ≠ .fetched) → s.listed (A.HOM_VREGION 0) 32 4096 = [] → s.listed (A.HOM_OWN 0) 32 8192 = [] →
            s.lostEntries = [] →
            (s.runAdmin m).pstate p = psSCRUBBING ∧ (s.runAdmin m).rd (A.KEY_MEM p) F.KEY_MEM_DESTROYED = 1
              ∧ (s.runAdmin m).rd (A.KEY_MEM p) F.KEY_MEM_LIVE = 0 ∧ ∀ g, g < 4 → (s.runAdmin m).pool.keys.find (4 * p + g) = none))
      ∧ (o = oPARTITION_RELEASE →
          (s.pstate p ≠ psCREATED → s.pstate p ≠ psSCRUBBED → busy)
          ∧ (s.pstate p = psCREATED → s.sealing p = false → (∀ k, k < 11 → s.unitsOf k p = []) →
              ∃ u : Chip, s.runAdmin m = u.endPacket m.id .ok 0 ∧ u.pstate p = psFREE ∧ u.rd (A.KEY_MEM p) F.KEY_MEM_DESTROYED = 0
                ∧ u = { s with regs := u.regs }))
      ∧ (o = oKEY_ROTATE → prm m.cur 9 8 = 0 →
          let g := (s.rd (A.KEY_MEM p) F.KEY_MEM_NEWEST + 1) % 4
          (s.pstate p ≤ psCREATED → busy)
          ∧ (psSCRUBBING ≤ s.pstate p → s.runAdmin m = s.endAdmin m .partitionUnit .keyRetired 0 4 (A.PTN_STATE p))
          ∧ (psCREATED < s.pstate p → s.pstate p < psSCRUBBING →
              (s.trngFail = true ∨ bitAt (s.rd (A.KEY_MEM p) F.KEY_MEM_LIVE) g = true →
                s.runAdmin m = s.endAdmin m .partitionUnit .busy 0 4 (A.KEY_MEM p))
              ∧ (s.trngFail = false → bitAt (s.rd (A.KEY_MEM p) F.KEY_MEM_LIVE) g = false → s.pool.sweeps.find p = none →
                  (s.newKey p g).sweepTiles p = [] →
                  ∃ u : Chip, s.runAdmin m = u.endPacket m.id .ok g ∧ u.rd (A.KEY_MEM p) F.KEY_MEM_NEWEST = g
                    ∧ bitAt (u.rd (A.KEY_MEM p) F.KEY_MEM_LIVE) g = true ∧ u.rd (A.KEY_MEM p) F.KEY_MEM_SWEEPING = 0)))
      ∧ (o = oTRAY_FORMAT ∨ o = oTRAY_DETACH →
          let n := prm m.cur 8 5
          let need := if o = oTRAY_FORMAT then trayBLANK else trayREADY
          (s.trayState n = trayABSENT ∨ s.trayState n = trayLOST →
            s.runAdmin m = s.endAdmin m .tierManager .portDown 0 4 (A.TIR_TRAY_STATUS n))
          ∧ (s.trayState n ≠ trayABSENT → s.trayState n ≠ trayLOST → s.trayState n ≠ need ∨ (s.tray n).command.isSome = true →
              slotOp m.slot = o → s.runAdmin m = s.endAdmin m .tierManager .busy 0 4 (A.TIR_TRAY_STATUS n)))
      ∧ (o = oEPOCH_INSTALL →
          (s.otherState ≠ 1 → s.runAdmin m = s.endAdmin m .routeUnit .busy 0 4 A.RTE_EPOCH)
          ∧ (s.otherState = 1 → (∀ v, s.rangeEntries v = []) → s.checkProfiles s.shadowV = none → s.checkParts s.shadowV = none →
              s.changedPorts s.shadowV = [] → s.pool.ops = [] → s.pool.replicas = [] →
              ∃ u : Chip, ∃ res, s.runAdmin m = u.endPacket m.id .ok res ∧ u.active = 1 - s.active ∧ u.otherState = 2
                ∧ u.rd A.RTE_EPOCH F.RTE_EPOCH_INSTALLS = (s.rd A.RTE_EPOCH F.RTE_EPOCH_INSTALLS + 1) % 2 ^ F.RTE_EPOCH_INSTALLS.width
                ∧ u.due .drainHold = some (s.raw + us (s.rd A.RTE_FLOW_CFG F.RTE_FLOW_CFG_DRAIN_HOLD_US)))))
  ∧ (∀ (p : Fin 64) (s : State),
      (s.adminOf oPARTITION_SEAL p.val = none → exec (.sealComplete p) s = .next (s.after s.toChip))
      ∧ (∀ m, s.adminOf oPARTITION_SEAL p.val = some m →
          (s.bindingDone m = false → exec (.sealComplete p) s = .next (s.after s.toChip))
          ∧ (s.bindingDone m = true → ∃ u : Chip, exec (.sealComplete p) s = .next (s.after (u.endPacket m.id .ok 0))
              ∧ u.pstate p.val = psSEALED ∧ u = { s.toChip with regs := u.regs }
              ∧ u.rd (A.PTN_STATE p.val) F.PTN_STATE_SEALS = (s.rd (A.PTN_STATE p.val) F.PTN_STATE_SEALS + 1) % 2 ^ F.PTN_STATE_SEALS.width))
      ∧ (s.pstate p.val ≠ psDRAINING ∨ s.drained p.val = false → exec (.partitionDrainComplete p) s = .next (s.after s.toChip))
      ∧ (s.pstate p.val = psDRAINING → s.drained p.val = true → ∀ m, s.adminOf oPARTITION_DRAIN p.val = some m →
          ∃ u : Chip, exec (.partitionDrainComplete p) s = .next (s.after (u.endPacket m.id .ok 0)) ∧ u.pstate p.val = psDRAINED
            ∧ u = { s.toChip with regs := u.regs })
      ∧ (s.pstate p.val ≠ psSCRUBBING ∨ (∃ k, s.pool.scrubs.find p.val = some (k + 1)) →
          exec (.partitionScrubComplete p) s = .next (s.after s.toChip))
      ∧ (s.pstate p.val = psSCRUBBING → s.pool.scrubs.find p.val = none → ∀ m, s.adminOf oPARTITION_SCRUB p.val = some m →
          ∃ u : Chip, exec (.partitionScrubComplete p) s = .next (s.after (u.endPacket m.id .ok 0)) ∧ u.pstate p.val = psSCRUBBED
            ∧ u = { s.toChip with regs := u.regs, pool := u.pool }))
  ∧ (∀ s : State,
      (∃ u : Chip, exec .trngHealthFail s = .next (s.after u) ∧ u.trngFail = true ∧ u.errSeq = s.errSeq + 1
        ∧ u.flag A.KEY_STATUS F.KEY_STATUS_TRNG_FAIL_SEEN = true)
      ∧ (s.trngFail = false → exec .trngHealthPass s = .next (s.after s.toChip))
      ∧ (s.trngFail = true → s.drbgUse = [] → ∃ u : Chip, exec .trngHealthPass s = .next (s.after u) ∧ u.trngFail = false
          ∧ u = { s.toChip with regs := u.regs }))
  ∧ (∀ (vf : Option (Fin 64)) (q : SpdmReq) (s : State),
      (∀ p, vf = some p → s.pstate p.val = psFREE → exec (.spdmRequest vf q) s = .next s)
      ∧ ((∀ p, vf = some p → s.pstate p.val ≠ psFREE) →
          ∃ code body, exec (.spdmRequest vf q) s = .next { s with out := .spdm (vf.map (·.val)) code body :: s.out }
            ∧ ∀ i raw, q = .measurement i raw →
                (mayMeasure (vf.map (·.val)) i = false ∨ (5 ≤ i ∧ (i < 16 ∨ 80 ≤ i)) → code = 0x7F ∧ body = [])
                ∧ (mayMeasure (vf.map (·.val)) i = true → 16 ≤ i → i < 80 →
                    code = 0x60 ∧ body = (if raw then s.partitionRecord (i - 16) else bytesOfNat 64 (Config.sha512 (s.partitionRecord (i - 16)))))))

/-- FLIT_RECEIVE, FLIT_TRANSMIT, REPLAY_TIMER_EXPIRY, LINK_TADPOLE, SIGNAL_DETECT, SIGNAL_LOST, TRAINING_TIMER_EXPIRY, BACKOFF_EXPIRY,
PORT_RETRAIN, TRAIN_MSG_RECEIVE, LOCK, SELF_TEST_DONE, SPARE_STEER_DONE, KEY_EXCHANGE_DONE, LTSSM_DONE, IDE_SETUP_DONE, IDE_INTEGRITY_FAILURE,
IDE_KM_QUERY, K_SET_GO, K_SET_STOP and KEY_PROG (R308, R315, R320, R322, R324, R327 to R331, R338, R341). An event takes the first VALID entry for the state and the event, and the state becomes its NEXT;
without an entry a port in service counts it and one out of service goes DOWN. An action that is not under way ends in nothing. -/
def Obligations.LinksFollowTheirProgram : Prop :=
  (∀ (s : Chip) (n ev code : Nat), s.mode n ≠ 0 →
      (s.trainEntry n (s.trainState n) ev code = none → s.inService n = true →
        s.trainEvent n ev code = s.count (A.PRT_STATUS n) F.PRT_STATUS_UNMATCHED)
      ∧ (s.trainEntry n (s.trainState n) ev code = none → s.inService n = false → n < 128 → (s.trainEvent n ev code).trainState n = 0)
      ∧ ∀ a, s.trainEntry n (s.trainState n) ev code = some a → s.rd a F.PRT_TRAIN_ACTION = 0 → n < 128 →
          ∃ u : Chip, s.trainEvent n ev code = u ∧ u.trainState n = s.rd a F.PRT_TRAIN_NEXT
            ∧ u = { s with regs := u.regs, timers := u.timers }
            ∧ (s.trainTimer n (s.rd a F.PRT_TRAIN_TIMER) ≠ 0 →
                u.due (.training n) = some (s.raw + us (s.trainTimer n (s.rd a F.PRT_TRAIN_TIMER)))))
  ∧ (∀ (n : Fin 128) (s : State),
      exec (.signalDetect n) s = .next (s.after (s.trainEvent n.val tevSIGNAL 0))
      ∧ exec (.signalLost n) s = .next (s.after (s.trainEvent n.val tevSIGNAL_LOST 0))
      ∧ (∀ c, s.expire (.training n.val) = some c → exec (.trainingTimerExpiry n) s = .next (s.after (c.trainEvent n.val tevTIMER 0)))
      ∧ (s.expire (.training n.val) = none → exec (.trainingTimerExpiry n) s = .next (s.after s.toChip))
      ∧ (∀ c, s.expire (.backoff n.val) = some c → exec (.backoffExpiry n) s = .next (s.after (c.enable n.val)))
      ∧ (s.expire (.backoff n.val) = none → exec (.backoffExpiry n) s = .next (s.after s.toChip))
      ∧ (∀ src : Source, src.central → s.serves src (A.PRT_CTL n.val) → exec (.portRetrain src n) s = .next (s.after
          (if s.mode n.val = 0 then s.logReg .busy .portArray (A.PRT_CTL n.val) else s.retrain n.val)))
      ∧ ∀ m : TrainMsg,
          (trainMsgOk m = false ∨ (s.port n.val).rxTrainSeq = some m.seq → exec (.trainMsgReceive n m) s = .next (s.after s.toChip))
          ∧ (trainMsgOk m = true → (s.port n.val).rxTrainSeq ≠ some m.seq → 3 ≤ m.code →
              exec (.trainMsgReceive n m) s = .next (s.after ((s.modPort n.val (fun p => { p with rxTrainSeq := some m.seq })).trainEvent
                n.val tevMSG_IN m.code))))
  ∧ (∀ (c : Instr) (act : Nat) (n : Fin 128) (s : State),
      (c = .lock n ∧ act = tactADAPT) ∨ (∃ f, c = .selfTestDone n f ∧ act = tactSELF_TEST) ∨ (∃ ok, c = .spareSteerDone n ok ∧ act = tactSPARE)
        ∨ (∃ ok, c = .keyExchangeDone n ok ∧ act = tactKEY_EXCHANGE) ∨ (∃ ok w, c = .ltssmDone n ok w ∧ act = tactLTSSM)
        ∨ (∃ ok, c = .ideSetupDone n ok ∧ act = tactIDE_SETUP) →
      ((s.port n.val).busy ≠ some act → exec c s = .next (s.after s.toChip))
      ∧ ((s.port n.val).busy = some act → ∃ (u : Chip) (ev : Nat), exec c s = .next (s.after (u.trainEvent n.val ev 0))
          ∧ (u.port n.val).busy = none ∧ u.pool = s.pool ∧ u.seq = s.seq
          ∧ (c = .lock n → ev = tevLOCK ∧ u.regs = s.regs)
          ∧ (∀ f, c = .selfTestDone n f → (u.port n.val).failed = f.val ∧ (f.val = 0 → ev = tevCHECK_PASS ∧ u.rd (A.PRT_STATUS n.val) F.PRT_STATUS_LANES = 4
              ∧ u.flag (A.PRT_STATUS n.val) F.PRT_STATUS_DEGRADED = false) ∧ (f.val ≠ 0 → ev = tevLANE_FAIL))
          ∧ (∀ ok lane, c = .spareSteerDone n ok → (upFrom 0 4).find? (fun j => bitAt (s.port n.val).failed j) = some lane →
              (ok = false → ev = tevCHECK_FAIL)
              ∧ (ok = true → u.flag (A.PRT_STATUS n.val) F.PRT_STATUS_SPARE_IN_USE = true ∧ u.rd (A.PRT_STATUS n.val) F.PRT_STATUS_SPARE_LANE = lane
                  ∧ (u.port n.val).failed = putBit (s.port n.val).failed lane false
                  ∧ ev = (if putBit (s.port n.val).failed lane false = 0 then tevCHECK_PASS else tevCHECK_FAIL)))
          ∧ (c = .keyExchangeDone n true → ev = tevCHECK_PASS ∧ u.flag (A.PRT_KEY_STATUS n.val) F.PRT_KEY_STATUS_KEYED = true
              ∧ u.rd (A.PRT_KEY_STATUS n.val) F.PRT_KEY_STATUS_PHASE = 0 ∧ u.rd (A.PRT_KEY_STATUS n.val) F.PRT_KEY_STATUS_GROUPS = 0)
          ∧ (c = .keyExchangeDone n false → ev = tevCHECK_FAIL ∧ u.flag (A.PRT_STATUS n.val) F.PRT_STATUS_KEY_FAIL_SEEN = true
              ∧ u.errSeq = s.errSeq + 1)
          ∧ (∀ ok w, c = .ltssmDone n ok w → ev = (if ok then tevCHECK_PASS else tevCHECK_FAIL)
              ∧ (ok = true → w < 16 → u.rd (A.PRT_STATUS n.val) F.PRT_STATUS_LANES = w % 2 ^ F.PRT_STATUS_LANES.width))
          ∧ (∀ ok, c = .ideSetupDone n ok → ev = (if ok then tevCHECK_PASS else tevCHECK_FAIL) ∧ (ok = true → (u.port n.val).gangUp = true))))
  ∧ (∀ (n : Fin 128) (f : Flit) (full : Bool) (s : State), f.kind ≠ 2 → f.fecCorr = 0 →
      (s.inService n.val = false → ∃ u : Chip, exec (.flitReceive n f full) s = .next (s.after u) ∧ u = { s.toChip with regs := u.regs })
      ∧ (s.inService n.val = true → f.fecOk = false ∨ f.kind = 3 ∨ f.rsv = true →
          ∃ u : Chip, exec (.flitReceive n f full) s = .next (s.after u) ∧ (u.port n.val).rxBad = true ∧ (u.port n.val).rxGroup = []
            ∧ ((s.port n.val).rxBad = false → (u.port n.val).nakOwed = true) ∧ u = { s.toChip with regs := u.regs, ports := u.ports }
            ∧ u.rd (A.PRT_ERR_CNT n.val) F.PRT_ERR_CNT_CW_UNCORR
                = min (s.rd (A.PRT_ERR_CNT n.val) F.PRT_ERR_CNT_CW_UNCORR + 1) (2 ^ F.PRT_ERR_CNT_CW_UNCORR.width - 1))
      ∧ (s.inService n.val = true → f.fecOk = true → f.kind = 0 → f.rsv = false → f.seq = (s.port n.val).rxExpect →
          (f.sealWord = none → ∃ u : Chip, exec (.flitReceive n f full) s = .next (s.after u)
            ∧ u.port n.val = { s.port n.val with rxBad := false, rxExpect := seqNext f.seq, rxGroup := (s.port n.val).rxGroup ++ [f] }
            ∧ u = { s.toChip with regs := u.regs, ports := u.ports })
          ∧ ∀ x, f.sealWord = some x → x.tagOk = true → x.rsv = false → x.groupLen = 1 → x.ackValid = false → x.nak = false →
              (s.port n.val).rxGroup = [] → (s.port n.val).rxUnits = [] → (s.port n.val).rxPacket = none → (∀ u ∈ f.units, u % 256 = 0) →
              ∃ u : Chip, exec (.flitReceive n f full) s = .next (s.after u)
                ∧ u.port n.val = { s.port n.val with rxBad := false, rxExpect := seqNext f.seq, rxGroup := [], rxLast := some f.seq, ackOwed := true
                                                     tagFails := 0, rxPhase := f.phase }
                ∧ u = { s.toChip with regs := u.regs, ports := u.ports }))
  ∧ (∀ (n : Fin 128) (s : State), (s.port n.val).rotate = none →
      (∀ m rest, (s.port n.val).txTrain = m :: rest → exec (.flitTransmit n) s = .next (s.after
        ((s.emitOut (.flit n.val { kind := 2, msg := m })).modPort n.val (fun x => { x with txTrain := rest }))))
      ∧ ((s.port n.val).txTrain = [] → s.inService n.val = false → exec (.flitTransmit n) s = .next (s.after s.toChip))
      ∧ ((s.port n.val).txTrain = [] → s.inService n.val = true → (s.port n.val).replayAt = none →
          ((s.port n.val).txUnits = [] → (s.port n.val).ackOwed = false → (s.port n.val).nakOwed = false →
            exec (.flitTransmit n) s = .next (s.after (s.emitOut (.flit n.val
              { seq := (s.port n.val).txSeq, kind := 1, phase := s.rd (A.PRT_KEY_STATUS n.val) F.PRT_KEY_STATUS_PHASE }))))
          ∧ ((s.port n.val).txUnits ≠ [] → (s.port n.val).sent.length < 128 → (s.port n.val).txCtr + 1 < 2 ^ 31 →
              let sealMax := s.rd (A.PRT_LINK_CFG n.val) F.PRT_LINK_CFG_SEAL_MAX
              let r := flitUnits (s.port n.val).txUnits (decide (sealMax ≤ (s.port n.val).txGroup + 1))
              ∃ (u : Chip) (f : Flit), exec (.flitTransmit n) s = .next (s.after u) ∧ u.out = .flit n.val f :: s.out ∧ f.kind = 0
                ∧ f.seq = (s.port n.val).txSeq ∧ f.units = r.1.map (·.unit) ∧ f.sealWord.isSome = r.2
                ∧ (u.port n.val).txSeq = seqNext (s.port n.val).txSeq ∧ (u.port n.val).txUnits = (s.port n.val).txUnits.drop r.1.length)))
  ∧ (∀ (n : Fin 128) (s : State),
      (s.expire (.replay n.val) = none → exec (.replayTimerExpiry n) s = .next (s.after s.toChip))
      ∧ ∀ c f rest, s.expire (.replay n.val) = some c → (s.port n.val).sent = f :: rest →
          let limit := c.rd (A.PRT_LINK_CFG n.val) F.PRT_LINK_CFG_REPLAY_LIMIT
          (limit ≤ (s.port n.val).stalls → exec (.replayTimerExpiry n) s = .next (s.after (c.replayLimit n.val)))
          ∧ ((s.port n.val).stalls < limit → ∃ u : Chip, exec (.replayTimerExpiry n) s = .next (s.after u)
              ∧ u.port n.val = { s.port n.val with replayAt := some f.seq, stalls := (s.port n.val).stalls + 1 }
              ∧ u.running (.replay n.val) = true))
  ∧ (∀ (n : Fin 128) (p : Packet) (s : State), s.accepts p → p.cls = clsLINK →
      let v := s.taken p
      (exec (.linkTadpole n p .confirm) s = .next (s.after (if (v.port n.val).update = .asked
          then v.modPort n.val (fun x => { x with update := .switched }) else v)))
      ∧ (∃ u : Chip, exec (.linkTadpole n p .ask) s = .next (s.after (u.sendLink n.val { cls := clsLINK, src := v.selfEid, body := 2 }))
          ∧ (u.port n.val).update = .switched ∧ u.flag (A.PRT_KEY_STATUS n.val) F.PRT_KEY_STATUS_UPDATING = true
          ∧ u = { v with regs := u.regs, ports := u.ports })
      ∧ exec (.linkTadpole n p .fail) s = .next (s.after ((v.goDown n.val 0).portSet n.val F.PRT_STATUS_TRAIN_STATE 0)))
  ∧ (∀ (stream : Nat) (s : State),
      (∃ t : State, exec (.ideIntegrityFailure stream) s = .next t ∧ stream ∈ t.power.insecure ∧ t.errSeq = s.errSeq + 1)
      ∧ exec (.ideKmQuery stream) s = .next { s with out := .ideKm 0 0 :: s.out }
      ∧ exec (.kSetGo stream) s = .next { s with
          power := { s.power with insecure := s.power.insecure.filter (· != stream) }, out := .ideKm 4 0 :: s.out }
      ∧ exec (.kSetStop stream) s = .next { s with out := .ideKm 5 0 :: s.out }
      ∧ exec (.keyProg stream) s = .next { s with out := .ideKm 2 1 :: s.out })

/-- ARM, DISARM, EPOCH_DRAIN_CLOSE, OUTPUT_SELECT, REASSEMBLY_TIMEOUT, FENCE_HOLD_TIMEOUT, FENCE_DONE, SOURCE_FENCE_EXPIRY and REFILL_BOUNDARY
(R367, R368, R371, R372, R386, R398, R410, R446, R539). The inactive version goes from CLOSED to ARMED and back, is BUSY in any other state,
and is not armed over an entry that fails its check; a DRAINING one closes once it has drained. An output sends the packet chosen; one that
cannot be read is discarded. What is held too long is discarded, counted and answered with TIMEOUT. A fence that is answered, or never is,
completes. -/
def Obligations.SwitchTimesOutAndEpochsTurn : Prop :=
  (∀ (src : Source) (s : State), src.central → s.serves src A.RTE_EPOCH_CTL →
      (∀ sub a, s.badEntry s.shadowV = some (sub, a) → exec (.arm src) s = .next (s.after (s.logReg .tableCheck sub a)))
      ∧ (s.badEntry s.shadowV = none →
          (s.otherState = 0 → ∃ u : Chip, exec (.arm src) s = .next (s.after u) ∧ u.otherState = 1 ∧ u = { s.toChip with regs := u.regs })
          ∧ (s.otherState ≠ 0 → exec (.arm src) s = .next (s.after (s.logReg .busy .routeUnit A.RTE_EPOCH_CTL))))
      ∧ (s.otherState = 1 → ∃ u : Chip, exec (.disarm src) s = .next (s.after u) ∧ u.otherState = 0 ∧ u = { s.toChip with regs := u.regs })
      ∧ (s.otherState ≠ 1 → exec (.disarm src) s = .next (s.after (s.logReg .busy .routeUnit A.RTE_EPOCH_CTL))))
  ∧ (∀ s : State,
      (s.otherState ≠ 2 ∨ s.rd A.RTE_EPOCH F.RTE_EPOCH_DRAIN ≠ 0 → exec .epochDrainClose s = .next (s.after s.toChip))
      ∧ (s.otherState = 2 → s.rd A.RTE_EPOCH F.RTE_EPOCH_DRAIN = 0 → s.homedRanges s.shadowV = [] → s.pool.ops = [] →
          ∃ u : Chip, exec .epochDrainClose s = .next (s.after u) ∧ u.otherState = 0 ∧ u.running .drainHold = false ∧ u.active = s.active
            ∧ u.pool = s.pool))
  ∧ (∀ (o : Fin 128) (ecc : EccResult) (s : State),
      (s.inService o.val = false ∨ s.inEaves = true ∨ s.selectOutput o.val = none → exec (.outputSelect o ecc) s = .next (s.after s.toChip))
      ∧ ∀ v sl, s.inService o.val = true → s.inEaves = false → s.selectOutput o.val = some (v, sl) →
          exec (.outputSelect o .failed) s = .next (s.after (v.packetLost sl))
          ∧ (v.mode o.val ≠ modeD → ∃ u : Chip, exec (.outputSelect o .clean) s = .next (s.after (if u.atDestEdge sl.pkt then u.flowApplied sl.pkt else u))
              ∧ (u.port o.val).txUnits.map (·.unit) = (v.port o.val).txUnits.map (·.unit) ++ sl.pkt.units ∧ u = { v with ports := u.ports }))
  ∧ (∀ (id : Nat) (s : State),
      (s.expire (.reassembly id) = none → exec (.reassemblyTimeout id) s = .next (s.after s.toChip))
      ∧ (s.expire (.fenceHold id) = none → exec (.fenceHoldTimeout id) s = .next (s.after s.toChip))
      ∧ ∀ c sl, s.slot? id = some sl →
          (s.expire (.reassembly id) = some c → ∃ w : Chip, exec (.reassemblyTimeout id) s
              = .next (s.after ((w.answerDiscard (some (sl.pkt, .timeout))).settle)) ∧ w.slot? id = none
            ∧ w.rd A.SWC_DROPS F.SWC_DROPS_REASM_TIMEOUTS
                = min (s.rd A.SWC_DROPS F.SWC_DROPS_REASM_TIMEOUTS + 1) (2 ^ F.SWC_DROPS_REASM_TIMEOUTS.width - 1))
          ∧ (s.expire (.fenceHold id) = some c → sl.pkt.partition < 64 → ∃ w : Chip, exec (.fenceHoldTimeout id) s
              = .next (s.after ((w.answerDiscard (some (sl.pkt, .timeout))).settle)) ∧ w.slot? id = none ∧ s.errSeq < w.errSeq
            ∧ w.rd A.RTE_DROPS1 F.RTE_DROPS1_FENCE_TIMEOUT
                = min (s.rd A.RTE_DROPS1 F.RTE_DROPS1_FENCE_TIMEOUT + 1) (2 ^ F.RTE_DROPS1_FENCE_TIMEOUT.width - 1)))
  ∧ (∀ (s : Chip) (k g : Nat), (s.flow k).held = [] →
      ∃ w : Chip, s.fenceComplete k g = w.settle ∧ (w.flow k).out = (s.flow k).out.filter (fun e => e.1 != g)
        ∧ w.running (.sourceFence k g) = false ∧ w = { s with flows := w.flows, timers := w.timers })
  ∧ (∀ (p : Packet) (s : State), s.accepts p →
      let v := s.taken p
      let g := bits p.body 0 2
      let k := flowKey (v.sourceOf p.dst) (bits p.body 2 10)
      ((v.flow k).out.any (fun e => e.1 == g) = true → exec (.fenceDone p) s = .next (s.after ((v.fenceComplete k g).flowApplied p)))
      ∧ ((v.flow k).out.any (fun e => e.1 == g) = false → exec (.fenceDone p) s = .next (s.after (v.flowApplied p))))
  ∧ (∀ (port : Fin 129) (edge : Fin 1024) (g : Fin 4) (s : State),
      let k := flowKey port.val edge.val
      (s.expire (.sourceFence k g.val) = none → exec (.sourceFenceExpiry port edge g) s = .next (s.after s.toChip))
      ∧ ∀ c, s.expire (.sourceFence k g.val) = some c → exec (.sourceFenceExpiry port edge g) s = .next (s.after (c.fenceComplete k g.val)))
  ∧ (∀ s : State, s.align.slew = 0 → s.rd (A.TMG_CFG 1) F.TMG_CFG_REFILL_US ≠ 0 → s.tb + s.toRefill < 2 ^ 64 →
      ∃ t : State, exec .refillBoundary s = .next t ∧ t.pending = s.pending ∧ t.tb = s.tb + s.toRefill
        ∧ t.tb % (1000 * s.rd (A.TMG_CFG 1) F.TMG_CFG_REFILL_US) = 0 ∧ t.pool = s.pool ∧ t.seq = s.seq
        ∧ (s.regs.keysIn (A.TMG_METER_RATE 0 0) (A.TMG_METER_RATE 0 0 + 32 * 1024) = [] →
            s.regs.keysIn (A.TMG_OUT_RATE 0 0 0) (A.TMG_OUT_RATE 0 0 0 + 32 * 8192) = [] → s.traffic.written = [] →
            t.rd A.TMG_STATUS F.TMG_STATUS_REFILLS = (s.rd A.TMG_STATUS F.TMG_STATUS_REFILLS + 1) % 2 ^ F.TMG_STATUS_REFILLS.width))

/-- SHADOW_MISSING_TIMEOUT, SHADOW_DIGEST_TIMEOUT, STUCK_HANDSHAKE_TIMEOUT and STUCK_STAGE_RESET (R72, R458, R459, R496): a unit or a digest whose
counterpart never came is let go, counted in MISSING and recorded; a stuck stage leaves one record with TIMEOUT and ADDR_KIND 8, and Newt asks
for the reset of the planes that hold one. -/
def Obligations.MissingCounterpartsAreRecorded : Prop :=
  (∀ (part : Fin 64) (coll off : Nat) (s : State),
      (s.seq.shadows = [] → s.seq.refs = [] → exec (.shadowMissingTimeout part coll off) s = .next (s.after s.toChip))
      ∧ ∀ x : ShadowUnit, s.seq.shadows = [x] → x.part = part.val → x.collId = coll → x.off = off →
          ∃ u : Chip, exec (.shadowMissingTimeout part coll off) s = .next (s.after u) ∧ u.seq = { s.seq with shadows := [] }
            ∧ u.errSeq = s.errSeq + 1 ∧ u.raw = max s.raw x.due
            ∧ u.rd A.ERR_SHADOW_STATUS F.ERR_SHADOW_STATUS_MISSING
                = min (s.rd A.ERR_SHADOW_STATUS F.ERR_SHADOW_STATUS_MISSING + 1) (2 ^ F.ERR_SHADOW_STATUS_MISSING.width - 1))
  ∧ (∀ (tag : Nat) (s : State),
      ((∀ d ∈ s.seq.digests, d.own = false ∨ d.tag ≠ tag) → exec (.shadowDigestTimeout tag) s = .next (s.after s.toChip))
      ∧ ∀ d : ShadowDigest, s.seq.digests = [d] → d.own = true → d.tag = tag →
          ∃ u : Chip, exec (.shadowDigestTimeout tag) s = .next (s.after u) ∧ u.seq = { s.seq with digests := [] }
            ∧ u.errSeq = s.errSeq + 1 ∧ u.raw = max s.raw d.due
            ∧ u.rd A.ERR_SHADOW_STATUS F.ERR_SHADOW_STATUS_MISSING
                = min (s.rd A.ERR_SHADOW_STATUS F.ERR_SHADOW_STATUS_MISSING + 1) (2 ^ F.ERR_SHADOW_STATUS_MISSING.width - 1))
  ∧ (∀ (stage : Nat) (plane : Plane) (s : State),
      ∃ u : Chip, exec (.stuckHandshakeTimeout stage plane) s = .next (s.after u) ∧ plane.num ∈ u.power.stuck ∧ u.errSeq = s.errSeq + 1
        ∧ (∀ k ∈ s.power.stuck, k ∈ u.power.stuck) ∧ u.pool = s.pool ∧ u.seq = s.seq)
  ∧ (∀ s : State, exec .stuckStageReset s
      = .next (s.after (s.power.stuck.foldl (fun u p => u.requestReset p 4) { s.toChip with power := { s.power with stuck := [] } })))

/-! ### Management -/

/-- IDENTIFY, SENSOR_READ, LOG_READ, LOG_SUBSCRIBE, SAMPLE_SUBSCRIBE, SPDM, REG_READ, REG_WRITE, CMD_SUBMIT, DECLARE, PLANE_RESET, IMAGE_BEGIN,
IMAGE_CHUNK, IMAGE_END, SVN_ADVANCE, ANCHOR_SET, ANCHOR_CLEAR, NET_CONFIG and POLICY_SET (R470, R471, R474 to R478, R481, R491, R492). A message
waits behind one that runs; a header that fails, or a role that may not, is refused with a record; otherwise the command has the effect
Table 15.6 gives it and is answered once. The places of the bytes in a reply are the model's choice (log entry 52). -/
def Obligations.ManagementCommandsAct : Prop :=
  ∀ (c : Instr) (n : Fin 8) (m : MgmtMsg) (s : State), isMessage c n m →
    (s.newtUp = false ∨ s.newt.sessions.find n.val = none → exec c s = .next (s.after s.toChip))
    ∧ ∀ x, s.newtUp = true → s.newt.sessions.find n.val = some x →
      let v := s.startTimer (.session n.val) s.idleLimit
      let d := m.data
      let answered (w : Chip) (st : Status) (b : List Byte) : Chip := w.emitOut (.mgmt n.val m.code false st.code m.head.tag b)
      let reply (w : Chip) (st : Status) (b : List Byte) : Prop := exec c s = .next (s.after (answered w st b))
      let refused (st : Status) : Prop := ∃ w : Chip, reply w st [] ∧ w.errSeq = s.errSeq + 1 ∧ w = { v with regs := w.regs, errSeq := w.errSeq }
      (x.running.isSome = true ∨ x.waiting ≠ [] →
        exec c s = .next (s.after (v.modSession n.val (fun y => { y with waiting := y.waiting ++ [m] }))))
      ∧ (x.running = none → x.waiting = [] →
        (∀ st, m.head.fails d = some st → refused st)
        ∧ (m.head.fails d = none → s.mayIssue x.role m.code = false → refused .accessDenied)
        ∧ (m.head.fails d = none → s.mayIssue x.role m.code = true →
          (m.code = mcIDENTIFY →
            (d = [] → reply v .ok (bytesOfNat 8 (s.rd A.GLB_SERIAL F.GLB_SERIAL_SERIAL)
              ++ bytesOfNat 4 (s.rd A.NWT_VERSION F.NWT_VERSION_IMAGE_VERSION) ++ bytesOfNat 1 (s.rd A.NWT_STATUS F.NWT_STATUS_IMAGE_SVN)
              ++ bytesOfNat 1 s.fusedSvn ++ bytesOfNat 1 s.newtState))
            ∧ (d ≠ [] → refused .formatInvalid))
          ∧ (m.code = mcSENSOR_READ →
            let first := leAt d 0 2
            let k := leAt d 2 2
            (d.length ≠ 5 ∨ 2 ≤ leAt d 4 1 → refused .formatInvalid)
            ∧ (d.length = 5 → leAt d 4 1 < 2 → 340 < k ∨ (0 < k ∧ 340 < first + k) → refused .lengthRange)
            ∧ (d.length = 5 → leAt d 4 1 < 2 → k = 0 ∨ first + k ≤ 340 →
                ∃ w : Chip, reply w .ok ((upFrom first k).flatMap (fun i => bytesOfNat 16 (s.regs.span (A.NWT_SENSOR i) 2)))
                  ∧ w = { v with newt := { s.newt with
                      seen := if leAt d 4 1 = 1 then s.newt.seen.filter (fun i => !(decide (first ≤ i ∧ i < first + k))) else s.newt.seen } }))
          ∧ (m.code = mcLOG_READ →
            (d.length ≠ 11 ∨ 2 ≤ leAt d 10 1 → refused .formatInvalid)
            ∧ (d.length = 11 → leAt d 10 1 < 2 → 1024 < leAt d 8 2 → refused .lengthRange)
            ∧ (d.length = 11 → leAt d 10 1 < 2 → leAt d 8 2 ≤ 1024 →
                reply v .ok ((((if leAt d 10 1 = 0 then s.newt.ring else s.newt.persist).filter (fun r => Nat.ble (leAt d 0 8) (recSeq r))).take
                  (leAt d 8 2)).flatMap (bytesOfNat 64))))
          ∧ (∀ samples : Bool, m.code = (if samples then mcSAMPLE_SUBSCRIBE else mcLOG_SUBSCRIBE) →
            let sub (w : Chip) := if samples then w.newt.sampleSub else w.newt.logSub
            let other := if samples then s.newt.logSub else s.newt.sampleSub
            (d.length ≠ 1 ∨ 2 ≤ leAt d 0 1 → refused .formatInvalid)
            ∧ (d.length = 1 → leAt d 0 1 = 1 → ∀ o t, sub s.toChip = some (o, t) → o ≠ n.val → refused .busy)
            ∧ (d.length = 1 → leAt d 0 1 = 1 → (∀ o t, sub s.toChip = some (o, t) → o = n.val) →
                ∃ w : Chip, reply w .ok [] ∧ sub w = some (n.val, m.head.tag) ∧ (if samples then w.newt.logSub else w.newt.sampleSub) = other
                  ∧ w = { v with newt := w.newt } ∧ w.newt.sessions = s.newt.sessions)
            ∧ (d.length = 1 → leAt d 0 1 = 0 →
                ∃ w : Chip, reply w .ok [] ∧ w = { v with newt := w.newt } ∧ w.newt.sessions = s.newt.sessions
                  ∧ ∀ o t, sub w = some (o, t) ↔ sub s.toChip = some (o, t) ∧ o ≠ n.val))
          ∧ (m.code = mcSPDM → reply v .ok (s.spdmReply none (spdmParse d)).2)
          ∧ (m.code = mcREG_READ →
            let off := leAt d 0 4
            (d.length ≠ 6 ∨ off % 8 ≠ 0 → refused .formatInvalid)
            ∧ (d.length = 6 → off % 8 = 0 → 512 < leAt d 4 2 ∨ 0x4000000 < off + 8 * leAt d 4 2 → refused .lengthRange)
            ∧ (d.length = 6 → off % 8 = 0 → leAt d 4 2 = 1 → off + 8 ≤ 0x4000000 →
                (∀ st, s.unserved off = some st → refused st)
                ∧ (s.unserved off = none → reply (v.busRead .newt off 8).1 .ok (bytesOfNat 8 (v.busRead .newt off 8).2))))
          ∧ (m.code = mcREG_WRITE →
            let off := leAt d 0 4
            (d.length ≠ 24 ∨ leAt d 4 4 ≠ 0 ∨ off % 8 ≠ 0 → refused .formatInvalid)
            ∧ (d.length = 24 → leAt d 4 4 = 0 → off % 8 = 0 →
                (∀ st, s.unserved off = some st → refused st)
                ∧ (s.unserved off = none → s.site off = none → refused .accessDenied)
                ∧ ∀ at_, s.unserved off = none → s.site off = some at_ →
                    ∃ (w : Chip) (st : Status), w = v.writeWord .newt false at_ off (leAt d 8 8) (leAt d 16 8) ∧ reply w st []
                      ∧ (w.errSeq = s.errSeq → st = .ok)))
          ∧ (m.code = mcCMD_SUBMIT →
            let slot := natOfBytes d
            (d.length ≠ 64 → refused .formatInvalid)
            ∧ (d.length = 64 → s.flag A.GLB_BOOT_STATUS F.GLB_BOOT_STATUS_CP_RESET = true → refused .busy)
            ∧ (d.length = 64 → s.flag A.GLB_BOOT_STATUS F.GLB_BOOT_STATUS_CP_RESET = false → s.asleep = true → refused .waking)
            ∧ (d.length = 64 → s.flag A.GLB_BOOT_STATUS F.GLB_BOOT_STATUS_CP_RESET = false → s.asleep = false →
                s.scrubbing (slotQueue slot / 16) = false →
                ∃ w : Chip, exec c s = .next (s.after w) ∧ w.newt.sessions.find n.val = some { x with running := some m.head.tag }
                  ∧ w.seq = { s.seq with nextCmd := s.seq.nextCmd + 1, cmds := s.seq.cmds ++
                      [{ id := s.seq.nextCmd, queue := newtQueue, part := slotQueue slot / 16, origin := .newt n.val, slot := slot, cur := slot }] }
                  ∧ w = { v with newt := w.newt, seq := w.seq }))
          ∧ (m.code = mcDECLARE →
            let i := leAt d 2 2
            let caches := s.flag (A.HOM_HOST i) F.HOM_HOST_ASSIGNED && s.flag (A.HOM_HOST i) F.HOM_HOST_CACHING
            (d.length ≠ 4 ∨ leAt d 1 1 ≠ 0 ∨ 2 ≤ leAt d 0 1 ∨ (leAt d 0 1 = 0 ∧ 16384 ≤ i) ∨ (leAt d 0 1 = 1 ∧ 32 ≤ i) → refused .formatInvalid)
            ∧ (d.length = 4 → leAt d 1 1 = 0 → leAt d 0 1 = 0 → i < 16384 → s.unserved (A.HOM_HOST i) = none →
                (caches = false → refused .formatInvalid) ∧ (caches = true → s.hostFailed i = true → refused .busy)
                ∧ (caches = true → s.hostFailed i = false → reply (v.declareFailed i) .ok []))
            ∧ (d.length = 4 → leAt d 1 1 = 0 → leAt d 0 1 = 1 → i < 32 → s.unserved (A.TIR_TRAY_STATUS i) = none →
                (s.trayState i = trayLOST → refused .busy) ∧ (s.trayState i ≠ trayLOST → reply (v.loseTray i) .ok [])))
          ∧ (m.code = mcPLANE_RESET →
            (d.length ≠ 1 ∨ 3 ≤ leAt d 0 1 → refused .formatInvalid)
            ∧ (d.length = 1 → leAt d 0 1 < 2 → reply (v.requestReset (leAt d 0 1) 3) .ok [])
            ∧ (d.length = 1 → leAt d 0 1 = 2 → exec c s = .next (s.after ((answered v .ok []).mgmtReset 3 3))))
          ∧ (m.code = mcIMAGE_BEGIN →
            (d.length ≠ 65536 → refused .formatInvalid)
            ∧ (d.length = 65536 → s.newt.update.isSome = true → refused .busy)
            ∧ (d.length = 65536 → s.newt.update = none →
                (∀ k, s.headFails d = some k → refused (if k = 4 then .keyRetired else .formatInvalid))
                ∧ (s.headFails d = none → ∃ w : Chip, reply w .ok [] ∧ w.newtState = nsUPDATING ∧ w.errSeq = s.errSeq + 1
                    ∧ w.flag A.NWT_STATUS F.NWT_STATUS_IMAGE_INVALID = true ∧ w = { v with newt := w.newt, regs := w.regs, errSeq := w.errSeq }
                    ∧ w.newt = { s.newt with slot := s.newt.slot.erase 0, update := some { who := n.val, head := d } })))
          ∧ (m.code = mcIMAGE_CHUNK →
            (s.newt.update = none → refused .busy)
            ∧ ∀ y, s.newt.update = some y →
                let i := leAt d 0 4
                let bad : Prop := d.length ≠ 65540 ∨ i = 0 ∨ imgChunks y.head ≤ i ∨ i ∈ y.got ∨ chunkMatches y.head i (d.drop 4) = false
                (y.who ≠ n.val → refused .busy)
                ∧ (y.who = n.val → bad → refused .formatInvalid)
                ∧ (y.who = n.val → ¬ bad → ∃ w : Chip, reply w .ok [] ∧ w = { v with newt := w.newt }
                    ∧ w.newt = { s.newt with slot := s.newt.slot.put i (d.drop 4), update := some { y with got := i :: y.got } }))
          ∧ (m.code = mcIMAGE_END →
            (s.newt.update = none → refused .busy)
            ∧ ∀ y, s.newt.update = some y →
                let missing := imgChunks y.head - 1 - y.got.length
                let done := s.newt.slot.put 0 y.head
                (y.who ≠ n.val → refused .busy)
                ∧ (y.who = n.val → d.length ≠ 1 ∨ 2 ≤ leAt d 0 1 → refused .formatInvalid)
                ∧ (y.who = n.val → d.length = 1 → leAt d 0 1 < 2 →
                    (missing ≠ 0 → ∃ w : Chip, reply w .formatInvalid (bytesOfNat 1 missing) ∧ w.errSeq = s.errSeq + 1 ∧ w.newt = s.newt)
                    ∧ (missing = 0 → (∀ f, s.imageFails done = some f → ∃ w : Chip, reply w .formatInvalid (bytesOfNat 1 0)
                        ∧ w.errSeq = s.errSeq + 1 ∧ w.newt = { s.newt with slot := done, update := none }
                        ∧ w.flag A.NWT_STATUS F.NWT_STATUS_IMAGE_INVALID = s.flag A.NWT_STATUS F.NWT_STATUS_IMAGE_INVALID))
                    ∧ (missing = 0 → s.imageFails done = none → ∃ w : Chip, w.errSeq = s.errSeq + 1
                        ∧ w.newt = { s.newt with slot := done, update := none }
                        ∧ w.newtState = (if s.recovering then nsRECOVERY else nsRUNNING)
                        ∧ w.flag A.NWT_STATUS F.NWT_STATUS_IMAGE_INVALID = false
                        ∧ exec c s = .next (s.after (if leAt d 0 1 = 1 ∨ s.recovering = true then (answered w .ok (bytesOfNat 1 0)).mgmtReset 5 9
                            else answered w .ok (bytesOfNat 1 0))))))
          ∧ (m.code = mcSVN_ADVANCE →
            let t := leAt d 0 1
            let high : Prop := s.rd A.NWT_STATUS F.NWT_STATUS_IMAGE_SVN < t
            (d.length ≠ 1 ∨ t = 0 ∨ 64 ≤ t → refused .formatInvalid)
            ∧ (d.length = 1 → 0 < t → t < 64 → t < s.fusedSvn ∨ high → refused .quota)
            ∧ (d.length = 1 → 0 < t → t < 64 → s.fusedSvn ≤ t → ¬ high →
                reply { v with newt := { s.newt with fusedSvn := t } } .ok (bytesOfNat 1 t)))
          ∧ (∀ (slot role : Nat) (f : Tab Anchor → Tab Anchor),
              (m.code = mcANCHOR_SET ∧ d.length = 72 ∧ slot = leAt d 0 1 ∧ role = leAt d 1 1 ∧ slot < 4 ∧ (role = 1 ∨ role = 2) ∧ leAt d 2 6 = 0
                  ∧ leAt d 8 64 ≠ 0 ∧ f = (fun t => t.put slot { role := role, digest := leAt d 8 64 }))
                ∨ (m.code = mcANCHOR_CLEAR ∧ d.length = 1 ∧ slot = leAt d 0 1 ∧ slot < 4 ∧ role = 0 ∧ f = (fun t => t.erase slot)) →
              let e : NvConfig := { s.newt.config with anchors := f s.newt.config.anchors, generation := s.newt.config.generation + 1 }
              (s.newt.config.hasRole 1 = true → e.hasRole 1 = false → s.enrolStrap = false → refused .busy)
              ∧ (s.newt.config.hasRole 1 = false ∨ e.hasRole 1 = true ∨ s.enrolStrap = true →
                  ∃ w : Chip, exec c s = .next (s.after ((answered w .ok []).endSessions (fun y => y.anchor == some slot)))
                    ∧ w.newt.config = e ∧ w.newt.configured = true ∧ (w.newt.copyA = some e ∨ w.newt.copyB = some e)
                    ∧ w.newt.sessions = s.newt.sessions ∧ w.errSeq = s.errSeq + 1
                    ∧ w = { v with newt := w.newt, regs := w.regs, errSeq := w.errSeq }))
          ∧ (m.code = mcANCHOR_SET → d.length ≠ 72 ∨ 4 ≤ leAt d 0 1 ∨ leAt d 1 1 = 0 ∨ 3 ≤ leAt d 1 1 ∨ leAt d 2 6 ≠ 0 ∨ leAt d 8 64 = 0 →
              refused .formatInvalid)
          ∧ (m.code = mcANCHOR_CLEAR → d.length ≠ 1 ∨ 4 ≤ leAt d 0 1 → refused .formatInvalid)
          ∧ (m.code = mcNET_CONFIG →
            (d = [] ∨ 2 ≤ leAt d 0 1 → refused .formatInvalid)
            ∧ (d ≠ [] → leAt d 0 1 < 2 →
                ∃ w : Chip, exec c s = .next (s.after ((answered w .ok []).endSessions (fun y => y.port == leAt d 0 1)))
                  ∧ w.newt.config = { s.newt.config with nets := s.newt.config.nets.put (leAt d 0 1) (d.drop 1),
                                                         generation := s.newt.config.generation + 1 }
                  ∧ w.newt.sessions = s.newt.sessions ∧ w = { v with newt := w.newt }))
          ∧ (m.code = mcPOLICY_SET →
            (m.policy.ok = false → refused .formatInvalid)
            ∧ (m.policy.ok = true → ∃ w : Chip, reply w .ok [] ∧ w.newt.sessions = s.newt.sessions ∧ w.pool = s.pool ∧ w.seq = s.seq
                ∧ w.newt.config = { s.newt.config with policy := m.policy, generation := s.newt.config.generation + 1 }
                ∧ (m.policy.thresholds = [] → s.sensors = [] → w.regs = s.regs)))))

/-- TLS_HANDSHAKE, SESSION_IDLE_TIMEOUT, SESSION_CLOSE, MAILBOX_GO, SENSOR_POLL, EVENT_RING_COPY, PERSISTENT_LOG_COPY and SAMPLE_FORWARD
(R469, R470, R480, R481, R482, R486, R487, R488). A session opens in the lowest free place for an anchor's peer, or for an enrolment, and else
is refused; it ends with its subscriptions and its update; each way a record is written. The mailbox answers over its buffer. A reading
sets the value, MIN, MAX and the threshold bits, and a change of those writes a record. The event ring takes the records the log still
holds, the persistent log those of the ring while its credit lasts, and 32 sample records go to the subscriber, or all are discarded. A write of
GO is the control host's. -/
def Obligations.SessionsMailboxAndSensors : Prop :=
  (∀ (port : Fin 2) (digest : Nat) (ok selfOk : Bool) (s : State),
      (s.newtUp = false ∨ 8 ≤ s.newt.sessions.length → exec (.tlsHandshake port digest ok selfOk) s = .next (s.after s.toChip))
      ∧ (s.newtUp = true → s.newt.sessions.length < 8 →
          let found := s.newt.config.anchors.find? (fun e => e.2.digest == digest && e.2.role != 0)
          let opens (anchor : Option Nat) (role : Role) : Prop :=
            ∃ (u : Chip) (k : Nat), exec (.tlsHandshake port digest ok selfOk) s = .next (s.after u) ∧ k < 8 ∧ s.newt.sessions.find k = none
              ∧ (∀ j, j < k → s.newt.sessions.find j ≠ none)
              ∧ u.newt = { s.newt with sessions := s.newt.sessions.put k { port := port.val, anchor := anchor, role := role } }
              ∧ u.due (.session k) = some (s.raw + s.idleLimit) ∧ u.errSeq = s.errSeq + 1
          (ok = false ∨ (s.newt.config.hasRole 1 = true ∧ found = none)
              ∨ (s.newt.config.hasRole 1 = false ∧ (s.enrolStrap = false ∨ selfOk = false)) →
            ∃ u : Chip, exec (.tlsHandshake port digest ok selfOk) s = .next (s.after u) ∧ u.errSeq = s.errSeq + 1
              ∧ u = { s.toChip with regs := u.regs, errSeq := u.errSeq, free := u.free })
          ∧ (ok = true → s.newt.config.hasRole 1 = true → ∀ slot a, found = some (slot, a) →
              opens (some slot) (if a.role = 1 then .operator else .auditor))
          ∧ (ok = true → s.newt.config.hasRole 1 = false → s.enrolStrap = true → selfOk = true → opens none .enrol)))
  ∧ (∀ (n : Fin 8) (s : State),
      (s.newt.sessions.find n.val = none → exec (.sessionClose n) s = .next (s.after s.toChip))
      ∧ (s.expire (.session n.val) = none → exec (.sessionIdleTimeout n) s = .next (s.after s.toChip))
      ∧ (∀ e, s.expire (.session n.val) = some e → exec (.sessionIdleTimeout n) s = .next (s.after (e.endSession n.val)))
      ∧ ∀ x, s.newt.sessions.find n.val = some x → ∃ u : Chip, exec (.sessionClose n) s = .next (s.after u)
          ∧ u.out = .sessionEnd n.val :: s.out ∧ u.newt.sessions = s.newt.sessions.erase n.val ∧ u.newt.sessions.find n.val = none
          ∧ u.running (.session n.val) = false ∧ (∀ tag, u.newt.logSub ≠ some (n.val, tag)) ∧ (∀ tag, u.newt.sampleSub ≠ some (n.val, tag))
          ∧ ((∀ y, s.newt.update = some y → y.who ≠ n.val) → u.newt.update = s.newt.update ∧ u.errSeq = s.errSeq + 1)
          ∧ (∀ y, s.newt.update = some y → y.who = n.val → u.newt.update = none ∧ u.errSeq = s.errSeq + 2))
  ∧ (∀ s : State, s.serves .pf A.NWT_HOST_CTL →
      let h := headOfBytes (s.hostBuf 16)
      let d := (s.hostBuf (16 + min h.2.length 69632)).drop 16
      let replies (st : Status) (k : Nat) : Prop := ∃ u : Chip, exec (.mailboxGo .pf) s = .next (s.after u)
        ∧ u.flag A.NWT_HOST_CTL F.NWT_HOST_CTL_DONE = true ∧ u.rd A.NWT_HOST_CTL F.NWT_HOST_CTL_STATUS = st.code
        ∧ u.rd A.NWT_HOST_CTL F.NWT_HOST_CTL_LENGTH = k ∧ u.errSeq = s.errSeq + (if st.isError then 1 else 0)
        ∧ u = { s.toChip with regs := u.regs, errSeq := u.errSeq }
        ∧ (k = 16 → bits (u.regs.word (A.NWT_HOST_BUF 0)).toNat 0 8 = h.1 ∧ bits (u.regs.word (A.NWT_HOST_BUF 0)).toNat 16 8 = st.code)
      (s.flag A.NWT_HOST_CTL F.NWT_HOST_CTL_BUSY = true → exec (.mailboxGo .pf) s = .next (s.after (s.logReg .busy .newt A.NWT_HOST_CTL)))
      ∧ (s.flag A.NWT_HOST_CTL F.NWT_HOST_CTL_BUSY = false → s.newtUp = false → exec (.mailboxGo .pf) s = .next (s.after s.toChip))
      ∧ (s.flag A.NWT_HOST_CTL F.NWT_HOST_CTL_BUSY = false → s.newtUp = true →
          (∀ st, h.2.fails d = some st → replies st 16)
          ∧ (h.2.fails d = none → mcKnown h.1 = false → replies .opcodeInvalid 16)
          ∧ (h.2.fails d = none → mcKnown h.1 = true → s.mailboxMay h.1 = false → replies .accessDenied 16)
          ∧ (h.2.fails d = none → s.recovering = false → h.1 = mcIDENTIFY → d = [] → replies .ok 31)))
  ∧ (∀ (i : Fin 340) (code : Nat) (ok : Bool) (s : State), code < 2 ^ 16 →
      let a := A.NWT_SENSOR i.val
      (ok = false ∨ (s.inEaves = true ∧ 84 ≤ i.val) → ∃ u : Chip, exec (.sensorPoll i code ok) s = .next (s.after u)
        ∧ u.flag a F.NWT_SENSOR_VALID = false ∧ u.rd a F.NWT_SENSOR_VALUE = s.rd a F.NWT_SENSOR_VALUE ∧ u = { s.toChip with regs := u.regs })
      ∧ (ok = true → s.inEaves = false ∨ i.val < 84 →
          let v := signedOf 16 code
          let above := decide (signedOf 16 (s.rd a F.NWT_SENSOR_WARN_HIGH) < v)
          let below := decide (v < signedOf 16 (s.rd a F.NWT_SENSOR_WARN_LOW))
          let first := !s.newt.seen.contains i.val
          ∃ u : Chip, exec (.sensorPoll i code ok) s = .next (s.after u)
            ∧ u.flag a F.NWT_SENSOR_VALID = true ∧ u.rd a F.NWT_SENSOR_VALUE = code ∧ u.rd a F.NWT_SENSOR_AGE = s.tb % 2 ^ 32
            ∧ signedOf 16 (u.rd a F.NWT_SENSOR_MIN) = (if first then v else min v (signedOf 16 (s.rd a F.NWT_SENSOR_MIN)))
            ∧ signedOf 16 (u.rd a F.NWT_SENSOR_MAX) = (if first then v else max v (signedOf 16 (s.rd a F.NWT_SENSOR_MAX)))
            ∧ u.flag a F.NWT_SENSOR_ABOVE = above ∧ u.flag a F.NWT_SENSOR_BELOW = below
            ∧ u.errSeq = s.errSeq + (if above = s.flag a F.NWT_SENSOR_ABOVE ∧ below = s.flag a F.NWT_SENSOR_BELOW then 0 else 1)
            ∧ i.val ∈ u.newt.seen ∧ u = { s.toChip with regs := u.regs, errSeq := u.errSeq, newt := u.newt }))
  ∧ (∀ s : State,
      (s.newtUp = false → exec .eventRingCopy s = .next { s with toChip := s.syncNewt } ∧ exec .persistentLogCopy s = .next { s with toChip := s.syncNewt }
        ∧ exec .sampleForward s = .next s)
      ∧ (s.newtUp = true →
          let lost := s.errSeq - s.newt.copied - 4096
          let recs := (upFrom (s.newt.copied + lost) (s.errSeq - (s.newt.copied + lost))).map (fun k => s.regs.span (A.ERR_LOG (k % 4096)) 8)
          (∃ t : State, exec .eventRingCopy s = .next t ∧ t.newt.copied = s.errSeq
            ∧ t.newt.ring = (s.newt.ring ++ recs).drop ((s.newt.ring ++ recs).length - 16384) ∧ t.errSeq = s.errSeq + (if lost = 0 then 0 else 1)
            ∧ (s.newt.logSub = none → t.out = s.out)
            ∧ (∀ n tag, s.newt.logSub = some (n, tag) →
                t.out = (recs.map (fun r => OutEv.mgmt n mcLOG_SUBSCRIBE true 0 tag (bytesOfNat 64 r))).reverse ++ s.out))
          ∧ (s.newt.ring.filter (fun r => Nat.ble s.newt.persisted (recSeq r)) = [] →
              ∃ t : State, exec .persistentLogCopy s = .next t ∧ t.newt.persist = s.newt.persist ∧ t.newt.ring = s.newt.ring)
          ∧ (∀ r, s.newt.ring.filter (fun r => Nat.ble s.newt.persisted (recSeq r)) = [r] →
              let credit := min 10000000000 (s.newt.credit + (s.raw - s.newt.creditAt))
              (credit < 10000000 → ∃ t : State, exec .persistentLogCopy s = .next t ∧ t.newt.persist = s.newt.persist
                ∧ t.newt.skipped = s.newt.skipped + 1)
              ∧ (10000000 ≤ credit → s.newt.skipped = 0 → s.newt.persist.length < 883872 →
                  ∃ t : State, exec .persistentLogCopy s = .next t ∧ t.newt.persist = s.newt.persist ++ [r] ∧ t.newt.persisted = recSeq r + 1
                    ∧ t.newt.credit = credit - 10000000))
          ∧ (s.newt.sampleSub = none → exec .sampleForward s = .next { s with samples := [] })
          ∧ (∀ n tag, s.newt.sampleSub = some (n, tag) →
              (s.samples = [] → exec .sampleForward s = .next s)
              ∧ (s.samples ≠ [] → exec .sampleForward s = .next { s with
                  out := .mgmt n mcSAMPLE_SUBSCRIBE true 0 tag ((s.samples.take 32).flatMap (bytesOfNat 192)) :: s.out, samples := s.samples.drop 32 }))))
end

