-- ==== Sys2Proof/Laws/Bits.lean ====
section
/-!
SUPPORT. Bit fields of numbers and little-endian bytes: bit by bit, and what is read after a write.
-/
namespace Sys2Proof.Machine

theorem testBit_bits (n lo w j : Nat) : (bits n lo w).testBit j = (decide (j < w) && n.testBit (lo + j)) := by
  simp [bits, Nat.testBit_mod_two_pow, Nat.testBit_shiftRight]

theorem testBit_setBits (n lo w v j : Nat) :
    (setBits n lo w v).testBit j = if lo ≤ j ∧ j < lo + w then v.testBit (j - lo) else n.testBit j := by
  unfold setBits
  simp only [Nat.testBit_or, Nat.testBit_shiftLeft, Nat.testBit_shiftRight, Nat.testBit_mod_two_pow]
  by_cases h1 : lo ≤ j
  · by_cases h2 : j < lo + w
    · have h3 : ¬ lo + w ≤ j := by omega
      have h4 : j - lo < w := by omega
      have h5 : ¬ j < lo := by omega
      simp [h1, h2, h4, h5]
    · have h3 : lo + w ≤ j := by omega
      have h4 : ¬ j - lo < w := by omega
      have h5 : ¬ j < lo := by omega
      have h6 : lo + w + (j - (lo + w)) = j := by omega
      simp [h1, h2, h3, h4, h5, h6]
  · have h3 : ¬ lo + w ≤ j := by omega
    have h5 : j < lo := by omega
    simp [h1, h3, h5]

/-- A field read after it was written. -/
theorem bits_setBits_same (n lo w v : Nat) : bits (setBits n lo w v) lo w = v % 2 ^ w := by
  apply Nat.eq_of_testBit_eq
  intro j
  rw [testBit_bits, testBit_setBits, Nat.testBit_mod_two_pow]
  by_cases h : j < w
  · simp [h]
  · simp [h]

/-- A field read after another, apart from it, was written. -/
theorem bits_setBits_apart (n lo w v lo' w' : Nat) (h : lo' + w' ≤ lo ∨ lo + w ≤ lo') :
    bits (setBits n lo w v) lo' w' = bits n lo' w' := by
  apply Nat.eq_of_testBit_eq
  intro j
  rw [testBit_bits, testBit_bits, testBit_setBits]
  by_cases hj : j < w'
  · have : ¬ (lo ≤ lo' + j ∧ lo' + j < lo + w) := by omega
    simp [hj, this]
  · simp [hj]

theorem bits_lt (n lo w : Nat) : bits n lo w < 2 ^ w := Nat.mod_lt _ (Nat.two_pow_pos w)

theorem bits_zero (n w : Nat) : bits n 0 w = n % 2 ^ w := by simp [bits]

/-- Writing back what a field holds changes nothing. -/
theorem setBits_bits (n lo w : Nat) : setBits n lo w (bits n lo w) = n := by
  apply Nat.eq_of_testBit_eq
  intro j
  rw [testBit_setBits, testBit_bits]
  split
  · rename_i h
    have h1 : j - lo < w := by omega
    have h2 : lo + (j - lo) = j := by omega
    simp [h1, h2]
  · rfl

theorem testBit_complementOf (w n j : Nat) : (complementOf w n).testBit j = (decide (j < w) && !n.testBit j) := by
  have h : complementOf w n = (~~~ BitVec.ofNat w n).toNat := by
    simp [complementOf, BitVec.toNat_not]
  rw [h, BitVec.testBit_toNat, BitVec.getLsbD_not, BitVec.getLsbD_ofNat]
  by_cases hj : j < w <;> simp [hj]

theorem complementOf_complementOf (w n : Nat) : complementOf w (complementOf w n) = n % 2 ^ w := by
  apply Nat.eq_of_testBit_eq
  intro j
  rw [testBit_complementOf, testBit_complementOf, Nat.testBit_mod_two_pow]
  by_cases hj : j < w <;> simp [hj]

theorem length_bytesOfNat (k n : Nat) : (bytesOfNat k n).length = k := by
  induction k generalizing n with
  | zero => rfl
  | succ k ih => simp [bytesOfNat, ih]

/-- The number that the bytes of a number spell (R8). -/
theorem natOfBytes_bytesOfNat (k n : Nat) : natOfBytes (bytesOfNat k n) = n % 256 ^ k := by
  induction k generalizing n with
  | zero => simp [bytesOfNat, natOfBytes, Nat.mod_one]
  | succ k ih =>
    simp only [bytesOfNat, natOfBytes, ih, BitVec.toNat_ofNat]
    have h : n % 256 ^ (k + 1) = n % 256 + 256 * (n / 256 % 256 ^ k) := by rw [Nat.pow_succ', Nat.mod_mul]
    rw [h]

theorem natOfBytes_lt (l : List Byte) : natOfBytes l < 256 ^ l.length := by
  induction l with
  | nil => simp [natOfBytes]
  | cons b l ih =>
    have := b.isLt
    simp only [natOfBytes, List.length_cons, Nat.pow_succ']
    omega

/-- The bytes of the number that bytes spell (R8). -/
theorem bytesOfNat_natOfBytes (l : List Byte) : bytesOfNat l.length (natOfBytes l) = l := by
  induction l with
  | nil => rfl
  | cons b l ih =>
    have hb := b.isLt
    simp only [natOfBytes, List.length_cons, bytesOfNat]
    congr 1
    · apply BitVec.eq_of_toNat_eq
      simp only [BitVec.toNat_ofNat]
      omega
    · have : (b.toNat + 256 * natOfBytes l) / 256 = natOfBytes l := by omega
      rw [this, ih]

end Sys2Proof.Machine
end

