-- ==== Sys2Proof/Laws/Tab.lean ====
section
/-!
SUPPORT. Sparse tables: what is read after a write, and that every operation keeps keys rising and the canonical form.
-/
namespace Sys2Proof.Machine

/-- Every key of the table is above `k`. -/
def Tab.above {β : Type} (k : Nat) (t : Tab β) : Prop := ∀ e ∈ t, k < e.1

theorem Tab.find_put_same {β : Type} (t : Tab β) (k : Nat) (v : β) : (Tab.put t k v).find k = some v := by
  induction t with
  | nil => simp [Tab.put, Tab.find]
  | cons e t ih =>
    obtain ⟨a, w⟩ := e
    by_cases h1 : k < a
    · simp [Tab.put, Tab.find, h1]
    · by_cases h2 : k = a
      · simp [Tab.put, Tab.find, h2]
      · simp [Tab.put, Tab.find, h1, h2, ih]

theorem Tab.find_put_other {β : Type} (t : Tab β) (k j : Nat) (v : β) (h : j ≠ k) : (Tab.put t k v).find j = t.find j := by
  induction t with
  | nil => simp [Tab.put, Tab.find, h]
  | cons e t ih =>
    obtain ⟨a, w⟩ := e
    by_cases h1 : k < a
    · simp [Tab.put, h1, Tab.find, h]
    · by_cases h2 : k = a
      · subst h2
        simp [Tab.put, Tab.find, h]
      · simp only [Tab.put, h1, h2, if_false, Tab.find, ih]

theorem Tab.find_put {β : Type} (t : Tab β) (k j : Nat) (v : β) :
    (Tab.put t k v).find j = if j = k then some v else t.find j := by
  split
  · rename_i h; rw [h, Tab.find_put_same]
  · rename_i h; exact Tab.find_put_other t k j v h

theorem Tab.sorted_cons {β : Type} (a : Nat) (w : β) (t : Tab β) :
    Tab.sorted ((a, w) :: t) = true ↔ Tab.above a t ∧ Tab.sorted t = true := by
  induction t generalizing a w with
  | nil => simp [Tab.sorted, Tab.above]
  | cons e t ih =>
    obtain ⟨b, u⟩ := e
    simp only [Tab.sorted, Bool.and_eq_true, decide_eq_true_eq]
    constructor
    · rintro ⟨hab, hs⟩
      refine ⟨fun x hx => ?_, hs⟩
      rcases List.mem_cons.1 hx with rfl | hx
      · exact hab
      · exact lt_trans hab (((ih b u).1 hs).1 x hx)
    · rintro ⟨ha, hs⟩
      exact ⟨ha (b, u) (by simp), hs⟩

theorem Tab.above_put {β : Type} (t : Tab β) (a k : Nat) (v : β) (h : Tab.above a t) (hk : a < k) :
    Tab.above a (t.put k v) := by
  induction t with
  | nil =>
    intro e he
    simp [Tab.put] at he
    subst he
    exact hk
  | cons e t ih =>
    obtain ⟨b, w⟩ := e
    have hb : a < b := h (b, w) (by simp)
    have ht : Tab.above a t := fun x hx => h x (by simp [hx])
    simp only [Tab.put]
    split
    · intro x hx
      rcases List.mem_cons.1 hx with rfl | hx
      · exact hk
      · exact h x hx
    · split
      · intro x hx
        rcases List.mem_cons.1 hx with rfl | hx
        · exact hk
        · exact ht x hx
      · intro x hx
        rcases List.mem_cons.1 hx with rfl | hx
        · exact hb
        · exact ih ht x hx

theorem Tab.sorted_put {β : Type} (t : Tab β) (k : Nat) (v : β) (h : t.sorted = true) : (t.put k v).sorted = true := by
  induction t with
  | nil => simp [Tab.put, Tab.sorted]
  | cons e t ih =>
    obtain ⟨a, w⟩ := e
    obtain ⟨ha, hs⟩ := (Tab.sorted_cons a w t).1 h
    simp only [Tab.put]
    split
    · rename_i hlt
      refine (Tab.sorted_cons k v _).2 ⟨fun x hx => ?_, h⟩
      rcases List.mem_cons.1 hx with rfl | hx
      · exact hlt
      · exact lt_trans hlt (ha x hx)
    · split
      · rename_i heq
        subst heq
        exact (Tab.sorted_cons k v t).2 ⟨ha, hs⟩
      · rename_i h1 h2
        exact (Tab.sorted_cons a w _).2 ⟨Tab.above_put t a k v ha (by omega), ih hs⟩

theorem Tab.erase_sublist {β : Type} (t : Tab β) (k : Nat) : List.Sublist (t.erase k) t := by
  induction t with
  | nil => exact List.Sublist.refl _
  | cons e t ih =>
    obtain ⟨a, w⟩ := e
    simp only [Tab.erase]
    split
    · exact ih.cons _
    · exact ih.cons_cons _

theorem Tab.sorted_sublist {β : Type} (t u : Tab β) (hu : List.Sublist u t) (h : t.sorted = true) : u.sorted = true := by
  induction hu with
  | slnil => rfl
  | cons e _ ih => exact ih ((Tab.sorted_cons e.1 e.2 _).1 h).2
  | cons_cons e hl ih =>
    obtain ⟨ha, hs⟩ := (Tab.sorted_cons e.1 e.2 _).1 h
    exact (Tab.sorted_cons e.1 e.2 _).2 ⟨fun x hx => ha x (hl.subset hx), ih hs⟩

theorem Tab.sorted_erase {β : Type} (t : Tab β) (k : Nat) (h : t.sorted = true) : (t.erase k).sorted = true :=
  Tab.sorted_sublist t _ (Tab.erase_sublist t k) h

theorem Tab.sorted_filter {β : Type} (t : Tab β) (p : Nat × β → Bool) (h : t.sorted = true) :
    Tab.sorted (t.filter p) = true :=
  Tab.sorted_sublist t _ List.filter_sublist h

theorem Tab.find_erase_same {β : Type} (t : Tab β) (k : Nat) : (t.erase k).find k = none := by
  induction t with
  | nil => rfl
  | cons e t ih =>
    obtain ⟨a, w⟩ := e
    simp only [Tab.erase]
    split
    · exact ih
    · rename_i h
      simp [Tab.find, h, ih]

theorem Tab.find_erase_other {β : Type} (t : Tab β) (k j : Nat) (hj : j ≠ k) : (t.erase k).find j = t.find j := by
  induction t with
  | nil => rfl
  | cons e t ih =>
    obtain ⟨a, w⟩ := e
    simp only [Tab.erase]
    split
    · rename_i h
      subst h
      simp [Tab.find, hj, ih]
    · simp [Tab.find, ih]

/-- What a table reads after a write. -/
theorem Tab.get_set {β : Type} [DecidableEq β] (d : Nat → β) (t : Tab β) (k j : Nat) (v : β) :
    Tab.get d (Tab.set d t k v) j = if j = k then v else Tab.get d t j := by
  unfold Tab.get Tab.set
  by_cases hj : j = k
  · subst hj
    by_cases hv : v = d j
    · simp [hv, Tab.find_erase_same t j]
    · simp [hv, Tab.find_put_same]
  · by_cases hv : v = d k
    · simp [hv, hj, Tab.find_erase_other t k j hj]
    · simp [hv, hj, Tab.find_put_other t k j v hj]

theorem Tab.mem_put {β : Type} (t : Tab β) (k : Nat) (v : β) (e : Nat × β) (h : e ∈ t.put k v) : e = (k, v) ∨ e ∈ t := by
  induction t with
  | nil => simpa [Tab.put] using h
  | cons x t ih =>
    obtain ⟨a, w⟩ := x
    simp only [Tab.put] at h
    split at h
    · rcases List.mem_cons.1 h with rfl | h
      · exact .inl rfl
      · exact .inr h
    · split at h
      · rcases List.mem_cons.1 h with rfl | h
        · exact .inl rfl
        · exact .inr (by simp [h])
      · rcases List.mem_cons.1 h with rfl | h
        · exact .inr (by simp)
        · rcases ih h with h | h
          · exact .inl h
          · exact .inr (by simp [h])

theorem Tab.sorted_of_canonical {β : Type} [DecidableEq β] {d : Nat → β} {t : Tab β} (h : t.canonical d = true) :
    t.sorted = true := by
  simp only [Tab.canonical, Bool.and_eq_true] at h
  exact h.1

/-- A write keeps the canonical form. -/
theorem Tab.canonical_set {β : Type} [DecidableEq β] (d : Nat → β) (t : Tab β) (k : Nat) (v : β)
    (h : t.canonical d = true) : (Tab.set d t k v).canonical d = true := by
  simp only [Tab.canonical, Bool.and_eq_true, List.all_eq_true, decide_eq_true_eq] at h ⊢
  unfold Tab.set
  split
  · exact ⟨Tab.sorted_erase t k h.1, fun e he => h.2 e ((Tab.erase_sublist t k).subset he)⟩
  · rename_i hv
    refine ⟨Tab.sorted_put t k v h.1, fun e he => ?_⟩
    rcases Tab.mem_put t k v e he with rfl | he
    · exact hv
    · exact h.2 e he

/-- A table from which entries are taken out stays canonical. -/
theorem Tab.canonical_filter {β : Type} [DecidableEq β] (d : Nat → β) (t : Tab β) (p : Nat × β → Bool)
    (h : t.canonical d = true) : Tab.canonical d (t.filter p) = true := by
  simp only [Tab.canonical, Bool.and_eq_true, List.all_eq_true, decide_eq_true_eq] at h ⊢
  exact ⟨Tab.sorted_filter t p h.1, fun e he => h.2 e (List.mem_of_mem_filter he)⟩

end Sys2Proof.Machine
end

