-- ==== Sys2Proof/Laws/Regs.lean ====
section
/-!
SUPPORT. The register file: what a field reads after a write of it, of another field, and of a protected entry, and that every
write keeps the canonical form.
-/
namespace Sys2Proof.Machine

theorem RegFile.word_setWord (r : RegFile) (a b : Nat) (w : Word) :
    (r.setWord a w).word b = if b = a then w else r.word b := by
  simp only [RegFile.word, RegFile.setWord, Tab.get_set]

theorem RegFile.span_zero (r : RegFile) (a : Nat) : r.span a 0 = 0 := rfl

theorem RegFile.span_succ (r : RegFile) (a n : Nat) : r.span a (n+1) = (r.word a).toNat + (RegFile.span r (a + 8) n) <<< 64 := rfl

/-- Bit `j` of the words from `a` on. -/
theorem RegFile.testBit_span (r : RegFile) (a n j : Nat) :
    (r.span a n).testBit j = (decide (j < 64 * n) && (r.word (a + 8 * (j / 64))).getLsbD (j % 64)) := by
  induction n generalizing a j with
  | zero => rw [RegFile.span_zero]; simp
  | succ n ih =>
    have hlt : (r.word a).toNat < 2 ^ 64 := (r.word a).isLt
    rw [RegFile.span_succ]
    generalize hw : (r.word a).toNat = x at *
    have ih' := ih (a + 8) (j - 64)
    generalize RegFile.span r (a + 8) n = y at *
    rw [Nat.add_comm, Nat.shiftLeft_eq, Nat.mul_comm, Nat.testBit_two_pow_mul_add _ hlt]
    split
    · rename_i hj
      have h1 : j / 64 = 0 := by omega
      have h2 : j % 64 = j := by omega
      have h3 : j < 64 * (n + 1) := by omega
      subst hw
      simp [h1, h2, h3, BitVec.getLsbD]
    · rename_i hj
      rw [ih']
      have h1 : (j - 64) % 64 = j % 64 := by omega
      have h2 : a + 8 + 8 * ((j - 64) / 64) = a + 8 * (j / 64) := by omega
      have h3 : (j - 64 < 64 * n) ↔ (j < 64 * (n + 1)) := by omega
      simp [h1, h2, h3]

theorem RegFile.span_lt (r : RegFile) (a n : Nat) : r.span a n < 2 ^ (64 * n) := by
  apply Nat.lt_pow_two_of_testBit
  intro j hj
  rw [RegFile.testBit_span]
  have : ¬ j < 64 * n := by omega
  simp [this]

/-- Bit `j` of the word at `b` after `n` words from `a` on have been set from one number. -/
theorem RegFile.getLsbD_setSpan (r : RegFile) (a n v b j : Nat) (hj : j < 64) :
    ((r.setSpan a n v).word b).getLsbD j =
      if a ≤ b ∧ (b - a) % 8 = 0 ∧ (b - a) / 8 < n then v.testBit (64 * ((b - a) / 8) + j) else (r.word b).getLsbD j := by
  induction n generalizing r a v with
  | zero => simp [RegFile.setSpan]
  | succ n ih =>
    simp only [RegFile.setSpan]
    rw [ih, RegFile.word_setWord]
    by_cases hb : b = a
    · subst hb
      have h1 : ¬ (b + 8 ≤ b ∧ (b - (b + 8)) % 8 = 0 ∧ (b - (b + 8)) / 8 < n) := by omega
      have h2 : b ≤ b ∧ (b - b) % 8 = 0 ∧ (b - b) / 8 < n + 1 := by omega
      rw [if_neg h1, if_pos rfl, if_pos h2, BitVec.getLsbD_ofNat]
      simp only [hj, decide_true, Bool.true_and]
      congr 1
      omega
    · by_cases h : a + 8 ≤ b ∧ (b - (a + 8)) % 8 = 0 ∧ (b - (a + 8)) / 8 < n
      · have h' : a ≤ b ∧ (b - a) % 8 = 0 ∧ (b - a) / 8 < n + 1 := by omega
        have h2 : 64 + (64 * ((b - (a + 8)) / 8) + j) = 64 * ((b - a) / 8) + j := by omega
        rw [if_pos h, if_pos h', Nat.testBit_shiftRight, h2]
      · have h' : ¬ (a ≤ b ∧ (b - a) % 8 = 0 ∧ (b - a) / 8 < n + 1) := by omega
        rw [if_neg h, if_neg h', if_neg hb]

/-- Bit `i` of the entry at `a`. -/
def RegFile.bit (r : RegFile) (a i : Nat) : Bool := (r.word (a + 8 * (i / 64))).getLsbD (i % 64)

theorem RegFile.testBit_get (r : RegFile) (a : Nat) (f : Fld) (j : Nat) :
    (r.get a f).testBit j = (decide (j < f.width) && r.bit a (f.lo + j)) := by
  unfold RegFile.get
  rw [testBit_bits, RegFile.testBit_span]
  unfold RegFile.bit Fld.span
  by_cases hj : j < f.width
  · have h1 : f.lo % 64 + j < 64 * ((f.lo % 64 + f.width + 63) / 64) := by omega
    have h2 : a + 8 * (f.lo / 64) + 8 * ((f.lo % 64 + j) / 64) = a + 8 * ((f.lo + j) / 64) := by omega
    have h3 : (f.lo % 64 + j) % 64 = (f.lo + j) % 64 := by omega
    simp [hj, h1, h2, h3]
  · simp [hj]

/-- Bit `i` of the entry at `b` after a field of the entry at `a` was written, where both begin at multiples of 8. -/
theorem RegFile.bit_set (r : RegFile) (a b : Nat) (f : Fld) (v i : Nat) :
    (r.set a f v).bit b i =
      if a % 8 = b % 8 ∧ 8 * a + f.lo ≤ 8 * b + i ∧ 8 * b + i < 8 * a + f.lo + f.width then
        v.testBit (8 * b + i - (8 * a + f.lo)) else r.bit b i := by
  unfold RegFile.set RegFile.bit
  simp only
  rw [RegFile.getLsbD_setSpan _ _ _ _ _ _ (by omega)]
  unfold Fld.span
  by_cases h : a + 8 * (f.lo / 64) ≤ b + 8 * (i / 64) ∧ (b + 8 * (i / 64) - (a + 8 * (f.lo / 64))) % 8 = 0 ∧
      (b + 8 * (i / 64) - (a + 8 * (f.lo / 64))) / 8 < (f.lo % 64 + f.width + 63) / 64
  · rw [if_pos h, testBit_setBits]
    by_cases h2 : a % 8 = b % 8 ∧ 8 * a + f.lo ≤ 8 * b + i ∧ 8 * b + i < 8 * a + f.lo + f.width
    · have h3 : f.lo % 64 ≤ 64 * ((b + 8 * (i / 64) - (a + 8 * (f.lo / 64))) / 8) + i % 64 ∧
          64 * ((b + 8 * (i / 64) - (a + 8 * (f.lo / 64))) / 8) + i % 64 < f.lo % 64 + f.width := by omega
      rw [if_pos h2, if_pos h3]
      congr 1
      omega
    · have h3 : ¬ (f.lo % 64 ≤ 64 * ((b + 8 * (i / 64) - (a + 8 * (f.lo / 64))) / 8) + i % 64 ∧
          64 * ((b + 8 * (i / 64) - (a + 8 * (f.lo / 64))) / 8) + i % 64 < f.lo % 64 + f.width) := by omega
      rw [if_neg h2, if_neg h3, RegFile.testBit_span]
      have h4 : 64 * ((b + 8 * (i / 64) - (a + 8 * (f.lo / 64))) / 8) + i % 64 < 64 * ((f.lo % 64 + f.width + 63) / 64) := by omega
      have h5 : a + 8 * (f.lo / 64) + 8 * ((64 * ((b + 8 * (i / 64) - (a + 8 * (f.lo / 64))) / 8) + i % 64) / 64) = b + 8 * (i / 64) := by omega
      have h6 : (64 * ((b + 8 * (i / 64) - (a + 8 * (f.lo / 64))) / 8) + i % 64) % 64 = i % 64 := by omega
      simp [h4, h5, h6]
  · have h2 : ¬ (a % 8 = b % 8 ∧ 8 * a + f.lo ≤ 8 * b + i ∧ 8 * b + i < 8 * a + f.lo + f.width) := by omega
    rw [if_neg h, if_neg h2]

/-- A field reads as it was written. -/
theorem RegFile.get_set_same (r : RegFile) (a : Nat) (f : Fld) (v : Nat) : (r.set a f v).get a f = v % 2 ^ f.width := by
  apply Nat.eq_of_testBit_eq
  intro j
  rw [RegFile.testBit_get, RegFile.bit_set, Nat.testBit_mod_two_pow]
  by_cases hj : j < f.width
  · have h : a % 8 = a % 8 ∧ 8 * a + f.lo ≤ 8 * a + (f.lo + j) ∧ 8 * a + (f.lo + j) < 8 * a + f.lo + f.width := by omega
    rw [if_pos h]
    have : 8 * a + (f.lo + j) - (8 * a + f.lo) = j := by omega
    simp [hj, this]
  · simp [hj]

/-- A field whose bits lie apart from those written reads as before. Bits are counted through the whole register space. -/
theorem RegFile.get_set_apart (r : RegFile) (a b : Nat) (f g : Fld) (v : Nat)
    (h : a % 8 ≠ b % 8 ∨ 8 * b + g.lo + g.width ≤ 8 * a + f.lo ∨ 8 * a + f.lo + f.width ≤ 8 * b + g.lo) :
    (r.set a f v).get b g = r.get b g := by
  apply Nat.eq_of_testBit_eq
  intro j
  rw [RegFile.testBit_get, RegFile.testBit_get, RegFile.bit_set]
  by_cases hj : j < g.width
  · have : ¬ (a % 8 = b % 8 ∧ 8 * a + f.lo ≤ 8 * b + (g.lo + j) ∧ 8 * b + (g.lo + j) < 8 * a + f.lo + f.width) := by omega
    rw [if_neg this]
  · simp [hj]

theorem RegFile.get_lt (r : RegFile) (a : Nat) (f : Fld) : r.get a f < 2 ^ f.width := bits_lt _ _ _

theorem RegFile.span_setSpan (r : RegFile) (a n v : Nat) : (r.setSpan a n v).span a n = v % 2 ^ (64 * n) := by
  apply Nat.eq_of_testBit_eq
  intro j
  rw [RegFile.testBit_span, RegFile.getLsbD_setSpan _ _ _ _ _ _ (by omega), Nat.testBit_mod_two_pow]
  by_cases hj : j < 64 * n
  · have h : a ≤ a + 8 * (j / 64) ∧ (a + 8 * (j / 64) - a) % 8 = 0 ∧ (a + 8 * (j / 64) - a) / 8 < n := by omega
    have h2 : 64 * ((a + 8 * (j / 64) - a) / 8) + j % 64 = j := by omega
    rw [if_pos h, h2]
  · simp [hj]

/-- Words apart from those written are as before. -/
theorem RegFile.span_setSpan_apart (r : RegFile) (a n v b m : Nat) (h : b + 8 * m ≤ a ∨ a + 8 * n ≤ b) :
    (r.setSpan a n v).span b m = r.span b m := by
  apply Nat.eq_of_testBit_eq
  intro j
  rw [RegFile.testBit_span, RegFile.testBit_span, RegFile.getLsbD_setSpan _ _ _ _ _ _ (by omega)]
  by_cases hj : j < 64 * m
  · have h2 : ¬ (a ≤ b + 8 * (j / 64) ∧ (b + 8 * (j / 64) - a) % 8 = 0 ∧ (b + 8 * (j / 64) - a) / 8 < n) := by omega
    rw [if_neg h2]
  · simp [hj]

/-- A protected entry after a write: its words, its complement, and so its check (R77). -/
theorem RegFile.span_setProtected (r : RegFile) (a n v : Nat) : (r.setProtected a n v).span a n = v % 2 ^ (64 * n) := by
  unfold RegFile.setProtected
  rw [RegFile.span_setSpan_apart _ _ _ _ _ _ (by omega), RegFile.span_setSpan]

theorem RegFile.checked_setProtected (r : RegFile) (a n v : Nat) : (r.setProtected a n v).checked a n = true := by
  have h : complementOf (64 * n) v = complementOf (64 * n) (v % 2 ^ (64 * n)) := by simp [complementOf]
  unfold RegFile.checked
  rw [RegFile.span_setProtected, beq_iff_eq, ← h]
  unfold RegFile.setProtected
  rw [RegFile.span_setSpan]
  apply Nat.mod_eq_of_lt
  have := Nat.two_pow_pos (64 * n)
  unfold complementOf
  omega

theorem RegFile.checked_setP (r : RegFile) (a n : Nat) (f : Fld) (v : Nat) : (r.setP a n f v).checked a n = true :=
  RegFile.checked_setProtected r a n _

/-- A field of an entry whose words the register file holds, read from the entry's words. -/
theorem RegFile.get_eq_bits (r : RegFile) (a n : Nat) (f : Fld) (h : f.lo + f.width ≤ 64 * n) :
    r.get a f = bits (r.span a n) f.lo f.width := by
  apply Nat.eq_of_testBit_eq
  intro j
  rw [RegFile.testBit_get, testBit_bits, RegFile.testBit_span]
  unfold RegFile.bit
  by_cases hj : j < f.width
  · have : f.lo + j < 64 * n := by omega
    simp [hj, this]
  · simp [hj]

/-- A field of a protected entry reads as it was written. -/
theorem RegFile.get_setP_same (r : RegFile) (a n : Nat) (f : Fld) (v : Nat) (h : f.lo + f.width ≤ 64 * n) :
    (r.setP a n f v).get a f = v % 2 ^ f.width := by
  rw [RegFile.get_eq_bits _ a n f h, RegFile.setP, RegFile.span_setProtected]
  apply Nat.eq_of_testBit_eq
  intro j
  rw [testBit_bits, Nat.testBit_mod_two_pow, testBit_setBits, Nat.testBit_mod_two_pow]
  by_cases hj : j < f.width
  · have h1 : f.lo + j < 64 * n := by omega
    simp [hj, h1]
  · simp [hj]

/-- Another field of a protected entry reads as before. -/
theorem RegFile.get_setP_apart (r : RegFile) (a n : Nat) (f g : Fld) (v : Nat) (hg : g.lo + g.width ≤ 64 * n)
    (h : g.lo + g.width ≤ f.lo ∨ f.lo + f.width ≤ g.lo) : (r.setP a n f v).get a g = r.get a g := by
  rw [RegFile.get_eq_bits _ a n g hg, RegFile.get_eq_bits _ a n g hg, RegFile.setP, RegFile.span_setProtected]
  apply Nat.eq_of_testBit_eq
  intro j
  rw [testBit_bits, testBit_bits, Nat.testBit_mod_two_pow, testBit_setBits]
  by_cases hj : j < g.width
  · have h1 : g.lo + j < 64 * n := by omega
    have h2 : ¬ (f.lo ≤ g.lo + j ∧ g.lo + j < f.lo + f.width) := by omega
    simp [hj, h1, h2]
  · simp [hj]

/-- A field of another entry reads as before. -/
theorem RegFile.get_setP_other (r : RegFile) (a n b : Nat) (f g : Fld) (v : Nat)
    (h : b + 8 * ((g.lo + g.width + 63) / 64) ≤ a ∨ a + 16 * n ≤ b) : (r.setP a n f v).get b g = r.get b g := by
  have hb : g.lo + g.width ≤ 64 * ((g.lo + g.width + 63) / 64) := by omega
  rw [RegFile.get_eq_bits _ b _ g hb, RegFile.get_eq_bits _ b _ g hb]
  unfold RegFile.setP RegFile.setProtected
  rw [RegFile.span_setSpan_apart _ _ _ _ _ _ (by omega), RegFile.span_setSpan_apart _ _ _ _ _ _ (by omega)]

theorem RegFile.canonical_setSpan (r : RegFile) (a n v : Nat) (h : Tab.canonical resetWord r = true) :
    Tab.canonical resetWord (r.setSpan a n v) = true := by
  induction n generalizing r a v with
  | zero => exact h
  | succ n ih => exact ih _ _ _ (Tab.canonical_set resetWord r a _ h)

/-- Every write of the register file keeps its canonical form. -/
theorem RegFile.canonical_set (r : RegFile) (a : Nat) (f : Fld) (v : Nat) (h : Tab.canonical resetWord r = true) :
    Tab.canonical resetWord (r.set a f v) = true := RegFile.canonical_setSpan _ _ _ _ h

theorem RegFile.canonical_setP (r : RegFile) (a n : Nat) (f : Fld) (v : Nat) (h : Tab.canonical resetWord r = true) :
    Tab.canonical resetWord (r.setP a n f v) = true :=
  RegFile.canonical_setSpan _ _ _ _ (RegFile.canonical_setSpan _ _ _ _ h)

end Sys2Proof.Machine
end

