-- ==== Sys2Proof/Laws/Access.lean ====
section
/-!
SUPPORT. Register accesses: which register an offset reaches, and what the write of one bit of a control register comes to.
-/
namespace Sys2Proof.Machine

theorem Chip.windowKey_plain (s : Chip) (off : Nat) (h1 : off < 0xE80000 ∨ 0xF00000 ≤ off)
    (h2 : off < 0x400000 ∨ 0x600000 ≤ off ∨ (off % 0x4000 ≠ 0 ∧ off % 0x4000 ≠ 8)) : s.windowKey off = (off, false) := by
  unfold Chip.windowKey
  have e1 : (Nat.ble 0xE80000 off && Nat.blt off 0xEC0000) = false := by
    rw [Bool.and_eq_false_iff, ← Bool.not_eq_true, ← Bool.not_eq_true, Nat.ble_eq, Nat.blt_eq]; omega
  have e2 : (Nat.ble 0xEC0000 off && Nat.blt off 0xF00000) = false := by
    rw [Bool.and_eq_false_iff, ← Bool.not_eq_true, ← Bool.not_eq_true, Nat.ble_eq, Nat.blt_eq]; omega
  rw [e1, e2]
  simp only [Bool.false_eq_true, if_false]
  by_cases h3 : off < 0x400000 ∨ 0x600000 ≤ off
  · have e3 : (Nat.ble 0x400000 off && Nat.blt off 0x600000) = false := by
      rw [Bool.and_eq_false_iff, ← Bool.not_eq_true, ← Bool.not_eq_true, Nat.ble_eq, Nat.blt_eq]; omega
    rw [e3]
    simp
  · have h4 : off % 0x4000 ≠ 0 ∧ off % 0x4000 ≠ 8 := by omega
    have e4 : (off % 0x4000 == 0) = false := by simpa using h4.1
    have e5 : (off % 0x4000 == 8) = false := by simpa using h4.2
    rw [e4, e5]
    simp

theorem Chip.site_plain (s : Chip) (off : Nat) (l : Loc) (h8 : off % 8 = 0) (hlt : off < 0x4000000)
    (h1 : off < 0xE80000 ∨ 0xF00000 ≤ off)
    (h2 : off < 0x400000 ∨ 0x600000 ≤ off ∨ (off % 0x4000 ≠ 0 ∧ off % 0x4000 ≠ 8))
    (hl : locateKey off = some l) (hc : l.isCopy = false) : s.site off = some ⟨l, off, false⟩ := by
  unfold Chip.site
  have e1 : Nat.ble 0x4000000 off = false := by
    rw [← Bool.not_eq_true, Nat.ble_eq]; omega
  have e2 : off / 8 * 8 = off := by omega
  rw [e1, e2, Chip.windowKey_plain s off h1 h2]
  simp [hl, hc]

/-- A control register: one word whose fields are all WO and take any value, that no rule guards beside who may write it. -/
structure Loc.control (l : Loc) (off : Nat) : Prop where
  base : l.base = off
  word : l.word = 0
  wo : ∀ f ∈ l.specs, f.acc = .wo ∧ f.legal = .any
  words : l.kind.words = 1
  kind : l.kind ∈ [RegKind.glbResetCtl, .pceMwdog, .prtCtl, .rteEpochCtl, .swcCtl, .tmgCtl, .seqQCtl, .celCtl, .mtxCtl, .errRepairCtl]

theorem Chip.applyWord_control (s : Chip) (w : WordWrite) (locked : Bool) (keep : List Fld)
    (hwo : ∀ f ∈ w.loc.specs, f.acc = .wo ∧ f.legal = .any) (h : w.loc.word < w.loc.kind.words) :
    s.applyWord w locked keep = s := by
  unfold Chip.applyWord
  have e : Nat.blt w.loc.word w.loc.kind.words = true := by rw [Nat.blt_eq]; exact h
  rw [e, if_pos rfl]
  generalize hl : w.loc.specs.filter (fun f => w.touches f.fld && !keep.contains f.fld) = l
  have hm : ∀ f ∈ l, f.acc = .wo := by
    intro f hf
    rw [← hl] at hf
    exact (hwo f (List.mem_of_mem_filter hf)).1
  clear hl
  induction l generalizing s with
  | nil => rfl
  | cons f l ih =>
    have h0 : s.applyField w locked f = s := by simp [Chip.applyField, hm f (by simp)]
    simp only [List.foldl_cons, h0]
    exact ih s (fun g hg => hm g (by simp [hg]))

theorem Chip.encodingOk_control (s : Chip) (w : WordWrite) (hwo : ∀ f ∈ w.loc.specs, f.acc = .wo ∧ f.legal = .any) :
    s.encodingOk w = true := by
  unfold Chip.encodingOk
  rw [List.all_eq_true]
  intro f hf
  simp [(hwo f hf).2, Legal.ok]

/-- What the write of one bit of a control register comes to: what it starts, and nothing else. -/
theorem Chip.writeBit_control (s : Chip) (src : Source) (off : Nat) (f : Fld) (l : Loc) (hs : s.serves src off)
    (hsee : src.part = none ∨ s.seenBy src l ≠ 0)
    (h8 : off % 8 = 0) (hlt : off < 0x4000000) (h1 : off < 0xE80000 ∨ 0xF00000 ≤ off)
    (h2 : off < 0x400000 ∨ 0x600000 ≤ off ∨ (off % 0x4000 ≠ 0 ∧ off % 0x4000 ≠ 8))
    (hl : locateKey off = some l) (hc : l.control off) (hmay : s.mayWrite src false l = true) (hf : f.lo < 64) :
    s.writeBit src off f = s.afterWrite s src ⟨l, off, 2 ^ f.lo, 2 ^ 64 - 1⟩ [] := by
  obtain ⟨hdeaf, hun⟩ := hs
  have hpart : (s.seenBy src l == 0 && src.part.isSome) = false := by
    rcases hsee with h | h <;> simp [h]
  have hk := hc.kind
  simp only [List.mem_cons, List.not_mem_nil, or_false] at hk
  have hcopy : l.isCopy = false := by
    rcases hk with h | h | h | h | h | h | h | h | h | h <;> simp [Loc.isCopy, h]
  have hsite := Chip.site_plain s off l h8 hlt h1 h2 hl hcopy
  have hkeep : (l.specs.filter (fun x => x.acc == .rw || x.acc == .rwl)) = [] := by
    rw [List.filter_eq_nil_iff]
    intro x hx
    simp [(hc.wo x hx).1]
  have hpow : 2 ^ f.lo < 2 ^ 64 := Nat.pow_lt_pow_right (by omega) hf
  unfold Chip.writeBit
  simp only [hl, Option.map_some, Option.getD_some, hkeep, List.foldl_nil, Nat.zero_or]
  unfold Chip.busWrite
  simp only [hsite, hdeaf, Option.elim_some, hpart, Bool.or_false, Bool.false_eq_true, if_false, hun]
  have hwidth : writeWidthOk (some l.kind) off 8 = true := by simp [writeWidthOk, h8]
  simp only [Option.map_some, hwidth, Bool.not_true, Bool.false_eq_true, if_false, h8, Nat.mul_zero, Nat.shiftLeft_zero]
  have e1 : 2 ^ f.lo % 2 ^ (8 * 8) = 2 ^ f.lo := Nat.mod_eq_of_lt hpow
  rw [e1]
  unfold Chip.writeWord
  have hnot : s.notNow ⟨l, off, 2 ^ f.lo, 2 ^ (8 * 8) - 1⟩ = none := by
    rcases hk with h | h | h | h | h | h | h | h | h | h <;> simp [Chip.notNow, h]
  have hunit : (l.unit 0).isSome = false := by
    rcases hk with h | h | h | h | h | h | h | h | h | h <;> simp [Loc.unit, h]
  have hcurve : (l.kind == RegKind.pceCurve) = false := by
    rcases hk with h | h | h | h | h | h | h | h | h | h <;> simp [h]
  have hoff : off / 8 * 8 - 8 * l.word = off := by rw [hc.word]; omega
  simp only [hmay, Bool.not_true, Bool.false_eq_true, if_false, hnot, hunit, hcurve, hoff]
  unfold Chip.writeFields
  have happ : ∀ lk kp, s.applyWord ⟨l, off, 2 ^ f.lo, 2 ^ (8 * 8) - 1⟩ lk kp = s := fun lk kp =>
    Chip.applyWord_control s _ lk kp hc.wo (by simp only [hc.word, hc.words]; omega)
  have hlocks : (l.specs.filter (fun x => x.acc == .rwl)) = [] := by
    rw [List.filter_eq_nil_iff]
    intro x hx
    simp [(hc.wo x hx).1]
  have hleft : s.leftOut src ⟨l, off, 2 ^ f.lo, 2 ^ (8 * 8) - 1⟩ = [] := by
    unfold Chip.leftOut
    have e : ∀ p : FieldSpec → Bool, (l.specs.filter (fun x => x.acc == .rwl && p x)) = [] := by
      intro p
      rw [List.filter_eq_nil_iff]
      intro x hx
      simp [(hc.wo x hx).1]
    have e2 : ∀ p q : FieldSpec → Bool, (l.specs.filter (fun x => x.acc == .rwl && p x && q x)) = [] := by
      intro p q
      rw [List.filter_eq_nil_iff]
      intro x hx
      simp [(hc.wo x hx).1]
    simp only [e2, List.map_nil, ite_self, List.nil_append]
    rcases hk with h | h | h | h | h | h | h | h | h | h <;> simp [h]
  have hwhole : s.wholeFails s ⟨l, off, 2 ^ f.lo, 2 ^ (8 * 8) - 1⟩ = none := by
    unfold Chip.wholeFails
    have hj : s.jointOk ⟨l, off, 2 ^ f.lo, 2 ^ (8 * 8) - 1⟩ = true := by
      rcases hk with h | h | h | h | h | h | h | h | h | h <;> simp [Chip.jointOk, h]
    have hq : (l.kind == RegKind.swcQuota) = false := by
      rcases hk with h | h | h | h | h | h | h | h | h | h <;> simp [h]
    rw [Chip.encodingOk_control s _ hc.wo, hj]
    simp [hq]
  simp only [hleft, happ, hwhole, List.map_nil, List.any_nil, List.filter_false, List.foldl_nil]

/-- Which fields the write of one bit sets a bit of. -/
theorem WordWrite.sets_bit (l : Loc) (key : Nat) (f g : Fld) (hw : l.word = 0) (hf : f.lo < 64) :
    (⟨l, key, 2 ^ f.lo, 2 ^ 64 - 1⟩ : WordWrite).sets g = decide (g.lo ≤ f.lo ∧ f.lo < g.lo + g.width) := by
  unfold WordWrite.sets WordWrite.ones WordWrite.maskOf WordWrite.dataOf
  simp only [hw, Nat.mul_zero, Nat.shiftLeft_zero]
  by_cases h : g.lo ≤ f.lo ∧ f.lo < g.lo + g.width
  · simp only [h, and_self, decide_true, bne_iff_ne, ne_eq]
    intro h0
    have h1 : (bits (2 ^ 64 - 1) g.lo g.width &&& bits (2 ^ f.lo) g.lo g.width).testBit (f.lo - g.lo) = false := by
      rw [h0, Nat.zero_testBit]
    have hm : Nat.testBit (2 ^ 64 - 1) f.lo = true := by rw [Nat.testBit_two_pow_sub_one]; simpa using hf
    have h2 : g.lo + (f.lo - g.lo) = f.lo := by omega
    have h3 : f.lo - g.lo < g.width := by omega
    rw [Nat.testBit_and, testBit_bits, testBit_bits, h2, hm, Nat.testBit_two_pow_self] at h1
    simp [h3] at h1
  · simp only [h, decide_false, bne_eq_false_iff_eq]
    apply Nat.eq_of_testBit_eq
    intro j
    simp only [Nat.testBit_and, testBit_bits, Nat.zero_testBit, Bool.and_eq_false_iff, Nat.testBit_two_pow]
    by_cases hj : j < g.width
    · have : f.lo ≠ g.lo + j := by omega
      simp [this]
    · simp [hj]

theorem locate_PRT_CTL (n : Nat) (hn : n < 128) : locateKey (A.PRT_CTL n) = some ⟨.prtCtl, n, 0, 0, A.PRT_CTL n, 0⟩ :=
  (by decide : ∀ n : Fin 128, locateKey (A.PRT_CTL n.val) = some ⟨.prtCtl, n.val, 0, 0, A.PRT_CTL n.val, 0⟩) ⟨n, hn⟩

theorem control_PRT_CTL (n : Nat) : Loc.control ⟨.prtCtl, n, 0, 0, A.PRT_CTL n, 0⟩ (A.PRT_CTL n) :=
  ⟨rfl, rfl, by simp [Loc.specs, RegKind.fields], rfl, by simp⟩

theorem Chip.writeBit_retrain (s : Chip) (src : Source) (n : Nat) (hn : n < 128) (hs : s.serves src (A.PRT_CTL n)) (hw : src.central) :
    s.writeBit src (A.PRT_CTL n) F.PRT_CTL_RETRAIN = s.portControl n true false := by
  have hmay : s.mayWrite src false ⟨.prtCtl, n, 0, 0, A.PRT_CTL n, 0⟩ = true := by rcases hw with rfl | rfl <;> rfl
  have hsee : (src : Source).part = none ∨ s.seenBy src ⟨.prtCtl, n, 0, 0, A.PRT_CTL n, 0⟩ ≠ 0 := by rcases hw with rfl | rfl <;> exact .inl rfl
  rw [Chip.writeBit_control s src (A.PRT_CTL n) F.PRT_CTL_RETRAIN _ hs hsee (by unfold A.PRT_CTL; omega) (by unfold A.PRT_CTL; omega)
    (by unfold A.PRT_CTL; omega) (by unfold A.PRT_CTL; omega) (locate_PRT_CTL n hn) (control_PRT_CTL n) hmay (by decide)]
  have e0 : (⟨⟨.prtCtl, n, 0, 0, A.PRT_CTL n, 0⟩, A.PRT_CTL n, 2 ^ F.PRT_CTL_RETRAIN.lo, 2 ^ 64 - 1⟩ : WordWrite).sets F.PRT_CTL_RETRAIN = true := by
    rw [WordWrite.sets_bit _ _ _ _ rfl (by decide)]; decide
  have e1 : (⟨⟨.prtCtl, n, 0, 0, A.PRT_CTL n, 0⟩, A.PRT_CTL n, 2 ^ F.PRT_CTL_RETRAIN.lo, 2 ^ 64 - 1⟩ : WordWrite).sets F.PRT_CTL_CLEAR_COUNTS = false := by
    rw [WordWrite.sets_bit _ _ _ _ rfl (by decide)]; decide
  simp only [Chip.afterWrite, e0, e1, List.contains_nil, Bool.not_false, Bool.and_true]

theorem Chip.writeBit_clearCounts (s : Chip) (src : Source) (n : Nat) (hn : n < 128) (hs : s.serves src (A.PRT_CTL n)) (hw : src.central) :
    s.writeBit src (A.PRT_CTL n) F.PRT_CTL_CLEAR_COUNTS = s.portControl n false true := by
  have hmay : s.mayWrite src false ⟨.prtCtl, n, 0, 0, A.PRT_CTL n, 0⟩ = true := by rcases hw with rfl | rfl <;> rfl
  have hsee : (src : Source).part = none ∨ s.seenBy src ⟨.prtCtl, n, 0, 0, A.PRT_CTL n, 0⟩ ≠ 0 := by rcases hw with rfl | rfl <;> exact .inl rfl
  rw [Chip.writeBit_control s src (A.PRT_CTL n) F.PRT_CTL_CLEAR_COUNTS _ hs hsee (by unfold A.PRT_CTL; omega) (by unfold A.PRT_CTL; omega)
    (by unfold A.PRT_CTL; omega) (by unfold A.PRT_CTL; omega) (locate_PRT_CTL n hn) (control_PRT_CTL n) hmay (by decide)]
  have e0 : (⟨⟨.prtCtl, n, 0, 0, A.PRT_CTL n, 0⟩, A.PRT_CTL n, 2 ^ F.PRT_CTL_CLEAR_COUNTS.lo, 2 ^ 64 - 1⟩ : WordWrite).sets F.PRT_CTL_CLEAR_COUNTS = true := by
    rw [WordWrite.sets_bit _ _ _ _ rfl (by decide)]; decide
  have e1 : (⟨⟨.prtCtl, n, 0, 0, A.PRT_CTL n, 0⟩, A.PRT_CTL n, 2 ^ F.PRT_CTL_CLEAR_COUNTS.lo, 2 ^ 64 - 1⟩ : WordWrite).sets F.PRT_CTL_RETRAIN = false := by
    rw [WordWrite.sets_bit _ _ _ _ rfl (by decide)]; decide
  simp only [Chip.afterWrite, e0, e1, List.contains_nil, Bool.not_false, Bool.and_true]

theorem locate_SWC_CTL : locateKey A.SWC_CTL = some ⟨.swcCtl, 0, 0, 0, A.SWC_CTL, 0⟩ := by decide

theorem control_SWC_CTL : Loc.control ⟨.swcCtl, 0, 0, 0, A.SWC_CTL, 0⟩ A.SWC_CTL :=
  ⟨rfl, rfl, by simp [Loc.specs, RegKind.fields], rfl, by simp⟩

theorem Chip.writeBit_clearDrops (s : Chip) (src : Source) (hs : s.serves src A.SWC_CTL) (hw : src.central) :
    s.writeBit src A.SWC_CTL F.SWC_CTL_CLEAR_DROPS = s.switchControl false true := by
  have hmay : s.mayWrite src false ⟨.swcCtl, 0, 0, 0, A.SWC_CTL, 0⟩ = true := by rcases hw with rfl | rfl <;> rfl
  have hsee : (src : Source).part = none ∨ s.seenBy src ⟨.swcCtl, 0, 0, 0, A.SWC_CTL, 0⟩ ≠ 0 := by rcases hw with rfl | rfl <;> exact .inl rfl
  rw [Chip.writeBit_control s src A.SWC_CTL F.SWC_CTL_CLEAR_DROPS _ hs hsee (by decide) (by decide)
    (by decide) (by decide) (locate_SWC_CTL) (control_SWC_CTL) hmay (by decide)]
  have e0 : (⟨⟨.swcCtl, 0, 0, 0, A.SWC_CTL, 0⟩, A.SWC_CTL, 2 ^ F.SWC_CTL_CLEAR_DROPS.lo, 2 ^ 64 - 1⟩ : WordWrite).sets F.SWC_CTL_CLEAR_DROPS = true := by
    rw [WordWrite.sets_bit _ _ _ _ rfl (by decide)]; decide
  have e1 : (⟨⟨.swcCtl, 0, 0, 0, A.SWC_CTL, 0⟩, A.SWC_CTL, 2 ^ F.SWC_CTL_CLEAR_DROPS.lo, 2 ^ 64 - 1⟩ : WordWrite).sets F.SWC_CTL_AUDIT = false := by
    rw [WordWrite.sets_bit _ _ _ _ rfl (by decide)]; decide
  simp only [Chip.afterWrite, e0, e1, List.contains_nil, Bool.not_false, Bool.and_true]

theorem Chip.writeBit_audit (s : Chip) (src : Source) (hs : s.serves src A.SWC_CTL) (hw : src.central) :
    s.writeBit src A.SWC_CTL F.SWC_CTL_AUDIT = s.switchControl true false := by
  have hmay : s.mayWrite src false ⟨.swcCtl, 0, 0, 0, A.SWC_CTL, 0⟩ = true := by rcases hw with rfl | rfl <;> rfl
  have hsee : (src : Source).part = none ∨ s.seenBy src ⟨.swcCtl, 0, 0, 0, A.SWC_CTL, 0⟩ ≠ 0 := by rcases hw with rfl | rfl <;> exact .inl rfl
  rw [Chip.writeBit_control s src A.SWC_CTL F.SWC_CTL_AUDIT _ hs hsee (by decide) (by decide)
    (by decide) (by decide) (locate_SWC_CTL) (control_SWC_CTL) hmay (by decide)]
  have e0 : (⟨⟨.swcCtl, 0, 0, 0, A.SWC_CTL, 0⟩, A.SWC_CTL, 2 ^ F.SWC_CTL_AUDIT.lo, 2 ^ 64 - 1⟩ : WordWrite).sets F.SWC_CTL_AUDIT = true := by
    rw [WordWrite.sets_bit _ _ _ _ rfl (by decide)]; decide
  have e1 : (⟨⟨.swcCtl, 0, 0, 0, A.SWC_CTL, 0⟩, A.SWC_CTL, 2 ^ F.SWC_CTL_AUDIT.lo, 2 ^ 64 - 1⟩ : WordWrite).sets F.SWC_CTL_CLEAR_DROPS = false := by
    rw [WordWrite.sets_bit _ _ _ _ rfl (by decide)]; decide
  simp only [Chip.afterWrite, e0, e1, List.contains_nil, Bool.not_false, Bool.and_true]

theorem locate_TMG_CTL : locateKey A.TMG_CTL = some ⟨.tmgCtl, 0, 0, 0, A.TMG_CTL, 0⟩ := by decide

theorem control_TMG_CTL : Loc.control ⟨.tmgCtl, 0, 0, 0, A.TMG_CTL, 0⟩ A.TMG_CTL :=
  ⟨rfl, rfl, by simp [Loc.specs, RegKind.fields], rfl, by simp⟩

theorem Chip.writeBit_clearMeters (s : Chip) (src : Source) (hs : s.serves src A.TMG_CTL) (hw : src.central) :
    s.writeBit src A.TMG_CTL F.TMG_CTL_CLEAR_COUNTS = s.clearMeterCounts := by
  have hmay : s.mayWrite src false ⟨.tmgCtl, 0, 0, 0, A.TMG_CTL, 0⟩ = true := by rcases hw with rfl | rfl <;> rfl
  have hsee : (src : Source).part = none ∨ s.seenBy src ⟨.tmgCtl, 0, 0, 0, A.TMG_CTL, 0⟩ ≠ 0 := by rcases hw with rfl | rfl <;> exact .inl rfl
  rw [Chip.writeBit_control s src A.TMG_CTL F.TMG_CTL_CLEAR_COUNTS _ hs hsee (by decide) (by decide)
    (by decide) (by decide) (locate_TMG_CTL) (control_TMG_CTL) hmay (by decide)]
  have e0 : (⟨⟨.tmgCtl, 0, 0, 0, A.TMG_CTL, 0⟩, A.TMG_CTL, 2 ^ F.TMG_CTL_CLEAR_COUNTS.lo, 2 ^ 64 - 1⟩ : WordWrite).sets F.TMG_CTL_CLEAR_COUNTS = true := by
    rw [WordWrite.sets_bit _ _ _ _ rfl (by decide)]; decide
  simp only [Chip.afterWrite, e0, List.contains_nil, Bool.not_false, Bool.and_true, if_true]

theorem locate_RTE_EPOCH_CTL : locateKey A.RTE_EPOCH_CTL = some ⟨.rteEpochCtl, 0, 0, 0, A.RTE_EPOCH_CTL, 0⟩ := by decide

theorem control_RTE_EPOCH_CTL : Loc.control ⟨.rteEpochCtl, 0, 0, 0, A.RTE_EPOCH_CTL, 0⟩ A.RTE_EPOCH_CTL :=
  ⟨rfl, rfl, by simp [Loc.specs, RegKind.fields], rfl, by simp⟩

theorem Chip.writeBit_arm (s : Chip) (src : Source) (hs : s.serves src A.RTE_EPOCH_CTL) (hw : src.central) :
    s.writeBit src A.RTE_EPOCH_CTL F.RTE_EPOCH_CTL_ARM = s.epochControl (2 ^ F.RTE_EPOCH_CTL_ARM.lo) := by
  have hmay : s.mayWrite src false ⟨.rteEpochCtl, 0, 0, 0, A.RTE_EPOCH_CTL, 0⟩ = true := by rcases hw with rfl | rfl <;> rfl
  have hsee : (src : Source).part = none ∨ s.seenBy src ⟨.rteEpochCtl, 0, 0, 0, A.RTE_EPOCH_CTL, 0⟩ ≠ 0 := by rcases hw with rfl | rfl <;> exact .inl rfl
  rw [Chip.writeBit_control s src A.RTE_EPOCH_CTL F.RTE_EPOCH_CTL_ARM _ hs hsee (by decide) (by decide)
    (by decide) (by decide) (locate_RTE_EPOCH_CTL) (control_RTE_EPOCH_CTL) hmay (by decide)]
  have e0 : (⟨⟨.rteEpochCtl, 0, 0, 0, A.RTE_EPOCH_CTL, 0⟩, A.RTE_EPOCH_CTL, 2 ^ F.RTE_EPOCH_CTL_ARM.lo, 2 ^ 64 - 1⟩ : WordWrite).sets F.RTE_EPOCH_CTL_ARM = true := by
    rw [WordWrite.sets_bit _ _ _ _ rfl (by decide)]; decide
  have em : 2 ^ F.RTE_EPOCH_CTL_ARM.lo &&& (2 ^ 64 - 1) = 2 ^ F.RTE_EPOCH_CTL_ARM.lo := by decide
  simp only [Chip.afterWrite, em]

theorem Chip.writeBit_disarm (s : Chip) (src : Source) (hs : s.serves src A.RTE_EPOCH_CTL) (hw : src.central) :
    s.writeBit src A.RTE_EPOCH_CTL F.RTE_EPOCH_CTL_DISARM = s.epochControl (2 ^ F.RTE_EPOCH_CTL_DISARM.lo) := by
  have hmay : s.mayWrite src false ⟨.rteEpochCtl, 0, 0, 0, A.RTE_EPOCH_CTL, 0⟩ = true := by rcases hw with rfl | rfl <;> rfl
  have hsee : (src : Source).part = none ∨ s.seenBy src ⟨.rteEpochCtl, 0, 0, 0, A.RTE_EPOCH_CTL, 0⟩ ≠ 0 := by rcases hw with rfl | rfl <;> exact .inl rfl
  rw [Chip.writeBit_control s src A.RTE_EPOCH_CTL F.RTE_EPOCH_CTL_DISARM _ hs hsee (by decide) (by decide)
    (by decide) (by decide) (locate_RTE_EPOCH_CTL) (control_RTE_EPOCH_CTL) hmay (by decide)]
  have e0 : (⟨⟨.rteEpochCtl, 0, 0, 0, A.RTE_EPOCH_CTL, 0⟩, A.RTE_EPOCH_CTL, 2 ^ F.RTE_EPOCH_CTL_DISARM.lo, 2 ^ 64 - 1⟩ : WordWrite).sets F.RTE_EPOCH_CTL_DISARM = true := by
    rw [WordWrite.sets_bit _ _ _ _ rfl (by decide)]; decide
  have em : 2 ^ F.RTE_EPOCH_CTL_DISARM.lo &&& (2 ^ 64 - 1) = 2 ^ F.RTE_EPOCH_CTL_DISARM.lo := by decide
  simp only [Chip.afterWrite, em]

theorem Chip.writeBit_clearRouteDrops (s : Chip) (src : Source) (hs : s.serves src A.RTE_EPOCH_CTL) (hw : src.central) :
    s.writeBit src A.RTE_EPOCH_CTL F.RTE_EPOCH_CTL_CLEAR_DROPS = s.epochControl (2 ^ F.RTE_EPOCH_CTL_CLEAR_DROPS.lo) := by
  have hmay : s.mayWrite src false ⟨.rteEpochCtl, 0, 0, 0, A.RTE_EPOCH_CTL, 0⟩ = true := by rcases hw with rfl | rfl <;> rfl
  have hsee : (src : Source).part = none ∨ s.seenBy src ⟨.rteEpochCtl, 0, 0, 0, A.RTE_EPOCH_CTL, 0⟩ ≠ 0 := by rcases hw with rfl | rfl <;> exact .inl rfl
  rw [Chip.writeBit_control s src A.RTE_EPOCH_CTL F.RTE_EPOCH_CTL_CLEAR_DROPS _ hs hsee (by decide) (by decide)
    (by decide) (by decide) (locate_RTE_EPOCH_CTL) (control_RTE_EPOCH_CTL) hmay (by decide)]
  have e0 : (⟨⟨.rteEpochCtl, 0, 0, 0, A.RTE_EPOCH_CTL, 0⟩, A.RTE_EPOCH_CTL, 2 ^ F.RTE_EPOCH_CTL_CLEAR_DROPS.lo, 2 ^ 64 - 1⟩ : WordWrite).sets F.RTE_EPOCH_CTL_CLEAR_DROPS = true := by
    rw [WordWrite.sets_bit _ _ _ _ rfl (by decide)]; decide
  have em : 2 ^ F.RTE_EPOCH_CTL_CLEAR_DROPS.lo &&& (2 ^ 64 - 1) = 2 ^ F.RTE_EPOCH_CTL_CLEAR_DROPS.lo := by decide
  simp only [Chip.afterWrite, em]

theorem locate_GLB_RESET_CTL : locateKey A.GLB_RESET_CTL = some ⟨.glbResetCtl, 0, 0, 0, A.GLB_RESET_CTL, 0⟩ := by decide

theorem control_GLB_RESET_CTL : Loc.control ⟨.glbResetCtl, 0, 0, 0, A.GLB_RESET_CTL, 0⟩ A.GLB_RESET_CTL :=
  ⟨rfl, rfl, by simp [Loc.specs, RegKind.fields], rfl, by simp⟩

theorem Chip.writeBit_resetData (s : Chip) (src : Source) (hs : s.serves src A.GLB_RESET_CTL) (hw : src.central) :
    s.writeBit src A.GLB_RESET_CTL F.GLB_RESET_CTL_DATA = s.requestReset 0 2 := by
  have hmay : s.mayWrite src false ⟨.glbResetCtl, 0, 0, 0, A.GLB_RESET_CTL, 0⟩ = true := by rcases hw with rfl | rfl <;> rfl
  have hsee : (src : Source).part = none ∨ s.seenBy src ⟨.glbResetCtl, 0, 0, 0, A.GLB_RESET_CTL, 0⟩ ≠ 0 := by rcases hw with rfl | rfl <;> exact .inl rfl
  rw [Chip.writeBit_control s src A.GLB_RESET_CTL F.GLB_RESET_CTL_DATA _ hs hsee (by decide) (by decide)
    (by decide) (by decide) (locate_GLB_RESET_CTL) (control_GLB_RESET_CTL) hmay (by decide)]
  have e0 : (⟨⟨.glbResetCtl, 0, 0, 0, A.GLB_RESET_CTL, 0⟩, A.GLB_RESET_CTL, 2 ^ F.GLB_RESET_CTL_DATA.lo, 2 ^ 64 - 1⟩ : WordWrite).sets F.GLB_RESET_CTL_DATA = true := by
    rw [WordWrite.sets_bit _ _ _ _ rfl (by decide)]; decide
  have e1 : (⟨⟨.glbResetCtl, 0, 0, 0, A.GLB_RESET_CTL, 0⟩, A.GLB_RESET_CTL, 2 ^ F.GLB_RESET_CTL_DATA.lo, 2 ^ 64 - 1⟩ : WordWrite).sets F.GLB_RESET_CTL_CONTROL = false := by
    rw [WordWrite.sets_bit _ _ _ _ rfl (by decide)]; decide
  have e2 : (⟨⟨.glbResetCtl, 0, 0, 0, A.GLB_RESET_CTL, 0⟩, A.GLB_RESET_CTL, 2 ^ F.GLB_RESET_CTL_DATA.lo, 2 ^ 64 - 1⟩ : WordWrite).sets F.GLB_RESET_CTL_RELEASE = false := by
    rw [WordWrite.sets_bit _ _ _ _ rfl (by decide)]; decide
  simp only [Chip.afterWrite, e0, e1, e2, List.contains_nil, Bool.not_false, Bool.and_true, Bool.false_eq_true, if_true, if_false]

theorem Chip.writeBit_resetControl (s : Chip) (src : Source) (hs : s.serves src A.GLB_RESET_CTL) (hw : src.central) :
    s.writeBit src A.GLB_RESET_CTL F.GLB_RESET_CTL_CONTROL = s.requestReset 1 2 := by
  have hmay : s.mayWrite src false ⟨.glbResetCtl, 0, 0, 0, A.GLB_RESET_CTL, 0⟩ = true := by rcases hw with rfl | rfl <;> rfl
  have hsee : (src : Source).part = none ∨ s.seenBy src ⟨.glbResetCtl, 0, 0, 0, A.GLB_RESET_CTL, 0⟩ ≠ 0 := by rcases hw with rfl | rfl <;> exact .inl rfl
  rw [Chip.writeBit_control s src A.GLB_RESET_CTL F.GLB_RESET_CTL_CONTROL _ hs hsee (by decide) (by decide)
    (by decide) (by decide) (locate_GLB_RESET_CTL) (control_GLB_RESET_CTL) hmay (by decide)]
  have e0 : (⟨⟨.glbResetCtl, 0, 0, 0, A.GLB_RESET_CTL, 0⟩, A.GLB_RESET_CTL, 2 ^ F.GLB_RESET_CTL_CONTROL.lo, 2 ^ 64 - 1⟩ : WordWrite).sets F.GLB_RESET_CTL_CONTROL = true := by
    rw [WordWrite.sets_bit _ _ _ _ rfl (by decide)]; decide
  have e1 : (⟨⟨.glbResetCtl, 0, 0, 0, A.GLB_RESET_CTL, 0⟩, A.GLB_RESET_CTL, 2 ^ F.GLB_RESET_CTL_CONTROL.lo, 2 ^ 64 - 1⟩ : WordWrite).sets F.GLB_RESET_CTL_DATA = false := by
    rw [WordWrite.sets_bit _ _ _ _ rfl (by decide)]; decide
  have e2 : (⟨⟨.glbResetCtl, 0, 0, 0, A.GLB_RESET_CTL, 0⟩, A.GLB_RESET_CTL, 2 ^ F.GLB_RESET_CTL_CONTROL.lo, 2 ^ 64 - 1⟩ : WordWrite).sets F.GLB_RESET_CTL_RELEASE = false := by
    rw [WordWrite.sets_bit _ _ _ _ rfl (by decide)]; decide
  simp only [Chip.afterWrite, e0, e1, e2, List.contains_nil, Bool.not_false, Bool.and_true, Bool.false_eq_true, if_true, if_false]

theorem Chip.writeBit_release (s : Chip) (src : Source) (hs : s.serves src A.GLB_RESET_CTL) (hw : src.central) :
    s.writeBit src A.GLB_RESET_CTL F.GLB_RESET_CTL_RELEASE = s.bootRelease := by
  have hmay : s.mayWrite src false ⟨.glbResetCtl, 0, 0, 0, A.GLB_RESET_CTL, 0⟩ = true := by rcases hw with rfl | rfl <;> rfl
  have hsee : (src : Source).part = none ∨ s.seenBy src ⟨.glbResetCtl, 0, 0, 0, A.GLB_RESET_CTL, 0⟩ ≠ 0 := by rcases hw with rfl | rfl <;> exact .inl rfl
  rw [Chip.writeBit_control s src A.GLB_RESET_CTL F.GLB_RESET_CTL_RELEASE _ hs hsee (by decide) (by decide)
    (by decide) (by decide) (locate_GLB_RESET_CTL) (control_GLB_RESET_CTL) hmay (by decide)]
  have e0 : (⟨⟨.glbResetCtl, 0, 0, 0, A.GLB_RESET_CTL, 0⟩, A.GLB_RESET_CTL, 2 ^ F.GLB_RESET_CTL_RELEASE.lo, 2 ^ 64 - 1⟩ : WordWrite).sets F.GLB_RESET_CTL_RELEASE = true := by
    rw [WordWrite.sets_bit _ _ _ _ rfl (by decide)]; decide
  have e1 : (⟨⟨.glbResetCtl, 0, 0, 0, A.GLB_RESET_CTL, 0⟩, A.GLB_RESET_CTL, 2 ^ F.GLB_RESET_CTL_RELEASE.lo, 2 ^ 64 - 1⟩ : WordWrite).sets F.GLB_RESET_CTL_DATA = false := by
    rw [WordWrite.sets_bit _ _ _ _ rfl (by decide)]; decide
  have e2 : (⟨⟨.glbResetCtl, 0, 0, 0, A.GLB_RESET_CTL, 0⟩, A.GLB_RESET_CTL, 2 ^ F.GLB_RESET_CTL_RELEASE.lo, 2 ^ 64 - 1⟩ : WordWrite).sets F.GLB_RESET_CTL_CONTROL = false := by
    rw [WordWrite.sets_bit _ _ _ _ rfl (by decide)]; decide
  simp only [Chip.afterWrite, e0, e1, e2, List.contains_nil, Bool.not_false, Bool.and_true, Bool.false_eq_true, if_true, if_false]

theorem locate_CEL_CTL (n : Nat) (hn : n < 64) : locateKey (A.CEL_CTL n) = some ⟨.celCtl, n, 0, 0, A.CEL_CTL n, 0⟩ :=
  (by decide : ∀ n : Fin 64, locateKey (A.CEL_CTL n.val) = some ⟨.celCtl, n.val, 0, 0, A.CEL_CTL n.val, 0⟩) ⟨n, hn⟩

theorem control_CEL_CTL (n : Nat) : Loc.control ⟨.celCtl, n, 0, 0, A.CEL_CTL n, 0⟩ (A.CEL_CTL n) :=
  ⟨rfl, rfl, by simp [Loc.specs, RegKind.fields], rfl, by simp⟩

theorem Chip.writeBit_cellReset (s : Chip) (src : Source) (n : Nat) (hn : n < 64) (hs : s.serves src (A.CEL_CTL n)) (hw : src.central) :
    s.writeBit src (A.CEL_CTL n) F.CEL_CTL_RESET = s.engineReset n := by
  have hmay : s.mayWrite src false ⟨.celCtl, n, 0, 0, A.CEL_CTL n, 0⟩ = true := by rcases hw with rfl | rfl <;> rfl
  have hsee : (src : Source).part = none ∨ s.seenBy src ⟨.celCtl, n, 0, 0, A.CEL_CTL n, 0⟩ ≠ 0 := by rcases hw with rfl | rfl <;> exact .inl rfl
  rw [Chip.writeBit_control s src (A.CEL_CTL n) F.CEL_CTL_RESET _ hs hsee (by unfold A.CEL_CTL; omega) (by unfold A.CEL_CTL; omega)
    (by unfold A.CEL_CTL; omega) (by unfold A.CEL_CTL; omega) (locate_CEL_CTL n hn) (control_CEL_CTL n) hmay (by decide)]
  have e0 : (⟨⟨.celCtl, n, 0, 0, A.CEL_CTL n, 0⟩, A.CEL_CTL n, 2 ^ F.CEL_CTL_RESET.lo, 2 ^ 64 - 1⟩ : WordWrite).sets F.CEL_CTL_RESET = true := by
    rw [WordWrite.sets_bit _ _ _ _ rfl (by decide)]; decide
  simp only [Chip.afterWrite, e0, List.contains_nil, Bool.not_false, Bool.and_true, if_true]

theorem locate_MTX_CTL (n : Nat) (hn : n < 16) : locateKey (A.MTX_CTL n) = some ⟨.mtxCtl, n, 0, 0, A.MTX_CTL n, 0⟩ :=
  (by decide : ∀ n : Fin 16, locateKey (A.MTX_CTL n.val) = some ⟨.mtxCtl, n.val, 0, 0, A.MTX_CTL n.val, 0⟩) ⟨n, hn⟩

theorem control_MTX_CTL (n : Nat) : Loc.control ⟨.mtxCtl, n, 0, 0, A.MTX_CTL n, 0⟩ (A.MTX_CTL n) :=
  ⟨rfl, rfl, by simp [Loc.specs, RegKind.fields], rfl, by simp⟩

theorem Chip.writeBit_tileReset (s : Chip) (src : Source) (n : Nat) (hn : n < 16) (hs : s.serves src (A.MTX_CTL n)) (hw : src.central) :
    s.writeBit src (A.MTX_CTL n) F.MTX_CTL_RESET = s.engineReset (64 + n) := by
  have hmay : s.mayWrite src false ⟨.mtxCtl, n, 0, 0, A.MTX_CTL n, 0⟩ = true := by rcases hw with rfl | rfl <;> rfl
  have hsee : (src : Source).part = none ∨ s.seenBy src ⟨.mtxCtl, n, 0, 0, A.MTX_CTL n, 0⟩ ≠ 0 := by rcases hw with rfl | rfl <;> exact .inl rfl
  rw [Chip.writeBit_control s src (A.MTX_CTL n) F.MTX_CTL_RESET _ hs hsee (by unfold A.MTX_CTL; omega) (by unfold A.MTX_CTL; omega)
    (by unfold A.MTX_CTL; omega) (by unfold A.MTX_CTL; omega) (locate_MTX_CTL n hn) (control_MTX_CTL n) hmay (by decide)]
  have e0 : (⟨⟨.mtxCtl, n, 0, 0, A.MTX_CTL n, 0⟩, A.MTX_CTL n, 2 ^ F.MTX_CTL_RESET.lo, 2 ^ 64 - 1⟩ : WordWrite).sets F.MTX_CTL_RESET = true := by
    rw [WordWrite.sets_bit _ _ _ _ rfl (by decide)]; decide
  simp only [Chip.afterWrite, e0, List.contains_nil, Bool.not_false, Bool.and_true, if_true]

theorem locate_PCE_MWDOG : locateKey A.PCE_MWDOG = some ⟨.pceMwdog, 0, 0, 0, A.PCE_MWDOG, 0⟩ := by decide

theorem control_PCE_MWDOG : Loc.control ⟨.pceMwdog, 0, 0, 0, A.PCE_MWDOG, 0⟩ A.PCE_MWDOG :=
  ⟨rfl, rfl, by simp [Loc.specs, RegKind.fields], rfl, by simp⟩

theorem Chip.writeBit_kick (s : Chip) (hs : s.serves .newt A.PCE_MWDOG) :
    s.writeBit .newt A.PCE_MWDOG F.PCE_MWDOG_KICK = s.kickWatchdog := by
  have hmay : s.mayWrite .newt false ⟨.pceMwdog, 0, 0, 0, A.PCE_MWDOG, 0⟩ = true := rfl
  have hsee : (.newt : Source).part = none ∨ s.seenBy .newt ⟨.pceMwdog, 0, 0, 0, A.PCE_MWDOG, 0⟩ ≠ 0 := .inl rfl
  rw [Chip.writeBit_control s .newt A.PCE_MWDOG F.PCE_MWDOG_KICK _ hs hsee (by decide) (by decide)
    (by decide) (by decide) (locate_PCE_MWDOG) (control_PCE_MWDOG) hmay (by decide)]
  have e0 : (⟨⟨.pceMwdog, 0, 0, 0, A.PCE_MWDOG, 0⟩, A.PCE_MWDOG, 2 ^ F.PCE_MWDOG_KICK.lo, 2 ^ 64 - 1⟩ : WordWrite).sets F.PCE_MWDOG_KICK = true := by
    rw [WordWrite.sets_bit _ _ _ _ rfl (by decide)]; decide
  simp only [Chip.afterWrite, e0, List.contains_nil, Bool.not_false, Bool.and_true, if_true]

theorem locate_ERR_REPAIR_CTL : locateKey A.ERR_REPAIR_CTL = some ⟨.errRepairCtl, 0, 0, 0, A.ERR_REPAIR_CTL, 0⟩ := by decide

theorem control_ERR_REPAIR_CTL : Loc.control ⟨.errRepairCtl, 0, 0, 0, A.ERR_REPAIR_CTL, 0⟩ A.ERR_REPAIR_CTL :=
  ⟨rfl, rfl, by simp [Loc.specs, RegKind.fields], rfl, by simp⟩

theorem Chip.writeBit_repair (s : Chip) (hs : s.serves .newt A.ERR_REPAIR_CTL) :
    s.writeBit .newt A.ERR_REPAIR_CTL F.ERR_REPAIR_CTL_GO = s.repair := by
  have hmay : s.mayWrite .newt false ⟨.errRepairCtl, 0, 0, 0, A.ERR_REPAIR_CTL, 0⟩ = true := rfl
  have hsee : (.newt : Source).part = none ∨ s.seenBy .newt ⟨.errRepairCtl, 0, 0, 0, A.ERR_REPAIR_CTL, 0⟩ ≠ 0 := .inl rfl
  rw [Chip.writeBit_control s .newt A.ERR_REPAIR_CTL F.ERR_REPAIR_CTL_GO _ hs hsee (by decide) (by decide)
    (by decide) (by decide) (locate_ERR_REPAIR_CTL) (control_ERR_REPAIR_CTL) hmay (by decide)]
  have e0 : (⟨⟨.errRepairCtl, 0, 0, 0, A.ERR_REPAIR_CTL, 0⟩, A.ERR_REPAIR_CTL, 2 ^ F.ERR_REPAIR_CTL_GO.lo, 2 ^ 64 - 1⟩ : WordWrite).sets F.ERR_REPAIR_CTL_GO = true := by
    rw [WordWrite.sets_bit _ _ _ _ rfl (by decide)]; decide
  simp only [Chip.afterWrite, e0, List.contains_nil, Bool.not_false, Bool.and_true, if_true]

theorem locate_SEQ_Q_CTL (n : Nat) (hn : n < 1024) : locateKey (A.SEQ_Q_CTL n) = some ⟨.seqQCtl, n, 0, 0, A.SEQ_Q_CTL n, 0⟩ := by
  have hb : blockRows (A.SEQ_Q_CTL n) = rowsSEQ := by
    unfold A.SEQ_Q_CTL blockRows
    repeat rw [if_neg (by omega)]
    rw [if_pos (by omega)]
  unfold locateKey
  rw [hb]
  have hs : ∀ (k : RegKind) (b m c : Nat), b ≤ A.SEQ_Q_CTL n → 0 < m → 8 * k.allWords ≤ (A.SEQ_Q_CTL n - b) % m →
      (⟨k, b, [⟨m, c⟩]⟩ : Row).locate (A.SEQ_Q_CTL n) = none := by
    intro k b m c h1 h2 h3
    unfold Row.locate
    simp only [Row.indices]
    rw [if_neg (by omega)]
    refine if_neg ?_
    simp only [Bool.and_eq_true, Nat.blt_eq]
    omega
  have hz : ∀ (k : RegKind) (b : Nat), b + 8 * k.allWords ≤ A.SEQ_Q_CTL n → (⟨k, b, []⟩ : Row).locate (A.SEQ_Q_CTL n) = none := by
    intro k b h1
    unfold Row.locate
    simp only [Row.indices]
    rw [if_neg (by omega)]
    refine if_neg ?_
    simp only [Bool.and_eq_true, Nat.blt_eq]
    omega
  have hc : ∀ (k : RegKind) (b m c : Nat), b ≤ A.SEQ_Q_CTL n → m * c ≤ A.SEQ_Q_CTL n - b → 0 < m →
      (⟨k, b, [⟨m, c⟩]⟩ : Row).locate (A.SEQ_Q_CTL n) = none := by
    intro k b m c h1 h2 h3
    unfold Row.locate
    simp only [Row.indices]
    rw [if_neg (by omega)]
    refine if_neg ?_
    simp only [Bool.and_eq_true, Row.within, Nat.blt_eq, not_and, Bool.true_and]
    intro h
    have : c ≤ (A.SEQ_Q_CTL n - b) / m := by
      rw [Nat.le_div_iff_mul_le h3, Nat.mul_comm]; exact h2
    omega
  have hl : (⟨.seqQCtl, 0x1620030, [⟨0x40, 1024⟩]⟩ : Row).locate (A.SEQ_Q_CTL n) = some ⟨.seqQCtl, n, 0, 0, A.SEQ_Q_CTL n, 0⟩ := by
    have e1 : (A.SEQ_Q_CTL n - 0x1620030) / 0x40 = n := by unfold A.SEQ_Q_CTL; omega
    have e2 : (A.SEQ_Q_CTL n - 0x1620030) % 0x40 = 0 := by unfold A.SEQ_Q_CTL; omega
    have e3 : ¬ A.SEQ_Q_CTL n < 0x1620030 := by unfold A.SEQ_Q_CTL; omega
    unfold Row.locate
    simp only [Row.indices, Row.within, e1, e2, e3, if_false]
    have e4 : Nat.blt n 1024 = true := by rw [Nat.blt_eq]; exact hn
    have e5 : Nat.blt 0 (8 * RegKind.seqQCtl.allWords) = true := by decide
    simp [e4, e5]
  have n1 := hz .seqCtl 0x1600000 (by rw [show RegKind.seqCtl.allWords = 1 from rfl]; unfold A.SEQ_Q_CTL; omega)
  have n2 := hz .seqStatus 0x1600008 (by rw [show RegKind.seqStatus.allWords = 1 from rfl]; unfold A.SEQ_Q_CTL; omega)
  have n3 := hc .seqCblkOwner 0x1601000 0x8 64 (by unfold A.SEQ_Q_CTL; omega) (by unfold A.SEQ_Q_CTL; omega) (by omega)
  have w : ∀ k ∈ [RegKind.seqQCfg, .seqQSched, .seqQSqBase, .seqQCqBase, .seqQRing, .seqQState], k.allWords = 1 := by decide
  have n4 := hs .seqQCfg 0x1620000 0x40 1024 (by unfold A.SEQ_Q_CTL; omega) (by omega) (by rw [w _ (by decide)]; unfold A.SEQ_Q_CTL; omega)
  have n5 := hs .seqQSched 0x1620008 0x40 1024 (by unfold A.SEQ_Q_CTL; omega) (by omega) (by rw [w _ (by decide)]; unfold A.SEQ_Q_CTL; omega)
  have n6 := hs .seqQSqBase 0x1620010 0x40 1024 (by unfold A.SEQ_Q_CTL; omega) (by omega) (by rw [w _ (by decide)]; unfold A.SEQ_Q_CTL; omega)
  have n7 := hs .seqQCqBase 0x1620018 0x40 1024 (by unfold A.SEQ_Q_CTL; omega) (by omega) (by rw [w _ (by decide)]; unfold A.SEQ_Q_CTL; omega)
  have n8 := hs .seqQRing 0x1620020 0x40 1024 (by unfold A.SEQ_Q_CTL; omega) (by omega) (by rw [w _ (by decide)]; unfold A.SEQ_Q_CTL; omega)
  have n9 := hs .seqQState 0x1620028 0x40 1024 (by unfold A.SEQ_Q_CTL; omega) (by omega) (by rw [w _ (by decide)]; unfold A.SEQ_Q_CTL; omega)
  unfold rowsSEQ
  simp only [List.findSome?_cons, n1, n2, n3, n4, n5, n6, n7, n8, n9, hl]

theorem control_SEQ_Q_CTL (n : Nat) : Loc.control ⟨.seqQCtl, n, 0, 0, A.SEQ_Q_CTL n, 0⟩ (A.SEQ_Q_CTL n) :=
  ⟨rfl, rfl, by simp [Loc.specs, RegKind.fields], rfl, by simp⟩

theorem Chip.writeBit_queueEnable (s : Chip) (src : Source) (n : Nat) (hn : n < 1024) (hs : s.serves src (A.SEQ_Q_CTL n))
    (hw : src = .pf ∨ (src = .vf (n / 16) ∧ s.rd (A.SEQ_Q_CFG n) F.SEQ_Q_CFG_SOURCE = 2)) :
    s.writeBit src (A.SEQ_Q_CTL n) F.SEQ_Q_CTL_ENABLE = s.queueControl n (2 ^ F.SEQ_Q_CTL_ENABLE.lo) := by
  have hmay : s.mayWrite src false ⟨.seqQCtl, n, 0, 0, A.SEQ_Q_CTL n, 0⟩ = true := by
    rcases hw with rfl | ⟨rfl, h⟩
    · rfl
    · simp [Chip.mayWrite, RegKind.ofQueue, h]
  have hsee : (src : Source).part = none ∨ s.seenBy src ⟨.seqQCtl, n, 0, 0, A.SEQ_Q_CTL n, 0⟩ ≠ 0 := by
    rcases hw with rfl | ⟨rfl, h⟩
    · exact .inl rfl
    · exact .inr (by simp [Chip.seenBy, Chip.vfSees, RegKind.isOwnArray, allBits])
  rw [Chip.writeBit_control s src (A.SEQ_Q_CTL n) F.SEQ_Q_CTL_ENABLE _ hs hsee (by unfold A.SEQ_Q_CTL; omega) (by unfold A.SEQ_Q_CTL; omega)
    (by unfold A.SEQ_Q_CTL; omega) (by unfold A.SEQ_Q_CTL; omega) (locate_SEQ_Q_CTL n hn) (control_SEQ_Q_CTL n) hmay (by decide)]
  have e0 : (⟨⟨.seqQCtl, n, 0, 0, A.SEQ_Q_CTL n, 0⟩, A.SEQ_Q_CTL n, 2 ^ F.SEQ_Q_CTL_ENABLE.lo, 2 ^ 64 - 1⟩ : WordWrite).sets F.SEQ_Q_CTL_ENABLE = true := by
    rw [WordWrite.sets_bit _ _ _ _ rfl (by decide)]; decide
  have em : 2 ^ F.SEQ_Q_CTL_ENABLE.lo &&& (2 ^ 64 - 1) = 2 ^ F.SEQ_Q_CTL_ENABLE.lo := by decide
  simp only [Chip.afterWrite, em]

theorem Chip.writeBit_queueDisable (s : Chip) (src : Source) (n : Nat) (hn : n < 1024) (hs : s.serves src (A.SEQ_Q_CTL n))
    (hw : src = .pf ∨ (src = .vf (n / 16) ∧ s.rd (A.SEQ_Q_CFG n) F.SEQ_Q_CFG_SOURCE = 2)) :
    s.writeBit src (A.SEQ_Q_CTL n) F.SEQ_Q_CTL_DISABLE = s.queueControl n (2 ^ F.SEQ_Q_CTL_DISABLE.lo) := by
  have hmay : s.mayWrite src false ⟨.seqQCtl, n, 0, 0, A.SEQ_Q_CTL n, 0⟩ = true := by
    rcases hw with rfl | ⟨rfl, h⟩
    · rfl
    · simp [Chip.mayWrite, RegKind.ofQueue, h]
  have hsee : (src : Source).part = none ∨ s.seenBy src ⟨.seqQCtl, n, 0, 0, A.SEQ_Q_CTL n, 0⟩ ≠ 0 := by
    rcases hw with rfl | ⟨rfl, h⟩
    · exact .inl rfl
    · exact .inr (by simp [Chip.seenBy, Chip.vfSees, RegKind.isOwnArray, allBits])
  rw [Chip.writeBit_control s src (A.SEQ_Q_CTL n) F.SEQ_Q_CTL_DISABLE _ hs hsee (by unfold A.SEQ_Q_CTL; omega) (by unfold A.SEQ_Q_CTL; omega)
    (by unfold A.SEQ_Q_CTL; omega) (by unfold A.SEQ_Q_CTL; omega) (locate_SEQ_Q_CTL n hn) (control_SEQ_Q_CTL n) hmay (by decide)]
  have e0 : (⟨⟨.seqQCtl, n, 0, 0, A.SEQ_Q_CTL n, 0⟩, A.SEQ_Q_CTL n, 2 ^ F.SEQ_Q_CTL_DISABLE.lo, 2 ^ 64 - 1⟩ : WordWrite).sets F.SEQ_Q_CTL_DISABLE = true := by
    rw [WordWrite.sets_bit _ _ _ _ rfl (by decide)]; decide
  have em : 2 ^ F.SEQ_Q_CTL_DISABLE.lo &&& (2 ^ 64 - 1) = 2 ^ F.SEQ_Q_CTL_DISABLE.lo := by decide
  simp only [Chip.afterWrite, em]

end Sys2Proof.Machine
end

