-- ==== Sys2Proof/Laws/Memory.lean ====
section
/-!
SUPPORT. The memories of the staging store and of the scratchpads: what a byte reads after a write, and that every memory operation
keeps the canonical form.
-/
namespace Sys2Proof.Machine

theorem Mem.byte_setByte (m : Mem) (a b : Nat) (v : Byte) :
    (Mem.setByte m a v).byte b = if b = a then v else m.byte b := by
  simp only [Mem.byte, Mem.setByte, Tab.get_set]

theorem Mem.wf_setByte (m : Mem) (a : Nat) (v : Byte) (h : Memory.wf m = true) : Memory.wf (Mem.setByte m a v) = true :=
  Tab.canonical_set _ m a v h

theorem Mem.wf_putFrom (key : Nat → Nat) (m : Mem) (o : Nat) (l : List Byte) (h : Memory.wf m = true) :
    Memory.wf (Mem.putFrom key m o l) = true := by
  induction l generalizing m o with
  | nil => exact h
  | cons b l ih => exact ih _ _ (Mem.wf_setByte m _ _ h)

theorem Mem.wf_filter (m : Mem) (p : Nat × Byte → Bool) (h : Memory.wf m = true) : Memory.wf (m.filter p) = true :=
  Tab.canonical_filter _ m p h

/-- A byte whose key is none of those written. -/
theorem Mem.byte_putFrom_other (key : Nat → Nat) (m : Mem) (o k : Nat) (l : List Byte)
    (h : ∀ i, o ≤ i → i < o + l.length → key i ≠ k) : (Mem.putFrom key m o l).byte k = m.byte k := by
  induction l generalizing m o with
  | nil => rfl
  | cons b l ih =>
    simp only [Mem.putFrom]
    rw [ih]
    · have := h o (le_refl o) (by simp)
      rw [Mem.byte_setByte, if_neg (fun e => this e.symm)]
    · intro i h1 h2
      exact h i (by omega) (by simp only [List.length_cons]; omega)

/-- A byte that was written, where the keys are apart. -/
theorem Mem.byte_putFrom (key : Nat → Nat) (m : Mem) (o j : Nat) (l : List Byte)
    (hk : ∀ i i', o ≤ i → o ≤ i' → i < o + l.length → i' < o + l.length → key i = key i' → i = i') (hj : j < l.length) :
    (Mem.putFrom key m o l).byte (key (o + j)) = l.getD j 0 := by
  induction l generalizing m o j with
  | nil => simp at hj
  | cons b l ih =>
    simp only [List.length_cons] at hj hk
    simp only [Mem.putFrom]
    cases j with
    | zero =>
      rw [Mem.byte_putFrom_other]
      · simp [Mem.byte_setByte]
      · intro i h1 h2 he
        have := hk i (o + 0) (by omega) (by omega) (by omega) (by omega) he
        omega
    | succ j =>
      have h := ih (m := Mem.setByte m (key o) b) (o := o + 1) (j := j)
        (fun i i' a b c d e => hk i i' (by omega) (by omega) (by omega) (by omega) e) (by omega)
      have e : o + 1 + j = o + (j + 1) := by omega
      rw [e] at h
      simpa using h

/-- Two offsets of one partition lie at one key only where they are equal (R166). -/
theorem stgKey_inj (l : List Nat) (o o' : Nat) (hl : l.Nodup) (hne : l ≠ [])
    (h : o < 1610612736 * l.length) (h' : o' < 1610612736 * l.length) (he : stgKey l o = stgKey l o') : o = o' := by
  have hn : 1 ≤ l.length := by
    cases l with
    | nil => exact absurd rfl hne
    | cons a t => simp
  have hp : (2 : Nat) ^ 31 = 2147483648 := by norm_num
  unfold stgKey at he
  simp only [Nat.max_eq_right hn, hp] at he
  have c1 : o / 256 / l.length < 6291456 := by
    rw [Nat.div_lt_iff_lt_mul (by omega), Nat.div_lt_iff_lt_mul (by omega)]
    omega
  have c2 : o' / 256 / l.length < 6291456 := by
    rw [Nat.div_lt_iff_lt_mul (by omega), Nat.div_lt_iff_lt_mul (by omega)]
    omega
  have m1 : o / 256 % l.length < l.length := Nat.mod_lt _ (by omega)
  have m2 : o' / 256 % l.length < l.length := Nat.mod_lt _ (by omega)
  have d1 : l.length * (o / 256 / l.length) + o / 256 % l.length = o / 256 := Nat.div_add_mod _ _
  have d2 : l.length * (o' / 256 / l.length) + o' / 256 % l.length = o' / 256 := Nat.div_add_mod _ _
  clear h h' hp
  generalize o / 256 / l.length = q at *
  generalize o' / 256 / l.length = q' at *
  generalize o / 256 % l.length = m at *
  generalize o' / 256 % l.length = m' at *
  have e1 : l.getD m 0 = l.getD m' 0 := by
    generalize l.getD m 0 = x at *
    generalize l.getD m' 0 = y at *
    clear d1 d2 m1 m2
    omega
  have e2 : m = m' := by
    rw [List.getD_eq_getElem _ _ m1, List.getD_eq_getElem _ _ m2] at e1
    exact (List.Nodup.getElem_inj_iff hl).1 e1
  rw [e1] at he
  clear e1
  have e3 : q * 256 + o % 256 = q' * 256 + o' % 256 := by
    rw [Nat.add_assoc, Nat.add_assoc] at he
    exact Nat.add_left_cancel he
  have e4 : q = q' := by clear d1 d2 he; omega
  have e5 : o % 256 = o' % 256 := by clear d1 d2 he; omega
  rw [e4, e2] at d1
  clear he
  omega

theorem scrKey_inj (e o o' : Nat) (h : scrKey e o = scrKey e o') : o = o' := by
  unfold scrKey at h
  omega

theorem Chip.wf_stgPut (s : Chip) (p o : Nat) (l : List Byte) (h : Memory.wf s.seq.stg = true) :
    Memory.wf (s.stgPut p o l).seq.stg = true := Mem.wf_putFrom _ _ _ _ h

theorem Chip.wf_scrPut (s : Chip) (e o : Nat) (l : List Byte) (h : Memory.wf s.seq.scr = true) :
    Memory.wf (s.scrPut e o l).seq.scr = true := Mem.wf_putFrom _ _ _ _ h

theorem Chip.wf_scrZero (s : Chip) (e : Nat) (h : Memory.wf s.seq.scr = true) : Memory.wf (s.scrZero e).seq.scr = true :=
  Mem.wf_filter _ _ h

theorem Chip.wf_hbmZero (s : Chip) (c : Nat) (h : Memory.wf s.seq.stg = true) : Memory.wf (s.hbmZero c).seq.stg = true :=
  Mem.wf_filter _ _ h

theorem Chip.wf_reset : Memory.wf Chip.reset.seq.stg = true ∧ Memory.wf Chip.reset.seq.scr = true := by decide

end Sys2Proof.Machine
end

