-- ==== Sys2Proof/Laws/State.lean ====
section
/-!
SUPPORT. What each basic update of the part leaves as it was, field by field, and what it writes.
-/
namespace Sys2Proof.Machine

@[simp] theorem State.run_pending (s : State) (f : Chip → Chip) : (s.run f).pending = s.pending := (rfl)
@[simp] theorem State.run_toChip (s : State) (f : Chip → Chip) : (s.run f).toChip = f s.toChip := (rfl)

@[simp] theorem Chip.wr_raw (s : Chip) (a : Nat) (f : Fld) (v : Nat) : (s.wr a f v).raw = s.raw := (rfl)
@[simp] theorem Chip.wr_tb (s : Chip) (a : Nat) (f : Fld) (v : Nat) : (s.wr a f v).tb = s.tb := (rfl)
@[simp] theorem Chip.wr_latchPf (s : Chip) (a : Nat) (f : Fld) (v : Nat) : (s.wr a f v).latchPf = s.latchPf := (rfl)
@[simp] theorem Chip.wr_latchVf (s : Chip) (a : Nat) (f : Fld) (v : Nat) : (s.wr a f v).latchVf = s.latchVf := (rfl)
@[simp] theorem Chip.wr_latchNewt (s : Chip) (a : Nat) (f : Fld) (v : Nat) : (s.wr a f v).latchNewt = s.latchNewt := (rfl)
@[simp] theorem Chip.wr_free (s : Chip) (a : Nat) (f : Fld) (v : Nat) : (s.wr a f v).free = s.free := (rfl)
@[simp] theorem Chip.wr_timers (s : Chip) (a : Nat) (f : Fld) (v : Nat) : (s.wr a f v).timers = s.timers := (rfl)
@[simp] theorem Chip.wr_out (s : Chip) (a : Nat) (f : Fld) (v : Nat) : (s.wr a f v).out = s.out := (rfl)
@[simp] theorem Chip.wr_errSeq (s : Chip) (a : Nat) (f : Fld) (v : Nat) : (s.wr a f v).errSeq = s.errSeq := (rfl)
@[simp] theorem Chip.wr_ports (s : Chip) (a : Nat) (f : Fld) (v : Nat) : (s.wr a f v).ports = s.ports := (rfl)
@[simp] theorem Chip.wr_sw (s : Chip) (a : Nat) (f : Fld) (v : Nat) : (s.wr a f v).sw = s.sw := (rfl)
@[simp] theorem Chip.wr_flows (s : Chip) (a : Nat) (f : Fld) (v : Nat) : (s.wr a f v).flows = s.flows := (rfl)
@[simp] theorem Chip.wr_traffic (s : Chip) (a : Nat) (f : Fld) (v : Nat) : (s.wr a f v).traffic = s.traffic := (rfl)
@[simp] theorem Chip.wr_samples (s : Chip) (a : Nat) (f : Fld) (v : Nat) : (s.wr a f v).samples = s.samples := (rfl)
@[simp] theorem Chip.wr_samplesArmed (s : Chip) (a : Nat) (f : Fld) (v : Nat) : (s.wr a f v).samplesArmed = s.samplesArmed := (rfl)
@[simp] theorem Chip.wr_pool (s : Chip) (a : Nat) (f : Fld) (v : Nat) : (s.wr a f v).pool = s.pool := (rfl)
@[simp] theorem Chip.wr_seq (s : Chip) (a : Nat) (f : Fld) (v : Nat) : (s.wr a f v).seq = s.seq := (rfl)
@[simp] theorem Chip.wr_drbgUse (s : Chip) (a : Nat) (f : Fld) (v : Nat) : (s.wr a f v).drbgUse = s.drbgUse := (rfl)
@[simp] theorem Chip.wr_pace (s : Chip) (a : Nat) (f : Fld) (v : Nat) : (s.wr a f v).pace = s.pace := (rfl)
@[simp] theorem Chip.wr_align (s : Chip) (a : Nat) (f : Fld) (v : Nat) : (s.wr a f v).align = s.align := (rfl)
@[simp] theorem Chip.wr_power (s : Chip) (a : Nat) (f : Fld) (v : Nat) : (s.wr a f v).power = s.power := (rfl)
@[simp] theorem Chip.wr_newt (s : Chip) (a : Nat) (f : Fld) (v : Nat) : (s.wr a f v).newt = s.newt := (rfl)

@[simp] theorem Chip.wrB_raw (s : Chip) (a : Nat) (f : Fld) (b : Bool) : (s.wrB a f b).raw = s.raw := (rfl)
@[simp] theorem Chip.wrB_tb (s : Chip) (a : Nat) (f : Fld) (b : Bool) : (s.wrB a f b).tb = s.tb := (rfl)
@[simp] theorem Chip.wrB_latchPf (s : Chip) (a : Nat) (f : Fld) (b : Bool) : (s.wrB a f b).latchPf = s.latchPf := (rfl)
@[simp] theorem Chip.wrB_latchVf (s : Chip) (a : Nat) (f : Fld) (b : Bool) : (s.wrB a f b).latchVf = s.latchVf := (rfl)
@[simp] theorem Chip.wrB_latchNewt (s : Chip) (a : Nat) (f : Fld) (b : Bool) : (s.wrB a f b).latchNewt = s.latchNewt := (rfl)
@[simp] theorem Chip.wrB_free (s : Chip) (a : Nat) (f : Fld) (b : Bool) : (s.wrB a f b).free = s.free := (rfl)
@[simp] theorem Chip.wrB_timers (s : Chip) (a : Nat) (f : Fld) (b : Bool) : (s.wrB a f b).timers = s.timers := (rfl)
@[simp] theorem Chip.wrB_out (s : Chip) (a : Nat) (f : Fld) (b : Bool) : (s.wrB a f b).out = s.out := (rfl)
@[simp] theorem Chip.wrB_errSeq (s : Chip) (a : Nat) (f : Fld) (b : Bool) : (s.wrB a f b).errSeq = s.errSeq := (rfl)
@[simp] theorem Chip.wrB_ports (s : Chip) (a : Nat) (f : Fld) (b : Bool) : (s.wrB a f b).ports = s.ports := (rfl)
@[simp] theorem Chip.wrB_sw (s : Chip) (a : Nat) (f : Fld) (b : Bool) : (s.wrB a f b).sw = s.sw := (rfl)
@[simp] theorem Chip.wrB_flows (s : Chip) (a : Nat) (f : Fld) (b : Bool) : (s.wrB a f b).flows = s.flows := (rfl)
@[simp] theorem Chip.wrB_traffic (s : Chip) (a : Nat) (f : Fld) (b : Bool) : (s.wrB a f b).traffic = s.traffic := (rfl)
@[simp] theorem Chip.wrB_samples (s : Chip) (a : Nat) (f : Fld) (b : Bool) : (s.wrB a f b).samples = s.samples := (rfl)
@[simp] theorem Chip.wrB_samplesArmed (s : Chip) (a : Nat) (f : Fld) (b : Bool) : (s.wrB a f b).samplesArmed = s.samplesArmed := (rfl)
@[simp] theorem Chip.wrB_pool (s : Chip) (a : Nat) (f : Fld) (b : Bool) : (s.wrB a f b).pool = s.pool := (rfl)
@[simp] theorem Chip.wrB_seq (s : Chip) (a : Nat) (f : Fld) (b : Bool) : (s.wrB a f b).seq = s.seq := (rfl)
@[simp] theorem Chip.wrB_drbgUse (s : Chip) (a : Nat) (f : Fld) (b : Bool) : (s.wrB a f b).drbgUse = s.drbgUse := (rfl)
@[simp] theorem Chip.wrB_pace (s : Chip) (a : Nat) (f : Fld) (b : Bool) : (s.wrB a f b).pace = s.pace := (rfl)
@[simp] theorem Chip.wrB_align (s : Chip) (a : Nat) (f : Fld) (b : Bool) : (s.wrB a f b).align = s.align := (rfl)
@[simp] theorem Chip.wrB_power (s : Chip) (a : Nat) (f : Fld) (b : Bool) : (s.wrB a f b).power = s.power := (rfl)
@[simp] theorem Chip.wrB_newt (s : Chip) (a : Nat) (f : Fld) (b : Bool) : (s.wrB a f b).newt = s.newt := (rfl)

@[simp] theorem Chip.bump_raw (s : Chip) (a : Nat) (f : Fld) (cap n : Nat) : (s.bump a f cap n).raw = s.raw := (rfl)
@[simp] theorem Chip.bump_tb (s : Chip) (a : Nat) (f : Fld) (cap n : Nat) : (s.bump a f cap n).tb = s.tb := (rfl)
@[simp] theorem Chip.bump_latchPf (s : Chip) (a : Nat) (f : Fld) (cap n : Nat) : (s.bump a f cap n).latchPf = s.latchPf := (rfl)
@[simp] theorem Chip.bump_latchVf (s : Chip) (a : Nat) (f : Fld) (cap n : Nat) : (s.bump a f cap n).latchVf = s.latchVf := (rfl)
@[simp] theorem Chip.bump_latchNewt (s : Chip) (a : Nat) (f : Fld) (cap n : Nat) : (s.bump a f cap n).latchNewt = s.latchNewt := (rfl)
@[simp] theorem Chip.bump_free (s : Chip) (a : Nat) (f : Fld) (cap n : Nat) : (s.bump a f cap n).free = s.free := (rfl)
@[simp] theorem Chip.bump_timers (s : Chip) (a : Nat) (f : Fld) (cap n : Nat) : (s.bump a f cap n).timers = s.timers := (rfl)
@[simp] theorem Chip.bump_out (s : Chip) (a : Nat) (f : Fld) (cap n : Nat) : (s.bump a f cap n).out = s.out := (rfl)
@[simp] theorem Chip.bump_errSeq (s : Chip) (a : Nat) (f : Fld) (cap n : Nat) : (s.bump a f cap n).errSeq = s.errSeq := (rfl)
@[simp] theorem Chip.bump_ports (s : Chip) (a : Nat) (f : Fld) (cap n : Nat) : (s.bump a f cap n).ports = s.ports := (rfl)
@[simp] theorem Chip.bump_sw (s : Chip) (a : Nat) (f : Fld) (cap n : Nat) : (s.bump a f cap n).sw = s.sw := (rfl)
@[simp] theorem Chip.bump_flows (s : Chip) (a : Nat) (f : Fld) (cap n : Nat) : (s.bump a f cap n).flows = s.flows := (rfl)
@[simp] theorem Chip.bump_traffic (s : Chip) (a : Nat) (f : Fld) (cap n : Nat) : (s.bump a f cap n).traffic = s.traffic := (rfl)
@[simp] theorem Chip.bump_samples (s : Chip) (a : Nat) (f : Fld) (cap n : Nat) : (s.bump a f cap n).samples = s.samples := (rfl)
@[simp] theorem Chip.bump_samplesArmed (s : Chip) (a : Nat) (f : Fld) (cap n : Nat) : (s.bump a f cap n).samplesArmed = s.samplesArmed := (rfl)
@[simp] theorem Chip.bump_pool (s : Chip) (a : Nat) (f : Fld) (cap n : Nat) : (s.bump a f cap n).pool = s.pool := (rfl)
@[simp] theorem Chip.bump_seq (s : Chip) (a : Nat) (f : Fld) (cap n : Nat) : (s.bump a f cap n).seq = s.seq := (rfl)
@[simp] theorem Chip.bump_drbgUse (s : Chip) (a : Nat) (f : Fld) (cap n : Nat) : (s.bump a f cap n).drbgUse = s.drbgUse := (rfl)
@[simp] theorem Chip.bump_pace (s : Chip) (a : Nat) (f : Fld) (cap n : Nat) : (s.bump a f cap n).pace = s.pace := (rfl)
@[simp] theorem Chip.bump_align (s : Chip) (a : Nat) (f : Fld) (cap n : Nat) : (s.bump a f cap n).align = s.align := (rfl)
@[simp] theorem Chip.bump_power (s : Chip) (a : Nat) (f : Fld) (cap n : Nat) : (s.bump a f cap n).power = s.power := (rfl)
@[simp] theorem Chip.bump_newt (s : Chip) (a : Nat) (f : Fld) (cap n : Nat) : (s.bump a f cap n).newt = s.newt := (rfl)

@[simp] theorem Chip.count_raw (s : Chip) (a : Nat) (f : Fld) : (s.count a f).raw = s.raw := (rfl)
@[simp] theorem Chip.count_tb (s : Chip) (a : Nat) (f : Fld) : (s.count a f).tb = s.tb := (rfl)
@[simp] theorem Chip.count_latchPf (s : Chip) (a : Nat) (f : Fld) : (s.count a f).latchPf = s.latchPf := (rfl)
@[simp] theorem Chip.count_latchVf (s : Chip) (a : Nat) (f : Fld) : (s.count a f).latchVf = s.latchVf := (rfl)
@[simp] theorem Chip.count_latchNewt (s : Chip) (a : Nat) (f : Fld) : (s.count a f).latchNewt = s.latchNewt := (rfl)
@[simp] theorem Chip.count_free (s : Chip) (a : Nat) (f : Fld) : (s.count a f).free = s.free := (rfl)
@[simp] theorem Chip.count_timers (s : Chip) (a : Nat) (f : Fld) : (s.count a f).timers = s.timers := (rfl)
@[simp] theorem Chip.count_out (s : Chip) (a : Nat) (f : Fld) : (s.count a f).out = s.out := (rfl)
@[simp] theorem Chip.count_errSeq (s : Chip) (a : Nat) (f : Fld) : (s.count a f).errSeq = s.errSeq := (rfl)
@[simp] theorem Chip.count_ports (s : Chip) (a : Nat) (f : Fld) : (s.count a f).ports = s.ports := (rfl)
@[simp] theorem Chip.count_sw (s : Chip) (a : Nat) (f : Fld) : (s.count a f).sw = s.sw := (rfl)
@[simp] theorem Chip.count_flows (s : Chip) (a : Nat) (f : Fld) : (s.count a f).flows = s.flows := (rfl)
@[simp] theorem Chip.count_traffic (s : Chip) (a : Nat) (f : Fld) : (s.count a f).traffic = s.traffic := (rfl)
@[simp] theorem Chip.count_samples (s : Chip) (a : Nat) (f : Fld) : (s.count a f).samples = s.samples := (rfl)
@[simp] theorem Chip.count_samplesArmed (s : Chip) (a : Nat) (f : Fld) : (s.count a f).samplesArmed = s.samplesArmed := (rfl)
@[simp] theorem Chip.count_pool (s : Chip) (a : Nat) (f : Fld) : (s.count a f).pool = s.pool := (rfl)
@[simp] theorem Chip.count_seq (s : Chip) (a : Nat) (f : Fld) : (s.count a f).seq = s.seq := (rfl)
@[simp] theorem Chip.count_drbgUse (s : Chip) (a : Nat) (f : Fld) : (s.count a f).drbgUse = s.drbgUse := (rfl)
@[simp] theorem Chip.count_pace (s : Chip) (a : Nat) (f : Fld) : (s.count a f).pace = s.pace := (rfl)
@[simp] theorem Chip.count_align (s : Chip) (a : Nat) (f : Fld) : (s.count a f).align = s.align := (rfl)
@[simp] theorem Chip.count_power (s : Chip) (a : Nat) (f : Fld) : (s.count a f).power = s.power := (rfl)
@[simp] theorem Chip.count_newt (s : Chip) (a : Nat) (f : Fld) : (s.count a f).newt = s.newt := (rfl)

@[simp] theorem Chip.wrap_raw (s : Chip) (a : Nat) (f : Fld) (n : Nat) : (s.wrap a f n).raw = s.raw := (rfl)
@[simp] theorem Chip.wrap_tb (s : Chip) (a : Nat) (f : Fld) (n : Nat) : (s.wrap a f n).tb = s.tb := (rfl)
@[simp] theorem Chip.wrap_latchPf (s : Chip) (a : Nat) (f : Fld) (n : Nat) : (s.wrap a f n).latchPf = s.latchPf := (rfl)
@[simp] theorem Chip.wrap_latchVf (s : Chip) (a : Nat) (f : Fld) (n : Nat) : (s.wrap a f n).latchVf = s.latchVf := (rfl)
@[simp] theorem Chip.wrap_latchNewt (s : Chip) (a : Nat) (f : Fld) (n : Nat) : (s.wrap a f n).latchNewt = s.latchNewt := (rfl)
@[simp] theorem Chip.wrap_free (s : Chip) (a : Nat) (f : Fld) (n : Nat) : (s.wrap a f n).free = s.free := (rfl)
@[simp] theorem Chip.wrap_timers (s : Chip) (a : Nat) (f : Fld) (n : Nat) : (s.wrap a f n).timers = s.timers := (rfl)
@[simp] theorem Chip.wrap_out (s : Chip) (a : Nat) (f : Fld) (n : Nat) : (s.wrap a f n).out = s.out := (rfl)
@[simp] theorem Chip.wrap_errSeq (s : Chip) (a : Nat) (f : Fld) (n : Nat) : (s.wrap a f n).errSeq = s.errSeq := (rfl)
@[simp] theorem Chip.wrap_ports (s : Chip) (a : Nat) (f : Fld) (n : Nat) : (s.wrap a f n).ports = s.ports := (rfl)
@[simp] theorem Chip.wrap_sw (s : Chip) (a : Nat) (f : Fld) (n : Nat) : (s.wrap a f n).sw = s.sw := (rfl)
@[simp] theorem Chip.wrap_flows (s : Chip) (a : Nat) (f : Fld) (n : Nat) : (s.wrap a f n).flows = s.flows := (rfl)
@[simp] theorem Chip.wrap_traffic (s : Chip) (a : Nat) (f : Fld) (n : Nat) : (s.wrap a f n).traffic = s.traffic := (rfl)
@[simp] theorem Chip.wrap_samples (s : Chip) (a : Nat) (f : Fld) (n : Nat) : (s.wrap a f n).samples = s.samples := (rfl)
@[simp] theorem Chip.wrap_samplesArmed (s : Chip) (a : Nat) (f : Fld) (n : Nat) : (s.wrap a f n).samplesArmed = s.samplesArmed := (rfl)
@[simp] theorem Chip.wrap_pool (s : Chip) (a : Nat) (f : Fld) (n : Nat) : (s.wrap a f n).pool = s.pool := (rfl)
@[simp] theorem Chip.wrap_seq (s : Chip) (a : Nat) (f : Fld) (n : Nat) : (s.wrap a f n).seq = s.seq := (rfl)
@[simp] theorem Chip.wrap_drbgUse (s : Chip) (a : Nat) (f : Fld) (n : Nat) : (s.wrap a f n).drbgUse = s.drbgUse := (rfl)
@[simp] theorem Chip.wrap_pace (s : Chip) (a : Nat) (f : Fld) (n : Nat) : (s.wrap a f n).pace = s.pace := (rfl)
@[simp] theorem Chip.wrap_align (s : Chip) (a : Nat) (f : Fld) (n : Nat) : (s.wrap a f n).align = s.align := (rfl)
@[simp] theorem Chip.wrap_power (s : Chip) (a : Nat) (f : Fld) (n : Nat) : (s.wrap a f n).power = s.power := (rfl)
@[simp] theorem Chip.wrap_newt (s : Chip) (a : Nat) (f : Fld) (n : Nat) : (s.wrap a f n).newt = s.newt := (rfl)

@[simp] theorem Chip.wrP_raw (s : Chip) (a n : Nat) (f : Fld) (v : Nat) : (s.wrP a n f v).raw = s.raw := (rfl)
@[simp] theorem Chip.wrP_tb (s : Chip) (a n : Nat) (f : Fld) (v : Nat) : (s.wrP a n f v).tb = s.tb := (rfl)
@[simp] theorem Chip.wrP_latchPf (s : Chip) (a n : Nat) (f : Fld) (v : Nat) : (s.wrP a n f v).latchPf = s.latchPf := (rfl)
@[simp] theorem Chip.wrP_latchVf (s : Chip) (a n : Nat) (f : Fld) (v : Nat) : (s.wrP a n f v).latchVf = s.latchVf := (rfl)
@[simp] theorem Chip.wrP_latchNewt (s : Chip) (a n : Nat) (f : Fld) (v : Nat) : (s.wrP a n f v).latchNewt = s.latchNewt := (rfl)
@[simp] theorem Chip.wrP_free (s : Chip) (a n : Nat) (f : Fld) (v : Nat) : (s.wrP a n f v).free = s.free := (rfl)
@[simp] theorem Chip.wrP_timers (s : Chip) (a n : Nat) (f : Fld) (v : Nat) : (s.wrP a n f v).timers = s.timers := (rfl)
@[simp] theorem Chip.wrP_out (s : Chip) (a n : Nat) (f : Fld) (v : Nat) : (s.wrP a n f v).out = s.out := (rfl)
@[simp] theorem Chip.wrP_errSeq (s : Chip) (a n : Nat) (f : Fld) (v : Nat) : (s.wrP a n f v).errSeq = s.errSeq := (rfl)
@[simp] theorem Chip.wrP_ports (s : Chip) (a n : Nat) (f : Fld) (v : Nat) : (s.wrP a n f v).ports = s.ports := (rfl)
@[simp] theorem Chip.wrP_sw (s : Chip) (a n : Nat) (f : Fld) (v : Nat) : (s.wrP a n f v).sw = s.sw := (rfl)
@[simp] theorem Chip.wrP_flows (s : Chip) (a n : Nat) (f : Fld) (v : Nat) : (s.wrP a n f v).flows = s.flows := (rfl)
@[simp] theorem Chip.wrP_traffic (s : Chip) (a n : Nat) (f : Fld) (v : Nat) : (s.wrP a n f v).traffic = s.traffic := (rfl)
@[simp] theorem Chip.wrP_samples (s : Chip) (a n : Nat) (f : Fld) (v : Nat) : (s.wrP a n f v).samples = s.samples := (rfl)
@[simp] theorem Chip.wrP_samplesArmed (s : Chip) (a n : Nat) (f : Fld) (v : Nat) : (s.wrP a n f v).samplesArmed = s.samplesArmed := (rfl)
@[simp] theorem Chip.wrP_pool (s : Chip) (a n : Nat) (f : Fld) (v : Nat) : (s.wrP a n f v).pool = s.pool := (rfl)
@[simp] theorem Chip.wrP_seq (s : Chip) (a n : Nat) (f : Fld) (v : Nat) : (s.wrP a n f v).seq = s.seq := (rfl)
@[simp] theorem Chip.wrP_drbgUse (s : Chip) (a n : Nat) (f : Fld) (v : Nat) : (s.wrP a n f v).drbgUse = s.drbgUse := (rfl)
@[simp] theorem Chip.wrP_pace (s : Chip) (a n : Nat) (f : Fld) (v : Nat) : (s.wrP a n f v).pace = s.pace := (rfl)
@[simp] theorem Chip.wrP_align (s : Chip) (a n : Nat) (f : Fld) (v : Nat) : (s.wrP a n f v).align = s.align := (rfl)
@[simp] theorem Chip.wrP_power (s : Chip) (a n : Nat) (f : Fld) (v : Nat) : (s.wrP a n f v).power = s.power := (rfl)
@[simp] theorem Chip.wrP_newt (s : Chip) (a n : Nat) (f : Fld) (v : Nat) : (s.wrP a n f v).newt = s.newt := (rfl)

@[simp] theorem Chip.wrSpan_raw (s : Chip) (a n v : Nat) : (s.wrSpan a n v).raw = s.raw := (rfl)
@[simp] theorem Chip.wrSpan_tb (s : Chip) (a n v : Nat) : (s.wrSpan a n v).tb = s.tb := (rfl)
@[simp] theorem Chip.wrSpan_latchPf (s : Chip) (a n v : Nat) : (s.wrSpan a n v).latchPf = s.latchPf := (rfl)
@[simp] theorem Chip.wrSpan_latchVf (s : Chip) (a n v : Nat) : (s.wrSpan a n v).latchVf = s.latchVf := (rfl)
@[simp] theorem Chip.wrSpan_latchNewt (s : Chip) (a n v : Nat) : (s.wrSpan a n v).latchNewt = s.latchNewt := (rfl)
@[simp] theorem Chip.wrSpan_free (s : Chip) (a n v : Nat) : (s.wrSpan a n v).free = s.free := (rfl)
@[simp] theorem Chip.wrSpan_timers (s : Chip) (a n v : Nat) : (s.wrSpan a n v).timers = s.timers := (rfl)
@[simp] theorem Chip.wrSpan_out (s : Chip) (a n v : Nat) : (s.wrSpan a n v).out = s.out := (rfl)
@[simp] theorem Chip.wrSpan_errSeq (s : Chip) (a n v : Nat) : (s.wrSpan a n v).errSeq = s.errSeq := (rfl)
@[simp] theorem Chip.wrSpan_ports (s : Chip) (a n v : Nat) : (s.wrSpan a n v).ports = s.ports := (rfl)
@[simp] theorem Chip.wrSpan_sw (s : Chip) (a n v : Nat) : (s.wrSpan a n v).sw = s.sw := (rfl)
@[simp] theorem Chip.wrSpan_flows (s : Chip) (a n v : Nat) : (s.wrSpan a n v).flows = s.flows := (rfl)
@[simp] theorem Chip.wrSpan_traffic (s : Chip) (a n v : Nat) : (s.wrSpan a n v).traffic = s.traffic := (rfl)
@[simp] theorem Chip.wrSpan_samples (s : Chip) (a n v : Nat) : (s.wrSpan a n v).samples = s.samples := (rfl)
@[simp] theorem Chip.wrSpan_samplesArmed (s : Chip) (a n v : Nat) : (s.wrSpan a n v).samplesArmed = s.samplesArmed := (rfl)
@[simp] theorem Chip.wrSpan_pool (s : Chip) (a n v : Nat) : (s.wrSpan a n v).pool = s.pool := (rfl)
@[simp] theorem Chip.wrSpan_seq (s : Chip) (a n v : Nat) : (s.wrSpan a n v).seq = s.seq := (rfl)
@[simp] theorem Chip.wrSpan_drbgUse (s : Chip) (a n v : Nat) : (s.wrSpan a n v).drbgUse = s.drbgUse := (rfl)
@[simp] theorem Chip.wrSpan_pace (s : Chip) (a n v : Nat) : (s.wrSpan a n v).pace = s.pace := (rfl)
@[simp] theorem Chip.wrSpan_align (s : Chip) (a n v : Nat) : (s.wrSpan a n v).align = s.align := (rfl)
@[simp] theorem Chip.wrSpan_power (s : Chip) (a n v : Nat) : (s.wrSpan a n v).power = s.power := (rfl)
@[simp] theorem Chip.wrSpan_newt (s : Chip) (a n v : Nat) : (s.wrSpan a n v).newt = s.newt := (rfl)

@[simp] theorem Chip.nextErr_raw (s : Chip) : (s.nextErr ).raw = s.raw := (rfl)
@[simp] theorem Chip.nextErr_tb (s : Chip) : (s.nextErr ).tb = s.tb := (rfl)
@[simp] theorem Chip.nextErr_latchPf (s : Chip) : (s.nextErr ).latchPf = s.latchPf := (rfl)
@[simp] theorem Chip.nextErr_latchVf (s : Chip) : (s.nextErr ).latchVf = s.latchVf := (rfl)
@[simp] theorem Chip.nextErr_latchNewt (s : Chip) : (s.nextErr ).latchNewt = s.latchNewt := (rfl)
@[simp] theorem Chip.nextErr_regs (s : Chip) : (s.nextErr ).regs = s.regs := (rfl)
@[simp] theorem Chip.nextErr_free (s : Chip) : (s.nextErr ).free = s.free := (rfl)
@[simp] theorem Chip.nextErr_timers (s : Chip) : (s.nextErr ).timers = s.timers := (rfl)
@[simp] theorem Chip.nextErr_out (s : Chip) : (s.nextErr ).out = s.out := (rfl)
@[simp] theorem Chip.nextErr_ports (s : Chip) : (s.nextErr ).ports = s.ports := (rfl)
@[simp] theorem Chip.nextErr_sw (s : Chip) : (s.nextErr ).sw = s.sw := (rfl)
@[simp] theorem Chip.nextErr_flows (s : Chip) : (s.nextErr ).flows = s.flows := (rfl)
@[simp] theorem Chip.nextErr_traffic (s : Chip) : (s.nextErr ).traffic = s.traffic := (rfl)
@[simp] theorem Chip.nextErr_samples (s : Chip) : (s.nextErr ).samples = s.samples := (rfl)
@[simp] theorem Chip.nextErr_samplesArmed (s : Chip) : (s.nextErr ).samplesArmed = s.samplesArmed := (rfl)
@[simp] theorem Chip.nextErr_pool (s : Chip) : (s.nextErr ).pool = s.pool := (rfl)
@[simp] theorem Chip.nextErr_seq (s : Chip) : (s.nextErr ).seq = s.seq := (rfl)
@[simp] theorem Chip.nextErr_drbgUse (s : Chip) : (s.nextErr ).drbgUse = s.drbgUse := (rfl)
@[simp] theorem Chip.nextErr_pace (s : Chip) : (s.nextErr ).pace = s.pace := (rfl)
@[simp] theorem Chip.nextErr_align (s : Chip) : (s.nextErr ).align = s.align := (rfl)
@[simp] theorem Chip.nextErr_power (s : Chip) : (s.nextErr ).power = s.power := (rfl)
@[simp] theorem Chip.nextErr_newt (s : Chip) : (s.nextErr ).newt = s.newt := (rfl)

@[simp] theorem Chip.startTimer_raw (s : Chip) (t : Timer) (n : Nat) : (s.startTimer t n).raw = s.raw := (rfl)
@[simp] theorem Chip.startTimer_tb (s : Chip) (t : Timer) (n : Nat) : (s.startTimer t n).tb = s.tb := (rfl)
@[simp] theorem Chip.startTimer_latchPf (s : Chip) (t : Timer) (n : Nat) : (s.startTimer t n).latchPf = s.latchPf := (rfl)
@[simp] theorem Chip.startTimer_latchVf (s : Chip) (t : Timer) (n : Nat) : (s.startTimer t n).latchVf = s.latchVf := (rfl)
@[simp] theorem Chip.startTimer_latchNewt (s : Chip) (t : Timer) (n : Nat) : (s.startTimer t n).latchNewt = s.latchNewt := (rfl)
@[simp] theorem Chip.startTimer_regs (s : Chip) (t : Timer) (n : Nat) : (s.startTimer t n).regs = s.regs := (rfl)
@[simp] theorem Chip.startTimer_free (s : Chip) (t : Timer) (n : Nat) : (s.startTimer t n).free = s.free := (rfl)
@[simp] theorem Chip.startTimer_out (s : Chip) (t : Timer) (n : Nat) : (s.startTimer t n).out = s.out := (rfl)
@[simp] theorem Chip.startTimer_errSeq (s : Chip) (t : Timer) (n : Nat) : (s.startTimer t n).errSeq = s.errSeq := (rfl)
@[simp] theorem Chip.startTimer_ports (s : Chip) (t : Timer) (n : Nat) : (s.startTimer t n).ports = s.ports := (rfl)
@[simp] theorem Chip.startTimer_sw (s : Chip) (t : Timer) (n : Nat) : (s.startTimer t n).sw = s.sw := (rfl)
@[simp] theorem Chip.startTimer_flows (s : Chip) (t : Timer) (n : Nat) : (s.startTimer t n).flows = s.flows := (rfl)
@[simp] theorem Chip.startTimer_traffic (s : Chip) (t : Timer) (n : Nat) : (s.startTimer t n).traffic = s.traffic := (rfl)
@[simp] theorem Chip.startTimer_samples (s : Chip) (t : Timer) (n : Nat) : (s.startTimer t n).samples = s.samples := (rfl)
@[simp] theorem Chip.startTimer_samplesArmed (s : Chip) (t : Timer) (n : Nat) : (s.startTimer t n).samplesArmed = s.samplesArmed := (rfl)
@[simp] theorem Chip.startTimer_pool (s : Chip) (t : Timer) (n : Nat) : (s.startTimer t n).pool = s.pool := (rfl)
@[simp] theorem Chip.startTimer_seq (s : Chip) (t : Timer) (n : Nat) : (s.startTimer t n).seq = s.seq := (rfl)
@[simp] theorem Chip.startTimer_drbgUse (s : Chip) (t : Timer) (n : Nat) : (s.startTimer t n).drbgUse = s.drbgUse := (rfl)
@[simp] theorem Chip.startTimer_pace (s : Chip) (t : Timer) (n : Nat) : (s.startTimer t n).pace = s.pace := (rfl)
@[simp] theorem Chip.startTimer_align (s : Chip) (t : Timer) (n : Nat) : (s.startTimer t n).align = s.align := (rfl)
@[simp] theorem Chip.startTimer_power (s : Chip) (t : Timer) (n : Nat) : (s.startTimer t n).power = s.power := (rfl)
@[simp] theorem Chip.startTimer_newt (s : Chip) (t : Timer) (n : Nat) : (s.startTimer t n).newt = s.newt := (rfl)

@[simp] theorem Chip.stopTimer_raw (s : Chip) (t : Timer) : (s.stopTimer t).raw = s.raw := (rfl)
@[simp] theorem Chip.stopTimer_tb (s : Chip) (t : Timer) : (s.stopTimer t).tb = s.tb := (rfl)
@[simp] theorem Chip.stopTimer_latchPf (s : Chip) (t : Timer) : (s.stopTimer t).latchPf = s.latchPf := (rfl)
@[simp] theorem Chip.stopTimer_latchVf (s : Chip) (t : Timer) : (s.stopTimer t).latchVf = s.latchVf := (rfl)
@[simp] theorem Chip.stopTimer_latchNewt (s : Chip) (t : Timer) : (s.stopTimer t).latchNewt = s.latchNewt := (rfl)
@[simp] theorem Chip.stopTimer_regs (s : Chip) (t : Timer) : (s.stopTimer t).regs = s.regs := (rfl)
@[simp] theorem Chip.stopTimer_free (s : Chip) (t : Timer) : (s.stopTimer t).free = s.free := (rfl)
@[simp] theorem Chip.stopTimer_out (s : Chip) (t : Timer) : (s.stopTimer t).out = s.out := (rfl)
@[simp] theorem Chip.stopTimer_errSeq (s : Chip) (t : Timer) : (s.stopTimer t).errSeq = s.errSeq := (rfl)
@[simp] theorem Chip.stopTimer_ports (s : Chip) (t : Timer) : (s.stopTimer t).ports = s.ports := (rfl)
@[simp] theorem Chip.stopTimer_sw (s : Chip) (t : Timer) : (s.stopTimer t).sw = s.sw := (rfl)
@[simp] theorem Chip.stopTimer_flows (s : Chip) (t : Timer) : (s.stopTimer t).flows = s.flows := (rfl)
@[simp] theorem Chip.stopTimer_traffic (s : Chip) (t : Timer) : (s.stopTimer t).traffic = s.traffic := (rfl)
@[simp] theorem Chip.stopTimer_samples (s : Chip) (t : Timer) : (s.stopTimer t).samples = s.samples := (rfl)
@[simp] theorem Chip.stopTimer_samplesArmed (s : Chip) (t : Timer) : (s.stopTimer t).samplesArmed = s.samplesArmed := (rfl)
@[simp] theorem Chip.stopTimer_pool (s : Chip) (t : Timer) : (s.stopTimer t).pool = s.pool := (rfl)
@[simp] theorem Chip.stopTimer_seq (s : Chip) (t : Timer) : (s.stopTimer t).seq = s.seq := (rfl)
@[simp] theorem Chip.stopTimer_drbgUse (s : Chip) (t : Timer) : (s.stopTimer t).drbgUse = s.drbgUse := (rfl)
@[simp] theorem Chip.stopTimer_pace (s : Chip) (t : Timer) : (s.stopTimer t).pace = s.pace := (rfl)
@[simp] theorem Chip.stopTimer_align (s : Chip) (t : Timer) : (s.stopTimer t).align = s.align := (rfl)
@[simp] theorem Chip.stopTimer_power (s : Chip) (t : Timer) : (s.stopTimer t).power = s.power := (rfl)
@[simp] theorem Chip.stopTimer_newt (s : Chip) (t : Timer) : (s.stopTimer t).newt = s.newt := (rfl)

@[simp] theorem Chip.emitOut_raw (s : Chip) (e : OutEv) : (s.emitOut e).raw = s.raw := (rfl)
@[simp] theorem Chip.emitOut_tb (s : Chip) (e : OutEv) : (s.emitOut e).tb = s.tb := (rfl)
@[simp] theorem Chip.emitOut_latchPf (s : Chip) (e : OutEv) : (s.emitOut e).latchPf = s.latchPf := (rfl)
@[simp] theorem Chip.emitOut_latchVf (s : Chip) (e : OutEv) : (s.emitOut e).latchVf = s.latchVf := (rfl)
@[simp] theorem Chip.emitOut_latchNewt (s : Chip) (e : OutEv) : (s.emitOut e).latchNewt = s.latchNewt := (rfl)
@[simp] theorem Chip.emitOut_regs (s : Chip) (e : OutEv) : (s.emitOut e).regs = s.regs := (rfl)
@[simp] theorem Chip.emitOut_free (s : Chip) (e : OutEv) : (s.emitOut e).free = s.free := (rfl)
@[simp] theorem Chip.emitOut_timers (s : Chip) (e : OutEv) : (s.emitOut e).timers = s.timers := (rfl)
@[simp] theorem Chip.emitOut_errSeq (s : Chip) (e : OutEv) : (s.emitOut e).errSeq = s.errSeq := (rfl)
@[simp] theorem Chip.emitOut_ports (s : Chip) (e : OutEv) : (s.emitOut e).ports = s.ports := (rfl)
@[simp] theorem Chip.emitOut_sw (s : Chip) (e : OutEv) : (s.emitOut e).sw = s.sw := (rfl)
@[simp] theorem Chip.emitOut_flows (s : Chip) (e : OutEv) : (s.emitOut e).flows = s.flows := (rfl)
@[simp] theorem Chip.emitOut_traffic (s : Chip) (e : OutEv) : (s.emitOut e).traffic = s.traffic := (rfl)
@[simp] theorem Chip.emitOut_samples (s : Chip) (e : OutEv) : (s.emitOut e).samples = s.samples := (rfl)
@[simp] theorem Chip.emitOut_samplesArmed (s : Chip) (e : OutEv) : (s.emitOut e).samplesArmed = s.samplesArmed := (rfl)
@[simp] theorem Chip.emitOut_pool (s : Chip) (e : OutEv) : (s.emitOut e).pool = s.pool := (rfl)
@[simp] theorem Chip.emitOut_seq (s : Chip) (e : OutEv) : (s.emitOut e).seq = s.seq := (rfl)
@[simp] theorem Chip.emitOut_drbgUse (s : Chip) (e : OutEv) : (s.emitOut e).drbgUse = s.drbgUse := (rfl)
@[simp] theorem Chip.emitOut_pace (s : Chip) (e : OutEv) : (s.emitOut e).pace = s.pace := (rfl)
@[simp] theorem Chip.emitOut_align (s : Chip) (e : OutEv) : (s.emitOut e).align = s.align := (rfl)
@[simp] theorem Chip.emitOut_power (s : Chip) (e : OutEv) : (s.emitOut e).power = s.power := (rfl)
@[simp] theorem Chip.emitOut_newt (s : Chip) (e : OutEv) : (s.emitOut e).newt = s.newt := (rfl)

@[simp] theorem Chip.interrupt_raw (s : Chip) (fn : Option Nat) (v : Nat) : (s.interrupt fn v).raw = s.raw := (rfl)
@[simp] theorem Chip.interrupt_tb (s : Chip) (fn : Option Nat) (v : Nat) : (s.interrupt fn v).tb = s.tb := (rfl)
@[simp] theorem Chip.interrupt_latchPf (s : Chip) (fn : Option Nat) (v : Nat) : (s.interrupt fn v).latchPf = s.latchPf := (rfl)
@[simp] theorem Chip.interrupt_latchVf (s : Chip) (fn : Option Nat) (v : Nat) : (s.interrupt fn v).latchVf = s.latchVf := (rfl)
@[simp] theorem Chip.interrupt_latchNewt (s : Chip) (fn : Option Nat) (v : Nat) : (s.interrupt fn v).latchNewt = s.latchNewt := (rfl)
@[simp] theorem Chip.interrupt_regs (s : Chip) (fn : Option Nat) (v : Nat) : (s.interrupt fn v).regs = s.regs := (rfl)
@[simp] theorem Chip.interrupt_free (s : Chip) (fn : Option Nat) (v : Nat) : (s.interrupt fn v).free = s.free := (rfl)
@[simp] theorem Chip.interrupt_timers (s : Chip) (fn : Option Nat) (v : Nat) : (s.interrupt fn v).timers = s.timers := (rfl)
@[simp] theorem Chip.interrupt_errSeq (s : Chip) (fn : Option Nat) (v : Nat) : (s.interrupt fn v).errSeq = s.errSeq := (rfl)
@[simp] theorem Chip.interrupt_ports (s : Chip) (fn : Option Nat) (v : Nat) : (s.interrupt fn v).ports = s.ports := (rfl)
@[simp] theorem Chip.interrupt_sw (s : Chip) (fn : Option Nat) (v : Nat) : (s.interrupt fn v).sw = s.sw := (rfl)
@[simp] theorem Chip.interrupt_flows (s : Chip) (fn : Option Nat) (v : Nat) : (s.interrupt fn v).flows = s.flows := (rfl)
@[simp] theorem Chip.interrupt_traffic (s : Chip) (fn : Option Nat) (v : Nat) : (s.interrupt fn v).traffic = s.traffic := (rfl)
@[simp] theorem Chip.interrupt_samples (s : Chip) (fn : Option Nat) (v : Nat) : (s.interrupt fn v).samples = s.samples := (rfl)
@[simp] theorem Chip.interrupt_samplesArmed (s : Chip) (fn : Option Nat) (v : Nat) : (s.interrupt fn v).samplesArmed = s.samplesArmed := (rfl)
@[simp] theorem Chip.interrupt_pool (s : Chip) (fn : Option Nat) (v : Nat) : (s.interrupt fn v).pool = s.pool := (rfl)
@[simp] theorem Chip.interrupt_seq (s : Chip) (fn : Option Nat) (v : Nat) : (s.interrupt fn v).seq = s.seq := (rfl)
@[simp] theorem Chip.interrupt_drbgUse (s : Chip) (fn : Option Nat) (v : Nat) : (s.interrupt fn v).drbgUse = s.drbgUse := (rfl)
@[simp] theorem Chip.interrupt_pace (s : Chip) (fn : Option Nat) (v : Nat) : (s.interrupt fn v).pace = s.pace := (rfl)
@[simp] theorem Chip.interrupt_align (s : Chip) (fn : Option Nat) (v : Nat) : (s.interrupt fn v).align = s.align := (rfl)
@[simp] theorem Chip.interrupt_power (s : Chip) (fn : Option Nat) (v : Nat) : (s.interrupt fn v).power = s.power := (rfl)
@[simp] theorem Chip.interrupt_newt (s : Chip) (fn : Option Nat) (v : Nat) : (s.interrupt fn v).newt = s.newt := (rfl)

@[simp] theorem Chip.modPort_raw (s : Chip) (n : Nat) (f : Port → Port) : (s.modPort n f).raw = s.raw := (rfl)
@[simp] theorem Chip.modPort_tb (s : Chip) (n : Nat) (f : Port → Port) : (s.modPort n f).tb = s.tb := (rfl)
@[simp] theorem Chip.modPort_latchPf (s : Chip) (n : Nat) (f : Port → Port) : (s.modPort n f).latchPf = s.latchPf := (rfl)
@[simp] theorem Chip.modPort_latchVf (s : Chip) (n : Nat) (f : Port → Port) : (s.modPort n f).latchVf = s.latchVf := (rfl)
@[simp] theorem Chip.modPort_latchNewt (s : Chip) (n : Nat) (f : Port → Port) : (s.modPort n f).latchNewt = s.latchNewt := (rfl)
@[simp] theorem Chip.modPort_regs (s : Chip) (n : Nat) (f : Port → Port) : (s.modPort n f).regs = s.regs := (rfl)
@[simp] theorem Chip.modPort_free (s : Chip) (n : Nat) (f : Port → Port) : (s.modPort n f).free = s.free := (rfl)
@[simp] theorem Chip.modPort_timers (s : Chip) (n : Nat) (f : Port → Port) : (s.modPort n f).timers = s.timers := (rfl)
@[simp] theorem Chip.modPort_out (s : Chip) (n : Nat) (f : Port → Port) : (s.modPort n f).out = s.out := (rfl)
@[simp] theorem Chip.modPort_errSeq (s : Chip) (n : Nat) (f : Port → Port) : (s.modPort n f).errSeq = s.errSeq := (rfl)
@[simp] theorem Chip.modPort_sw (s : Chip) (n : Nat) (f : Port → Port) : (s.modPort n f).sw = s.sw := (rfl)
@[simp] theorem Chip.modPort_flows (s : Chip) (n : Nat) (f : Port → Port) : (s.modPort n f).flows = s.flows := (rfl)
@[simp] theorem Chip.modPort_traffic (s : Chip) (n : Nat) (f : Port → Port) : (s.modPort n f).traffic = s.traffic := (rfl)
@[simp] theorem Chip.modPort_samples (s : Chip) (n : Nat) (f : Port → Port) : (s.modPort n f).samples = s.samples := (rfl)
@[simp] theorem Chip.modPort_samplesArmed (s : Chip) (n : Nat) (f : Port → Port) : (s.modPort n f).samplesArmed = s.samplesArmed := (rfl)
@[simp] theorem Chip.modPort_pool (s : Chip) (n : Nat) (f : Port → Port) : (s.modPort n f).pool = s.pool := (rfl)
@[simp] theorem Chip.modPort_seq (s : Chip) (n : Nat) (f : Port → Port) : (s.modPort n f).seq = s.seq := (rfl)
@[simp] theorem Chip.modPort_drbgUse (s : Chip) (n : Nat) (f : Port → Port) : (s.modPort n f).drbgUse = s.drbgUse := (rfl)
@[simp] theorem Chip.modPort_pace (s : Chip) (n : Nat) (f : Port → Port) : (s.modPort n f).pace = s.pace := (rfl)
@[simp] theorem Chip.modPort_align (s : Chip) (n : Nat) (f : Port → Port) : (s.modPort n f).align = s.align := (rfl)
@[simp] theorem Chip.modPort_power (s : Chip) (n : Nat) (f : Port → Port) : (s.modPort n f).power = s.power := (rfl)
@[simp] theorem Chip.modPort_newt (s : Chip) (n : Nat) (f : Port → Port) : (s.modPort n f).newt = s.newt := (rfl)

@[simp] theorem Chip.modPool_raw (s : Chip) (f : Pool → Pool) : (s.modPool f).raw = s.raw := (rfl)
@[simp] theorem Chip.modPool_tb (s : Chip) (f : Pool → Pool) : (s.modPool f).tb = s.tb := (rfl)
@[simp] theorem Chip.modPool_latchPf (s : Chip) (f : Pool → Pool) : (s.modPool f).latchPf = s.latchPf := (rfl)
@[simp] theorem Chip.modPool_latchVf (s : Chip) (f : Pool → Pool) : (s.modPool f).latchVf = s.latchVf := (rfl)
@[simp] theorem Chip.modPool_latchNewt (s : Chip) (f : Pool → Pool) : (s.modPool f).latchNewt = s.latchNewt := (rfl)
@[simp] theorem Chip.modPool_regs (s : Chip) (f : Pool → Pool) : (s.modPool f).regs = s.regs := (rfl)
@[simp] theorem Chip.modPool_free (s : Chip) (f : Pool → Pool) : (s.modPool f).free = s.free := (rfl)
@[simp] theorem Chip.modPool_timers (s : Chip) (f : Pool → Pool) : (s.modPool f).timers = s.timers := (rfl)
@[simp] theorem Chip.modPool_out (s : Chip) (f : Pool → Pool) : (s.modPool f).out = s.out := (rfl)
@[simp] theorem Chip.modPool_errSeq (s : Chip) (f : Pool → Pool) : (s.modPool f).errSeq = s.errSeq := (rfl)
@[simp] theorem Chip.modPool_ports (s : Chip) (f : Pool → Pool) : (s.modPool f).ports = s.ports := (rfl)
@[simp] theorem Chip.modPool_sw (s : Chip) (f : Pool → Pool) : (s.modPool f).sw = s.sw := (rfl)
@[simp] theorem Chip.modPool_flows (s : Chip) (f : Pool → Pool) : (s.modPool f).flows = s.flows := (rfl)
@[simp] theorem Chip.modPool_traffic (s : Chip) (f : Pool → Pool) : (s.modPool f).traffic = s.traffic := (rfl)
@[simp] theorem Chip.modPool_samples (s : Chip) (f : Pool → Pool) : (s.modPool f).samples = s.samples := (rfl)
@[simp] theorem Chip.modPool_samplesArmed (s : Chip) (f : Pool → Pool) : (s.modPool f).samplesArmed = s.samplesArmed := (rfl)
@[simp] theorem Chip.modPool_seq (s : Chip) (f : Pool → Pool) : (s.modPool f).seq = s.seq := (rfl)
@[simp] theorem Chip.modPool_drbgUse (s : Chip) (f : Pool → Pool) : (s.modPool f).drbgUse = s.drbgUse := (rfl)
@[simp] theorem Chip.modPool_pace (s : Chip) (f : Pool → Pool) : (s.modPool f).pace = s.pace := (rfl)
@[simp] theorem Chip.modPool_align (s : Chip) (f : Pool → Pool) : (s.modPool f).align = s.align := (rfl)
@[simp] theorem Chip.modPool_power (s : Chip) (f : Pool → Pool) : (s.modPool f).power = s.power := (rfl)
@[simp] theorem Chip.modPool_newt (s : Chip) (f : Pool → Pool) : (s.modPool f).newt = s.newt := (rfl)

@[simp] theorem Chip.modSeq_raw (s : Chip) (f : Seq → Seq) : (s.modSeq f).raw = s.raw := (rfl)
@[simp] theorem Chip.modSeq_tb (s : Chip) (f : Seq → Seq) : (s.modSeq f).tb = s.tb := (rfl)
@[simp] theorem Chip.modSeq_latchPf (s : Chip) (f : Seq → Seq) : (s.modSeq f).latchPf = s.latchPf := (rfl)
@[simp] theorem Chip.modSeq_latchVf (s : Chip) (f : Seq → Seq) : (s.modSeq f).latchVf = s.latchVf := (rfl)
@[simp] theorem Chip.modSeq_latchNewt (s : Chip) (f : Seq → Seq) : (s.modSeq f).latchNewt = s.latchNewt := (rfl)
@[simp] theorem Chip.modSeq_regs (s : Chip) (f : Seq → Seq) : (s.modSeq f).regs = s.regs := (rfl)
@[simp] theorem Chip.modSeq_free (s : Chip) (f : Seq → Seq) : (s.modSeq f).free = s.free := (rfl)
@[simp] theorem Chip.modSeq_timers (s : Chip) (f : Seq → Seq) : (s.modSeq f).timers = s.timers := (rfl)
@[simp] theorem Chip.modSeq_out (s : Chip) (f : Seq → Seq) : (s.modSeq f).out = s.out := (rfl)
@[simp] theorem Chip.modSeq_errSeq (s : Chip) (f : Seq → Seq) : (s.modSeq f).errSeq = s.errSeq := (rfl)
@[simp] theorem Chip.modSeq_ports (s : Chip) (f : Seq → Seq) : (s.modSeq f).ports = s.ports := (rfl)
@[simp] theorem Chip.modSeq_sw (s : Chip) (f : Seq → Seq) : (s.modSeq f).sw = s.sw := (rfl)
@[simp] theorem Chip.modSeq_flows (s : Chip) (f : Seq → Seq) : (s.modSeq f).flows = s.flows := (rfl)
@[simp] theorem Chip.modSeq_traffic (s : Chip) (f : Seq → Seq) : (s.modSeq f).traffic = s.traffic := (rfl)
@[simp] theorem Chip.modSeq_samples (s : Chip) (f : Seq → Seq) : (s.modSeq f).samples = s.samples := (rfl)
@[simp] theorem Chip.modSeq_samplesArmed (s : Chip) (f : Seq → Seq) : (s.modSeq f).samplesArmed = s.samplesArmed := (rfl)
@[simp] theorem Chip.modSeq_pool (s : Chip) (f : Seq → Seq) : (s.modSeq f).pool = s.pool := (rfl)
@[simp] theorem Chip.modSeq_drbgUse (s : Chip) (f : Seq → Seq) : (s.modSeq f).drbgUse = s.drbgUse := (rfl)
@[simp] theorem Chip.modSeq_pace (s : Chip) (f : Seq → Seq) : (s.modSeq f).pace = s.pace := (rfl)
@[simp] theorem Chip.modSeq_align (s : Chip) (f : Seq → Seq) : (s.modSeq f).align = s.align := (rfl)
@[simp] theorem Chip.modSeq_power (s : Chip) (f : Seq → Seq) : (s.modSeq f).power = s.power := (rfl)
@[simp] theorem Chip.modSeq_newt (s : Chip) (f : Seq → Seq) : (s.modSeq f).newt = s.newt := (rfl)

@[simp] theorem Chip.modPower_raw (s : Chip) (f : Power → Power) : (s.modPower f).raw = s.raw := (rfl)
@[simp] theorem Chip.modPower_tb (s : Chip) (f : Power → Power) : (s.modPower f).tb = s.tb := (rfl)
@[simp] theorem Chip.modPower_latchPf (s : Chip) (f : Power → Power) : (s.modPower f).latchPf = s.latchPf := (rfl)
@[simp] theorem Chip.modPower_latchVf (s : Chip) (f : Power → Power) : (s.modPower f).latchVf = s.latchVf := (rfl)
@[simp] theorem Chip.modPower_latchNewt (s : Chip) (f : Power → Power) : (s.modPower f).latchNewt = s.latchNewt := (rfl)
@[simp] theorem Chip.modPower_regs (s : Chip) (f : Power → Power) : (s.modPower f).regs = s.regs := (rfl)
@[simp] theorem Chip.modPower_free (s : Chip) (f : Power → Power) : (s.modPower f).free = s.free := (rfl)
@[simp] theorem Chip.modPower_timers (s : Chip) (f : Power → Power) : (s.modPower f).timers = s.timers := (rfl)
@[simp] theorem Chip.modPower_out (s : Chip) (f : Power → Power) : (s.modPower f).out = s.out := (rfl)
@[simp] theorem Chip.modPower_errSeq (s : Chip) (f : Power → Power) : (s.modPower f).errSeq = s.errSeq := (rfl)
@[simp] theorem Chip.modPower_ports (s : Chip) (f : Power → Power) : (s.modPower f).ports = s.ports := (rfl)
@[simp] theorem Chip.modPower_sw (s : Chip) (f : Power → Power) : (s.modPower f).sw = s.sw := (rfl)
@[simp] theorem Chip.modPower_flows (s : Chip) (f : Power → Power) : (s.modPower f).flows = s.flows := (rfl)
@[simp] theorem Chip.modPower_traffic (s : Chip) (f : Power → Power) : (s.modPower f).traffic = s.traffic := (rfl)
@[simp] theorem Chip.modPower_samples (s : Chip) (f : Power → Power) : (s.modPower f).samples = s.samples := (rfl)
@[simp] theorem Chip.modPower_samplesArmed (s : Chip) (f : Power → Power) : (s.modPower f).samplesArmed = s.samplesArmed := (rfl)
@[simp] theorem Chip.modPower_pool (s : Chip) (f : Power → Power) : (s.modPower f).pool = s.pool := (rfl)
@[simp] theorem Chip.modPower_seq (s : Chip) (f : Power → Power) : (s.modPower f).seq = s.seq := (rfl)
@[simp] theorem Chip.modPower_drbgUse (s : Chip) (f : Power → Power) : (s.modPower f).drbgUse = s.drbgUse := (rfl)
@[simp] theorem Chip.modPower_pace (s : Chip) (f : Power → Power) : (s.modPower f).pace = s.pace := (rfl)
@[simp] theorem Chip.modPower_align (s : Chip) (f : Power → Power) : (s.modPower f).align = s.align := (rfl)
@[simp] theorem Chip.modPower_newt (s : Chip) (f : Power → Power) : (s.modPower f).newt = s.newt := (rfl)

@[simp] theorem Chip.modNewt_raw (s : Chip) (f : Newt → Newt) : (s.modNewt f).raw = s.raw := (rfl)
@[simp] theorem Chip.modNewt_tb (s : Chip) (f : Newt → Newt) : (s.modNewt f).tb = s.tb := (rfl)
@[simp] theorem Chip.modNewt_latchPf (s : Chip) (f : Newt → Newt) : (s.modNewt f).latchPf = s.latchPf := (rfl)
@[simp] theorem Chip.modNewt_latchVf (s : Chip) (f : Newt → Newt) : (s.modNewt f).latchVf = s.latchVf := (rfl)
@[simp] theorem Chip.modNewt_latchNewt (s : Chip) (f : Newt → Newt) : (s.modNewt f).latchNewt = s.latchNewt := (rfl)
@[simp] theorem Chip.modNewt_regs (s : Chip) (f : Newt → Newt) : (s.modNewt f).regs = s.regs := (rfl)
@[simp] theorem Chip.modNewt_free (s : Chip) (f : Newt → Newt) : (s.modNewt f).free = s.free := (rfl)
@[simp] theorem Chip.modNewt_timers (s : Chip) (f : Newt → Newt) : (s.modNewt f).timers = s.timers := (rfl)
@[simp] theorem Chip.modNewt_out (s : Chip) (f : Newt → Newt) : (s.modNewt f).out = s.out := (rfl)
@[simp] theorem Chip.modNewt_errSeq (s : Chip) (f : Newt → Newt) : (s.modNewt f).errSeq = s.errSeq := (rfl)
@[simp] theorem Chip.modNewt_ports (s : Chip) (f : Newt → Newt) : (s.modNewt f).ports = s.ports := (rfl)
@[simp] theorem Chip.modNewt_sw (s : Chip) (f : Newt → Newt) : (s.modNewt f).sw = s.sw := (rfl)
@[simp] theorem Chip.modNewt_flows (s : Chip) (f : Newt → Newt) : (s.modNewt f).flows = s.flows := (rfl)
@[simp] theorem Chip.modNewt_traffic (s : Chip) (f : Newt → Newt) : (s.modNewt f).traffic = s.traffic := (rfl)
@[simp] theorem Chip.modNewt_samples (s : Chip) (f : Newt → Newt) : (s.modNewt f).samples = s.samples := (rfl)
@[simp] theorem Chip.modNewt_samplesArmed (s : Chip) (f : Newt → Newt) : (s.modNewt f).samplesArmed = s.samplesArmed := (rfl)
@[simp] theorem Chip.modNewt_pool (s : Chip) (f : Newt → Newt) : (s.modNewt f).pool = s.pool := (rfl)
@[simp] theorem Chip.modNewt_seq (s : Chip) (f : Newt → Newt) : (s.modNewt f).seq = s.seq := (rfl)
@[simp] theorem Chip.modNewt_drbgUse (s : Chip) (f : Newt → Newt) : (s.modNewt f).drbgUse = s.drbgUse := (rfl)
@[simp] theorem Chip.modNewt_pace (s : Chip) (f : Newt → Newt) : (s.modNewt f).pace = s.pace := (rfl)
@[simp] theorem Chip.modNewt_align (s : Chip) (f : Newt → Newt) : (s.modNewt f).align = s.align := (rfl)
@[simp] theorem Chip.modNewt_power (s : Chip) (f : Newt → Newt) : (s.modNewt f).power = s.power := (rfl)

@[simp] theorem Chip.draw_raw (s : Chip) : s.draw.2.raw = s.raw := (rfl)
@[simp] theorem Chip.draw_tb (s : Chip) : s.draw.2.tb = s.tb := (rfl)
@[simp] theorem Chip.draw_latchPf (s : Chip) : s.draw.2.latchPf = s.latchPf := (rfl)
@[simp] theorem Chip.draw_latchVf (s : Chip) : s.draw.2.latchVf = s.latchVf := (rfl)
@[simp] theorem Chip.draw_latchNewt (s : Chip) : s.draw.2.latchNewt = s.latchNewt := (rfl)
@[simp] theorem Chip.draw_regs (s : Chip) : s.draw.2.regs = s.regs := (rfl)
@[simp] theorem Chip.draw_timers (s : Chip) : s.draw.2.timers = s.timers := (rfl)
@[simp] theorem Chip.draw_out (s : Chip) : s.draw.2.out = s.out := (rfl)
@[simp] theorem Chip.draw_errSeq (s : Chip) : s.draw.2.errSeq = s.errSeq := (rfl)
@[simp] theorem Chip.draw_ports (s : Chip) : s.draw.2.ports = s.ports := (rfl)
@[simp] theorem Chip.draw_sw (s : Chip) : s.draw.2.sw = s.sw := (rfl)
@[simp] theorem Chip.draw_flows (s : Chip) : s.draw.2.flows = s.flows := (rfl)
@[simp] theorem Chip.draw_traffic (s : Chip) : s.draw.2.traffic = s.traffic := (rfl)
@[simp] theorem Chip.draw_samples (s : Chip) : s.draw.2.samples = s.samples := (rfl)
@[simp] theorem Chip.draw_samplesArmed (s : Chip) : s.draw.2.samplesArmed = s.samplesArmed := (rfl)
@[simp] theorem Chip.draw_pool (s : Chip) : s.draw.2.pool = s.pool := (rfl)
@[simp] theorem Chip.draw_seq (s : Chip) : s.draw.2.seq = s.seq := (rfl)
@[simp] theorem Chip.draw_drbgUse (s : Chip) : s.draw.2.drbgUse = s.drbgUse := (rfl)
@[simp] theorem Chip.draw_pace (s : Chip) : s.draw.2.pace = s.pace := (rfl)
@[simp] theorem Chip.draw_align (s : Chip) : s.draw.2.align = s.align := (rfl)
@[simp] theorem Chip.draw_power (s : Chip) : s.draw.2.power = s.power := (rfl)
@[simp] theorem Chip.draw_newt (s : Chip) : s.draw.2.newt = s.newt := (rfl)
@[simp] theorem Chip.draw_free (s : Chip) : s.draw.2.free = s.free + 1 := (rfl)

@[simp] theorem Chip.wr_regs (s : Chip) (a : Nat) (f : Fld) (v : Nat) : (s.wr a f v).regs = s.regs.set a f v := (rfl)
@[simp] theorem Chip.nextErr_errSeq (s : Chip) : s.nextErr.errSeq = s.errSeq + 1 := (rfl)
@[simp] theorem Chip.wrSpan_regs (s : Chip) (a n v : Nat) : (s.wrSpan a n v).regs = s.regs.setSpan a n v := (rfl)
@[simp] theorem Chip.wrP_regs (s : Chip) (a n : Nat) (f : Fld) (v : Nat) : (s.wrP a n f v).regs = s.regs.setP a n f v := (rfl)
@[simp] theorem Chip.emitOut_out (s : Chip) (e : OutEv) : (s.emitOut e).out = e :: s.out := (rfl)
@[simp] theorem Chip.interrupt_out (s : Chip) (fn : Option Nat) (v : Nat) : (s.interrupt fn v).out = .msix fn v :: s.out := (rfl)
@[simp] theorem Chip.modPool_pool (s : Chip) (f : Pool → Pool) : (s.modPool f).pool = f s.pool := (rfl)
@[simp] theorem Chip.modSeq_seq (s : Chip) (f : Seq → Seq) : (s.modSeq f).seq = f s.seq := (rfl)
@[simp] theorem Chip.modPower_power (s : Chip) (f : Power → Power) : (s.modPower f).power = f s.power := (rfl)
@[simp] theorem Chip.modNewt_newt (s : Chip) (f : Newt → Newt) : (s.modNewt f).newt = f s.newt := (rfl)

@[simp] theorem Chip.logRoom_raw (s : Chip) : s.logRoom.raw = s.raw := by
  unfold Chip.logRoom
  split <;> rfl
@[simp] theorem Chip.logRoom_tb (s : Chip) : s.logRoom.tb = s.tb := by
  unfold Chip.logRoom
  split <;> rfl
@[simp] theorem Chip.logRoom_latchPf (s : Chip) : s.logRoom.latchPf = s.latchPf := by
  unfold Chip.logRoom
  split <;> rfl
@[simp] theorem Chip.logRoom_latchVf (s : Chip) : s.logRoom.latchVf = s.latchVf := by
  unfold Chip.logRoom
  split <;> rfl
@[simp] theorem Chip.logRoom_latchNewt (s : Chip) : s.logRoom.latchNewt = s.latchNewt := by
  unfold Chip.logRoom
  split <;> rfl
@[simp] theorem Chip.logRoom_free (s : Chip) : s.logRoom.free = s.free := by
  unfold Chip.logRoom
  split <;> rfl
@[simp] theorem Chip.logRoom_timers (s : Chip) : s.logRoom.timers = s.timers := by
  unfold Chip.logRoom
  split <;> rfl
@[simp] theorem Chip.logRoom_out (s : Chip) : s.logRoom.out = s.out := by
  unfold Chip.logRoom
  split <;> rfl
@[simp] theorem Chip.logRoom_errSeq (s : Chip) : s.logRoom.errSeq = s.errSeq := by
  unfold Chip.logRoom
  split <;> rfl
@[simp] theorem Chip.logRoom_ports (s : Chip) : s.logRoom.ports = s.ports := by
  unfold Chip.logRoom
  split <;> rfl
@[simp] theorem Chip.logRoom_sw (s : Chip) : s.logRoom.sw = s.sw := by
  unfold Chip.logRoom
  split <;> rfl
@[simp] theorem Chip.logRoom_flows (s : Chip) : s.logRoom.flows = s.flows := by
  unfold Chip.logRoom
  split <;> rfl
@[simp] theorem Chip.logRoom_traffic (s : Chip) : s.logRoom.traffic = s.traffic := by
  unfold Chip.logRoom
  split <;> rfl
@[simp] theorem Chip.logRoom_samples (s : Chip) : s.logRoom.samples = s.samples := by
  unfold Chip.logRoom
  split <;> rfl
@[simp] theorem Chip.logRoom_samplesArmed (s : Chip) : s.logRoom.samplesArmed = s.samplesArmed := by
  unfold Chip.logRoom
  split <;> rfl
@[simp] theorem Chip.logRoom_pool (s : Chip) : s.logRoom.pool = s.pool := by
  unfold Chip.logRoom
  split <;> rfl
@[simp] theorem Chip.logRoom_seq (s : Chip) : s.logRoom.seq = s.seq := by
  unfold Chip.logRoom
  split <;> rfl
@[simp] theorem Chip.logRoom_drbgUse (s : Chip) : s.logRoom.drbgUse = s.drbgUse := by
  unfold Chip.logRoom
  split <;> rfl
@[simp] theorem Chip.logRoom_pace (s : Chip) : s.logRoom.pace = s.pace := by
  unfold Chip.logRoom
  split <;> rfl
@[simp] theorem Chip.logRoom_align (s : Chip) : s.logRoom.align = s.align := by
  unfold Chip.logRoom
  split <;> rfl
@[simp] theorem Chip.logRoom_power (s : Chip) : s.logRoom.power = s.power := by
  unfold Chip.logRoom
  split <;> rfl
@[simp] theorem Chip.logRoom_newt (s : Chip) : s.logRoom.newt = s.newt := by
  unfold Chip.logRoom
  split <;> rfl
@[simp] theorem Chip.logPut_raw (s : Chip) (r : LogRec) : (s.logPut r).raw = s.raw := by simp [Chip.logPut]
@[simp] theorem Chip.logPut_tb (s : Chip) (r : LogRec) : (s.logPut r).tb = s.tb := by simp [Chip.logPut]
@[simp] theorem Chip.logPut_latchPf (s : Chip) (r : LogRec) : (s.logPut r).latchPf = s.latchPf := by simp [Chip.logPut]
@[simp] theorem Chip.logPut_latchVf (s : Chip) (r : LogRec) : (s.logPut r).latchVf = s.latchVf := by simp [Chip.logPut]
@[simp] theorem Chip.logPut_latchNewt (s : Chip) (r : LogRec) : (s.logPut r).latchNewt = s.latchNewt := by simp [Chip.logPut]
@[simp] theorem Chip.logPut_free (s : Chip) (r : LogRec) : (s.logPut r).free = s.free := by simp [Chip.logPut]
@[simp] theorem Chip.logPut_timers (s : Chip) (r : LogRec) : (s.logPut r).timers = s.timers := by simp [Chip.logPut]
@[simp] theorem Chip.logPut_out (s : Chip) (r : LogRec) : (s.logPut r).out = s.out := by simp [Chip.logPut]
@[simp] theorem Chip.logPut_ports (s : Chip) (r : LogRec) : (s.logPut r).ports = s.ports := by simp [Chip.logPut]
@[simp] theorem Chip.logPut_sw (s : Chip) (r : LogRec) : (s.logPut r).sw = s.sw := by simp [Chip.logPut]
@[simp] theorem Chip.logPut_flows (s : Chip) (r : LogRec) : (s.logPut r).flows = s.flows := by simp [Chip.logPut]
@[simp] theorem Chip.logPut_traffic (s : Chip) (r : LogRec) : (s.logPut r).traffic = s.traffic := by simp [Chip.logPut]
@[simp] theorem Chip.logPut_samples (s : Chip) (r : LogRec) : (s.logPut r).samples = s.samples := by simp [Chip.logPut]
@[simp] theorem Chip.logPut_samplesArmed (s : Chip) (r : LogRec) : (s.logPut r).samplesArmed = s.samplesArmed := by simp [Chip.logPut]
@[simp] theorem Chip.logPut_pool (s : Chip) (r : LogRec) : (s.logPut r).pool = s.pool := by simp [Chip.logPut]
@[simp] theorem Chip.logPut_seq (s : Chip) (r : LogRec) : (s.logPut r).seq = s.seq := by simp [Chip.logPut]
@[simp] theorem Chip.logPut_drbgUse (s : Chip) (r : LogRec) : (s.logPut r).drbgUse = s.drbgUse := by simp [Chip.logPut]
@[simp] theorem Chip.logPut_pace (s : Chip) (r : LogRec) : (s.logPut r).pace = s.pace := by simp [Chip.logPut]
@[simp] theorem Chip.logPut_align (s : Chip) (r : LogRec) : (s.logPut r).align = s.align := by simp [Chip.logPut]
@[simp] theorem Chip.logPut_power (s : Chip) (r : LogRec) : (s.logPut r).power = s.power := by simp [Chip.logPut]
@[simp] theorem Chip.logPut_newt (s : Chip) (r : LogRec) : (s.logPut r).newt = s.newt := by simp [Chip.logPut]
@[simp] theorem Chip.logPut_errSeq (s : Chip) (r : LogRec) : (s.logPut r).errSeq = s.errSeq + 1 := by simp [Chip.logPut]
@[simp] theorem Chip.log_raw (s : Chip) (r : LogRec) : (s.log r).raw = s.raw := by simp [Chip.log]
@[simp] theorem Chip.log_tb (s : Chip) (r : LogRec) : (s.log r).tb = s.tb := by simp [Chip.log]
@[simp] theorem Chip.log_latchPf (s : Chip) (r : LogRec) : (s.log r).latchPf = s.latchPf := by simp [Chip.log]
@[simp] theorem Chip.log_latchVf (s : Chip) (r : LogRec) : (s.log r).latchVf = s.latchVf := by simp [Chip.log]
@[simp] theorem Chip.log_latchNewt (s : Chip) (r : LogRec) : (s.log r).latchNewt = s.latchNewt := by simp [Chip.log]
@[simp] theorem Chip.log_free (s : Chip) (r : LogRec) : (s.log r).free = s.free := by simp [Chip.log]
@[simp] theorem Chip.log_timers (s : Chip) (r : LogRec) : (s.log r).timers = s.timers := by simp [Chip.log]
@[simp] theorem Chip.log_out (s : Chip) (r : LogRec) : (s.log r).out = s.out := by simp [Chip.log]
@[simp] theorem Chip.log_ports (s : Chip) (r : LogRec) : (s.log r).ports = s.ports := by simp [Chip.log]
@[simp] theorem Chip.log_sw (s : Chip) (r : LogRec) : (s.log r).sw = s.sw := by simp [Chip.log]
@[simp] theorem Chip.log_flows (s : Chip) (r : LogRec) : (s.log r).flows = s.flows := by simp [Chip.log]
@[simp] theorem Chip.log_traffic (s : Chip) (r : LogRec) : (s.log r).traffic = s.traffic := by simp [Chip.log]
@[simp] theorem Chip.log_samples (s : Chip) (r : LogRec) : (s.log r).samples = s.samples := by simp [Chip.log]
@[simp] theorem Chip.log_samplesArmed (s : Chip) (r : LogRec) : (s.log r).samplesArmed = s.samplesArmed := by simp [Chip.log]
@[simp] theorem Chip.log_pool (s : Chip) (r : LogRec) : (s.log r).pool = s.pool := by simp [Chip.log]
@[simp] theorem Chip.log_seq (s : Chip) (r : LogRec) : (s.log r).seq = s.seq := by simp [Chip.log]
@[simp] theorem Chip.log_drbgUse (s : Chip) (r : LogRec) : (s.log r).drbgUse = s.drbgUse := by simp [Chip.log]
@[simp] theorem Chip.log_pace (s : Chip) (r : LogRec) : (s.log r).pace = s.pace := by simp [Chip.log]
@[simp] theorem Chip.log_align (s : Chip) (r : LogRec) : (s.log r).align = s.align := by simp [Chip.log]
@[simp] theorem Chip.log_power (s : Chip) (r : LogRec) : (s.log r).power = s.power := by simp [Chip.log]
@[simp] theorem Chip.log_newt (s : Chip) (r : LogRec) : (s.log r).newt = s.newt := by simp [Chip.log]
@[simp] theorem Chip.log_errSeq (s : Chip) (r : LogRec) : (s.log r).errSeq = s.errSeq + 1 := by simp [Chip.log]

@[simp] theorem Chip.logReg_raw (s : Chip) (st : Status) (sub : Subsys) (off : Nat) : (s.logReg st sub off).raw = s.raw := by simp [Chip.logReg]
@[simp] theorem Chip.logReg_tb (s : Chip) (st : Status) (sub : Subsys) (off : Nat) : (s.logReg st sub off).tb = s.tb := by simp [Chip.logReg]
@[simp] theorem Chip.logReg_latchPf (s : Chip) (st : Status) (sub : Subsys) (off : Nat) : (s.logReg st sub off).latchPf = s.latchPf := by simp [Chip.logReg]
@[simp] theorem Chip.logReg_latchVf (s : Chip) (st : Status) (sub : Subsys) (off : Nat) : (s.logReg st sub off).latchVf = s.latchVf := by simp [Chip.logReg]
@[simp] theorem Chip.logReg_latchNewt (s : Chip) (st : Status) (sub : Subsys) (off : Nat) : (s.logReg st sub off).latchNewt = s.latchNewt := by simp [Chip.logReg]
@[simp] theorem Chip.logReg_free (s : Chip) (st : Status) (sub : Subsys) (off : Nat) : (s.logReg st sub off).free = s.free := by simp [Chip.logReg]
@[simp] theorem Chip.logReg_timers (s : Chip) (st : Status) (sub : Subsys) (off : Nat) : (s.logReg st sub off).timers = s.timers := by simp [Chip.logReg]
@[simp] theorem Chip.logReg_out (s : Chip) (st : Status) (sub : Subsys) (off : Nat) : (s.logReg st sub off).out = s.out := by simp [Chip.logReg]
@[simp] theorem Chip.logReg_errSeq (s : Chip) (st : Status) (sub : Subsys) (off : Nat) : (s.logReg st sub off).errSeq = s.errSeq + 1 := by simp [Chip.logReg]
@[simp] theorem Chip.logReg_ports (s : Chip) (st : Status) (sub : Subsys) (off : Nat) : (s.logReg st sub off).ports = s.ports := by simp [Chip.logReg]
@[simp] theorem Chip.logReg_sw (s : Chip) (st : Status) (sub : Subsys) (off : Nat) : (s.logReg st sub off).sw = s.sw := by simp [Chip.logReg]
@[simp] theorem Chip.logReg_flows (s : Chip) (st : Status) (sub : Subsys) (off : Nat) : (s.logReg st sub off).flows = s.flows := by simp [Chip.logReg]
@[simp] theorem Chip.logReg_traffic (s : Chip) (st : Status) (sub : Subsys) (off : Nat) : (s.logReg st sub off).traffic = s.traffic := by simp [Chip.logReg]
@[simp] theorem Chip.logReg_samples (s : Chip) (st : Status) (sub : Subsys) (off : Nat) : (s.logReg st sub off).samples = s.samples := by simp [Chip.logReg]
@[simp] theorem Chip.logReg_samplesArmed (s : Chip) (st : Status) (sub : Subsys) (off : Nat) : (s.logReg st sub off).samplesArmed = s.samplesArmed := by simp [Chip.logReg]
@[simp] theorem Chip.logReg_pool (s : Chip) (st : Status) (sub : Subsys) (off : Nat) : (s.logReg st sub off).pool = s.pool := by simp [Chip.logReg]
@[simp] theorem Chip.logReg_seq (s : Chip) (st : Status) (sub : Subsys) (off : Nat) : (s.logReg st sub off).seq = s.seq := by simp [Chip.logReg]
@[simp] theorem Chip.logReg_drbgUse (s : Chip) (st : Status) (sub : Subsys) (off : Nat) : (s.logReg st sub off).drbgUse = s.drbgUse := by simp [Chip.logReg]
@[simp] theorem Chip.logReg_pace (s : Chip) (st : Status) (sub : Subsys) (off : Nat) : (s.logReg st sub off).pace = s.pace := by simp [Chip.logReg]
@[simp] theorem Chip.logReg_align (s : Chip) (st : Status) (sub : Subsys) (off : Nat) : (s.logReg st sub off).align = s.align := by simp [Chip.logReg]
@[simp] theorem Chip.logReg_power (s : Chip) (st : Status) (sub : Subsys) (off : Nat) : (s.logReg st sub off).power = s.power := by simp [Chip.logReg]
@[simp] theorem Chip.logReg_newt (s : Chip) (st : Status) (sub : Subsys) (off : Nat) : (s.logReg st sub off).newt = s.newt := by simp [Chip.logReg]

@[simp] theorem Chip.logEvent_raw (s : Chip) (sub : Subsys) (code k addr : Nat) : (s.logEvent sub code k addr).raw = s.raw := by simp [Chip.logEvent]
@[simp] theorem Chip.logEvent_tb (s : Chip) (sub : Subsys) (code k addr : Nat) : (s.logEvent sub code k addr).tb = s.tb := by simp [Chip.logEvent]
@[simp] theorem Chip.logEvent_latchPf (s : Chip) (sub : Subsys) (code k addr : Nat) : (s.logEvent sub code k addr).latchPf = s.latchPf := by simp [Chip.logEvent]
@[simp] theorem Chip.logEvent_latchVf (s : Chip) (sub : Subsys) (code k addr : Nat) : (s.logEvent sub code k addr).latchVf = s.latchVf := by simp [Chip.logEvent]
@[simp] theorem Chip.logEvent_latchNewt (s : Chip) (sub : Subsys) (code k addr : Nat) : (s.logEvent sub code k addr).latchNewt = s.latchNewt := by simp [Chip.logEvent]
@[simp] theorem Chip.logEvent_free (s : Chip) (sub : Subsys) (code k addr : Nat) : (s.logEvent sub code k addr).free = s.free := by simp [Chip.logEvent]
@[simp] theorem Chip.logEvent_timers (s : Chip) (sub : Subsys) (code k addr : Nat) : (s.logEvent sub code k addr).timers = s.timers := by simp [Chip.logEvent]
@[simp] theorem Chip.logEvent_out (s : Chip) (sub : Subsys) (code k addr : Nat) : (s.logEvent sub code k addr).out = s.out := by simp [Chip.logEvent]
@[simp] theorem Chip.logEvent_errSeq (s : Chip) (sub : Subsys) (code k addr : Nat) : (s.logEvent sub code k addr).errSeq = s.errSeq + 1 := by simp [Chip.logEvent]
@[simp] theorem Chip.logEvent_ports (s : Chip) (sub : Subsys) (code k addr : Nat) : (s.logEvent sub code k addr).ports = s.ports := by simp [Chip.logEvent]
@[simp] theorem Chip.logEvent_sw (s : Chip) (sub : Subsys) (code k addr : Nat) : (s.logEvent sub code k addr).sw = s.sw := by simp [Chip.logEvent]
@[simp] theorem Chip.logEvent_flows (s : Chip) (sub : Subsys) (code k addr : Nat) : (s.logEvent sub code k addr).flows = s.flows := by simp [Chip.logEvent]
@[simp] theorem Chip.logEvent_traffic (s : Chip) (sub : Subsys) (code k addr : Nat) : (s.logEvent sub code k addr).traffic = s.traffic := by simp [Chip.logEvent]
@[simp] theorem Chip.logEvent_samples (s : Chip) (sub : Subsys) (code k addr : Nat) : (s.logEvent sub code k addr).samples = s.samples := by simp [Chip.logEvent]
@[simp] theorem Chip.logEvent_samplesArmed (s : Chip) (sub : Subsys) (code k addr : Nat) : (s.logEvent sub code k addr).samplesArmed = s.samplesArmed := by simp [Chip.logEvent]
@[simp] theorem Chip.logEvent_pool (s : Chip) (sub : Subsys) (code k addr : Nat) : (s.logEvent sub code k addr).pool = s.pool := by simp [Chip.logEvent]
@[simp] theorem Chip.logEvent_seq (s : Chip) (sub : Subsys) (code k addr : Nat) : (s.logEvent sub code k addr).seq = s.seq := by simp [Chip.logEvent]
@[simp] theorem Chip.logEvent_drbgUse (s : Chip) (sub : Subsys) (code k addr : Nat) : (s.logEvent sub code k addr).drbgUse = s.drbgUse := by simp [Chip.logEvent]
@[simp] theorem Chip.logEvent_pace (s : Chip) (sub : Subsys) (code k addr : Nat) : (s.logEvent sub code k addr).pace = s.pace := by simp [Chip.logEvent]
@[simp] theorem Chip.logEvent_align (s : Chip) (sub : Subsys) (code k addr : Nat) : (s.logEvent sub code k addr).align = s.align := by simp [Chip.logEvent]
@[simp] theorem Chip.logEvent_power (s : Chip) (sub : Subsys) (code k addr : Nat) : (s.logEvent sub code k addr).power = s.power := by simp [Chip.logEvent]
@[simp] theorem Chip.logEvent_newt (s : Chip) (sub : Subsys) (code k addr : Nat) : (s.logEvent sub code k addr).newt = s.newt := by simp [Chip.logEvent]

@[simp] theorem Chip.newtEvent_raw (s : Chip) (code detail k addr : Nat) : (s.newtEvent code detail k addr).raw = s.raw := by simp [Chip.newtEvent]
@[simp] theorem Chip.newtEvent_tb (s : Chip) (code detail k addr : Nat) : (s.newtEvent code detail k addr).tb = s.tb := by simp [Chip.newtEvent]
@[simp] theorem Chip.newtEvent_latchPf (s : Chip) (code detail k addr : Nat) : (s.newtEvent code detail k addr).latchPf = s.latchPf := by simp [Chip.newtEvent]
@[simp] theorem Chip.newtEvent_latchVf (s : Chip) (code detail k addr : Nat) : (s.newtEvent code detail k addr).latchVf = s.latchVf := by simp [Chip.newtEvent]
@[simp] theorem Chip.newtEvent_latchNewt (s : Chip) (code detail k addr : Nat) : (s.newtEvent code detail k addr).latchNewt = s.latchNewt := by simp [Chip.newtEvent]
@[simp] theorem Chip.newtEvent_free (s : Chip) (code detail k addr : Nat) : (s.newtEvent code detail k addr).free = s.free := by simp [Chip.newtEvent]
@[simp] theorem Chip.newtEvent_timers (s : Chip) (code detail k addr : Nat) : (s.newtEvent code detail k addr).timers = s.timers := by simp [Chip.newtEvent]
@[simp] theorem Chip.newtEvent_out (s : Chip) (code detail k addr : Nat) : (s.newtEvent code detail k addr).out = s.out := by simp [Chip.newtEvent]
@[simp] theorem Chip.newtEvent_errSeq (s : Chip) (code detail k addr : Nat) : (s.newtEvent code detail k addr).errSeq = s.errSeq + 1 := by simp [Chip.newtEvent]
@[simp] theorem Chip.newtEvent_ports (s : Chip) (code detail k addr : Nat) : (s.newtEvent code detail k addr).ports = s.ports := by simp [Chip.newtEvent]
@[simp] theorem Chip.newtEvent_sw (s : Chip) (code detail k addr : Nat) : (s.newtEvent code detail k addr).sw = s.sw := by simp [Chip.newtEvent]
@[simp] theorem Chip.newtEvent_flows (s : Chip) (code detail k addr : Nat) : (s.newtEvent code detail k addr).flows = s.flows := by simp [Chip.newtEvent]
@[simp] theorem Chip.newtEvent_traffic (s : Chip) (code detail k addr : Nat) : (s.newtEvent code detail k addr).traffic = s.traffic := by simp [Chip.newtEvent]
@[simp] theorem Chip.newtEvent_samples (s : Chip) (code detail k addr : Nat) : (s.newtEvent code detail k addr).samples = s.samples := by simp [Chip.newtEvent]
@[simp] theorem Chip.newtEvent_samplesArmed (s : Chip) (code detail k addr : Nat) : (s.newtEvent code detail k addr).samplesArmed = s.samplesArmed := by simp [Chip.newtEvent]
@[simp] theorem Chip.newtEvent_pool (s : Chip) (code detail k addr : Nat) : (s.newtEvent code detail k addr).pool = s.pool := by simp [Chip.newtEvent]
@[simp] theorem Chip.newtEvent_seq (s : Chip) (code detail k addr : Nat) : (s.newtEvent code detail k addr).seq = s.seq := by simp [Chip.newtEvent]
@[simp] theorem Chip.newtEvent_drbgUse (s : Chip) (code detail k addr : Nat) : (s.newtEvent code detail k addr).drbgUse = s.drbgUse := by simp [Chip.newtEvent]
@[simp] theorem Chip.newtEvent_pace (s : Chip) (code detail k addr : Nat) : (s.newtEvent code detail k addr).pace = s.pace := by simp [Chip.newtEvent]
@[simp] theorem Chip.newtEvent_align (s : Chip) (code detail k addr : Nat) : (s.newtEvent code detail k addr).align = s.align := by simp [Chip.newtEvent]
@[simp] theorem Chip.newtEvent_power (s : Chip) (code detail k addr : Nat) : (s.newtEvent code detail k addr).power = s.power := by simp [Chip.newtEvent]
@[simp] theorem Chip.newtEvent_newt (s : Chip) (code detail k addr : Nat) : (s.newtEvent code detail k addr).newt = s.newt := by simp [Chip.newtEvent]

@[simp] theorem Chip.advance_latchPf (s : Chip) (n : Nat) : (s.advance n).latchPf = s.latchPf := by
  unfold Chip.advance
  dsimp only
  split <;> rfl
@[simp] theorem Chip.advance_latchVf (s : Chip) (n : Nat) : (s.advance n).latchVf = s.latchVf := by
  unfold Chip.advance
  dsimp only
  split <;> rfl
@[simp] theorem Chip.advance_latchNewt (s : Chip) (n : Nat) : (s.advance n).latchNewt = s.latchNewt := by
  unfold Chip.advance
  dsimp only
  split <;> rfl
@[simp] theorem Chip.advance_free (s : Chip) (n : Nat) : (s.advance n).free = s.free := by
  unfold Chip.advance
  dsimp only
  split <;> rfl
@[simp] theorem Chip.advance_timers (s : Chip) (n : Nat) : (s.advance n).timers = s.timers := by
  unfold Chip.advance
  dsimp only
  split <;> rfl
@[simp] theorem Chip.advance_out (s : Chip) (n : Nat) : (s.advance n).out = s.out := by
  unfold Chip.advance
  dsimp only
  split <;> rfl
@[simp] theorem Chip.advance_errSeq (s : Chip) (n : Nat) : (s.advance n).errSeq = s.errSeq := by
  unfold Chip.advance
  dsimp only
  split <;> rfl
@[simp] theorem Chip.advance_ports (s : Chip) (n : Nat) : (s.advance n).ports = s.ports := by
  unfold Chip.advance
  dsimp only
  split <;> rfl
@[simp] theorem Chip.advance_sw (s : Chip) (n : Nat) : (s.advance n).sw = s.sw := by
  unfold Chip.advance
  dsimp only
  split <;> rfl
@[simp] theorem Chip.advance_flows (s : Chip) (n : Nat) : (s.advance n).flows = s.flows := by
  unfold Chip.advance
  dsimp only
  split <;> rfl
@[simp] theorem Chip.advance_traffic (s : Chip) (n : Nat) : (s.advance n).traffic = s.traffic := by
  unfold Chip.advance
  dsimp only
  split <;> rfl
@[simp] theorem Chip.advance_samples (s : Chip) (n : Nat) : (s.advance n).samples = s.samples := by
  unfold Chip.advance
  dsimp only
  split <;> rfl
@[simp] theorem Chip.advance_samplesArmed (s : Chip) (n : Nat) : (s.advance n).samplesArmed = s.samplesArmed := by
  unfold Chip.advance
  dsimp only
  split <;> rfl
@[simp] theorem Chip.advance_pool (s : Chip) (n : Nat) : (s.advance n).pool = s.pool := by
  unfold Chip.advance
  dsimp only
  split <;> rfl
@[simp] theorem Chip.advance_seq (s : Chip) (n : Nat) : (s.advance n).seq = s.seq := by
  unfold Chip.advance
  dsimp only
  split <;> rfl
@[simp] theorem Chip.advance_drbgUse (s : Chip) (n : Nat) : (s.advance n).drbgUse = s.drbgUse := by
  unfold Chip.advance
  dsimp only
  split <;> rfl
@[simp] theorem Chip.advance_pace (s : Chip) (n : Nat) : (s.advance n).pace = s.pace := by
  unfold Chip.advance
  dsimp only
  split <;> rfl
@[simp] theorem Chip.advance_power (s : Chip) (n : Nat) : (s.advance n).power = s.power := by
  unfold Chip.advance
  dsimp only
  split <;> rfl
@[simp] theorem Chip.advance_newt (s : Chip) (n : Nat) : (s.advance n).newt = s.newt := by
  unfold Chip.advance
  dsimp only
  split <;> rfl
@[simp] theorem Chip.advance_raw (s : Chip) (n : Nat) : (s.advance n).raw = s.raw + n := by
  unfold Chip.advance
  dsimp only
  split <;> rfl

@[simp] theorem Chip.port_of_raw (s : Chip) (n : Nat) (x : _) : ({ s with raw := x } : Chip).port n = s.port n := (rfl)
@[simp] theorem Chip.port_of_tb (s : Chip) (n : Nat) (x : _) : ({ s with tb := x } : Chip).port n = s.port n := (rfl)
@[simp] theorem Chip.port_of_latchPf (s : Chip) (n : Nat) (x : _) : ({ s with latchPf := x } : Chip).port n = s.port n := (rfl)
@[simp] theorem Chip.port_of_latchVf (s : Chip) (n : Nat) (x : _) : ({ s with latchVf := x } : Chip).port n = s.port n := (rfl)
@[simp] theorem Chip.port_of_latchNewt (s : Chip) (n : Nat) (x : _) : ({ s with latchNewt := x } : Chip).port n = s.port n := (rfl)
@[simp] theorem Chip.port_of_regs (s : Chip) (n : Nat) (x : _) : ({ s with regs := x } : Chip).port n = s.port n := (rfl)
@[simp] theorem Chip.port_of_free (s : Chip) (n : Nat) (x : _) : ({ s with free := x } : Chip).port n = s.port n := (rfl)
@[simp] theorem Chip.port_of_timers (s : Chip) (n : Nat) (x : _) : ({ s with timers := x } : Chip).port n = s.port n := (rfl)
@[simp] theorem Chip.port_of_out (s : Chip) (n : Nat) (x : _) : ({ s with out := x } : Chip).port n = s.port n := (rfl)
@[simp] theorem Chip.port_of_errSeq (s : Chip) (n : Nat) (x : _) : ({ s with errSeq := x } : Chip).port n = s.port n := (rfl)
@[simp] theorem Chip.port_of_sw (s : Chip) (n : Nat) (x : _) : ({ s with sw := x } : Chip).port n = s.port n := (rfl)
@[simp] theorem Chip.port_of_flows (s : Chip) (n : Nat) (x : _) : ({ s with flows := x } : Chip).port n = s.port n := (rfl)
@[simp] theorem Chip.port_of_traffic (s : Chip) (n : Nat) (x : _) : ({ s with traffic := x } : Chip).port n = s.port n := (rfl)
@[simp] theorem Chip.port_of_samples (s : Chip) (n : Nat) (x : _) : ({ s with samples := x } : Chip).port n = s.port n := (rfl)
@[simp] theorem Chip.port_of_samplesArmed (s : Chip) (n : Nat) (x : _) : ({ s with samplesArmed := x } : Chip).port n = s.port n := (rfl)
@[simp] theorem Chip.port_of_pool (s : Chip) (n : Nat) (x : _) : ({ s with pool := x } : Chip).port n = s.port n := (rfl)
@[simp] theorem Chip.port_of_seq (s : Chip) (n : Nat) (x : _) : ({ s with seq := x } : Chip).port n = s.port n := (rfl)
@[simp] theorem Chip.port_of_drbgUse (s : Chip) (n : Nat) (x : _) : ({ s with drbgUse := x } : Chip).port n = s.port n := (rfl)
@[simp] theorem Chip.port_of_pace (s : Chip) (n : Nat) (x : _) : ({ s with pace := x } : Chip).port n = s.port n := (rfl)
@[simp] theorem Chip.port_of_align (s : Chip) (n : Nat) (x : _) : ({ s with align := x } : Chip).port n = s.port n := (rfl)
@[simp] theorem Chip.port_of_power (s : Chip) (n : Nat) (x : _) : ({ s with power := x } : Chip).port n = s.port n := (rfl)
@[simp] theorem Chip.port_of_newt (s : Chip) (n : Nat) (x : _) : ({ s with newt := x } : Chip).port n = s.port n := (rfl)

end Sys2Proof.Machine
end

