-- ==== Sys2Proof/Laws/Ops.lean ====
section
/-!
SUPPORT. What the shared operations do: register fields after a write, an error-log record, a timer's expiry.
-/
namespace Sys2Proof.Machine

/-- Two parts that agree on every field are equal. -/
theorem Chip.eq_of_fields (t u : Chip) (hraw : t.raw = u.raw) (htb : t.tb = u.tb) (hlatchPf : t.latchPf = u.latchPf) (hlatchVf : t.latchVf =
    u.latchVf) (hlatchNewt : t.latchNewt = u.latchNewt) (hregs : t.regs = u.regs) (hfree : t.free = u.free) (htimers : t.timers = u.timers)
    (hout : t.out = u.out) (herrSeq : t.errSeq = u.errSeq) (hports : t.ports = u.ports) (hsw : t.sw = u.sw) (hflows : t.flows = u.flows)
    (htraffic : t.traffic = u.traffic) (hsamples : t.samples = u.samples) (hsamplesArmed : t.samplesArmed = u.samplesArmed) (hpool : t.pool
    = u.pool) (hseq : t.seq = u.seq) (hdrbgUse : t.drbgUse = u.drbgUse) (hpace : t.pace = u.pace) (halign : t.align = u.align) (hpower :
    t.power = u.power) (hnewt : t.newt = u.newt) : t = u := by
  cases t; cases u; simp_all

/-! ### Register fields -/

theorem Chip.rd_lt (s : Chip) (a : Nat) (f : Fld) : s.rd a f < 2 ^ f.width := RegFile.get_lt _ _ _

@[simp] theorem Chip.rd_wr_same (s : Chip) (a : Nat) (f : Fld) (v : Nat) : (s.wr a f v).rd a f = v % 2 ^ f.width :=
  RegFile.get_set_same _ _ _ _

theorem Chip.rd_wr_apart (s : Chip) (a b : Nat) (f g : Fld) (v : Nat) (h : apart a f b g) : (s.wr a f v).rd b g = s.rd b g :=
  RegFile.get_set_apart _ _ _ _ _ _ (.inr h)

theorem Chip.flag_wr_apart (s : Chip) (a b : Nat) (f g : Fld) (v : Nat) (h : apart a f b g) : (s.wr a f v).flag b g = s.flag b g := by
  simp only [Chip.flag, Chip.rd_wr_apart s a b f g v h]

theorem Chip.rd_wrB_apart (s : Chip) (a b : Nat) (f g : Fld) (v : Bool) (h : apart a f b g) : (s.wrB a f v).rd b g = s.rd b g :=
  Chip.rd_wr_apart _ _ _ _ _ _ h

theorem Chip.flag_wrB_apart (s : Chip) (a b : Nat) (f g : Fld) (v : Bool) (h : apart a f b g) : (s.wrB a f v).flag b g = s.flag b g :=
  Chip.flag_wr_apart _ _ _ _ _ _ h

theorem Chip.rd_wrB_same (s : Chip) (a : Nat) (f : Fld) (v : Bool) (h : 0 < f.width) : (s.wrB a f v).rd a f = b2n v := by
  unfold Chip.wrB
  rw [Chip.rd_wr_same]
  apply Nat.mod_eq_of_lt
  have : 2 ^ 1 ≤ 2 ^ f.width := Nat.pow_le_pow_right (by omega) h
  cases v
  · simp only [b2n]; simp
  · simp only [b2n]; simp; omega

theorem Chip.flag_wrB_same (s : Chip) (a : Nat) (f : Fld) (v : Bool) (h : 0 < f.width) : (s.wrB a f v).flag a f = v := by
  unfold Chip.flag
  rw [Chip.rd_wrB_same s a f v h]
  cases v <;> rfl

theorem Chip.rd_wrSpan_apart (s : Chip) (a n v b : Nat) (g : Fld)
    (h : b + 8 * ((g.lo + g.width + 63) / 64) ≤ a ∨ a + 8 * n ≤ b) : (s.wrSpan a n v).rd b g = s.rd b g := by
  have hb : g.lo + g.width ≤ 64 * ((g.lo + g.width + 63) / 64) := by omega
  unfold Chip.rd Chip.wrSpan
  rw [RegFile.get_eq_bits _ b _ g hb, RegFile.get_eq_bits _ b _ g hb, RegFile.span_setSpan_apart _ _ _ _ _ _ h]

/-! ### The error log (R442, R443) -/

/-- An entry outside the block of error registers. -/
abbrev notErr (b : Nat) (g : Fld) : Prop := b + 8 * ((g.lo + g.width + 63) / 64) ≤ 0x1800000 ∨ 0x1A00000 ≤ b

theorem Chip.logRoom_rd_other (s : Chip) (b : Nat) (g : Fld) (h : notErr b g) : s.logRoom.rd b g = s.rd b g := by
  unfold notErr at h
  unfold Chip.logRoom
  split
  · unfold Chip.count Chip.bump
    rw [Chip.rd_wr_apart, Chip.rd_wr_apart]
    · unfold apart A.ERR_STATUS F.ERR_STATUS_HOST_LOST; simp only; omega
    · unfold apart A.ERR_HOST_TAIL F.ERR_HOST_TAIL_TAIL; simp only; omega
  · rfl

theorem Chip.logPut_rd_other (s : Chip) (r : LogRec) (b : Nat) (g : Fld) (h : notErr b g) : (s.logPut r).rd b g = s.rd b g := by
  unfold notErr at h
  have hm : s.errSeq % 4096 < 4096 := Nat.mod_lt _ (by omega)
  unfold Chip.logPut
  show ((s.wrSpan _ _ _).wr _ _ _).rd b g = _
  rw [Chip.rd_wr_apart, Chip.rd_wrSpan_apart]
  · unfold A.ERR_LOG; omega
  · unfold apart A.ERR_STATUS F.ERR_STATUS_HEAD; simp only; omega

/-- A record changes no register outside the block of error registers. -/
theorem Chip.log_rd_other (s : Chip) (r : LogRec) (b : Nat) (g : Fld) (h : notErr b g) : (s.log r).rd b g = s.rd b g := by
  unfold Chip.log
  rw [Chip.logPut_rd_other _ _ _ _ h, Chip.logRoom_rd_other _ _ _ h]

theorem Chip.log_flag_other (s : Chip) (r : LogRec) (b : Nat) (g : Fld) (h : notErr b g) : (s.log r).flag b g = s.flag b g := by
  unfold Chip.flag; rw [Chip.log_rd_other _ _ _ _ h]

/-- A record changes registers and the count of records alone. -/
theorem Chip.log_frame (s : Chip) (r : LogRec) : s.log r = { s with regs := (s.log r).regs, errSeq := s.errSeq + 1 } := by
  apply Chip.eq_of_fields <;> simp

/-! ### The same of the register file, for simp (disch := decide) -/

@[simp] theorem Chip.wrB_regs (s : Chip) (a : Nat) (f : Fld) (v : Bool) : (s.wrB a f v).regs = s.regs.set a f (b2n v) := (rfl)
@[simp] theorem Chip.bump_regs (s : Chip) (a : Nat) (f : Fld) (cap n : Nat) :
    (s.bump a f cap n).regs = s.regs.set a f (satAdd cap (s.regs.get a f) n) := (rfl)
@[simp] theorem Chip.count_regs (s : Chip) (a : Nat) (f : Fld) :
    (s.count a f).regs = s.regs.set a f (satAdd (2 ^ f.width - 1) (s.regs.get a f) 1) := (rfl)

theorem RegFile.get_set_off (r : RegFile) (a b : Nat) (f g : Fld) (v : Nat) (h : apart a f b g) : (r.set a f v).get b g = r.get b g :=
  RegFile.get_set_apart _ _ _ _ _ _ (.inr h)

theorem Chip.log_get_other (s : Chip) (r : LogRec) (b : Nat) (g : Fld) (h : notErr b g) : (s.log r).regs.get b g = s.regs.get b g :=
  Chip.log_rd_other s r b g h

/-! ### Timers -/

theorem Chip.expire_eq (s c : Chip) (t : Timer) (h : s.expire t = some c) :
    ∃ d, s.due t = some d ∧ c = (s.advance (d - s.raw)).stopTimer t := by
  unfold Chip.expire at h
  split at h
  · cases h
  · rename_i d hd
    exact ⟨d, hd, (Option.some.inj h).symm⟩

end Sys2Proof.Machine
end

