-- ==== Sys2Proof/Laws/Slots.lean ====
section
/-!
SUPPORT. Command packets: what each field of a packet reads, given the head and the parameters it was built from.
-/
namespace Sys2Proof.Machine

theorem bits_mod (n lo w k : Nat) (h : lo + w ≤ k) : bits (n % 2 ^ k) lo w = bits n lo w := by
  apply Nat.eq_of_testBit_eq
  intro j
  rw [testBit_bits, testBit_bits, Nat.testBit_mod_two_pow]
  by_cases hj : j < w
  · have : lo + j < k := by omega
    simp [hj, this]
  · simp [hj]

theorem bits_zero_left (lo w : Nat) : bits 0 lo w = 0 := by simp [bits]

theorem bitAt_eq_bits (n i : Nat) : bitAt n i = (bits n i 1 == 1) := by
  unfold bitAt
  have h := testBit_bits n i 1 0
  simp only [Nat.zero_lt_one, decide_true, Bool.true_and, Nat.add_zero] at h
  rw [← h]
  have hb := bits_lt n i 1
  have : bits n i 1 = 0 ∨ bits n i 1 = 1 := by omega
  rcases this with h | h <;> simp [h]

theorem b2n_mod (b : Bool) : b2n b % 2 ^ 1 = b2n b := by cases b <;> rfl
theorem b2n_beq (b : Bool) : (b2n b == 1) = b := by cases b <;> rfl

/-- Parameters that lie apart from each other, from bit 64 of the packet on. -/
def Par.apart (l : List Par) : Prop :=
  (∀ p ∈ l, 64 ≤ p.lo) ∧ l.Pairwise (fun p q => p.lo + p.width ≤ q.lo ∨ q.lo + q.width ≤ p.lo)

theorem bits_foldl_apart (l : List Par) (x lo w : Nat) (h : ∀ p ∈ l, lo + w ≤ p.lo ∨ p.lo + p.width ≤ lo) :
    bits (l.foldl (fun x p => setBits x p.lo p.width p.val) x) lo w = bits x lo w := by
  induction l generalizing x with
  | nil => rfl
  | cons p l ih =>
    simp only [List.foldl_cons]
    rw [ih _ (fun q hq => h q (by simp [hq])), bits_setBits_apart _ _ _ _ _ _ (h p (by simp))]

theorem bits_foldl_mem (l : List Par) (x : Nat) (p : Par) (hp : p ∈ l)
    (h : l.Pairwise (fun p q => p.lo + p.width ≤ q.lo ∨ q.lo + q.width ≤ p.lo)) :
    bits (l.foldl (fun x p => setBits x p.lo p.width p.val) x) p.lo p.width = p.val % 2 ^ p.width := by
  induction l generalizing x with
  | nil => simp at hp
  | cons q l ih =>
    simp only [List.foldl_cons]
    rw [List.pairwise_cons] at h
    rcases List.mem_cons.1 hp with rfl | hp
    · rw [bits_foldl_apart _ _ _ _ (fun r hr => h.1 r hr), bits_setBits_same]
    · exact ih _ hp h.2

/-- A parameter of a packet reads as it was built. -/
theorem CmdHead.bits_packet (h : CmdHead) (op : Nat) (l : List Par) (p : Par) (hp : p ∈ l) (hl : Par.apart l) :
    bits (h.packet op l) p.lo p.width = p.val % 2 ^ p.width := bits_foldl_mem l _ p hp hl.2

theorem CmdHead.bits_packet_head (h : CmdHead) (op : Nat) (l : List Par) (lo w : Nat) (hw : lo + w ≤ 64) (hl : Par.apart l) :
    bits (h.packet op l) lo w = bits (h.packet op []) lo w :=
  bits_foldl_apart l _ lo w (fun p hp => .inl (le_trans hw (hl.1 p hp)))

/-- The opcode and the head of a packet read as it was built. -/
theorem CmdHead.slotOp_packet (h : CmdHead) (op : Nat) (l : List Par) (hl : Par.apart l) : slotOp (h.packet op l) = op % 256 := by
  unfold slotOp
  rw [CmdHead.bits_packet_head h op l 0 8 (by omega) hl]
  simp only [CmdHead.packet, List.foldl_nil]
  repeat rw [bits_setBits_apart _ _ _ _ _ _ (by omega)]
  rw [bits_setBits_same]
  norm_num

theorem CmdHead.ofSlot_packet (h : CmdHead) (op : Nat) (l : List Par) (hl : Par.apart l) (hk : h.ok = true) :
    CmdHead.ofSlot h.from_ (h.packet op l) = h := by
  have ht : h.tag < 2 ^ 32 := by simpa [CmdHead.ok, Nat.blt_eq] using hk
  unfold CmdHead.ofSlot slotQueue slotBarrier slotNotify slotQuiet slotTag
  simp only [bitAt_eq_bits]
  rw [CmdHead.bits_packet_head h op l 16 10 (by omega) hl, CmdHead.bits_packet_head h op l 8 1 (by omega) hl,
    CmdHead.bits_packet_head h op l 9 1 (by omega) hl, CmdHead.bits_packet_head h op l 10 1 (by omega) hl,
    CmdHead.bits_packet_head h op l 32 32 (by omega) hl]
  simp only [CmdHead.packet, List.foldl_nil]
  have e1 : ∀ x a b c d e f, bits (setBits (setBits (setBits (setBits (setBits (setBits x 0 8 a) 8 1 b) 9 1 c) 10 1 d) 16 10 e) 32 32 f) 16 10
      = e % 2 ^ 10 := by
    intros
    rw [bits_setBits_apart _ _ _ _ _ _ (by omega), bits_setBits_same]
  have e2 : ∀ x a b c d e f, bits (setBits (setBits (setBits (setBits (setBits (setBits x 0 8 a) 8 1 b) 9 1 c) 10 1 d) 16 10 e) 32 32 f) 8 1
      = b % 2 ^ 1 := by
    intros
    rw [bits_setBits_apart _ _ _ _ _ _ (by omega), bits_setBits_apart _ _ _ _ _ _ (by omega), bits_setBits_apart _ _ _ _ _ _ (by omega),
      bits_setBits_apart _ _ _ _ _ _ (by omega), bits_setBits_same]
  have e3 : ∀ x a b c d e f, bits (setBits (setBits (setBits (setBits (setBits (setBits x 0 8 a) 8 1 b) 9 1 c) 10 1 d) 16 10 e) 32 32 f) 9 1
      = c % 2 ^ 1 := by
    intros
    rw [bits_setBits_apart _ _ _ _ _ _ (by omega), bits_setBits_apart _ _ _ _ _ _ (by omega), bits_setBits_apart _ _ _ _ _ _ (by omega),
      bits_setBits_same]
  have e4 : ∀ x a b c d e f, bits (setBits (setBits (setBits (setBits (setBits (setBits x 0 8 a) 8 1 b) 9 1 c) 10 1 d) 16 10 e) 32 32 f) 10 1
      = d % 2 ^ 1 := by
    intros
    rw [bits_setBits_apart _ _ _ _ _ _ (by omega), bits_setBits_apart _ _ _ _ _ _ (by omega), bits_setBits_same]
  rw [e1, e2, e3, e4, bits_setBits_same, b2n_mod, b2n_mod, b2n_mod, b2n_beq, b2n_beq, b2n_beq, Nat.mod_eq_of_lt ht]
  have hq : Fin.ofNat 1024 (h.queue.val % 2 ^ 10) = h.queue := by
    apply Fin.ext
    have := h.queue.isLt
    simp only [Fin.ofNat]
    omega
  rw [hq]

/-- A locator, a short address and a counter reference read as they were built. -/
theorem Locator.of_code (l : Locator) (h : l.fits = true) : Locator.of (l.code % 2 ^ 128) = l := by
  simp only [Locator.fits, Bool.and_eq_true, Nat.blt_eq, Bool.not_eq_true'] at h
  obtain ⟨⟨⟨⟨⟨h1, h2⟩, h3⟩, h4⟩, h5⟩, h6⟩ := h
  obtain ⟨addr, space, eid, engine, countEn, counter, rsv⟩ := l
  simp only at h1 h2 h3 h4 h5 h6
  unfold Locator.of Locator.code
  simp only [bitAt_eq_bits]
  simp only [bits_mod _ _ _ 128 (by omega : 0 + 56 ≤ 128), bits_mod _ _ _ 128 (by omega : 56 + 2 ≤ 128),
    bits_mod _ _ _ 128 (by omega : 64 + 14 ≤ 128), bits_mod _ _ _ 128 (by omega : 80 + 7 ≤ 128), bits_mod _ _ _ 128 (by omega : 87 + 1 ≤ 128),
    bits_mod _ _ _ 128 (by omega : 88 + 14 ≤ 128), bits_mod _ _ _ 128 (by omega : 58 + 6 ≤ 128), bits_mod _ _ _ 128 (by omega : 78 + 2 ≤ 128),
    bits_mod _ _ _ 128 (by omega : 102 + 26 ≤ 128)]
  simp [bits_setBits_same, bits_setBits_apart, bits_zero_left, b2n_beq, h6]
  have := b2n_mod countEn
  refine ⟨by omega, by omega, by omega, by omega, ?_, by omega⟩
  cases countEn <;> rfl

theorem Locator.ofShort_code (l : Locator) (h : l.fitsShort = true) :
    Locator.ofShort (setBits (setBits 0 0 56 l.addr) 56 2 l.space % 2 ^ 64) = l := by
  simp only [Locator.fitsShort, Bool.and_eq_true, Nat.blt_eq, Bool.not_eq_true', beq_iff_eq] at h
  obtain ⟨⟨⟨⟨⟨⟨h1, h2⟩, h3⟩, h4⟩, h5⟩, h6⟩, h7⟩ := h
  obtain ⟨addr, space, eid, engine, countEn, counter, rsv⟩ := l
  simp only at h1 h2 h3 h4 h5 h6 h7
  unfold Locator.ofShort
  simp only [bits_mod _ _ _ 64 (by omega : 0 + 56 ≤ 64), bits_mod _ _ _ 64 (by omega : 56 + 2 ≤ 64), bits_mod _ _ _ 64 (by omega : 58 + 6 ≤ 64)]
  simp [bits_setBits_same, bits_setBits_apart, bits_zero_left, h3, h4, h5, h6, h7]
  omega

theorem CounterRef.ofSlot_code (x b : Nat) (c : CounterRef) (h : prm x b 32 = setBits (setBits 0 0 14 c.index.val) 16 14 c.eid.val % 2 ^ 32) :
    CounterRef.ofSlot x b = c := by
  unfold CounterRef.ofSlot crefIndex crefEid
  rw [h, bits_mod _ _ _ _ (by omega), bits_mod _ _ _ _ (by omega), bits_setBits_same, bits_setBits_apart _ _ _ _ _ _ (by omega), bits_setBits_same]
  obtain ⟨i, e⟩ := c
  have h1 : Fin.ofNat 16384 (i.val % 2 ^ 14) = i := by
    apply Fin.ext
    have := i.isLt
    simp only [Fin.ofNat]
    omega
  have h2 : Fin.ofNat 16384 (e.val % 2 ^ 14) = e := by
    apply Fin.ext
    have := e.isLt
    simp only [Fin.ofNat]
    omega
  simp only
  rw [h1, h2]

end Sys2Proof.Machine
end

