-- ==== Sys2Proof/Laws/Switch.lean ====
section
/-!
SUPPORT. What the switch core leaves alone: every operation on packets keeps the part but for the buffer, the flows, the traffic
manager, timers, registers, the error log's count and the sample ring.
-/
namespace Sys2Proof.Machine

/-- The part without what the switch core changes. -/
def Chip.core (s : Chip) : Chip :=
  { s with sw := {}, flows := {}, traffic := {}, timers := [], regs := [], errSeq := 0, samples := [] }

theorem Chip.core_pool {s t : Chip} (h : t.core = s.core) : t.pool = s.pool := (congrArg (fun c => c.pool) h : _)
theorem Chip.core_seq {s t : Chip} (h : t.core = s.core) : t.seq = s.seq := (congrArg (fun c => c.seq) h : _)
theorem Chip.core_out {s t : Chip} (h : t.core = s.core) : t.out = s.out := (congrArg (fun c => c.out) h : _)
theorem Chip.core_raw {s t : Chip} (h : t.core = s.core) : t.raw = s.raw := (congrArg (fun c => c.raw) h : _)
theorem Chip.core_tb {s t : Chip} (h : t.core = s.core) : t.tb = s.tb := (congrArg (fun c => c.tb) h : _)
theorem Chip.core_ports {s t : Chip} (h : t.core = s.core) : t.ports = s.ports := (congrArg (fun c => c.ports) h : _)
theorem Chip.core_power {s t : Chip} (h : t.core = s.core) : t.power = s.power := (congrArg (fun c => c.power) h : _)
theorem Chip.core_newt {s t : Chip} (h : t.core = s.core) : t.newt = s.newt := (congrArg (fun c => c.newt) h : _)
theorem Chip.core_pace {s t : Chip} (h : t.core = s.core) : t.pace = s.pace := (congrArg (fun c => c.pace) h : _)
theorem Chip.core_align {s t : Chip} (h : t.core = s.core) : t.align = s.align := (congrArg (fun c => c.align) h : _)
theorem Chip.core_free {s t : Chip} (h : t.core = s.core) : t.free = s.free := (congrArg (fun c => c.free) h : _)

/-- A fold of operations that keep the core keeps it. -/
theorem Chip.foldl_core {α : Type} (f : Chip → α → Chip) (h : ∀ s x, (f s x).core = s.core) (l : List α) (s : Chip) :
    (l.foldl f s).core = s.core := by
  induction l generalizing s with
  | nil => rfl
  | cons x l ih => rw [List.foldl_cons, ih, h]

/-! ### Shared operations -/

@[simp] theorem Chip.wr_core (s : Chip) (a : Nat) (f : Fld) (v : Nat) : (s.wr a f v).core = s.core := (rfl)
@[simp] theorem Chip.wrB_core (s : Chip) (a : Nat) (f : Fld) (v : Bool) : (s.wrB a f v).core = s.core := (rfl)
@[simp] theorem Chip.wrP_core (s : Chip) (a n : Nat) (f : Fld) (v : Nat) : (s.wrP a n f v).core = s.core := (rfl)
@[simp] theorem Chip.bump_core (s : Chip) (a : Nat) (f : Fld) (c n : Nat) : (s.bump a f c n).core = s.core := (rfl)
@[simp] theorem Chip.count_core (s : Chip) (a : Nat) (f : Fld) : (s.count a f).core = s.core := (rfl)
@[simp] theorem Chip.wrap_core (s : Chip) (a : Nat) (f : Fld) (n : Nat) : (s.wrap a f n).core = s.core := (rfl)
@[simp] theorem Chip.startTimer_core (s : Chip) (t : Timer) (n : Nat) : (s.startTimer t n).core = s.core := (rfl)
@[simp] theorem Chip.stopTimer_core (s : Chip) (t : Timer) : (s.stopTimer t).core = s.core := (rfl)
@[simp] theorem Chip.wrSpan_core (s : Chip) (a n v : Nat) : (s.wrSpan a n v).core = s.core := (rfl)
@[simp] theorem Chip.nextErr_core (s : Chip) : s.nextErr.core = s.core := (rfl)
@[simp] theorem Chip.logRoom_core (s : Chip) : s.logRoom.core = s.core := by unfold Chip.logRoom; split <;> simp
@[simp] theorem Chip.log_core (s : Chip) (r : LogRec) : (s.log r).core = s.core := by
  unfold Chip.log Chip.logPut
  simp
@[simp] theorem Chip.logReg_core (s : Chip) (st : Status) (b : Subsys) (o : Nat) : (s.logReg st b o).core = s.core := Chip.log_core _ _
@[simp] theorem Chip.logEvent_core (s : Chip) (b : Subsys) (c k a : Nat) : (s.logEvent b c k a).core = s.core := Chip.log_core _ _

/-! ### The traffic manager -/

@[simp] theorem Chip.setMeter_core (s : Chip) (i : Nat) (c p : Int) : (s.setMeter i c p).core = s.core := by
  simp only [Chip.core, Chip.setMeter]
@[simp] theorem Chip.setShaper_core (s : Chip) (o p : Nat) (x : Shaper) : (s.setShaper o p x).core = s.core := (rfl)
@[simp] theorem Chip.setPhase_core (s : Chip) (i o : Nat) (p : Phase) : (s.setPhase i o p).core = s.core := (rfl)

@[simp] theorem Chip.meterTokens_core (s : Chip) (i : Nat) : (s.meterTokens i).1.core = s.core := by
  unfold Chip.meterTokens
  dsimp only
  split
  · rfl
  · exact (Chip.logReg_core _ _ _ _).trans ((Chip.count_core _ _ _).trans (Chip.setMeter_core _ _ _ _))

@[simp] theorem Chip.colour_core (s : Chip) (i n : Nat) : (s.colour i n).1.core = s.core := by
  unfold Chip.colour
  split
  · rfl
  · have h := Chip.meterTokens_core s i
    dsimp only
    repeat' (first | split | simp only [Chip.setMeter_core, h])

@[simp] theorem Chip.checkShaper_core (s : Chip) (o p : Nat) : (s.checkShaper o p).core = s.core := by
  unfold Chip.checkShaper
  dsimp only
  split
  · rfl
  · exact (Chip.logReg_core _ _ _ _).trans ((Chip.count_core _ _ _).trans (Chip.setShaper_core _ _ _ _))

@[simp] theorem Chip.refreshClasses_core (s : Chip) (o p : Nat) : (s.refreshClasses o p).core = s.core := by
  unfold Chip.refreshClasses; simp

@[simp] theorem Chip.refreshTags_core (s : Chip) (o p : Nat) : (s.refreshTags o p).core = s.core := by
  unfold Chip.refreshTags
  refine (Chip.foldl_core _ ?_ _ _).trans (by simp)
  intro s r
  dsimp only
  repeat' (first | split | simp only [Chip.setShaper_core])

/-! ### The switch core -/

@[simp] theorem Chip.mapSlots_core (s : Chip) (f : Slot → Slot) : (s.mapSlots f).core = s.core := (rfl)
@[simp] theorem Chip.modSlot_core (s : Chip) (i : Nat) (f : Slot → Slot) : (s.modSlot i f).core = s.core := (rfl)
@[simp] theorem Chip.setHeld_core (s : Chip) (i : Nat) (h : Held) : (s.setHeld i h).core = s.core := (rfl)
@[simp] theorem Chip.setFlow_core (s : Chip) (k : Nat) (f : SrcFlow) : (s.setFlow k f).core = s.core := (rfl)
@[simp] theorem Chip.setArrivals_core (s : Chip) (e g n : Nat) : (s.setArrivals e g n).core = s.core := (rfl)

@[simp] theorem Chip.syncDrain_core (s : Chip) : s.syncDrain.core = s.core := by unfold Chip.syncDrain; split <;> simp
@[simp] theorem Chip.chargeUp_core (s : Chip) (p : Packet) (a : Admission) : (s.chargeUp p a).core = s.core := by
  unfold Chip.chargeUp; split <;> simp
@[simp] theorem Chip.chargeDown_core (s : Chip) (p : Packet) (a : Admission) : (s.chargeDown p a).core = s.core := by
  unfold Chip.chargeDown; split <;> simp

@[simp] theorem Chip.writeSample_core (s : Chip) (sl : Slot) (t : Nat) : (s.writeSample sl t).core = s.core := by
  unfold Chip.writeSample
  dsimp only
  have h1 (x : Chip) (c : Bool) (r1 r2 : Chip) (d : Bool) (r3 : Chip) (e1 : r1.core = x.core) (e2 : r2.core = x.core)
      (e3 : r3.core = x.core) : (if c then r1 else if d then r2 else r3).core = x.core := by
    split
    · exact e1
    · split
      · exact e2
      · exact e3
  apply h1
  · rw [Chip.count_core]; simp only [Chip.core]
  · rw [Chip.count_core]; simp only [Chip.core]
  · simp only [Chip.core, Chip.wrap, Chip.wr]

@[simp] theorem Chip.trySample_core (s : Chip) (i : Nat) : (s.trySample i).core = s.core := by
  unfold Chip.trySample
  repeat' (first | split | simp)

@[simp] theorem Chip.stampFlow_core (s : Chip) (k : Nat) (p : Packet) : (s.stampFlow k p).1.core = s.core := by
  unfold Chip.stampFlow
  dsimp only
  split <;> simp

@[simp] theorem Chip.countCause_core (s : Chip) (c : Option (Nat × Fld)) : (s.countCause c).core = s.core := by
  unfold Chip.countCause; split <;> simp

@[simp] theorem Chip.logDiscard_core (s : Chip) (p : Packet) (st : Status) (e : Option Nat) (n : Nat) :
    (s.logDiscard p st e n).core = s.core := by
  unfold Chip.logDiscard
  split
  · simp
  · split <;> simp

@[simp] theorem Chip.place_core (s : Chip) (sl : Slot) : (s.place sl).core = s.core := by
  unfold Chip.place; simp; rfl

@[simp] theorem Chip.sampleDue_core (s : Chip) (p : Packet) : (s.sampleDue p).1.core = s.core := by
  unfold Chip.sampleDue
  split
  · dsimp only; split <;> rfl
  · rfl

@[simp] theorem Chip.putIn_core (s : Chip) (p : Packet) (c : List Copy) (a : Admission) (n : Nat) (h d : Bool) (k : Held)
    (o : Option Nat) : (s.putIn p c a n h d k o).1.core = s.core := by
  unfold Chip.putIn
  simp only [Chip.trySample_core]
  split <;> simp

@[simp] theorem Chip.countMissing_core (s : Chip) (m : Nat) (w : Bool) : (s.countMissing m w).core = s.core := by
  unfold Chip.countMissing
  dsimp only
  split <;> simp

@[simp] theorem Chip.coloured_core (s : Chip) (n : Nat) (p : Packet) : (s.coloured n p).1.core = s.core := by
  unfold Chip.coloured
  split
  · split <;> simp
  · simp

@[simp] theorem Chip.offer_core (s : Chip) (p : Packet) (n : Nat) (e h : Bool) (o : Option Nat) (a : Bool) :
    (s.offer p n e h o a).1.core = s.core := by
  unfold Chip.offer
  split
  · simp
  · rename_i q cs d m w _
    have h1 := Chip.coloured_core (s.countMissing m w) n q
    rw [Chip.countMissing_core] at h1
    revert h1
    dsimp only
    generalize (s.countMissing m w).coloured n q = X
    obtain ⟨t, col⟩ := X
    dsimp only
    intro h1
    split
    · exact h1
    · split
      · simp [h1]
      · split
        · split
          · split <;> simp [h1]
          · simp [h1]
        · split
          · exact h1
          · split
            · simp [h1]
            · split <;> simp [h1]

@[simp] theorem Chip.fromSource_core (s : Chip) (p : Packet) (n : Nat) (h : Bool) (o : Option Nat) (a : Bool) :
    (s.fromSource p n h o a).1.core = s.core := by
  unfold Chip.fromSource
  dsimp only
  split
  · simp
  · split
    · split
      · split
        · simp
        · split
          · rfl
          · simp
      · simp
    · simp

@[simp] theorem Chip.createQuiet_core (s : Chip) (p : Packet) (o : Option Nat) : (s.createQuiet p o).1.core = s.core := by
  unfold Chip.createQuiet; simp

@[simp] theorem Chip.answerDiscard_core (s : Chip) (d : Option (Packet × Status)) : (s.answerDiscard d).core = s.core := by
  unfold Chip.answerDiscard
  split
  · rfl
  · split <;> simp

@[simp] theorem Chip.markReleased_core (s : Chip) (i o p : Nat) : (s.markReleased i o p).core = s.core := by
  unfold Chip.markReleased
  dsimp only
  split
  · rfl
  · rw [Chip.refreshTags_core]; rfl

@[simp] theorem Chip.releasePass_core (s : Chip) : s.releasePass.core = s.core := by
  unfold Chip.releasePass
  apply Chip.foldl_core
  intro s x
  split
  · rfl
  · split
    · apply Chip.foldl_core
      intro s c
      split
      · split <;> simp
      · rfl
    · rfl

@[simp] theorem Chip.dropSlot_core (s : Chip) (i : Nat) : (s.dropSlot i).core = s.core := by
  unfold Chip.dropSlot
  split
  · rfl
  · simp; rfl

@[simp] theorem Chip.admitWaiting_core (s : Chip) : s.admitWaiting.core = s.core := by
  unfold Chip.admitWaiting
  dsimp only
  refine (Chip.foldl_core _ ?_ _ _).trans rfl
  intro s w
  split
  · rfl
  · split
    · split <;> simp
    · simp only [Chip.putIn_core]
      split <;> simp

@[simp] theorem Chip.settle_core (s : Chip) : s.settle.core = s.core := by unfold Chip.settle; simp

@[simp] theorem Chip.create_core (s : Chip) (p : Packet) (o : Option Nat) : (s.create p o).1.core = s.core := by
  unfold Chip.create; simp

/-- Sending a packet keeps everything but the switch core. -/
@[simp] theorem Chip.send_core (s : Chip) (p : Packet) : (s.send p).core = s.core := by unfold Chip.send; split <;> simp

@[simp] theorem Chip.sendLink_core (s : Chip) (o : Nat) (p : Packet) : (s.sendLink o p).core = s.core := by
  unfold Chip.sendLink
  dsimp only
  split
  · simp
  · rfl

@[simp] theorem Chip.segmentIn_core (s : Chip) (i : Nat) (b : List Byte) : (s.segmentIn i b).core = s.core := by
  unfold Chip.segmentIn
  dsimp only
  split <;> simp

@[simp] theorem Chip.flowApplied_core (s : Chip) (p : Packet) : (s.flowApplied p).core = s.core := by
  unfold Chip.flowApplied
  split
  · rfl
  · dsimp only
    rw [Chip.settle_core]
    split
    · exact (rfl : _ = _).trans (by simp only [Chip.core, Chip.mapSlots]; exact (Chip.send_core _ _).trans (Chip.setArrivals_core _ _ _ _))
    · rfl

@[simp] theorem Chip.copyDone_core (s : Chip) (i o : Nat) : (s.copyDone i o).core = s.core := by
  unfold Chip.copyDone
  dsimp only
  split <;> simp

/-- Taking a packet at the local output keeps everything but the switch core. -/
@[simp] theorem Chip.takeLocal_core (s : Chip) (p : Packet) : (s.takeLocal p).1.core = s.core := by
  unfold Chip.takeLocal
  split
  · split <;> simp
  · split <;> simp

@[simp] theorem Chip.fenceComplete_core (s : Chip) (k g : Nat) : (s.fenceComplete k g).core = s.core := by
  unfold Chip.fenceComplete
  dsimp only
  rw [Chip.settle_core]
  refine (Chip.foldl_core _ ?_ _ _).trans (by simp)
  intro s i
  repeat' (first | split | simp | rfl)

@[simp] theorem Chip.fenceAnswered_core (s : Chip) (n : Nat) (b : StatusBody) : (s.fenceAnswered n b).core = s.core := by
  unfold Chip.fenceAnswered
  dsimp only
  split <;> simp

end Sys2Proof.Machine
end

