-- ==== Sys2Proof/Tests/Slice0.lean ====
section
/-!
SUPPORT. The model's own tests: an ill-formed command for each check of well-formedness, a state and operands that meet the hypotheses of
each statement (test_meets_*), and a few effects with their values from the spec.
-/
namespace Sys2Proof.Tests
open Sys2Proof.Machine
set_option Elab.async false

/-! ### States the tests start from -/

/-- Both planes out of reset and READY, with a chip's other fields as at reset. -/
def on : Chip :=
  ((State.reset.toChip.wr A.GLB_BOOT_STATUS F.GLB_BOOT_STATUS_DP_RESET 0).wr A.GLB_BOOT_STATUS F.GLB_BOOT_STATUS_CP_RESET 0).wrB
    A.GLB_BOOT_STATUS F.GLB_BOOT_STATUS_READY true
def st (c : Chip) : State := { toChip := c, pending := [] }
/-- Port `n` in a mode and in service. -/
def port (s : Chip) (n m : Nat) : Chip := (s.wr (A.PRT_PROFILE 0 n) F.PRT_PROFILE_MODE m).wr (A.PRT_STATUS n) F.PRT_STATUS_IN_SERVICE 1
/-- A timer running for one more tick. -/
def timed (s : Chip) (t : Timer) : State := st (s.startTimer t 1)
/-- The state that a command answers, in fields that a test looks at. -/
def nxt (c : Instr) (s : State) : State :=
  match exec c s with
  | .next t => t
  | _ => State.reset

/-! ### Ill-formed commands are refused -/

def okPkt : Packet := { cls := clsTIME }
theorem test_wf_source : (Instr.registerWrite (.vf 64) 0 8 0).wellFormed = false ∧ (Instr.registerWrite (.vf 63) 0 8 0).wellFormed = true := by decide
theorem test_wf_access : (Instr.registerWrite .pf 0 3 0).wellFormed = false ∧ (Instr.registerWrite .pf 0x4000000 8 0).wellFormed = false
    ∧ (Instr.registerWrite .pf 0 1 256).wellFormed = false ∧ (Instr.registerWrite .pf 0x3FFFFF8 8 0).wellFormed = true := by decide
theorem test_wf_unit : (Instr.ownerByteWrite .pf 1 16 0).wellFormed = false ∧ (Instr.ownerByteWrite .pf 1 15 65536).wellFormed = false
    ∧ (Instr.ownerByteWrite .pf 1 15 65535).wellFormed = true := by decide
theorem test_wf_window : (Instr.sensorWindowClose (List.replicate 255 (1, true))).wellFormed = false := by decide +kernel
theorem test_wf_temperature : (Instr.paceControlStep 2001).wellFormed = false ∧ (Instr.paceControlStep (-1000)).wellFormed = true := by decide
theorem test_wf_packet : (Instr.timeTadpole 0 okPkt).wellFormed = true ∧ (Instr.timeTadpole 0 { okPkt with tc := 8 }).wellFormed = false
    ∧ (Instr.timeTadpole 0 { okPkt with dst := 16384 }).wellFormed = false ∧ (Instr.timeTadpole 0 { okPkt with segs := 1 }).wellFormed = false
    ∧ (Instr.timeTadpole 0 { okPkt with body := 2 ^ 384 }).wellFormed = false := by decide
theorem test_wf_class : (Instr.timeTadpole 0 { okPkt with cls := clsLINK }).wellFormed = false
    ∧ (Instr.rdShared { cls := clsCOH, body := Coh.body { msg := mRdOwn } }).wellFormed = false
    ∧ (Instr.rdShared { cls := clsCOH, body := Coh.body { msg := mRdShared } }).wellFormed = true := by decide
theorem test_wf_payload : (Instr.cmdPacket { cls := clsCMD, segs := 1 }).wellFormed = false
    ∧ (Instr.cmdPacket { cls := clsCMD, segs := 1, payload := List.replicate 256 0 }).wellFormed = true := by decide +kernel
theorem test_wf_stage : (Instr.stuckHandshakeTimeout 65536 .data).wellFormed = false := by decide
theorem test_wf_cause : (Instr.dataPlaneReset 5).wellFormed = false ∧ (Instr.controlPlaneReset 1).wellFormed = false
    ∧ (Instr.controlPlaneReset 5).wellFormed = true := by decide
theorem test_wf_pool : (Instr.enginePoolRead 0 (2 ^ 56) .clean).wellFormed = false
    ∧ (Instr.enginePoolWrite 0 (2 ^ 56 - 1) [1, 2]).wellFormed = false ∧ (Instr.enginePoolWrite 0 (2 ^ 56 - 1) [1]).wellFormed = true := by decide
theorem test_wf_tray : (Instr.replicaCopyDone (2 ^ 42)).wellFormed = false ∧ (Instr.cxlMemResponse 0 (.mem 0 [1] false)).wellFormed = false := by decide
theorem test_wf_gang : (Instr.memRd 0 65536 false 0 0).wellFormed = false ∧ (Instr.memWr 0 0 0 []).wellFormed = false
    ∧ (Instr.memWrPtl 0 0 0 (2 ^ 64) (List.replicate 64 0)).wellFormed = false ∧ (Instr.biSnoopResponse 0 (2 ^ 56) .birspI).wellFormed = false
    ∧ (Instr.clearEventRecords 0 [2 ^ 64]).wellFormed = false := by decide
theorem test_wf_doorbell : (Instr.sqTail .pf 0 4 (2 ^ 32)).wellFormed = false ∧ (Instr.cqHead .pf 0 4 (2 ^ 32 - 1)).wellFormed = true
    ∧ (Instr.sqFetchComplete 0 [2 ^ 512]).wellFormed = false := by decide +kernel
def h0 : CmdHead := { from_ := .ring, queue := 80 }
theorem test_wf_head : (Instr.nop { h0 with tag := 2 ^ 32 }).wellFormed = false ∧ (Instr.nop h0).wellFormed = true := by decide
theorem test_wf_operands : (Instr.cancel h0 1024 0).wellFormed = false ∧ (Instr.tierHint h0 0 0 4).wellFormed = false
    ∧ (Instr.counterSet h0 ⟨0, 0⟩ 2 0 0).wellFormed = false ∧ (Instr.counterAdd h0 ⟨0, 0⟩ 0 1).wellFormed = false
    ∧ (Instr.wait h0 ⟨0, 0⟩ 3 (2 ^ 48) 0).wellFormed = false ∧ (Instr.versionOpen h0 0 2).wellFormed = false
    ∧ (Instr.ownClaim h0 0 (2 ^ 32) 0).wellFormed = false ∧ (Instr.reduce h0 (2 ^ 38)).wellFormed = false
    ∧ (Instr.kernelLaunch h0 0 0 80 false false 0 0).wellFormed = false ∧ (Instr.codebookRetire h0 256).wellFormed = false
    ∧ (Instr.partitionReserve h0 0 11 0 0 false).wellFormed = false ∧ (Instr.keyRotate h0 0 2 0).wellFormed = false := by decide
theorem test_wf_locator : (Instr.fill h0 { space := 4 } 0 0).wellFormed = false ∧ (Instr.fill h0 { rsv := true } 0 0).wellFormed = false
    ∧ (Instr.copy h0 {} { engine := 128 } 0).wellFormed = false ∧ (Instr.copy h0 {} { engine := 127 } 0).wellFormed = true := by decide
def scan0 : ScanArgs :=
  { records := {}, count := 0, recordBytes := 0, keyOffset := 0, keyFmt := 0, combine := 0, wholeRecords := false, op1 := 0, op2 := 0, pred := 0
    output := {}, outLen := 0, baseIndex := 0 }
def encode0 : EncodeArgs :=
  { slot := 0, rate := 0, gen := 0, srcFmt := 0, src := {}, count := 0, clip := 0, tol := 0, dst := {}, dstLen := 0 }
def build0 : BuildArgs := { slot := 0, rate := 0, mode := 0, iter := 0, srcFmt := 0, src := {}, count := 0, clip := 0 }
def rows0 : RowArgs := { list := 0, scrList := false, indexed := false, rowSpace := 0, count := 0, rowBytes := 0, base := 0, stride := 0 }
theorem test_wf_short : (Instr.filterScan h0 { scan0 with records := { eid := 1 } }).wellFormed = false
    ∧ (Instr.encode h0 { encode0 with src := { countEn := true } }).wellFormed = false ∧ (Instr.codebookBuild h0 { build0 with slot := 256 }).wellFormed = false
    ∧ (Instr.gather h0 {} { rows0 with rowSpace := 4 }).wellFormed = false := by decide
theorem test_wf_flit : (Instr.flitReceive 0 { seq := 4096 } false).wellFormed = false ∧ (Instr.flitReceive 0 { kind := 4 } false).wellFormed = false
    ∧ (Instr.flitReceive 0 { units := List.replicate 21 0 } false).wellFormed = false
    ∧ (Instr.flitReceive 0 { units := List.replicate 20 0 } false).wellFormed = true := by decide
theorem test_wf_train : (Instr.trainMsgReceive 0 { length := 1 }).wellFormed = false ∧ (Instr.ltssmDone 0 true 17).wellFormed = false := by decide
theorem test_wf_streams : (Instr.ideKmQuery 256).wellFormed = false ∧ (Instr.spdmRequest none (.measurement 256 false)).wellFormed = false := by decide
theorem test_wf_session : (Instr.identify 0 { tag := 2 ^ 32 } []).wellFormed = false ∧ (Instr.tlsHandshake 0 (2 ^ 512) true true).wellFormed = false
    ∧ (Instr.sensorPoll 0 65536 true).wellFormed = false := by decide +kernel
theorem test_wf_time : (Instr.ptpMessage (2 ^ 63)).wellFormed = false ∧ (Instr.shadowDigestTimeout (2 ^ 32)).wellFormed = false
    ∧ (Instr.padCfgWrite .pf 0 (2 ^ 64) false).wellFormed = false := by decide

/-! ### The queue and registers: states and operands that meet the statements' hypotheses -/

theorem test_meets_EmptyQueuePassesOneTick : State.reset.pending = [] ∧ State.reset.align.slew = 0 := by decide +kernel
theorem test_meets_QueueRunsInOrder :
    (State.mk on [.lowerRetarget, .pfFlr, .thermalTrip]).pending = [Instr.lowerRetarget, .pfFlr] ++ [.thermalTrip] := rfl
theorem test_meets_WaitingCommandsStayWellFormed : (∀ c ∈ [Instr.thermalTrip, .nop h0], c.wellFormed = true)
    ∧ step ⟨on, [.thermalTrip, .nop h0]⟩ = exec .thermalTrip ⟨on, [.nop h0]⟩ := ⟨by decide, rfl⟩
theorem test_meets_RegisterFileReadsBack : F.PCE_POLICY_STEP_MV.lo + F.PCE_POLICY_STEP_MV.width ≤ 64 * 1
    ∧ apart A.PCE_POLICY F.PCE_POLICY_STEP_MV A.PCE_POLICY F.PCE_POLICY_LEVEL ∧ Tab.canonical resetWord State.reset.regs = true := by decide +kernel
/-- PCE_TB_PARENT, written by Newt. -/
def parent : Loc := ⟨.pceTbParent, 0, 0, 0, A.PCE_TB_PARENT, 0⟩
theorem test_meets_RegisterWriteByAccessType :
    let w : WordWrite := ⟨parent, A.PCE_TB_PARENT, 5, 2 ^ 64 - 1⟩
    (st on).site A.PCE_TB_PARENT = some ⟨parent, A.PCE_TB_PARENT, false⟩ ∧ on.deaf .newt A.PCE_TB_PARENT = false
    ∧ on.unserved A.PCE_TB_PARENT = none ∧ on.mayWrite .newt true parent = true ∧ on.notNow w = none ∧ (parent.unit 0).isSome = false
    ∧ on.leftOut .newt w = [] ∧ on.wholeFails (on.applyWord w (on.lockedAt parent) []) w = none ∧ on.lockedAt parent = false := by decide +kernel
theorem test_meets_TimeBaseReadLatchesHighHalf : on.deaf (.vf 3) A.PCE_TB = true ∧ (on.wr (A.PTN_STATE 3) F.PTN_STATE_STATE 1).deaf (.vf 3) A.PCE_TB = false
    ∧ on.deaf .pf A.PCE_TB = false := by decide +kernel
theorem test_meets_VirtualFunctionReadsZero : on.site 0xFFF8 = none ∧ (on.site A.PCE_POLICY).map (fun x => on.vfSees 5 x.loc) = some 0 := by decide +kernel

/-! ### Pace, voltage and time -/

theorem test_meets_ControlStep : on.flag A.GLB_BOOT_STATUS F.GLB_BOOT_STATUS_READY = true ∧ on.inEaves = false
    ∧ on.flag A.PCE_STATUS F.PCE_STATUS_AVS_FAULT = false ∧ on.pace.avs = none
    ∧ 620 ≤ on.rd A.PCE_STATUS F.PCE_STATUS_VCORE_MV ∧ on.rd A.PCE_STATUS F.PCE_STATUS_VCORE_MV ≤ 850 ∧ on.stepLimit ≠ 0
    ∧ (on.wr A.PCE_POLICY F.PCE_POLICY_STEP_MV 0).stepLimit = 0 := by decide +kernel
theorem test_meets_VoltageWrite : (st { on with pace := { on.pace with avs := some (700, 3) } }).pace.avs = some (700, 3)
    ∧ (st { on with pace := { on.pace with avs := some (700, 2) } }).pace.avs = some (700, 2) := ⟨rfl, rfl⟩
def policy : Nat := 3 + 60 <<< 16 + 20 <<< 24
theorem test_meets_PolicyWrite : on.deaf .newt A.PCE_POLICY = false ∧ on.unserved A.PCE_POLICY = none ∧ 60 ≤ bits policy 16 7 ∧ bits policy 16 7 ≤ 105
    ∧ bits policy 24 8 ≤ 20 ∧ bits policy 0 3 ≠ on.goal ∧ bits policy 0 3 < on.levelActive ∧ on.levelActive < bits (policy + 3) 0 3
    ∧ bits (policy + 3) 3 1 = 0 ∧ bits (policy + 3 + 8) 3 1 = 1 ∧ bits (policy + 1) 0 3 = on.goal ∧ on.deaf .pf A.PCE_POLICY = false := by decide +kernel
theorem test_meets_LowerRetarget : let s : Chip := { on with pace := { on.pace with change := .lower 7 } }
    s.pace.change = .lower 7 ∧ s.fasterKernels 7 = false ∧ s.rd A.PCE_POLICY F.PCE_POLICY_STEP_MV ≠ 0 := by decide +kernel
def hot : Chip := { on with pace := { on.pace with tmax := 1100 } }
theorem test_meets_ThrottleLowering : (((timed hot .throttle).expire .throttle).map (fun c => c.tooHot && Nat.blt c.levelActive 7)) = some true := by
  decide +kernel
def child : Chip := ((port on 3 modeU).wr A.PCE_TB_PARENT F.PCE_TB_PARENT_EN 1).wr A.PCE_TB_PARENT F.PCE_TB_PARENT_PORT 3
def timeP (r : Bool) (t2 : Nat) : Packet := { cls := clsTIME, body := TimeBody.body { t1 := 100, t2 := t2, t3 := t2, response := r } }
theorem test_meets_Exchange : ((timed child .exchange).expire .exchange).map (·.hasParent) = some true := by decide +kernel
theorem test_meets_TimeTadpole : (child.takeLocal (timeP false 0)).2 = true ∧ bits (timeP false 0).body 193 191 = 0
    ∧ (TimeBody.ofBody (timeP false 0).body).response = false ∧ (TimeBody.ofBody (timeP true 5000).body).response = true
    ∧ (child.takeLocal (timeP true 5000)).2 = true ∧ child.hasParent = true ∧ child.rd A.PCE_TB_PARENT F.PCE_TB_PARENT_PORT = 3
    ∧ ((signedOf 64 (5000 + 2 ^ 64 - 100)) - signedOf 64 (child.tb + 2 ^ 64 - 5000)) / 2 = 4950 := by decide +kernel
theorem test_meets_PtpMessage : on.flag A.PCE_TB_PARENT F.PCE_TB_PARENT_ROOT = false
    ∧ (on.wr A.PCE_TB_PARENT F.PCE_TB_PARENT_ROOT 1).flag A.PCE_TB_PARENT F.PCE_TB_PARENT_ROOT = true := by decide +kernel

/-! ### Resets, pins, boot and power states -/

theorem test_meets_PlaneReset : Source.newt.central ∧ on.serves .newt A.GLB_RESET_CTL
    ∧ on.flag A.GLB_BOOT_STATUS F.GLB_BOOT_STATUS_DP_RESET = false ∧ on.powerState = 0
    ∧ State.reset.flag A.GLB_BOOT_STATUS F.GLB_BOOT_STATUS_DP_RESET = true ∧ State.reset.flag A.GLB_BOOT_STATUS F.GLB_BOOT_STATUS_CP_RESET = true
    ∧ (on.wr A.PCE_PWR_STATUS F.PCE_PWR_STATUS_STATE 3).powerState = 3 := by decide +kernel
/-- Newt runs its image. -/
def newt : Chip := (on.wr A.GLB_BOOT_STATUS F.GLB_BOOT_STATUS_MP_RESET 0).setNewtState nsRUNNING
theorem test_meets_ManagementReset : newt.flag A.GLB_BOOT_STATUS F.GLB_BOOT_STATUS_MP_RESET = false
    ∧ State.reset.flag A.GLB_BOOT_STATUS F.GLB_BOOT_STATUS_MP_RESET = true
    ∧ ((timed newt .management).expire .management).map (·.flag A.GLB_BOOT_STATUS F.GLB_BOOT_STATUS_MP_RESET) = some false
    ∧ newt.newtState ≠ nsRESETTING ∧ (on.setNewtState nsRESETTING).newtState = nsRESETTING := by decide +kernel
theorem test_meets_PowerOn : State.reset.power.porst = true ∧ (nxt (.porstNRelease true 5 3) State.reset).power.porst = false
    ∧ (nxt (.porstNRelease true 5 3) State.reset).errSeq = 1 ∧ (nxt (.porstNRelease true 5 2) State.reset).errSeq = 0 := by decide +kernel
theorem test_meets_HostLink : State.reset.stage = 0 ∧ 0 < (nxt (.porstNRelease true 5 0) State.reset).stage
    ∧ on.flag A.GLB_BOOT_STATUS F.GLB_BOOT_STATUS_CP_RESET = false ∧ on.powerState = 0
    ∧ (let v := ((on.wr (A.SEQ_Q_CFG 37) F.SEQ_Q_CFG_SOURCE 2).wr (A.SEQ_Q_STATE 37) F.SEQ_Q_STATE_ENABLED 1)
       v.qSource 37 = 2 ∧ v.qEnabled 37 = true ∧ 37 / 16 = 2) := by decide +kernel
theorem test_meets_FabricClock : ∀ k : Fin 16, on.mode (32 + k.val) = modeOFF ∧ on.inService (32 + k.val) = false := by decide +kernel
def booting (k : Nat) : Chip := on.wr A.GLB_BOOT_STATUS F.GLB_BOOT_STATUS_STAGE k
def heldBoot : Chip := ((booting 7).wr A.GLB_STRAPS F.GLB_STRAPS_BOOT_MODE 1).modNewt (fun w => { w with image := [(0, [1])] })
theorem test_meets_Boot : (booting 1).stage = 1 ∧ (booting 2).stage = 2 ∧ (booting 3).stage = 3 ∧ (booting 5).stage = 5 ∧ (booting 3).bootMode ≠ 1
    ∧ heldBoot.bootMode = 1 ∧ heldBoot.stage = 7 ∧ heldBoot.recovering = false ∧ heldBoot.serves .newt A.GLB_RESET_CTL
    ∧ on.serves .newt A.PCE_MWDOG := by decide +kernel
def inPower (k : Nat) : Chip := on.wr A.PCE_PWR_STATUS F.PCE_PWR_STATUS_STATE k
theorem test_meets_EavesEntry : on.serves .newt A.PCE_PWR_CTL ∧ 1 ≤ on.rd A.PCE_PWR_CTL F.PCE_PWR_CTL_ENTRY_MS
    ∧ on.rd A.PCE_PWR_CTL F.PCE_PWR_CTL_ENTRY_MS ≤ 1000 ∧ on.powerState = 0 ∧ (∀ p : Fin 64, on.pstate p.val ≠ psDRAINING ∧ on.pstate p.val ≠ psSCRUBBING)
    ∧ on.rd A.RTE_EPOCH F.RTE_EPOCH_OTHER_STATE = 0 ∧ (∀ n : Fin 32, on.trayState n.val ≠ trayATTACHING ∧ on.trayState n.val ≠ trayDRAINING)
    ∧ on.flag A.PCE_STATUS F.PCE_STATUS_TRANSITION = false ∧ (on.setPstate 63 psDRAINING).pstate 63 = psDRAINING
    ∧ (on.setOther 1).rd A.RTE_EPOCH F.RTE_EPOCH_OTHER_STATE ≠ 0 ∧ (inPower 2).powerState ≠ 0 := by decide +kernel
/-- A command of Newt's path that runs and holds an engine. -/
def cmd (op prms : Nat) : Cmd :=
  { id := 1, queue := 1024, part := 5, origin := .newt 17, slot := op + prms * 2 ^ 64, cur := op + prms * 2 ^ 64, phase := .running, engines := [0] }
def asleepSoon : Chip := { inPower 1 with power := { on.power with stepFive := true } }
theorem test_meets_EavesProgress : asleepSoon.powerState = 1 ∧ asleepSoon.power.stepFive = true ∧ asleepSoon.power.wakeAfter = none ∧ asleepSoon.sw.slots = [] ∧ asleepSoon.sw.waiting = []
    ∧ (∀ n : Fin 128, asleepSoon.inService n.val = false) ∧ (inPower 1).power.stepFive = false
    ∧ ((inPower 1).modSeq (fun q => { q with cmds := [cmd 0 0] })).enginesIdle = false := by decide +kernel
theorem test_meets_EavesTimeout : ((timed (inPower 1) .eavesEntry).expire .eavesEntry).isSome = true ∧ on.expire .eavesEntry = none := by decide +kernel
theorem test_meets_Wake : (inPower 2).powerState = 2 ∧ (inPower 2).serves .newt A.PCE_PWR_CTL ∧ (∀ n : Fin 128, (inPower 2).mode n.val = modeOFF)
    ∧ (inPower 3).powerState = 3 ∧ (inPower 3).power.held = [] ∧ (inPower 3).power.resetData = none ∧ (inPower 3).power.resetControl = none
    ∧ (∀ n : Fin 32, (inPower 3).trayState n.val ≠ trayREADY) ∧ (inPower 3).serves .newt A.PCE_PWR_CTL
    ∧ 1 ≤ (inPower 3).rd A.PCE_PWR_CTL F.PCE_PWR_CTL_ENTRY_MS ∧ (inPower 3).rd A.PCE_PWR_CTL F.PCE_PWR_CTL_ENTRY_MS ≤ 1000 := by decide +kernel

/-! ### Owner bytes, pads, counts, audit and repair -/

/-- The owner byte of way group 9, which partition 5 may take (0x45 and its complement). -/
theorem test_meets_OwnerByte : let v := on.setPstate 5 psCREATED
    let a := unitAddr 2 9
    v.serves .newt a ∧ ((v.site a).map (fun x => (x.ro, x.loc.unit (a % 8 / 2)))) = some (false, some (2, 9)) ∧ 0xBA45 < 65536
    ∧ 0xBA45 % 256 = 64 + 0xBA45 % 64 ∧ 0xBA45 / 256 = 255 - 0xBA45 % 256 ∧ 0xBB45 % 256 + 0xBB45 / 256 ≠ 255
    ∧ v.ownerOk a = true ∧ v.owner a = none ∧ v.reserveCheck 5 2 9 1 false = none ∧ v.awaitsZero 2 9 = false ∧ v.pstate 5 = psCREATED
    ∧ v.sealing 5 = false ∧ on.pstate 5 ≠ psCREATED := by decide +kernel
/-- The same byte once it is owned: it may be returned. -/
theorem test_meets_OwnerByteReturn :
    let a := unitAddr 2 9
    let v := nxt (.ownerByteWrite .newt 2 9 0xBA45) (st (on.setPstate 5 psCREATED))
    v.ownerOk a = true ∧ v.owner a = some 5 ∧ v.reserveCheck 5 2 9 1 true = none ∧ v.pstate 5 = psCREATED ∧ v.sealing 5 = false := by
  decide +kernel
theorem test_meets_PadCfg : Source.newt.central ∧ on.serves .newt (A.GLB_PAD_CFG 0) ∧ on.serves .newt (A.GLB_PAD_CFG 7)
    ∧ bits 0 F.GLB_PAD_CFG_SLEW.lo F.GLB_PAD_CFG_SLEW.width = 0 := by decide +kernel
theorem test_meets_Counts : on.serves .newt A.SWC_CTL ∧ on.serves .newt A.RTE_EPOCH_CTL ∧ on.serves .newt A.TMG_CTL
    ∧ on.serves .newt (A.PRT_CTL 127) := by decide +kernel
theorem test_meets_Audit : on.sw.slots = [] ∧ on.sw.waiting = [] ∧ (∀ n : Fin 128, on.inService n.val = false)
    ∧ (∀ e : Fin 64, on.flag (A.CEL_STATUS e.val) F.CEL_STATUS_RUNNING = false) ∧ (∀ t : Fin 16, on.flag (A.MTX_STATUS t.val) F.MTX_STATUS_RUNNING = false)
    ∧ (port on 3 modeU).inService 3 = true := by decide +kernel
/-- A route of shadow version 0 whose complement is wrong, named by ERR_REPAIR_ADDR. -/
def failed : Chip := (on.wr A.ERR_REPAIR_ADDR F.ERR_REPAIR_ADDR_OFFSET (A.RTE_ROUTE 0 7)).wr (A.RTE_ROUTE 0 7) F.RTE_ROUTE_KIND 1
def routeLoc : Loc := ⟨.rteRoute, 0, 7, 0, A.RTE_ROUTE 0 7, 0⟩
theorem test_meets_Repair : failed.serves .newt A.ERR_REPAIR_CTL
    ∧ failed.site (failed.rd A.ERR_REPAIR_ADDR F.ERR_REPAIR_ADDR_OFFSET) = some ⟨routeLoc, A.RTE_ROUTE 0 7, false⟩
    ∧ routeLoc.kind.hasComplement = true ∧ routeLoc.word = 0 ∧ A.RTE_ROUTE 0 7 % 8 = 0 ∧ routeLoc.kind.isOwnArray = false
    ∧ routeLoc.kind ∉ [RegKind.prtOwner, .celOwner, .mtxOwner, .cdcSlot] ∧ routeLoc.base + 16 * routeLoc.kind.words ≤ 0x1800000
    ∧ failed.checked routeLoc.base routeLoc.kind.words = false ∧ on.checked routeLoc.base routeLoc.kind.words = true := by decide +kernel

/-! ### The home and its requesters -/

/-- A packet without FENCE that no buffer entry names is taken, and nothing else changes: `taken` in the statements is the state itself. -/
theorem takes_unfenced (s : Chip) (p : Packet) (h : s.sw.slots = []) (f : p.fence = false) : s.takeLocal p = (s, true) := by
  simp [Chip.takeLocal, h, f]

/-- Partition 5 has the range of the first 100 tiles, bank 0 and way group 0, and EIDs 7 and 9 are its hosts. -/
def home : Chip :=
  let r := A.PTN_RANGE 0 0
  let s := ((on.wrP r 4 F.PTN_RANGE_KIND 1).wrP r 4 F.PTN_RANGE_TILES 100).wrP r 4 F.PTN_RANGE_PARTITION 5
  let s := (s.wrSpan (A.PTN_OWN_BANK 0) 1 (0x45 + 0xBA <<< 8)).wrSpan (A.PTN_OWN_WG 0) 1 (0x45 + 0xBA <<< 8)
  let host (s : Chip) (e : Nat) : Chip :=
    ((s.wr (A.HOM_HOST e) F.HOM_HOST_ASSIGNED 1).wr (A.HOM_HOST e) F.HOM_HOST_CACHING 1).wr (A.HOM_HOST e) F.HOM_HOST_PARTITION 5
  host (host s 7) 9
def line : CacheLine := { data := List.replicate 64 3, dirty := true, wrote := 1 }
/-- Line 13 of that partition is in the write cache, in a state of the directory. -/
def homeWith (d : Dir) : Chip :=
  let s := home.modPool (fun q => { q with cache := [(cacheKey 5 roleHOME 0 13, line)], writes := 1 })
  if d == .invalid then s else s.setEntry 0 13 d none
/-- A request of a host for line 13. -/
def req (msg src : Nat) (c : Coh := {}) : Packet :=
  { cls := if cohIsData msg then clsCOH_DATA else clsCOH, partition := 5, src := src, segs := if cohIsData msg then 1 else 0
    body := Coh.body { c with msg := msg, lmask := 2, tag := 77, saddr := 3 }
    payload := if cohIsData msg then List.replicate 256 8 else [] }

theorem test_takes_request (m src : Nat) (c : Coh) : (req m src c).fence = false := rfl
theorem test_meets_HomeAdmits : (homeWith .invalid).homeAdmits (req mRdShared 7) 1 0 := by
  refine ⟨?_, ?_, ?_, ⟨0, ?_⟩, ?_, ?_, ?_, ?_, ?_, ?_⟩ <;> decide +kernel
theorem test_meets_ReadOfAnUnheldLine : ∀ m ∈ [mRdShared, mRdOwn, mRdCurrent], (homeWith .invalid).accepts (req m 7)
    ∧ (Coh.ofBody (req m 7).body).msg = m ∧ (homeWith .invalid).mayRequest (req m 7) = none ∧ (homeWith .invalid).homeQuiet
    ∧ (homeWith .invalid).dirOf 0 13 = .invalid ∧ (homeWith .invalid).cached 5 roleHOME 0 13 = some line := by decide +kernel
theorem test_meets_RequestForAnOwnedLine : ∀ m ∈ [mRdShared, mRdOwn, mRdCurrent, mWrBack], (homeWith (.owned 9)).accepts (req m 7)
    ∧ (Coh.ofBody (req m 7).body).msg = m ∧ cohFormatOk (req m 7) = true ∧ (homeWith (.owned 9)).mayRequest (req m 7) = none
    ∧ (homeWith (.owned 9)).homeQuiet ∧ (homeWith (.owned 9)).dirOf 0 ((req m 7).lineOf 1) = .owned 9
    ∧ (homeWith (.owned 9)).hostFailed 9 = false := by decide +kernel
theorem test_meets_WriteBack : (homeWith (.owned 7)).homeAdmits (req mWrBack 7) 1 0 := by
  refine ⟨?_, ?_, ?_, ⟨0, ?_⟩, ?_, ?_, ?_, ?_, ?_, ?_⟩ <;> decide +kernel
theorem test_meets_WriteBackRoom : (homeWith (.owned 7)).cacheHasRoom 5 ∧ (homeWith (.owned 7)).dirOf 0 13 = .owned 7
    ∧ (homeWith (.shared [7, 9])).dirOf 0 13 = .shared [7, 9] ∧ cohFormatOk (req mCleanEvict 7) = true := by decide +kernel
def atom : Packet := req mAtomicAny 6 { aop := 1, size := 8, offset := 64 + 8, opa := 5, count := 1, nocombine := true }
theorem test_meets_FarAtomic : (homeWith .invalid).homeAdmits atom 1 0 := by
  refine ⟨?_, ?_, ?_, ⟨0, ?_⟩, ?_, ?_, ?_, ?_, ?_, ?_⟩ <;> decide +kernel
theorem test_meets_FarAtomicFields : (Coh.ofBody atom.body).msg = mAtomicAny ∧ atomicCheck (Coh.ofBody atom.body) = .run
    ∧ (homeWith .invalid).combines atom = false ∧ atom.dst = (homeWith .invalid).selfEid
    ∧ (homeWith .invalid).cachingHost 5 atom.src = false ∧ (homeWith .invalid).cacheHasRoom 5 := by decide +kernel
/-- R149, R150: 5 is added to the eight bytes of 3 at offset 8 of the line. -/
theorem test_atomic_adds : (nxt (.atomicAny atom) (st (homeWith .invalid))).cached 5 roleHOME 0 13
    = some { data := List.replicate 8 3 ++ [8, 3, 3, 3, 3, 3, 3, 3] ++ List.replicate 48 3, dirty := true, wrote := 2 } := by decide +kernel
def addOf (src opa : Nat) : Packet := req mAtomicAny src { aop := 1, size := 4, offset := 64, opa := opa, count := 1 }
def comb : Comb :=
  { part := 5, saddr := 3, lmask := 2, offset := 64, size := 4, dst := 0, tc := 0, sum := 12, count := 2, members := [addOf 7 5, addOf 9 7] }
def combining : Chip := home.modPool (fun q => { q with combs := [(1, comb)], nextComb := 2 })
theorem test_meets_CombiningWindow : on.expire (.combining 1) = none
    ∧ ((timed combining (.combining 1)).expire (.combining 1)).map (fun c => c.pool.combs.find 1) = some (some comb)
    ∧ comb.closed = false := by decide +kernel
def combAsked : Chip := home.modPool (fun q => { q with
  combs := [(1, { comb with closed := true })], nextComb := 2, asks := [(77, { who := .comb 1, pkt := addOf 0 12 })] })
theorem test_meets_CombinedAdds : combAsked.accepts (req mAtomicRsp 3)
    ∧ (Coh.ofBody (req mAtomicRsp 3).body).tag = 77
    ∧ (Coh.ofBody (req mAtomicRsp 3).body).msg = mAtomicRsp ∧ (combAsked.pool.asks.find 77).map (·.who) = some (.comb 1)
    ∧ combAsked.pool.ended = [] ∧ combAsked.pool.combs.find 1 = some { comb with closed := true } := by decide +kernel
def snooping : Chip := home.modPool (fun q => { q with txns := [(5, { line := 13, part := 5, kind := .rdOwn, prior := .shared [7, 9]
                                                                      members := [(1, 1)]
                                                                      snoops := [⟨7, .inv, false, false, false, false, false⟩, ⟨9, .inv, false, false, false, false, false⟩] })] })
def rsp (m i : Nat) : Packet := req m 7 { txn := i }
theorem test_meets_SnoopResponse : (∀ m ∈ [mRspI, mRspWbPending], snooping.accepts (rsp m 5)
      ∧ (Coh.ofBody (rsp m 5).body).txn = 5 ∧ (Coh.ofBody (rsp m 5).body).msg = m ∧ (Coh.ofBody (rsp m 5).body).saddr = 13 / 4)
    ∧ snooping.pool.waits = [] ∧ snooping.pool.done = []
    ∧ home.pool.txns.find (Coh.ofBody (rsp mRspI 5).body).txn = none := by decide +kernel
theorem test_meets_DeclareFailed : home.flag (A.HOM_HOST 7) F.HOM_HOST_ASSIGNED = true ∧ home.flag (A.HOM_HOST 7) F.HOM_HOST_CACHING = true
    ∧ home.hostFailed 7 = false ∧ home.homeQuiet ∧ home.pool.views = [] ∧ on.banksOf (on.rd (A.HOM_HOST 7) F.HOM_HOST_PARTITION) = []
    ∧ on.flag (A.ERR_FAULT_CFG 0) F.ERR_FAULT_CFG_NOTIFY_EN = false ∧ on.flag (A.HOM_HOST 8) F.HOM_HOST_ASSIGNED = false := by decide +kernel
/-- A host of a partition that owns no bank here. -/
def farHost : Chip := ((on.wr (A.HOM_HOST 7) F.HOM_HOST_ASSIGNED 1).wr (A.HOM_HOST 7) F.HOM_HOST_CACHING 1).wr (A.HOM_HOST 7) F.HOM_HOST_PARTITION 6
def failedHost : Chip := farHost.wr (A.HOM_HOST 7) F.HOM_HOST_FAILED 1
theorem test_meets_HostDeclare : farHost.serves .newt (A.HOM_HOST 7) ∧ farHost.hostFailed 7 = false ∧ farHost.homeQuiet ∧ farHost.pool.views = []
    ∧ farHost.banksOf (farHost.rd (A.HOM_HOST 7) F.HOM_HOST_PARTITION) = []
    ∧ farHost.flag (A.ERR_FAULT_CFG (farHost.rd (A.HOM_HOST 7) F.HOM_HOST_PARTITION)) F.ERR_FAULT_CFG_NOTIFY_EN = false
    ∧ failedHost.hostFailed 7 = true ∧ failedHost.flag (A.HOM_HOST 7) F.HOM_HOST_WALKING = false := by decide +kernel
theorem test_meets_HostFailedClear : let v := failedHost.wrB A.GLB_BOOT_STATUS F.GLB_BOOT_STATUS_READY true
    v.serves .pf (A.HOM_HOST 7) ∧ v.hostFailed 7 = true := by decide +kernel
theorem test_meets_SnoopTimeout : snooping.pool.txns.find 6 = none ∧ (snooping.pool.txns.find 5).map (fun t => t.snoops.map (fun n => (n.eid, n.done)))
    = some [(7, false), (9, false)] := by decide +kernel
theorem test_meets_Heartbeat : ((timed home (.heartbeat 7)).expire (.heartbeat 7)).isSome = true ∧ on.expire (.heartbeat 7) = none
    ∧ ((timed home (.walk 7)).expire (.walk 7)).isSome = true ∧ home.powerState = 0
    ∧ home.accepts (req mHeartbeat 7) := by decide +kernel
def asking (w : Asker) : Chip := home.modPool (fun q => { q with asks := [(77, { who := w, pkt := req mRdCurrent 0 })] })
theorem test_meets_Completions : (asking (.job 3 4)).accepts (req mData 3)
    ∧ (Coh.ofBody (req mData 3).body).tag = 77
    ∧ (Coh.ofBody (req mData 3).body).msg = mData ∧ ((asking (.job 3 4)).pool.asks.find 77).map (·.who) = some (.job 3 4)
    ∧ (asking (.job 3 4)).pool.ended = [] ∧ home.pool.asks.find 77 = none
    ∧ (Coh.ofBody (req mErr 3 { status := Status.code .timeout }).body).status = Status.code .timeout
    ∧ (Coh.ofBody (req mErr 3 { status := Status.code .retry }).body).status = Status.code .retry
    ∧ ((asking (.wcache 5 [13])).pool.asks.find 77).map (·.who) = some (.wcache 5 [13]) := by decide +kernel
theorem test_meets_TransactionTimeout : on.expire (.txn 77) = none ∧ on.expire (.tray 4) = none
    ∧ ((timed (asking (.job 3 4)) (.txn 77)).expire (.txn 77)).map (fun c => ((c.pool.asks.find 77).map (·.who), c.pool.ended))
      = some (some (.job 3 4), []) := by decide +kernel
/-- Line 13 is an engine's. -/
def engined : Chip := ((home.wr (A.CEL_OWNER 0) F.CEL_OWNER_OWNER 0x45).wr (A.CEL_OWNER 0) F.CEL_OWNER_OWNER_N 0xBA).modPool (fun q => { q with cache := [(cacheKey 5 roleENGINE 0 13, line)] })
theorem test_meets_EnginePool : engined.engineOf 0 = some 5 ∧ engined.engineOf 1 = none ∧ engined.cached 5 roleENGINE 0 13 = some line
    ∧ engined.cached 5 roleENGINE 0 14 = none ∧ engined.poolMay 5 (100 * 2 ^ 14) 64 = some .rangeUnmapped ∧ engined.poolMay 5 (64 * 14) 64 = none
    ∧ engined.pool.engWrites = [] ∧ (engined.cached 5 roleENGINE 0 14).all (fun x => x.flight.isNone) = true ∧ engined.cacheHasRoom 5 := by
  decide +kernel
def dirtyTile : Tile := { state := .dramDirty, framed := true, dramFrame := 3 }
def tiered : Chip := (home.wrP (A.PTN_RANGE 0 0) 4 F.PTN_RANGE_POLICY 1).modPool (fun q => { q with tiles := [(16 * 2, dirtyTile)] })
theorem test_meets_CleanerScan : (tiered.expire .cleaner).isNone = true ∧ tiered.powerState = 0 ∧ tiered.homedRanges tiered.active = [⟨0, 0⟩]
    ∧ tiered.tieredTiles (tiered.rng ⟨0, 0⟩ F.PTN_RANGE_PARTITION) = [(2, dirtyTile)] ∧ tiered.tile 2 = dirtyTile
    ∧ tiered.homed 2 = some ⟨0, 0⟩ ∧ dirtyTile.scanMark = false ∧ (inPower 1).powerState ≠ 0 := by decide +kernel

/-! ### Trays and gangs -/

def op0 : TierOp := { id := 1, tile := 0, store := 0, sector := 3, write := none, who := .txn 0, owed := 1 }
/-- A RdCurrent waits for the sector that tray 2 is reading. -/
def trayHome : Chip := home.modPool (fun q => { q with
  tops := [(4, { tray := 2, job := .sector 1, op := 1, key := some (11, 3), lines := [0x40] })], ops := [op0]
  txns := [(0, { line := 13, part := 5, kind := .rdCurrent, prior := .invalid, members := [(1, 1)], reading := true })]
  reqs := [(1, { pkt := req mRdCurrent 7, left := [1] })], nextReq := 2 })
def dataPkt : Packet := { cls := clsTRAY_DATA, segs := 1, body := 4 <<< 96, payload := List.replicate 256 6 }
def cplPkt : Packet := { cls := clsTRAY_CPL, body := 4 <<< 96 }
theorem test_meets_TrayData : trayHome.accepts dataPkt ∧ bits dataPkt.body 96 32 = 4 ∧ bits dataPkt.body 88 8 = 0
    ∧ (trayHome.pool.tops.find 4).map (fun r => (r.job, r.op, r.key, r.tray)) = some (.sector 1, 1, some (11, 3), 2)
    ∧ trayHome.tierIdle 2 ∧ trayHome.pool.waits = [] ∧ trayHome.pool.done = [] ∧ trayHome.bankOf 5 13 = some 0
    ∧ (Coh.ofBody (req mRdCurrent 7).body).msg = mRdCurrent ∧ home.pool.tops.find 4 = none := by decide +kernel
theorem test_meets_CxlMem : (trayHome.pool.tops.find? (fun e => e.2.tray == 2 && e.2.lines.contains 0x40)).map (fun e => (e.1, e.2.got)) = some (4, [])
    ∧ 0x40 / 64 % 4 = 1 := by decide +kernel
/-- The write of an evicted line is under way at tray 2. -/
def evicting : Chip := home.modPool (fun q => { q with
  tops := [(4, { tray := 2, job := .sector 1, op := 2 })], ops := [{ op0 with who := .evict, write := some (2, []) }] })
theorem test_meets_TrayCpl : evicting.accepts cplPkt ∧ bits cplPkt.body 96 32 = 4 ∧ (evicting.pool.tops.find 4).map (·.job) = some (.sector 1)
    ∧ evicting.tierIdle 2 ∧ evicting.homeQuiet ∧ evicting.pool.ops.map (fun o => (o.id, o.write.isSome, o.who == .evict, o.owed)) = [(1, true, true, 1)]
    ∧ ((timed evicting (.tray 4)).expire (.tray 4)).map (fun c => c.pool.ops.length) = some 1 := by decide +kernel
def tray (k : Nat) : Chip := on.wr (A.TIR_TRAY_STATUS 2) F.TIR_TRAY_STATUS_STATE k
theorem test_meets_LoseTray : on.trayState 2 = trayABSENT ∧ (tray trayREADY).trayState 2 = trayREADY ∧ on.pool.tops = [] ∧ on.pool.ops = []
    ∧ on.homeQuiet ∧ on.homedRanges on.active = [] ∧ on.trayOwners 2 = [] := by decide +kernel
def bound : Chip := on.modPool (fun q => { q with trays := [(2, { binds := [(false, 9)], port := 7, running := true })] })
def bindAck (tags : Nat) : Packet := { cls := clsTRAY_MSG, body := 5 + tags <<< 16 }
theorem test_meets_TrayMsg : bound.accepts (bindAck 9) ∧ trayMsgOk (bindAck 9).body = true ∧ bits (bindAck 9).body 0 8 = 5
    ∧ (bound.tray 2).binds = [(false, 9)] ∧ bitAt (bindAck 9).body 8 = false ∧ bits (bindAck 9).body 16 256 = 9 ∧ bits (bindAck 8).body 16 256 ≠ 9
    ∧ trayMsgOk 6 = false := by decide +kernel
def profiled : Chip := ((bound.wr (A.TIR_PROF 0 0) F.TIR_PROF_VALID 1).wr (A.TIR_PROF 0 0) F.TIR_PROF_EVENT pevTIMER).wr (A.TIR_PROF 0 0) F.TIR_PROF_NEXT 3
theorem test_meets_TrayTimers : on.expire (.binding 2) = none ∧ ((timed on (.binding 2)).expire (.binding 2)).isSome = true
    ∧ ((timed profiled (.profile 2)).expire (.profile 2)).map (fun c => ((c.tray 2).running, c.profileEntry (c.trayProfile 2) (c.tray 2).pstate pevTIMER 0,
        c.rd (A.TIR_PROF 0 0) F.TIR_PROF_ACTION)) = some (true, some (A.TIR_PROF 0 0), 0)
    ∧ on.expire (.profile 2) = none := by decide +kernel
theorem test_meets_Absence : on.expire (.absence 7) = none
    ∧ ((timed bound (.absence 7)).expire (.absence 7)).map (fun c => ((c.pool.trays.find? (fun e => e.2.port == 7 && e.2.running)).map (·.1),
        (c.loseTray 2).hostAt 7)) = some (some 2, none)
    ∧ ((timed ((port home 4 modeF).wr (A.PRT_STATUS 4) F.PRT_STATUS_PARTNER_EID 9) (.absence 4)).expire (.absence 4)).map (fun c =>
        ((c.pool.trays.find? (fun e => e.2.port == 4 && e.2.running)).isNone, c.hostAt 4)) = some (true, some 9) := by decide +kernel
theorem test_meets_ReplicaCopy : (on.modPool (fun q => { q with replicas := [(7, [])] })).pool.replicas.find 7 = some []
    ∧ on.pool.replicas.find 7 ≠ some [] := by decide +kernel
/-- Gang 1 of mode D is in service, its CPU is EID 7, and its window is partition 5's first tiles. -/
def gangWith (d : Dir) : Chip :=
  let s := (port (homeWith d) 4 modeD).wr (A.PRT_PROFILE 0 4) F.PRT_PROFILE_PARTITION 5
  let s := (s.wr (A.RTE_ROUTE 0 7) F.RTE_ROUTE_KIND 2).wr (A.RTE_ROUTE 0 7) F.RTE_ROUTE_PORT 4
  (s.wr (A.TIR_DPORT_MAP 1 0) F.TIR_DPORT_MAP_VALID 1).wr (A.TIR_DPORT_MAP 1 0) F.TIR_DPORT_MAP_SIZE 1
theorem test_meets_Gang : (gangWith .invalid).inService 4 = true ∧ (gangWith .invalid).mode 4 = modeD ∧ (gangWith .invalid).powerState = 0
    ∧ (gangWith .invalid).gangEid 1 = 7 ∧ (gangWith .invalid).gangPart 1 = 5
    ∧ (gangWith .invalid).scrubbing 5 = false ∧ (gangWith .invalid).gangAddr 1 832 = some 832 ∧ 832 / 64 = 13
    ∧ ((gangWith .invalid).homed 0).isSome = true ∧ (gangWith .invalid).homeQuiet ∧ (gangWith .invalid).pool.ended = []
    ∧ on.inService 4 = false ∧ ((gangWith .invalid).wr A.PCE_PWR_STATUS F.PCE_PWR_STATUS_STATE 3).powerState = 3 := by decide +kernel
theorem test_meets_GangRead : (gangWith .invalid).homeAdmits ((gangWith .invalid).gangPacket 1 mRdShared 832 []) 1 0 := by
  refine ⟨?_, ?_, ?_, ⟨0, ?_⟩, ?_, ?_, ?_, ?_, ?_, ?_⟩ <;> decide +kernel
theorem test_meets_GangWrite : (gangWith (.owned 7)).homeAdmits ((gangWith (.owned 7)).gangPacket 1 mWrBack 832 (List.replicate 64 5)) 1 0 := by
  refine ⟨?_, ?_, ?_, ⟨0, ?_⟩, ?_, ?_, ?_, ?_, ?_, ?_⟩ <;> decide +kernel
def biSnoop : BiSnoop := { gang := 1, home := 9, part := 5, tc := 0, txn := 0, saddr := 3, lmask := 2, kind := .inv }
theorem test_meets_GangSnoop : let v := (gangWith .invalid).modPool (fun q => { q with biSnoops := [biSnoop] })
    v.pool.biSnoops.find? (fun b => b.gang == 1 && b.saddr == 832 / 256 && bitAt b.lmask (832 / 64 % 4)) = some biSnoop
    ∧ biSnoop.home ≠ v.selfEid ∧ v.cachingHost 5 7 = true ∧ v.hostFailed 7 = false := by decide +kernel

/-! ### Queues and commands -/

/-- Queue 80 is a ring of the physical function for partition 5, enabled, with 16 slots on each side. -/
def ringed : Chip :=
  let s := ((home.wr (A.SEQ_Q_CFG 80) F.SEQ_Q_CFG_SOURCE 1).wr (A.SEQ_Q_CFG 80) F.SEQ_Q_CFG_JOB 4).wr (A.SEQ_Q_RING 80) F.SEQ_Q_RING_SQ_ENTRIES 16
  let s := ((s.wr (A.SEQ_Q_RING 80) F.SEQ_Q_RING_CQ_ENTRIES 16).wr (A.SEQ_Q_SCHED 80) F.SEQ_Q_SCHED_MAX_ACTIVE 4).wrB (A.SEQ_Q_STATE 80) F.SEQ_Q_STATE_ENABLED true
  (s.wr (A.PTN_STATE 5) F.PTN_STATE_STATE 2).modSeq (fun q => { q with hostUp := true })
def fabricQ : Chip := ringed.wr (A.SEQ_Q_CFG 80) F.SEQ_Q_CFG_SOURCE 3
def hd (f : CmdFrom) : CmdHead := { from_ := f, queue := 80, tag := 9 }
def slotWord (c : Instr) : Nat := (c.slot.map (·.2)).getD 0
theorem test_meets_TakesSlot : ringed.takesSlot (hd .ring) (slotWord (.nop (hd .ring)))
    ∧ fabricQ.takesSlot (hd (.fabric 7)) (slotWord (.barrier (hd (.fabric 7)))) := by
  refine ⟨⟨?_, ?_, ?_, ?_⟩, ?_, ?_, ?_, ?_, ?_, ?_, ?_, ?_⟩ <;> decide +kernel
theorem test_meets_TakesSlotOfNewt (w : Nat) : ringed.takesSlot (hd .newt) w :=
  have h : ringed.powerState = 0 ∧ ringed.flag A.GLB_BOOT_STATUS F.GLB_BOOT_STATUS_CP_RESET = false := by decide +kernel
  h
theorem test_meets_QueueEntry : ringed.still ∧ ringed.scrubbing 5 = false ∧ ringed.isHeldBack 80 = false
    ∧ ringed.rd (A.SEQ_Q_SCHED 80) F.SEQ_Q_SCHED_MAX_ACTIVE ≠ 0 ∧ (ringed.setPstate 5 psSCRUBBING).scrubbing 5 = true
    ∧ (ringed.startCheck (ringed.cmdOf (hd .ring) (slotWord (.nop (hd .ring))))) = none := by decide +kernel
theorem test_meets_QueueEntryWord : (Instr.jobSuspend (hd .ring) 4).slot.map (fun x => slotOp x.2) = some oJOB_SUSPEND
    ∧ (Instr.barrier (hd .ring)).slot.map (fun x => slotOp x.2) = some oBARRIER := by decide +kernel
/-- A command that waits behind a CANCEL of its tag. -/
def waitingCmd : Cmd := { id := 1, queue := 80, part := 5, origin := .ring, slot := slotWord (.barrier { hd .ring with tag := 77 }) }
def cancelCmd : Cmd := { id := 2, queue := 80, part := 5, origin := .ring, slot := slotWord (.cancel (hd .ring) 80 77) }
theorem test_meets_Cancel : let v := ringed.modSeq (fun q => { q with cmds := [waitingCmd, cancelCmd] })
    v.startCheck cancelCmd = none ∧ slotOp cancelCmd.slot = oCANCEL ∧ waitingCmd.queue = prm cancelCmd.slot 8 10
    ∧ slotTag waitingCmd.slot = prm cancelCmd.slot 12 32 ∧ waitingCmd.phase = .fetched ∧ waitingCmd.ending = none ∧ waitingCmd.wait = none := by
  decide +kernel
theorem test_meets_RingReply : waitingCmd.origin = .ring ∧ waitingCmd.pins = [] ∧ slotQuiet waitingCmd.slot = false ∧ ringed.seq.hostUp = true
    ∧ (ringed.queue 80).replies = [] ∧ (ringed.queue 80).cqTail - (ringed.queue 80).cqHead < ringed.cqEntries 80 := by decide +kernel
/-- R180, R271: a JOB_SUSPEND of a job with one queue suspends it and answers 1 in slot 0 of the completion ring, with PHASE 1. -/
theorem test_job_suspend : (nxt (.jobSuspend (hd .ring) 4) (st ringed)).flag (A.SEQ_Q_STATE 80) F.SEQ_Q_STATE_SUSPENDED = true
    ∧ (nxt (.jobSuspend (hd .ring) 4) (st ringed)).out.length = 1 := by decide +kernel
def loc1 : Locator := { addr := 2 ^ 56 - 1, space := 2, eid := 16383, engine := 79, countEn := true, counter := 16383 }
def loc2 : Locator := { addr := 12345, space := 1, eid := 7 }
def head1 : CmdHead := { from_ := .fabric 9, queue := 1023, barrier := true, quiet := true, tag := 2 ^ 32 - 1 }
theorem test_meets_RoundTrip : (Instr.copy head1 loc1 loc2 (2 ^ 64 - 1)).wellFormed = true ∧ (Instr.copy head1 loc1 loc2 0).slot.isSome = true := by
  decide +kernel
theorem test_meets_RoundTripRows : decodeSlot head1.from_ (slotWord (.waitCopy head1 ⟨16383, 16383⟩ 3 (2 ^ 48 - 1) (2 ^ 32 - 1) loc1 loc2 (2 ^ 64 - 1)))
    = some (.waitCopy head1 ⟨16383, 16383⟩ 3 (2 ^ 48 - 1) (2 ^ 32 - 1) loc1 loc2 (2 ^ 64 - 1)) := by decide +kernel
def readyRing : Chip := ringed.wrB A.GLB_BOOT_STATUS F.GLB_BOOT_STATUS_READY true
theorem test_meets_Doorbell : Source.pf.hasPage 80 = true ∧ readyRing.ready = true ∧ readyRing.powerState = 0 ∧ readyRing.qFunction 80 = some .pf
    ∧ readyRing.qEnabled 80 = true ∧ readyRing.qFlag 80 F.SEQ_Q_STATE_HALTED = false ∧ readyRing.sqEntries 80 = 16 ∧ readyRing.cqEntries 80 = 16
    ∧ readyRing.qFunction 81 ≠ some .pf ∧ (readyRing.queue 80).disabling = false ∧ (readyRing.queue 80).replies.length < 256
    ∧ readyRing.rd (A.SEQ_Q_STATE 80) F.SEQ_Q_STATE_SQ_HEAD = 0 ∧ (readyRing.queue 80).tail = 0 ∧ (readyRing.queue 80).fetching = 0
    ∧ (readyRing.wr A.PCE_PWR_CTL F.PCE_PWR_CTL_WAKE_DOORBELL 0).flag A.PCE_PWR_CTL F.PCE_PWR_CTL_WAKE_DOORBELL = false := by decide +kernel
theorem test_meets_CqHead : let v := readyRing.modQueue 80 (fun x => { x with cqTail := 3 })
    (v.queue 80).cqHead ≤ (v.queue 80).cqTail ∧ (v.queue 80).cqTail - (v.queue 80).cqHead < 16 ∧ (1 + 16 - 0 % 16) % 16 ≤ 3 := by decide +kernel
/-- R275: a tail beyond the end of the ring asks for two reads, the end of the ring first. -/
theorem test_sq_wraps : (nxt (.sqTail .pf 80 4 5) (st (readyRing.wr (A.SEQ_Q_STATE 80) F.SEQ_Q_STATE_SQ_HEAD 10))).out
    = [.hostRead 80 0 5, .hostRead 80 10 6] := by decide +kernel
theorem test_meets_SqFetch : ((ringed.modQueue 80 (fun x => { x with fetching := 2 })).queue 80).fetching ≠ 0 ∧ (ringed.queue 80).fetching = 0
    ∧ ringed.scrubbing (80 / 16) = false := by decide +kernel
def cmdPkt (w : Nat) : Packet := { cls := clsCMD, segs := 1, src := 7, partition := 5, payload := bytesOfNat 256 w }
theorem test_meets_CmdPacket : fabricQ.accepts (cmdPkt (slotWord (.barrier (hd (.fabric 7))))) ∧ (cmdPkt 0).segs ≠ 0 ∧ (cmdPkt 0).fence = false
    ∧ (fabricQ.cmdPacket (cmdPkt (slotWord (.barrier (hd (.fabric 7)))))).2 = true := by decide +kernel
theorem test_meets_CmdSlot : slotOp (slotWord (.nop (hd (.fabric 7)))) = oNOP ∧ slotOp (slotWord (.barrier (hd (.fabric 7)))) ≠ oNOP
    ∧ fabricQ.hostPart 7 = some (80 / 16) ∧ fabricQ.qSource 80 = 3 ∧ ringed.qSource 80 ≠ 3 ∧ (fabricQ.queue 80).disabling = false
    ∧ 256 ≤ (List.replicate 256 { waitingCmd with origin := .fabric 7 }).length := by decide +kernel

/-! ### Counters, waits, writes and ownership -/

/-- Partition 5 owns a unit of a kind of Table 13.1. -/
def own (s : Chip) (k n : Nat) : Chip := let a := unitAddr k n; s.wr (a / 8 * 8) ⟨8 * (a % 8), 16⟩ 0xBA45
/-- Cell 0, matrix tile 0, HBM channel 0, the counters 0 to 63 and codebook slot 0 are partition 5's. -/
def eng : Chip := own (own (own (own (own home 0 0) 1 0) 4 0) 9 0) 10 0
/-- Counter 6 at a value, in a mode, of a job. -/
def counted (v mode job : Nat) : Chip :=
  let a := A.SEQ_COUNTER 6
  (((eng.wrP a 2 F.SEQ_COUNTER_VALUE v).wrP a 2 F.SEQ_COUNTER_MODE mode).wrP a 2 F.SEQ_COUNTER_OWNER_JOB job).wrP a 2 F.SEQ_COUNTER_SCOPE 1
def setCmd : Cmd := cmd oCOUNTER_SET (6 + 1 <<< 32 + 100 <<< 64 + 7 <<< 112)
theorem test_meets_CounterSet : slotOp setCmd.cur = oCOUNTER_SET ∧ crefIndex (prm setCmd.cur 8 32) = 6 ∧ (counted 5 0 0).counterOk 6 = true
    ∧ (counted 5 0 0).counter 6 F.SEQ_COUNTER_OWNER_JOB = 0 ∧ (counted 5 0 9).counter 6 F.SEQ_COUNTER_OWNER_JOB = 9
    ∧ (counted 5 0 9).fromPf setCmd = true ∧ (counted 5 0 9).fromPf { setCmd with queue := 80, origin := .fabric 7 } = false
    ∧ (counted 5 0 9).rd (A.SEQ_Q_CFG 80) F.SEQ_Q_CFG_JOB ≠ 9 := by decide +kernel
def addCmd (scope n : Nat) : Cmd := cmd oCOUNTER_ADD (6 + scope <<< 32 + n <<< 64)
theorem test_meets_CounterAdd : slotOp (addCmd 2 3).cur = oCOUNTER_ADD ∧ (addCmd 2 3).stage ≠ 9 ∧ crefEid (prm (addCmd 2 3).cur 8 32) = eng.selfEid
    ∧ prm (addCmd 2 3).cur 16 48 = 3 ∧ prm (addCmd 2 3).cur 12 8 = 2 ∧ (counted 5 0 0).counterOk 6 = true
    ∧ prm (addCmd 3 1).cur 12 8 = 3 ∧ ((counted 5 0 0).wr (A.SEQ_COUNTER 6) F.SEQ_COUNTER_VALUE 7).counterOk 6 = false := by decide +kernel
def ctrPkt (c scope n : Nat) : Packet := { cls := clsCOUNTER, src := 7, partition := 5, body := CounterBody.body { counter := c, scope := scope, operand := n, ctag := 4 } }
theorem test_meets_CounterTadpole : (counted 5 0 0).accepts (ctrPkt 6 2 3) ∧ bits (ctrPkt 6 2 3).body 96 288 = 0
    ∧ (CounterBody.ofBody (ctrPkt 6 2 3).body).scope = 2 ∧ (CounterBody.ofBody (ctrPkt 6 1 3).body).scope < 2
    ∧ (counted 5 0 0).counterIs 6 5 = true ∧ (counted 5 0 0).counterIs 64 5 = false
    ∧ (CounterBody.ofBody (ctrPkt 6 2 0).body).operand = 0 ∧ (CounterBody.ofBody (ctrPkt 6 2 3).body).operand = 3 := by decide +kernel
/-- R177, R179: the add wraps at 2^48. -/
theorem test_counter_wraps : (nxt (.counterTadpole (ctrPkt 6 2 3)) (st (counted (2 ^ 48 - 1) 0 0))).counterValue 6 = 2 := by decide +kernel
def waitCmd (target usec : Nat) (w : Option WaitRec) (stage : Nat) : Cmd :=
  { cmd oWAIT (6 + 1 <<< 32 + target <<< 48 + usec <<< 96) with wait := w, stage := stage }
def waiting (m : Cmd) : Chip := (counted 5 0 0).modSeq (fun q => { q with cmds := [m] })
theorem test_meets_Wait : slotOp (waitCmd 5 9 none 0).cur = oWAIT ∧ prm (waitCmd 5 9 none 0).cur 14 48 = 5 ∧ prm (waitCmd 5 9 none 0).cur 20 32 = 9
    ∧ (waiting (waitCmd 5 9 none 0)).counterIs 6 5 = true ∧ (waiting (waitCmd 5 9 none 0)).counterOk 6 = true
    ∧ (waiting (waitCmd 5 9 none 0)).seq.cmds = [waitCmd 5 9 none 0] ∧ waitHolds 5 5 = true ∧ waitHolds 5 6 = false := by decide +kernel
theorem test_meets_WaitEnds : let m := waitCmd 8 9 (some ⟨6, 1, 8, none⟩) 5
    m.queue = 1024 ∧ slotTag m.cur = 0 ∧ ((timed (waiting m) (.waitDeadline 1)).expire (.waitDeadline 1)).isSome = true
    ∧ (waitCmd 8 9 (some ⟨6, 1, 8, some (.ok, 8)⟩) 5).wait = some ⟨6, 1, 8, some (.ok, 8)⟩
    ∧ (∀ x ∈ (waiting m).seq.cmds, x.queue ≠ 3 ∨ (slotTag x.slot ≠ 0 ∧ slotTag x.cur ≠ 0)) := by decide +kernel
/-- FILL of 4 bytes from STG 16 on with counter 6, and COPY of 8 bytes from STG 0 to SCR 4 of cell 0. -/
def fillCmd : Cmd := cmd oFILL (16 + 1 <<< 56 + 1 <<< 87 + 6 <<< 88 + 4 <<< 128 + 0x0102030405060708 <<< 192)
def copyCmd : Cmd := cmd oCOPY (0 + 1 <<< 56 + (4 + 2 <<< 56) <<< 128 + 8 <<< 256)
theorem test_meets_Fill : let d := Locator.of (prm fillCmd.cur 8 128)
    slotOp fillCmd.cur = oFILL ∧ fillCmd.stage ≠ 9 ∧ prm fillCmd.cur 24 64 = 4 ∧ d.countEn = true ∧ d.counter = 6 ∧ (counted 5 0 0).counterIs 6 5 = true
    ∧ (counted 5 0 0).counterOk 6 = true ∧ (counted 5 0 0).destOf d = .stg d.addr ∧ (counted 5 0 0).stgHas 5 d.addr 4 = true := by decide +kernel
theorem test_meets_Copy : let d := Locator.of (prm copyCmd.cur 24 128)
    slotOp copyCmd.cur = oCOPY ∧ prm copyCmd.cur 40 64 = 8 ∧ d.countEn = false ∧ eng.destOf d = .scr d.engine d.addr ∧ d.addr + 8 ≤ scrSize d.engine
    ∧ (match eng.readAt copyCmd (eng.destOf (Locator.of (prm copyCmd.cur 8 128))) 8 with | .ok b => b == List.replicate 8 0 | _ => false) = true := by
  decide +kernel
def writePkt (addr len : Nat) : Packet :=
  { cls := clsWRITE, segs := 1, src := 7, partition := 5, payload := List.replicate 256 9
    body := WriteExt.body { addr := addr, space := 1, countEn := true, counter := 6, ack := true, wtag := 3, length := len } }
theorem test_meets_WritePacket : (counted 5 0 0).accepts (writePkt 64 20) ∧ (writePkt 64 20).segs ≠ 0 ∧ (counted 5 0 0).writeCheck (writePkt 64 20) = none
    ∧ (WriteExt.ofBody (writePkt 64 20).body).space = 1 ∧ (writePkt 64 20).fence = false
    ∧ (counted 5 0 0).writeCheck (writePkt 64 0) = some .formatInvalid := by decide +kernel
/-- R166, R178: the bytes reach STG, and the counter in byte mode moves on by LENGTH. -/
theorem test_write_packet : let t := nxt (.writePacket (writePkt 64 20)) (st (counted 5 0 0))
    t.seq.stg.byte 64 = 9 ∧ t.seq.stg.byte 83 = 9 ∧ t.seq.stg.byte 84 = 0 ∧ t.counterValue 6 = 25 := by decide +kernel
def statusPkt : Packet := { cls := clsSTATUS, src := 7, partition := 5, body := StatusBody.body { origClass := clsWRITE, tag := 3 } }
def written : Chip := (counted 5 0 0).modSeq (fun q => { q with outs := [⟨3, false, 1, 2, false⟩], cmds := [{ fillCmd with waits := [(6, none)] }] })
theorem test_meets_StatusTadpole : statusReservedZero statusPkt.body = true ∧ (StatusBody.ofBody statusPkt.body).origFence = false
    ∧ written.sourceOf statusPkt.dst = localPort ∧ written.accepts statusPkt ∧ written.isShadow = false
    ∧ (StatusBody.ofBody statusPkt.body).origClass = clsWRITE ∧ (StatusBody.ofBody statusPkt.body).tag = 3
    ∧ written.seq.outs.map (fun o => (o.pool, o.tag)) = [(false, 3)] ∧ (written.cmd? 1).isSome = true
    ∧ statusReservedZero (1 <<< 46) = false := by decide +kernel
def ownedLine (stt o n : Nat) : Chip :=
  let a := A.HOM_OWN 3
  ((((on.wr a F.HOM_OWN_VALID 1).wr a F.HOM_OWN_ADDR 99).wr a F.HOM_OWN_STATE stt).wr a F.HOM_OWN_OWNER o).wr a F.HOM_OWN_NEXT n
theorem test_meets_Ownership : on.record 99 = none ∧ on.freeRecord = some 0 ∧ (ownedLine 1 7 8).record 99 = some 3
    ∧ (ownedLine 1 7 8).rd (A.HOM_OWN 3) F.HOM_OWN_STATE = 1 ∧ (ownedLine 1 7 8).rd (A.HOM_OWN 3) F.HOM_OWN_OWNER = 7
    ∧ (ownedLine 1 7 8).rd (A.HOM_OWN 3) F.HOM_OWN_NEXT = 8 ∧ (ownedLine 2 0 0).rd (A.HOM_OWN 3) F.HOM_OWN_STATE = 2
    ∧ ((timed (ownedLine 1 7 8) (.handoff 3)).expire (.handoff 3)).map (·.rd (A.HOM_OWN 3) F.HOM_OWN_STATE) = some 1
    ∧ on.expire (.handoff 3) = none := by decide +kernel
/-- Region 2 is tile 3 of partition 5, with version 1 as CURRENT. -/
def region : Chip :=
  let a := A.HOM_VREGION 2
  let s := ((eng.wr a F.HOM_VREGION_VALID 1).wr a F.HOM_VREGION_BASE_TILE 3).wr a F.HOM_VREGION_PARTITION 5
  let s := ((s.wr a F.HOM_VREGION_TILES 1).wr a F.HOM_VREGION_CURRENT 1).wr a F.HOM_VREGION_ISSUED 1
  (s.wr a F.HOM_VREGION_LIVE 1).modPool (fun q => { q with versions := [{ region := 2, number := 1, base := 0, working := false, map := [], own := [] }] })
def viewed : Chip := region.modPool (fun q => { q with views := [⟨7, 2, 2, true⟩] })
theorem test_meets_Versions : region.regionAt 5 (3 * 16384) = some 2 ∧ region.rd (A.HOM_VREGION 2) F.HOM_VREGION_LIVE < 8
    ∧ region.viewOf 7 2 = none ∧ region.pool.views.length < 16384 ∧ (region.homed 3).isSome = true
    ∧ viewed.regionAt 5 (3 * 16384) = some 2 ∧ (viewed.viewOf 7 2) = some ⟨7, 2, 2, true⟩ := by decide +kernel
theorem test_meets_HomeFor : let m := cmd oVERSION_OPEN (3 * 16384)
    m.stage = 0 ∧ slotOp m.cur = oVERSION_OPEN ∧ prm m.cur 8 56 = 3 * 16384 ∧ (match region.homeFor 5 (3 * 16384) with | .here => true | _ => false) = true
    ∧ (region.atHome m).2.1.isError = false := by decide +kernel
def lostLine : Chip := home.writeLost 4 true 0 5 13
theorem test_meets_LostAck : 4 ∈ lostLine.lostEntries ∧ lostLine.rd (A.HOM_LOST 4) F.HOM_LOST_PARTITION = 5 ∧ lostLine.lostLine 4 = 13
    ∧ bitAt (cmd oLOST_ACK (1 <<< 128)).cur 192 = true := by decide +kernel
theorem test_meets_Hints : let m := cmd oTIER_HINT (2 * 16384 + 16384 <<< 64 + 1 <<< 128)
    (match tiered.hintRange m (prm m.cur 8 56) with | .ok r => r == ⟨0, 0⟩ | _ => false) = true ∧ slotOp m.cur = oTIER_HINT ∧ prm m.cur 24 8 = 1
    ∧ tiered.tiered ⟨0, 0⟩ = true ∧ tiered.pool.wanted = [] ∧ home.tiered ⟨0, 0⟩ = false
    ∧ tiered.hintTiles ⟨0, 0⟩ (2 * 16384) 16384 false = [2] ∧ (tiered.tile 2).state ≠ .flash ∧ (tiered.tile 2).state ≠ .promoting
    ∧ (tiered.homed 2).isSome = true ∧ (∀ e ∈ tiered.cacheOf 5, keyRole e.1 ≠ roleENGINE) := by decide +kernel
theorem test_meets_Region : let d := 3 + 5 <<< 42 + 1 <<< 48
    let v := eng.wr (A.HOM_VREGION 2) F.HOM_VREGION_TILES 1
    v.serves .newt (A.HOM_VREGION 2) ∧ v.locked (v.rd (A.HOM_VREGION 2) F.HOM_VREGION_PARTITION) = false
    ∧ v.flag (A.HOM_VREGION 2) F.HOM_VREGION_VALID = false ∧ bits d 48 1 = 1
    ∧ (((v.wr (A.HOM_VREGION 2) F.HOM_VREGION_BASE_TILE 3).wr (A.HOM_VREGION 2) F.HOM_VREGION_PARTITION 5).wr (A.HOM_VREGION 2)
        F.HOM_VREGION_VALID 1).regionFits 2 = true
    ∧ (((v.wr (A.HOM_VREGION 2) F.HOM_VREGION_BASE_TILE 100).wr (A.HOM_VREGION 2) F.HOM_VREGION_PARTITION 5).wr (A.HOM_VREGION 2)
        F.HOM_VREGION_VALID 1).regionFits 2 = false
    ∧ region.flag (A.HOM_VREGION 2) F.HOM_VREGION_VALID = true := by decide +kernel

/-! ### Collectives, kernels and engines -/

/-- A REDUCE plan at STG 0: COLL_ID 5, a root, contributors 7 and 9, 32 FP32 elements, SUM. -/
def planWord : Nat := 5 + 1 <<< 20 + 1 <<< 32 + 2 <<< 40 + 32 <<< 96
def planned : Chip := eng.stgPut 5 0 (bytesOfNat 64 planWord ++ bytesOfNat 8 (7 + 9 <<< 16))
def reduceCmd : Cmd := cmd oREDUCE 0
def rec0 : PlanRec := ⟨planWord, Plan.of planWord, [7, 9], [], []⟩
theorem test_meets_CollStart : opIsColl (slotOp reduceCmd.cur) = true ∧ reduceCmd.stage = 0 ∧ prm reduceCmd.cur 8 38 = 0
    ∧ (match planned.planCheck 5 0 oREDUCE with | .ok (some r) => r.header == planWord && r.plan == rec0.plan && r.contrib == rec0.contrib | _ => false) = true
    ∧ (match eng.planCheck 5 0 oREDUCE with | .ok none => true | _ => false) = true
    ∧ (match on.planCheck 5 0 oREDUCE with | .error e => e == .quota | _ => false) = true
    ∧ planned.seq.kept = [] ∧ rec0.plan.localSrc = false ∧ rec0.contrib ≠ [] ∧ rec0.plan.kind ≠ 3 ∧ rec0.plan.kind ≠ 4 ∧ rec0.plan.unitCount ≠ 0
    ∧ (planned.collKey? planned.seq.nextColl).isNone = true ∧ planned.seq.early = [] := by decide +kernel
def coll0 : Coll := { key := 1, part := 5, planOff := 0, plan := planWord, contrib := [7, 9], scatter := [], sampling := [], cmd := 1, cells := [0] }
def opened : Chip := planned.modSeq (fun q => { q with colls := [coll0], nextColl := 2, cmds := [reduceCmd] })
def collPkt (id src : Nat) : Packet :=
  { cls := clsCOLL, segs := 1, src := src, partition := 5, body := CollExt.body { collId := id }, payload := List.replicate 256 0 }
theorem test_meets_CollPacket : opened.accepts (collPkt 5 7) ∧ collReservedZero (collPkt 5 7) = true ∧ opened.isShadow = false ∧ opened.isTap = false
    ∧ (CollExt.ofBody (collPkt 5 7).body).role < 2 ∧ opened.coll? 5 5 = some coll0 ∧ 8 ∉ coll0.contrib
    ∧ coll0.contrib.findIdx? (· == 7) = some 0 ∧ bitAt (coll0.unit 0).mask 0 = false ∧ coll0.p.root = true ∧ coll0.committed = false
    ∧ 0 < coll0.p.unitCount ∧ (coll0.unit 0).mask + 2 ^ 0 ≠ coll0.full ∧ opened.seq.colls.filter (fun y => y.key == 1) = [coll0] := by
  decide +kernel
theorem test_meets_CollCover : (match coll0.p.cover (collPkt 5 7) with | .ok x => x == (0, 32) | _ => false) = true
    ∧ (coll0.p.unitsAt (coll0.p.fmtOf 0) 0 32 (collPkt 5 7).payload).length = 1
    ∧ coll0.p.contentOk (coll0.p.unitsAt (coll0.p.fmtOf 0) 0 32 (collPkt 5 7).payload) = true := by decide +kernel
def roomy : Chip := eng.wr (A.CEL_CFG 0) F.CEL_CFG_EARLY_SEGS 4
/-- A contribution for a context that is not open lies in the buffer, its local copy released. -/
def earlySlot : Slot :=
  { id := 1, pkt := collPkt 6 7, inPort := 3, copies := [⟨localPort, 0, .released, 1⟩], adm := .shared, filled := 1, whole := true }
def roomyIn : Chip := { roomy with sw := { roomy.sw with slots := [earlySlot] } }
def quota : Chip :=
  let v := roomy.wr (A.SWC_QUOTA 5) F.SWC_QUOTA_MAX_UNITS 100
  { v with sw := { v.sw with listsBuilt := true } }
def roomless : Chip := eng.wr (A.CEL_CFG 0) F.CEL_CFG_EARLY_SEGS 0
theorem test_meets_CollEarly : roomyIn.earlyHere (collPkt 6 7) = true ∧ roomyIn.releasedLocal (collPkt 6 7) = some earlySlot
    ∧ roomy.earlyHere (collPkt 6 7) = true ∧ (roomy.releasedLocal (collPkt 6 7)).isNone = true ∧ roomy.accepts (collPkt 6 7)
    ∧ roomy.admission (collPkt 6 7) [] false = none ∧ (quota.admission (collPkt 6 7) [] false).isSome = true
    ∧ quota.earlyHere (collPkt 6 7) = true
    ∧ roomless.earlyHere (collPkt 6 7) = false ∧ roomless.accepts (collPkt 6 7) ∧ (roomless.coll? 5 6).isNone = true
    ∧ roomless.seq.kept = [] ∧ roomless.cellsOf 5 = [0] ∧ roomless.earlyRoom 5 < roomless.earlyUsed 5 + 1
    ∧ opened.earlyHere (collPkt 5 7) = false := by decide +kernel
theorem test_meets_CollWatchdog : ((timed opened (.collective 1)).expire (.collective 1)).isSome = true ∧ opened.collKey? 1 = some coll0
    ∧ on.expire (.collective 1) = none ∧ ({ coll0 with plan := planWord - 1 <<< 32 } : Coll).p.root = false
    ∧ (opened.cmd? 1).isSome = true := by decide +kernel
def abortPkt (req : Bool) : Packet :=
  { cls := clsABORT, src := 7, partition := 5, body := AbortBody.body { collId := 5, request := req, status := Status.collectiveAbort.code } }
theorem test_meets_AbortTadpole : opened.accepts (abortPkt true) ∧ bits (abortPkt true).body 17 7 = 0 ∧ bits (abortPkt true).body 46 338 = 0
    ∧ (AbortBody.ofBody (abortPkt true).body).status = Status.collectiveAbort.code ∧ (AbortBody.ofBody (abortPkt true).body).request = true
    ∧ (AbortBody.ofBody (abortPkt false).body).request = false ∧ eng.coll? 5 5 = none := by decide +kernel
def early0 : Early := ⟨5, 6, collPkt 6 7, 9, 1⟩
theorem test_meets_AbortMemory : ((timed eng (.abortMemory 5 6)).expire (.abortMemory 5 6)).isSome = true ∧ eng.expire (.abortMemory 5 6) = none
    ∧ eng.seq.early = [] ∧ (eng.modSeq (fun q => { q with early := [early0] })).seq.early = [early0] := by decide +kernel
def framed (frame budget left : Nat) : Chip :=
  (((ringed.wr (A.SEQ_Q_CFG 80) F.SEQ_Q_CFG_FRAME_US frame).wr (A.SEQ_Q_SCHED 80) F.SEQ_Q_SCHED_BUDGET_US budget).modQueue 80
    (fun q => { q with budget := left, frameEnd := 1000 * frame }))
def kernel : Cmd := { id := 1, queue := 80, part := 5, origin := .ring, slot := slotWord (.fill (hd .ring) { space := 1 } 4 0) }
def framedEng (frame budget left : Nat) : Chip := (own (own (framed frame budget left) 0 0) 4 0).modSeq (fun q => { q with cmds := [kernel] })
theorem test_meets_Frame : (framed 100 50 0).qFrame 80 = 100 ∧ on.qFrame 80 = 0 ∧ (framed 100 50 0).align.slew = 0
    ∧ (framed 100 50 0).tb + us 100 < 2 ^ 64 := by decide +kernel
theorem test_meets_Admission : opIsKernel (slotOp kernel.slot) = true ∧ (framedEng 100 50 50000).startCheck kernel = none
    ∧ (match (framedEng 100 50 50000).needs kernel with | .ok n => n == .one [0] | _ => false) = true
    ∧ (framedEng 100 50 50000).flag A.PCE_STATUS F.PCE_STATUS_SHORTFALL = false ∧ (framedEng 100 50 50000).qFrame 80 ≠ 0
    ∧ us ((framedEng 100 50 50000).qBudget 80) = 50000 ∧ ((framedEng 100 50 50000).worstCase kernel 1) = (1001, 0)
    ∧ (((framedEng 100 50 50000).frameSync 80).queue 80).budget = 50000 ∧ (((framedEng 100 50 7).frameSync 80).queue 80).budget < 1001
    ∧ us ((framedEng 100 1 7).qBudget 80) < 1001 ∧ (framedEng 0 0 0).qFrame 80 = 0 := by decide +kernel
def ended : Cmd := { kernel with phase := .ended .ok 4 }
def stopping : Chip := ringed.modSeq (fun q => { q with cmds := [{ kernel with phase := .running }] })
theorem test_meets_KernelEnds : ended.queue = 80 ∧ slotTag ended.slot = 9 ∧ ended.phase = .ended .ok 4 ∧ stopping.running (.kernel 1) = false
    ∧ ((timed stopping (.kernel 1)).expire (.kernel 1)).isSome = true ∧ ended.part < 64 := by decide +kernel
theorem test_meets_EngineReset : on.serves .newt (A.CEL_CTL 3) ∧ on.serves .newt (A.MTX_CTL 3) ∧ on.rd (A.CEL_STATUS 3) F.CEL_STATUS_CTX_USED = 0
    ∧ on.flag (A.CEL_STATUS 3) F.CEL_STATUS_RUNNING = false ∧ on.flag (A.MTX_STATUS 3) F.MTX_STATUS_RUNNING = false
    ∧ on.flag (A.MTX_STATUS 3) F.MTX_STATUS_ENCODING = false ∧ on.running (.engineReset 3) = false
    ∧ (timed on (.engineReset 3)).running (.engineReset 3) = true ∧ on.seq.cmds = []
    ∧ (on.wr (A.CEL_STATUS 3) F.CEL_STATUS_RUNNING 1).flag (A.CEL_STATUS 3) F.CEL_STATUS_RUNNING = true := by decide +kernel
theorem test_meets_QueueEnable : let v := fabricQ.wr (A.SEQ_Q_STATE 80) F.SEQ_Q_STATE_ENABLED 0
    v.serves .newt (A.SEQ_Q_CTL 80) ∧ v.pstate (80 / 16) = psSEALED ∧ v.qSource 80 = 3 ∧ v.qFrame 80 = 0 ∧ v.qBudget 80 = 0
    ∧ v.rd (A.SEQ_Q_SCHED 80) F.SEQ_Q_SCHED_PHASE_US = 0 ∧ on.pstate 5 ≠ psSEALED ∧ fabricQ.qEnabled 80 = true
    ∧ ((fabricQ.modQueue 80 (fun x => { x with disabling := true })).queue 80).disabling = true ∧ fabricQ.queueIdle 80 = true := by decide +kernel
/-- GATHER of two rows of 8 bytes at STG 64 and 32, named by the list at STG 0, into STG 256. -/
def gatherCmd (op : Nat) : Cmd := cmd op ((256 + 1 <<< 56) + 1 <<< 168 + 2 <<< 192 + 8 <<< 224)
def listed : Chip := eng.stgPut 5 0 (bytesOfNat 8 64 ++ bytesOfNat 8 32)
theorem test_meets_Gather : let m := gatherCmd oGATHER
    slotOp m.cur = oGATHER ∧ m.rowCmd.form = 0 ∧ m.rowCmd.space = 1 ∧ listed.destOf m.rowCmd.contig = .stg m.rowCmd.contig.addr
    ∧ m.rowCmd.contig.countEn = false ∧ m.rowCmd.rows = 2 ∧ m.rowCmd.rowBytes = 8 ∧ listed.stgHas 5 m.rowCmd.contig.addr 16 = true
    ∧ (∀ a ∈ [64, 32], listed.stgHas 5 a 8 = true)
    ∧ (match listed.readAt m m.rowCmd.list 16 with | .ok l => rowAddresses m.rowCmd l == [some 64, some 32] | _ => false) = true
    ∧ [64, 32].Pairwise (fun a b => a + 8 ≤ b ∨ b + 8 ≤ a) := by decide +kernel
/-- Of the records 5, 9, 3 of 4 bytes at STG 64, those of which the unsigned key is below 6. -/
def scanCmd : Cmd :=
  cmd oFILTER_SCAN ((64 + 1 <<< 56) + 3 <<< 64 + 4 <<< 96 + 3 <<< 128 + 2 <<< 136 + 0 <<< 192 + (256 + 1 <<< 56) <<< 256 + 64 <<< 320)
def scanned : Chip := (eng.stgPut 5 0 (bytesOfNat 8 6)).stgPut 5 64 (bytesOfNat 4 5 ++ bytesOfNat 4 9 ++ bytesOfNat 4 3)
theorem test_meets_Scan : slotOp scanCmd.cur = oFILTER_SCAN ∧ prm scanCmd.cur 16 32 = 3 ∧ prm scanCmd.cur 20 16 = 4
    ∧ (match scanned.stgRead 5 (prm scanCmd.cur 32 38) 32 with | .ok b => b.length == 32 | _ => false) = true
    ∧ (match scanned.readAt scanCmd (scanCmd.shortAt (Locator.ofShort (prm scanCmd.cur 8 64))) 12 with | .ok b => b.length == 12 | _ => false) = true
    ∧ bitAt scanCmd.cur 198 = false ∧ (Locator.ofShort (prm scanCmd.cur 40 64)).space = 1 ∧ prm scanCmd.cur 48 64 = 64
    ∧ scanned.stgHas 5 (Locator.ofShort (prm scanCmd.cur 40 64)).addr 8 = true := by decide +kernel
def book (stt gen rate : Nat) : Chip :=
  ((eng.wr (A.CDC_SLOT 0) F.CDC_SLOT_STATE stt).wr (A.CDC_SLOT 0) F.CDC_SLOT_GEN gen).wr (A.CDC_SLOT 0) F.CDC_SLOT_RATE rate
/-- ENCODE with slot 0, RATE 4, GEN 7. -/
def encodeCmd : Cmd := cmd oENCODE (0 + 4 <<< 8 + 7 <<< 16)
/-- A load of four centroids from STG 0 into slot 0. -/
def buildCmd (stage : Nat) : Cmd := { cmd oCODEBOOK_BUILD (0 + 2 <<< 8 + 1 <<< 16 + 1 <<< 32 + (1 <<< 56) <<< 64 + 4 <<< 128) with stage := stage }
theorem test_meets_Codebook : slotOp encodeCmd.cur = oENCODE ∧ (book 2 7 4).owner (A.CDC_SLOT 0) = some 5 ∧ (book 2 7 4).slotState 0 = cbLIVE
    ∧ (book 2 7 4).rd (A.CDC_SLOT 0) F.CDC_SLOT_GEN = prm encodeCmd.cur 10 16 ∧ (book 2 7 4).slotRefs 0 < 65535
    ∧ (book 2 7 4).rd (A.CDC_SLOT 0) F.CDC_SLOT_RATE = prm encodeCmd.cur 9 8 ∧ (book 0 7 4).slotState 0 = cbFREE ∧ (book 1 7 4).slotState 0 = cbBUILDING
    ∧ prm encodeCmd.cur 8 8 = 0 := by decide +kernel
theorem test_meets_CodebookBuild : slotOp (buildCmd 1).cur = oCODEBOOK_BUILD ∧ prm (buildCmd 1).cur 10 8 ≠ 0 ∧ prm (buildCmd 1).cur 12 8 = 1
    ∧ prm (buildCmd 1).cur 9 8 = 2 ∧ prm (buildCmd 1).cur 24 64 = 4
    ∧ (match eng.readAt (buildCmd 1) ((buildCmd 1).shortAt (Locator.ofShort (prm (buildCmd 1).cur 16 64))) 8 with
        | .ok b => b.length == 8 && (numbersOf 2 b) == [0, 0, 0, 0] | _ => false) = true
    ∧ (match bf16.decode 0 with | .fin _ _ _ => true | _ => false) = true ∧ (bf16.decode 0).le (bf16.decode 0) = true := by decide +kernel
theorem test_meets_Attend : slotOp (cmd oATTEND 0).cur = oATTEND ∧ on.stgHas 5 (prm (cmd oATTEND 0).cur 8 38) 128 = false := by decide +kernel

/-! ### Partitions -/

def adm (op prms : Nat) : Cmd := { cmd op prms with engines := [] }
theorem test_meets_Partition : (adm oPARTITION_CREATE 5).stage = 0 ∧ (adm oPARTITION_CREATE 5).phase = .running ∧ prm (adm oPARTITION_CREATE 5).cur 8 6 = 5
    ∧ slotOp (adm oPARTITION_CREATE 5).cur = oPARTITION_CREATE ∧ on.pstate 5 = psFREE ∧ (on.setPstate 5 psCREATED).pstate 5 = psCREATED
    ∧ (on.setPstate 5 psCREATED).sealing 5 = false ∧ (State.reset.toChip.setPstate 5 psCREATED).sealCheck 5 = none
    ∧ (State.reset.toChip.setPstate 5 psCREATED).boundTrays 5 = [] := by decide +kernel
theorem test_meets_PartitionRelease : let v := State.reset.toChip.setPstate 5 psCREATED
    v.pstate 5 = psCREATED ∧ v.sealing 5 = false ∧ ∀ k : Fin 11, v.unitsOf k.val 5 = [] := by decide +kernel
theorem test_meets_PartitionEnd : (on.setPstate 5 psSEALED).pstate 5 = psSEALED ∧ (on.setPstate 5 psSEALED).banksOf 5 = [] ∧ on.seq.colls = []
    ∧ (on.setPstate 5 psDRAINED).pstate 5 = psDRAINED ∧ (on.setPstate 5 psDRAINED).homesRange 5 = false
    ∧ on.listed (A.HOM_VREGION 0) 32 4096 = [] ∧ on.listed (A.HOM_OWN 0) 32 8192 = [] ∧ on.lostEntries = []
    ∧ (on.setPstate 5 psSCRUBBED).pstate 5 = psSCRUBBED := by decide +kernel
theorem test_meets_KeyRotate : prm (adm oKEY_ROTATE 5).cur 9 8 = 0 ∧ psCREATED < (on.setPstate 5 psSEALED).pstate 5
    ∧ (on.setPstate 5 psSEALED).pstate 5 < psSCRUBBING ∧ on.trngFail = false ∧ bitAt (on.rd (A.KEY_MEM 5) F.KEY_MEM_LIVE) 1 = false
    ∧ (on.pool.sweeps.find 5).isNone = true ∧ ((on.setPstate 5 psSEALED).newKey 5 1).sweepTiles 5 = []
    ∧ (on.wr A.KEY_STATUS F.KEY_STATUS_TRNG_FAIL 1).trngFail = true := by decide +kernel
theorem test_meets_TrayCommands : (tray trayREADY).trayState 2 = trayREADY ∧ trayREADY ≠ trayBLANK ∧ (tray trayLOST).trayState 2 = trayLOST
    ∧ prm (adm oTRAY_FORMAT 2).cur 8 5 = 2 := by decide +kernel
theorem test_meets_Install : (on.setOther 1).otherState = 1 ∧ on.otherState ≠ 1 ∧ (∀ v : Fin 2, (on.setOther 1).rangeEntries v.val = [])
    ∧ ((on.setOther 1).checkProfiles 1).isNone = true ∧ ((on.setOther 1).checkParts 1).isNone = true ∧ (on.setOther 1).changedPorts 1 = []
    ∧ on.pool.replicas = [] ∧ (on.setOther 1).shadowV = 1 := by decide +kernel
def admState (s : Chip) (m : Cmd) : Chip := s.modSeq (fun q => { q with cmds := [m] })
def under (op : Nat) : Cmd := { adm op 5 with stage := 1 }
theorem test_meets_PartitionComplete :
    ((admState (on.setPstate 5 psCREATED) (under oPARTITION_SEAL)).adminOf oPARTITION_SEAL 5) = some (under oPARTITION_SEAL)
    ∧ on.bindingDone (under oPARTITION_SEAL) = true ∧ (on.adminOf oPARTITION_SEAL 5).isNone = true
    ∧ (admState (on.setPstate 5 psDRAINING) (under oPARTITION_DRAIN)).drained 5 = true
    ∧ ((admState (on.setPstate 5 psDRAINING) (under oPARTITION_DRAIN)).adminOf oPARTITION_DRAIN 5) = some (under oPARTITION_DRAIN)
    ∧ ((admState (on.setPstate 5 psSCRUBBING) (under oPARTITION_SCRUB)).adminOf oPARTITION_SCRUB 5) = some (under oPARTITION_SCRUB)
    ∧ (on.pool.scrubs.find 5).isNone = true := by decide +kernel
theorem test_meets_Spdm : on.pstate 5 = psFREE ∧ (on.setPstate 5 psSEALED).pstate 5 ≠ psFREE ∧ mayMeasure none 20 = true
    ∧ mayMeasure (some 5) 22 = false ∧ on.drbgUse = [] := by decide +kernel

/-! ### Links -/

/-- Port 5 in mode 1 with one entry: at SIGNAL from state 0 to state 9. -/
def lk : Chip :=
  let a := A.PRT_TRAIN 5 0
  (((on.wr (A.PRT_PROFILE 0 5) F.PRT_PROFILE_MODE 1).wr a F.PRT_TRAIN_VALID 1).wr a F.PRT_TRAIN_EVENT tevSIGNAL).wr a F.PRT_TRAIN_NEXT 9
theorem test_meets_Training : lk.mode 5 ≠ 0 ∧ lk.trainEntry 5 (lk.trainState 5) tevSIGNAL 0 = some (A.PRT_TRAIN 5 0)
    ∧ lk.rd (A.PRT_TRAIN 5 0) F.PRT_TRAIN_ACTION = 0 ∧ lk.trainEntry 5 (lk.trainState 5) tevTIMER 0 = none ∧ lk.inService 5 = false
    ∧ ((timed lk (.training 5)).expire (.training 5)).isSome = true ∧ ((timed lk (.backoff 5)).expire (.backoff 5)).isSome = true
    ∧ lk.serves .newt (A.PRT_CTL 5) ∧ trainMsgOk { code := 3 } = true ∧ (lk.port 5).rxTrainSeq ≠ some 0 ∧ trainMsgOk { rsv := true, code := 3 } = false := by
  decide +kernel
theorem test_meets_TrainActions : ((lk.modPort 5 (fun x => { x with busy := some tactSPARE, failed := 6 })).port 5).busy = some tactSPARE
    ∧ (upFrom 0 4).find? (fun j => bitAt 6 j) = some 1 ∧ (lk.port 5).busy ≠ some tactADAPT := by decide +kernel
def sv : Chip := port on 5 1
theorem test_meets_Flits : sv.inService 5 = true ∧ (sv.port 5).rxExpect = 0 ∧ (sv.port 5).rxGroup = [] ∧ (sv.port 5).rxUnits = []
    ∧ (sv.port 5).rxPacket = none ∧ (sv.port 5).rotate = none ∧ (sv.port 5).replayAt = none ∧ (sv.port 5).txCtr + 1 < 2 ^ 31
    ∧ (∀ u ∈ [256, 512], u % 256 = 0) ∧ (sv.port 5).txTrain = [] ∧ (sv.port 5).txUnits = [] := by decide +kernel
def waitingFlit : Chip := sv.modPort 5 (fun x => { x with sent := [⟨0, [256], true, []⟩], txUnits := [⟨256, 0, true⟩] })
theorem test_meets_Replay : ((timed waitingFlit (.replay 5)).expire (.replay 5)).isSome = true ∧ waitingFlit.expire (.replay 5) = none
    ∧ (waitingFlit.port 5).sent.map (·.seq) = [0] ∧ (waitingFlit.port 5).sent.length < 128 ∧ (waitingFlit.port 5).txUnits ≠ []
    ∧ (waitingFlit.port 5).stalls < waitingFlit.rd (A.PRT_LINK_CFG 5) F.PRT_LINK_CFG_REPLAY_LIMIT := by decide +kernel
theorem test_meets_LinkTadpole : sv.accepts { cls := clsLINK } ∧ ((sv.modPort 5 (fun x => { x with update := .asked })).port 5).update = .asked := by
  decide +kernel

/-! ### The switch, epochs and shadow comparison -/

theorem test_meets_Epochs : on.serves .newt A.RTE_EPOCH_CTL ∧ (on.badEntry on.shadowV).isNone = true ∧ on.otherState = 0
    ∧ ((on.wr (A.RTE_ROUTE 1 7) F.RTE_ROUTE_KIND 1).badEntry 1).isSome = true ∧ (on.setOther 2).otherState = 2
    ∧ (on.setOther 2).rd A.RTE_EPOCH F.RTE_EPOCH_DRAIN = 0 ∧ (on.setOther 2).homedRanges (on.setOther 2).shadowV = [] := by decide +kernel
/-- A whole packet of partition 0 is released at output 5, and waits. -/
def slot1 : Slot :=
  { id := 1, pkt := { cls := clsSTATUS }, inPort := 3, copies := [⟨5, 0, .released, 1⟩], adm := .uncharged, filled := 0, whole := true }
def queued : Chip := { sv with sw := { sv.sw with slots := [slot1] } }
theorem test_meets_OutputSelect : queued.inService 5 = true ∧ queued.inEaves = false ∧ (queued.selectOutput 5).isSome = true
    ∧ (queued.selectOutput 5).map (fun e => (e.1.mode 5, e.2.id)) = some (1, 1) ∧ 1 ≠ modeD ∧ (sv.selectOutput 5).isNone = true := by decide +kernel
theorem test_meets_SwitchTimeouts : (queued.slot? 1).map (·.pkt.partition) = some 0
    ∧ ((timed queued (.reassembly 1)).expire (.reassembly 1)).isSome = true ∧ ((timed queued (.fenceHold 1)).expire (.fenceHold 1)).isSome = true
    ∧ queued.expire (.reassembly 1) = none ∧ queued.expire (.fenceHold 1) = none := by decide +kernel
theorem test_meets_Fences : (on.flow 7).held = [] ∧ on.accepts { cls := clsFENCE_DONE } ∧ (on.flow 7).out = []
    ∧ ((timed on (.sourceFence 7 1)).expire (.sourceFence 7 1)).isSome = true ∧ on.expire (.sourceFence 7 1) = none := by decide +kernel
theorem test_meets_Refill : on.align.slew = 0 ∧ on.rd (A.TMG_CFG 1) F.TMG_CFG_REFILL_US ≠ 0 ∧ on.tb + on.toRefill < 2 ^ 64
    ∧ on.regs.keysIn (A.TMG_METER_RATE 0 0) (A.TMG_METER_RATE 0 0 + 32 * 1024) = []
    ∧ on.regs.keysIn (A.TMG_OUT_RATE 0 0 0) (A.TMG_OUT_RATE 0 0 0 + 32 * 8192) = [] ∧ on.traffic.written = [] := by decide +kernel
def shadowed : Chip := on.modSeq (fun q => { q with shadows := [⟨5, 6, 0, 4, 0, [], 99⟩], digests := [⟨true, 9, 0, 0, 99⟩] })
theorem test_meets_Shadow : shadowed.seq.shadows.map (fun x => (x.part, x.collId, x.off)) = [(5, 6, 0)]
    ∧ shadowed.seq.digests.map (fun d => (d.own, d.tag)) = [(true, 9)] ∧ on.seq.refs = [] ∧ on.seq.shadows = [] ∧ on.seq.digests = [] := by
  decide +kernel

/-! ### Management -/

/-- Newt runs an image; session 2 is an operator's. -/
def up : Chip := newt.modNewt (fun w => { w with image := [(0, [1])], sessions := [(2, { port := 0, anchor := some 1, role := .operator })] })
def msg (code : Nat) (d : List Byte) : MgmtMsg := { code := code, head := { tag := 99, length := d.length }, data := d }
theorem test_meets_Message : isMessage (.identify 2 (msg mcIDENTIFY []).head []) 2 (msg mcIDENTIFY []) ∧ isMessage (.declare 2 (msg mcDECLARE []).head []) 2 (msg mcDECLARE [])
    ∧ up.newtUp = true ∧ (up.newt.sessions.find 2).map (fun x => (x.role, x.running, x.waiting.length)) = some (.operator, none, 0) := by
  refine ⟨Or.inl ⟨rfl, Or.inl ⟨rfl, rfl⟩⟩, ?_, ?_, ?_⟩
  · simp [isMessage, msg]
  all_goals decide +kernel
theorem test_meets_MessageHead : (∀ code ∈ [mcIDENTIFY, mcSENSOR_READ, mcLOG_READ, mcLOG_SUBSCRIBE, mcSAMPLE_SUBSCRIBE, mcSPDM, mcREG_READ, mcREG_WRITE, mcCMD_SUBMIT,
      mcDECLARE, mcPLANE_RESET, mcIMAGE_BEGIN, mcIMAGE_CHUNK, mcIMAGE_END, mcSVN_ADVANCE, mcANCHOR_SET, mcANCHOR_CLEAR, mcNET_CONFIG, mcPOLICY_SET],
      up.mayIssue .operator code = true) ∧ (msg 1 [3]).head.fails [3] = none ∧ (msg 1 [3]).head.fails [] = some .formatInvalid
    ∧ up.mayIssue .auditor mcREG_WRITE = false := by decide +kernel
def read1 : List Byte := bytesOfNat 4 A.PCE_POLICY ++ bytesOfNat 2 1
def write1 : List Byte := bytesOfNat 4 A.PCE_POLICY ++ bytesOfNat 4 0 ++ bytesOfNat 8 3 ++ bytesOfNat 8 7
theorem test_meets_RegMessages : read1.length = 6 ∧ leAt read1 0 4 % 8 = 0 ∧ leAt read1 4 2 = 1 ∧ up.unserved (leAt read1 0 4) = none
    ∧ write1.length = 24 ∧ leAt write1 4 4 = 0 ∧ leAt write1 0 4 % 8 = 0 ∧ (up.site (leAt write1 0 4)).isSome = true := by decide +kernel
theorem test_meets_CmdSubmit : (bytesOfNat 64 1).length = 64 ∧ up.flag A.GLB_BOOT_STATUS F.GLB_BOOT_STATUS_CP_RESET = false ∧ up.asleep = false
    ∧ up.scrubbing (slotQueue (natOfBytes (bytesOfNat 64 1)) / 16) = false := by decide +kernel
theorem test_meets_Declare : leAt (bytesOfNat 2 0 ++ bytesOfNat 2 7) 2 2 = 7 ∧ home.unserved (A.HOM_HOST 7) = none ∧ home.hostFailed 7 = false
    ∧ on.unserved (A.TIR_TRAY_STATUS 2) = none ∧ on.trayState 2 ≠ trayLOST := by decide +kernel
def updating : Chip := up.modNewt (fun w => { w with update := some { who := 2, head := zeroBytes 65536 } })
theorem test_meets_Image : up.newt.update = none ∧ updating.newt.update.map (·.who) = some 2 ∧ imgChunks [] - 1 - ([] : List Nat).length = 0 := by
  decide +kernel
theorem test_meets_SvnAdvance : (up.wr A.NWT_STATUS F.NWT_STATUS_IMAGE_SVN 5).rd A.NWT_STATUS F.NWT_STATUS_IMAGE_SVN = 5
    ∧ up.rd A.NWT_STATUS F.NWT_STATUS_IMAGE_SVN < 9 := by decide +kernel
def anchor1 : List Byte := [2, 1] ++ zeroBytes 6 ++ bytesOfNat 64 77
theorem test_meets_Anchor : anchor1.length = 72 ∧ leAt anchor1 0 1 = 2 ∧ leAt anchor1 1 1 = 1 ∧ leAt anchor1 2 6 = 0 ∧ leAt anchor1 8 64 ≠ 0
    ∧ up.newt.config.hasRole 1 = false ∧ ({ idle := 20 } : Policy).ok = true := by decide +kernel
theorem test_meets_Tls : up.newt.sessions.length < 8 ∧ up.newt.config.hasRole 1 = false ∧ up.enrolStrap = false
    ∧ (up.wr A.GLB_STRAPS F.GLB_STRAPS_ENROLL_EN 1).enrolStrap = true ∧ on.newtUp = false
    ∧ ({ anchors := [(2, ⟨1, 77⟩)] } : NvConfig).hasRole 1 = true
    ∧ ([(2, (⟨1, 77⟩ : Anchor))].find? (fun e => e.2.digest == 77 && e.2.role != 0)) = some (2, ⟨1, 77⟩) := by decide +kernel
theorem test_meets_Sessions : on.newt.sessions.find 2 = none ∧ (up.newt.sessions.find 2).isSome = true
    ∧ ((timed up (.session 2)).expire (.session 2)).isSome = true ∧ up.expire (.session 2) = none := by decide +kernel
def boxed : Chip := let s := up.wrB A.GLB_BOOT_STATUS F.GLB_BOOT_STATUS_READY true
  { s with regs := s.regs.setWord (A.NWT_HOST_BUF 0) (1 + 7 * 2 ^ 32) }
theorem test_meets_Mailbox : boxed.serves .pf A.NWT_HOST_CTL ∧ boxed.flag A.NWT_HOST_CTL F.NWT_HOST_CTL_BUSY = false ∧ boxed.newtUp = true
    ∧ (headOfBytes (boxed.hostBuf 16)).1 = mcIDENTIFY ∧ (headOfBytes (boxed.hostBuf 16)).2.fails [] = none ∧ boxed.recovering = false
    ∧ mcKnown 0xFE = false ∧ boxed.mailboxMay mcREG_WRITE = false ∧ mcKnown mcREG_WRITE = true := by decide +kernel
/-- R480: a command that the mailbox may not issue is answered ACCESS_DENIED. -/
theorem test_mailbox_denied : let t := nxt (.mailboxGo .pf) (st { boxed with regs := boxed.regs.setWord (A.NWT_HOST_BUF 0) (BitVec.ofNat 64 (mcSVN_ADVANCE + 7 * 2 ^ 32)) })
    t.flag A.NWT_HOST_CTL F.NWT_HOST_CTL_DONE = true ∧ t.rd A.NWT_HOST_CTL F.NWT_HOST_CTL_STATUS = Status.accessDenied.code
    ∧ t.rd A.NWT_HOST_CTL F.NWT_HOST_CTL_LENGTH = 16 := by decide +kernel
theorem test_meets_Sensor : (0xFFF0 : Nat) < 2 ^ 16 ∧ on.inEaves = false ∧ (inPower 2).inEaves = true ∧ (84 : Nat) ≤ (100 : Fin 340).val := by decide +kernel
/-- R481: the first reading, −16, sets VALUE, MIN and MAX. -/
theorem test_sensor : let t := nxt (.sensorPoll 3 0xFFF0 true) (st up)
    t.rd (A.NWT_SENSOR 3) F.NWT_SENSOR_VALUE = 0xFFF0 ∧ t.rd (A.NWT_SENSOR 3) F.NWT_SENSOR_MIN = 0xFFF0
    ∧ t.rd (A.NWT_SENSOR 3) F.NWT_SENSOR_MAX = 0xFFF0 := by decide +kernel
def logged : Chip := up.modNewt (fun w => { w with ring := [0], persisted := 0 })
theorem test_meets_LogCopies : up.newt.logSub = none ∧ up.newt.sampleSub = none ∧ up.newt.ring.filter (fun r => Nat.ble up.newt.persisted (recSeq r)) = []
    ∧ logged.newt.ring.filter (fun r => Nat.ble logged.newt.persisted (recSeq r)) = [0]
    ∧ 10000000 ≤ min 10000000000 (logged.newt.credit + (logged.raw - logged.newt.creditAt)) ∧ logged.newt.skipped = 0
    ∧ logged.newt.persist.length < 883872 ∧ up.samples = [] := by decide +kernel

end Sys2Proof.Tests
end

section
/-!
REGISTER_WRITE (spec/00_scope.md R10, spec/18_register_map.md R548). The fields of a register share no bit, so a write of a whole word
is the write of each field on its own.
-/
open Sys2Proof Sys2Proof.Machine
namespace Sys2Proof.Machine

/-! ### The fields of a register -/

/-- Two fields of one entry share no bit. -/
abbrev Fld.disjoint (f g : Fld) : Prop := f.lo + f.width ≤ g.lo ∨ g.lo + g.width ≤ f.lo

theorem Fld.disjoint_symm {f g : Fld} (h : f.disjoint g) : g.disjoint f := Or.symm h

/-- The bits of a register's fields do not depend on its indices: only reset values do. -/
theorem RegKind.fields_layout (k : RegKind) (i j : Nat) : (k.fields i j).map (·.fld) = (k.fields 0 0).map (·.fld) := by
  cases k <;> rfl

theorem RegKind.layout_positive (k : RegKind) : ∀ f ∈ (k.fields 0 0).map (·.fld), 0 < f.width := by
  cases k <;> decide

theorem RegKind.layout_disjoint (k : RegKind) : ((k.fields 0 0).map (·.fld)).Pairwise Fld.disjoint := by
  cases k <;> decide

theorem RegKind.words_pos (k : RegKind) : 0 < k.words := by cases k <;> decide

/-- Every field of a register has a bit. -/
theorem Loc.specs_positive (l : Loc) (f : FieldSpec) (h : f ∈ l.specs) : 0 < f.fld.width := by
  refine l.kind.layout_positive f.fld ?_
  rw [← l.kind.fields_layout l.i l.j]
  exact List.mem_map_of_mem h

/-- No two fields of a register share a bit. -/
theorem Loc.specs_disjoint (l : Loc) : l.specs.Pairwise (fun f g => f.fld.disjoint g.fld) := by
  have h := l.kind.layout_disjoint
  rw [← l.kind.fields_layout l.i l.j] at h
  exact List.pairwise_map.1 h

/-! ### A write of a whole word -/

theorem bits_ones (n lo width : Nat) (h : lo + width ≤ n) : bits (2 ^ n - 1) lo width = 2 ^ width - 1 := by
  apply Nat.eq_of_testBit_eq
  intro j
  rw [testBit_bits, Nat.testBit_two_pow_sub_one, Nat.testBit_two_pow_sub_one]
  by_cases hj : j < width
  · have : lo + j < n := by omega
    simp [hj, this]
  · simp [hj]

/-- A field that is written whole takes the new bits alone. -/
theorem mergeBits_ones (width old new : Nat) (h : new < 2 ^ width) : mergeBits width old (2 ^ width - 1) new = new := by
  have hc : complementOf width (2 ^ width - 1) = 0 := by
    unfold complementOf
    rw [Nat.mod_eq_of_lt (by have := Nat.two_pow_pos width; omega), Nat.sub_self]
  unfold mergeBits
  rw [hc, Nat.and_zero, Nat.zero_or, Nat.and_two_pow_sub_one_eq_mod, Nat.mod_eq_of_lt h]

/-- A write of all 64 bits of the first word of an entry. -/
structure WordWrite.whole (w : WordWrite) : Prop where
  word : w.loc.word = 0
  mask : w.mask = 2 ^ 64 - 1

section Whole
variable {w : WordWrite} {f : Fld} (hw : w.whole)
include hw

theorem WordWrite.dataOf_whole : w.dataOf f = bits w.data f.lo f.width := by
  simp only [WordWrite.dataOf, hw.word, Nat.mul_zero, Nat.shiftLeft_zero]

variable (hf : f.lo + f.width ≤ 64)
include hf

theorem WordWrite.maskOf_whole : w.maskOf f = 2 ^ f.width - 1 := by
  simp only [WordWrite.maskOf, hw.word, hw.mask, Nat.mul_zero, Nat.shiftLeft_zero, bits_ones 64 f.lo f.width hf]

theorem WordWrite.ones_whole : w.ones f = bits w.data f.lo f.width := by
  unfold WordWrite.ones
  rw [WordWrite.maskOf_whole hw hf, WordWrite.dataOf_whole hw, Nat.and_comm, Nat.and_two_pow_sub_one_eq_mod,
    Nat.mod_eq_of_lt (bits_lt _ _ _)]

theorem WordWrite.touches_whole (hpos : 0 < f.width) : w.touches f = true := by
  have h1 : 2 ^ 1 ≤ 2 ^ f.width := Nat.pow_le_pow_right (by omega) hpos
  rw [WordWrite.touches, WordWrite.maskOf_whole hw hf, bne_iff_ne]
  omega

end Whole

/-- What a field of an unlocked register that reads `old` holds after a write of `data` over all its bits (R10, R11). -/
def FieldSpec.written (f : FieldSpec) (old data : Nat) : Nat :=
  match f.acc with
  | .ro | .wo => old
  | .rw | .rwl => bits data f.fld.lo f.fld.width
  | .w1c => old &&& complementOf f.fld.width (bits data f.fld.lo f.fld.width)
  | .w1s => old ||| bits data f.fld.lo f.fld.width

theorem Chip.fieldAfter_whole (s : Chip) (w : WordWrite) (f : FieldSpec) (hw : w.whole) (hf : f.fld.lo + f.fld.width ≤ 64) :
    s.fieldAfter w f = bits w.data f.fld.lo f.fld.width := by
  unfold Chip.fieldAfter
  rw [WordWrite.maskOf_whole hw hf, WordWrite.dataOf_whole hw]
  exact mergeBits_ones _ _ _ (bits_lt _ _ _)

theorem Chip.rd_applyField_same (s : Chip) (w : WordWrite) (f : FieldSpec) (hw : w.whole) (hf : f.fld.lo + f.fld.width ≤ 64) :
    (s.applyField w false f).rd w.loc.base f.fld = f.written (s.rd w.loc.base f.fld) w.data := by
  have hold : s.rd w.loc.base f.fld < 2 ^ f.fld.width := s.rd_lt _ _
  have hnew : bits w.data f.fld.lo f.fld.width < 2 ^ f.fld.width := bits_lt _ _ _
  unfold Chip.applyField FieldSpec.written
  simp only [Chip.fieldAfter_whole s w f hw hf, WordWrite.ones_whole hw hf]
  cases f.acc with
  | ro => rfl
  | wo => rfl
  | rw => exact (Chip.rd_wr_same s _ _ _).trans (Nat.mod_eq_of_lt hnew)
  | rwl => exact (Chip.rd_wr_same s _ _ _).trans (Nat.mod_eq_of_lt hnew)
  | w1c => exact (Chip.rd_wr_same s _ _ _).trans (Nat.mod_eq_of_lt (lt_of_le_of_lt Nat.and_le_left hold))
  | w1s => exact (Chip.rd_wr_same s _ _ _).trans (Nat.mod_eq_of_lt (Nat.or_lt_two_pow hold hnew))

/-- The write of one field is a write of its bits, or none. -/
theorem Chip.applyField_cases (s : Chip) (w : WordWrite) (locked : Bool) (f : FieldSpec) :
    s.applyField w locked f = s ∨ ∃ v, s.applyField w locked f = s.wr w.loc.base f.fld v := by
  unfold Chip.applyField
  cases f.acc with
  | ro => exact .inl rfl
  | wo => exact .inl rfl
  | rw => exact .inr ⟨_, rfl⟩
  | rwl =>
    cases locked with
    | true => exact .inl rfl
    | false => exact .inr ⟨_, rfl⟩
  | w1c => exact .inr ⟨_, rfl⟩
  | w1s => exact .inr ⟨_, rfl⟩

theorem Chip.applyField_frame (s : Chip) (w : WordWrite) (locked : Bool) (f : FieldSpec) :
    s.applyField w locked f = { s with regs := (s.applyField w locked f).regs } := by
  obtain h | ⟨v, h⟩ := s.applyField_cases w locked f
  · rw [h]
  · rw [h]; rfl

theorem Chip.rd_applyField_disjoint (s : Chip) (w : WordWrite) (locked : Bool) (f : FieldSpec) (g : Fld) (h : f.fld.disjoint g) :
    (s.applyField w locked f).rd w.loc.base g = s.rd w.loc.base g := by
  obtain he | ⟨v, he⟩ := s.applyField_cases w locked f
  · rw [he]
  · rw [he, Chip.rd_wr_apart]
    unfold apart
    unfold Fld.disjoint at h
    omega

/-- Fields written one after the other change registers alone. -/
theorem Chip.applyFields_frame (s : Chip) (w : WordWrite) (locked : Bool) (l : List FieldSpec) :
    l.foldl (fun s f => s.applyField w locked f) s = { s with regs := (l.foldl (fun s f => s.applyField w locked f) s).regs } := by
  induction l generalizing s with
  | nil => rfl
  | cons f l ih =>
    rw [List.foldl_cons, ih, s.applyField_frame w locked f]

theorem Chip.rd_applyFields_disjoint (s : Chip) (w : WordWrite) (locked : Bool) (l : List FieldSpec) (g : Fld)
    (h : ∀ f ∈ l, f.fld.disjoint g) :
    (l.foldl (fun s f => s.applyField w locked f) s).rd w.loc.base g = s.rd w.loc.base g := by
  induction l generalizing s with
  | nil => rfl
  | cons f l ih =>
    rw [List.foldl_cons, ih _ (fun x hx => h x (List.mem_cons_of_mem f hx)),
      Chip.rd_applyField_disjoint s w locked f g (h f List.mem_cons_self)]

/-- Where no two fields share a bit, each holds what its own write leaves in it. -/
theorem Chip.rd_applyFields_mem (s : Chip) (w : WordWrite) (l : List FieldSpec) (f : FieldSpec) (hw : w.whole)
    (hl : l.Pairwise (fun f g => f.fld.disjoint g.fld)) (hmem : f ∈ l) (hf : f.fld.lo + f.fld.width ≤ 64) :
    (l.foldl (fun s f => s.applyField w false f) s).rd w.loc.base f.fld = f.written (s.rd w.loc.base f.fld) w.data := by
  induction l generalizing s with
  | nil => cases hmem
  | cons g l ih =>
    obtain ⟨hg, hl'⟩ := List.pairwise_cons.1 hl
    rw [List.foldl_cons]
    obtain rfl | hmem := List.mem_cons.1 hmem
    · rw [Chip.rd_applyFields_disjoint _ w false l f.fld (fun x hx => Fld.disjoint_symm (hg x hx)),
        Chip.rd_applyField_same s w f hw hf]
    · rw [ih _ hl' hmem, Chip.rd_applyField_disjoint s w false g f.fld (hg f hmem)]

/-- A whole write changes registers alone, and each field of the word under its own access type (R10, R548). -/
theorem Chip.applyWord_whole (s : Chip) (w : WordWrite) (hw : w.whole) :
    s.applyWord w false [] = { s with regs := (s.applyWord w false []).regs }
      ∧ ∀ f ∈ w.loc.specs, f.fld.lo + f.fld.width ≤ 64 →
          (s.applyWord w false []).rd w.loc.base f.fld = f.written (s.rd w.loc.base f.fld) w.data := by
  have hfields : Nat.blt w.loc.word w.loc.kind.words = true := by
    rw [Nat.blt_eq, hw.word]; exact w.loc.kind.words_pos
  unfold Chip.applyWord
  rw [if_pos hfields]
  refine ⟨Chip.applyFields_frame s w false _, fun f hmem hf => ?_⟩
  refine Chip.rd_applyFields_mem s w _ f hw (w.loc.specs_disjoint.filter _) ?_ hf
  simp [hmem, WordWrite.touches_whole hw hf (w.loc.specs_positive f hmem)]

/-- A write that no rule discards anything of stores its fields and starts what it starts (R548). -/
theorem Chip.writeFields_accepted (s : Chip) (src : Source) (w : WordWrite) (off : Nat) (hleft : s.leftOut src w = [])
    (hwhole : s.wholeFails (s.applyWord w (s.lockedAt w.loc) []) w = none) :
    s.writeFields src w off = (s.applyWord w (s.lockedAt w.loc) []).afterWrite s src w [] := by
  unfold Chip.writeFields
  simp only [hleft, List.map_nil, hwhole, List.any_nil, List.filter_false, List.foldl_nil]

/-- A 64-bit write of a served register that is neither owner bytes nor the curve, by a source that may write it now. -/
theorem Chip.busWrite_whole (s : Chip) (src : Source) (image : Bool) (l : Loc) (off data : Nat)
    (hsite : s.site off = some ⟨l, off, false⟩) (hword : l.word = 0) (h8 : off % 8 = 0) (hdata : data < 2 ^ 64)
    (hserves : s.serves src off) (hpart : src.part = none) (hmay : s.mayWrite src image l = true)
    (hnow : s.notNow ⟨l, off, data, 2 ^ 64 - 1⟩ = none) (hunit : (l.unit 0).isSome = false) (hcurve : l.kind ≠ .pceCurve) :
    s.busWrite src image off 8 data = s.writeFields src ⟨l, off, data, 2 ^ 64 - 1⟩ off := by
  obtain ⟨hdeaf, hun⟩ := hserves
  have hwidth : writeWidthOk (some l.kind) off 8 = true := by simp [writeWidthOk, h8]
  have hentry : off / 8 * 8 - 8 * l.word = off := by rw [hword]; omega
  have hbus : s.busWrite src image off 8 data = s.writeWord src image ⟨l, off, false⟩ off data (2 ^ 64 - 1) := by
    have hmod : data % 18446744073709551616 = data := Nat.mod_eq_of_lt hdata
    unfold Chip.busWrite
    simp [hsite, hdeaf, hpart, hwidth, hun, h8, hmod]
  rw [hbus]
  unfold Chip.writeWord
  simp only [hmay, Bool.not_true, Bool.false_eq_true, if_false, hnow, hunit, beq_eq_false_iff_ne.2 hcurve, hentry]

theorem exec_registerWrite (src : Source) (off bytes data : Nat) (s : State) :
    exec (.registerWrite src off bytes data) s = .next (s.after (s.busWrite src (src == .newt) off bytes data)) := rfl

/-- Settles O8: the write is a whole write of a word whose fields lie apart, so each is written under its own access type. -/
theorem registerWriteByAccessType : Obligations.RegisterWriteByAccessType := by
  unfold Obligations.RegisterWriteByAccessType
  intro src l off data s w hsite hbase hword h8 hdata hserves hpart hmay hnow hunit hcurve hleft hwhole hlock
  have hw : w.whole := ⟨hword, rfl⟩
  obtain ⟨hframe, hfields⟩ := s.toChip.applyWord_whole w hw
  refine ⟨s.applyWord w false [], ?_, hframe, fun f hmem hf => ?_⟩
  · have hbus := s.toChip.busWrite_whole src (src == .newt) l off data hsite hword h8 hdata hserves hpart hmay hnow hunit hcurve
    have hacc := s.toChip.writeFields_accepted src w off hleft hwhole
    have hlock' : s.lockedAt w.loc = false := hlock
    rw [hlock'] at hacc
    rw [exec_registerWrite, hbus, hacc]
  · have h := hfields f hmem hf
    rw [show w.loc.base = off from hbase] at h
    exact h

end Sys2Proof.Machine
end

section
/-!
Registers off a set of keys: words at other keys read as before and are listed as before. Used for what a tray's status and the error
log leave alone: owners, ranges and the active version.
-/
open Sys2Proof Sys2Proof.Machine
namespace Sys2Proof.Machine

theorem Tab.filter_put {β : Type} (t : Tab β) (k : Nat) (v : β) (p : Nat × β → Bool) (h : ∀ x, p (k, x) = false) :
    (t.put k v).filter p = List.filter p t := by
  induction t with
  | nil => simp [Tab.put, h]
  | cons e t ih =>
    obtain ⟨a, x⟩ := e
    simp only [Tab.put]
    split
    · simp [h]
    · split
      · next hk => subst hk; simp [h]
      · simp only [List.filter_cons, ih]

theorem Tab.filter_erase {β : Type} (t : Tab β) (k : Nat) (p : Nat × β → Bool) (h : ∀ x, p (k, x) = false) :
    (t.erase k).filter p = List.filter p t := by
  induction t with
  | nil => rfl
  | cons e t ih =>
    obtain ⟨a, x⟩ := e
    simp only [Tab.erase]
    split
    · next hk => subst hk; simp [h, ih]
    · simp only [List.filter_cons, ih]

theorem Tab.find_filter_key {β : Type} (t : Tab β) (K : Nat → Bool) (k : Nat) (h : K k = true) :
    Tab.find (t.filter (fun e => K e.1)) k = t.find k := by
  induction t with
  | nil => rfl
  | cons e t ih =>
    obtain ⟨a, x⟩ := e
    by_cases ha : K a = true
    · simp only [List.filter_cons, ha, if_true, Tab.find, ih]
    · have hk : k ≠ a := fun he => ha (he ▸ h)
      simp only [List.filter_cons, ha, if_false, Tab.find, hk, ih, Bool.false_eq_true]

/-- The register file without the words at the keys of `K`. -/
def RegFile.off (K : Nat → Bool) (r : RegFile) : RegFile := r.filter (fun e => !K e.1)

section Off
variable {K : Nat → Bool} (r : RegFile)

theorem RegFile.setWord_off (a : Nat) (w : Word) (h : K a = true) : (r.setWord a w).off K = r.off K := by
  unfold RegFile.off RegFile.setWord Tab.set
  split
  · exact Tab.filter_erase r a _ (fun _ => by simp [h])
  · exact Tab.filter_put r a w _ (fun _ => by simp [h])

theorem RegFile.setSpan_off (a n v : Nat) (h : ∀ i, i < n → K (a + 8 * i) = true) : (r.setSpan a n v).off K = r.off K := by
  induction n generalizing r a v with
  | zero => rfl
  | succ n ih =>
    rw [RegFile.setSpan, ih _ _ _ fun i hi => ?_, RegFile.setWord_off r a _ (h 0 (by omega))]
    have := h (i + 1) (by omega)
    rwa [show a + 8 * (i + 1) = a + 8 + 8 * i by omega] at this

theorem RegFile.set_off (a : Nat) (f : Fld) (v : Nat) (h : ∀ i, i < f.span → K (a + 8 * (f.lo / 64) + 8 * i) = true) :
    (r.set a f v).off K = r.off K := RegFile.setSpan_off r _ _ _ h

theorem RegFile.word_off (a : Nat) (h : K a = false) : (r.off K).word a = r.word a := by
  unfold RegFile.word Tab.get RegFile.off
  rw [Tab.find_filter_key r (fun k => !K k) a (by simp [h])]

theorem RegFile.span_off (a n : Nat) (h : ∀ i, i < n → K (a + 8 * i) = false) : (r.off K).span a n = r.span a n := by
  induction n generalizing a with
  | zero => rfl
  | succ n ih =>
    rw [RegFile.span_succ, RegFile.span_succ, RegFile.word_off r a (h 0 (by omega)), ih (a + 8) fun i hi => ?_]
    have := h (i + 1) (by omega)
    rwa [show a + 8 * (i + 1) = a + 8 + 8 * i by omega] at this

theorem RegFile.get_off (a : Nat) (f : Fld) (h : ∀ i, i < f.span → K (a + 8 * (f.lo / 64) + 8 * i) = false) :
    (r.off K).get a f = r.get a f := by
  unfold RegFile.get
  rw [RegFile.span_off r _ _ h]

theorem RegFile.keysIn_off (lo hi : Nat) (h : ∀ k, lo ≤ k → k < hi → K k = false) :
    Tab.keysIn (r.off K) lo hi = Tab.keysIn r lo hi := by
  unfold Tab.keysIn RegFile.off
  rw [List.filter_filter]
  congr 1
  refine List.filter_congr fun e _ => ?_
  by_cases hr : (Nat.ble lo e.1 && Nat.blt e.1 hi) = true
  · rw [Bool.and_eq_true, Nat.ble_eq, Nat.blt_eq] at hr
    simp [h e.1 hr.1 hr.2]
  · rw [Bool.not_eq_true] at hr
    simp [hr]

end Off

/-- The keys of the tray status registers and of the block of error registers. -/
def statusKey (k : Nat) : Bool := decide ((0xC00100 ≤ k ∧ k < 0xC00200) ∨ (0x1800000 ≤ k ∧ k < 0x1A00000))

theorem statusKey_false {k : Nat} (h : k < 0xC00100 ∨ (0xC00200 ≤ k ∧ k < 0x1800000) ∨ 0x1A00000 ≤ k) : statusKey k = false :=
  decide_eq_false (by omega)

theorem statusKey_true {k : Nat} (h : (0xC00100 ≤ k ∧ k < 0xC00200) ∨ (0x1800000 ≤ k ∧ k < 0x1A00000)) : statusKey k = true :=
  decide_eq_true h

/-- The registers of the part but for tray statuses and error registers. -/
def Chip.steadyRegs (s : Chip) : RegFile := s.regs.off statusKey

/-- A record of the error log keeps them. -/
theorem Chip.steadyRegs_log (s : Chip) (r : LogRec) : (s.log r).steadyRegs = s.steadyRegs := by
  have hroom : s.logRoom.steadyRegs = s.steadyRegs := by
    unfold Chip.logRoom
    split
    · refine (RegFile.set_off _ _ _ _ fun i hi => ?_).trans (RegFile.set_off _ _ _ _ fun i hi => ?_)
      · simp only [Fld.span, F.ERR_HOST_TAIL_TAIL] at hi
        simp only [A.ERR_HOST_TAIL, F.ERR_HOST_TAIL_TAIL]
        exact statusKey_true (by omega)
      · simp only [Fld.span, F.ERR_STATUS_HOST_LOST] at hi
        simp only [A.ERR_STATUS, F.ERR_STATUS_HOST_LOST]
        exact statusKey_true (by omega)
    · rfl
  have hput : ∀ t : Chip, (t.logPut r).steadyRegs = t.steadyRegs := fun t => by
    refine (RegFile.set_off _ _ _ _ fun i hi => ?_).trans (RegFile.setSpan_off _ _ _ _ fun i hi => ?_)
    · simp only [Fld.span, F.ERR_STATUS_HEAD] at hi
      simp only [A.ERR_STATUS, F.ERR_STATUS_HEAD]
      exact statusKey_true (by omega)
    · have : t.errSeq % 4096 < 4096 := Nat.mod_lt _ (by omega)
      simp only [A.ERR_LOG]
      exact statusKey_true (by omega)
  rw [Chip.log, hput, hroom]

/-- A write of a field of a tray's status keeps them. -/
theorem Chip.steadyRegs_wr_tray (s : Chip) (n : Nat) (f : Fld) (v : Nat) (hn : n < 32) (hf : f.lo + f.width ≤ 64) :
    (s.wr (A.TIR_TRAY_STATUS n) f v).steadyRegs = s.steadyRegs := by
  refine RegFile.set_off _ _ _ _ fun i hi => ?_
  unfold Fld.span at hi
  unfold A.TIR_TRAY_STATUS
  exact statusKey_true (by omega)

section Steady
variable {s t : Chip} (h : t.steadyRegs = s.steadyRegs)
include h

theorem Chip.word_steady (a : Nat) (ha : statusKey a = false) : t.regs.word a = s.regs.word a := by
  rw [← RegFile.word_off t.regs a ha, ← RegFile.word_off s.regs a ha]
  exact congrArg (fun r => RegFile.word r a) h

theorem Chip.rd_steady (a : Nat) (f : Fld) (ha : ∀ i, i < f.span → statusKey (a + 8 * (f.lo / 64) + 8 * i) = false) :
    t.rd a f = s.rd a f := by
  unfold Chip.rd
  rw [← RegFile.get_off t.regs a f ha, ← RegFile.get_off s.regs a f ha]
  exact congrArg (fun r => RegFile.get r a f) h

theorem Chip.owner_steady (a : Nat) (ha : statusKey (a / 8 * 8) = false) : t.owner a = s.owner a := by
  unfold Chip.owner Chip.ownerHalf
  rw [Chip.word_steady h _ ha]

theorem Chip.active_steady : t.active = s.active :=
  Chip.rd_steady h _ _ fun i hi => statusKey_false (by
    simp only [Fld.span, F.RTE_EPOCH_ACTIVE] at hi
    simp only [A.RTE_EPOCH, F.RTE_EPOCH_ACTIVE]
    omega)

theorem Chip.homedRanges_steady (v : Nat) : t.homedRanges v = s.homedRanges v := by
  have hlisted : t.listed (A.PTN_RANGE v 0) 64 4096 = s.listed (A.PTN_RANGE v 0) 64 4096 := by
    have hkeys : ∀ k, A.PTN_RANGE v 0 ≤ k → k < A.PTN_RANGE v 0 + 64 * 4096 → statusKey k = false := fun k hk _ =>
      statusKey_false (by unfold A.PTN_RANGE at hk; omega)
    unfold Chip.listed
    rw [← RegFile.keysIn_off t.regs _ _ hkeys, ← RegFile.keysIn_off s.regs _ _ hkeys]
    exact congrArg (fun r => distinct ((Tab.keysIn r _ _).map _)) h
  have hrd : ∀ (i : Nat) (f : Fld), t.rd (A.PTN_RANGE v i) f = s.rd (A.PTN_RANGE v i) f := fun i f =>
    Chip.rd_steady h _ _ fun j _ => statusKey_false (by unfold A.PTN_RANGE; omega)
  unfold Chip.homedRanges
  simp only [hlisted, hrd]

theorem Chip.trayOwners_steady (n : Nat) (hn : n < 32) : t.trayOwners n = s.trayOwners n := by
  have hdram : ∀ ch ∈ upFrom 0 16, t.owner (A.PTN_OWN_DRAM 0 + 2 * (16 * n + ch)) = s.owner (A.PTN_OWN_DRAM 0 + 2 * (16 * n + ch)) :=
    fun ch hch => Chip.owner_steady h _ (statusKey_false (by
      have := (List.mem_range'_1.1 hch).2; unfold A.PTN_OWN_DRAM; omega))
  have hflash : ∀ ch ∈ upFrom 0 32, t.owner (A.PTN_OWN_FLASH 0 + 2 * (32 * n + ch)) = s.owner (A.PTN_OWN_FLASH 0 + 2 * (32 * n + ch)) :=
    fun ch hch => Chip.owner_steady h _ (statusKey_false (by
      have := (List.mem_range'_1.1 hch).2; unfold A.PTN_OWN_FLASH; omega))
  have hall : t.owner (A.PTN_OWN_TRAYC 0 + 2 * n) = s.owner (A.PTN_OWN_TRAYC 0 + 2 * n) :=
    Chip.owner_steady h _ (statusKey_false (by unfold A.PTN_OWN_TRAYC; omega))
  unfold Chip.trayOwners
  rw [List.filterMap_congr hdram, List.filterMap_congr hflash, hall]

end Steady

end Sys2Proof.Machine
end

section
/-!
Trays that fall silent (spec/03_pool_and_tiers.md R90, R93, R117, R119): the loss of a tray, its messages, its timers and the timer of its
port.
-/
open Sys2Proof Sys2Proof.Machine
namespace Sys2Proof.Machine

/-! ### Nothing under way -/

/-- The tier manager has nothing to try where no operation waits. -/
theorem Chip.tierPump_of_no_ops (s : Chip) (h : s.pool.ops = []) : s.tierPump = s := by
  simp [Chip.tierPump, h]

theorem Chip.homeStep_of_quiet (s : Chip) (h : s.homeQuiet) : s.homeStep = none := by
  obtain ⟨htxns, hwaits, hdone⟩ := h
  simp [Chip.homeStep, htxns, hwaits, hdone]

theorem Chip.homeSettle_of_quiet (s : Chip) (h : s.homeQuiet) : s.homeSettle = s := by
  have hrun : ∀ n, s.homeRun n = s := fun n => by
    cases n with
    | zero => rfl
    | succ n => rw [Chip.homeRun, Chip.homeStep_of_quiet s h]
  exact hrun _

/-- A packet of a class that is not routed is not counted at the destination edge. -/
theorem Chip.flowApplied_of_unrouted (s : Chip) (p : Packet) (h : classRouted p.cls = false) : s.flowApplied p = s := by
  simp [Chip.flowApplied, h]

theorem Chip.consume_of_accepts (s : Chip) (p : Packet) (f : Chip → Chip) (h : s.accepts p) :
    s.consume p f = (f (s.taken p)).flowApplied p := by
  have h' : (s.takeLocal p).2 = true := h
  unfold Chip.consume Chip.taken
  simp only [h', if_true]

/-! ### Timers -/

theorem Chip.running_stopTimer_same (s : Chip) (t : Timer) : (s.stopTimer t).running t = false := by
  simp [Chip.stopTimer, Chip.running]

theorem Chip.running_stopTimer_of_stopped (s : Chip) (t u : Timer) (h : s.running t = false) : (s.stopTimer u).running t = false := by
  simp only [Chip.running, List.any_eq_false] at h ⊢
  exact fun e he => h e (List.mem_of_mem_filter he)

/-! ### A tray that is lost -/

theorem Chip.tray_modTray_same (s : Chip) (n : Nat) (f : Tray → Tray) : (s.modTray n f).tray n = f (s.tray n) := by
  unfold Chip.modTray Chip.modPool Chip.tray
  rw [Tab.find_put_same, Option.getD_some]

/-- Telling the command that waits for a tray changes the trays' records and the jobs' answers alone. -/
theorem Chip.tellCommand_frame (s : Chip) (n : Nat) (st : Status) :
    ∃ trays told, s.tellCommand n st = { s with pool := { s.pool with trays := trays, cmdDone := told } } := by
  unfold Chip.tellCommand
  split
  · exact ⟨_, _, rfl⟩
  · exact ⟨_, _, rfl⟩

theorem Chip.tellCommand_regs (s : Chip) (n : Nat) (st : Status) : (s.tellCommand n st).regs = s.regs := by
  obtain ⟨_, _, h⟩ := s.tellCommand_frame n st
  rw [h]

theorem Chip.tellCommand_errSeq (s : Chip) (n : Nat) (st : Status) : (s.tellCommand n st).errSeq = s.errSeq := by
  obtain ⟨_, _, h⟩ := s.tellCommand_frame n st
  rw [h]

theorem Chip.tellCommand_pool (s : Chip) (n : Nat) (st : Status) :
    ∃ trays told, (s.tellCommand n st).pool = { s.pool with trays := trays, cmdDone := told } := by
  obtain ⟨trays, told, h⟩ := s.tellCommand_frame n st
  exact ⟨trays, told, by rw [h]⟩

/-- Tray `n` reads LOST and LOST_SEEN, and Newt has the event. -/
def Chip.markLost (s : Chip) (n : Nat) : Chip :=
  (s.wrB (A.TIR_TRAY_STATUS n) F.TIR_TRAY_STATUS_LOST_SEEN true).setTrayState n trayLOST

/-- Tray `n` marked as lost, its command told, and its profile, binding and absence ended: what `Chip.loseTray` does first. -/
def Chip.detached (s : Chip) (n : Nat) : Chip :=
  let s := (s.markLost n).tellCommand n .portDown
  let s := s.modTray n (fun t => { t with running := false, binds := [], owed := 0, loading := false })
  ((s.stopTimer (.profile n)).stopTimer (.binding n)).stopTimer (.absence (s.tray n).port)

/-- The record of a tray's loss. -/
def lossRecord (n port : Nat) : LogRec :=
  { status := .portDown, subsys := .tierManager, addrKind := 4, addr := A.TIR_TRAY_STATUS n, port := port, fault := true }

theorem Chip.markLost_eq (s : Chip) (n : Nat) :
    s.markLost n = ((s.wrB (A.TIR_TRAY_STATUS n) F.TIR_TRAY_STATUS_LOST_SEEN true).wr (A.TIR_TRAY_STATUS n)
      F.TIR_TRAY_STATUS_STATE trayLOST).trayEvent n := rfl

theorem Chip.markLost_pool (s : Chip) (n : Nat) : (s.markLost n).pool = s.pool := by
  rw [Chip.markLost_eq, Chip.trayEvent, Chip.newtEvent_pool, Chip.wr_pool, Chip.wrB_pool]

theorem Chip.markLost_errSeq (s : Chip) (n : Nat) : (s.markLost n).errSeq = s.errSeq + 1 := by
  rw [Chip.markLost_eq, Chip.trayEvent, Chip.newtEvent_errSeq, Chip.wr_errSeq, Chip.wrB_errSeq]

theorem Chip.markLost_steadyRegs (s : Chip) (n : Nat) (hn : n < 32) : (s.markLost n).steadyRegs = s.steadyRegs := by
  rw [Chip.markLost_eq, Chip.trayEvent, Chip.newtEvent, Chip.steadyRegs_log, Chip.steadyRegs_wr_tray _ _ _ _ hn (by decide),
    Chip.wrB, Chip.steadyRegs_wr_tray _ _ _ _ hn (by decide)]

/-- A tray's status lies outside the block of error registers. -/
theorem notErr_TIR_TRAY_STATUS (n : Nat) (f : Fld) (hn : n < 32) (hf : f.lo + f.width ≤ 64) : notErr (A.TIR_TRAY_STATUS n) f := by
  unfold notErr A.TIR_TRAY_STATUS
  omega

theorem Chip.markLost_trayState (s : Chip) (n : Nat) (hn : n < 32) : (s.markLost n).trayState n = trayLOST := by
  rw [Chip.markLost_eq, Chip.trayState, Chip.trayEvent, Chip.newtEvent,
    Chip.log_rd_other _ _ _ _ (notErr_TIR_TRAY_STATUS n _ hn (by decide)), Chip.rd_wr_same]
  rfl

theorem Chip.markLost_lostSeen (s : Chip) (n : Nat) (hn : n < 32) :
    (s.markLost n).flag (A.TIR_TRAY_STATUS n) F.TIR_TRAY_STATUS_LOST_SEEN = true := by
  rw [Chip.markLost_eq, Chip.trayEvent, Chip.newtEvent,
    Chip.log_flag_other _ _ _ _ (notErr_TIR_TRAY_STATUS n _ hn (by decide)), Chip.flag_wr_apart, Chip.flag_wrB_same _ _ _ _ (by decide)]
  unfold apart F.TIR_TRAY_STATUS_STATE F.TIR_TRAY_STATUS_LOST_SEEN
  simp only
  omega

theorem Chip.detached_regs (s : Chip) (n : Nat) : (s.detached n).regs = (s.markLost n).regs := by
  simp only [Chip.detached, Chip.stopTimer_regs, Chip.modTray, Chip.modPool_regs, Chip.tellCommand_regs]

theorem Chip.detached_errSeq (s : Chip) (n : Nat) : (s.detached n).errSeq = s.errSeq + 1 := by
  simp only [Chip.detached, Chip.stopTimer_errSeq, Chip.modTray, Chip.modPool_errSeq, Chip.tellCommand_errSeq, Chip.markLost_errSeq]

theorem Chip.detached_pool (s : Chip) (n : Nat) :
    ∃ trays told, (s.detached n).pool = { s.pool with trays := trays, cmdDone := told } := by
  obtain ⟨trays, told, h⟩ := (s.markLost n).tellCommand_pool n .portDown
  simp only [Chip.detached, Chip.stopTimer_pool, Chip.modTray, Chip.modPool_pool, h, Chip.markLost_pool]
  exact ⟨_, _, rfl⟩

theorem Chip.detached_tray_running (s : Chip) (n : Nat) : ((s.detached n).tray n).running = false := by
  have h : ∀ (u : Chip) (x y z : Timer), (((u.stopTimer x).stopTimer y).stopTimer z).tray n = u.tray n := fun _ _ _ _ => rfl
  unfold Chip.detached
  rw [h, Chip.tray_modTray_same]

theorem Chip.detached_profile_stopped (s : Chip) (n : Nat) : (s.detached n).running (.profile n) = false := by
  unfold Chip.detached
  apply Chip.running_stopTimer_of_stopped
  apply Chip.running_stopTimer_of_stopped
  apply Chip.running_stopTimer_same

theorem Chip.detached_binding_stopped (s : Chip) (n : Nat) : (s.detached n).running (.binding n) = false := by
  unfold Chip.detached
  apply Chip.running_stopTimer_of_stopped
  apply Chip.running_stopTimer_same

/-- A tray that is ABSENT or LOST already is not lost (R117). -/
theorem Chip.loseTray_of_gone (s : Chip) (n : Nat) (h : s.trayState n = trayABSENT ∨ s.trayState n = trayLOST) : s.loseTray n = s := by
  unfold Chip.loseTray
  rw [if_pos (by simpa using h)]

theorem Chip.redirectRanges_of_none (s : Chip) (n : Nat) (h : s.homedRanges s.active = []) : s.redirectRanges n = s := by
  simp [Chip.redirectRanges, h]

/-- The loss of a tray that nothing uses: it is detached, and the loss recorded. -/
theorem Chip.loseTray_of_unused (s : Chip) (n : Nat) (hn : n < 32) (habsent : s.trayState n ≠ trayABSENT)
    (hlost : s.trayState n ≠ trayLOST) (htops : s.pool.tops = []) (hops : s.pool.ops = []) (hquiet : s.homeQuiet)
    (hranges : s.homedRanges s.active = []) (howners : s.trayOwners n = []) :
    s.loseTray n = (s.detached n).log (lossRecord n ((s.detached n).tray n).port) := by
  obtain ⟨_, _, hpool⟩ := s.detached_pool n
  have hsteady : (s.detached n).steadyRegs = s.steadyRegs :=
    (congrArg (RegFile.off statusKey) (s.detached_regs n)).trans (s.markLost_steadyRegs n hn)
  have hnone : ∀ t : Chip, t.steadyRegs = s.steadyRegs → t.homedRanges t.active = [] := fun t ht => by
    rw [Chip.homedRanges_steady ht, Chip.active_steady ht, hranges]
  have hlog : ∀ r, ((s.detached n).log r).steadyRegs = s.steadyRegs := fun r => ((s.detached n).steadyRegs_log r).trans hsteady
  have hpresent : ¬ (s.trayState n == trayABSENT || s.trayState n == trayLOST) = true := by simp [habsent, hlost]
  unfold Chip.loseTray
  rw [if_neg hpresent]
  extract_lets marked told stopped gone flushed redirected port recorded faulted
  have hgone : gone = s.detached n := rfl
  clear_value gone
  subst hgone
  have hflushed : flushed = s.detached n := by
    have hnil : (s.detached n).pool.tops.filter (fun e => e.2.tray == n) = [] := by rw [hpool]; simp [htops]
    simp only [flushed, hnil, List.foldl_nil]
  have hredirected : redirected = s.detached n := by
    simp only [redirected, hflushed, Chip.redirectRanges_of_none _ n (hnone _ hsteady)]
  have hrecorded : recorded = (s.detached n).log (lossRecord n ((s.detached n).tray n).port) := by
    simp only [recorded, port, hredirected, lossRecord]
  have hfaulted : faulted = recorded := by
    have howners' : recorded.trayOwners n = [] := by rw [hrecorded, Chip.trayOwners_steady (hlog _) n hn, howners]
    have hranges' : recorded.homedRanges recorded.active = [] := by rw [hrecorded, hnone _ (hlog _)]
    simp only [faulted, howners', hranges', List.filter_nil, List.map_nil, List.append_nil, distinct, List.foldl_nil]
  rw [hfaulted, hrecorded, Chip.tierPump_of_no_ops, Chip.homeSettle_of_quiet]
  · rw [Chip.homeQuiet, Chip.log_pool, hpool]; exact hquiet
  · rw [Chip.log_pool, hpool]; exact hops

/-- What the loss of a tray that nothing uses leaves: LOST with LOST_SEEN, no profile and no binding, and two records. -/
theorem Chip.loseTray_unused_reads (s : Chip) (n : Nat) (hn : n < 32) (habsent : s.trayState n ≠ trayABSENT)
    (hlost : s.trayState n ≠ trayLOST) (htops : s.pool.tops = []) (hops : s.pool.ops = []) (hquiet : s.homeQuiet)
    (hranges : s.homedRanges s.active = []) (howners : s.trayOwners n = []) :
    (s.loseTray n).trayState n = trayLOST ∧ (s.loseTray n).flag (A.TIR_TRAY_STATUS n) F.TIR_TRAY_STATUS_LOST_SEEN = true
      ∧ ((s.loseTray n).tray n).running = false ∧ (s.loseTray n).running (.profile n) = false
      ∧ (s.loseTray n).running (.binding n) = false ∧ (s.loseTray n).errSeq = s.errSeq + 2 := by
  rw [s.loseTray_of_unused n hn habsent hlost htops hops hquiet hranges howners]
  generalize lossRecord n ((s.detached n).tray n).port = r
  have hrunning : ∀ t, ((s.detached n).log r).running t = (s.detached n).running t := fun t => by
    rw [Chip.running, Chip.log_timers, ← Chip.running]
  refine ⟨?_, ?_, ?_, ?_, ?_, ?_⟩
  · rw [Chip.trayState, Chip.log_rd_other _ _ _ _ (notErr_TIR_TRAY_STATUS n _ hn (by decide)), Chip.rd, Chip.detached_regs]
    exact s.markLost_trayState n hn
  · rw [Chip.log_flag_other _ _ _ _ (notErr_TIR_TRAY_STATUS n _ hn (by decide)), Chip.flag, Chip.rd, Chip.detached_regs]
    exact s.markLost_lostSeen n hn
  · rw [Chip.tray, Chip.log_pool, ← Chip.tray, Chip.detached_tray_running]
  · rw [hrunning, Chip.detached_profile_stopped]
  · rw [hrunning, Chip.detached_binding_stopped]
  · rw [Chip.log_errSeq, Chip.detached_errSeq]

/-! ### Messages of a tray -/

theorem Chip.trayMessage_of_malformed (s : Chip) (n b : Nat) (h : trayMsgOk b = false) :
    s.trayMessage n b
      = s.log { status := .formatInvalid, subsys := .tierManager, addrKind := 4, addr := A.TIR_TRAY_STATUS n } := by
  simp [Chip.trayMessage, h]

/-- A well-formed message of code 5 is a BIND_ACK (Table 3.14). -/
theorem Chip.trayMessage_of_bindAck (s : Chip) (n b : Nat) (h : trayMsgOk b = true) (hcode : bits b 0 8 = 5) :
    s.trayMessage n b = s.bindAck n (bitAt b 8) (bits b 16 256) := by
  simp [Chip.trayMessage, h, hcode]

theorem Chip.bindAck_of_last (s : Chip) (n : Nat) (flash : Bool) (tags : Nat) (h : (s.tray n).binds = [(flash, tags)]) :
    s.bindAck n flash tags = (s.modTray n (fun t => { t with binds := [] })).stopTimer (.binding n) := by
  simp [Chip.bindAck, h]

theorem Chip.bindAck_of_other (s : Chip) (n : Nat) (b : Bool × Nat) (rest : List (Bool × Nat)) (flash : Bool) (tags : Nat)
    (h : (s.tray n).binds = b :: rest) (hb : b ≠ (flash, tags)) : s.bindAck n flash tags = s.loseTray n := by
  simp [Chip.bindAck, h, hb]

theorem exec_trayMsgReceive (n : Fin 32) (p : Packet) (s : State) :
    exec (.trayMsgReceive n p) s = .next (s.after (s.toChip.consume p (fun s => s.trayMessage n.val p.body))) := rfl

/-- A TRAY_MSG is not routed, so nothing is counted once it is applied. -/
theorem exec_trayMsgReceive_of_accepts (n : Fin 32) (p : Packet) (s : State) (h : s.accepts p) (hcls : p.cls = clsTRAY_MSG) :
    exec (.trayMsgReceive n p) s = .next (s.after ((s.taken p).trayMessage n.val p.body)) := by
  rw [exec_trayMsgReceive, Chip.consume_of_accepts _ _ _ h, Chip.flowApplied_of_unrouted]
  rw [hcls]
  rfl

/-! ### Timers of a tray and of a port -/

theorem exec_bindAckTimeout (n : Fin 32) (s : State) : exec (.bindAckTimeout n) s = .next (s.after (s.bindExpired n.val)) := rfl

theorem exec_profileTimerExpiry (n : Fin 32) (s : State) :
    exec (.profileTimerExpiry n) s = .next (s.after (s.profileExpired n.val)) := rfl

theorem exec_portAbsenceTimeout (n : Fin 128) (s : State) :
    exec (.portAbsenceTimeout n) s = .next (s.after (s.absenceExpired n.val)) := rfl

theorem exec_replicaCopyDone (base : Nat) (s : State) :
    exec (.replicaCopyDone base) s = .next (s.after (s.replicaCopied base)) := rfl

/-- The profile's timer started where entry `a` names one, and the profile in the entry's next state. -/
def Chip.takeEntry (s : Chip) (n a : Nat) : Chip :=
  let p := s.trayProfile n
  let s := s.modTray n (fun t => { t with pstate := s.rd a F.TIR_PROF_NEXT })
  let k := s.rd a F.TIR_PROF_TIMER
  if s.profileTimer p k != 0 then s.startTimer (.profile n) (us (s.profileTimer p k)) else s

/-- Taking an entry changes the tray's profile state and the timers alone. -/
theorem Chip.takeEntry_cases (s : Chip) (n a : Nat) :
    ∃ timers, s.takeEntry n a = { s.modTray n (fun t => { t with pstate := s.rd a F.TIR_PROF_NEXT }) with timers := timers } := by
  unfold Chip.takeEntry
  dsimp only
  split
  · exact ⟨_, rfl⟩
  · exact ⟨_, rfl⟩

/-- An event that an entry without an action matches moves the profile on, and does no more (R90). -/
theorem Chip.profileEvent_of_entry (s : Chip) (n ev code a : Nat) (hrun : (s.tray n).running = true)
    (hentry : s.profileEntry (s.trayProfile n) (s.tray n).pstate ev code = some a) (hact : s.rd a F.TIR_PROF_ACTION = 0) :
    s.profileEvent n ev code = s.takeEntry n a := by
  have hact' : (s.takeEntry n a).rd a F.TIR_PROF_ACTION = 0 := by
    obtain ⟨_, h⟩ := s.takeEntry_cases n a
    rw [h]
    exact hact
  have hnone : ∀ (t : Chip) (arg : Nat), t.profileAction n 0 arg = (t, none) := fun _ _ => rfl
  unfold Chip.profileEvent Chip.profileRun
  simp only [hrun, Bool.not_true, Bool.false_eq_true, if_false, hentry]
  rw [← Chip.takeEntry]
  simp only [hact', hnone]

theorem Chip.tray_of_pool {s t : Chip} (h : t.pool = s.pool) (n : Nat) : t.tray n = s.tray n := by
  unfold Chip.tray
  rw [h]

theorem Chip.takeEntry_tray (s : Chip) (n a : Nat) :
    (s.takeEntry n a).tray n = { s.tray n with pstate := s.rd a F.TIR_PROF_NEXT } := by
  obtain ⟨_, h⟩ := s.takeEntry_cases n a
  have hpool : (s.takeEntry n a).pool = (s.modTray n (fun t => { t with pstate := s.rd a F.TIR_PROF_NEXT })).pool := by rw [h]
  rw [Chip.tray_of_pool hpool, Chip.tray_modTray_same]

theorem Chip.takeEntry_frame (s : Chip) (n a : Nat) :
    s.takeEntry n a = { s with pool := (s.takeEntry n a).pool, timers := (s.takeEntry n a).timers } := by
  obtain ⟨_, h⟩ := s.takeEntry_cases n a
  rw [h]
  rfl

/-- A port out of service for 2 ms that carries no tray: its host has failed. -/
theorem Chip.absent_of_host (s : Chip) (n e : Nat) (h : s.pool.trays.find? (fun e => e.2.port == n && e.2.running) = none)
    (hhost : s.hostAt n = some e) : s.absent n = s.declareFailed e := by
  unfold Chip.absent
  rw [h]
  dsimp only
  rw [hhost]

/-- A port out of service for 2 ms that carries a tray and no host: the tray is lost. -/
theorem Chip.absent_of_tray (s : Chip) (n m : Nat) (t : Tray)
    (h : s.pool.trays.find? (fun e => e.2.port == n && e.2.running) = some (m, t)) (hhost : (s.loseTray m).hostAt n = none) :
    s.absent n = s.loseTray m := by
  unfold Chip.absent
  rw [h]
  dsimp only
  rw [hhost]

/-- Settles O39: each row is one branch of its meaning, and a tray that nothing uses is lost with two records. -/
theorem silentTraysAreLost : Obligations.SilentTraysAreLost := by
  unfold Obligations.SilentTraysAreLost
  refine ⟨fun s n hn => ⟨s.loseTray_of_gone n, s.loseTray_unused_reads n hn⟩, fun n p s haccepts hcls => ?message,
    fun n s => ?trayTimers, fun n s => ?absence, fun base s => ?replica⟩
  case message =>
    rw [exec_trayMsgReceive_of_accepts n p s haccepts hcls]
    refine ⟨fun hbad => ?_, fun flash tags hok hcode hbinds => ⟨?_, fun hother => ?_⟩⟩
    · rw [Chip.trayMessage_of_malformed _ _ _ hbad]
    · rintro ⟨rfl, rfl⟩
      refine ⟨_, rfl, ?_⟩
      rw [Chip.trayMessage_of_bindAck _ _ _ hok hcode, Chip.bindAck_of_last _ _ _ _ hbinds]
      refine ⟨?_, Chip.running_stopTimer_same _ _, rfl⟩
      rw [Chip.tray_of_pool (Chip.stopTimer_pool _ _), Chip.tray_modTray_same]
    · have hb : (flash, tags) ≠ (bitAt p.body 8, bits p.body 16 256) := fun he => by
        obtain ⟨rfl, rfl⟩ := Prod.mk.inj he
        exact hother.elim (· rfl) (· rfl)
      rw [Chip.trayMessage_of_bindAck _ _ _ hok hcode, Chip.bindAck_of_other _ _ _ _ _ _ hbinds hb]
  case trayTimers =>
    rw [exec_bindAckTimeout, exec_profileTimerExpiry]
    refine ⟨fun h => ?_, fun c h => ?_, fun h => ?_, fun c a h hrun hentry hact =>
      ⟨c.takeEntry n.val a, ?_, c.takeEntry_tray _ _, c.takeEntry_frame _ _⟩⟩
    · rw [Chip.bindExpired, h]
    · rw [Chip.bindExpired, h]
    · rw [Chip.profileExpired, h]
    · rw [Chip.profileExpired, h]
      dsimp only
      rw [c.profileEvent_of_entry n.val pevTIMER 0 a hrun hentry hact]
  case absence =>
    rw [exec_portAbsenceTimeout]
    refine ⟨fun h => ?_, fun c h => ⟨fun htray e hhost => ?_, fun m t htray hhost => ?_⟩⟩
    · rw [Chip.absenceExpired, h]
    · rw [Chip.absenceExpired, h]
      dsimp only
      rw [c.absent_of_host n.val e htray hhost]
    · rw [Chip.absenceExpired, h]
      dsimp only
      rw [c.absent_of_tray n.val m t htray hhost]
  case replica =>
    rw [exec_replicaCopyDone]
    refine ⟨fun h => ?_, fun h => ?_⟩
    · rw [Chip.replicaCopied, h]
      rfl
    · unfold Chip.replicaCopied
      split
      · contradiction
      · rfl

end Sys2Proof.Machine
end

section
/-!
ENGINE_POOL_READ, ENGINE_POOL_WRITE and CLEANER_SCAN (spec/01_architecture.md R31, spec/03_pool_and_tiers.md R97, R109,
spec/14_errors_and_reliability.md R445, R446): an engine's read that is held or asked for, its write of a whole line, and the cleaner's
scan of the DRAM tier.
-/
open Sys2Proof Sys2Proof.Machine
namespace Sys2Proof.Machine

/-! ### The code word of a held line -/

theorem Subsys.num_le (b : Subsys) : b.num ≤ 14 := by cases b <;> decide

/-- A record of the error log keeps the counts of corrected and uncorrectable code words, which lie in its own block. -/
theorem Chip.log_rd_codeWords (s : Chip) (r : LogRec) (b : Subsys) (f : Fld) (hf : f.lo + f.width ≤ 64) :
    (s.log r).rd (A.ERR_CE_CNT b.num) f = s.rd (A.ERR_CE_CNT b.num) f := by
  have hb := b.num_le
  have hroom : s.logRoom.rd (A.ERR_CE_CNT b.num) f = s.rd (A.ERR_CE_CNT b.num) f := by
    unfold Chip.logRoom
    split
    · rw [Chip.rd_wr_apart, Chip.count, Chip.bump, Chip.rd_wr_apart]
      · unfold apart A.ERR_STATUS F.ERR_STATUS_HOST_LOST A.ERR_CE_CNT; simp only; omega
      · unfold apart A.ERR_HOST_TAIL F.ERR_HOST_TAIL_TAIL A.ERR_CE_CNT; simp only; omega
    · rfl
  have hput : ∀ t : Chip, (t.logPut r).rd (A.ERR_CE_CNT b.num) f = t.rd (A.ERR_CE_CNT b.num) f := fun t => by
    show ((t.wrSpan _ _ _).wr _ _ _).rd _ _ = _
    rw [Chip.rd_wr_apart, Chip.rd_wrSpan_apart]
    · unfold A.ERR_LOG A.ERR_CE_CNT; omega
    · unfold apart A.ERR_STATUS F.ERR_STATUS_HEAD A.ERR_CE_CNT; simp only; omega
  rw [Chip.log, hput, hroom]

/-- A corrected code word is counted, whether or not it is one that is logged (R445). -/
theorem Chip.corrected_rd_count (s : Chip) (b : Subsys) (x : Nat) :
    (s.corrected b x).rd (A.ERR_CE_CNT b.num) F.ERR_CE_CNT_CE = min cap32 (s.rd (A.ERR_CE_CNT b.num) F.ERR_CE_CNT_CE + 1) := by
  have hbump : (s.bump (A.ERR_CE_CNT b.num) F.ERR_CE_CNT_CE cap32 1).rd (A.ERR_CE_CNT b.num) F.ERR_CE_CNT_CE
      = min cap32 (s.rd (A.ERR_CE_CNT b.num) F.ERR_CE_CNT_CE + 1) := by
    rw [Chip.bump, Chip.rd_wr_same, satAdd]
    exact Nat.mod_eq_of_lt (lt_of_le_of_lt (Nat.min_le_left _ _) (by decide))
  unfold Chip.corrected
  dsimp only
  split
  · rw [Chip.logEvent, Chip.log_rd_codeWords _ _ _ _ (by decide), hbump]
  · exact hbump

theorem Chip.cached_dropLine_same (s : Chip) (p role store line : Nat) :
    (s.dropLine (cacheKey p role store line)).cached p role store line = none :=
  Tab.find_erase_same _ _

theorem Chip.lineRead_clean (s : Chip) (p line : Nat) : s.lineRead p line .clean = s := rfl

theorem Chip.lineRead_corrected (s : Chip) (p line : Nat) : s.lineRead p line .corrected = s.corrected .tierManager line := rfl

theorem Chip.lineRead_failed (s : Chip) (p line : Nat) :
    s.lineRead p line .failed = (s.dataLost p (64 * line)).dropLine (cacheKey p roleENGINE 0 line) := rfl

/-! ### Reads of an engine -/

theorem Chip.engineRead_of_unowned (s : Chip) (e addr : Nat) (ecc : EccResult) (h : s.engineOf e = none) : s.engineRead e addr ecc = s := by
  simp only [Chip.engineRead, h]

theorem Chip.engineRead_of_hit (s : Chip) (e addr p : Nat) (ecc : EccResult) (l : CacheLine) (h : s.engineOf e = some p)
    (hline : s.cached p roleENGINE 0 (addr / 64) = some l) : s.engineRead e addr ecc = s.lineRead p (addr / 64) ecc := by
  simp only [Chip.engineRead, h, hline]

theorem Chip.engineRead_of_miss (s : Chip) (e addr p : Nat) (ecc : EccResult) (h : s.engineOf e = some p)
    (hline : s.cached p roleENGINE 0 (addr / 64) = none) :
    s.engineRead e addr ecc = (s.ask (.job 0 (addr / 64 / 4)) p 0 s.selfEid
      { msg := mRdCurrent, lmask := 2 ^ (addr / 64 % 4), saddr := addr / 64 / 4 } []).1 := by
  simp only [Chip.engineRead, h, hline]

theorem Chip.endAsk_asks (s : Chip) (tag : Nat) (st : Status) (old : Nat) (lines : List (Nat × List Byte)) :
    (s.endAsk tag st old lines).pool.asks = s.pool.asks := rfl

/-- The sending of a request leaves the list of open requests: a request that ends at once is taken off it later. -/
theorem Chip.sendAsk_asks (s : Chip) (tag : Nat) (p : Packet) : (s.sendAsk tag p).pool.asks = s.pool.asks := by
  have hsend : ∀ q, (s.send q).pool.asks = s.pool.asks := fun q => by rw [Chip.core_pool (s.send_core q)]
  unfold Chip.sendAsk
  dsimp only
  split
  · rfl
  · split
    · exact hsend _
    · split
      · rw [Chip.endAsk_asks, Chip.logPool, Chip.log_pool]
      · rw [Chip.endAsk_asks, Chip.logPool, Chip.log_pool]
      · rw [Chip.endAsk_asks, Chip.log_pool]
      · exact hsend _

/-- A request of this E9 is open under its tag, with its partition and its message. -/
theorem Chip.ask_find (s : Chip) (who : Asker) (part tc eid : Nat) (c : Coh) (payload : List Byte) :
    ((s.ask who part tc eid c payload).1.pool.asks.find s.freshTag).map (fun a => (a.pkt.partition, a.pkt.body))
      = some (part, Coh.body { c with tag := s.freshTag }) := by
  unfold Chip.ask
  dsimp only
  rw [Chip.sendAsk_asks, Chip.startTimer_pool, Chip.modPool_pool, Tab.find_put_same]
  rfl

/-! ### Writes of an engine -/

theorem linesIn_line (addr : Nat) (h : addr % 64 = 0) : linesIn addr 64 = [addr / 64] := by
  have hn : (addr + 64 - 1) / 64 - addr / 64 + 1 = 1 := by omega
  unfold linesIn
  rw [hn]
  rfl

/-- The bytes of a whole line leave nothing of what was there. -/
theorem overLine_whole (addr : Nat) (old data : List Byte) (h : addr % 64 = 0) (hlen : data.length = 64) :
    overLine (addr / 64) old addr data = data := by
  unfold overLine upFrom
  refine List.ext_getElem (by simp [hlen]) fun i hi hi' => ?_
  have hin : (Nat.ble addr (64 * (addr / 64) + i) && Nat.blt (64 * (addr / 64) + i) (addr + data.length)) = true := by
    rw [Bool.and_eq_true, Nat.ble_eq, Nat.blt_eq]
    omega
  have hoff : 64 * (addr / 64) + i - addr = i := by omega
  rw [List.getElem_map, List.getElem_range', Nat.zero_add, Nat.one_mul]
  dsimp only
  rw [if_pos hin, hoff, List.getD_eq_getElem _ _ hi']

theorem Tab.length_filter_put_le {β : Type} (t : Tab β) (k : Nat) (v : β) (f : Nat × β → Bool) :
    ((t.put k v).filter f).length ≤ (List.filter f t).length + 1 := by
  have hcons : ∀ (e : Nat × β) (l : List (Nat × β)), ((e :: l).filter f).length ≤ (l.filter f).length + 1 := fun e l => by
    rw [List.filter_cons]
    split <;> simp
  induction t with
  | nil => exact hcons _ _
  | cons e t ih =>
    obtain ⟨a, w⟩ := e
    have hmono : (t.filter f).length ≤ (((a, w) :: t).filter f).length :=
      ((List.sublist_cons_self (a, w) t).filter f).length_le
    simp only [Tab.put]
    split
    · exact hcons _ _
    · split
      · exact (hcons _ _).trans (Nat.succ_le_succ hmono)
      · simp only [List.filter_cons]
        split
        · exact Nat.succ_le_succ ih
        · exact ih

/-- Whether a partition's way groups have room depends on the lines that they hold and on who owns them. -/
theorem Chip.cacheHasRoom_modPool (s : Chip) (f : Pool → Pool) (p : Nat) (hf : (f s.pool).cache = s.pool.cache) (h : s.cacheHasRoom p) :
    (s.modPool f).cacheHasRoom p := by
  have hlines : (s.modPool f).cacheOf p = s.cacheOf p := congrArg (List.filter _) hf
  have hroom : (s.modPool f).cacheRoom p = s.cacheRoom p := rfl
  unfold Chip.cacheHasRoom
  rwa [hlines, hroom]

/-- No line leaves way groups that have room. -/
theorem Chip.makeRoom_of_room (s : Chip) (p : Nat) (h : (s.cacheOf p).length ≤ s.cacheRoom p) : s.makeRoom p = s := by
  unfold Chip.makeRoom
  exact if_pos (Nat.ble_eq ▸ h)

/-- A line placed in way groups that have room for it is there, and no other leaves. -/
theorem Chip.putLine_of_room (s : Chip) (p role store line : Nat) (data : List Byte) (h : s.cacheHasRoom p) :
    s.putLine p role store line data = s.modPool (fun q =>
      { q with writes := s.pool.writes + 1
               cache := q.cache.put (cacheKey p role store line) { data := data, dirty := true, wrote := s.pool.writes + 1 } }) :=
  Chip.makeRoom_of_room _ _ ((Tab.length_filter_put_le _ _ _ _).trans h)

/-- A waiting write of a whole line whose writeback is not in flight is made at once (R109). -/
theorem Chip.engineWrites_of_whole (s : Chip) (w : EngWrite) (hw : s.pool.engWrites = [w]) (hasked : w.asked = false)
    (haddr : w.addr % 64 = 0) (hlen : w.data.length = 64)
    (hflight : (s.cached w.part roleENGINE 0 (w.addr / 64)).all (fun x => x.flight.isNone) = true) :
    s.engineWrites
      = (s.modPool (fun q => { q with engWrites := [] })).putLine w.part roleENGINE 0 (w.addr / 64) w.data := by
  have hleft : s.modPool (fun q => { q with engWrites := q.engWrites.filter (fun x => x.id != w.id) })
      = s.modPool (fun q => { q with engWrites := [] }) := by
    have hnone : s.pool.engWrites.filter (fun x => x.id != w.id) = [] := by simp [hw]
    exact congrArg (fun l => s.modPool (fun q => { q with engWrites := l })) hnone
  have hmade : ∀ old, (s.modPool (fun q => { q with engWrites := q.engWrites.filter (fun x => x.id != w.id) })).putLine w.part
      roleENGINE 0 (w.addr / 64) (overLine (w.addr / 64) old w.addr w.data)
      = (s.modPool (fun q => { q with engWrites := [] })).putLine w.part roleENGINE 0 (w.addr / 64) w.data := fun old => by
    rw [overLine_whole _ _ _ haddr hlen, hleft]
  unfold Chip.engineWrites
  rw [hw, List.foldl_cons, List.foldl_nil]
  dsimp only
  cases hline : s.cached w.part roleENGINE 0 (w.addr / 64) with
  | none =>
    dsimp only
    rw [hasked, if_neg Bool.false_ne_true, if_pos (by simp [hlen])]
    exact hmade []
  | some c =>
    have hc : c.flight.isSome = false := by simpa [hline] using hflight
    dsimp only
    rw [hc, hasked, Bool.or_false, if_neg Bool.false_ne_true]
    exact hmade c.data

theorem Chip.engineWrite_of_refused (s : Chip) (e addr p : Nat) (data : List Byte) (st : Status) (h : s.engineOf e = some p)
    (hmay : s.poolMay p addr data.length = some st) : s.engineWrite e addr data = s.logPool st p addr := by
  simp only [Chip.engineWrite, h, hmay]

/-- The part with `w` last among the writes of engines that wait. -/
def Chip.queueWrite (s : Chip) (w : EngWrite) : Chip :=
  s.modPool (fun q => { q with engWrites := q.engWrites ++ [w], nextEngWrite := s.pool.nextEngWrite + 1 })

/-- A write of one whole line waits as one write. -/
theorem Chip.engineWrite_of_line (s : Chip) (e addr p : Nat) (data : List Byte) (h : s.engineOf e = some p)
    (hmay : s.poolMay p addr data.length = none) (haddr : addr % 64 = 0) (hlen : data.length = 64) :
    s.engineWrite e addr data
      = (s.queueWrite { id := s.pool.nextEngWrite, part := p, addr := addr, data := data }).engineWrites := by
  have hlo : max addr (64 * (addr / 64)) = addr := by omega
  have hhi : min (addr + 64) (64 * (addr / 64) + 64) - addr = 64 := by omega
  have hdata : (data.drop (addr - addr)).take 64 = data := by rw [Nat.sub_self, List.drop_zero, ← hlen, List.take_length]
  rw [hlen] at hmay
  simp only [Chip.engineWrite, h, hmay, hlen, linesIn_line addr haddr, List.foldl_cons, List.foldl_nil, hlo, hhi, hdata]
  rfl

/-- Where no write waits and the way groups have room, such a write places its line, and the pool alone has changed. -/
theorem Chip.engineWrite_places (s : Chip) (e addr p : Nat) (data : List Byte) (h : s.engineOf e = some p)
    (hmay : s.poolMay p addr data.length = none) (haddr : addr % 64 = 0) (hlen : data.length = 64) (hwrites : s.pool.engWrites = [])
    (hflight : (s.cached p roleENGINE 0 (addr / 64)).all (fun x => x.flight.isNone) = true) (hroom : s.cacheHasRoom p) :
    s.engineWrite e addr data = s.modPool (fun q =>
      { q with engWrites := [], nextEngWrite := s.pool.nextEngWrite + 1, writes := s.pool.writes + 1
               cache := q.cache.put (cacheKey p roleENGINE 0 (addr / 64)) { data := data, dirty := true, wrote := s.pool.writes + 1 } }) := by
  have hone : ∀ w, (s.queueWrite w).pool.engWrites = [w] := fun w => by
    rw [Chip.queueWrite, Chip.modPool_pool, hwrites, List.nil_append]
  have hqueued : ∀ w, (s.queueWrite w).cacheHasRoom p := fun w => s.cacheHasRoom_modPool _ p rfl hroom
  rw [s.engineWrite_of_line e addr p data h hmay haddr hlen,
    Chip.engineWrites_of_whole _ { id := s.pool.nextEngWrite, part := p, addr := addr, data := data } (hone _) rfl haddr hlen hflight,
    Chip.putLine_of_room _ _ _ _ _ _ (Chip.cacheHasRoom_modPool _ _ _ rfl (hqueued _))]
  rfl

/-! ### What a tile's entry leaves alone -/

/-- The keys of the partitions' key records. -/
def keyMemKey (k : Nat) : Bool := decide (0xF01000 ≤ k ∧ k < 0xF03000)

/-- `t` has the registers of `s` but for the key records. -/
abbrev Chip.sameRanges (s t : Chip) : Prop := t.regs.off keyMemKey = s.regs.off keyMemKey

theorem Chip.wrKey_sameRanges (s : Chip) (p : Nat) (f : Fld) (v : Nat) (hp : p < 64) : s.sameRanges (s.wrKey p f v) := by
  have hin : ∀ i, i < 16 → keyMemKey (A.KEY_MEM p + 8 * i) = true := fun i hi => decide_eq_true (by unfold A.KEY_MEM; omega)
  refine (RegFile.setSpan_off _ _ _ _ fun i hi => ?_).trans (RegFile.setSpan_off _ _ _ _ fun i hi => hin i (by omega))
  rw [Nat.add_assoc, ← Nat.mul_add]
  exact hin (8 + i) (by omega)

section SameRanges
variable {s t : Chip} (h : s.sameRanges t)
include h

theorem Chip.rd_sameRanges (a : Nat) (f : Fld) (ha : a + 8 * (f.lo / 64) + 8 * f.span ≤ 0xF01000 ∨ 0xF03000 ≤ a) : t.rd a f = s.rd a f := by
  have hout : ∀ i, i < f.span → keyMemKey (a + 8 * (f.lo / 64) + 8 * i) = false := fun i hi => decide_eq_false (by omega)
  unfold Chip.rd
  rw [← RegFile.get_off t.regs a f hout, ← RegFile.get_off s.regs a f hout, h]

theorem Chip.active_sameRanges : t.active = s.active := Chip.rd_sameRanges h _ _ (.inl (by decide))

theorem Chip.rng_sameRanges (r : RangeRef) (f : Fld) : t.rng r f = s.rng r f :=
  Chip.rd_sameRanges h _ _ (.inr (by unfold RangeRef.at A.PTN_RANGE; omega))

theorem Chip.homedRanges_sameRanges (v : Nat) : t.homedRanges v = s.homedRanges v := by
  have hout : ∀ k, A.PTN_RANGE v 0 ≤ k → k < A.PTN_RANGE v 0 + 64 * 4096 → keyMemKey k = false := fun k hk _ =>
    decide_eq_false (by unfold A.PTN_RANGE at hk; omega)
  have hlisted : t.listed (A.PTN_RANGE v 0) 64 4096 = s.listed (A.PTN_RANGE v 0) 64 4096 := by
    unfold Chip.listed
    rw [← RegFile.keysIn_off t.regs _ _ hout, ← RegFile.keysIn_off s.regs _ _ hout, h]
  have hrd : ∀ i f, t.rd (A.PTN_RANGE v i) f = s.rd (A.PTN_RANGE v i) f := fun i f => Chip.rng_sameRanges h ⟨v, i⟩ f
  unfold Chip.homedRanges
  simp only [hlisted, hrd]

end SameRanges

/-- The move of a tile's count and the destruction of keys leave every tile's entry, and every register but key records. -/
theorem Chip.moveCount_frame (s : Chip) (p : Nat) (a b : Tile) (hp : p < 64) :
    (s.moveCount p a b).pool = s.pool ∧ s.sameRanges (s.moveCount p a b) := by
  have hpool : ∀ (u : Chip) f v, (u.wrKey p f v).pool = u.pool := fun _ _ _ => rfl
  unfold Chip.moveCount
  dsimp only
  split <;> split
  · exact ⟨rfl, rfl⟩
  · exact ⟨hpool _ _ _, Chip.wrKey_sameRanges _ _ _ _ hp⟩
  · exact ⟨hpool _ _ _, Chip.wrKey_sameRanges _ _ _ _ hp⟩
  · exact ⟨rfl, (Chip.wrKey_sameRanges _ _ _ _ hp).trans (Chip.wrKey_sameRanges _ _ _ _ hp)⟩

theorem Chip.destroyKeys_frame (s : Chip) (p : Nat) (hp : p < 64) :
    (s.destroyKeys p).pool.tiles = s.pool.tiles ∧ s.sameRanges (s.destroyKeys p) := by
  refine List.foldlRecOn (motive := fun u : Chip => u.pool.tiles = s.pool.tiles ∧ s.sameRanges u) _ _ ⟨rfl, rfl⟩ fun u hu g _ => ?_
  dsimp only
  split
  · exact ⟨hu.1, (Chip.wrKey_sameRanges u p _ _ hp).trans hu.2⟩
  · exact hu

/-- A tile's entry changed: its entry in the table is the new one, and no register but key records has changed. -/
theorem Chip.modTile_frame (s : Chip) (t : Nat) (f : Tile → Tile) (r : RangeRef) (h : s.homed t = some r) :
    (s.modTile t f).pool.tiles.find (s.tileKey r t) = some (f (s.tile t)) ∧ s.sameRanges (s.modTile t f) := by
  have hp : s.rng r F.PTN_RANGE_PARTITION < 64 := s.rd_lt _ _
  have htile : s.tile t = (s.pool.tiles.find (s.tileKey r t)).getD {} := by simp only [Chip.tile, h]
  rw [htile]
  simp only [Chip.modTile, h]
  generalize (s.pool.tiles.find (s.tileKey r t)).getD {} = old
  obtain ⟨hcount, hcountRegs⟩ := (s.modPool (fun q => { q with tiles := q.tiles.put (s.tileKey r t) (f old) })).moveCount_frame
    (s.rng r F.PTN_RANGE_PARTITION) old (f old) hp
  obtain ⟨hkeys, hkeysRegs⟩ := ((s.modPool (fun q => { q with tiles := q.tiles.put (s.tileKey r t) (f old) })).moveCount
    (s.rng r F.PTN_RANGE_PARTITION) old (f old)).destroyKeys_frame (s.rng r F.PTN_RANGE_PARTITION) hp
  exact ⟨by rw [hkeys, hcount, Chip.modPool_pool, Tab.find_put_same], hkeysRegs.trans hcountRegs⟩

/-! ### The cleaner's scan -/

/-- The part as a scan finds it: the cleaner's timer expired, where it runs, and started again for the next scan. -/
def Chip.scanStarted (c : Chip) : Chip := c.startTimer .cleaner (ms (c.rd A.TIR_TIER_CFG F.TIR_TIER_CFG_CLEAN_MS))

/-- The scan of partition `p`'s tiles. -/
def Chip.scanPartition (s : Chip) (p : Nat) : Chip :=
  (s.tieredTiles p).foldl (fun s e =>
    let s := if e.2.state == .dramDirty && e.2.scanMark then s.program e.1 false else s
    s.modTile e.1 (fun x => { x with scanMark := x.state == .dramDirty })) s

/-- A scan of a part that is awake visits each partition in turn; in any other power state it only waits for the next (R97). -/
theorem Chip.cleanScan_eq (s : Chip) :
    s.cleanScan = (let c := ((s.expire .cleaner).getD s).scanStarted
      if c.asleep then c else (upFrom 0 64).foldl Chip.scanPartition c) := rfl

theorem Chip.scanPartition_of_none (s : Chip) (p : Nat) (h : s.tieredTiles p = []) : s.scanPartition p = s := by
  rw [Chip.scanPartition, h, List.foldl_nil]

/-- A partition whose one tile is not marked has nothing programmed. -/
theorem Chip.scanPartition_of_unmarked (s : Chip) (p t : Nat) (e : Tile) (h : s.tieredTiles p = [(t, e)]) (hmark : e.scanMark = false) :
    s.scanPartition p = s.modTile t (fun x => { x with scanMark := x.state == .dramDirty }) := by
  simp only [Chip.scanPartition, h, List.foldl_cons, List.foldl_nil, hmark, Bool.and_false, Bool.false_eq_true, if_false]

theorem Chip.tieredTiles_of_other (s : Chip) (r : RangeRef) (p : Nat) (h : s.homedRanges s.active = [r])
    (hp : p ≠ s.rng r F.PTN_RANGE_PARTITION) : s.tieredTiles p = [] := by
  have hne : (s.rng r F.PTN_RANGE_PARTITION == p) = false := beq_false_of_ne (Ne.symm hp)
  simp only [Chip.tieredTiles, h, List.filter_cons, hne, Bool.and_false, Bool.false_eq_true, if_false, List.filter_nil, List.flatMap_nil]

/-- A fold in which one element alone acts does what that element does. -/
theorem foldl_of_one {σ : Type} (f : σ → Nat → σ) (a : σ) (p : Nat) (l : List Nat) (hp : p ∈ l) (hl : l.Nodup)
    (hbefore : ∀ q, q ≠ p → f a q = a) (hafter : ∀ q, q ≠ p → f (f a p) q = f a p) : l.foldl f a = f a p := by
  have hrest : ∀ l : List Nat, p ∉ l → l.foldl f (f a p) = f a p := fun l hl =>
    List.foldlRecOn (motive := fun b => b = f a p) l f rfl fun b hb q hq => by
      rw [hb, hafter q fun he => hl (he ▸ hq)]
  induction l with
  | nil => cases hp
  | cons q l ih =>
    obtain ⟨hq, hl⟩ := List.nodup_cons.1 hl
    rw [List.foldl_cons]
    by_cases he : q = p
    · subst he
      exact hrest l hq
    · rw [hbefore q he]
      exact ih ((List.mem_cons.1 hp).resolve_left (Ne.symm he)) hl

/-- Where one range is homed here, with one dirty tile that is not marked, a scan of the partitions marks that tile. -/
theorem Chip.scan_marks (s : Chip) (r : RangeRef) (t : Nat) (e : Tile) (hranges : s.homedRanges s.active = [r])
    (htiles : s.tieredTiles (s.rng r F.PTN_RANGE_PARTITION) = [(t, e)]) (htile : s.tile t = e) (hhomed : s.homed t = some r)
    (hdirty : e.state = .dramDirty) (hmark : e.scanMark = false) :
    ((upFrom 0 64).foldl Chip.scanPartition s).pool.tiles.find (s.tileKey r t) = some { e with scanMark := true } := by
  have hone := s.scanPartition_of_unmarked _ t e htiles hmark
  obtain ⟨hentry, hregs⟩ := s.modTile_frame t (fun x => { x with scanMark := x.state == .dramDirty }) r hhomed
  rw [← hone] at hentry hregs
  have hfold : (upFrom 0 64).foldl Chip.scanPartition s = s.scanPartition (s.rng r F.PTN_RANGE_PARTITION) := by
    have hp : s.rng r F.PTN_RANGE_PARTITION < 64 := s.rd_lt _ _
    refine foldl_of_one _ s _ _ (List.mem_range'_1.2 (by omega)) List.nodup_range' (fun q hq => ?_) fun q hq => ?_
    · exact s.scanPartition_of_none q (s.tieredTiles_of_other r q hranges hq)
    · refine Chip.scanPartition_of_none _ q (Chip.tieredTiles_of_other _ r q ?_ ?_)
      · rw [Chip.active_sameRanges hregs, Chip.homedRanges_sameRanges hregs, hranges]
      · rwa [Chip.rng_sameRanges hregs]
  rw [hfold, hentry, htile, hdirty]
  rfl

/-! ### The rows -/

theorem exec_enginePoolRead (e : Fin 80) (addr : Nat) (ecc : EccResult) (s : State) :
    exec (.enginePoolRead e addr ecc) s = .next (s.after (s.engineRead e.val addr ecc)) := rfl

theorem exec_enginePoolWrite (e : Fin 80) (addr : Nat) (data : List Byte) (s : State) :
    exec (.enginePoolWrite e addr data) s = .next (s.after (s.engineWrite e.val addr data)) := rfl

theorem exec_cleanerScan (s : State) : exec .cleanerScan s = .next (s.after s.cleanScan) := rfl

/-- Settles O37: a read is served, asked for, or is of no partition; the write of a whole line is placed at once; and a scan of one dirty
tile is one change of its entry, which no other partition's visit touches. -/
theorem enginesReadAndWriteThePool : Obligations.EnginesReadAndWriteThePool := by
  unfold Obligations.EnginesReadAndWriteThePool
  refine ⟨fun e addr ecc s => ?read, fun e addr p data s howner => ?write, fun s => ?scan⟩
  case read =>
    rw [exec_enginePoolRead]
    refine ⟨fun hnone => ?_, fun p howner => ⟨fun l hline => ?_, fun hline => ⟨_, rfl, ?_⟩⟩⟩
    · rw [s.engineRead_of_unowned _ _ _ hnone]
    · rw [s.engineRead_of_hit _ _ _ _ _ howner hline]
      refine ⟨?_, ?_, ?_⟩
      · rintro rfl
        rw [Chip.lineRead_clean]
      · rintro rfl
        rw [Chip.lineRead_corrected]
        exact ⟨_, rfl, s.corrected_rd_count .tierManager _⟩
      · rintro rfl
        rw [Chip.lineRead_failed]
        exact ⟨_, rfl, Chip.cached_dropLine_same _ _ _ _ _⟩
    · have hask := congrArg (Option.map (fun x : Nat × Nat => (x.1, Coh.ofBody x.2))) (s.ask_find (.job 0 (addr / 64 / 4)) p 0 s.selfEid
        { msg := mRdCurrent, lmask := 2 ^ (addr / 64 % 4), saddr := addr / 64 / 4 } [])
      rw [Option.map_map] at hask
      rw [s.engineRead_of_miss _ _ _ _ howner hline]
      exact hask
  case write =>
    rw [exec_enginePoolWrite]
    refine ⟨fun st hmay => ?_, fun hmay haddr hlen hwrites hflight hroom => ⟨_, rfl, ?_⟩⟩
    · rw [s.engineWrite_of_refused _ _ _ _ _ howner hmay]
    · rw [s.engineWrite_places _ _ _ _ howner hmay haddr hlen hwrites hflight hroom]
      exact ⟨Tab.find_put_same _ _ _, rfl⟩
  case scan =>
    rw [exec_cleanerScan, Chip.cleanScan_eq]
    generalize (s.expire .cleaner).getD s.toChip = c
    refine ⟨fun hasleep => ?_, fun r t e hawake hranges htiles htile hhomed hdirty hmark => ⟨_, rfl, ?_⟩⟩
    · have h : c.scanStarted.asleep = true := bne_iff_ne.2 hasleep
      dsimp only
      rw [if_pos h]
      rfl
    · have h : ¬ c.scanStarted.asleep = true := fun h => bne_iff_ne.1 h hawake
      dsimp only
      rw [if_neg h]
      exact c.scanStarted.scan_marks r t e hranges htiles htile hhomed hdirty hmark

end Sys2Proof.Machine
end

section
/-!
The pace controller (spec/02_pace_and_time.md R47 to R62): the sensors' windows, the voltage that a control step writes, and the tries
of a voltage write.
-/
open Sys2Proof Sys2Proof.Machine
namespace Sys2Proof.Machine

/-! ### Sensors -/

/-- Settles O11: the window that closes lists the rates of sensors 0 to 255 in order. -/
theorem sensorWindowAddsTheRates : Obligations.SensorWindowAddsTheRates := by
  unfold Obligations.SensorWindowAddsTheRates
  intro counts s
  refine ⟨_, rfl, by simp [upFrom], fun i hi => ?_⟩
  have hat : (upFrom 0 256)[i]? = some i := by simp [upFrom, hi]
  rw [List.getElem?_map, hat, Option.map_some]
  rcases counts[i]? with - | ⟨c, ok⟩
  · rfl
  · cases ok with
    | false => rfl
    | true => by_cases hc : c = 0 <;> simp [hc]

/-! ### What a voltage write rests on -/

/-- `t` has the voltages, the writes and the readings of `s`: only levels, timers, kernels and records may differ. -/
structure Chip.SameSupply (s t : Chip) : Prop where
  out : t.out = s.out
  avs : t.pace.avs = s.pace.avs
  avsBad : t.pace.avsBad = s.pace.avsBad
  windows : t.pace.windows = s.pace.windows
  tmax : t.pace.tmax = s.pace.tmax
  vcore : t.rd A.PCE_STATUS F.PCE_STATUS_VCORE_MV = s.rd A.PCE_STATUS F.PCE_STATUS_VCORE_MV
  fault : t.flag A.PCE_STATUS F.PCE_STATUS_AVS_FAULT = s.flag A.PCE_STATUS F.PCE_STATUS_AVS_FAULT
  curve : ∀ l i, l < 8 → i < 16 → t.curvePoint l i = s.curvePoint l i

theorem Chip.SameSupply.refl (s : Chip) : s.SameSupply s := ⟨rfl, rfl, rfl, rfl, rfl, rfl, rfl, fun _ _ _ _ => rfl⟩

theorem Chip.SameSupply.trans {s t u : Chip} (h : s.SameSupply t) (k : t.SameSupply u) : s.SameSupply u where
  out := k.out.trans h.out
  avs := k.avs.trans h.avs
  avsBad := k.avsBad.trans h.avsBad
  windows := k.windows.trans h.windows
  tmax := k.tmax.trans h.tmax
  vcore := k.vcore.trans h.vcore
  fault := k.fault.trans h.fault
  curve l i hl hi := (k.curve l i hl hi).trans (h.curve l i hl hi)

theorem Chip.SameSupply.ite {s t u : Chip} (c : Bool) (ht : s.SameSupply t) (hu : s.SameSupply u) :
    s.SameSupply (if c then t else u) := by
  cases c with
  | true => exact ht
  | false => exact hu

/-- A field of PCE_STATUS that is neither VCORE_MV nor AVS_FAULT. -/
theorem Chip.sameSupply_wr (s : Chip) (f : Fld) (v : Nat) (hv : apart A.PCE_STATUS f A.PCE_STATUS F.PCE_STATUS_VCORE_MV)
    (ha : apart A.PCE_STATUS f A.PCE_STATUS F.PCE_STATUS_AVS_FAULT) (hf : f.lo + f.width ≤ 64) :
    s.SameSupply (s.wr A.PCE_STATUS f v) where
  out := rfl
  avs := rfl
  avsBad := rfl
  windows := rfl
  tmax := rfl
  vcore := Chip.rd_wr_apart _ _ _ _ _ _ hv
  fault := Chip.flag_wr_apart _ _ _ _ _ _ ha
  curve l i _ _ := Chip.rd_wr_apart _ _ _ _ _ _ (by unfold apart A.PCE_STATUS A.PCE_CURVE; simp only; omega)

theorem Chip.sameSupply_log (s : Chip) (r : LogRec) : s.SameSupply (s.log r) where
  out := s.log_out r
  avs := by rw [Chip.log_pace]
  avsBad := by rw [Chip.log_pace]
  windows := by rw [Chip.log_pace]
  tmax := by rw [Chip.log_pace]
  vcore := s.log_rd_other r _ _ (by decide)
  fault := s.log_flag_other r _ _ (by decide)
  curve l i hl hi := s.log_rd_other r _ _ (by unfold notErr A.PCE_CURVE; simp only; omega)

/-- The part with a record of each sensor that the period excludes (R49). -/
def Chip.recordExcluded (s : Chip) (l : List Nat) : Chip :=
  l.foldl (fun s i => s.log { status := .tableCheck, subsys := .paceUnit, addrKind := 8, addr := i }) s

theorem Chip.sameSupply_recordExcluded (s : Chip) (l : List Nat) : s.SameSupply (s.recordExcluded l) := by
  induction l generalizing s with
  | nil => exact .refl s
  | cons i l ih =>
    rw [Chip.recordExcluded, List.foldl_cons]
    exact (s.sameSupply_log _).trans (ih _)

/-- A change of the pace controller's state beside its windows, its temperature and its voltage write. -/
theorem Chip.sameSupply_levels (s : Chip) (target met under : Nat) (change : Change) :
    s.SameSupply { s with pace := { s.pace with target := target, met := met, under := under, change := change } } :=
  ⟨rfl, rfl, rfl, rfl, rfl, rfl, rfl, fun _ _ _ _ => rfl⟩

theorem Chip.sameSupply_syncAdmit (s : Chip) : s.SameSupply s.syncAdmit :=
  s.sameSupply_wr F.PCE_STATUS_ADMIT_LEVEL _ (by decide) (by decide) (by decide)

theorem Chip.sameSupply_setChange (s : Chip) (c : Change) : s.SameSupply (s.setChange c) :=
  (s.sameSupply_levels s.pace.target s.pace.met s.pace.under c).trans
    (Chip.sameSupply_wr _ F.PCE_STATUS_TRANSITION _ (by decide) (by decide) (by decide))

theorem Chip.sameSupply_retarget (s : Chip) (l : Nat) : s.SameSupply (s.retarget l) :=
  ((s.sameSupply_levels l 0 0 s.pace.change).trans
    (Chip.sameSupply_wr _ F.PCE_STATUS_LEVEL_ACTIVE l (by decide) (by decide) (by decide))).trans (Chip.sameSupply_setChange _ _)

theorem Chip.sameSupply_forceLower (s : Chip) (l : Nat) : s.SameSupply (s.forceLower l) := by
  have hstretch : s.SameSupply (s.stretchKernels s.levelActive l) := ⟨rfl, rfl, rfl, rfl, rfl, rfl, rfl, fun _ _ _ _ => rfl⟩
  exact (hstretch.trans (Chip.sameSupply_retarget _ l)).trans (Chip.sameSupply_syncAdmit _)

theorem Chip.sameSupply_throttle (s : Chip) : s.SameSupply s.throttle := by
  have htimer : s.SameSupply ((s.wrB A.PCE_STATUS F.PCE_STATUS_THROTTLING true).startTimer .throttle (ms 1)) :=
    (s.sameSupply_wr F.PCE_STATUS_THROTTLING 1 (by decide) (by decide) (by decide)).trans
      ⟨rfl, rfl, rfl, rfl, rfl, rfl, rfl, fun _ _ _ _ => rfl⟩
  unfold Chip.throttle
  dsimp only
  exact .ite _ (htimer.trans (Chip.sameSupply_forceLower _ _)) htimer

theorem Chip.sameSupply_shortfall (s : Chip) : s.SameSupply s.shortfall := by
  have hflags : s.SameSupply ((s.wrB A.PCE_STATUS F.PCE_STATUS_SHORTFALL true).wrB A.PCE_STATUS F.PCE_STATUS_SHORTFALL_SEEN true) :=
    (s.sameSupply_wr F.PCE_STATUS_SHORTFALL 1 (by decide) (by decide) (by decide)).trans
      (Chip.sameSupply_wr _ F.PCE_STATUS_SHORTFALL_SEEN 1 (by decide) (by decide) (by decide))
  exact .ite _ (.refl s) (((hflags.trans (Chip.sameSupply_levels _ s.pace.target 0 s.pace.under s.pace.change)).trans
    (Chip.sameSupply_log _ _)).trans (Chip.sameSupply_syncAdmit _))

theorem Chip.sameSupply_endShortfall (s : Chip) : s.SameSupply s.endShortfall :=
  .ite _ ((s.sameSupply_wr F.PCE_STATUS_SHORTFALL 0 (by decide) (by decide) (by decide)).trans (Chip.sameSupply_syncAdmit _)) (.refl s)

theorem Chip.sameSupply_endChange (s : Chip) : s.SameSupply s.endChange := by
  unfold Chip.endChange
  refine .ite _ (.refl s) ?_
  split
  next l _ =>
    exact .ite _ (((s.sameSupply_wr F.PCE_STATUS_LEVEL_ACTIVE l (by decide) (by decide) (by decide)).trans
      (Chip.sameSupply_setChange _ _)).trans (Chip.sameSupply_syncAdmit _)) (.refl s)
  next => exact .ite _ ((s.sameSupply_setChange _).trans (Chip.sameSupply_syncAdmit _)) (.refl s)
  next => exact .refl s

/-! ### The new voltage (R51) -/

section NewVoltage
variable (v c step : Nat) (d : Int) (hlo : 620 ≤ v) (hhi : v ≤ 850)
include hlo hhi

theorem newVoltage_limits : 620 ≤ newVoltage v c step d ∧ newVoltage v c step d ≤ 850
    ∧ newVoltage v c step d ≤ v + step ∧ v ≤ newVoltage v c step d + step := by
  unfold newVoltage
  dsimp only
  split
  · omega
  · split <;> omega

theorem newVoltage_inside (hbelow : c ≤ v + 50) (habove : v ≤ c + 50) :
    c ≤ newVoltage v c step d + 50 ∧ newVoltage v c step d ≤ c + 50 := by
  unfold newVoltage
  dsimp only
  rw [if_neg (by omega), if_neg (by omega)]
  omega

theorem newVoltage_below (h : v + 50 < c) : newVoltage v c step d = min 850 (min (c - 50) (v + step)) := by
  unfold newVoltage
  dsimp only
  rw [if_pos (by omega)]
  omega

theorem newVoltage_above (h : c + 50 < v) : newVoltage v c step d = max 620 (max (c + 50) (v - step)) := by
  unfold newVoltage
  dsimp only
  rw [if_neg (by omega), if_pos (by omega)]
  omega

end NewVoltage

/-! ### The control step -/

theorem Chip.stepLimit_recordExcluded (s : Chip) (l : List Nat) : (s.recordExcluded l).stepLimit = s.stepLimit := by
  induction l generalizing s with
  | nil => rfl
  | cons i l ih =>
    rw [Chip.recordExcluded, List.foldl_cons]
    refine (ih _).trans ?_
    unfold Chip.stepLimit Chip.powerState
    rw [Chip.log_rd_other _ _ _ _ (by decide), Chip.log_rd_other _ _ _ _ (by decide)]

/-- The control step of a running part: shortfalls, changes and the throttle first, in which the supply stays, then at most one
voltage write. -/
theorem Chip.paceStep_awake (s : Chip) (tmax : Int) (hready : s.flag A.GLB_BOOT_STATUS F.GLB_BOOT_STATUS_READY = true)
    (heaves : s.inEaves = false) :
    ∃ (t : Chip) (d : Int), Chip.SameSupply { s with pace := { s.pace with windows := [], tmax := tmax } } t
      ∧ s.paceStep tmax = if s.stepLimit == 0 then t
          else t.avsWrite (newVoltage (s.rd A.PCE_STATUS F.PCE_STATUS_VCORE_MV) (t.curveMv t.pace.target tmax) s.stepLimit d) := by
  have hlogs := s.sameSupply_recordExcluded s.excluded
  have hmeasured : ∀ m u, Chip.SameSupply { s with pace := { s.pace with windows := [], tmax := tmax } } { s.recordExcluded s.excluded with
      pace := { (s.recordExcluded s.excluded).pace with windows := [], tmax := tmax, met := m, under := u } } := fun _ _ =>
    ⟨hlogs.out, hlogs.avs, hlogs.avsBad, rfl, rfl, hlogs.vcore, hlogs.fault, hlogs.curve⟩
  unfold Chip.paceStep
  rw [if_neg (by simp [hready, heaves]), ← s.stepLimit_recordExcluded s.excluded, ← hlogs.vcore]
  refine ⟨_, _, ?_, rfl⟩
  refine .trans (.trans (.trans (.ite _ (.trans (hmeasured _ _) (Chip.sameSupply_shortfall _)) (hmeasured _ _))
    (Chip.sameSupply_endShortfall _)) (Chip.sameSupply_endChange _)) (.ite _ (Chip.sameSupply_throttle _) (.refl _))

theorem Chip.avsWrite_idle (s : Chip) (mv : Nat) (hfault : s.flag A.PCE_STATUS F.PCE_STATUS_AVS_FAULT = false) (havs : s.pace.avs = none) :
    s.avsWrite mv = { s with pace := { s.pace with avs := some (mv, 1) }, out := .avsWrite mv :: s.out } := by
  unfold Chip.avsWrite
  simp only [hfault, havs, Option.isSome_none, Bool.or_self, Bool.false_eq_true, if_false]
  rfl

theorem exec_paceControlStep (tmax : Int) (s : State) : exec (.paceControlStep tmax) s = .next (s.after (s.paceStep tmax)) := rfl

/-- Settles O12: what goes before the write leaves the supply as it is, and the voltage written is that of R51. -/
theorem controlStepKeepsTheVoltageInBounds : Obligations.ControlStepKeepsTheVoltageInBounds := by
  unfold Obligations.ControlStepKeepsTheVoltageInBounds
  intro tmax s hready heaves hfault havs v step hlo hhi
  obtain ⟨t, d, ht, hstep⟩ := s.toChip.paceStep_awake tmax hready heaves
  refine ⟨_, exec_paceControlStep tmax s, ?_⟩
  rw [hstep]
  by_cases h0 : step = 0
  · rw [if_pos (beq_iff_eq.2 h0)]
    exact ⟨ht.tmax, ht.windows, ht.vcore, ht.curve, fun _ => ⟨ht.out, ht.avs.trans havs⟩, fun h => absurd h0 h⟩
  · rw [if_neg (by simpa using h0), Chip.avsWrite_idle t _ (ht.fault.trans hfault) (ht.avs.trans havs)]
    obtain ⟨hmin, hmax, hup, hdown⟩ := newVoltage_limits v (t.curveMv t.pace.target tmax) step d hlo hhi
    refine ⟨ht.tmax, ht.windows, ht.vcore, ht.curve, fun h => absurd h h0, fun _ => ⟨_, congrArg _ ht.out, rfl, hmin, hmax, hup, hdown, ?_⟩⟩
    exact ⟨newVoltage_inside _ _ _ d hlo hhi, newVoltage_below _ _ _ d hlo hhi, newVoltage_above _ _ _ d hlo hhi⟩

/-! ### The tries of a voltage write (R53) -/

theorem Chip.endShortfall_frame (s : Chip) : s.endShortfall = { s with regs := s.endShortfall.regs } := by
  unfold Chip.endShortfall
  split <;> rfl

theorem Chip.shortfall_flag (s : Chip) : s.shortfall.flag A.PCE_STATUS F.PCE_STATUS_SHORTFALL = true := by
  unfold Chip.shortfall
  split
  next h => exact h
  next =>
    have hset : ((s.wrB A.PCE_STATUS F.PCE_STATUS_SHORTFALL true).wrB A.PCE_STATUS F.PCE_STATUS_SHORTFALL_SEEN true).flag
        A.PCE_STATUS F.PCE_STATUS_SHORTFALL = true := by
      rw [Chip.flag_wrB_apart _ _ _ _ _ _ (by decide), Chip.flag_wrB_same _ _ _ _ (by decide)]
    rw [Chip.syncAdmit, Chip.flag_wr_apart _ _ _ _ _ _ (by decide), Chip.logReg, Chip.log_flag_other _ _ _ _ (by decide)]
    exact hset

section AvsDone
variable (s : Chip) (mv tries : Nat) (havs : s.pace.avs = some (mv, tries))
include havs

theorem Chip.avsDone_ok : s.avsDone true
    = Chip.endShortfall { s.wr A.PCE_STATUS F.PCE_STATUS_VCORE_MV mv with pace := { s.pace with avs := none, avsBad := false } } := by
  simp only [Chip.avsDone, havs, if_true, Chip.wr_pace]

theorem Chip.avsDone_retry (h : tries < 3) :
    s.avsDone false = { s with pace := { s.pace with avs := some (mv, tries + 1) }, out := .avsWrite mv :: s.out } := by
  simp only [Chip.avsDone, havs, Nat.blt_eq, h, Bool.false_eq_true, if_false, if_true, Chip.emitOut]

theorem Chip.avsDone_fault (h : 3 ≤ tries) : s.avsDone false
    = (Chip.wrB { s with pace := { s.pace with avs := none, avsBad := true } } A.PCE_STATUS F.PCE_STATUS_AVS_FAULT true).shortfall := by
  have h3 : Nat.blt tries 3 = false := by rw [← Bool.not_eq_true, Nat.blt_eq]; omega
  simp only [Chip.avsDone, havs, h3, Bool.false_eq_true, if_false]

end AvsDone

theorem exec_avsWriteDone (ok : Bool) (s : State) : exec (.avsWriteDone ok) s = .next (s.after (s.avsDone ok)) := rfl

/-- Settles O13: by the outcome of the write and the tries made. -/
theorem voltageWriteIsTriedThreeTimes : Obligations.VoltageWriteIsTriedThreeTimes := by
  unfold Obligations.VoltageWriteIsTriedThreeTimes
  intro s mv tries havs
  refine ⟨⟨_, exec_avsWriteDone true s, ?_⟩, fun h => ?_, fun h => ⟨_, exec_avsWriteDone false s, ?_⟩⟩
  · rw [s.toChip.avsDone_ok mv tries havs]
    refine ⟨(Chip.sameSupply_endShortfall _).vcore.trans (Chip.rd_wr_same s.toChip _ _ _), ?_, ?_⟩
    · rw [Chip.endShortfall_frame]
    · rw [Chip.endShortfall_frame]; rfl
  · rw [exec_avsWriteDone, s.toChip.avsDone_retry mv tries havs h]
  · rw [s.toChip.avsDone_fault mv tries havs h]
    have hsame := Chip.sameSupply_shortfall
      (Chip.wrB { s.toChip with pace := { s.pace with avs := none, avsBad := true } } A.PCE_STATUS F.PCE_STATUS_AVS_FAULT true)
    exact ⟨hsame.fault.trans (Chip.flag_wrB_same _ _ _ _ (by decide)), Chip.shortfall_flag _, hsame.avs, hsame.avsBad, hsame.out,
      hsame.vcore.trans (Chip.rd_wrB_apart _ _ _ _ _ _ (by decide))⟩

end Sys2Proof.Machine
end

section
/-!
Changes of the pace level (spec/02_pace_and_time.md R54, R59, R60, R61): what a write of PCE_POLICY, the retargeting of a lowering and the
throttle make of the level, of the loop's target and of the change under way.
-/
open Sys2Proof Sys2Proof.Machine
namespace Sys2Proof.Machine

/-! ### A write of PCE_POLICY -/

/-- PCE_POLICY, and a 64-bit write of it. -/
def policyLoc : Loc := ⟨.pcePolicy, 0, 0, 0, A.PCE_POLICY, 0⟩
def policyWrite (data : Nat) : WordWrite := ⟨policyLoc, A.PCE_POLICY, data, 2 ^ 64 - 1⟩

theorem policyWrite_whole (data : Nat) : (policyWrite data).whole := ⟨rfl, rfl⟩

theorem Chip.site_PCE_POLICY (s : Chip) : s.site A.PCE_POLICY = some ⟨policyLoc, A.PCE_POLICY, false⟩ :=
  s.site_plain _ _ (by decide) (by decide) (by decide) (by decide) (by decide) (by decide)

/-- A field written whole holds no reserved encoding where the bits written are none (R13). -/
theorem Chip.encodingOk_of_legal (s : Chip) (w : WordWrite) (hw : w.whole)
    (h : ∀ f ∈ w.loc.specs, f.fld.lo + f.fld.width ≤ 64 ∧ f.legal.ok (bits w.data f.fld.lo f.fld.width) = true) :
    s.encodingOk w = true := by
  unfold Chip.encodingOk
  refine List.all_eq_true.2 fun f hf => ?_
  obtain ⟨hfits, hok⟩ := h f hf
  rw [Chip.fieldAfter_whole s w f hw hfits, hok, Bool.or_true]

/-- A write of fields leaves what lies apart from all of them. -/
theorem Chip.rd_applyFields_apart (s : Chip) (w : WordWrite) (locked : Bool) (l : List FieldSpec) (b : Nat) (g : Fld)
    (h : ∀ f ∈ l, apart w.loc.base f.fld b g) :
    (l.foldl (fun s f => s.applyField w locked f) s).rd b g = s.rd b g := by
  induction l generalizing s with
  | nil => rfl
  | cons f l ih =>
    rw [List.foldl_cons, ih _ (fun x hx => h x (List.mem_cons_of_mem f hx))]
    obtain he | ⟨v, he⟩ := s.applyField_cases w locked f
    · rw [he]
    · rw [he, Chip.rd_wr_apart _ _ _ _ _ _ (h f List.mem_cons_self)]

theorem Chip.applyWord_policy_status (s : Chip) (data : Nat) (f : Fld) :
    (s.applyWord (policyWrite data) false []).rd A.PCE_STATUS f = s.rd A.PCE_STATUS f := by
  have hall : ∀ g ∈ (policyWrite data).loc.specs, g.fld.lo + g.fld.width ≤ 64 := by
    show ∀ g ∈ policyLoc.specs, _
    decide
  unfold Chip.applyWord
  rw [if_pos (show Nat.blt (policyWrite data).loc.word (policyWrite data).loc.kind.words = true from rfl)]
  refine Chip.rd_applyFields_apart _ _ _ _ _ _ fun g hg => .inr ?_
  have := hall g (List.mem_of_mem_filter hg)
  show 8 * A.PCE_POLICY + g.fld.lo + g.fld.width ≤ 8 * A.PCE_STATUS + f.lo
  unfold A.PCE_POLICY A.PCE_STATUS
  omega

theorem Chip.busWrite_policy_newt (s : Chip) (data : Nat) (hdata : data < 2 ^ 64) (hs : s.serves .newt A.PCE_POLICY)
    (hlow : 60 ≤ bits data 16 7) (hhigh : bits data 16 7 ≤ 105) (hmv : bits data 24 8 ≤ 20) :
    s.busWrite .newt true A.PCE_POLICY 8 data = (s.applyWord (policyWrite data) false []).policySet := by
  have hok : s.encodingOk (policyWrite data) = true := by
    refine s.encodingOk_of_legal _ (policyWrite_whole data) ?_
    show ∀ f ∈ RegKind.pcePolicy.fields 0 0, _
    simp [RegKind.fields, Legal.ok, policyWrite, F.PCE_POLICY_LEVEL, F.PCE_POLICY_FORCE, F.PCE_POLICY_GUARD, F.PCE_POLICY_THROTTLE_T,
      F.PCE_POLICY_THROTTLE_EN, F.PCE_POLICY_STEP_MV, hlow, hhigh, hmv]
  have hwhole : s.wholeFails (s.applyWord (policyWrite data) false []) (policyWrite data) = none := by
    unfold Chip.wholeFails
    rw [hok]
    rfl
  have hbus := s.busWrite_whole .newt true policyLoc A.PCE_POLICY data s.site_PCE_POLICY rfl (by decide) hdata hs rfl rfl rfl rfl (by decide)
  exact hbus.trans (s.writeFields_accepted .newt (policyWrite data) A.PCE_POLICY rfl hwhole)

theorem Chip.busWrite_policy_pf (s : Chip) (data : Nat) (hs : s.serves .pf A.PCE_POLICY) : s.busWrite .pf false A.PCE_POLICY 8 data
    = s.log { status := .accessDenied, subsys := .paceUnit, addrKind := 4, addr := A.PCE_POLICY } := by
  obtain ⟨hdeaf, hun⟩ := hs
  have hwidth : writeWidthOk (some policyLoc.kind) A.PCE_POLICY 8 = true := by decide
  unfold Chip.busWrite
  simp only [s.site_PCE_POLICY, hdeaf, hun, Option.elim_some, Option.map_some, hwidth]
  rfl

/-! ### What each change leaves -/

section Fields
variable (s : Chip) (l : Nat) (c : Change)

@[simp] theorem Chip.syncAdmit_pace : s.syncAdmit.pace = s.pace := (rfl)
@[simp] theorem Chip.retarget_pace : (s.retarget l).pace = { s.pace with target := l, met := 0, under := 0, change := .settle l } := (rfl)

theorem Chip.syncAdmit_frame : s.syncAdmit = { s with regs := s.syncAdmit.regs } := (rfl)
theorem Chip.retarget_frame : s.retarget l
    = { s with regs := (s.retarget l).regs, pace := { s.pace with target := l, met := 0, under := 0, change := .settle l } } := (rfl)

@[simp] theorem Chip.levelActive_syncAdmit : s.syncAdmit.levelActive = s.levelActive := Chip.rd_wr_apart _ _ _ _ _ _ (by decide)
@[simp] theorem Chip.levelActive_setChange : (s.setChange c).levelActive = s.levelActive := Chip.rd_wr_apart _ _ _ _ _ _ (by decide)

@[simp] theorem Chip.levelActive_retarget (hl : l < 8) : (s.retarget l).levelActive = l :=
  (Chip.levelActive_setChange _ _).trans ((Chip.rd_wr_same _ _ _ _).trans (Nat.mod_eq_of_lt hl))

@[simp] theorem Chip.levelActive_forceLower (hl : l < 8) : (s.forceLower l).levelActive = l :=
  (Chip.levelActive_syncAdmit _).trans (Chip.levelActive_retarget _ l hl)

theorem Chip.levelActive_lt : s.levelActive < 8 := s.rd_lt _ _

variable (f : Fld) (hf : f.lo + f.width ≤ 64)
include hf

/-- A write of PCE_STATUS leaves PCE_POLICY, and so do the operations that write PCE_STATUS alone. -/
theorem Chip.rd_policy_wr_status (g : Fld) (v : Nat) : (s.wr A.PCE_STATUS g v).rd A.PCE_POLICY f = s.rd A.PCE_POLICY f :=
  Chip.rd_wr_apart _ _ _ _ _ _ (.inl (by unfold A.PCE_POLICY A.PCE_STATUS; omega))

theorem Chip.rd_policy_syncAdmit : s.syncAdmit.rd A.PCE_POLICY f = s.rd A.PCE_POLICY f := s.rd_policy_wr_status f hf _ _

theorem Chip.rd_policy_setChange : (s.setChange c).rd A.PCE_POLICY f = s.rd A.PCE_POLICY f := Chip.rd_policy_wr_status _ f hf _ _

theorem Chip.rd_policy_forceLower : (s.forceLower l).rd A.PCE_POLICY f = s.rd A.PCE_POLICY f :=
  (Chip.rd_policy_syncAdmit _ f hf).trans ((Chip.rd_policy_setChange _ _ f hf).trans (Chip.rd_policy_wr_status _ f hf _ _))

end Fields

/-- ADMIT_LEVEL is no faster than the level of a lowering under way (R59). -/
theorem Chip.rd_syncAdmit_of_lower (s : Chip) (l : Nat) (hc : s.pace.change = .lower l) (hl : l < 8) :
    l ≤ s.syncAdmit.rd A.PCE_STATUS F.PCE_STATUS_ADMIT_LEVEL := by
  have hact := s.levelActive_lt
  unfold Chip.syncAdmit
  simp only [hc, Chip.rd_wr_same, F.PCE_STATUS_ADMIT_LEVEL]
  split <;> omega

/-! ### The level commanded (R59, R60) -/

/-- What a write of PCE_POLICY does about the level, once the throttling is ended. -/
def Chip.commandLevel (s : Chip) (l : Nat) : Chip :=
  if l == s.goal then s
  else if Nat.blt l s.levelActive then
    (Chip.setChange { s with pace := { s.pace with target := l, met := 0, under := 0 } } (.raise l)).syncAdmit
  else if s.flag A.PCE_POLICY F.PCE_POLICY_FORCE && Nat.blt s.levelActive l then s.forceLower l
  else (s.setChange (.lower l)).syncAdmit

theorem Chip.policySet_eq (s : Chip) : s.policySet = s.commandLevel (s.rd A.PCE_POLICY F.PCE_POLICY_LEVEL)
    ∨ s.policySet = (s.wrB A.PCE_STATUS F.PCE_STATUS_THROTTLING false).commandLevel (s.rd A.PCE_POLICY F.PCE_POLICY_LEVEL) := by
  unfold Chip.policySet
  dsimp only
  split
  · exact .inl rfl
  · exact .inr rfl

section CommandLevel
variable (s : Chip) (l : Nat)

theorem Chip.commandLevel_same (h : l = s.goal) : s.commandLevel l = s := by
  unfold Chip.commandLevel
  rw [if_pos (beq_iff_eq.2 h)]

theorem Chip.rd_policy_commandLevel (f : Fld) (hf : f.lo + f.width ≤ 64) :
    (s.commandLevel l).rd A.PCE_POLICY f = s.rd A.PCE_POLICY f := by
  unfold Chip.commandLevel
  split
  · rfl
  · split
    · exact (Chip.rd_policy_syncAdmit _ f hf).trans (Chip.rd_policy_setChange _ _ f hf)
    · split
      · exact s.rd_policy_forceLower l f hf
      · exact (Chip.rd_policy_syncAdmit _ f hf).trans (Chip.rd_policy_setChange _ _ f hf)

variable (hne : l ≠ s.goal)
include hne

theorem Chip.commandLevel_raise (h : l < s.levelActive) : (s.commandLevel l).pace.change = .raise l ∧ (s.commandLevel l).pace.target = l
    ∧ (s.commandLevel l).levelActive = s.levelActive := by
  have he : s.commandLevel l
      = (Chip.setChange { s with pace := { s.pace with target := l, met := 0, under := 0 } } (.raise l)).syncAdmit := by
    unfold Chip.commandLevel
    rw [if_neg (by simpa using hne), if_pos (by simpa using h)]
  rw [he]
  exact ⟨rfl, rfl, (Chip.levelActive_syncAdmit _).trans (Chip.levelActive_setChange _ _)⟩

variable (h : s.levelActive < l) (hl : l < 8)
include h hl

theorem Chip.commandLevel_lower (hforce : s.rd A.PCE_POLICY F.PCE_POLICY_FORCE = 0) : (s.commandLevel l).pace.change = .lower l
    ∧ (s.commandLevel l).pace.target = s.pace.target ∧ (s.commandLevel l).levelActive = s.levelActive
    ∧ l ≤ (s.commandLevel l).rd A.PCE_STATUS F.PCE_STATUS_ADMIT_LEVEL := by
  have he : s.commandLevel l = (s.setChange (.lower l)).syncAdmit := by
    unfold Chip.commandLevel
    rw [if_neg (by simpa using hne), if_neg (by simp; omega), if_neg (by simp [Chip.flag, hforce])]
  rw [he]
  exact ⟨rfl, rfl, (Chip.levelActive_syncAdmit _).trans (Chip.levelActive_setChange _ _), Chip.rd_syncAdmit_of_lower _ l rfl hl⟩

theorem Chip.commandLevel_force (hforce : s.rd A.PCE_POLICY F.PCE_POLICY_FORCE = 1) : (s.commandLevel l).pace.change = .settle l
    ∧ (s.commandLevel l).pace.target = l ∧ (s.commandLevel l).levelActive = l := by
  have he : s.commandLevel l = s.forceLower l := by
    unfold Chip.commandLevel
    rw [if_neg (by simpa using hne), if_neg (by simp; omega), if_pos (by simp [Chip.flag, hforce, h])]
  rw [he]
  exact ⟨rfl, rfl, s.levelActive_forceLower l hl⟩

end CommandLevel

/-- PCE_POLICY set acts on the level as a command does on a state with the same loop, level and policy. -/
theorem Chip.policySet_commands (s : Chip) : ∃ r : Chip, s.policySet = r.commandLevel (s.rd A.PCE_POLICY F.PCE_POLICY_LEVEL)
    ∧ r.pace = s.pace ∧ r.levelActive = s.levelActive ∧ ∀ f : Fld, f.lo + f.width ≤ 64 → r.rd A.PCE_POLICY f = s.rd A.PCE_POLICY f := by
  obtain h | h := s.policySet_eq
  · exact ⟨s, h, rfl, rfl, fun _ _ => rfl⟩
  · exact ⟨_, h, rfl, Chip.rd_wrB_apart _ _ _ _ _ _ (by decide), fun f hf => s.rd_policy_wr_status f hf _ _⟩

/-! ### The throttle (R61) -/

theorem Chip.due_startTimer_same (s : Chip) (t : Timer) (n : Nat) : (s.startTimer t n).due t = some (s.raw + n) := by
  simp [Chip.due, Chip.startTimer]

/-- Timers changed in their due ticks alone, and `t` not changed at all. -/
theorem find_map_timer (l : List (Timer × Nat)) (f : Timer × Nat → Timer × Nat) (t : Timer) (hkey : ∀ e, (f e).1 = e.1)
    (hsame : ∀ e, e.1 = t → f e = e) : (l.map f).find? (fun e => e.1 == t) = l.find? (fun e => e.1 == t) := by
  induction l with
  | nil => rfl
  | cons e l ih =>
    rw [List.map_cons, List.find?_cons, List.find?_cons, hkey, ih]
    split
    next h => rw [hsame e (beq_iff_eq.1 h)]
    next => rfl

/-- A forced lowering lengthens kernel watchdogs alone. -/
theorem Chip.due_stretchKernels (s : Chip) (old new : Nat) (t : Timer) (ht : ∀ n, t ≠ .kernel n) :
    (s.stretchKernels old new).due t = s.due t := by
  refine congrArg _ (find_map_timer s.timers _ t (fun e => ?_) (fun e he => ?_))
  · split <;> rfl
  · split
    next n hn => exact absurd (he.symm.trans hn) (ht n)
    next => rfl

theorem Chip.due_forceLower_throttle (s : Chip) (l : Nat) : (s.forceLower l).due .throttle = s.due .throttle :=
  s.due_stretchKernels _ _ _ (by simp)

theorem Chip.flag_forceLower_throttling (s : Chip) (l : Nat) :
    (s.forceLower l).flag A.PCE_STATUS F.PCE_STATUS_THROTTLING = s.flag A.PCE_STATUS F.PCE_STATUS_THROTTLING :=
  (Chip.flag_wr_apart _ _ _ _ _ _ (by decide)).trans ((Chip.flag_wrB_apart _ _ _ _ _ _ (by decide)).trans
    (Chip.flag_wr_apart _ _ _ _ _ _ (by decide)))

theorem Chip.throttleAgain_of_hot (s c : Chip) (hc : s.expire .throttle = some c) (hot : c.tooHot = true) :
    s.throttleAgain = c.throttle := by
  simp only [Chip.throttleAgain, hc, hot, if_true]

theorem Chip.throttle_lowers (s : Chip) (h : s.levelActive < 7) : s.throttle
    = ((s.wrB A.PCE_STATUS F.PCE_STATUS_THROTTLING true).startTimer .throttle (ms 1)).forceLower (s.levelActive + 1) := by
  have hlevel : ((s.wrB A.PCE_STATUS F.PCE_STATUS_THROTTLING true).startTimer .throttle (ms 1)).levelActive = s.levelActive :=
    Chip.rd_wrB_apart _ _ _ _ _ _ (by decide)
  unfold Chip.throttle
  dsimp only
  rw [hlevel, if_pos (Nat.blt_eq.mpr h)]

/-! ### The commands -/

theorem Chip.lowerRetarget_takes (s : Chip) (l : Nat) (hc : s.pace.change = .lower l) (hk : s.fasterKernels l = false)
    (hmv : s.rd A.PCE_POLICY F.PCE_POLICY_STEP_MV ≠ 0) : s.lowerRetarget = (s.retarget l).syncAdmit := by
  unfold Chip.lowerRetarget
  simp only [hc, hk, Bool.false_or]
  rw [if_neg (by simpa using hmv)]

theorem exec_pcePolicyWrite (src : Source) (data : Nat) (s : State) :
    exec (.pcePolicyWrite src data) s = .next (s.after (s.busWrite src (src == .newt) A.PCE_POLICY 8 data)) := rfl

theorem exec_lowerRetarget (s : State) : exec .lowerRetarget s = .next (s.after s.lowerRetarget) := rfl

theorem exec_throttleLowering (s : State) : exec .throttleLowering s = .next (s.after s.throttleAgain) := rfl

/-- The fields of PCE_POLICY. -/
def policyFields : List Fld := [F.PCE_POLICY_LEVEL, F.PCE_POLICY_FORCE, F.PCE_POLICY_GUARD, F.PCE_POLICY_THROTTLE_T, F.PCE_POLICY_THROTTLE_EN,
  F.PCE_POLICY_STEP_MV]

/-- A whole write of PCE_POLICY puts each of its fields. -/
theorem Chip.applyWord_policy_fields (s : Chip) (data : Nat) : ∀ f ∈ policyFields, f.lo + f.width ≤ 64
    ∧ (s.applyWord (policyWrite data) false []).rd A.PCE_POLICY f = bits data f.lo f.width := by
  obtain ⟨-, hfields⟩ := s.applyWord_whole _ (policyWrite_whole data)
  show ∀ f ∈ (RegKind.pcePolicy.fields 0 0).map (·.fld), _
  refine List.forall_mem_map.2 fun f hf => ?_
  have hplain : f.fld.lo + f.fld.width ≤ 64 ∧ f.acc = .rw := by
    revert f
    decide
  obtain ⟨hfits, hrw⟩ := hplain
  refine ⟨hfits, (hfields f hf hfits).trans ?_⟩
  simp only [FieldSpec.written, hrw]
  rfl

/-- A write of PCE_POLICY by Newt commands the level that it asks for, on a state with the new policy and the loop and level of before. -/
theorem Chip.policyWrite_commands (s : Chip) (data : Nat) (hdata : data < 2 ^ 64) (hs : s.serves .newt A.PCE_POLICY)
    (hlow : 60 ≤ bits data 16 7) (hhigh : bits data 16 7 ≤ 105) (hmv : bits data 24 8 ≤ 20) :
    ∃ r : Chip, s.busWrite .newt true A.PCE_POLICY 8 data = r.commandLevel (bits data 0 3) ∧ r.pace = s.pace
      ∧ r.levelActive = s.levelActive ∧ r.goal = s.goal
      ∧ ∀ f ∈ policyFields, f.lo + f.width ≤ 64 ∧ r.rd A.PCE_POLICY f = bits data f.lo f.width := by
  obtain ⟨hframe, -⟩ := s.applyWord_whole _ (policyWrite_whole data)
  have hput := s.applyWord_policy_fields data
  obtain ⟨r, hr, hpace, hlevel, hpolicy⟩ := (s.applyWord (policyWrite data) false []).policySet_commands
  have hloop : r.pace = s.pace := hpace.trans (by rw [hframe])
  have hact : r.levelActive = s.levelActive := hlevel.trans (s.applyWord_policy_status data _)
  refine ⟨r, ?_, hloop, hact, ?_, fun f hf => ?_⟩
  · rw [s.busWrite_policy_newt data hdata hs hlow hhigh hmv, hr]
    exact congrArg _ (hput F.PCE_POLICY_LEVEL (by decide)).2
  · unfold Chip.goal
    rw [hloop, hact]
  · obtain ⟨hfits, hbits⟩ := hput f hf
    exact ⟨hfits, (hpolicy f hfits).trans hbits⟩

/-- Settles O14: a write of the policy stores its fields and then commands the level; the retargeting of a lowering and the throttle each
set the level at once. -/
theorem levelChangesFollowThePolicy : Obligations.LevelChangesFollowThePolicy := by
  unfold Obligations.LevelChangesFollowThePolicy
  refine ⟨fun data s hdata hs hlow hhigh hmv => ?_, fun data s hs => ?_, fun s l hc hk hmv hl => ?_, fun s c hc hot h7 => ?_⟩
  · obtain ⟨r, hcommand, hloop, hact, hsame, hput⟩ := s.toChip.policyWrite_commands data hdata hs hlow hhigh hmv
    have hl8 : bits data 0 3 < 8 := bits_lt _ _ _
    have hforce : r.rd A.PCE_POLICY F.PCE_POLICY_FORCE = bits data 3 1 := (hput _ (by decide)).2
    refine ⟨r.commandLevel (bits data 0 3), ?_, fun f hf => ?_, ?_⟩
    · rw [exec_pcePolicyWrite]
      exact congrArg (fun u => Host.Outcome.next (s.after u)) hcommand
    · obtain ⟨hfits, hbits⟩ := hput f hf
      exact (r.rd_policy_commandLevel _ f hfits).trans hbits
    · dsimp only
      rw [← hsame, ← hact, ← hloop]
      refine ⟨fun hne => ⟨r.commandLevel_raise _ hne, fun h h0 => r.commandLevel_lower _ hne h hl8 (hforce.trans h0),
        fun h h1 => r.commandLevel_force _ hne h hl8 (hforce.trans h1)⟩, fun h => ?_⟩
      rw [r.commandLevel_same _ h]
      exact ⟨rfl, rfl⟩
  · rw [exec_pcePolicyWrite]
    exact congrArg (fun u => Host.Outcome.next (s.after u)) (s.toChip.busWrite_policy_pf data hs)
  · refine ⟨_, exec_lowerRetarget s, ?_⟩
    rw [s.toChip.lowerRetarget_takes l hc hk hmv]
    refine ⟨(Chip.levelActive_syncAdmit _).trans (Chip.levelActive_retarget _ l hl), ?_, ?_, ?_⟩
    · rw [Chip.syncAdmit_pace, Chip.retarget_pace]
    · rw [Chip.syncAdmit_pace, Chip.retarget_pace]
    · rw [Chip.syncAdmit_frame, Chip.retarget_frame]
  · refine ⟨_, exec_throttleLowering s, ?_⟩
    rw [s.toChip.throttleAgain_of_hot c hc hot, c.throttle_lowers h7]
    refine ⟨Chip.levelActive_forceLower _ _ (by omega), rfl, ?_, ?_⟩
    · rw [Chip.flag_forceLower_throttling]
      exact Chip.flag_wrB_same c _ _ _ (by decide)
    · rw [Chip.due_forceLower_throttle, Chip.due_startTimer_same]
      rfl

end Sys2Proof.Machine
end

section
/-!
The time base (spec/02_pace_and_time.md R66 to R69, spec/18_register_map.md R545): ticks, reads of its two halves, and the correction of
its offset.
-/
open Sys2Proof Sys2Proof.Machine
namespace Sys2Proof.Machine

/-! ### Ticks -/

/-- Time that passes changes the time base, its correction and the field that shows it, and nothing else. -/
theorem Chip.advance_frame (s : Chip) (n : Nat) :
    s.advance n = { s with raw := s.raw + n, tb := (s.advance n).tb, regs := (s.advance n).regs, align := (s.advance n).align } := by
  unfold Chip.advance
  dsimp only
  split <;> rfl

theorem Chip.advance_unslewed (s : Chip) (n : Nat) (h : s.align.slew = 0) :
    s.advance n = { s with raw := s.raw + n, tb := (s.tb + n) % 2 ^ 64 } := by
  have htb : codeOfInt 64 ((s.tb + n : Nat) + 0) = (s.tb + n) % 2 ^ 64 := by
    unfold codeOfInt
    omega
  simp only [Chip.advance, Chip.slewed, h, beq_self_eq_true, if_true, htb]
  simp

/-- Settles O2: an idle tick is time that passes by 1 ns, and the end of the wait of the pads. -/
theorem emptyQueuePassesOneTick : Obligations.EmptyQueuePassesOneTick := by
  unfold Obligations.EmptyQueuePassesOneTick
  intro s hempty
  have hstep : step s = .next (s.run (fun s => s.idleTick)) := by
    unfold step
    rw [hempty]
  refine ⟨_, hstep, hempty, s.toChip.advance_raw 1, fun hslew => ?_, ?_⟩
  · have htick := s.toChip.advance_unslewed 1 hslew
    exact ⟨(congrArg Chip.tb htick : (s.toChip.advance 1).tb = _), (congrArg Chip.regs htick : (s.toChip.advance 1).regs = _)⟩
  · show (s.toChip.advance 1).spiDone = { s.toChip with
      raw := (s.toChip.advance 1).raw, tb := (s.toChip.advance 1).tb, regs := (s.toChip.advance 1).regs
      align := (s.toChip.advance 1).align, power := { s.power with padWait := none } }
    unfold Chip.spiDone Chip.modPower
    rw [s.toChip.advance_frame 1]

/-! ### Reads of the time base (R67, R545) -/

/-- PCE_TB. -/
def timeLoc : Loc := ⟨.pceTb, 0, 0, 0, A.PCE_TB, 0⟩

theorem Chip.site_PCE_TB (s : Chip) : s.site A.PCE_TB = some ⟨timeLoc, A.PCE_TB, false⟩ :=
  s.site_plain _ _ (by decide) (by decide) (by decide) (by decide) (by decide) (by decide)

/-- The upper half of the word is reached through the word. -/
theorem Chip.site_PCE_TB_HI (s : Chip) : s.site (A.PCE_TB + 4) = some ⟨timeLoc, A.PCE_TB, false⟩ := s.site_PCE_TB

/-- Every source sees the time base. -/
theorem Chip.seenBy_timeLoc (s : Chip) (src : Source) : s.seenBy src timeLoc = allBits := by
  cases src <;> rfl

theorem Chip.deaf_PCE_TB_HI (s : Chip) (src : Source) : s.deaf src (A.PCE_TB + 4) = s.deaf src A.PCE_TB := (rfl)

/-- A served read of one half of the time base. -/
theorem Chip.busRead_time (s : Chip) (src : Source) (off : Nat) (hoff : off = A.PCE_TB ∨ off = A.PCE_TB + 4)
    (hserved : s.deaf src A.PCE_TB = false) : s.busRead src off 4
      = ((s.readWord src ⟨timeLoc, A.PCE_TB, false⟩ off 4).1, bits (s.readWord src ⟨timeLoc, A.PCE_TB, false⟩ off 4).2 (8 * (off % 8)) 32) := by
  have hsite : s.site off = some ⟨timeLoc, A.PCE_TB, false⟩ := by
    rcases hoff with rfl | rfl
    · exact s.site_PCE_TB
    · exact s.site_PCE_TB_HI
  have hdeaf : s.deaf src off = false := by
    rcases hoff with rfl | rfl
    · exact hserved
    · exact (s.deaf_PCE_TB_HI src).trans hserved
  have hwidth : ([1, 2, 4, 8].contains 4 && off % 4 == 0) = true := by
    rcases hoff with rfl | rfl <;> decide
  have hplane : s.unserved off = none := by
    rcases hoff with rfl | rfl <;> rfl
  unfold Chip.busRead
  simp only [hsite, hdeaf, hwidth, hplane, Option.elim_some, s.seenBy_timeLoc src]
  rfl

theorem Chip.busRead_PCE_TB_LO (s : Chip) (src : Source) (hserved : s.deaf src A.PCE_TB = false) :
    s.busRead src A.PCE_TB 4 = (s.setLatch src (s.tb / 2 ^ 32 % 2 ^ 32), s.tb % 2 ^ 32) := by
  rw [s.busRead_time src _ (.inl rfl) hserved]
  refine congrArg _ ?_
  show bits (s.tb % 2 ^ 32 + s.latch src <<< 32) 0 32 = _
  rw [bits_zero, Nat.shiftLeft_eq]
  omega

theorem Chip.busRead_PCE_TB_HI (s : Chip) (src : Source) (hserved : s.deaf src A.PCE_TB = false) :
    s.busRead src (A.PCE_TB + 4) 4 = (s, s.latch src % 2 ^ 32) := by
  rw [s.busRead_time src _ (.inr rfl) hserved]
  refine congrArg _ ?_
  show bits (s.tb % 2 ^ 32 + s.latch src <<< 32) 32 32 = _
  rw [bits, Nat.shiftRight_eq_div_pow, Nat.shiftLeft_eq]
  omega

section Latch
variable (s : Chip) (src : Source) (v : Nat)

theorem Chip.latch_setLatch_same : (s.setLatch src v).latch src = v := by
  cases src with
  | vf p => simp only [Chip.latch, Chip.setLatch, Tab.find_put_same, Option.getD_some]
  | _ => rfl

theorem Chip.latch_setLatch_other (src' : Source) (h : src' ≠ src) : (s.setLatch src v).latch src' = s.latch src' := by
  cases src with
  | pf =>
    cases src' with
    | pf => exact absurd rfl h
    | _ => rfl
  | newt =>
    cases src' with
    | newt => exact absurd rfl h
    | _ => rfl
  | vf p =>
    cases src' with
    | vf q =>
      have hq : q ≠ p := fun e => h (congrArg Source.vf e)
      simp only [Chip.latch, Chip.setLatch, Tab.find_put_other _ _ _ _ hq]
    | _ => rfl

theorem Chip.setLatch_frame : s.setLatch src v = { s with
    latchPf := (s.setLatch src v).latchPf, latchVf := (s.setLatch src v).latchVf, latchNewt := (s.setLatch src v).latchNewt } := by
  cases src <;> rfl

end Latch

theorem exec_tbLoRead (src : Source) (off bytes : Nat) (s : State) : exec (.tbLoRead src off bytes) s
    = .next (s.run (fun s => (s.busRead src off bytes).1.emitOut (.regRead src off (s.busRead src off bytes).2))) := rfl

/-- The part after a read of PCE_TB_LO: the reader's latch is loaded and the low half has left. -/
def Chip.afterLoRead (s : Chip) (src : Source) : Chip :=
  (s.setLatch src (s.tb / 2 ^ 32 % 2 ^ 32)).emitOut (.regRead src A.PCE_TB (s.tb % 2 ^ 32))

theorem exec_tbLoRead_lo (src : Source) (s : State) (hserved : s.deaf src A.PCE_TB = false) :
    exec (.tbLoRead src A.PCE_TB 4) s = .next { s with toChip := s.afterLoRead src } := by
  rw [exec_tbLoRead, State.run, s.toChip.busRead_PCE_TB_LO src hserved]
  rfl

theorem exec_tbLoRead_hi (src : Source) (s : State) (hserved : s.deaf src A.PCE_TB = false) : exec (.tbLoRead src (A.PCE_TB + 4) 4) s
    = .next { s with out := .regRead src (A.PCE_TB + 4) (s.latch src % 2 ^ 32) :: s.out } := by
  rw [exec_tbLoRead, State.run, s.toChip.busRead_PCE_TB_HI src hserved]
  rfl

/-- Settles O9: the read of the low half loads the latch, and the read of the high half returns it. -/
theorem timeBaseReadLatchesHighHalf : Obligations.TimeBaseReadLatchesHighHalf := by
  unfold Obligations.TimeBaseReadLatchesHighHalf
  intro src s hserved
  have hread := exec_tbLoRead_lo src s hserved
  have hlatch : (s.toChip.afterLoRead src).latch src = s.tb / 2 ^ 32 % 2 ^ 32 := s.toChip.latch_setLatch_same src _
  have hother : ∀ src', src' ≠ src → (s.toChip.afterLoRead src).latch src' = s.latch src' := s.toChip.latch_setLatch_other src _
  have hout : (s.toChip.afterLoRead src).out = .regRead src A.PCE_TB (s.tb % 2 ^ 32) :: s.out := by
    unfold Chip.afterLoRead
    rw [Chip.emitOut_out, Chip.setLatch_frame]
  have hframe : s.toChip.afterLoRead src = { s.toChip with
      out := (s.toChip.afterLoRead src).out, latchPf := (s.toChip.afterLoRead src).latchPf
      latchVf := (s.toChip.afterLoRead src).latchVf, latchNewt := (s.toChip.afterLoRead src).latchNewt } := by
    unfold Chip.afterLoRead Chip.emitOut
    rw [Chip.setLatch_frame]
  generalize s.toChip.afterLoRead src = t at hread hlatch hother hout hframe
  refine ⟨{ s with toChip := t }, hread, hout, hlatch, hother, congrArg (fun u => ({ s with toChip := u } : State)) hframe, fun n => ?_⟩
  have hserved' : Chip.deaf { t with tb := n } src A.PCE_TB = false := by
    rw [hframe]
    exact hserved
  refine ⟨_, exec_tbLoRead_hi src { toChip := { t with tb := n }, pending := s.pending } hserved', ?_⟩
  show OutEv.regRead src (A.PCE_TB + 4) (t.latch src % 2 ^ 32) :: t.out = _
  rw [hlatch, Nat.mod_mod]

/-! ### The correction of an offset (R69, R472) -/

/-- Registers do not hold the time base, nor what is left of its correction. -/
theorem Chip.rd_of_time (s : Chip) (n : Nat) (x : Align) (a : Nat) (f : Fld) :
    ({ s with tb := n, align := x } : Chip).rd a f = s.rd a f := (rfl)
theorem Chip.flag_of_time (s : Chip) (n : Nat) (x : Align) (a : Nat) (f : Fld) :
    ({ s with tb := n, align := x } : Chip).flag a f = s.flag a f := (rfl)
theorem Chip.rd_of_align (s : Chip) (x : Align) (a : Nat) (f : Fld) : ({ s with align := x } : Chip).rd a f = s.rd a f := (rfl)

theorem codeOfInt_lt (width : Nat) (i : Int) : codeOfInt width i < 2 ^ width := by
  have hpos : (0 : Int) < 2 ^ width := by positivity
  have hlt := Int.emod_lt_of_pos i hpos
  have hnonneg := Int.emod_nonneg i (ne_of_gt hpos)
  unfold codeOfInt
  zify
  rw [Int.toNat_of_nonneg hnonneg]
  exact hlt

section Correct
variable (s : Chip) (o : Int) (first : Bool)

/-- The registers of the correction as a step leaves them, and as a slew of `ppm` does. -/
def Chip.markStep : Chip :=
  ((s.wr A.PCE_TB_ADJ F.PCE_TB_ADJ_OFFSET_NS (codeOfInt 32 o)).wrB A.PCE_TB_ADJ F.PCE_TB_ADJ_STEP_SEEN true).wr
    A.PCE_TB_ADJ F.PCE_TB_ADJ_SLEW_PPM 0
def Chip.markSlew : Chip :=
  (s.wr A.PCE_TB_ADJ F.PCE_TB_ADJ_OFFSET_NS (codeOfInt 32 o)).wr A.PCE_TB_ADJ F.PCE_TB_ADJ_SLEW_PPM
    (codeOfInt 11 (if o == 0 then 0 else if o < 0 then -1000 else 1000))

theorem Chip.correctTime_step (h : 1000 < o ∨ first = true ∧ o < -1000) : s.correctTime o first
    = { s.markStep o with tb := codeOfInt 64 (s.tb + o), align := { done := true } } := by
  unfold Chip.correctTime
  rw [if_pos (by simpa using h)]
  rfl

theorem Chip.correctTime_slew (h : ¬ (1000 < o ∨ first = true ∧ o < -1000)) : s.correctTime o first
    = { s.markSlew o with align := { done := true, slew := o } } := by
  unfold Chip.correctTime
  rw [if_neg (by simpa using h)]
  rfl

theorem Chip.rd_offset_written : (s.wr A.PCE_TB_ADJ F.PCE_TB_ADJ_OFFSET_NS (codeOfInt 32 o)).rd A.PCE_TB_ADJ F.PCE_TB_ADJ_OFFSET_NS
    = codeOfInt 32 o := by
  rw [Chip.rd_wr_same]
  exact Nat.mod_eq_of_lt (codeOfInt_lt 32 o)

theorem Chip.markStep_offset : (s.markStep o).rd A.PCE_TB_ADJ F.PCE_TB_ADJ_OFFSET_NS = codeOfInt 32 o := by
  unfold Chip.markStep
  rw [Chip.rd_wr_apart _ _ _ _ _ _ (by decide), Chip.rd_wrB_apart _ _ _ _ _ _ (by decide), Chip.rd_offset_written]

theorem Chip.markStep_seen : (s.markStep o).flag A.PCE_TB_ADJ F.PCE_TB_ADJ_STEP_SEEN = true := by
  unfold Chip.markStep
  rw [Chip.flag_wr_apart _ _ _ _ _ _ (by decide), Chip.flag_wrB_same _ _ _ _ (by decide)]

theorem Chip.markSlew_offset : (s.markSlew o).rd A.PCE_TB_ADJ F.PCE_TB_ADJ_OFFSET_NS = codeOfInt 32 o := by
  unfold Chip.markSlew
  rw [Chip.rd_wr_apart _ _ _ _ _ _ (by decide), Chip.rd_offset_written]

theorem Chip.correctTime_offset : (s.correctTime o first).rd A.PCE_TB_ADJ F.PCE_TB_ADJ_OFFSET_NS = codeOfInt 32 o := by
  by_cases h : 1000 < o ∨ first = true ∧ o < -1000
  · rw [s.correctTime_step o first h, Chip.rd_of_time, s.markStep_offset]
  · rw [s.correctTime_slew o first h, Chip.rd_of_align, s.markSlew_offset]

theorem Chip.correctTime_frame : s.correctTime o first = { s with
    regs := (s.correctTime o first).regs, tb := (s.correctTime o first).tb, align := (s.correctTime o first).align } := by
  by_cases h : 1000 < o ∨ first = true ∧ o < -1000
  · rw [s.correctTime_step o first h]
    rfl
  · rw [s.correctTime_slew o first h]
    rfl

theorem Chip.correctTime_done : (s.correctTime o first).align.done = true := by
  by_cases h : 1000 < o ∨ first = true ∧ o < -1000
  · rw [s.correctTime_step o first h]
  · rw [s.correctTime_slew o first h]

theorem Chip.correctTime_stepped (h : 1000 < o ∨ first = true ∧ o < -1000) : (s.correctTime o first).tb = codeOfInt 64 (s.tb + o)
    ∧ (s.correctTime o first).align.slew = 0 ∧ (s.correctTime o first).flag A.PCE_TB_ADJ F.PCE_TB_ADJ_STEP_SEEN = true := by
  rw [s.correctTime_step o first h]
  exact ⟨rfl, rfl, (Chip.flag_of_time _ _ _ _ _).trans (s.markStep_seen o)⟩

theorem Chip.correctTime_slewed (hmax : o ≤ 1000) (hmin : first = false ∨ -1000 ≤ o) :
    (s.correctTime o first).tb = s.tb ∧ (s.correctTime o first).align.slew = o := by
  have h : ¬ (1000 < o ∨ first = true ∧ o < -1000) := by
    rintro (h | ⟨hfirst, h⟩)
    · omega
    · rcases hmin with hlater | hmin
      · rw [hfirst] at hlater; cases hlater
      · omega
  rw [s.correctTime_slew o first h]
  exact ⟨rfl, rfl⟩

end Correct

/-! ### Time tadpoles and the root's reference -/

section Tadpole
variable (s : Chip) (n : Nat) (p : Packet) (hrsv : bits p.body 193 191 = 0)
include hrsv

theorem Chip.timeTadpole_request (h : (TimeBody.ofBody p.body).response = false) : s.timeTadpole n p
    = s.sendTime n { t1 := (TimeBody.ofBody p.body).t1, t2 := s.tb, t3 := s.tb, response := true } := by
  unfold Chip.timeTadpole
  simp only [hrsv, h]
  rfl

theorem Chip.timeTadpole_answer (h : (TimeBody.ofBody p.body).response = true) (hparent : s.hasParent = true)
    (hport : n = s.rd A.PCE_TB_PARENT F.PCE_TB_PARENT_PORT) : s.timeTadpole n p
    = s.correctTime ((signedOf 64 ((TimeBody.ofBody p.body).t2 + 2 ^ 64 - (TimeBody.ofBody p.body).t1)
        - signedOf 64 (s.tb + 2 ^ 64 - (TimeBody.ofBody p.body).t3)) / 2) (!s.align.done) := by
  unfold Chip.timeTadpole
  simp only [hrsv, h, hparent, ← hport, bne_self_eq_false, Bool.false_eq_true, Bool.not_true, beq_self_eq_true, Bool.and_true, if_true,
    if_false]

end Tadpole

theorem Chip.timeExchange_of_parent (s c : Chip) (hc : s.expire .exchange = some c) (hparent : c.hasParent = true) : s.timeExchange
    = (c.sendTime (c.rd A.PCE_TB_PARENT F.PCE_TB_PARENT_PORT) { t1 := c.tb }).startTimer .exchange
        (us (c.rd A.GLB_TIMERS1 F.GLB_TIMERS1_TT_EXCH_US)) := by
  simp only [Chip.timeExchange, hc, hparent, if_true]

theorem exec_timeTadpoleExchange (s : State) : exec .timeTadpoleExchange s = .next (s.after s.timeExchange) := rfl

theorem exec_timeTadpole_of_accepts (n : Fin 128) (p : Packet) (s : State) (h : s.accepts p) :
    exec (.timeTadpole n p) s = .next (s.after (((s.taken p).timeTadpole n.val p).flowApplied p)) := by
  have hrun : exec (.timeTadpole n p) s = .next (s.after (s.consume p (fun s => s.timeTadpole n.val p))) := rfl
  rw [hrun, Chip.consume_of_accepts _ _ _ h]

theorem exec_ptpMessage (o : Int) (s : State) : exec (.ptpMessage o) s = .next (s.after (s.ptpOffset o)) := rfl

/-- Settles O15: an answer of the parent and an offset of the root's reference go through the same correction. -/
theorem offsetsAreSteppedOrSlewedOut : Obligations.OffsetsAreSteppedOrSlewedOut := by
  unfold Obligations.OffsetsAreSteppedOrSlewedOut
  refine ⟨fun s c hc hparent => ⟨_, exec_timeTadpoleExchange s, s.toChip.timeExchange_of_parent c hc hparent⟩,
    ?_, ?_, fun o s hroot => ?_, fun o s hroot => ?_⟩
  · intro n p s hacc hrsv hreq v
    rw [exec_timeTadpole_of_accepts n p s hacc, Chip.timeTadpole_request _ _ _ hrsv hreq]
  · intro n p s o hacc hrsv t v hans hparent hport ho
    refine ⟨_, exec_timeTadpole_of_accepts n p s hacc, ?_⟩
    rw [Chip.timeTadpole_answer (s.taken p) _ p hrsv hans hparent hport, ← ho]
    refine ⟨Chip.correctTime_offset _ _ _, Chip.correctTime_done _ _ _, fun h => Chip.correctTime_stepped _ _ _ ?_,
      fun hmax hmin => Chip.correctTime_slewed _ _ _ hmax ?_, Chip.correctTime_frame _ _ _⟩
    · exact h.imp_right (fun h => ⟨by rw [h.1]; rfl, h.2⟩)
    · exact hmin.imp_left (fun h => by rw [h]; rfl)
  · have hcorrect : s.toChip.ptpOffset o = s.toChip.correctTime o false := if_pos hroot
    refine ⟨_, exec_ptpMessage o s, ?_⟩
    rw [hcorrect]
    refine ⟨Chip.correctTime_offset _ _ _, fun h => ?_, fun h => Chip.correctTime_slewed _ _ _ h (.inl rfl), Chip.correctTime_frame _ _ _⟩
    obtain ⟨htb, hslew, -⟩ := s.toChip.correctTime_stepped o false (.inl h)
    exact ⟨htb, hslew⟩
  · have hkept : s.toChip.ptpOffset o = s.toChip := if_neg (by rw [hroot]; decide)
    rw [exec_ptpMessage, hkept]

end Sys2Proof.Machine
end

section
/-!
Counterparts that never come (spec/02_pace_and_time.md R72, spec/14_errors_and_reliability.md R458, R459): the units and digests of the
shadow comparator, and stages that are stuck.
-/
open Sys2Proof Sys2Proof.Machine
namespace Sys2Proof.Machine

/-! ### Registers while time passes and records are written -/

theorem Chip.advance_rd_apart (s : Chip) (n b : Nat) (g : Fld) (h : apart A.PCE_TB_ADJ F.PCE_TB_ADJ_SLEW_PPM b g) :
    (s.advance n).rd b g = s.rd b g := by
  unfold Chip.advance
  dsimp only
  split
  · exact Chip.rd_wr_apart _ _ _ _ _ _ h
  · rfl

/-- A record keeps what lies below the ring of records, apart from the ring's head, its tail and the count of lost records. -/
theorem Chip.log_rd_below_ring (s : Chip) (r : LogRec) (b : Nat) (g : Fld) (hring : b + 8 * ((g.lo + g.width + 63) / 64) ≤ A.ERR_LOG 0)
    (hhead : apart A.ERR_STATUS F.ERR_STATUS_HEAD b g) (hlost : apart A.ERR_STATUS F.ERR_STATUS_HOST_LOST b g)
    (htail : apart A.ERR_HOST_TAIL F.ERR_HOST_TAIL_TAIL b g) : (s.log r).rd b g = s.rd b g := by
  have hroom : s.logRoom.rd b g = s.rd b g := by
    unfold Chip.logRoom
    split
    · rw [Chip.rd_wr_apart _ _ _ _ _ _ htail, Chip.count, Chip.bump, Chip.rd_wr_apart _ _ _ _ _ _ hlost]
    · rfl
  have hput : ∀ t : Chip, (t.logPut r).rd b g = t.rd b g := fun t => by
    show ((t.wrSpan _ _ _).wr _ _ _).rd b g = _
    rw [Chip.rd_wr_apart _ _ _ _ _ _ hhead, Chip.rd_wrSpan_apart]
    unfold A.ERR_LOG at hring ⊢
    omega
  rw [Chip.log, hput, hroom]

/-- A count raised stops at what its field holds. -/
theorem Chip.rd_count_same (s : Chip) (a : Nat) (f : Fld) : (s.count a f).rd a f = min (s.rd a f + 1) (2 ^ f.width - 1) := by
  have hpos := Nat.two_pow_pos f.width
  rw [Chip.count, Chip.bump, Chip.rd_wr_same, satAdd, Nat.min_comm]
  exact Nat.mod_eq_of_lt (by omega)

/-! ### The shadow comparator -/

/-- A missing counterpart is counted and recorded (R458, R459). -/
def Chip.missed (s : Chip) (part tag detail : Nat) : Chip :=
  (s.count A.ERR_SHADOW_STATUS F.ERR_SHADOW_STATUS_MISSING).shadowEvent 6 part tag detail

section Missing
variable (s : Chip) (part tag detail : Nat)

theorem Chip.missed_seq : (s.missed part tag detail).seq = s.seq := Chip.log_seq _ _
theorem Chip.missed_raw : (s.missed part tag detail).raw = s.raw := Chip.log_raw _ _
theorem Chip.missed_errSeq : (s.missed part tag detail).errSeq = s.errSeq + 1 := Chip.log_errSeq _ _

theorem Chip.missed_rd : (s.missed part tag detail).rd A.ERR_SHADOW_STATUS F.ERR_SHADOW_STATUS_MISSING
    = min (s.rd A.ERR_SHADOW_STATUS F.ERR_SHADOW_STATUS_MISSING + 1) (2 ^ F.ERR_SHADOW_STATUS_MISSING.width - 1) := by
  unfold Chip.missed Chip.shadowEvent
  rw [Chip.log_rd_below_ring _ _ _ _ (by decide) (by decide) (by decide) (by decide), Chip.rd_count_same]

end Missing

/-- Time has moved on to `due`, and what was awaited until then has been let go of, which `f` does to the sequencer. -/
def Chip.letGo (s : Chip) (due : Nat) (f : Seq → Seq) : Chip := (s.advanceTo due).modSeq f

section LetGo
variable (s : Chip) (due : Nat) (f : Seq → Seq)

theorem Chip.letGo_seq : (s.letGo due f).seq = f s.seq := congrArg f (s.advance_seq _)
theorem Chip.letGo_errSeq : (s.letGo due f).errSeq = s.errSeq := s.advance_errSeq _

theorem Chip.letGo_raw : (s.letGo due f).raw = max s.raw due := by
  have h : (s.letGo due f).raw = s.raw + (due - s.raw) := s.advance_raw _
  omega

theorem Chip.letGo_rd : (s.letGo due f).rd A.ERR_SHADOW_STATUS F.ERR_SHADOW_STATUS_MISSING
    = s.rd A.ERR_SHADOW_STATUS F.ERR_SHADOW_STATUS_MISSING := s.advance_rd_apart _ _ _ (by decide)

end LetGo

/-- What is left where an awaited counterpart is let go of, counted and recorded. -/
theorem Chip.letGo_missed (s : Chip) (due : Nat) (f : Seq → Seq) (part tag detail : Nat) :
    let u := (s.letGo due f).missed part tag detail
    u.seq = f s.seq ∧ u.errSeq = s.errSeq + 1 ∧ u.raw = max s.raw due
      ∧ u.rd A.ERR_SHADOW_STATUS F.ERR_SHADOW_STATUS_MISSING
          = min (s.rd A.ERR_SHADOW_STATUS F.ERR_SHADOW_STATUS_MISSING + 1) (2 ^ F.ERR_SHADOW_STATUS_MISSING.width - 1) := by
  dsimp only
  rw [Chip.missed_seq, Chip.missed_errSeq, Chip.missed_raw, Chip.missed_rd, Chip.letGo_seq, Chip.letGo_errSeq,
    Chip.letGo_raw, Chip.letGo_rd]
  exact ⟨rfl, rfl, rfl, rfl⟩

theorem Chip.unitMissing_of_none (s : Chip) (part coll off : Nat) (hunits : s.seq.shadows = []) (hrefs : s.seq.refs = []) :
    s.unitMissing part coll off = s := by
  simp only [Chip.unitMissing, hunits, hrefs, List.find?_nil]

theorem Chip.unitMissing_of_unit (s : Chip) (x : ShadowUnit) (h : s.seq.shadows = [x]) : s.unitMissing x.part x.collId x.off
    = (s.letGo x.due (fun q => { q with shadows := q.shadows.filter (fun y => y != x) })).missed x.part x.collId x.off := by
  have hfind : s.seq.shadows.find? (fun u => u.part == x.part && u.collId == x.collId && u.off == x.off) = some x := by simp [h]
  unfold Chip.unitMissing
  simp only [hfind]
  rfl

theorem Chip.digestMissing_of_none (s : Chip) (tag : Nat) (h : ∀ d ∈ s.seq.digests, d.own = false ∨ d.tag ≠ tag) :
    s.digestMissing tag = s := by
  have hfind : s.seq.digests.find? (fun d => d.own && d.tag == tag) = none := by
    refine List.find?_eq_none.2 fun d hd => ?_
    rcases h d hd with hown | htag
    · simp [hown]
    · simp [htag]
  simp only [Chip.digestMissing, hfind]

theorem Chip.digestMissing_of_own (s : Chip) (d : ShadowDigest) (h : s.seq.digests = [d]) (hown : d.own = true) :
    ∃ part, s.digestMissing d.tag
      = (s.letGo d.due (fun q => { q with digests := q.digests.filter (fun y => y != d) })).missed part d.tag 0 := by
  have hfind : s.seq.digests.find? (fun x => x.own && x.tag == d.tag) = some d := by simp [h, hown]
  unfold Chip.digestMissing
  simp only [hfind]
  exact ⟨_, rfl⟩

theorem exec_shadowMissingTimeout (part : Fin 64) (coll off : Nat) (s : State) :
    exec (.shadowMissingTimeout part coll off) s = .next (s.after (s.unitMissing part.val coll off)) := rfl

theorem exec_shadowDigestTimeout (tag : Nat) (s : State) :
    exec (.shadowDigestTimeout tag) s = .next (s.after (s.digestMissing tag)) := rfl

/-! ### Stuck stages -/

/-- The first occurrences of a list's numbers are all its numbers. -/
theorem mem_distinct (l : List Nat) (a : Nat) : a ∈ distinct l ↔ a ∈ l := by
  induction l with
  | nil => rfl
  | cons b l ih =>
    rw [distinct, List.mem_cons, List.mem_cons, List.mem_filter, ih]
    by_cases h : a = b <;> simp [h]

theorem Chip.stuckStage_frame (s : Chip) (stage plane : Nat) : s.stuckStage stage plane = { s with
    regs := (s.stuckStage stage plane).regs, errSeq := s.errSeq + 1
    power := { s.power with stuck := distinct (s.power.stuck ++ [plane]) } } := by
  unfold Chip.stuckStage
  rw [Chip.log_frame]

theorem exec_stuckHandshakeTimeout (stage : Nat) (plane : Plane) (s : State) :
    exec (.stuckHandshakeTimeout stage plane) s = .next (s.after (s.stuckStage stage plane.num)) := rfl

/-- Settles O58: a unit and a digest are let go of alike; a stuck stage leaves its record and its plane. -/
theorem missingCounterpartsAreRecorded : Obligations.MissingCounterpartsAreRecorded := by
  unfold Obligations.MissingCounterpartsAreRecorded
  refine ⟨fun part coll off s => ⟨fun hunits hrefs => ?_, fun x h hpart hcoll hoff => ?_⟩,
    fun tag s => ⟨fun hnone => ?_, fun d h hown htag => ?_⟩, fun stage plane s => ?_, fun s => rfl⟩
  · rw [exec_shadowMissingTimeout, Chip.unitMissing_of_none _ _ _ _ hunits hrefs]
  · refine ⟨_, exec_shadowMissingTimeout part coll off s, ?_⟩
    rw [← hpart, ← hcoll, ← hoff, Chip.unitMissing_of_unit _ x h]
    obtain ⟨hseq, hrest⟩ := s.toChip.letGo_missed x.due (fun q => { q with shadows := q.shadows.filter (fun y => y != x) })
      x.part x.collId x.off
    have hleft : s.seq.shadows.filter (fun y => y != x) = [] := by simp [h]
    exact ⟨hseq.trans (by rw [hleft]), hrest⟩
  · rw [exec_shadowDigestTimeout, Chip.digestMissing_of_none _ _ hnone]
  · obtain ⟨part, hmissing⟩ := s.toChip.digestMissing_of_own d h hown
    refine ⟨_, exec_shadowDigestTimeout tag s, ?_⟩
    rw [← htag, hmissing]
    obtain ⟨hseq, hrest⟩ := s.toChip.letGo_missed d.due (fun q => { q with digests := q.digests.filter (fun y => y != d) })
      part d.tag 0
    have hleft : s.seq.digests.filter (fun y => y != d) = [] := by simp [h]
    exact ⟨hseq.trans (by rw [hleft]), hrest⟩
  · refine ⟨_, exec_stuckHandshakeTimeout stage plane s, ?_⟩
    rw [Chip.stuckStage_frame]
    exact ⟨(mem_distinct _ _).2 (by simp), rfl, fun k hk => (mem_distinct _ _).2 (by simp [hk]), rfl, rfl⟩

end Sys2Proof.Machine
end

section
/-!
The register file (spec/03_pool_and_tiers.md R77): fields read back, plain and complement-protected.
-/
open Sys2Proof Sys2Proof.Machine
namespace Sys2Proof.Machine

/-- Settles O7: fields are compared bit by bit, and a protected entry is written with its complement. -/
theorem registerFileReadsBack : Obligations.RegisterFileReadsBack := by
  unfold Obligations.RegisterFileReadsBack
  intro r a f v
  refine ⟨r.get_set_same a f v, fun b g hapart => r.get_set_apart a b f g v (.inr hapart), fun n hf => ?_, fun hcanon => ?_⟩
  · exact ⟨r.checked_setP a n f v, r.get_setP_same a n f v hf, fun g hg hapart => r.get_setP_apart a n f g v hg hapart⟩
  · exact ⟨r.canonical_set a f v hcanon, fun n => r.canonical_setP a n f v hcanon⟩

end Sys2Proof.Machine
end

section
/-!
The mailbox of a mode D gang (spec/03_pool_and_tiers.md R121, R123, R124).
-/
open Sys2Proof Sys2Proof.Machine
namespace Sys2Proof.Machine

theorem Chip.gangMailbox_modeD (s : Chip) (g code : Nat) (data : List Byte) (h : s.mode (4 * g) = modeD) :
    s.gangMailbox g code data = s.emitOut (.mailboxD g code data) := if_pos (beq_iff_eq.2 h)

theorem Chip.gangMailbox_other (s : Chip) (g code : Nat) (data : List Byte) (h : s.mode (4 * g) ≠ modeD) :
    s.gangMailbox g code data = s := if_neg (by simpa using h)

theorem Chip.mode_modPool (s : Chip) (f : Pool → Pool) (n : Nat) : (s.modPool f).mode n = s.mode n := rfl

theorem Chip.gangEvents_emitOut (s : Chip) (e : OutEv) (g : Nat) : (s.emitOut e).gangEvents g = s.gangEvents g := rfl

/-- The part with the next free value drawn. -/
def Chip.drawn (s : Chip) : Chip := { s with free := s.free + 1 }

theorem Chip.mode_drawn (s : Chip) (n : Nat) : s.drawn.mode n = s.mode n := rfl

/-- The device event log after records have left it: those of other handles, in their order (R124). -/
theorem Chip.gangEvents_clear (s : Chip) (g : Nat) (handles : List Nat) (h : s.mode (4 * g) = modeD) :
    (s.clearGangEvents g handles).gangEvents g = (s.gangEvents g).filter (fun e => !handles.contains e.handle) := by
  unfold Chip.clearGangEvents Chip.gangEvents
  rw [if_pos (beq_iff_eq.2 h)]
  dsimp only [Chip.modPool]
  unfold Tab.mapAt
  cases hfind : s.pool.media.find g with
  | none => simp [hfind]
  | some l => simp [Tab.find_put_same]

theorem Chip.clearGangEvents_frame (s : Chip) (g : Nat) (handles : List Nat) :
    ∃ media, s.clearGangEvents g handles = s.modPool (fun q => { q with media := media }) := by
  unfold Chip.clearGangEvents
  split
  · exact ⟨_, rfl⟩
  · exact ⟨s.pool.media, rfl⟩

theorem exec_identifyMemoryDevice (g : Fin 32) (s : State) : exec (.identifyMemoryDevice g) s
    = .next { s with toChip := s.gangMailbox g.val 0 (bytesOfNat 8 (s.gangCapacity g.val / 2 ^ 28)) } := rfl

theorem exec_getEventRecords (g : Fin 32) (s : State) : exec (.getEventRecords g) s
    = .next { s with toChip := s.gangMailbox g.val 0 ((s.gangEvents g.val).flatMap MediaEvent.bytes) } := rfl

theorem exec_unsupportedMailboxCommand (g : Fin 32) (s : State) : exec (.unsupportedMailboxCommand g) s
    = .next { s with toChip := s.gangMailbox g.val mailboxUnsupported [] } := rfl

/-- The three commands whose payload no rule lays out draw a free value, and differ in its number alone. -/
theorem exec_openPayload (g : Fin 32) (c : Instr) (k : Nat) (s : State)
    (h : (c = .getSupportedLogs g ∧ k = 0) ∨ (c = .getLog g ∧ k = 1) ∨ (c = .getHealthInfo g ∧ k = 2)) :
    exec c s = .next { s with toChip := s.drawn.gangMailbox g.val 0 (Config.cxlMailbox g.val k s.free) } := by
  obtain ⟨rfl, rfl⟩ | ⟨rfl, rfl⟩ | ⟨rfl, rfl⟩ := h <;> rfl

theorem exec_clearEventRecords (g : Fin 32) (handles : List Nat) (s : State) : exec (.clearEventRecords g handles) s
    = .next { s with toChip := (s.clearGangEvents g.val handles).gangMailbox g.val 0 [] } := rfl

/-- Settles O41: every command is a reply of the mailbox, which a gang of another mode does not give. -/
theorem gangMailboxAnswers : Obligations.GangMailboxAnswers := by
  unfold Obligations.GangMailboxAnswers
  intro g s
  refine ⟨fun c code data hc => ?_, fun c k hc => ?_, fun handles hmode => ⟨_, exec_clearEventRecords g handles s, ?_, ?_⟩⟩
  · have hexec : exec c s = .next { s with toChip := s.gangMailbox g.val code data } := by
      obtain ⟨rfl, rfl, rfl⟩ | ⟨rfl, rfl, rfl⟩ | ⟨rfl, rfl, rfl⟩ := hc
      · exact exec_identifyMemoryDevice g s
      · exact exec_getEventRecords g s
      · exact exec_unsupportedMailboxCommand g s
    rw [hexec]
    refine ⟨fun hmode => ?_, fun hmode => ?_⟩
    · rw [Chip.gangMailbox_modeD _ _ _ _ hmode]
      rfl
    · rw [Chip.gangMailbox_other _ _ _ _ hmode]
  · rw [exec_openPayload g c k s hc]
    refine ⟨fun hmode => ?_, fun hmode => ?_⟩
    · rw [Chip.gangMailbox_modeD _ _ _ _ ((s.toChip.mode_drawn _).trans hmode)]
      rfl
    · rw [Chip.gangMailbox_other _ _ _ _ ((s.toChip.mode_drawn _).trans_ne hmode)]
      rfl
  all_goals
    obtain ⟨media, hframe⟩ := s.clearGangEvents_frame g.val handles
    have hcleared : (s.clearGangEvents g.val handles).mode (4 * g.val) = modeD := by
      rw [hframe, Chip.mode_modPool, hmode]
    rw [Chip.gangMailbox_modeD _ _ _ _ hcleared]
  · exact (Chip.gangEvents_emitOut _ _ _).trans (s.gangEvents_clear g.val handles hmode)
  · rw [hframe]
    rfl

end Sys2Proof.Machine
end

section
/-!
Completions of this E9's own requests (spec/03_pool_and_tiers.md R109, spec/04_coherence.md R135, R139,
spec/10_packets_and_routing.md R375): the end of a request, with its status and lines, and what its asker does with it.
-/
open Sys2Proof Sys2Proof.Machine
namespace Sys2Proof.Machine

/-! ### The end of a request -/

theorem Status.ofCode_code (st : Status) : Status.ofCode st.code = some st := by cases st <;> rfl

/-- A request that has ended, and its timer stopped. -/
theorem Chip.endAsk_eq (s : Chip) (tag : Nat) (st : Status) (old : Nat) (lines : List (Nat × List Byte)) (h : s.pool.ended = []) :
    s.endAsk tag st old lines = { s with
      pool := { s.pool with ended := [⟨tag, st, old, lines⟩] }, timers := s.timers.filter (fun e => e.1 != Timer.txn tag) } := by
  unfold Chip.endAsk Chip.modPool Chip.stopTimer
  simp only [h, List.nil_append]

theorem Chip.running_modPool (s : Chip) (f : Pool → Pool) (t : Timer) : (s.modPool f).running t = s.running t := rfl

theorem Chip.endAsk_running (s : Chip) (tag : Nat) (st : Status) (old : Nat) (lines : List (Nat × List Byte)) :
    (s.endAsk tag st old lines).running (.txn tag) = false := Chip.running_stopTimer_same _ _

theorem Chip.cached_ended (s : Chip) (ended : List Ended) (p role store line : Nat) :
    (s.modPool (fun x => { x with ended := ended })).cached p role store line = s.cached p role store line := rfl

section Told
variable (s : Chip) (tag : Nat) (a : Ask) (st : Status) (old : Nat) (lines : List (Nat × List Byte))
variable (hask : s.pool.asks.find tag = some a) (hended : s.pool.ended = [])
include hask hended

/-- A job takes its results in turn: nothing else happens when its request ends. -/
theorem Chip.tellAskers_endAsk_job (n k : Nat) (hjob : a.who = .job n k) :
    (s.endAsk tag st old lines).tellAskers = s.endAsk tag st old lines := by
  rw [s.endAsk_eq tag st old lines hended]
  simp only [Chip.tellAskers, List.foldl_cons, List.foldl_nil, Chip.tellAsker, hask, hjob, Chip.modPool, List.filter_cons, List.filter_nil,
    if_true]

/-- The writeback of ENGINE lines that has ended well: they leave the way groups (R109). -/
theorem Chip.tellAskers_endAsk_wcache (q : Nat) (ls : List Nat) (hwho : a.who = .wcache q ls) :
    ∃ ended, (s.endAsk tag .ok old lines).tellAskers
      = ((s.endAsk tag .ok old lines).wroteBack q tag ls true).modPool (fun p => { p with ended := ended }) := by
  have hone : (s.endAsk tag .ok old lines).pool.ended = [⟨tag, .ok, old, lines⟩] := by rw [s.endAsk_eq tag .ok old lines hended]
  have htold : (s.endAsk tag .ok old lines).tellAsker ⟨tag, .ok, old, lines⟩
      = (s.endAsk tag .ok old lines).wroteBack q tag ls true := by
    simp only [Chip.tellAsker, Chip.endAsk_asks, hask, hwho, beq_self_eq_true]
  unfold Chip.tellAskers
  dsimp only
  rw [hone, List.foldl_cons, List.foldl_nil, htold]
  exact ⟨_, rfl⟩

end Told

/-! ### The lines of a writeback -/

/-- The writeback of one line, as `Chip.wroteBack` ends it with OK. -/
def Chip.lineBack (s : Chip) (q tag line : Nat) : Chip :=
  match s.pool.cache.find (cacheKey q roleENGINE 0 line) with
  | some l => if l.flight == some tag then s.dropLine (cacheKey q roleENGINE 0 line) else s
  | none => s

theorem Chip.wroteBack_ok (s : Chip) (q tag : Nat) (ls : List Nat) :
    s.wroteBack q tag ls true = ls.foldl (fun s l => s.lineBack q tag l) s := rfl

theorem Chip.lineBack_cases (s : Chip) (q tag line : Nat) :
    s.lineBack q tag line = s ∨ s.lineBack q tag line = s.dropLine (cacheKey q roleENGINE 0 line) := by
  unfold Chip.lineBack
  split
  · split
    · exact .inr rfl
    · exact .inl rfl
  · exact .inl rfl

theorem Chip.wroteBack_frame (s : Chip) (q tag : Nat) (ls : List Nat) :
    ∃ cache, s.wroteBack q tag ls true = s.modPool (fun p => { p with cache := cache }) := by
  rw [Chip.wroteBack_ok]
  induction ls generalizing s with
  | nil => exact ⟨s.pool.cache, rfl⟩
  | cons l ls ih =>
    obtain ⟨cache, h⟩ := ih (s.lineBack q tag l)
    refine ⟨cache, h.trans ?_⟩
    obtain hl | hl := s.lineBack_cases q tag l
    · rw [hl]
    · rw [hl]
      rfl

/-- A line of the way groups that leaves or stays. -/
theorem Chip.lineBack_find (s : Chip) (q tag line k : Nat) : (s.lineBack q tag line).pool.cache.find k = none
    ∨ (s.lineBack q tag line).pool.cache.find k = s.pool.cache.find k := by
  obtain h | h := s.lineBack_cases q tag line
  · exact .inr (by rw [h])
  · rw [h]
    by_cases hk : k = cacheKey q roleENGINE 0 line
    · exact .inl (hk ▸ Tab.find_erase_same _ _)
    · exact .inr (Tab.find_erase_other _ _ _ hk)

theorem Chip.wroteBack_keeps_none (s : Chip) (q tag : Nat) (ls : List Nat) (k : Nat) (h : s.pool.cache.find k = none) :
    (s.wroteBack q tag ls true).pool.cache.find k = none := by
  rw [Chip.wroteBack_ok]
  refine List.foldlRecOn (motive := fun u : Chip => u.pool.cache.find k = none) ls _ h fun u hu l _ => ?_
  obtain hnone | hsame := u.lineBack_find q tag l k
  · exact hnone
  · rw [hsame, hu]

/-- Every line whose writeback was this one leaves. -/
theorem Chip.wroteBack_drops (s : Chip) (q tag : Nat) (ls : List Nat) (l : Nat) (hl : l ∈ ls)
    (h : (s.cached q roleENGINE 0 l).any (fun x => x.flight == some tag) = true) :
    (s.wroteBack q tag ls true).cached q roleENGINE 0 l = none := by
  induction ls generalizing s with
  | nil => cases hl
  | cons m ls ih =>
    show ((s.lineBack q tag m).wroteBack q tag ls true).cached q roleENGINE 0 l = none
    obtain hnone | hsame := s.lineBack_find q tag m (cacheKey q roleENGINE 0 l)
    · exact Chip.wroteBack_keeps_none _ q tag ls _ hnone
    · obtain rfl | hl := List.mem_cons.1 hl
      · refine Chip.wroteBack_keeps_none _ q tag ls _ ?_
        obtain ⟨x, hx, hflight⟩ := (Option.any_eq_true _ _).1 h
        have hfind : s.pool.cache.find (cacheKey q roleENGINE 0 l) = some x := hx
        rw [Chip.lineBack, hfind]
        dsimp only
        rw [if_pos hflight]
        exact Tab.find_erase_same _ _
      · refine ih _ hl ?_
        have hcached : (s.lineBack q tag m).cached q roleENGINE 0 l = s.cached q roleENGINE 0 l := hsame
        rw [hcached, h]

/-! ### A completion that arrives -/

section Completion
variable (s : Chip) (p : Packet)

theorem Chip.completionIn_of_unknown (h : s.pool.asks.find (Coh.ofBody p.body).tag = none) : s.completionIn p = s := by
  simp only [Chip.completionIn, h]

variable (a : Ask) (hask : s.pool.asks.find (Coh.ofBody p.body).tag = some a) (hended : s.pool.ended = [])
include hask hended

/-- A completion that says that a job's request has ended so (R135, R375). -/
theorem Chip.completionIn_of_job (n k : Nat) (st : Status) (hjob : a.who = .job n k)
    (hst : ((Coh.ofBody p.body).msg = mData ∧ st = .ok)
      ∨ ((Coh.ofBody p.body).msg = mErr ∧ (Coh.ofBody p.body).status = Status.code st ∧ st ≠ .ok ∧ st ≠ .retry ∧ st ≠ .staleEpoch)) :
    s.completionIn p = { s with
      pool := { s.pool with ended := [⟨(Coh.ofBody p.body).tag, st, (Coh.ofBody p.body).opa, linesOf (Coh.ofBody p.body).lmask p.payload⟩] }
      timers := s.timers.filter (fun e => e.1 != Timer.txn (Coh.ofBody p.body).tag) } := by
  have hend : s.completionIn p
      = (s.endAsk (Coh.ofBody p.body).tag st (Coh.ofBody p.body).opa (linesOf (Coh.ofBody p.body).lmask p.payload)).tellAskers := by
    obtain ⟨hmsg, rfl⟩ | ⟨hmsg, hcode, hok, hretry, hstale⟩ := hst
    · simp [Chip.completionIn, hask, hended, hmsg, hjob, mData, mErr]
    · have hresend : s.resend (Coh.ofBody p.body).tag a st = none := by
        simp [Chip.resend, hjob, hretry, hstale]
      simp [Chip.completionIn, hask, hended, hmsg, hcode, Status.ofCode_code, hok, hresend]
  rw [hend, s.tellAskers_endAsk_job _ a st _ _ hask hended n k hjob, s.endAsk_eq _ _ _ _ hended]

/-- RETRY sends a job's request again at once (R375). -/
theorem Chip.completionIn_of_retry (hmsg : (Coh.ofBody p.body).msg = mErr) (hcode : (Coh.ofBody p.body).status = Status.retry.code)
    (n k : Nat) (hjob : a.who = .job n k) :
    s.completionIn p = (s.modPool (fun q => { q with asks := q.asks.put (Coh.ofBody p.body).tag a })).sendAsk
      (Coh.ofBody p.body).tag a.pkt := by
  have hresend : s.resend (Coh.ofBody p.body).tag a .retry
      = some ((s.modPool (fun q => { q with asks := q.asks.put (Coh.ofBody p.body).tag a })).sendAsk (Coh.ofBody p.body).tag a.pkt) := by
    obtain ⟨who, pkt, resent, installs⟩ := a
    subst hjob
    rfl
  simp [Chip.completionIn, hask, hended, hmsg, hcode, Status.ofCode_code, hresend]

/-- A WbAck lets the lines of its writeback leave the way groups (R109). -/
theorem Chip.completionIn_of_wbAck (hmsg : (Coh.ofBody p.body).msg = mWbAck) (q : Nat) (ls : List Nat) (hwho : a.who = .wcache q ls) :
    ∃ ended, s.completionIn p = ((s.endAsk (Coh.ofBody p.body).tag .ok (Coh.ofBody p.body).opa
      (linesOf (Coh.ofBody p.body).lmask p.payload)).wroteBack q (Coh.ofBody p.body).tag ls true).modPool
        (fun x => { x with ended := ended }) := by
  have hend : s.completionIn p
      = (s.endAsk (Coh.ofBody p.body).tag .ok (Coh.ofBody p.body).opa (linesOf (Coh.ofBody p.body).lmask p.payload)).tellAskers := by
    simp [Chip.completionIn, hask, hended, hmsg, hwho, mWbAck, mErr]
  rw [hend]
  exact s.tellAskers_endAsk_wcache _ a _ _ hask hended q ls hwho

/-- What a WbAck leaves: the lines gone, the timer stopped, and nothing else changed but the pool. -/
theorem Chip.completionIn_wbAck_leaves (hmsg : (Coh.ofBody p.body).msg = mWbAck) (q : Nat) (ls : List Nat) (hwho : a.who = .wcache q ls) :
    (∀ l ∈ ls, (s.cached q roleENGINE 0 l).any (fun x => x.flight == some (Coh.ofBody p.body).tag) = true →
        (s.completionIn p).cached q roleENGINE 0 l = none)
      ∧ (s.completionIn p).running (.txn (Coh.ofBody p.body).tag) = false
      ∧ s.completionIn p = { s with pool := (s.completionIn p).pool, timers := (s.completionIn p).timers } := by
  obtain ⟨ended, hin⟩ := s.completionIn_of_wbAck p a hask hended hmsg q ls hwho
  rw [hin]
  refine ⟨fun l hl hflight => ?_, ?_, ?_⟩
  · rw [Chip.cached_ended]
    exact Chip.wroteBack_drops _ q _ ls l hl hflight
  all_goals
    obtain ⟨cache, hframe⟩ := (s.endAsk (Coh.ofBody p.body).tag .ok (Coh.ofBody p.body).opa
      (linesOf (Coh.ofBody p.body).lmask p.payload)).wroteBack_frame q (Coh.ofBody p.body).tag ls
    rw [hframe]
  · rw [Chip.running_modPool, Chip.running_modPool, Chip.endAsk_running]
  · rfl

end Completion

theorem exec_completion (c : Instr) (p : Packet) (s : State)
    (h : c = .dataCompletion p ∨ c = .wbackCompletion p ∨ c = .errCompletion p) (haccepts : s.accepts p) :
    exec c s = .next (s.after (((s.taken p).completionIn p).flowApplied p)) := by
  have hrun : exec c s = .next (s.after (s.toChip.consume p (fun s => s.completionIn p))) := by
    obtain rfl | rfl | rfl := h <;> rfl
  rw [hrun, Chip.consume_of_accepts _ _ _ haccepts]

theorem exec_transactionTimeout (t : TimedTxn) (s : State) : exec (.transactionTimeout t) s = .next (s.after (s.timedOut t)) := rfl

/-- Settles O36: a request is ended alike by its completion and by its timer; a job's is left for the job to take. -/
theorem completionsEndTheirRequests : Obligations.CompletionsEndTheirRequests := by
  unfold Obligations.CompletionsEndTheirRequests
  refine ⟨fun c p s hc haccepts => ?completion, fun t m s ht hexpire => ?stopped, fun tag n k a c s hexpire hask hjob hended => ?timeout⟩
  case completion =>
    rw [exec_completion c p s hc haccepts]
    intro v d
    refine ⟨fun hnone => ?_, fun a hask hended => ⟨fun n k st hjob hst => ?_, fun q ls hwho hmsg => ?_, fun hmsg hcode hjob => ?_⟩⟩
    · rw [Chip.completionIn_of_unknown _ p hnone]
    · rw [Chip.completionIn_of_job _ p a hask hended n k st hjob hst]
    · exact ⟨_, rfl, Chip.completionIn_wbAck_leaves v p a hask hended hmsg q ls hwho⟩
    · obtain ⟨n, k, hjob⟩ := hjob
      rw [Chip.completionIn_of_retry _ p a hask hended hmsg hcode n k hjob]
      rfl
  case stopped =>
    rw [exec_transactionTimeout]
    obtain ⟨tag, rfl, rfl⟩ | ⟨tag, rfl, rfl⟩ := ht
    · simp only [Chip.timedOut, hexpire]
    · simp only [Chip.timedOut, hexpire]
  case timeout =>
    have hout : s.timedOut (.ask tag) = c.endAsk tag .timeout 0 [] := by
      simp only [Chip.timedOut, hexpire, c.tellAskers_endAsk_job tag a _ _ _ hask hended n k hjob]
    refine ⟨_, exec_transactionTimeout _ s, ?_, ?_⟩
    · rw [hout, c.endAsk_eq _ _ _ _ hended]
    · rw [hout, Chip.endAsk_running]

end Sys2Proof.Machine
end

section
/-!
Answers of trays (spec/03_pool_and_tiers.md R88, spec/04_coherence.md R136, spec/10_packets_and_routing.md R348): the end of the one
operation under way, the Data of a read that waits for it, and the end of an evicted line's write.
-/
open Sys2Proof Sys2Proof.Machine
namespace Sys2Proof.Machine

/-! ### The sequencing of an answer -/

/-- A read of an encrypted sector in the clear. -/
def TrayRec.opened (rec : TrayRec) (data : List Byte) : List Byte :=
  match rec.key with
  | some (k, sec) => if rec.op == 1 then Config.decrypt k sec data else data
  | none => data

/-- The part once the one tier operation, which tray operation `tag` was the last of, waits for its requester with its result. -/
def Chip.opEnded (v : Chip) (tag : Nat) (who : TierWho) (st : Status) (data : List Byte) : Chip :=
  { v with pool := { v.pool with tops := v.pool.tops.erase tag, ops := [], done := [(who, st, data)] }
           timers := v.timers.filter (fun e => e.1 != Timer.tray tag) }

theorem Chip.eraseEmptied_of_no_blocks (s : Chip) (n : Nat) (h : s.pool.blocks = []) : s.eraseEmptied n = s := by
  simp [Chip.eraseEmptied, h, Tab.keysIn]

theorem Chip.background_of_idle (s : Chip) (n : Nat) (hflash : (s.tray n).ident.flashCap = []) (hmoves : s.pool.moves = []) :
    s.background n = s := by
  unfold Chip.background
  split
  · rfl
  · simp [hflash, Chip.startMoves, hmoves, upFrom, distinct]

theorem Chip.replicaPump_of_none (s : Chip) (h : s.pool.replicas = []) : s.replicaPump = s := by
  simp [Chip.replicaPump, h]

/-- What goes on after an answer of tray `n`, whatever the answer was for. -/
def Chip.answered (s : Chip) (n : Nat) : Chip :=
  let s := ((s.tierPump).eraseEmptied n).background n
  let s := (s.pool.sweeps.map (·.1)).foldl (fun s p => s.sweepPump p) s
  let flushing := s.pool.done.any (fun e => e.1 == .flush n)
  let s := s.replicaPump.homeSettle
  if flushing && (s.tray n).owed == 0 then s.profileEvent n pevCHECK_PASS 0 else s

/-- With no work of the tier manager waiting, and no flush of a tray ended, the home alone goes on. -/
theorem Chip.answered_of_idle (u : Chip) (n : Nat) (hidle : u.tierIdle n) (hops : u.pool.ops = [])
    (hflush : u.pool.done.any (fun e => e.1 == TierWho.flush n) = false) : u.answered n = u.homeSettle := by
  obtain ⟨hblocks, hmoves, hsweeps, hreplicas, hflash⟩ := hidle
  have hpumped : ((u.tierPump).eraseEmptied n).background n = u := by
    rw [Chip.tierPump_of_no_ops u hops, u.eraseEmptied_of_no_blocks n hblocks, u.background_of_idle n hflash hmoves]
  unfold Chip.answered
  simp [hpumped, hsweeps, hflush, u.replicaPump_of_none hreplicas]

theorem Chip.trayAnswer_sector (v : Chip) (tag id : Nat) (st : Status) (data : List Byte) (rec : TrayRec)
    (hrec : v.pool.tops.find tag = some rec) (hjob : rec.job = .sector id) :
    v.trayAnswer tag st data
      = (((v.modPool (fun q => { q with tops := q.tops.erase tag })).stopTimer (.tray tag)).sectorAnswer id st
          (rec.opened data)).answered rec.tray := by
  unfold Chip.trayAnswer Chip.answered TrayRec.opened
  cases hkey : rec.key with
  | none => simp only [hrec, hjob, hkey]
  | some k => simp only [hrec, hjob, hkey]

/-- An operation's result waits for its requester, which is no paired write. -/
theorem Chip.opDone_waits (s : Chip) (op : TierOp) (st : Status) (data : List Byte) (h : ∀ n, op.who ≠ .mirror n) :
    s.opDone op st data
      = s.modPool (fun p => { p with ops := p.ops.filter (fun x => x.id != op.id), done := p.done ++ [(op.who, st, data)] }) := by
  unfold Chip.opDone
  dsimp only
  split
  · exact absurd ‹_› (h _)
  · rfl

/-- The last answer of the one tier operation, as `Chip.sectorAnswer` takes it. -/
theorem Chip.sectorAnswer_last (v : Chip) (tag : Nat) (st : Status) (data : List Byte) (o : TierOp) (hops : v.pool.ops = [o])
    (hdone : v.pool.done = []) (howed : o.owed = 1) (hmirror : ∀ n, o.who ≠ .mirror n)
    (hst : st ≠ .uncorrectable ∨ o.write.isSome = true) :
    ((v.modPool (fun q => { q with tops := q.tops.erase tag })).stopTimer (.tray tag)).sectorAnswer o.id st data
      = v.opEnded tag o.who (if o.status == .ok then st else o.status) data := by
  have hkept : (st != .uncorrectable || o.write.isSome) = true := by
    rcases hst with h | h <;> simp [h]
  unfold Chip.sectorAnswer
  simp only [Chip.stopTimer, Chip.modPool, hops, List.find?_cons, beq_self_eq_true, hkept, if_true, howed]
  rw [Chip.opDone_waits]
  · simp [Chip.modPool, hdone, Chip.opEnded]
  · exact hmirror

/-- The last answer of the one tier operation: its result waits for its requester, and the home goes on. -/
theorem Chip.trayAnswer_last (v : Chip) (tag : Nat) (st : Status) (data : List Byte) (rec : TrayRec) (o : TierOp)
    (hrec : v.pool.tops.find tag = some rec) (hjob : rec.job = .sector o.id) (hidle : v.tierIdle rec.tray) (hops : v.pool.ops = [o])
    (hdone : v.pool.done = []) (howed : o.owed = 1) (hmirror : ∀ n, o.who ≠ .mirror n) (hflush : ∀ n, o.who ≠ .flush n)
    (hst : st ≠ .uncorrectable ∨ o.write.isSome = true) :
    v.trayAnswer tag st data
      = (v.opEnded tag o.who (if o.status == .ok then st else o.status) (rec.opened data)).homeSettle := by
  rw [v.trayAnswer_sector tag o.id st data rec hrec hjob, v.sectorAnswer_last tag st _ o hops hdone howed hmirror hst]
  refine Chip.answered_of_idle _ _ hidle rfl ?_
  simpa [Chip.opEnded] using hflush rec.tray

/-! ### The home takes the result -/

theorem Tab.erase_put {β : Type} (t : Tab β) (k : Nat) (v : β) : (t.put k v).erase k = t.erase k := by
  induction t with
  | nil => simp [Tab.put, Tab.erase]
  | cons e t ih =>
    obtain ⟨a, w⟩ := e
    simp only [Tab.put]
    split
    · simp [Tab.erase]
    · split
      · next h => simp [Tab.erase, h]
      · next h => simp [Tab.erase, h, ih]

/-- Where one step leaves the home quiet, that step is all it does. -/
theorem Chip.homeSettle_of_step (s t : Chip) (hstep : s.homeStep = some t) (hquiet : t.homeQuiet) : s.homeSettle = t := by
  have hrun : ∀ n, t.homeRun n = t := fun n => by
    cases n with
    | zero => rfl
    | succ n => rw [Chip.homeRun, Chip.homeStep_of_quiet t hquiet]
  have hone : ∀ n, s.homeRun (n + 1) = t := fun n => by
    rw [Chip.homeRun, hstep]
    exact hrun n
  unfold Chip.homeSettle
  rw [show ∀ m, 8 + m = 7 + m + 1 from fun m => by omega]
  exact hone _

/-- The result of an evicted line's write is dropped. -/
theorem Chip.homeSettle_opEnded_evict (v : Chip) (tag : Nat) (st : Status) (data : List Byte) (h : v.homeQuiet) :
    (v.opEnded tag .evict st data).homeSettle
      = { v with pool := { v.pool with tops := v.pool.tops.erase tag, ops := [] }
                 timers := v.timers.filter (fun e => e.1 != Timer.tray tag) } := by
  obtain ⟨htxns, hwaits, hdone⟩ := h
  refine Chip.homeSettle_of_step _ _ ?_ ⟨htxns, hwaits, hdone⟩
  unfold Chip.homeStep Chip.opEnded Chip.modPool
  simp [hdone]

/-- The part once its one transaction has closed on line `line` of bank `b`, which nobody holds now. -/
def Chip.txnClosed (v : Chip) (i b line : Nat) : Chip :=
  (v.modPool (fun q => { q with txns := q.txns.erase i })).setEntry b line .invalid none

theorem Chip.txnClosed_frame (v : Chip) (i b line : Nat) :
    ∃ banks, v.txnClosed i b line = v.modPool (fun q => { q with txns := q.txns.erase i, banks := banks }) := by
  unfold Chip.txnClosed Chip.setEntry
  dsimp only
  split <;> exact ⟨_, rfl⟩

theorem Chip.bankOf_modPool (v : Chip) (f : Pool → Pool) (p line : Nat) : (v.modPool f).bankOf p line = v.bankOf p line := rfl

theorem Chip.closeTxn_without_snoops (v : Chip) (i b : Nat) (t : HTxn) (hfind : v.pool.txns.find i = some t) (hsnoops : t.snoops = [])
    (hkind : t.kind ≠ .backInval) (hbank : v.bankOf t.part t.line = some b) : v.closeTxn i .invalid = v.txnClosed i b t.line := by
  unfold Chip.closeTxn Chip.txnClosed
  simp only [hfind, hsnoops, List.foldl_nil, Chip.bankOf_modPool, hbank, beq_eq_false_iff_ne.mpr hkind, Bool.false_eq_true, if_false]

/-- A read of one line that has ended: the Data goes to its requester. -/
theorem Chip.finishReq_read (v : Chip) (k : Nat) (q : Packet) (data : List (Nat × List Byte))
    (hreq : v.pool.reqs.find k = some { pkt := q, left := [], data := data }) (hmsg : (Coh.ofBody q.body).msg = mRdCurrent) :
    v.finishReq k = (v.modPool (fun p => { p with reqs := p.reqs.erase k })).complete q
      { msg := mData, lmask := (Coh.ofBody q.body).lmask } (payloadOf data) := by
  have hback : (mRdCurrent == mWrBack) = false := by decide
  have hevict : (mRdCurrent == mCleanEvict) = false := by decide
  have hatomic : (mRdCurrent == mAtomicAny) = false := by decide
  unfold Chip.finishReq
  simp only [hreq, List.isEmpty_nil, Bool.not_true, Bool.false_eq_true, if_false, HomeReq.firstFailure, List.map_nil, argMin,
    Option.bind_none, hmsg, hback, hevict, hatomic, Bool.false_and]

theorem Chip.endLine_read (v : Chip) (k j : Nat) (q : Packet) (f : HomeReq → HomeReq) (data : List Byte)
    (hreq : v.pool.reqs.find k = some { pkt := q, left := [j] }) (hmsg : (Coh.ofBody q.body).msg = mRdCurrent)
    (hf : f { pkt := q, left := [] } = { pkt := q, left := [], data := [(j, data)] }) :
    v.endLine k j f
      = (v.modPool (fun p => { p with reqs := p.reqs.erase k })).complete q { msg := mData, lmask := (Coh.ofBody q.body).lmask }
          (payloadOf [(j, data)]) := by
  have hput : v.pool.reqs.mapAt k (fun r => f { r with left := r.left.filter (fun x => x != j) })
      = v.pool.reqs.put k { pkt := q, left := [], data := [(j, data)] } := by
    simp [Tab.mapAt, hreq, hf]
  have hmod : v.modPool (fun p =>
        { p with reqs := p.reqs.mapAt k (fun r => f { r with left := r.left.filter (fun x => x != j) }) })
      = v.modPool (fun p => { p with reqs := p.reqs.put k { pkt := q, left := [], data := [(j, data)] } }) := by
    unfold Chip.modPool
    dsimp only
    rw [hput]
  rw [Chip.endLine, hmod, Chip.finishReq_read _ k q [(j, data)] (Tab.find_put_same _ _ _) hmsg]
  simp only [Chip.modPool, Tab.erase_put]

theorem Chip.complete_quiet (s : Chip) (q : Packet) (c : Coh) (payload : List Byte) (h : s.homeQuiet) :
    (s.complete q c payload).homeQuiet := by
  have hpool : (s.complete q c payload).pool = s.pool := Chip.core_pool (s.send_core _)
  unfold Chip.homeQuiet
  rw [hpool]
  exact h

/-- The part once the home has taken the result of its one operation. -/
def Chip.opTaken (v : Chip) (tag : Nat) : Chip :=
  { v with pool := { v.pool with tops := v.pool.tops.erase tag, ops := [], done := [] }
           timers := v.timers.filter (fun e => e.1 != Timer.tray tag) }

theorem Chip.homeStep_opEnded_txn (v : Chip) (i : Nat) (t : HTxn) (tag : Nat) (data : List Byte) (j : Nat)
    (htxns : v.pool.txns = [(i, t)]) (hj : t.line % 4 = j) :
    (v.opEnded tag (.txn i) .ok data).homeStep = some ((v.opTaken tag).memoryIn i .ok ((data.drop (64 * j)).take 64)) := by
  unfold Chip.homeStep
  simp [Chip.opEnded, Chip.opTaken, Chip.modPool, htxns, Tab.find, hj]

section Read
variable (v : Chip) (i k j b : Nat) (t : HTxn) (q : Packet) (data : List Byte)
variable (hkind : t.kind = .rdCurrent) (hprior : t.prior = .invalid) (hmembers : t.members = [(k, j)]) (hsnoops : t.snoops = [])
variable (hends : t.ends = none) (hmsg : (Coh.ofBody q.body).msg = mRdCurrent) (hbank : v.bankOf t.part t.line = some b)
variable (hreq : v.pool.reqs.find k = some { pkt := q, left := [j] })
include hkind hprior hmembers hsnoops hends hmsg hbank hreq

/-- Memory's answer to a RdCurrent of one requester, on a line that nobody holds (Table 4.6). -/
theorem Chip.memoryIn_rdCurrent (htxn : v.pool.txns.find i = some t) :
    v.memoryIn i .ok data = ((v.txnClosed i b t.line).modPool (fun p => { p with reqs := p.reqs.erase k })).complete q
      { msg := mData, lmask := (Coh.ofBody q.body).lmask } (payloadOf [(j, data)]) := by
  have hshared : (mRdCurrent == mRdShared) = false := by decide
  have hleft : t.left = .invalid := by rw [HTxn.left, hprior]
  have hclosed := v.closeTxn_without_snoops i b t htxn hsnoops (by rw [hkind]; decide) hbank
  obtain ⟨banks, hframe⟩ := v.txnClosed_frame i b t.line
  have hreq' : (v.txnClosed i b t.line).pool.reqs.find k = some { pkt := q, left := [j] } := by rw [hframe]; exact hreq
  have hread : v.memoryIn i .ok data = v.applyRead i t data := by
    simp [Chip.memoryIn, htxn, hends, hkind]
  rw [hread]
  unfold Chip.applyRead
  simp only [hkind, hmembers, hleft, hclosed, List.foldl_cons, List.foldl_nil]
  refine Chip.endLine_read _ k j q _ data hreq' hmsg ?_
  have hsole : Nat.blt 1 1 = false := rfl
  simp [hreq, hmsg, hshared, hsole]

/-- Memory's answer ends the one transaction of the home with the Data of its request. -/
theorem Chip.memoryIn_opTaken (tag : Nat) (htxns : v.pool.txns = [(i, t)]) (hwaits : v.pool.waits = []) :
    ∃ w : Chip, (v.opTaken tag).memoryIn i .ok data
          = w.complete q { msg := mData, lmask := (Coh.ofBody q.body).lmask } (payloadOf [(j, data)])
      ∧ w.pool.txns = [] ∧ w.pool.waits = [] ∧ w.pool.done = [] ∧ w.pool.ops = [] ∧ w.pool.tops = v.pool.tops.erase tag
      ∧ w = { v with pool := w.pool, timers := w.timers } := by
  have hfind : (v.opTaken tag).pool.txns.find i = some t := by simp [Chip.opTaken, htxns, Tab.find]
  obtain ⟨banks, hclosed⟩ := (v.opTaken tag).txnClosed_frame i b t.line
  refine ⟨_, (v.opTaken tag).memoryIn_rdCurrent i k j b t q data hkind hprior hmembers hsnoops hends hmsg hbank hreq hfind, ?_⟩
  rw [hclosed]
  exact ⟨by simp [Chip.opTaken, Chip.modPool, htxns, Tab.erase], hwaits, rfl, rfl, rfl, rfl⟩

end Read

/-! ### The instructions -/

/-- What the answer of a tray that packet `p` brings does (R348). -/
def Chip.trayPacket (s : Chip) (p : Packet) : Chip :=
  if p.cls == clsTRAY_DATA && p.segs == 0 then s
  else s.trayAnswer (bits p.body 96 32) (if bits p.body 88 8 == 0 then .ok else .uncorrectable) (p.payload.take 256)

/-- The classes of a tray's answers are not routed, so the packet does not count at the destination edge. -/
theorem exec_trayAnswer (c : Instr) (p : Packet) (s : State) (h : c = .trayDataReceive p ∨ c = .trayCplReceive p) (hacc : s.accepts p)
    (hcls : p.cls = clsTRAY_DATA ∨ p.cls = clsTRAY_CPL) : exec c s = .next (s.after ((s.taken p).trayPacket p)) := by
  have hunrouted : classRouted p.cls = false := by rcases hcls with h | h <;> rw [h] <;> decide
  have hrun : exec c s = .next (s.after (s.toChip.trayIn p)) := by rcases h with rfl | rfl <;> rfl
  rw [hrun, Chip.trayIn, Chip.consume_of_accepts _ _ _ hacc, Chip.flowApplied_of_unrouted _ _ hunrouted]
  rfl

theorem exec_cxlMemResponse (n : Fin 32) (a : CxlAnswer) (s : State) :
    exec (.cxlMemResponse n a) s = .next (s.after (s.toChip.cxlAnswer n.val a)) := rfl

theorem Chip.trayPacket_of_none (s : Chip) (p : Packet) (h : s.pool.tops.find (bits p.body 96 32) = none) : s.trayPacket p = s := by
  unfold Chip.trayPacket Chip.trayAnswer
  simp [h]

/-- A good sector. -/
theorem Chip.trayPacket_data (s : Chip) (p : Packet) (hsegs : p.segs ≠ 0) (hok : bits p.body 88 8 = 0) :
    s.trayPacket p = s.trayAnswer (bits p.body 96 32) .ok (p.payload.take 256) := by
  simp [Chip.trayPacket, hsegs, hok]

theorem Chip.trayPacket_cpl (s : Chip) (p : Packet) (hcls : p.cls = clsTRAY_CPL) :
    s.trayPacket p
      = s.trayAnswer (bits p.body 96 32) (if bits p.body 88 8 == 0 then .ok else .uncorrectable) (p.payload.take 256) := by
  have hne : (p.cls == clsTRAY_DATA) = false := by rw [hcls]; decide
  simp [Chip.trayPacket, hne]

/-- The last line that a mode C device had to answer. -/
theorem Chip.cxlAnswer_last (v : Chip) (n addr tag : Nat) (rec : TrayRec) (bytes : List Byte)
    (hfind : v.pool.tops.find? (fun e => e.2.tray == n && e.2.lines.contains addr) = some (tag, rec)) (hlines : rec.lines = [addr])
    (hgot : rec.got = []) : v.cxlAnswer n (.mem addr bytes false) = v.trayAnswer tag .ok (payloadOf [(addr / 64 % 4, bytes)]) := by
  unfold Chip.cxlAnswer
  simp only [hfind]
  simp [hlines, hgot]

/-- Settles O38: the answer is the last of its operation, whose result the home takes at once. -/
theorem trayAnswersEndTheirOperations : Obligations.TrayAnswersEndTheirOperations := by
  unfold Obligations.TrayAnswersEndTheirOperations
  refine ⟨?unnamed, ?read, ?written⟩
  case unnamed =>
    intro c p s hc hacc hcls hnone
    rw [exec_trayAnswer c p s hc hacc hcls, Chip.trayPacket_of_none _ _ hnone]
  case read =>
    intro c v data tag i k j b key sec rec o t q s hway hrec hjob hop hkey hidle hops _ hwho howed hstatus htxns hwaits hdone hkind hprior
      hmembers hsnoops hends hj hbank hreq hmsg
    have hexec : exec c s = .next (s.after (v.trayAnswer tag .ok data)) := by
      rcases hway with ⟨p, rfl, hacc, rfl, hcls, hsegs, rfl, hok, rfl⟩ | ⟨n, addr, bytes, rfl, rfl, hfind, hlines, hgot, rfl⟩
      · rw [exec_trayAnswer _ p s (.inl rfl) hacc (.inl hcls), Chip.trayPacket_data _ p hsegs hok]
      · rw [exec_cxlMemResponse, Chip.cxlAnswer_last _ n.val addr tag rec bytes hfind hlines hgot]
    have hlast := v.trayAnswer_last tag .ok data rec o hrec hjob hidle hops hdone howed (by simp [hwho]) (by simp [hwho])
      (.inl (by decide))
    have hopened : rec.opened data = Config.decrypt key sec data := by simp [TrayRec.opened, hkey, hop]
    obtain ⟨w, hw, htxns', hwaits', hdone', hend⟩ := v.memoryIn_opTaken i k j b t q
      ((List.drop (64 * j) (Config.decrypt key sec data)).take 64) hkind hprior hmembers hsnoops hends hmsg hbank hreq tag htxns hwaits
    have hsettled : v.trayAnswer tag .ok data = (v.opTaken tag).memoryIn i .ok
        ((List.drop (64 * j) (Config.decrypt key sec data)).take 64) := by
      rw [hlast, hwho, hopened, hstatus, beq_self_eq_true, if_pos rfl]
      refine Chip.homeSettle_of_step _ _ (v.homeStep_opEnded_txn i t tag _ j htxns hj) ?_
      rw [hw]
      exact Chip.complete_quiet w q _ _ ⟨htxns', hwaits', hdone'⟩
    obtain ⟨hops', htops', hframe⟩ := hend
    exact ⟨w, by rw [hexec, hsettled, hw], hops', htxns', htops', hframe⟩
  case written =>
    intro c v tag rec o s hway hrec hjob hidle hquiet hops hwrite hwho howed
    have hexec : ∃ st data, exec c s = .next (s.after (v.trayAnswer tag st data)) := by
      rcases hway with ⟨p, rfl, hacc, rfl, hcls, rfl⟩ | ⟨rfl, hexpire⟩
      · exact ⟨_, _, by rw [exec_trayAnswer _ p s (.inr rfl) hacc (.inr hcls), Chip.trayPacket_cpl _ p hcls]⟩
      · refine ⟨.timeout, [], ?_⟩
        rw [exec_transactionTimeout]
        simp only [Chip.timedOut, hexpire]
    obtain ⟨st, data, hexec⟩ := hexec
    rw [hexec, v.trayAnswer_last tag st data rec o hrec hjob hidle hops hquiet.2.2 howed (by simp [hwho]) (by simp [hwho]) (.inr hwrite),
      hwho, v.homeSettle_opEnded_evict tag _ _ hquiet]

end Sys2Proof.Machine
end

section
/-!
Version commands at the home (spec/05_memory_model.md R187, R190, R191) and LOST_ACK (spec/04_coherence.md R159): what opening, publishing
and ending a view makes of the views and of the region's numbers, and what an acknowledgement makes of the table of lost lines.
-/
open Sys2Proof Sys2Proof.Machine
namespace Sys2Proof.Machine

/-- A field keeps its value while another of its register is written. -/
theorem Chip.rd_wr_disjoint (s : Chip) (a : Nat) (f g : Fld) (v : Nat) (h : f.disjoint g) : (s.wr a f v).rd a g = s.rd a g := by
  refine Chip.rd_wr_apart _ _ _ _ _ _ ?_
  unfold apart
  unfold Fld.disjoint at h
  omega

/-! ### What a tile's entry leaves alone, part by part -/

theorem Chip.destroyKeys_pool (s : Chip) (p : Nat) :
    ∃ regs keys, s.destroyKeys p = { s with regs := regs, pool := { s.pool with keys := keys } } := by
  refine List.foldlRecOn (motive := fun u : Chip => ∃ regs keys, u = { s with regs := regs, pool := { s.pool with keys := keys } })
    _ _ ⟨_, _, rfl⟩ fun u hu g _ => ?_
  obtain ⟨regs, keys, rfl⟩ := hu
  dsimp only
  split
  · exact ⟨_, _, rfl⟩
  · exact ⟨_, _, rfl⟩

theorem Chip.moveCount_regs (s : Chip) (p : Nat) (a b : Tile) : ∃ regs, s.moveCount p a b = { s with regs := regs } := by
  unfold Chip.moveCount
  dsimp only
  split <;> split <;> exact ⟨_, rfl⟩

theorem Chip.recount_parts (s : Chip) (p : Nat) (a b : Tile) :
    ∃ regs keys, (s.moveCount p a b).destroyKeys p = { s with regs := regs, pool := { s.pool with keys := keys } } := by
  obtain ⟨regs, hcount⟩ := s.moveCount_regs p a b
  obtain ⟨regs', keys, hkeys⟩ := (s.moveCount p a b).destroyKeys_pool p
  rw [hkeys, hcount]
  exact ⟨regs', keys, rfl⟩

/-- A tile's entry changed: registers, keys and the table of entries, in which the one entry is put anew. -/
theorem Chip.modTile_parts (s : Chip) (t : Nat) (f : Tile → Tile) (r : RangeRef) (h : s.homed t = some r) :
    ∃ regs keys, s.modTile t f
      = { s with regs := regs, pool := { s.pool with tiles := s.pool.tiles.put (s.tileKey r t) (f (s.tile t)), keys := keys } } := by
  have htile : s.tile t = (s.pool.tiles.find (s.tileKey r t)).getD {} := by simp only [Chip.tile, h]
  rw [htile]
  simp only [Chip.modTile, h]
  generalize (s.pool.tiles.find (s.tileKey r t)).getD {} = old
  exact Chip.recount_parts _ _ _ _

theorem Chip.modTile_of_unhomed (s : Chip) (t : Nat) (f : Tile → Tile) (h : s.homed t = none) : s.modTile t f = s := by
  simp only [Chip.modTile, h]

theorem Chip.modTile_sameRanges (s : Chip) (t : Nat) (f : Tile → Tile) : s.sameRanges (s.modTile t f) := by
  cases h : s.homed t with
  | none => rw [s.modTile_of_unhomed t f h]
  | some r => exact (s.modTile_frame t f r h).2

/-! ### Views -/

/-- The views, and every register but key records, are as in `s`. -/
def Chip.keepsViews (s u : Chip) : Prop := u.pool.views = s.pool.views ∧ s.sameRanges u

theorem Chip.keepsViews_refl (s : Chip) : s.keepsViews s := ⟨rfl, rfl⟩

theorem Chip.keepsViews_trans {s t u : Chip} (h : s.keepsViews t) (g : t.keepsViews u) : s.keepsViews u :=
  ⟨g.1.trans h.1, g.2.trans h.2⟩

theorem Chip.modPool_keepsViews (s : Chip) (f : Pool → Pool) (h : ∀ q, (f q).views = q.views) : s.keepsViews (s.modPool f) :=
  ⟨h _, rfl⟩

theorem Chip.modTile_keepsViews (s : Chip) (t : Nat) (f : Tile → Tile) : s.keepsViews (s.modTile t f) := by
  refine ⟨?_, s.modTile_sameRanges t f⟩
  cases h : s.homed t with
  | none => rw [s.modTile_of_unhomed t f h]
  | some r =>
    obtain ⟨regs, keys, he⟩ := s.modTile_parts t f r h
    rw [he]

theorem Chip.foldl_keepsViews {α : Type} (f : Chip → α → Chip) (h : ∀ u x, Chip.keepsViews u (f u x)) (l : List α) (s : Chip) :
    s.keepsViews (l.foldl f s) :=
  List.foldlRecOn (motive := fun u => s.keepsViews u) l f s.keepsViews_refl fun u hu x _ => Chip.keepsViews_trans hu (h u x)

theorem Chip.retireStores_keepsViews (s : Chip) (p i : Nat) : s.keepsViews (s.retireStores p i) := by
  unfold Chip.retireStores
  dsimp only
  refine Chip.keepsViews_trans (Chip.foldl_keepsViews _ ?_ _ s) (Chip.foldl_keepsViews _ ?_ _ _)
  · intro u e
    exact ⟨rfl, rfl⟩
  · intro u t
    split
    · split
      · exact u.keepsViews_refl
      · split
        · exact u.keepsViews_refl
        · split
          · exact u.keepsViews_refl
          · refine Chip.keepsViews_trans ?_ (Chip.modPool_keepsViews _ _ fun _ => rfl)
            refine Chip.keepsViews_trans ?_ (Chip.modPool_keepsViews _ _ fun _ => rfl)
            refine Chip.keepsViews_trans ?_ (Chip.modTile_keepsViews _ _ _)
            refine Chip.keepsViews_trans ?_ (Chip.modPool_keepsViews _ _ fun _ => rfl)
            split
            · exact Chip.modPool_keepsViews _ _ fun _ => rfl
            · exact u.keepsViews_refl
    · exact u.keepsViews_refl

/-- The fields of a region that the home keeps: the numbers CURRENT and ISSUED. -/
def numberField (f : Fld) : Prop := f = F.HOM_VREGION_CURRENT ∨ f = F.HOM_VREGION_ISSUED

theorem Chip.rd_region_keepsViews {s u : Chip} (h : s.keepsViews u) (i : Nat) (hi : i < 4096) (f : Fld) (hf : numberField f) :
    u.rd (A.HOM_VREGION i) f = s.rd (A.HOM_VREGION i) f := by
  refine Chip.rd_sameRanges h.2 _ _ (.inl ?_)
  have hspan : 8 * (f.lo / 64) + 8 * f.span ≤ 24 := by rcases hf with rfl | rfl <;> decide
  unfold A.HOM_VREGION
  omega

theorem Chip.viewOf_keepsViews {s u : Chip} (h : s.keepsViews u) (e i : Nat) : u.viewOf e i = s.viewOf e i := by
  unfold Chip.viewOf
  rw [h.1]

theorem Chip.rd_syncLive (s : Chip) (i : Nat) (f : Fld) (hf : numberField f) :
    (s.syncLive i).rd (A.HOM_VREGION i) f = s.rd (A.HOM_VREGION i) f := by
  rcases hf with rfl | rfl <;> exact Chip.rd_wr_disjoint _ _ _ _ _ (by decide)

/-- The versions of a region that nothing holds are retired: its views and its numbers stay. -/
theorem Chip.retireVersions_keeps (s : Chip) (i : Nat) (hi : i < 4096) :
    (∀ e, (s.retireVersions i).viewOf e i = s.viewOf e i)
      ∧ ∀ f, numberField f → (s.retireVersions i).rd (A.HOM_VREGION i) f = s.rd (A.HOM_VREGION i) f := by
  have hkept : ∃ u, s.retireVersions i = u.syncLive i ∧ s.keepsViews u := by
    unfold Chip.retireVersions
    dsimp only
    refine ⟨_, rfl, Chip.keepsViews_trans ?_ (Chip.retireStores_keepsViews _ _ _)⟩
    refine Chip.keepsViews_trans ?_ (Chip.modPool_keepsViews _ _ fun _ => rfl)
    refine Chip.foldl_keepsViews _ (fun u v => ?_) _ s
    split
    · exact Chip.foldl_keepsViews _ (fun w j => Chip.modPool_keepsViews w _ fun _ => by rfl) _ u
    · exact u.keepsViews_refl
  obtain ⟨u, he, hu⟩ := hkept
  rw [he]
  exact ⟨fun e => Chip.viewOf_keepsViews hu e i, fun f hf => (u.rd_syncLive i f hf).trans (Chip.rd_region_keepsViews hu i hi f hf)⟩

theorem Chip.closeView_ends (s : Chip) (e i : Nat) (hi : i < 4096) :
    (s.closeView e i).viewOf e i = none
      ∧ ∀ f, numberField f → (s.closeView e i).rd (A.HOM_VREGION i) f = s.rd (A.HOM_VREGION i) f := by
  unfold Chip.closeView
  obtain ⟨hviews, hnumbers⟩ := Chip.retireVersions_keeps
    (s.modPool (fun q => { q with views := q.views.filter (fun v => !(v.eid == e && v.region == i)) })) i hi
  refine ⟨?_, fun f hf => hnumbers f hf⟩
  rw [hviews e]
  simp [Chip.viewOf, Chip.modPool, imp_iff_not_or]

/-! ### Versions opened and published -/

/-- Version numbers go round from 2^32 - 1 to 1. -/
theorem Chip.nextVersion_lt (s : Chip) (i n : Nat) : s.nextVersion i n < 2 ^ 32 := by
  have hsucc : ∀ k : Nat, (if Nat.ble (2 ^ 32 - 1) k then 1 else k + 1) < 2 ^ 32 := fun k => by
    split
    · decide
    · next h => simp only [Nat.ble_eq, Nat.not_le] at h; omega
  unfold Chip.nextVersion
  refine List.foldlRecOn (motive := fun k => k < 2 ^ 32) _ _ (hsucc n) fun k hk _ _ => ?_
  split
  · exact hsucc k
  · exact hk

section Region
variable (s : Chip) (p eid addr i : Nat) (hregion : s.regionAt p addr = some i)
include hregion

theorem Chip.versionOpen_busy (b : Bool)
    (h : (s.viewOf eid i).isSome = true ∨ 8 ≤ s.rd (A.HOM_VREGION i) F.HOM_VREGION_LIVE) : s.versionOpen p eid addr b = (s, .busy, 0) := by
  unfold Chip.versionOpen
  rcases h with h | h
  · simp [hregion, h]
  · have hfull : Nat.ble 8 (s.rd (A.HOM_VREGION i) F.HOM_VREGION_LIVE) = true := by rwa [Nat.ble_eq]
    simp [hregion, hfull]

/-- Room for one more view of EID `eid` and one more version. -/
def Chip.mayOpen (s : Chip) (eid i : Nat) : Prop :=
  s.viewOf eid i = none ∧ s.pool.views.length < 16384 ∧ s.rd (A.HOM_VREGION i) F.HOM_VREGION_LIVE < 8

omit hregion in
theorem Chip.mayOpen_not_busy (h : s.mayOpen eid i) :
    ((s.viewOf eid i).isSome || Nat.ble 16384 s.pool.views.length || Nat.ble 8 (s.rd (A.HOM_VREGION i) F.HOM_VREGION_LIVE)) = false := by
  obtain ⟨hview, hroom, hlive⟩ := h
  have hroom' : Nat.ble 16384 s.pool.views.length = false := by rw [Bool.eq_false_iff, ne_eq, Nat.ble_eq]; omega
  have hlive' : Nat.ble 8 (s.rd (A.HOM_VREGION i) F.HOM_VREGION_LIVE) = false := by rw [Bool.eq_false_iff, ne_eq, Nat.ble_eq]; omega
  rw [hview, hroom', hlive']
  rfl

theorem Chip.versionOpen_read (h : s.mayOpen eid i) :
    s.versionOpen p eid addr false
      = ({ s with pool := { s.pool with views := s.pool.views ++ [⟨eid, i, s.rd (A.HOM_VREGION i) F.HOM_VREGION_CURRENT, false⟩] } }, .ok,
          s.rd (A.HOM_VREGION i) F.HOM_VREGION_CURRENT) := by
  unfold Chip.versionOpen
  simp only [hregion, s.mayOpen_not_busy eid i h]
  rfl

theorem Chip.versionOpen_write (h : s.mayOpen eid i) (r : RangeRef) (f : Nat) (hr : s.homed (addr / 16384) = some r)
    (hrun : s.freeRun p (s.rng r F.PTN_RANGE_META_TRAY) (s.rng r F.PTN_RANGE_META_CHAN)
      (ceilDiv (8 * s.rd (A.HOM_VREGION i) F.HOM_VREGION_TILES) 16384) = some f) :
    let cur := s.rd (A.HOM_VREGION i) F.HOM_VREGION_CURRENT
    let num := s.nextVersion i (s.rd (A.HOM_VREGION i) F.HOM_VREGION_ISSUED)
    ∃ u, s.versionOpen p eid addr true = (u, .ok, num + cur <<< 32) ∧ u.viewOf eid i = some ⟨eid, i, num, true⟩
      ∧ u.rd (A.HOM_VREGION i) F.HOM_VREGION_ISSUED = num ∧ u.rd (A.HOM_VREGION i) F.HOM_VREGION_CURRENT = cur := by
  intro cur num
  have hnum : num < 2 ^ 32 := s.nextVersion_lt i _
  have hopen := s.mayOpen_not_busy eid i h
  unfold Chip.versionOpen
  simp only [hregion, hopen, hr, hrun]
  refine ⟨_, rfl, ?_, ?_, ?_⟩
  · have hview : s.pool.views.find? (fun v => v.eid == eid && v.region == i) = none := h.1
    simp [Chip.viewOf, Chip.syncLive, hview, num]
  · rw [Chip.rd_syncLive _ i _ (.inr rfl), Chip.rd_wr_same]
    exact Nat.mod_eq_of_lt hnum
  · rw [Chip.rd_syncLive _ i _ (.inl rfl), Chip.rd_wr_disjoint _ _ _ _ _ (by decide)]
    rfl

theorem Chip.versionClose_without (h : s.viewOf eid i = none) : s.versionClose p eid addr = (s, .ok, 0) := by
  unfold Chip.versionClose
  simp [hregion, h]

theorem Chip.versionClose_view (h : (s.viewOf eid i).isSome = true) : s.versionClose p eid addr = (s.closeView eid i, .ok, 0) := by
  unfold Chip.versionClose
  simp [hregion, h]

theorem Chip.versionPublish_denied (base working : Nat) (h : ∀ v, s.viewOf eid i = some v → v.write = false ∨ v.version ≠ working) :
    s.versionPublish p eid addr base working = (s, .accessDenied, 0) := by
  unfold Chip.versionPublish
  cases hview : s.viewOf eid i with
  | none => simp only [hregion, hview]
  | some v =>
    have hother : (!v.write || v.version != working) = true := by rcases h v hview with hw | hw <;> simp [hw]
    simp only [hregion, hview, hother, if_true]

section Holder
variable (v : View) (hview : s.viewOf eid i = some v) (hwrite : v.write = true) (base : Nat)
include hview hwrite

/-- CURRENT is no longer the version that the working one began from. -/
theorem Chip.versionPublish_conflict (hcur : s.rd (A.HOM_VREGION i) F.HOM_VREGION_CURRENT ≠ base) :
    s.versionPublish p eid addr base v.version
      = (s.closeView eid i, .versionConflict, s.rd (A.HOM_VREGION i) F.HOM_VREGION_CURRENT) := by
  have hmine : (!v.write || v.version != v.version) = false := by simp [hwrite]
  unfold Chip.versionPublish
  simp only [hregion, hview, hmine, beq_false_of_ne hcur, Bool.false_eq_true, if_false]

/-- The region with version `n` no longer working, and CURRENT. -/
def Chip.madeCurrent (s : Chip) (i n : Nat) : Chip :=
  (s.modPool (fun q => { q with
    versions := q.versions.map (fun x => if x.region == i && x.number == n then { x with working := false } else x) })).wr
    (A.HOM_VREGION i) F.HOM_VREGION_CURRENT n

theorem Chip.versionPublish_current (hcur : s.rd (A.HOM_VREGION i) F.HOM_VREGION_CURRENT = base) :
    s.versionPublish p eid addr base v.version = ((s.madeCurrent i v.version).closeView eid i, .ok, v.version) := by
  have hmine : (!v.write || v.version != v.version) = false := by simp [hwrite]
  subst hcur
  unfold Chip.versionPublish Chip.madeCurrent
  simp only [hregion, hview, hmine, beq_self_eq_true, Bool.false_eq_true, if_false, if_true]

end Holder

end Region

/-! ### The lost-line table (R159) -/

/-- The table with the entries of `l` cleared, as `Chip.ackLost` clears them. -/
def Chip.clearLost (s : Chip) (l : List Nat) : Chip := l.foldl (fun s i => s.writeLost i false 0 0 0) s

theorem Chip.rd_writeLost_other (s : Chip) (i j gran p line : Nat) (valid : Bool) (f : Fld) (hf : f.lo + f.width ≤ 64) (h : j ≠ i) :
    (s.writeLost i valid gran p line).rd (A.HOM_LOST j) f = s.rd (A.HOM_LOST j) f := by
  have hentry : ∀ (u : Chip) g v, (u.wrP (A.HOM_LOST i) 1 g v).rd (A.HOM_LOST j) f = u.rd (A.HOM_LOST j) f := fun u g v =>
    RegFile.get_setP_other _ _ _ _ _ _ _ (by unfold A.HOM_LOST; omega)
  have hused : ∀ u : Chip, u.syncLost.rd (A.HOM_LOST j) f = u.rd (A.HOM_LOST j) f := fun u =>
    Chip.rd_wr_apart _ _ _ _ _ _ (.inr (by unfold A.HOM_STATUS A.HOM_LOST F.HOM_STATUS_LOST_USED; dsimp only; omega))
  unfold Chip.writeLost
  dsimp only
  rw [hused, hentry, hentry, hentry, hentry]

theorem Chip.rd_writeLost_wide (s : Chip) (i gran p line : Nat) (valid : Bool) :
    (s.writeLost i valid gran p line).rd A.HOM_LOST_WIDE F.HOM_LOST_WIDE_WIDE = s.rd A.HOM_LOST_WIDE F.HOM_LOST_WIDE_WIDE := by
  have hentry : ∀ (u : Chip) g v, (u.wrP (A.HOM_LOST i) 1 g v).rd A.HOM_LOST_WIDE F.HOM_LOST_WIDE_WIDE
      = u.rd A.HOM_LOST_WIDE F.HOM_LOST_WIDE_WIDE := fun u g v =>
    RegFile.get_setP_other _ _ _ _ _ _ _ (.inl (by unfold A.HOM_LOST A.HOM_LOST_WIDE F.HOM_LOST_WIDE_WIDE; dsimp only; omega))
  have hused : ∀ u : Chip, u.syncLost.rd A.HOM_LOST_WIDE F.HOM_LOST_WIDE_WIDE = u.rd A.HOM_LOST_WIDE F.HOM_LOST_WIDE_WIDE := fun u =>
    Chip.rd_wr_apart _ _ _ _ _ _ (by decide)
  unfold Chip.writeLost
  dsimp only
  rw [hused, hentry, hentry, hentry, hentry]

theorem Chip.flag_writeLost_cleared (s : Chip) (i gran p line : Nat) :
    (s.writeLost i false gran p line).flag (A.HOM_LOST i) F.HOM_LOST_VALID = false := by
  have hused : ∀ u : Chip, u.syncLost.rd (A.HOM_LOST i) F.HOM_LOST_VALID = u.rd (A.HOM_LOST i) F.HOM_LOST_VALID := fun u =>
    Chip.rd_wr_apart _ _ _ _ _ _ (.inr (by unfold A.HOM_STATUS A.HOM_LOST F.HOM_STATUS_LOST_USED; dsimp only; omega))
  have hkept : ∀ (u : Chip) g v, 1 ≤ g.lo → (u.wrP (A.HOM_LOST i) 1 g v).rd (A.HOM_LOST i) F.HOM_LOST_VALID
      = u.rd (A.HOM_LOST i) F.HOM_LOST_VALID := fun u g v hg => RegFile.get_setP_apart _ _ _ _ _ _ (by decide) (.inl hg)
  have hzero : (s.wrP (A.HOM_LOST i) 1 F.HOM_LOST_VALID (b2n false)).rd (A.HOM_LOST i) F.HOM_LOST_VALID = 0 :=
    RegFile.get_setP_same _ _ _ _ _ (by decide)
  unfold Chip.flag Chip.writeLost
  dsimp only
  rw [hused, hkept _ _ _ (by decide), hkept _ _ _ (by decide), hkept _ _ _ (by decide), hzero]
  rfl

theorem Chip.clearLost_cons (s : Chip) (i : Nat) (l : List Nat) :
    s.clearLost (i :: l) = (s.writeLost i false 0 0 0).clearLost l := List.foldl_cons ..

theorem Chip.writeLost_frame (s : Chip) (i gran p line : Nat) (valid : Bool) :
    ∃ regs, s.writeLost i valid gran p line = { s with regs := regs } := by
  unfold Chip.writeLost Chip.syncLost Chip.wr Chip.wrP
  exact ⟨_, rfl⟩

theorem Chip.clearLost_frame (s : Chip) (l : List Nat) : ∃ regs, s.clearLost l = { s with regs := regs } := by
  induction l generalizing s with
  | nil => exact ⟨s.regs, rfl⟩
  | cons i l ih =>
    obtain ⟨regs, h⟩ := s.writeLost_frame i 0 0 0 false
    obtain ⟨regs', h'⟩ := ih (s.writeLost i false 0 0 0)
    exact ⟨regs', by rw [Chip.clearLost_cons, h', h]⟩

theorem Chip.rd_clearLost_wide (s : Chip) (l : List Nat) :
    (s.clearLost l).rd A.HOM_LOST_WIDE F.HOM_LOST_WIDE_WIDE = s.rd A.HOM_LOST_WIDE F.HOM_LOST_WIDE_WIDE :=
  List.foldlRecOn (motive := fun u : Chip => u.rd A.HOM_LOST_WIDE F.HOM_LOST_WIDE_WIDE = s.rd A.HOM_LOST_WIDE F.HOM_LOST_WIDE_WIDE) l _ rfl
    fun u hu i _ => by rw [Chip.rd_writeLost_wide, hu]

theorem Chip.rd_clearLost_other (s : Chip) (l : List Nat) (j : Nat) (hj : j ∉ l) (f : Fld) (hf : f.lo + f.width ≤ 64) :
    (s.clearLost l).rd (A.HOM_LOST j) f = s.rd (A.HOM_LOST j) f :=
  List.foldlRecOn (motive := fun u : Chip => u.rd (A.HOM_LOST j) f = s.rd (A.HOM_LOST j) f) l _ rfl fun u hu i hi => by
    rw [Chip.rd_writeLost_other _ _ _ _ _ _ _ _ hf (fun he : j = i => hj (he ▸ hi)), hu]

theorem Chip.flag_clearLost (s : Chip) (l : List Nat) (j : Nat) (hj : j ∈ l) :
    (s.clearLost l).flag (A.HOM_LOST j) F.HOM_LOST_VALID = false := by
  induction l generalizing s with
  | nil => cases hj
  | cons i l ih =>
    rw [Chip.clearLost_cons]
    by_cases hrest : j ∈ l
    · exact ih _ hrest
    · have hi : j = i := (List.mem_cons.1 hj).resolve_right hrest
      subst hi
      have hother := Chip.rd_clearLost_other (s.writeLost j false 0 0 0) l j hrest F.HOM_LOST_VALID (by decide)
      have hcleared := s.flag_writeLost_cleared j 0 0 0
      unfold Chip.flag at hcleared ⊢
      rw [hother]
      exact hcleared

/-- Whether a LOST_ACK of partition `p` acts on entry `i`. -/
def Chip.ackedEntry (s : Chip) (p addr len : Nat) (all : Bool) (i : Nat) : Bool :=
  s.rd (A.HOM_LOST i) F.HOM_LOST_PARTITION == p && (all || (Nat.ble addr (s.lostLine i * 64)
    && Nat.ble (s.lostLine i * 64 + (if s.flag (A.HOM_LOST i) F.HOM_LOST_GRAN then 16384 else 64)) (addr + len)))

theorem Chip.ackedEntry_iff (s : Chip) (p addr len : Nat) (all : Bool) (i : Nat) :
    s.ackedEntry p addr len all i = true ↔ s.rd (A.HOM_LOST i) F.HOM_LOST_PARTITION = p ∧ (all = true ∨ (addr ≤ s.lostLine i * 64
      ∧ s.lostLine i * 64 + (if s.flag (A.HOM_LOST i) F.HOM_LOST_GRAN then 16384 else 64) ≤ addr + len)) := by
  simp only [Chip.ackedEntry, Bool.and_eq_true, beq_iff_eq, Bool.or_eq_true, Nat.ble_eq]

/-- The partition's wide bit cleared where the whole table is meant. -/
def Chip.narrowed (s : Chip) (p : Nat) (all : Bool) : Chip :=
  if all then s.wr A.HOM_LOST_WIDE F.HOM_LOST_WIDE_WIDE (putBit (s.rd A.HOM_LOST_WIDE F.HOM_LOST_WIDE_WIDE) p false) else s

theorem Chip.ackLost_eq (s : Chip) (p addr len : Nat) (all : Bool) :
    s.ackLost p addr len all = (s.clearLost (s.lostEntries.filter (s.ackedEntry p addr len all))).narrowed p all := rfl

theorem Chip.rd_narrowed_lost (s : Chip) (p : Nat) (all : Bool) (j : Nat) (f : Fld) :
    (s.narrowed p all).rd (A.HOM_LOST j) f = s.rd (A.HOM_LOST j) f := by
  unfold Chip.narrowed
  split
  · exact Chip.rd_wr_apart _ _ _ _ _ _ (.inr (by unfold A.HOM_LOST_WIDE A.HOM_LOST F.HOM_LOST_WIDE_WIDE; dsimp only; omega))
  · rfl

theorem putBit_false_lt (w n p : Nat) (hn : n < 2 ^ w) : putBit n p false < 2 ^ w := by
  refine Nat.lt_pow_two_of_testBit _ fun j hj => ?_
  have hbit : n.testBit j = false := Nat.testBit_lt_two_pow (lt_of_lt_of_le hn (Nat.pow_le_pow_right (by decide) hj))
  unfold putBit
  rw [testBit_setBits]
  split
  · simp
  · exact hbit

/-- What a LOST_ACK leaves of each entry and of the wide bits. -/
theorem Chip.ackLost_acts (s : Chip) (p addr len : Nat) (all : Bool) :
    s.ackLost p addr len all = { s with regs := (s.ackLost p addr len all).regs }
      ∧ (∀ i ∈ s.lostEntries,
          (s.ackedEntry p addr len all i = true → (s.ackLost p addr len all).flag (A.HOM_LOST i) F.HOM_LOST_VALID = false)
          ∧ (s.ackedEntry p addr len all i = false → (s.ackLost p addr len all).flag (A.HOM_LOST i) F.HOM_LOST_VALID = true
              ∧ (s.ackLost p addr len all).lostLine i = s.lostLine i))
      ∧ (s.ackLost p addr len all).rd A.HOM_LOST_WIDE F.HOM_LOST_WIDE_WIDE
          = (if all then putBit (s.rd A.HOM_LOST_WIDE F.HOM_LOST_WIDE_WIDE) p false else s.rd A.HOM_LOST_WIDE F.HOM_LOST_WIDE_WIDE) := by
  rw [Chip.ackLost_eq]
  refine ⟨?_, fun i hi => ⟨fun hin => ?_, fun hout => ?_⟩, ?_⟩
  · obtain ⟨regs, h⟩ := s.clearLost_frame (s.lostEntries.filter (s.ackedEntry p addr len all))
    rw [h]
    unfold Chip.narrowed
    split <;> rfl
  · have hcleared := s.flag_clearLost _ i (List.mem_filter.2 ⟨hi, hin⟩)
    unfold Chip.flag at hcleared ⊢
    rwa [Chip.rd_narrowed_lost]
  · have hkept : ∀ f : Fld, f.lo + f.width ≤ 64 →
        (s.clearLost (s.lostEntries.filter (s.ackedEntry p addr len all))).rd (A.HOM_LOST i) f = s.rd (A.HOM_LOST i) f :=
      s.rd_clearLost_other _ i (by simp [hout])
    have hvalid : s.flag (A.HOM_LOST i) F.HOM_LOST_VALID = true := (List.mem_filter.1 hi).2
    unfold Chip.flag at hvalid ⊢
    unfold Chip.lostLine
    rw [Chip.rd_narrowed_lost, Chip.rd_narrowed_lost, hkept _ (by decide), hkept _ (by decide)]
    exact ⟨hvalid, rfl⟩
  · have hwide := s.rd_clearLost_wide (s.lostEntries.filter (s.ackedEntry p addr len all))
    unfold Chip.narrowed
    split
    · rw [Chip.rd_wr_same, hwide]
      exact Nat.mod_eq_of_lt (putBit_false_lt 64 _ p (s.rd_lt _ _))
    · exact hwide

end Sys2Proof.Machine
end

section
/-!
Memory and home commands as the sequencer carries them out (spec/03_pool_and_tiers.md R109, R113, spec/04_coherence.md R159,
spec/08_commands_and_scheduling.md R284).
-/
open Sys2Proof Sys2Proof.Machine
namespace Sys2Proof.Machine

/-! ### Home commands -/

theorem Chip.runSequencer_home (s : Chip) (m : Cmd) (hlo : 0x70 ≤ slotOp m.cur) (hhi : slotOp m.cur ≤ 0x82) :
    s.runSequencer m = s.runHomeCmd m := by
  have hbelow : ∀ k, k < 0x70 → (slotOp m.cur == k) = false := fun k hk => beq_false_of_ne (by omega)
  have hin : (Nat.ble 0x70 (slotOp m.cur) && Nat.ble (slotOp m.cur) 0x82) = true := by
    rw [Bool.and_eq_true, Nat.ble_eq, Nat.ble_eq]
    exact ⟨hlo, hhi⟩
  unfold Chip.runSequencer
  simp only [hbelow oFLUSH_RANGE (by decide), hbelow oTIER_HINT (by decide), hbelow oPREFETCH (by decide), hbelow oCOUNTER_SET (by decide),
    hbelow oCOUNTER_ADD (by decide), hbelow oWAIT (by decide), hbelow oCODEBOOK_RETIRE (by decide), hin, Bool.false_eq_true, if_false, if_true]

/-- A version or ownership command whose address this home orders, answered with no error. -/
theorem Chip.runHomeCmd_answered (s : Chip) (m : Cmd) (hstage : m.stage = 0) (hhere : s.homeFor m.part (prm m.cur 8 56) = .here)
    (hop : slotOp m.cur ≠ oLOST_ACK) (u : Chip) (st : Status) (res : Nat) (hans : s.atHome m = (u, st, res)) (hst : st.isError = false) :
    s.runHomeCmd m = u.endPacket m.id st res := by
  unfold Chip.runHomeCmd
  simp [hstage, hhere, beq_false_of_ne hop, hans, hst]

theorem Chip.homeFor_tile (s : Chip) (p addr : Nat) : s.homeFor p (16384 * (addr / 16384)) = s.homeFor p addr := by
  unfold Chip.homeFor
  rw [Nat.mul_div_cancel_left _ (by decide)]

/-- A LOST_ACK of the whole table. -/
theorem Chip.runHomeCmd_ackAll (s : Chip) (m : Cmd) (hstage : m.stage = 0) (hhere : s.homeFor m.part (prm m.cur 8 56) = .here)
    (hop : slotOp m.cur = oLOST_ACK) (hall : bitAt m.cur 192 = true) :
    s.runHomeCmd m = (s.ackLost m.part (prm m.cur 8 56) (prm m.cur 16 64) true).endPacket m.id .ok (s.lostEntries.length
      - (s.ackLost m.part (prm m.cur 8 56) (prm m.cur 16 64) true).lostEntries.length) := by
  have hans : s.atHome m = (s.ackLost m.part (prm m.cur 8 56) (prm m.cur 16 64) true, .ok, s.lostEntries.length
      - (s.ackLost m.part (prm m.cur 8 56) (prm m.cur 16 64) true).lostEntries.length) := by
    unfold Chip.atHome
    simp [hop, oLOST_ACK, oVERSION_OPEN, oVERSION_CLOSE, oVERSION_PUBLISH, oOWN_CLAIM, oOWN_RELEASE, hall]
  unfold Chip.runHomeCmd
  simp [hstage, hhere, hop, hall, hans, upFrom, Chip.homeFor_tile, Status.isError]

/-! ### Flushes -/

/-- With no ENGINE line of the partition in the cache there is nothing to write back. -/
theorem Chip.runFlush_of_none (s : Chip) (m : Cmd) (h : ∀ e ∈ s.cacheOf m.part, keyRole e.1 ≠ roleENGINE) :
    s.runFlush m = s.issued { m with waits := [] } .ok 0 := by
  have hmine : ∀ lo hi, (s.cacheOf m.part).filter (fun e =>
      keyRole e.1 == roleENGINE && (Nat.ble lo (keyLine e.1) && Nat.ble (keyLine e.1) hi)) = [] := fun lo hi =>
    List.filter_eq_nil_iff.2 fun e he => by simp [h e he]
  unfold Chip.runFlush
  simp only [hmine]
  simp [distinct, Chip.modSeq]

/-! ### Hints -/

section SameRanges
variable {s t : Chip} (h : s.sameRanges t)
include h

theorem Chip.listed_sameRanges (v : Nat) : t.listed (A.PTN_RANGE v 0) 64 4096 = s.listed (A.PTN_RANGE v 0) 64 4096 := by
  have hout : ∀ k, A.PTN_RANGE v 0 ≤ k → k < A.PTN_RANGE v 0 + 64 * 4096 → keyMemKey k = false := fun k hk _ =>
    decide_eq_false (by unfold A.PTN_RANGE at hk; omega)
  unfold Chip.listed
  rw [← RegFile.keysIn_off t.regs _ _ hout, ← RegFile.keysIn_off s.regs _ _ hout, h]

theorem Chip.homed_sameRanges (x : Nat) : t.homed x = s.homed x := by
  have hrd : ∀ v i f, t.rd (A.PTN_RANGE v i) f = s.rd (A.PTN_RANGE v i) f := fun v i f => Chip.rng_sameRanges h ⟨v, i⟩ f
  unfold Chip.homed Chip.shadowV
  simp only [Chip.active_sameRanges h, Chip.listed_sameRanges h, hrd]

theorem Chip.tileKey_sameRanges (r : RangeRef) (x : Nat) : t.tileKey r x = s.tileKey r x := by
  unfold Chip.tileKey
  simp only [Chip.rng_sameRanges h]

end SameRanges

/-- The entry of every tile after one entry is changed: its own, and that of any tile that shares it. -/
theorem Chip.tile_modTile (s : Chip) (t : Nat) (f : Tile → Tile) (r : RangeRef) (h : s.homed t = some r) (x : Nat) :
    ((s.modTile t f).tile x = s.tile x ∧ x ≠ t) ∨ (s.modTile t f).tile x = f (s.tile x) := by
  have hsame := s.modTile_sameRanges t f
  obtain ⟨regs, keys, he⟩ := s.modTile_parts t f r h
  have htiles : (s.modTile t f).pool.tiles = s.pool.tiles.put (s.tileKey r t) (f (s.tile t)) := by rw [he]
  unfold Chip.tile
  rw [Chip.homed_sameRanges hsame]
  cases hx : s.homed x with
  | none => exact .inl ⟨rfl, fun hxt => by rw [hxt, h] at hx; cases hx⟩
  | some r' =>
    simp only [Chip.tileKey_sameRanges hsame, htiles]
    by_cases hkey : s.tileKey r' x = s.tileKey r t
    · right
      rw [hkey, Tab.find_put_same]
      simp only [Option.getD_some, Chip.tile, h]
    · left
      rw [Tab.find_put_other _ _ _ _ hkey]
      refine ⟨rfl, fun hxt => hkey ?_⟩
      rw [hxt, h] at hx
      rw [hxt, Option.some.inj hx]

/-- The entry of tile `t` under hint `mode`, as TIER_HINT writes it now. -/
def Chip.hintTile (s : Chip) (mode t : Nat) : Chip := s.modTile t (fun x => { x with hint := mode, hintAge := s.age })

/-- The hint of one tile, and its promotion wanted where the hint is HOT. -/
def Chip.hintStep (s : Chip) (mode t : Nat) : Chip :=
  let u := s.hintTile mode t
  if mode == 1 && (u.tile t).state == .flash then u.modPool (fun q => { q with wanted := distinct (q.wanted ++ [t]) }) else u

/-- TIER_HINT other than DISCARD, by the policy of the range. -/
theorem Chip.runHint_of_range (s : Chip) (m : Cmd) (r : RangeRef) (hrange : s.hintRange m (prm m.cur 8 56) = .ok r)
    (hmode : prm m.cur 24 8 < 3) : (s.tiered r = false → s.runHint m = s.endPacket m.id .ok 0)
      ∧ (s.tiered r = true → s.runHint m = (((s.hintTiles r (prm m.cur 8 56) (prm m.cur 16 64) false).foldl (fun s t =>
          s.hintStep (prm m.cur 24 8) t) s).promoteWanted).endPacket m.id .ok (s.hintTiles r (prm m.cur 8 56) (prm m.cur 16 64) false).length) := by
  have hne : (prm m.cur 24 8 == 3) = false := beq_false_of_ne (by omega)
  unfold Chip.runHint
  simp only [hrange, hne, Bool.false_eq_true, if_false]
  refine ⟨fun h => by simp only [h, Bool.not_false, if_true], fun h => ?_⟩
  simp only [h, Bool.not_true, Bool.false_eq_true, if_false]
  rfl

/-- The tiles of `l` settled here: a hint starts no promotion. -/
def Chip.settledTiles (s : Chip) (l : List Nat) : Prop := ∀ t ∈ l, (s.tile t).state ≠ .flash ∧ (s.homed t).isSome = true

theorem Chip.hintTile_acts (s : Chip) (mode t : Nat) (h : (s.homed t).isSome = true) :
    (∃ regs keys tiles, s.hintTile mode t = { s with regs := regs, pool := { s.pool with keys := keys, tiles := tiles } })
      ∧ (∀ x, (s.hintTile mode t).homed x = s.homed x) ∧ (∀ x, ((s.hintTile mode t).tile x).state = (s.tile x).state)
      ∧ (∀ x, (s.tile x).hint = mode ∨ x = t → ((s.hintTile mode t).tile x).hint = mode) := by
  obtain ⟨r, hr⟩ := Option.isSome_iff_exists.1 h
  obtain ⟨regs, keys, he⟩ := s.modTile_parts t (fun x => { x with hint := mode, hintAge := s.age }) r hr
  have htile := s.tile_modTile t (fun x => { x with hint := mode, hintAge := s.age }) r hr
  refine ⟨⟨regs, keys, _, he⟩, fun x => Chip.homed_sameRanges (s.modTile_sameRanges t _) x, fun x => ?_, fun x hx => ?_⟩
  · unfold Chip.hintTile
    rcases htile x with ⟨hx, _⟩ | hx <;> rw [hx]
  · unfold Chip.hintTile
    rcases htile x with ⟨hkept, hne⟩ | hnew
    · rw [hkept]
      exact hx.resolve_right hne
    · rw [hnew]

/-- Hints for settled tiles, one after the other. -/
theorem Chip.foldl_hintTile (s : Chip) (mode : Nat) (l : List Nat) (h : s.settledTiles l) :
    ∃ u : Chip, l.foldl (fun s t => s.hintStep mode t) s = u
      ∧ (∃ regs keys tiles, u = { s with regs := regs, pool := { s.pool with keys := keys, tiles := tiles } })
      ∧ ∀ x, (s.tile x).hint = mode ∨ x ∈ l → (u.tile x).hint = mode := by
  induction l generalizing s with
  | nil => exact ⟨s, rfl, ⟨s.regs, s.pool.keys, s.pool.tiles, rfl⟩, fun x hx => hx.resolve_right List.not_mem_nil⟩
  | cons t l ih =>
    obtain ⟨hstate, hhomed⟩ := h t List.mem_cons_self
    obtain ⟨⟨regs, keys, tiles, he⟩, hranges, hstates, hhints⟩ := s.hintTile_acts mode t hhomed
    have hsettled : (s.hintTile mode t).settledTiles l := fun x hx => by
      rw [hstates, hranges]
      exact h x (List.mem_cons_of_mem t hx)
    have hquiet : (mode == 1 && ((s.hintTile mode t).tile t).state == .flash) = false := by
      rw [hstates, beq_false_of_ne hstate, Bool.and_false]
    obtain ⟨u, hu, ⟨regs', keys', tiles', he'⟩, hall⟩ := ih _ hsettled
    refine ⟨u, ?_, ⟨regs', keys', tiles', by rw [he', he]⟩, fun x hx => hall x ?_⟩
    · rw [List.foldl_cons, ← hu]
      unfold Chip.hintStep
      simp only [hquiet, Bool.false_eq_true, if_false]
    · rcases hx with hx | hx
      · exact .inl (hhints x (.inl hx))
      · exact (List.mem_cons.1 hx).imp (fun hxt => hhints x (.inr hxt)) id

/-! ### Prefetches -/

/-- Where no tile is in flash or being promoted there is nothing to wait for. -/
theorem Chip.runPrefetch_of_settled (s : Chip) (m : Cmd) (r : RangeRef) (hrange : s.hintRange m (prm m.cur 8 56) = .ok r)
    (hstage : m.stage = 0) (h : ∀ t ∈ s.hintTiles r (prm m.cur 8 56) (prm m.cur 16 64) false,
      (s.tile t).state ≠ .flash ∧ (s.tile t).state ≠ .promoting) :
    s.runPrefetch m = (s.setCmd { m with stage := 1, asked := [] }).endPacket m.id .ok 0 := by
  have hnone : (s.hintTiles r (prm m.cur 8 56) (prm m.cur 16 64) false).filter (fun t =>
      (s.tile t).state == .flash || (s.tile t).state == .promoting) = [] := List.filter_eq_nil_iff.2 fun t ht => by simp [h t ht]
  unfold Chip.runPrefetch
  simp [hrange, hstage, hnone]

end Sys2Proof.Machine
end

section
/-!
Writes of HOM_VREGION's first word (spec/05_memory_model.md R186): a region that starts, one that is refused, one that ends.
-/
open Sys2Proof Sys2Proof.Machine
namespace Sys2Proof.Machine

/-! ### The register -/

/-- HOM_VREGION[i], and a 64-bit write of its first word. -/
def regionLoc (i : Nat) : Loc := ⟨.homVregion, i, 0, 0, A.HOM_VREGION i, 0⟩
def regionWrite (i data : Nat) : WordWrite := ⟨regionLoc i, A.HOM_VREGION i, data, 2 ^ 64 - 1⟩

theorem locate_HOM_VREGION (i : Nat) (hi : i < 4096) : locateKey (A.HOM_VREGION i) = some (regionLoc i) := by
  have hrows : blockRows (A.HOM_VREGION i) = rowsHOM := by
    unfold A.HOM_VREGION blockRows
    repeat rw [if_neg (by omega)]
    rw [if_pos (by omega)]
  have hone : ∀ (k : RegKind) (b : Nat), b + 8 * k.allWords ≤ A.HOM_VREGION i → (⟨k, b, []⟩ : Row).locate (A.HOM_VREGION i) = none := by
    intro k b h
    unfold Row.locate
    simp only [Row.indices]
    rw [if_neg (by omega)]
    refine if_neg ?_
    simp only [Bool.and_eq_true, Nat.blt_eq]
    omega
  have hctl := hone .homCtl 0xa00000 (by rw [show RegKind.homCtl.allWords = 1 from rfl]; unfold A.HOM_VREGION; omega)
  have hstatus := hone .homStatus 0xa00008 (by rw [show RegKind.homStatus.allWords = 1 from rfl]; unfold A.HOM_VREGION; omega)
  have hwide := hone .homLostWide 0xa00010 (by rw [show RegKind.homLostWide.allWords = 1 from rfl]; unfold A.HOM_VREGION; omega)
  have hregion : (⟨.homVregion, 0xa20000, [⟨0x20, 4096⟩]⟩ : Row).locate (A.HOM_VREGION i) = some (regionLoc i) := by
    have hindex : (A.HOM_VREGION i - 0xa20000) / 0x20 = i := by unfold A.HOM_VREGION; omega
    have hrest : (A.HOM_VREGION i - 0xa20000) % 0x20 = 0 := by unfold A.HOM_VREGION; omega
    have hbase : ¬ A.HOM_VREGION i < 0xa20000 := by unfold A.HOM_VREGION; omega
    have hcount : Nat.blt i 4096 = true := by rw [Nat.blt_eq]; exact hi
    have hwords : Nat.blt 0 (8 * RegKind.homVregion.allWords) = true := by decide
    unfold Row.locate regionLoc
    simp only [Row.indices, Row.within, hindex, hrest, hbase, if_false]
    simp [hcount, hwords]
  unfold locateKey
  rw [hrows]
  unfold rowsHOM
  simp only [List.findSome?_cons, hctl, hstatus, hwide, hregion]

theorem Chip.site_HOM_VREGION (s : Chip) (i : Nat) (hi : i < 4096) :
    s.site (A.HOM_VREGION i) = some ⟨regionLoc i, A.HOM_VREGION i, false⟩ := by
  refine s.site_plain _ _ ?_ ?_ ?_ ?_ (locate_HOM_VREGION i hi) (by rfl)
  all_goals (unfold A.HOM_VREGION; omega)

theorem regionWrite_whole (i data : Nat) : (regionWrite i data).whole := ⟨rfl, rfl⟩

/-- A write of a first word covers none of what lies beyond it. -/
theorem WordWrite.touches_beyond (w : WordWrite) (f : Fld) (hw : w.whole) (hf : 64 ≤ f.lo) : w.touches f = false := by
  have hzero : (2 ^ 64 - 1) >>> f.lo = 0 := by
    rw [Nat.shiftRight_eq_div_pow]
    exact Nat.div_eq_of_lt (lt_of_lt_of_le (by decide) (Nat.pow_le_pow_right (by decide) hf))
  unfold WordWrite.touches WordWrite.maskOf bits
  rw [hw.word, hw.mask, Nat.mul_zero, Nat.shiftLeft_zero, hzero]
  simp

theorem regionWrite_touches (i data : Nat) (f : Fld) (hf : f.lo + f.width ≤ 64) (hpos : 0 < f.width) :
    (regionWrite i data).touches f = true := WordWrite.touches_whole (regionWrite_whole i data) hf hpos

/-- The part once the three fields of the word are stored. -/
def Chip.regionStored (s : Chip) (i data : Nat) : Chip :=
  ((s.wr (A.HOM_VREGION i) F.HOM_VREGION_BASE_TILE (bits data 0 42)).wr (A.HOM_VREGION i) F.HOM_VREGION_PARTITION (bits data 42 6)).wr
    (A.HOM_VREGION i) F.HOM_VREGION_VALID (bits data 48 1)

theorem Chip.applyWord_region (s : Chip) (i data : Nat) : s.applyWord (regionWrite i data) false [] = s.regionStored i data := by
  have htouched : (regionWrite i data).loc.specs.filter (fun f => (regionWrite i data).touches f.fld && !([] : List Fld).contains f.fld)
      = [⟨F.HOM_VREGION_BASE_TILE, .rwl, .any, 0⟩, ⟨F.HOM_VREGION_PARTITION, .rwl, .any, 0⟩, ⟨F.HOM_VREGION_VALID, .rwl, .any, 0⟩] := by
    have hbeyond := fun f => (regionWrite i data).touches_beyond f (regionWrite_whole i data)
    have hin := regionWrite_touches i data
    rw [show (regionWrite i data).loc.specs = RegKind.homVregion.fields i 0 from rfl]
    simp [RegKind.fields, hin F.HOM_VREGION_BASE_TILE (by decide) (by decide), hin F.HOM_VREGION_PARTITION (by decide) (by decide),
      hin F.HOM_VREGION_VALID (by decide) (by decide), hbeyond F.HOM_VREGION_TILES (by decide), hbeyond F.HOM_VREGION_CURRENT (by decide),
      hbeyond F.HOM_VREGION_ISSUED (by decide), hbeyond F.HOM_VREGION_LIVE (by decide)]
  have hafter : ∀ (u : Chip) (f : FieldSpec), f.fld.lo + f.fld.width ≤ 64 → f.acc = .rwl →
      u.applyField (regionWrite i data) false f = u.wr (A.HOM_VREGION i) f.fld (bits data f.fld.lo f.fld.width) := fun u f hf hacc => by
    unfold Chip.applyField
    rw [u.fieldAfter_whole _ f (regionWrite_whole i data) hf, hacc]
    rfl
  unfold Chip.applyWord
  rw [if_pos (by rfl), htouched]
  simp only [List.foldl_cons, List.foldl_nil]
  rw [hafter _ _ (by decide) rfl, hafter _ _ (by decide) rfl, hafter _ _ (by decide) rfl]
  rfl

/-! ### The write -/

theorem Chip.leftOut_region (s : Chip) (src : Source) (i data : Nat)
    (hlocked : s.locked (s.rd (A.HOM_VREGION i) F.HOM_VREGION_PARTITION) = false) :
    s.lockedAt (regionLoc i) = false ∧ s.leftOut src (regionWrite i data) = [] := by
  have hlock : s.lockedAt (regionLoc i) = false := hlocked
  refine ⟨hlock, ?_⟩
  unfold Chip.leftOut
  simp only [regionWrite, hlock, Bool.false_eq_true, if_false]
  rfl

theorem Chip.encodingOk_region (s : Chip) (i data : Nat) : s.encodingOk (regionWrite i data) = true := by
  unfold Chip.encodingOk
  simp [regionWrite, regionLoc, Loc.specs, RegKind.fields, Legal.ok]

/-- The whole write fails exactly where it leaves VALID 1 over a region that does not fit (R186). -/
theorem Chip.wholeFails_region (s t : Chip) (i data : Nat) : s.wholeFails t (regionWrite i data)
    = if t.flag (A.HOM_VREGION i) F.HOM_VREGION_VALID && !t.regionFits i then some .formatInvalid else none := by
  have htouch : (regionWrite i data).touches F.HOM_VREGION_VALID = true := regionWrite_touches i data _ (by decide) (by decide)
  have hjoint : t.jointOk (regionWrite i data) = (!t.flag (A.HOM_VREGION i) F.HOM_VREGION_VALID || t.regionFits i) := by
    have hmodel : t.jointOk (regionWrite i data)
        = (!((regionWrite i data).touches F.HOM_VREGION_VALID && t.flag (A.HOM_VREGION i) F.HOM_VREGION_VALID) || t.regionFits i) := rfl
    rw [hmodel, htouch, Bool.true_and]
  unfold Chip.wholeFails
  rw [s.encodingOk_region, hjoint]
  cases t.flag (A.HOM_VREGION i) F.HOM_VREGION_VALID <;> cases t.regionFits i <;> rfl

theorem Chip.regionStored_fields (s : Chip) (i data : Nat) :
    (s.regionStored i data).rd (A.HOM_VREGION i) F.HOM_VREGION_BASE_TILE = bits data 0 42
      ∧ (s.regionStored i data).rd (A.HOM_VREGION i) F.HOM_VREGION_PARTITION = bits data 42 6
      ∧ (s.regionStored i data).rd (A.HOM_VREGION i) F.HOM_VREGION_VALID = bits data 48 1 := by
  unfold Chip.regionStored
  refine ⟨?_, ?_, ?_⟩
  · rw [Chip.rd_wr_disjoint _ _ _ _ _ (by decide), Chip.rd_wr_disjoint _ _ _ _ _ (by decide), Chip.rd_wr_same]
    exact Nat.mod_eq_of_lt (bits_lt _ _ _)
  · rw [Chip.rd_wr_disjoint _ _ _ _ _ (by decide), Chip.rd_wr_same]
    exact Nat.mod_eq_of_lt (bits_lt _ _ _)
  · rw [Chip.rd_wr_same]
    exact Nat.mod_eq_of_lt (bits_lt _ _ _)

theorem Chip.flag_regionStored (s : Chip) (i data : Nat) :
    (s.regionStored i data).flag (A.HOM_VREGION i) F.HOM_VREGION_VALID = (bits data 48 1 != 0) := by
  unfold Chip.flag
  rw [(s.regionStored_fields i data).2.2]

section Write
variable (s : Chip) (src : Source) (i data : Nat) (hi : i < 4096) (hsrc : src.central) (hserves : s.serves src (A.HOM_VREGION i))
variable (hdata : data < 2 ^ 64) (hlocked : s.locked (s.rd (A.HOM_VREGION i) F.HOM_VREGION_PARTITION) = false)
include hi hsrc hserves hdata

/-- The write reaches the register of fields: no block's rule stands before it. -/
theorem Chip.busWrite_region : s.busWrite src false (A.HOM_VREGION i) 8 data
    = s.writeFields src (regionWrite i data) (A.HOM_VREGION i) := by
  have hpart : src.part = none := by rcases hsrc with rfl | rfl <;> rfl
  have hmay : s.mayWrite src false (regionLoc i) = true := by rcases hsrc with rfl | rfl <;> rfl
  exact s.busWrite_whole src false (regionLoc i) (A.HOM_VREGION i) data (s.site_HOM_VREGION i hi) rfl (by unfold A.HOM_VREGION; omega) hdata
    hserves hpart hmay rfl rfl (show RegKind.homVregion ≠ .pceCurve by decide)

include hlocked

theorem Chip.busWrite_region_accepted
    (h : ((s.regionStored i data).flag (A.HOM_VREGION i) F.HOM_VREGION_VALID && !(s.regionStored i data).regionFits i) = false) :
    s.busWrite src false (A.HOM_VREGION i) 8 data = (s.regionStored i data).regionSet s i := by
  obtain ⟨hlock, hleft⟩ := s.leftOut_region src i data hlocked
  have hstored : s.applyWord (regionWrite i data) (s.lockedAt (regionWrite i data).loc) [] = s.regionStored i data := by
    rw [show (regionWrite i data).loc = regionLoc i from rfl, hlock, s.applyWord_region]
  have hwhole : s.wholeFails (s.applyWord (regionWrite i data) (s.lockedAt (regionWrite i data).loc) []) (regionWrite i data) = none := by
    rw [hstored, s.wholeFails_region, h]
    rfl
  rw [s.busWrite_region src i data hi hsrc hserves hdata, s.writeFields_accepted src _ _ hleft hwhole, hstored]
  rfl

theorem Chip.busWrite_region_refused (hvalid : (s.regionStored i data).flag (A.HOM_VREGION i) F.HOM_VREGION_VALID = true)
    (hfits : (s.regionStored i data).regionFits i = false) : s.busWrite src false (A.HOM_VREGION i) 8 data
      = s.log { status := .formatInvalid, subsys := .homeAgent, addrKind := 4, addr := A.HOM_VREGION i } := by
  obtain ⟨hlock, hleft⟩ := s.leftOut_region src i data hlocked
  have hstored : s.applyWord (regionWrite i data) (s.lockedAt (regionWrite i data).loc) [] = s.regionStored i data := by
    rw [show (regionWrite i data).loc = regionLoc i from rfl, hlock, s.applyWord_region]
  have hpart : src.part = none := by rcases hsrc with rfl | rfl <;> rfl
  have hblock : blockSubsys (A.HOM_VREGION i) = .homeAgent := by
    unfold blockSubsys A.HOM_VREGION
    repeat rw [if_neg (by omega)]
    rw [if_pos (by omega)]
  rw [s.busWrite_region src i data hi hsrc hserves hdata]
  unfold Chip.writeFields
  simp only [hleft, List.map_nil, hstored, s.wholeFails_region, hvalid, hfits, Bool.not_false, Bool.and_true, if_true,
    Chip.refuseAccess, hpart, hblock]

end Write

/-! ### What a region's start and end leave -/

theorem Chip.startRegion_fields (s : Chip) (i : Nat) (f : Fld) (hf : f.disjoint F.HOM_VREGION_CURRENT) (hf' : f.disjoint F.HOM_VREGION_ISSUED)
    (hf'' : f.disjoint F.HOM_VREGION_LIVE) : (s.startRegion i).rd (A.HOM_VREGION i) f = s.rd (A.HOM_VREGION i) f := by
  unfold Chip.startRegion Chip.syncLive
  dsimp only
  rw [Chip.rd_wr_disjoint _ _ _ _ _ (Fld.disjoint_symm hf''), Chip.rd_wr_disjoint _ _ _ _ _ (Fld.disjoint_symm hf'),
    Chip.rd_wr_disjoint _ _ _ _ _ (Fld.disjoint_symm hf)]
  rfl

/-- Version 1 of a region: its contents as it starts. -/
def firstVersion (i : Nat) : Version := { region := i, number := 1, base := 0, working := false, map := [], own := [] }

theorem filter_firstVersion (l : List Version) (i : Nat) :
    (l.filter (fun v => v.region != i) ++ [firstVersion i]).filter (fun v => v.region == i) = [firstVersion i] := by
  have hnone : (l.filter (fun v => v.region != i)).filter (fun v => v.region == i) = [] :=
    List.filter_eq_nil_iff.2 fun v hv => by
      have := (List.mem_filter.1 hv).2
      simpa using this
  rw [List.filter_append, hnone]
  simp [firstVersion]

/-- Version 1 alone, which is CURRENT. -/
theorem Chip.startRegion_versions (s : Chip) (i : Nat) :
    (s.startRegion i).pool.versions.filter (fun v => v.region == i) = [firstVersion i]
      ∧ (s.startRegion i).rd (A.HOM_VREGION i) F.HOM_VREGION_CURRENT = 1 ∧ (s.startRegion i).rd (A.HOM_VREGION i) F.HOM_VREGION_ISSUED = 1
      ∧ (s.startRegion i).rd (A.HOM_VREGION i) F.HOM_VREGION_LIVE = 1 := by
  have hversions := filter_firstVersion s.pool.versions i
  refine ⟨hversions, ?_, ?_, ?_⟩
  · unfold Chip.startRegion
    dsimp only
    rw [Chip.rd_syncLive _ i _ (.inl rfl), Chip.rd_wr_disjoint _ _ _ _ _ (by decide), Chip.rd_wr_same]
    rfl
  · unfold Chip.startRegion
    dsimp only
    rw [Chip.rd_syncLive _ i _ (.inr rfl), Chip.rd_wr_same]
    rfl
  · unfold Chip.startRegion Chip.syncLive
    dsimp only
    rw [Chip.rd_wr_same]
    exact congrArg (fun l : List Version => l.length % 2 ^ 8) hversions

theorem Chip.endRegion_ends (s : Chip) (i : Nat) :
    (s.endRegion i).rd (A.HOM_VREGION i) F.HOM_VREGION_LIVE = 0 ∧ (∀ v ∈ (s.endRegion i).pool.versions, v.region ≠ i)
      ∧ (s.endRegion i).rd (A.HOM_VREGION i) F.HOM_VREGION_VALID = s.rd (A.HOM_VREGION i) F.HOM_VREGION_VALID := by
  refine ⟨?_, fun v hv => ?_, ?_⟩
  · unfold Chip.endRegion
    rw [Chip.rd_wr_same]
    rfl
  · have hkept := (List.mem_filter.1 (show v ∈ s.pool.versions.filter (fun v => v.region != i) from hv)).2
    simpa using hkept
  · unfold Chip.endRegion
    rw [Chip.rd_wr_disjoint _ _ _ _ _ (by decide)]
    rfl

theorem Chip.regionSet_starts (s old : Chip) (i : Nat) (hwas : old.flag (A.HOM_VREGION i) F.HOM_VREGION_VALID = false)
    (hnow : s.flag (A.HOM_VREGION i) F.HOM_VREGION_VALID = true) : s.regionSet old i = s.startRegion i := by
  unfold Chip.regionSet
  simp only [hwas, hnow, Bool.not_false, Bool.and_self, if_true]

theorem Chip.regionSet_ends (s old : Chip) (i : Nat) (hwas : old.flag (A.HOM_VREGION i) F.HOM_VREGION_VALID = true)
    (hnow : s.flag (A.HOM_VREGION i) F.HOM_VREGION_VALID = false) : s.regionSet old i = s.endRegion i := by
  unfold Chip.regionSet
  simp only [hwas, hnow, Bool.not_false, Bool.and_self, Bool.false_and, Bool.false_eq_true, if_false, if_true]

theorem exec_vregionValidWrite (src : Source) (i : Fin 4096) (data : Nat) (s : State) :
    exec (.vregionValidWrite src i data) s = .next (s.after (s.busWrite src false (A.HOM_VREGION i.val) 8 data)) := rfl

/-! ### The obligation, part by part -/

/-- What a PUBLISH by the holder of the write view does, by whether CURRENT is still the base. -/
theorem Chip.versionPublish_acts (s : Chip) (p eid addr i : Nat) (hregion : s.regionAt p addr = some i) (hi : i < 4096) :
    ∀ v, s.viewOf eid i = some v → v.write = true → ∀ base,
      (s.rd (A.HOM_VREGION i) F.HOM_VREGION_CURRENT = base → v.version < 2 ^ 32 →
        ∃ u, s.versionPublish p eid addr base v.version = (u, .ok, v.version) ∧ u.rd (A.HOM_VREGION i) F.HOM_VREGION_CURRENT = v.version
          ∧ u.rd (A.HOM_VREGION i) F.HOM_VREGION_ISSUED = s.rd (A.HOM_VREGION i) F.HOM_VREGION_ISSUED ∧ u.viewOf eid i = none)
      ∧ (s.rd (A.HOM_VREGION i) F.HOM_VREGION_CURRENT ≠ base →
        ∃ u, s.versionPublish p eid addr base v.version
            = (u, .versionConflict, s.rd (A.HOM_VREGION i) F.HOM_VREGION_CURRENT)
          ∧ u.rd (A.HOM_VREGION i) F.HOM_VREGION_CURRENT = s.rd (A.HOM_VREGION i) F.HOM_VREGION_CURRENT ∧ u.viewOf eid i = none) := by
  refine fun v hview hwrite base => ⟨fun hcur hlt => ?_, fun hcur => ?_⟩
  · obtain ⟨hended, hnumbers⟩ := (s.madeCurrent i v.version).closeView_ends eid i hi
    refine ⟨_, s.versionPublish_current p eid addr i hregion v hview hwrite base hcur, ?_, ?_, hended⟩
    · rw [hnumbers _ (.inl rfl), Chip.madeCurrent, Chip.rd_wr_same]
      exact Nat.mod_eq_of_lt hlt
    · rw [hnumbers _ (.inr rfl), Chip.madeCurrent, Chip.rd_wr_disjoint _ _ _ _ _ (by decide)]
      rfl
  · obtain ⟨hended, hnumbers⟩ := s.closeView_ends eid i hi
    exact ⟨_, s.versionPublish_conflict p eid addr i hregion v hview hwrite base hcur, hnumbers _ (.inl rfl), hended⟩

/-- A hint on a TIERED range whose tiles are settled. -/
theorem Chip.runHint_tiered (s : Chip) (m : Cmd) (r : RangeRef) (hrange : s.hintRange m (prm m.cur 8 56) = .ok r)
    (hmode : prm m.cur 24 8 < 3) (htiered : s.tiered r = true) (hwanted : s.pool.wanted = [])
    (hsettled : s.settledTiles (s.hintTiles r (prm m.cur 8 56) (prm m.cur 16 64) false)) :
    ∃ u : Chip, s.runHint m = u.endPacket m.id .ok (s.hintTiles r (prm m.cur 8 56) (prm m.cur 16 64) false).length
      ∧ u = { s with pool := u.pool, regs := u.regs }
      ∧ ∀ t ∈ s.hintTiles r (prm m.cur 8 56) (prm m.cur 16 64) false, (u.tile t).hint = prm m.cur 24 8 := by
  obtain ⟨u, hu, ⟨regs, keys, tiles, he⟩, hhints⟩ := s.foldl_hintTile (prm m.cur 24 8) _ hsettled
  have hnone : u.promoteWanted = u := by
    have : u.pool.wanted = [] := by rw [he]; exact hwanted
    unfold Chip.promoteWanted
    simp [this]
  refine ⟨u, ?_, by rw [he], fun t ht => hhints t (.inr ht)⟩
  rw [(s.runHint_of_range m r hrange hmode).2 htiered, hu, hnone]

/-- Settles O51: views and their end change no number but the one that the command names; the tables of lost lines and regions are written
entry by entry; hints and prefetches of settled tiles start nothing. -/
theorem homeCommandsAct : Obligations.HomeCommandsAct := by
  unfold Obligations.HomeCommandsAct
  refine ⟨?versions, ?lost, ?home, ?ackAll, ?memory, ?region⟩
  case versions =>
    intro s p eid addr i hregion hi
    refine ⟨fun h b => s.versionOpen_busy p eid addr i hregion b h, fun hview hroom hlive => ?_, fun hview hroom hlive r f hr hrun => ?_,
      fun hview => s.versionClose_without p eid addr i hregion hview, fun hview => ?_,
      fun base working => ⟨fun h => ?_, fun v hview hwrite hv => ?_⟩⟩
    · exact s.versionOpen_read p eid addr i hregion ⟨hview, hroom, hlive⟩
    · exact s.versionOpen_write p eid addr i hregion ⟨hview, hroom, hlive⟩ r f hr hrun
    · exact ⟨_, s.versionClose_view p eid addr i hregion hview, (s.closeView_ends eid i hi).1⟩
    · exact s.versionPublish_denied p eid addr i hregion base working h
    · subst hv
      exact s.versionPublish_acts p eid addr i hregion hi v hview hwrite base
  case lost =>
    intro s p addr len all _
    obtain ⟨hframe, hentries, hwide⟩ := s.ackLost_acts p addr len all
    refine ⟨hframe, fun i hi => ⟨fun hin => ?_, fun hout => ?_⟩, hwide⟩
    · exact (hentries i hi).1 ((s.ackedEntry_iff p addr len all i).2 hin)
    · exact (hentries i hi).2 (Bool.eq_false_iff.2 fun h => hout ((s.ackedEntry_iff p addr len all i).1 h))
  case home =>
    intro s m op hstage hhere hop hmem u st res hans hst
    have hrange : 0x70 ≤ op ∧ op ≤ 0x82 ∧ op ≠ oLOST_ACK := by
      simp only [List.mem_cons, List.not_mem_nil, or_false] at hmem
      rcases hmem with rfl | rfl | rfl | rfl | rfl <;> decide
    obtain ⟨hlo, hhi, hne⟩ := hrange
    rw [s.runSequencer_home m (hop ▸ hlo) (hop ▸ hhi)]
    exact s.runHomeCmd_answered m hstage hhere (hop ▸ hne) u st res hans hst
  case ackAll =>
    intro s m hstage hop hall hhere
    rw [s.runSequencer_home m (by rw [hop]; decide) (by rw [hop]; decide)]
    exact s.runHomeCmd_ackAll m hstage hhere hop hall
  case memory =>
    intro s m hstage
    refine ⟨fun hop hnone => ?_, fun r hrange => ⟨fun hop hmode => ?_, fun hop hsettled => ?_⟩⟩
    · rw [← s.runFlush_of_none m hnone]
      unfold Chip.runSequencer
      simp [hop, hstage]
    · have hrun : s.runSequencer m = s.runHint m := by
        unfold Chip.runSequencer
        simp [hop, oTIER_HINT, oFLUSH_RANGE]
      rw [hrun]
      exact ⟨(s.runHint_of_range m r hrange hmode).1, fun htiered hwanted hsettled =>
        s.runHint_tiered m r hrange hmode htiered hwanted hsettled⟩
    · have hrun : s.runSequencer m = s.runPrefetch m := by
        unfold Chip.runSequencer
        simp [hop, oTIER_HINT, oFLUSH_RANGE, oPREFETCH]
      rw [hrun, s.runPrefetch_of_settled m r hrange hstage hsettled]
      exact ⟨_, rfl, rfl⟩
  case region =>
    intro src i data s a t hsrc hserves hdata hlocked
    have ht : t = s.regionStored i.val data := rfl
    obtain ⟨hbase, hpart, hvalid⟩ := s.toChip.regionStored_fields i.val data
    have hflag := s.toChip.flag_regionStored i.val data
    refine ⟨fun hwas hnow hfits => ?_, fun hnow hfits => ?_, fun hwas hnow => ?_⟩
    · have hset : s.busWrite src false (A.HOM_VREGION i.val) 8 data = (s.regionStored i.val data).startRegion i.val := by
        rw [s.toChip.busWrite_region_accepted src i.val data i.isLt hsrc hserves hdata hlocked (by rw [← ht, hfits, Bool.not_true, Bool.and_false])]
        exact Chip.regionSet_starts _ _ _ hwas (by rw [hflag, hnow]; rfl)
      obtain ⟨hversions, hcur, hissued, hlive⟩ := (s.regionStored i.val data).startRegion_versions i.val
      have hkept := (s.regionStored i.val data).startRegion_fields i.val
      refine ⟨_, by rw [exec_vregionValidWrite, hset], ?_, ?_, ?_, hcur, hissued, hlive, hversions⟩
      · unfold Chip.flag
        rw [hkept _ (by decide) (by decide) (by decide), hvalid, hnow]
        rfl
      · rw [hkept _ (by decide) (by decide) (by decide), hbase]
      · rw [hkept _ (by decide) (by decide) (by decide), hpart]
    · rw [exec_vregionValidWrite, s.toChip.busWrite_region_refused src i.val data i.isLt hsrc hserves hdata hlocked (by rw [hflag, hnow]; rfl) hfits]
    · have hset : s.busWrite src false (A.HOM_VREGION i.val) 8 data = (s.regionStored i.val data).endRegion i.val := by
        rw [s.toChip.busWrite_region_accepted src i.val data i.isLt hsrc hserves hdata hlocked (by rw [hflag, hnow]; rfl)]
        exact Chip.regionSet_ends _ _ _ hwas (by rw [hflag, hnow]; rfl)
      obtain ⟨hlive, hversions, hkept⟩ := (s.regionStored i.val data).endRegion_ends i.val
      refine ⟨_, by rw [exec_vregionValidWrite, hset], ?_, hlive, hversions⟩
      unfold Chip.flag
      rw [hkept, hvalid, hnow]
      rfl

end Sys2Proof.Machine
end

section
/-!
Registers of partitions and their keys (spec/13_partitions_and_security.md R417 to R434): what a write of a partition's state or of its key
record leaves as it was.
-/
open Sys2Proof Sys2Proof.Machine
namespace Sys2Proof.Machine

/-! ### Key records -/

section KeyRecord
variable (s : Chip) (p : Nat) (f g : Fld) (v : Nat)

theorem Chip.rd_wrKey_same (hf : f.lo + f.width ≤ 512) : (s.wrKey p f v).rd (A.KEY_MEM p) f = v % 2 ^ f.width :=
  RegFile.get_setP_same _ _ _ _ _ hf

theorem Chip.rd_wrKey_disjoint (hg : g.lo + g.width ≤ 512) (h : g.disjoint f) :
    (s.wrKey p f v).rd (A.KEY_MEM p) g = s.rd (A.KEY_MEM p) g := RegFile.get_setP_apart _ _ _ _ _ _ hg h

theorem Chip.pstate_wrKey (q : Nat) (hq : q < 64) : (s.wrKey p f v).pstate q = s.pstate q :=
  RegFile.get_setP_other _ _ _ _ _ _ _ (.inl (by unfold A.KEY_MEM A.PTN_STATE F.PTN_STATE_STATE; dsimp only; omega))

/-- A field of one register does not touch the state of a partition. -/
theorem Chip.pstate_wr (a q : Nat) (h : apart a f (A.PTN_STATE q) F.PTN_STATE_STATE) : (s.wr a f v).pstate q = s.pstate q :=
  Chip.rd_wr_apart _ _ _ _ _ _ h

theorem Chip.pstate_setPstate (hv : v < 8) : (s.setPstate p v).pstate p = v :=
  (Chip.rd_wr_same _ _ _ _).trans (Nat.mod_eq_of_lt hv)

end KeyRecord

theorem bitAt_putBit_same (n i : Nat) (b : Bool) : bitAt (putBit n i b) i = b := by
  unfold bitAt putBit
  rw [testBit_setBits]
  cases b <;> simp

theorem bitAt_mod (n i w : Nat) (h : i < w) : bitAt (n % 2 ^ w) i = bitAt n i := by
  unfold bitAt
  rw [Nat.testBit_mod_two_pow]
  simp [h]

/-! ### Units, banks and tables of the home -/

/-- The keys of the registers that a partition's life writes: its state, the generator and the key records, and HOM_CTL to HOM_LOST_WIDE. -/
def lifeKey (k : Nat) : Bool :=
  decide ((0xa00000 ≤ k ∧ k < 0xa00018) ∨ (0xe00100 ≤ k ∧ k < 0xe00300) ∨ (0xf00000 ≤ k ∧ k < 0xf03000))

/-- `t` has the registers of `s` but for those. -/
abbrev Chip.sameUnits (s t : Chip) : Prop := t.regs.off lifeKey = s.regs.off lifeKey

theorem Chip.sameUnits_wr (s : Chip) (a : Nat) (f : Fld) (v : Nat) (hf : f.lo + f.width ≤ 64) (ha : lifeKey a = true) :
    s.sameUnits (s.wr a f v) := by
  refine RegFile.set_off _ _ _ _ fun i hi => ?_
  unfold Fld.span at hi
  rwa [show a + 8 * (f.lo / 64) + 8 * i = a by omega]

theorem Chip.sameUnits_wrKey (s : Chip) (p : Nat) (f : Fld) (v : Nat) (hp : p < 64) : s.sameUnits (s.wrKey p f v) := by
  have hin : ∀ i, i < 16 → lifeKey (A.KEY_MEM p + 8 * i) = true := fun i hi => decide_eq_true (by unfold A.KEY_MEM; omega)
  refine (RegFile.setSpan_off _ _ _ _ fun i hi => ?_).trans (RegFile.setSpan_off _ _ _ _ fun i hi => hin i (by omega))
  rw [Nat.add_assoc, ← Nat.mul_add]
  exact hin (8 + i) (by omega)

section SameUnits
variable {s t : Chip} (h : s.sameUnits t)
include h

theorem Chip.word_sameUnits (a : Nat) (ha : lifeKey a = false) : t.regs.word a = s.regs.word a := by
  rw [← RegFile.word_off t.regs a ha, ← RegFile.word_off s.regs a ha, h]

theorem Chip.unitsOf_sameUnits (k p : Nat) (hk : k < 11) : t.unitsOf k p = s.unitsOf k p := by
  have howner : ∀ n ∈ upFrom 0 (unitCount k), t.owner (unitAddr k n) = s.owner (unitAddr k n) := fun n hn => by
    have hn' : n < unitCount k := by
      have := List.mem_range'_1.1 hn
      omega
    have hkey : lifeKey (unitAddr k n / 8 * 8) = false := by
      refine decide_eq_false ?_
      interval_cases k <;> simp [unitCount] at hn' <;>
        simp [unitAddr, A.CEL_OWNER, A.MTX_OWNER, A.PTN_OWN_WG, A.PTN_OWN_BANK, A.PTN_OWN_HBM, A.PTN_OWN_DRAM, A.PTN_OWN_FLASH,
          A.PTN_OWN_TRAYC, A.PRT_OWNER, A.SEQ_CBLK_OWNER, A.CDC_SLOT] <;> omega
    unfold Chip.owner Chip.ownerHalf
    rw [Chip.word_sameUnits h _ hkey]
  unfold Chip.unitsOf
  exact List.filter_congr fun n hn => by rw [howner n hn]

theorem Chip.banksOf_sameUnits (p : Nat) : t.banksOf p = s.banksOf p := Chip.unitsOf_sameUnits h 3 p (by decide)

theorem Chip.listed_sameUnits (base stride count : Nat) (ha : 0xa00018 ≤ base) (hb : base + stride * count ≤ 0xe00100) :
    t.listed base stride count = s.listed base stride count := by
  have hout : ∀ k, base ≤ k → k < base + stride * count → lifeKey k = false := fun k hk hk' => decide_eq_false (by omega)
  unfold Chip.listed
  rw [← RegFile.keysIn_off t.regs _ _ hout, ← RegFile.keysIn_off s.regs _ _ hout, h]

theorem Chip.lostEntries_sameUnits : t.lostEntries = s.lostEntries := by
  have hlisted := Chip.listed_sameUnits h (A.HOM_LOST 0) 16 65536 (by decide) (by decide)
  unfold Chip.lostEntries
  rw [hlisted]
  refine List.filter_congr fun i hi => ?_
  have hlt : i < 65536 := by
    unfold Chip.listed at hi
    rw [mem_distinct] at hi
    obtain ⟨k, hk, rfl⟩ := List.mem_map.1 hi
    unfold Tab.keysIn at hk
    obtain ⟨e, he, rfl⟩ := List.mem_map.1 hk
    have hin := (List.mem_filter.1 he).2
    simp only [Bool.and_eq_true, Nat.ble_eq, Nat.blt_eq] at hin
    omega
  have hkey : ∀ j, j < F.HOM_LOST_VALID.span → lifeKey (A.HOM_LOST i + 8 * (F.HOM_LOST_VALID.lo / 64) + 8 * j) = false := fun j hj => by
    have hj' : j < 1 := hj
    refine decide_eq_false ?_
    unfold A.HOM_LOST F.HOM_LOST_VALID
    dsimp only
    omega
  unfold Chip.flag Chip.rd
  rw [← RegFile.get_off t.regs _ _ hkey, ← RegFile.get_off s.regs _ _ hkey, h]

end SameUnits

theorem Chip.setPstate_sameUnits (s : Chip) (p v : Nat) (hp : p < 64) : s.sameUnits (s.setPstate p v) :=
  s.sameUnits_wr _ _ _ (by decide) (decide_eq_true (by unfold A.PTN_STATE; omega))

/-! ### The generator -/

theorem Chip.reseed_frame (s : Chip) (i : Nat) : ∃ regs use, s.reseed i = { s with regs := regs, drbgUse := use }
    ∧ ∀ b g, apart A.KEY_STATUS F.KEY_STATUS_RESEEDS b g → (s.reseed i).rd b g = s.rd b g := by
  unfold Chip.reseed
  split
  · exact ⟨s.regs, _, rfl, fun b g _ => rfl⟩
  · exact ⟨_, _, rfl, fun b g h => Chip.rd_wr_apart _ _ _ _ _ _ h⟩

/-- One more request of generator `i` counted. -/
def Chip.countUse (s : Chip) (i : Nat) : Chip := { s with drbgUse := s.drbgUse.put i ((s.drbgUse.find i).getD 0 + 1) }

theorem Chip.generate_state (s : Chip) (i : Nat) :
    (s.generate i).2 = ((s.countUse i).reseed i).draw.2 ∨ (s.generate i).2 = (s.countUse i).draw.2 := by
  unfold Chip.generate Chip.countUse
  dsimp only
  split
  · exact .inl rfl
  · exact .inr rfl

theorem Chip.rd_draw (s : Chip) (b : Nat) (g : Fld) : s.draw.2.rd b g = s.rd b g := rfl
theorem Chip.rd_countUse (s : Chip) (i b : Nat) (g : Fld) : (s.countUse i).rd b g = s.rd b g := rfl

theorem Chip.generate_frame (s : Chip) (i : Nat) : ∃ regs use, (s.generate i).2 = { s with regs := regs, drbgUse := use, free := s.free + 1 }
    ∧ ∀ b g, apart A.KEY_STATUS F.KEY_STATUS_RESEEDS b g → (s.generate i).2.rd b g = s.rd b g := by
  obtain ⟨regs, use, he, hrd⟩ := (s.countUse i).reseed_frame i
  rcases s.generate_state i with h | h
  · rw [h]
    refine ⟨regs, use, by rw [he]; rfl, fun b g hapart => ?_⟩
    rw [Chip.rd_draw, hrd b g hapart, Chip.rd_countUse]
  · rw [h]
    refine ⟨s.regs, _, rfl, fun b g _ => ?_⟩
    rw [Chip.rd_draw, Chip.rd_countUse]

/-- The generator's status lies apart from every partition's state and key record. -/
theorem apart_KEY_STATUS (q : Nat) (hq : q < 64) (g : Fld) :
    apart A.KEY_STATUS F.KEY_STATUS_RESEEDS (A.PTN_STATE q) F.PTN_STATE_STATE
      ∧ apart A.KEY_STATUS F.KEY_STATUS_RESEEDS (A.KEY_MEM q) g := by
  unfold apart A.KEY_STATUS F.KEY_STATUS_RESEEDS A.PTN_STATE F.PTN_STATE_STATE A.KEY_MEM
  dsimp only
  omega

/-- A new key: its slot is LIVE and NEWEST, and the partition's state stays. -/
theorem Chip.newKey_acts (s : Chip) (p g : Nat) (hp : p < 64) (hg : g < 4) :
    (∃ regs use key, s.newKey p g = { s with regs := regs, drbgUse := use, free := s.free + 1
                                             pool := { s.pool with keys := s.pool.keys.put (4 * p + g) key } })
      ∧ bitAt ((s.newKey p g).rd (A.KEY_MEM p) F.KEY_MEM_LIVE) g = true ∧ (s.newKey p g).rd (A.KEY_MEM p) F.KEY_MEM_NEWEST = g
      ∧ (s.newKey p g).pstate p = s.pstate p := by
  obtain ⟨regs, use, he, hrd⟩ := s.generate_frame p
  unfold Chip.newKey
  dsimp only
  refine ⟨⟨_, use, (s.generate p).1, by rw [he]; rfl⟩, ?_, ?_, ?_⟩
  · rw [Chip.rd_wrKey_disjoint _ _ _ _ _ (by decide) (by decide), Chip.rd_wrKey_same _ _ _ _ (by decide)]
    exact (bitAt_mod _ g 4 hg).trans (bitAt_putBit_same _ _ _)
  · rw [Chip.rd_wrKey_same _ _ _ _ (by decide)]
    exact Nat.mod_eq_of_lt hg
  · rw [Chip.pstate_wrKey _ _ _ _ _ hp, Chip.pstate_wrKey _ _ _ _ _ hp]
    exact hrd _ _ (apart_KEY_STATUS p hp F.KEY_MEM_LIVE).1

end Sys2Proof.Machine
end

section
/-!
Administrative commands of partitions (spec/13_partitions_and_security.md R418 to R434): what each makes of the partition's state and keys.
-/
open Sys2Proof Sys2Proof.Machine
namespace Sys2Proof.Machine

theorem partOf_lt (w : Nat) : prm w 8 6 < 64 := bits_lt _ _ _

/-! ### Which command runs -/

theorem Chip.runAdmin_create (s : Chip) (m : Cmd) (h : slotOp m.cur = oPARTITION_CREATE) : s.runAdmin m = s.runCreate m := by
  simp [Chip.runAdmin, h, oPARTITION_CREATE]
theorem Chip.runAdmin_reserve (s : Chip) (m : Cmd) (h : slotOp m.cur = oPARTITION_RESERVE) : s.runAdmin m = s.runReserve m := by
  simp [Chip.runAdmin, h, oPARTITION_CREATE, oPARTITION_RESERVE]
theorem Chip.runAdmin_seal (s : Chip) (m : Cmd) (h : slotOp m.cur = oPARTITION_SEAL) : s.runAdmin m = s.runSeal m := by
  simp [Chip.runAdmin, h, oPARTITION_CREATE, oPARTITION_RESERVE, oPARTITION_SEAL]
theorem Chip.runAdmin_drain (s : Chip) (m : Cmd) (h : slotOp m.cur = oPARTITION_DRAIN) : s.runAdmin m = s.runDrain m := by
  simp [Chip.runAdmin, h, oPARTITION_CREATE, oPARTITION_RESERVE, oPARTITION_SEAL, oPARTITION_DRAIN]
theorem Chip.runAdmin_scrub (s : Chip) (m : Cmd) (h : slotOp m.cur = oPARTITION_SCRUB) : s.runAdmin m = s.runScrub m := by
  simp [Chip.runAdmin, h, oPARTITION_CREATE, oPARTITION_RESERVE, oPARTITION_SEAL, oPARTITION_DRAIN, oPARTITION_SCRUB]
theorem Chip.runAdmin_release (s : Chip) (m : Cmd) (h : slotOp m.cur = oPARTITION_RELEASE) : s.runAdmin m = s.runRelease m := by
  simp [Chip.runAdmin, h, oPARTITION_CREATE, oPARTITION_RESERVE, oPARTITION_SEAL, oPARTITION_DRAIN, oPARTITION_SCRUB, oPARTITION_RELEASE]
theorem Chip.runAdmin_rotate (s : Chip) (m : Cmd) (h : slotOp m.cur = oKEY_ROTATE) : s.runAdmin m = s.runRotate m := by
  simp [Chip.runAdmin, h, oPARTITION_CREATE, oPARTITION_RESERVE, oPARTITION_SEAL, oPARTITION_DRAIN, oPARTITION_SCRUB, oPARTITION_RELEASE, oKEY_ROTATE]

theorem Chip.runAdmin_install (s : Chip) (m : Cmd) (h : slotOp m.cur = oEPOCH_INSTALL) : s.runAdmin m
    = s.install.1.endAdmin m (if s.install.2.2.2 == A.RTE_EPOCH then .routeUnit else .partitionUnit) s.install.2.1 s.install.2.2.1 4
        s.install.2.2.2 := by
  simp [Chip.runAdmin, h, oEPOCH_INSTALL, oPARTITION_CREATE, oPARTITION_RESERVE, oPARTITION_SEAL, oPARTITION_DRAIN, oPARTITION_SCRUB,
    oPARTITION_RELEASE, oKEY_ROTATE]

theorem Chip.runAdmin_tray (s : Chip) (m : Cmd) (h : slotOp m.cur = oTRAY_FORMAT ∨ slotOp m.cur = oTRAY_DETACH) :
    s.runAdmin m = s.runTray m := by
  rcases h with h | h <;> simp [Chip.runAdmin, h, oTRAY_FORMAT, oTRAY_DETACH, oEPOCH_INSTALL, oPARTITION_CREATE, oPARTITION_RESERVE,
    oPARTITION_SEAL, oPARTITION_DRAIN, oPARTITION_SCRUB, oPARTITION_RELEASE, oKEY_ROTATE]

/-! ### Create, seal and drain -/

theorem Chip.runCreate_busy (s : Chip) (m : Cmd) (h : s.pstate (prm m.cur 8 6) ≠ psFREE) :
    s.runCreate m = s.endAdmin m .partitionUnit .busy 0 4 (A.PTN_STATE (prm m.cur 8 6)) := by
  unfold Chip.runCreate
  simp only [bne_iff_ne.2 h, if_true]

theorem Chip.runCreate_free (s : Chip) (m : Cmd) (h : s.pstate (prm m.cur 8 6) = psFREE) :
    s.runCreate m = (s.setPstate (prm m.cur 8 6) psCREATED).endPacket m.id .ok 0 := by
  unfold Chip.runCreate
  simp [h]

theorem Chip.notOpen (s : Chip) (p : Nat) (h : s.pstate p ≠ psCREATED ∨ s.sealing p = true) :
    (s.pstate p != psCREATED || s.sealing p) = true := by
  rcases h with h | h
  · rw [bne_iff_ne.2 h, Bool.true_or]
  · rw [h, Bool.or_true]

theorem Chip.isOpen (s : Chip) (p : Nat) (h : s.pstate p = psCREATED) (hs : s.sealing p = false) :
    (s.pstate p != psCREATED || s.sealing p) = false := by
  rw [h, hs]
  rfl

theorem Chip.runReserve_busy (s : Chip) (m : Cmd) (h : s.pstate (prm m.cur 8 6) ≠ psCREATED ∨ s.sealing (prm m.cur 8 6) = true) :
    s.runReserve m = s.endAdmin m .partitionUnit .busy 0 4 (A.PTN_STATE (prm m.cur 8 6)) := by
  unfold Chip.runReserve
  simp only [s.notOpen _ h, if_true]

theorem Chip.runReserve_open (s : Chip) (m : Cmd) (h : s.pstate (prm m.cur 8 6) = psCREATED) (hs : s.sealing (prm m.cur 8 6) = false)
    (u : Chip) (st : Status) (n : Nat)
    (hres : s.reserve (prm m.cur 8 6) (prm m.cur 9 8) (prm m.cur 10 16) (prm m.cur 12 16) (bitAt m.cur 112) = (u, st, n)) :
    s.runReserve m = u.endAdmin m .partitionUnit st n 4 (unitAddr (prm m.cur 9 8) (prm m.cur 10 16)) := by
  unfold Chip.runReserve
  simp only [s.isOpen _ h hs, Bool.false_eq_true, if_false, hres]

section Seal
variable (s : Chip) (m : Cmd) (hstage : m.stage = 0)
include hstage

theorem Chip.runSeal_busy (h : s.pstate (prm m.cur 8 6) ≠ psCREATED ∨ s.sealing (prm m.cur 8 6) = true) :
    s.runSeal m = s.endAdmin m .partitionUnit .busy 0 4 (A.PTN_STATE (prm m.cur 8 6)) := by
  unfold Chip.runSeal
  simp only [hstage, bne_self_eq_false, Bool.false_eq_true, if_false, s.notOpen _ h, if_true]

variable (h : s.pstate (prm m.cur 8 6) = psCREATED) (hs : s.sealing (prm m.cur 8 6) = false)
include h hs

theorem Chip.runSeal_unfit (st : Status) (hcheck : s.sealCheck (prm m.cur 8 6) = some st) :
    s.runSeal m = s.endAdmin m .partitionUnit st 0 4 (A.PTN_STATE (prm m.cur 8 6)) := by
  unfold Chip.runSeal
  simp only [hstage, bne_self_eq_false, Bool.false_eq_true, if_false, s.isOpen _ h hs, hcheck]

/-- The seal of a partition that no tray binds to. -/
theorem Chip.runSeal_fit (hcheck : s.sealCheck (prm m.cur 8 6) = none) (htrays : s.boundTrays (prm m.cur 8 6) = []) :
    s.runSeal m = ((s.setCmd { m with stage := 1, asked := [] }).reseed (prm m.cur 8 6)).newKey (prm m.cur 8 6) 0 := by
  unfold Chip.runSeal
  simp only [hstage, bne_self_eq_false, Bool.false_eq_true, if_false, s.isOpen _ h hs, hcheck, htrays, List.map_nil, List.foldl_nil]

end Seal

/-- A command put back in its place stands there. -/
theorem Chip.mem_setCmd (s : Chip) (m m' : Cmd) (hid : m'.id = m.id) (h : s.cmd? m.id = some m) : m' ∈ (s.setCmd m').seq.cmds := by
  have hmem : m ∈ s.seq.cmds := List.mem_of_find?_eq_some h
  refine List.mem_map.2 ⟨m, hmem, ?_⟩
  rw [hid, beq_self_eq_true, if_pos rfl]

theorem Chip.sealing_of_mem (s : Chip) (p : Nat) (m : Cmd) (hm : m ∈ s.seq.cmds) (hstage : m.stage = 1) (hphase : m.phase = .running)
    (hop : slotOp m.slot = oPARTITION_SEAL) (hp : prm m.slot 8 6 = p) : s.sealing p = true := by
  refine List.any_eq_true.2 ⟨m, hm, ?_⟩
  simp [hstage, hphase, hop, hp]

/-! ### Draining -/

theorem Chip.runDrain_busy (s : Chip) (m : Cmd) (hstage : m.stage = 0) (h : s.pstate (prm m.cur 8 6) ≠ psSEALED) :
    s.runDrain m = s.endAdmin m .partitionUnit .busy 0 4 (A.PTN_STATE (prm m.cur 8 6)) := by
  unfold Chip.runDrain
  simp only [hstage, bne_self_eq_false, Bool.false_eq_true, if_false, bne_iff_ne.2 h, if_true]

/-- Queue `q` is being disabled: it fetches nothing. -/
def Chip.stopsFetching (s : Chip) (q : Nat) : Prop := (s.queue q).disabling = true ∧ (s.queue q).fetching = 0

theorem Chip.disableQueue_frame (s : Chip) (q : Nat) : ∃ queues, s.disableQueue q = { s with seq := { s.seq with queues := queues } } := by
  unfold Chip.disableQueue
  split
  · exact ⟨_, rfl⟩
  · exact ⟨s.seq.queues, rfl⟩

theorem Chip.disableQueue_stops (s : Chip) (q x : Nat) (h : s.stopsFetching x ∨ x = q ∧ s.qEnabled q = true) :
    (s.disableQueue q).stopsFetching x := by
  unfold Chip.disableQueue
  by_cases hx : x = q
  · subst hx
    split
    · simp [Chip.stopsFetching, Chip.queue, Chip.modQueue, Chip.modSeq, Tab.find_put_same]
    · next hoff => exact h.resolve_right fun hon => hoff hon.2
  · have hkept := h.resolve_right fun hon => hx hon.1
    split
    · unfold Chip.stopsFetching Chip.queue at hkept ⊢
      unfold Chip.modQueue Chip.modSeq
      dsimp only
      rwa [Tab.find_put_other _ _ _ _ hx]
    · exact hkept

theorem Chip.foldl_disableQueue (s : Chip) (l : List Nat) :
    (∃ queues, l.foldl Chip.disableQueue s = { s with seq := { s.seq with queues := queues } })
      ∧ ∀ x, s.stopsFetching x ∨ x ∈ l ∧ s.qEnabled x = true → (l.foldl Chip.disableQueue s).stopsFetching x := by
  induction l generalizing s with
  | nil => exact ⟨⟨s.seq.queues, rfl⟩, fun x hx => hx.resolve_right fun h => List.not_mem_nil h.1⟩
  | cons q l ih =>
    obtain ⟨queues, he⟩ := s.disableQueue_frame q
    obtain ⟨⟨queues', he'⟩, hall⟩ := ih (s.disableQueue q)
    have henabled : ∀ x, (s.disableQueue q).qEnabled x = s.qEnabled x := fun x => by rw [he]; rfl
    refine ⟨⟨queues', by rw [List.foldl_cons, he', he]⟩, fun x hx => hall x ?_⟩
    rcases hx with hx | ⟨hmem, hon⟩
    · exact .inl (s.disableQueue_stops q x (.inl hx))
    · rcases List.mem_cons.1 hmem with hxq | hxl
      · exact .inl (s.disableQueue_stops q x (.inr ⟨hxq, hxq ▸ hon⟩))
      · exact .inr ⟨hxl, by rw [henabled, hon]⟩

/-- The part as a drain of partition `p` has stopped its queues. -/
def Chip.drainBegun (s : Chip) (m : Cmd) : Chip :=
  (upFrom (16 * prm m.cur 8 6) 16).foldl Chip.disableQueue ((s.setCmd { m with stage := 1 }).setPstate (prm m.cur 8 6) psDRAINING)

/-- A command of partition `p` that waits on a counter and has no ending yet. -/
def Cmd.waitsIn (p : Nat) (x : Cmd) : Bool := x.part == p && (slotOp x.cur == oWAIT || slotOp x.cur == oWAIT_COPY) && x.ending.isNone

theorem Cmd.waitsIn_eq_false (p : Nat) (x : Cmd) (h : slotOp x.cur ≠ oWAIT ∧ slotOp x.cur ≠ oWAIT_COPY) : x.waitsIn p = false := by
  simp [Cmd.waitsIn, h.1, h.2]

theorem Chip.drainWalk_of_no_banks (s : Chip) (p : Nat) (h : s.banksOf p = []) : s.drainWalk p = s := by
  unfold Chip.drainWalk
  rw [h, List.foldl_nil]

/-- Every command stands as before, or is the drain itself. -/
theorem Chip.drainBegun_cmds (s : Chip) (m : Cmd) (P : Cmd → Prop) (hm : P { m with stage := 1 }) (hall : ∀ x ∈ s.seq.cmds, P x) :
    ∀ x ∈ (s.drainBegun m).seq.cmds, P x := by
  obtain ⟨⟨queues, he⟩, _⟩ := Chip.foldl_disableQueue ((s.setCmd { m with stage := 1 }).setPstate (prm m.cur 8 6) psDRAINING)
    (upFrom (16 * prm m.cur 8 6) 16)
  intro x hx
  unfold Chip.drainBegun at hx
  rw [he] at hx
  obtain ⟨y, hy, hyx⟩ := List.mem_map.1 hx
  split at hyx
  · exact hyx ▸ hm
  · exact hyx ▸ hall y hy

theorem Chip.drainBegun_colls (s : Chip) (m : Cmd) : (s.drainBegun m).seq.colls = s.seq.colls := by
  obtain ⟨⟨queues, he⟩, _⟩ := Chip.foldl_disableQueue ((s.setCmd { m with stage := 1 }).setPstate (prm m.cur 8 6) psDRAINING)
    (upFrom (16 * prm m.cur 8 6) 16)
  unfold Chip.drainBegun
  rw [he]
  rfl

theorem Chip.drainBegun_banksOf (s : Chip) (m : Cmd) (p : Nat) : (s.drainBegun m).banksOf p = s.banksOf p := by
  obtain ⟨⟨queues, he⟩, _⟩ := Chip.foldl_disableQueue ((s.setCmd { m with stage := 1 }).setPstate (prm m.cur 8 6) psDRAINING)
    (upFrom (16 * prm m.cur 8 6) 16)
  unfold Chip.drainBegun
  rw [he]
  exact Chip.banksOf_sameUnits ((s.setCmd { m with stage := 1 }).setPstate_sameUnits _ _ (partOf_lt _)) _

/-- A drain where nothing waits and no directory bank holds a line. -/
theorem Chip.runDrain_quiet (s : Chip) (m : Cmd) (hstage : m.stage = 0) (hop : slotOp m.cur = oPARTITION_DRAIN)
    (h : s.pstate (prm m.cur 8 6) = psSEALED) (hbanks : s.banksOf (prm m.cur 8 6) = []) (hcolls : s.seq.colls = [])
    (hwaits : ∀ x ∈ s.seq.cmds, slotOp x.cur ≠ oWAIT ∧ slotOp x.cur ≠ oWAIT_COPY) : s.runDrain m = s.drainBegun m := by
  have hsealed : (s.pstate (prm m.cur 8 6) != psSEALED) = false := by rw [h]; rfl
  have hdrain : slotOp m.cur ≠ oWAIT ∧ slotOp m.cur ≠ oWAIT_COPY := by
    rw [hop]
    decide
  have hnone : (s.drainBegun m).seq.cmds.filter (Cmd.waitsIn (prm m.cur 8 6)) = [] := List.filter_eq_nil_iff.2 fun x hx => by
    rw [Cmd.waitsIn_eq_false _ _ (s.drainBegun_cmds m _ hdrain hwaits x hx)]
    exact Bool.false_ne_true
  have hcolls' : (s.drainBegun m).seq.colls = [] := (s.drainBegun_colls m).trans hcolls
  unfold Chip.drainBegun Cmd.waitsIn at hnone
  unfold Chip.drainBegun at hcolls'
  unfold Chip.runDrain
  simp only [hstage, bne_self_eq_false, Bool.false_eq_true, if_false, hsealed, hnone, hcolls', List.filter_nil, List.foldl_nil]
  exact Chip.drainWalk_of_no_banks _ _ ((s.drainBegun_banksOf m _).trans hbanks)

theorem Chip.qEnabled_setPstate (s : Chip) (p v q : Nat) (hp : p < 64) : (s.setPstate p v).qEnabled q = s.qEnabled q := by
  have hapart : apart (A.PTN_STATE p) F.PTN_STATE_STATE (A.SEQ_Q_STATE q) F.SEQ_Q_STATE_ENABLED := by
    unfold apart A.PTN_STATE A.SEQ_Q_STATE F.PTN_STATE_STATE F.SEQ_Q_STATE_ENABLED
    dsimp only
    omega
  unfold Chip.qEnabled Chip.flag Chip.setPstate
  rw [Chip.rd_wr_apart _ _ _ _ _ _ hapart]

theorem Chip.pstate_seq (s : Chip) (q : Seq) (p : Nat) : ({ s with seq := q } : Chip).pstate p = s.pstate p := rfl

/-- The partition drains, and its queues fetch no more. -/
theorem Chip.drainBegun_acts (s : Chip) (m : Cmd) : (s.drainBegun m).pstate (prm m.cur 8 6) = psDRAINING
    ∧ ∀ q, q / 16 = prm m.cur 8 6 → s.qEnabled q = true → (s.drainBegun m).stopsFetching q := by
  obtain ⟨⟨queues, he⟩, hstops⟩ := Chip.foldl_disableQueue ((s.setCmd { m with stage := 1 }).setPstate (prm m.cur 8 6) psDRAINING)
    (upFrom (16 * prm m.cur 8 6) 16)
  refine ⟨?_, fun q hq hon => hstops q (.inr ⟨List.mem_range'_1.2 (by omega), ?_⟩)⟩
  · unfold Chip.drainBegun
    rw [he, Chip.pstate_seq]
    exact Chip.pstate_setPstate _ _ _ (by decide)
  · rw [Chip.qEnabled_setPstate _ _ _ _ (partOf_lt _)]
    exact hon

end Sys2Proof.Machine
end

section
/-!
The scrub of a partition that owns nothing (spec/13_partitions_and_security.md R424): its keys are destroyed, and of its other state there is
none to clear.
-/
open Sys2Proof Sys2Proof.Machine
namespace Sys2Proof.Machine

theorem Chip.runScrub_busy (s : Chip) (m : Cmd) (hstage : m.stage = 0)
    (h : s.pstate (prm m.cur 8 6) ≠ psDRAINED ∨ s.homesRange (prm m.cur 8 6) = true) :
    s.runScrub m = s.endAdmin m .partitionUnit .busy 0 4 (A.PTN_STATE (prm m.cur 8 6)) := by
  have hbad : (s.pstate (prm m.cur 8 6) != psDRAINED || s.homesRange (prm m.cur 8 6)) = true := by
    rcases h with h | h
    · rw [bne_iff_ne.2 h, Bool.true_or]
    · rw [h, Bool.or_true]
  unfold Chip.runScrub
  simp only [hstage, bne_self_eq_false, Bool.false_eq_true, if_false, hbad, if_true]

/-- The part as a scrub has started. -/
def Chip.scrubBegun (s : Chip) (m : Cmd) : Chip :=
  ((s.setCmd { m with stage := 1 }).setPstate (prm m.cur 8 6) psSCRUBBING).wrB (A.PTN_STATE (prm m.cur 8 6)) F.PTN_STATE_LARGE
    (!(s.unitsOf 1 (prm m.cur 8 6)).isEmpty || Nat.blt 8 (s.unitsOf 0 (prm m.cur 8 6)).length)

/-- A scrub that finds no command of its partition in a queue. -/
theorem Chip.runScrub_main (s : Chip) (m : Cmd) (hstage : m.stage = 0) (hphase : m.phase = .running)
    (h : s.pstate (prm m.cur 8 6) = psDRAINED) (hhomes : s.homesRange (prm m.cur 8 6) = false)
    (hqueued : ∀ x ∈ s.seq.cmds, x.part ≠ prm m.cur 8 6 ∨ x.phase ≠ .fetched) :
    s.runScrub m = (((s.scrubBegun m).dropKeys (prm m.cur 8 6)).scrubDie (prm m.cur 8 6)).scrubTrays (prm m.cur 8 6) := by
  have hdrained : (s.pstate (prm m.cur 8 6) != psDRAINED || s.homesRange (prm m.cur 8 6)) = false := by
    rw [h, hhomes]
    rfl
  have hnone : (s.scrubBegun m).seq.cmds.filter (fun x => x.part == prm m.cur 8 6 && x.phase == .fetched) = [] := by
    refine List.filter_eq_nil_iff.2 fun x hx => ?_
    obtain ⟨y, hy, hyx⟩ := List.mem_map.1 (show x ∈ (s.setCmd { m with stage := 1 }).seq.cmds from hx)
    split at hyx
    · subst hyx
      simp [hphase]
    · subst hyx
      rcases hqueued y hy with hne | hne <;> simp [hne]
  unfold Chip.scrubBegun at hnone
  unfold Chip.runScrub
  simp only [hstage, bne_self_eq_false, Bool.false_eq_true, if_false, hdrained, hnone, List.foldl_nil]
  rfl

theorem Chip.scrubBegun_acts (s : Chip) (m : Cmd) : s.sameUnits (s.scrubBegun m)
    ∧ (s.scrubBegun m).pstate (prm m.cur 8 6) = psSCRUBBING := by
  have hlarge : ∀ (u : Chip) b, (u.wrB (A.PTN_STATE (prm m.cur 8 6)) F.PTN_STATE_LARGE b).pstate (prm m.cur 8 6)
      = u.pstate (prm m.cur 8 6) := fun u b => Chip.rd_wr_disjoint _ _ _ _ _ (by decide)
  refine ⟨?_, ?_⟩
  · exact (Chip.sameUnits_wr _ _ _ _ (by decide) (decide_eq_true (by have := partOf_lt m.cur; unfold A.PTN_STATE; omega))).trans
      ((s.setCmd { m with stage := 1 }).setPstate_sameUnits _ _ (partOf_lt _))
  · unfold Chip.scrubBegun
    rw [hlarge]
    exact Chip.pstate_setPstate _ _ _ (by decide)

/-! ### The keys -/

/-- A tab without the keys of partition `p` finds none of them. -/
theorem find_filter_part {α : Type} (t : Tab α) (p g : Nat) (hg : g < 4) : Tab.find (t.filter (fun e => e.1 / 4 != p)) (4 * p + g) = none := by
  induction t with
  | nil => rfl
  | cons e t ih =>
    rw [List.filter_cons]
    split
    · next hkept =>
      rw [bne_iff_ne] at hkept
      unfold Tab.find
      rw [if_neg (by omega)]
      exact ih
    · exact ih

theorem Chip.dropKeys_acts (s : Chip) (p : Nat) (hp : p < 64) : s.sameUnits (s.dropKeys p) ∧ (s.dropKeys p).pstate p = s.pstate p
    ∧ (s.dropKeys p).rd (A.KEY_MEM p) F.KEY_MEM_DESTROYED = 1 ∧ (s.dropKeys p).rd (A.KEY_MEM p) F.KEY_MEM_LIVE = 0
    ∧ ∀ g, g < 4 → (s.dropKeys p).pool.keys.find (4 * p + g) = none := by
  have hunits : ∀ (u : Chip) (f : Fld) v, s.sameUnits u → s.sameUnits (u.wrKey p f v) := fun u f v hu => (u.sameUnits_wrKey p f v hp).trans hu
  unfold Chip.dropKeys
  simp only [List.foldl_cons, List.foldl_nil]
  refine ⟨?_, ?_, ?_, ?_, fun g hg => ?_⟩
  · exact hunits _ _ _ (hunits _ _ _ (hunits _ _ _ (hunits _ _ _ (hunits _ _ _ (hunits _ _ _ (hunits _ _ _ rfl))))))
  · simp only [Chip.pstate_wrKey _ _ _ _ _ hp]
    rfl
  · exact Chip.rd_wrKey_same _ _ _ _ (by decide)
  · have hkept : ∀ (u : Chip) (f : Fld) v, 6 ≤ f.lo → (u.wrKey p f v).rd (A.KEY_MEM p) F.KEY_MEM_LIVE = u.rd (A.KEY_MEM p) F.KEY_MEM_LIVE :=
      fun u f v hf => Chip.rd_wrKey_disjoint _ _ _ _ _ (by decide) (.inl hf)
    rw [hkept _ _ _ (by decide), hkept _ _ _ (by decide), hkept _ _ _ (by decide), hkept _ _ _ (by decide), hkept _ _ _ (by decide),
      hkept _ _ _ (by decide), Chip.rd_wrKey_same _ _ _ _ (by decide)]
    rfl
  · exact find_filter_part _ _ _ hg

/-! ### The state of the home and of the trays -/

/-- `t` has the registers and the keys of `s`. -/
abbrev Chip.sameKeys (s t : Chip) : Prop := t.regs = s.regs ∧ t.pool.keys = s.pool.keys

theorem Chip.foldl_sameKeys {α : Type} (s : Chip) (l : List α) (f : Chip → α → Chip) (h : ∀ u x, Chip.sameKeys u (f u x)) :
    s.sameKeys (l.foldl f s) :=
  List.foldlRecOn (motive := fun u => s.sameKeys u) l f ⟨rfl, rfl⟩ fun u hu x _ => ⟨(h u x).1.trans hu.1, (h u x).2.trans hu.2⟩

/-- The snoop timers of partition `p`'s transactions stopped, then the combining timers. -/
def Chip.scrubSnoops (s : Chip) (p : Nat) : Chip :=
  (s.pool.txns.filter (fun e => e.2.part == p)).foldl (fun s e => e.2.snoops.foldl (fun s x => s.stopTimer (.snoop e.1 x.eid)) s) s
def Chip.scrubCombs (s : Chip) (p : Nat) : Chip :=
  (s.pool.combs.filter (fun e => e.2.part == p)).foldl (fun s e => s.stopTimer (.combining e.1)) s

/-- The home's transactions, waits and requests without those of partition `p`, whose banks are `banks`. -/
def Pool.scrubTxns (q : Pool) (p : Nat) (banks : List Nat) : Pool :=
  { q with
    banks := banks.foldl (fun t b => t.erase b) q.banks
    txns := q.txns.filter (fun e => e.2.part != p)
    waits := q.waits.filter (fun w => !banks.contains w.bank)
    reqs := q.reqs.filter (fun e => e.2.pkt.partition != p)
    combs := q.combs.filter (fun e => e.2.part != p) }

/-- The home's state of partition `p` cleared, but for its lost lines, its regions and its records. -/
def Chip.scrubTxns (s : Chip) (p : Nat) : Chip := ((s.scrubSnoops p).scrubCombs p).modPool (fun q => q.scrubTxns p (s.banksOf p))

theorem Chip.scrubTxns_sameKeys (s : Chip) (p : Nat) : s.sameKeys (s.scrubTxns p) := by
  have hsnoops : s.sameKeys (s.scrubSnoops p) :=
    Chip.foldl_sameKeys _ _ _ fun u e => Chip.foldl_sameKeys u _ _ fun v x => ⟨rfl, rfl⟩
  have hcombs : (s.scrubSnoops p).sameKeys ((s.scrubSnoops p).scrubCombs p) := Chip.foldl_sameKeys _ _ _ fun u e => ⟨rfl, rfl⟩
  exact ⟨hcombs.1.trans hsnoops.1, hcombs.2.trans hsnoops.2⟩

theorem Chip.ackLost_none (s : Chip) (p addr len : Nat) (all : Bool) (h : s.lostEntries = []) :
    s.ackLost p addr len all = s.narrowed p all := by
  rw [Chip.ackLost_eq, h]
  rfl

theorem Chip.narrowed_sameUnits (s : Chip) (p : Nat) (all : Bool) : s.sameUnits (s.narrowed p all) := by
  unfold Chip.narrowed
  split
  · exact s.sameUnits_wr _ _ _ (by decide) (by decide)
  · rfl

theorem Chip.narrowed_pool (s : Chip) (p : Nat) (all : Bool) : (s.narrowed p all).pool = s.pool := by
  unfold Chip.narrowed
  split <;> rfl

theorem Chip.rd_narrowed_above (s : Chip) (p : Nat) (all : Bool) (a : Nat) (f : Fld) (ha : A.HOM_LOST_WIDE + 8 ≤ a) :
    (s.narrowed p all).rd a f = s.rd a f := by
  unfold Chip.narrowed
  split
  · exact Chip.rd_wr_apart _ _ _ _ _ _ (.inr (by unfold F.HOM_LOST_WIDE_WIDE; dsimp only; omega))
  · rfl

/-- Where no tables of the home list anything, the scrub of the home clears transactions and the wide bit. -/
theorem Chip.scrubHome_quiet (s : Chip) (p : Nat) (hregions : s.listed (A.HOM_VREGION 0) 32 4096 = [])
    (howns : s.listed (A.HOM_OWN 0) 32 8192 = []) (hlost : s.lostEntries = []) : s.scrubHome p = (s.scrubTxns p).narrowed p true := by
  have htxns : s.sameUnits (s.scrubTxns p) := congrArg (RegFile.off lifeKey) (s.scrubTxns_sameKeys p).1
  have hacked : (s.scrubTxns p).ackLost p 0 (2 ^ 56) true = (s.scrubTxns p).narrowed p true :=
    Chip.ackLost_none _ _ _ _ _ ((Chip.lostEntries_sameUnits htxns).trans hlost)
  have hunits : s.sameUnits ((s.scrubTxns p).narrowed p true) := (Chip.narrowed_sameUnits _ _ _).trans htxns
  have hregions' := (Chip.listed_sameUnits hunits (A.HOM_VREGION 0) 32 4096 (by decide) (by decide)).trans hregions
  have howns' := (Chip.listed_sameUnits hunits (A.HOM_OWN 0) 32 8192 (by decide) (by decide)).trans howns
  unfold Chip.scrubTxns Chip.scrubSnoops Chip.scrubCombs Pool.scrubTxns at hacked hregions' howns'
  unfold Chip.scrubHome
  dsimp only
  rw [hacked, hregions', List.filter_nil, List.foldl_nil, howns', List.filter_nil, List.foldl_nil]
  rfl

/-- The part without the lines that the way groups of partition `p` hold. -/
def Chip.dropLines (s : Chip) (p : Nat) : Chip :=
  s.modPool (fun q => { q with cache := (s.cacheOf p).foldl (fun t e => t.erase e.1) q.cache })

theorem Chip.scrubDie_quiet (s : Chip) (p : Nat) (hunits : ∀ k, k < 11 → s.unitsOf k p = [])
    (hregions : s.listed (A.HOM_VREGION 0) 32 4096 = []) (howns : s.listed (A.HOM_OWN 0) 32 8192 = []) (hlost : s.lostEntries = []) :
    s.scrubDie p = ((s.dropLines p).scrubTxns p).narrowed p true := by
  have hhome := (s.dropLines p).scrubHome_quiet p hregions howns hlost
  have hsame : s.sameUnits (((s.dropLines p).scrubTxns p).narrowed p true) :=
    (Chip.narrowed_sameUnits _ _ _).trans (congrArg (RegFile.off lifeKey) ((s.dropLines p).scrubTxns_sameKeys p).1)
  have hunits' : ∀ k, k < 11 → (((s.dropLines p).scrubTxns p).narrowed p true).unitsOf k p = [] := fun k hk =>
    (Chip.unitsOf_sameUnits hsame k p hk).trans (hunits k hk)
  unfold Chip.dropLines at hhome hunits' ⊢
  unfold Chip.scrubDie
  dsimp only
  rw [hunits 0 (by decide), List.foldl_nil, hunits 1 (by decide), List.map_nil, List.foldl_nil, hunits 4 (by decide), List.foldl_nil, hhome,
    hunits' 9 (by decide), List.foldl_nil, hunits' 10 (by decide), List.foldl_nil]

theorem Chip.scrubTrays_quiet (s : Chip) (p : Nat) (hunits : ∀ k, k < 11 → s.unitsOf k p = []) : s.scrubTrays p = s := by
  unfold Chip.scrubTrays
  dsimp only
  rw [hunits 5 (by decide), List.foldl_nil, hunits 6 (by decide), List.foldl_nil, hunits 7 (by decide), List.foldl_nil]

/-- What the scrub of a partition that owns nothing leaves: its keys are destroyed, and it is SCRUBBING. -/
theorem Chip.runScrub_quiet (s : Chip) (m : Cmd) (hstage : m.stage = 0) (hphase : m.phase = .running)
    (h : s.pstate (prm m.cur 8 6) = psDRAINED) (hhomes : s.homesRange (prm m.cur 8 6) = false)
    (hunits : ∀ k, k < 11 → s.unitsOf k (prm m.cur 8 6) = []) (hqueued : ∀ x ∈ s.seq.cmds, x.part ≠ prm m.cur 8 6 ∨ x.phase ≠ .fetched)
    (hregions : s.listed (A.HOM_VREGION 0) 32 4096 = []) (howns : s.listed (A.HOM_OWN 0) 32 8192 = []) (hlost : s.lostEntries = []) :
    (s.runScrub m).pstate (prm m.cur 8 6) = psSCRUBBING ∧ (s.runScrub m).rd (A.KEY_MEM (prm m.cur 8 6)) F.KEY_MEM_DESTROYED = 1
      ∧ (s.runScrub m).rd (A.KEY_MEM (prm m.cur 8 6)) F.KEY_MEM_LIVE = 0
      ∧ ∀ g, g < 4 → (s.runScrub m).pool.keys.find (4 * prm m.cur 8 6 + g) = none := by
  rw [s.runScrub_main m hstage hphase h hhomes hqueued]
  have hp := partOf_lt m.cur
  obtain ⟨hbegun, hscrubbing⟩ := s.scrubBegun_acts m
  generalize prm m.cur 8 6 = p at *
  generalize s.scrubBegun m = b at *
  obtain ⟨hdrop, hstate, hdestroyed, hlive, hkeys⟩ := b.dropKeys_acts p hp
  generalize b.dropKeys p = d at *
  have hd : s.sameUnits d := hdrop.trans hbegun
  have hdunits : ∀ k, k < 11 → d.unitsOf k p = [] := fun k hk => (Chip.unitsOf_sameUnits hd k p hk).trans (hunits k hk)
  have hdie := d.scrubDie_quiet p hdunits ((Chip.listed_sameUnits hd _ _ _ (by decide) (by decide)).trans hregions)
    ((Chip.listed_sameUnits hd _ _ _ (by decide) (by decide)).trans howns) ((Chip.lostEntries_sameUnits hd).trans hlost)
  obtain ⟨hregs, hpool⟩ := (d.dropLines p).scrubTxns_sameKeys p
  have hsame : d.sameUnits (d.scrubDie p) := by
    rw [hdie]
    exact (Chip.narrowed_sameUnits _ _ _).trans (congrArg (RegFile.off lifeKey) hregs)
  have hrd : ∀ a f, A.HOM_LOST_WIDE + 8 ≤ a → (d.scrubDie p).rd a f = d.rd a f := fun a f ha => by
    rw [hdie, Chip.rd_narrowed_above _ _ _ _ _ ha]
    exact congrArg (fun r : RegFile => r.get a f) hregs
  rw [Chip.scrubTrays_quiet _ _ fun k hk => (Chip.unitsOf_sameUnits hsame k p hk).trans (hdunits k hk)]
  have hptn : A.HOM_LOST_WIDE + 8 ≤ A.PTN_STATE p := by
    unfold A.HOM_LOST_WIDE A.PTN_STATE
    omega
  have hkey : A.HOM_LOST_WIDE + 8 ≤ A.KEY_MEM p := by
    unfold A.HOM_LOST_WIDE A.KEY_MEM
    omega
  refine ⟨(hrd _ _ hptn).trans (hstate.trans hscrubbing), (hrd _ _ hkey).trans hdestroyed, (hrd _ _ hkey).trans hlive, fun g hg => ?_⟩
  rw [hdie, Chip.narrowed_pool, hpool]
  exact hkeys g hg

end Sys2Proof.Machine
end

section
/-!
Release, key rotation, tray commands and the install of an epoch (spec/13_partitions_and_security.md R427, R432,
spec/03_pool_and_tiers.md R86, R89, spec/10_packets_and_routing.md R373).
-/
open Sys2Proof Sys2Proof.Machine
namespace Sys2Proof.Machine

theorem ble_eq_false_of_lt {a b : Nat} (h : b < a) : Nat.ble a b = false := by
  rw [← Bool.not_eq_true, Nat.ble_eq]
  omega

/-! ### Release -/

theorem Chip.releaseFields_frame (s : Chip) (p : Nat) : ∃ regs, s.releaseFields p = { s with regs := regs } := by
  unfold Chip.releaseFields
  refine List.foldlRecOn (motive := fun u : Chip => ∃ regs, u = { s with regs := regs }) _ _ ⟨s.regs, rfl⟩ fun u hu l _ => ?_
  refine List.foldlRecOn (motive := fun u : Chip => ∃ regs, u = { s with regs := regs }) _ _ hu fun v hv f _ => ?_
  obtain ⟨regs, rfl⟩ := hv
  split
  · exact ⟨_, rfl⟩
  · exact ⟨regs, rfl⟩

/-- Partition `p` FREE again: its state, its size mark and the mark of its destroyed keys as at reset. -/
def Chip.freed (s : Chip) (p : Nat) : Chip :=
  ((s.setPstate p psFREE).wrB (A.PTN_STATE p) F.PTN_STATE_LARGE false).wrKey p F.KEY_MEM_DESTROYED 0

theorem Chip.freed_acts (s : Chip) (p : Nat) (hp : p < 64) : (s.freed p).pstate p = psFREE
    ∧ (s.freed p).rd (A.KEY_MEM p) F.KEY_MEM_DESTROYED = 0 := by
  have hlarge : ∀ (u : Chip) b, (u.wrB (A.PTN_STATE p) F.PTN_STATE_LARGE b).pstate p = u.pstate p := fun u b =>
    Chip.rd_wr_disjoint _ _ _ _ _ (by decide)
  unfold Chip.freed
  refine ⟨?_, Chip.rd_wrKey_same _ _ _ _ (by decide)⟩
  rw [Chip.pstate_wrKey _ _ _ _ _ hp, hlarge]
  exact Chip.pstate_setPstate _ _ _ (by decide)

section Release
variable (s : Chip) (m : Cmd) (hstage : m.stage = 0)
include hstage

theorem Chip.runRelease_busy (hcreated : s.pstate (prm m.cur 8 6) ≠ psCREATED) (hscrubbed : s.pstate (prm m.cur 8 6) ≠ psSCRUBBED) :
    s.runRelease m = s.endAdmin m .partitionUnit .busy 0 4 (A.PTN_STATE (prm m.cur 8 6)) := by
  unfold Chip.runRelease
  simp [hstage, hcreated, hscrubbed]

/-- The release of a partition that owns nothing yet. -/
theorem Chip.runRelease_created (h : s.pstate (prm m.cur 8 6) = psCREATED) (hs : s.sealing (prm m.cur 8 6) = false)
    (hunits : ∀ k, k < 11 → s.unitsOf k (prm m.cur 8 6) = []) :
    s.runRelease m = ((s.releaseFields (prm m.cur 8 6)).freed (prm m.cur 8 6)).endPacket m.id .ok 0 := by
  have hopen : (s.pstate (prm m.cur 8 6) == psCREATED && !s.sealing (prm m.cur 8 6)) = true := by
    rw [h, hs]
    rfl
  have hstage' : (m.stage == 1) = false := by rw [hstage]; rfl
  have hall : (upFrom 0 11).all (fun k => (s.unitsOf k (prm m.cur 8 6)).isEmpty) = true := List.all_eq_true.2 fun k hk => by
    have := List.mem_range'_1.1 hk
    rw [hunits k (by omega)]
    rfl
  unfold Chip.runRelease
  simp only [hstage', hopen, hall, Bool.false_eq_true, if_false, if_true]
  rfl

end Release

/-! ### Key rotation -/

section Rotate
variable (s : Chip) (m : Cmd) (hkind : prm m.cur 9 8 = 0)
include hkind

theorem Chip.runRotate_early (h : s.pstate (prm m.cur 8 6) ≤ psCREATED) :
    s.runRotate m = s.endAdmin m .partitionUnit .busy 0 4 (A.PTN_STATE (prm m.cur 8 6)) := by
  unfold Chip.runRotate
  simp only [hkind, beq_self_eq_true, if_true, Nat.ble_eq_true_of_le h]

theorem Chip.runRotate_late (h : psSCRUBBING ≤ s.pstate (prm m.cur 8 6)) :
    s.runRotate m = s.endAdmin m .partitionUnit .keyRetired 0 4 (A.PTN_STATE (prm m.cur 8 6)) := by
  have hlive : Nat.ble (s.pstate (prm m.cur 8 6)) psCREATED = false := ble_eq_false_of_lt (lt_of_lt_of_le (by decide) h)
  unfold Chip.runRotate
  simp only [hkind, beq_self_eq_true, if_true, hlive, Bool.false_eq_true, if_false, Nat.ble_eq_true_of_le h]

variable (hlo : psCREATED < s.pstate (prm m.cur 8 6)) (hhi : s.pstate (prm m.cur 8 6) < psSCRUBBING)
include hlo hhi

theorem Chip.runRotate_refused (h : s.trngFail = true ∨ bitAt (s.rd (A.KEY_MEM (prm m.cur 8 6)) F.KEY_MEM_LIVE)
      ((s.rd (A.KEY_MEM (prm m.cur 8 6)) F.KEY_MEM_NEWEST + 1) % 4) = true) :
    s.runRotate m = s.endAdmin m .partitionUnit .busy 0 4 (A.KEY_MEM (prm m.cur 8 6)) := by
  unfold Chip.runRotate
  simp only [hkind, beq_self_eq_true, if_true, ble_eq_false_of_lt hlo, ble_eq_false_of_lt hhi, Bool.false_eq_true, if_false]
  rcases h with h | h <;> simp only [h, Bool.true_or, Bool.or_true, if_true]

theorem Chip.runRotate_new (htrng : s.trngFail = false) (hfree : bitAt (s.rd (A.KEY_MEM (prm m.cur 8 6)) F.KEY_MEM_LIVE)
      ((s.rd (A.KEY_MEM (prm m.cur 8 6)) F.KEY_MEM_NEWEST + 1) % 4) = false) :
    s.runRotate m = ((s.newKey (prm m.cur 8 6) ((s.rd (A.KEY_MEM (prm m.cur 8 6)) F.KEY_MEM_NEWEST + 1) % 4)).startSweep
      (prm m.cur 8 6)).endPacket m.id .ok ((s.rd (A.KEY_MEM (prm m.cur 8 6)) F.KEY_MEM_NEWEST + 1) % 4) := by
  unfold Chip.runRotate
  simp only [hkind, beq_self_eq_true, if_true, ble_eq_false_of_lt hlo, ble_eq_false_of_lt hhi, htrng, hfree, Bool.or_self,
    Bool.false_eq_true, if_false]

end Rotate

/-- A sweep that no tile needs ends as it starts. -/
theorem Chip.startSweep_nothing (s : Chip) (p : Nat) (hfind : s.pool.sweeps.find p = none) (htiles : s.sweepTiles p = []) :
    s.startSweep p = (((s.wrKey p F.KEY_MEM_SWEEPING 1).wrKey p F.KEY_MEM_SWEPT 0).modPool
      (fun q => { q with sweeps := q.sweeps.erase p })).wrKey p F.KEY_MEM_SWEEPING 0 := by
  have hfind' : ((s.wrKey p F.KEY_MEM_SWEEPING 1).wrKey p F.KEY_MEM_SWEPT 0).pool.sweeps.find p = none := hfind
  unfold Chip.startSweep
  simp only [hfind', htiles]
  rfl

theorem Chip.startSweep_nothing_acts (s : Chip) (p : Nat) (hfind : s.pool.sweeps.find p = none) (htiles : s.sweepTiles p = []) :
    (s.startSweep p).rd (A.KEY_MEM p) F.KEY_MEM_SWEEPING = 0
      ∧ ∀ f : Fld, f.lo + f.width ≤ 6 → (s.startSweep p).rd (A.KEY_MEM p) f = s.rd (A.KEY_MEM p) f := by
  rw [s.startSweep_nothing p hfind htiles]
  refine ⟨Chip.rd_wrKey_same _ _ _ _ (by decide), fun f hf => ?_⟩
  have hkept : ∀ (u : Chip) (g : Fld) v, 6 ≤ g.lo → (u.wrKey p g v).rd (A.KEY_MEM p) f = u.rd (A.KEY_MEM p) f := fun u g v hg =>
    Chip.rd_wrKey_disjoint _ _ _ _ _ (by omega) (.inl (hf.trans hg))
  rw [hkept _ _ _ (by decide)]
  change ((s.wrKey p F.KEY_MEM_SWEEPING 1).wrKey p F.KEY_MEM_SWEPT 0).rd (A.KEY_MEM p) f = s.rd (A.KEY_MEM p) f
  rw [hkept _ _ _ (by decide), hkept _ _ _ (by decide)]

/-! ### Tray commands -/

section Tray
variable (s : Chip) (m : Cmd) (hstage : m.stage = 0)
include hstage

theorem Chip.runTray_absent (h : s.trayState (prm m.cur 8 5) = trayABSENT ∨ s.trayState (prm m.cur 8 5) = trayLOST) :
    s.runTray m = s.endAdmin m .tierManager .portDown 0 4 (A.TIR_TRAY_STATUS (prm m.cur 8 5)) := by
  unfold Chip.runTray
  rcases h with h | h <;> simp [hstage, h]

theorem Chip.runTray_busy (habsent : s.trayState (prm m.cur 8 5) ≠ trayABSENT) (hlost : s.trayState (prm m.cur 8 5) ≠ trayLOST)
    (h : s.trayState (prm m.cur 8 5) ≠ (if slotOp m.cur = oTRAY_FORMAT then trayBLANK else trayREADY)
      ∨ (s.tray (prm m.cur 8 5)).command.isSome = true) :
    s.runTray m = s.endAdmin m .tierManager .busy 0 4 (A.TIR_TRAY_STATUS (prm m.cur 8 5)) := by
  have hhere : (s.trayState (prm m.cur 8 5) == trayABSENT || s.trayState (prm m.cur 8 5) == trayLOST) = false := by
    rw [beq_false_of_ne habsent, beq_false_of_ne hlost]
    rfl
  have hbad : ((slotOp m.cur == oTRAY_FORMAT && s.trayState (prm m.cur 8 5) != trayBLANK)
      || (!(slotOp m.cur == oTRAY_FORMAT) && s.trayState (prm m.cur 8 5) != trayREADY)
      || (s.tray (prm m.cur 8 5)).command.isSome) = true := by
    rcases h with h | h
    · by_cases hop : slotOp m.cur = oTRAY_FORMAT
      · rw [if_pos hop] at h
        simp [hop, h]
      · rw [if_neg hop] at h
        simp [hop, h]
    · rw [h, Bool.or_true]
  unfold Chip.runTray
  simp only [hstage, bne_self_eq_false, Bool.false_eq_true, if_false, hhere, hbad, if_true]

end Tray

/-! ### The install of an epoch -/

/-- The key of RTE_EPOCH. -/
def epochKey (k : Nat) : Bool := k == A.RTE_EPOCH

/-- RTE_EPOCH as an install leaves it: version `v` active, the other DRAINING, one more install. -/
def Chip.epochWritten (s : Chip) (v : Nat) : Chip :=
  (((s.wr A.RTE_EPOCH F.RTE_EPOCH_ACTIVE v).setOther 2).wrap A.RTE_EPOCH F.RTE_EPOCH_INSTALLS 1).syncDrain

/-- What waits on the drain counter leaves the other fields of RTE_EPOCH. -/
theorem Chip.syncDrain_frame (s : Chip) : (∃ n, s.syncDrain = s.wr A.RTE_EPOCH F.RTE_EPOCH_DRAIN n) := by
  unfold Chip.syncDrain
  split
  · exact ⟨_, rfl⟩
  · exact ⟨0, rfl⟩

theorem Chip.epochWritten_frame (s : Chip) (v : Nat) : (∃ regs, s.epochWritten v = { s with regs := regs })
    ∧ (s.epochWritten v).regs.off epochKey = s.regs.off epochKey := by
  have hoff : ∀ (u : Chip) (f : Fld) n, f.lo + f.width ≤ 64 → (u.wr A.RTE_EPOCH f n).regs.off epochKey = u.regs.off epochKey :=
    fun u f n hf => RegFile.set_off _ _ _ _ fun i hi => by
      unfold Fld.span at hi
      rw [show A.RTE_EPOCH + 8 * (f.lo / 64) + 8 * i = A.RTE_EPOCH by omega]
      decide
  obtain ⟨n, hn⟩ := (((s.wr A.RTE_EPOCH F.RTE_EPOCH_ACTIVE v).setOther 2).wrap A.RTE_EPOCH F.RTE_EPOCH_INSTALLS 1).syncDrain_frame
  unfold Chip.epochWritten
  rw [hn]
  exact ⟨⟨_, rfl⟩, (hoff _ _ _ (by decide)).trans ((hoff _ _ _ (by decide)).trans ((hoff _ _ _ (by decide)).trans (hoff _ _ _ (by decide))))⟩

theorem Chip.epochWritten_acts (s : Chip) (v : Nat) (hv : v < 2) : (s.epochWritten v).active = v ∧ (s.epochWritten v).otherState = 2
    ∧ (s.epochWritten v).rd A.RTE_EPOCH F.RTE_EPOCH_INSTALLS
        = (s.rd A.RTE_EPOCH F.RTE_EPOCH_INSTALLS + 1) % 2 ^ F.RTE_EPOCH_INSTALLS.width := by
  obtain ⟨n, hn⟩ := (((s.wr A.RTE_EPOCH F.RTE_EPOCH_ACTIVE v).setOther 2).wrap A.RTE_EPOCH F.RTE_EPOCH_INSTALLS 1).syncDrain_frame
  unfold Chip.epochWritten Chip.active Chip.otherState
  rw [hn]
  unfold Chip.wrap Chip.setOther
  refine ⟨?_, ?_, ?_⟩
  · rw [Chip.rd_wr_disjoint _ _ _ _ _ (by decide), Chip.rd_wr_disjoint _ _ _ _ _ (by decide), Chip.rd_wr_disjoint _ _ _ _ _ (by decide),
      Chip.rd_wr_same]
    exact Nat.mod_eq_of_lt hv
  · rw [Chip.rd_wr_disjoint _ _ _ _ _ (by decide), Chip.rd_wr_disjoint _ _ _ _ _ (by decide), Chip.rd_wr_same]
    rfl
  · rw [Chip.rd_wr_disjoint _ _ _ _ _ (by decide), Chip.rd_wr_same, Chip.rd_wr_disjoint _ _ _ _ _ (by decide),
      Chip.rd_wr_disjoint _ _ _ _ _ (by decide)]

/-- A version whose range table lists nothing homes nothing. -/
theorem Chip.homedRanges_of_unlisted (s : Chip) (v : Nat) (h : s.rangeEntries v = []) : s.homedRanges v = [] := by
  unfold Chip.homedRanges
  rw [List.map_eq_nil_iff.1 h]
  rfl

theorem Chip.rangeEntries_epochWritten (s : Chip) (w v : Nat) (hv : v < 2) : (s.epochWritten w).rangeEntries v = s.rangeEntries v := by
  have hout : ∀ k, A.PTN_RANGE v 0 ≤ k → k < A.PTN_RANGE v 0 + 64 * 4096 → epochKey k = false := fun k hk _ => by
    unfold A.PTN_RANGE at hk
    exact beq_false_of_ne (by unfold A.RTE_EPOCH; omega)
  unfold Chip.rangeEntries Chip.listed
  rw [← RegFile.keysIn_off (s.epochWritten w).regs _ _ hout, (s.epochWritten_frame w).2, RegFile.keysIn_off s.regs _ _ hout]

/-- The part with RTE_EPOCH written and the hold of the drain timed. -/
def Chip.epochTimed (s : Chip) (v : Nat) : Chip :=
  (s.epochWritten v).startTimer .drainHold (us ((s.epochWritten v).rd A.RTE_FLOW_CFG F.RTE_FLOW_CFG_DRAIN_HOLD_US))

/-- The ranges that charging and the failures name, of an install. -/
def Chip.recharged (s : Chip) (charges : Tab (List (Nat × Nat) × Nat)) (kept : List Nat) : Chip :=
  s.modPool (fun q => { q with
    charges := charges
    failed := q.failed.filter kept.contains
    redirected := q.redirected.filter kept.contains })

theorem Chip.active_epochTimed (s : Chip) (v : Nat) : (s.epochTimed v).active = (s.epochWritten v).active := rfl
theorem Chip.active_recharged (s : Chip) (charges : Tab (List (Nat × Nat) × Nat)) (kept : List Nat) :
    (s.recharged charges kept).active = s.active := rfl
theorem Chip.rangeEntries_epochTimed (s : Chip) (w v : Nat) : (s.epochTimed w).rangeEntries v = (s.epochWritten w).rangeEntries v := rfl
theorem Chip.rangeEntries_recharged (s : Chip) (charges : Tab (List (Nat × Nat) × Nat)) (kept : List Nat) (v : Nat) :
    (s.recharged charges kept).rangeEntries v = s.rangeEntries v := rfl

theorem Pool.filter_no_replicas (q : Pool) (keep : Nat × List Nat → Bool) (h : q.replicas = []) :
    { q with replicas := q.replicas.filter keep } = q := by
  rw [h, List.filter_nil, ← h]

theorem Chip.startReplicas_quiet (s : Chip) (old : Nat) (hhomed : s.homedRanges s.active = []) (hreplicas : s.pool.replicas = []) :
    s.startReplicas old = s := by
  unfold Chip.startReplicas Chip.modPool
  simp only [hhomed, List.filter_nil, List.foldl_nil]
  rw [Pool.filter_no_replicas s.pool _ hreplicas]

/-- The install of a version that maps nothing, over one that maps nothing, with no profile changed. -/
theorem Chip.activate_quiet (s : Chip) (hranges : ∀ v, s.rangeEntries v = []) (hports : s.changedPorts (1 - s.active) = [])
    (hops : s.pool.ops = []) (hreplicas : s.pool.replicas = []) :
    ∃ charges kept, s.activate = (s.epochTimed (1 - s.active)).recharged charges kept := by
  have hhomed : ∀ v, s.homedRanges v = [] := fun v => s.homedRanges_of_unlisted v (hranges v)
  obtain ⟨hactive, _, _⟩ := s.epochWritten_acts (1 - s.active) (by omega)
  refine ⟨(s.chargeAll (1 - s.active)).charges, [], ?_⟩
  generalize hc : (s.chargeAll (1 - s.active)).charges = charges
  obtain ⟨regs, hframe⟩ := (s.epochWritten_frame (1 - s.active)).1
  have hpool : (s.epochTimed (1 - s.active)).pool = s.pool := by
    unfold Chip.epochTimed
    rw [hframe]
    rfl
  have hunhomed : ((s.epochTimed (1 - s.active)).recharged charges []).homedRanges ((s.epochTimed (1 - s.active)).recharged charges []).active
      = [] := Chip.homedRanges_of_unlisted _ _ (by
    rw [Chip.active_recharged, Chip.active_epochTimed, hactive, Chip.rangeEntries_recharged, Chip.rangeEntries_epochTimed,
      s.rangeEntries_epochWritten _ _ (by omega)]
    exact hranges _)
  have hreplicas' : ((s.epochTimed (1 - s.active)).recharged charges []).pool.replicas = [] :=
    (congrArg Pool.replicas hpool).trans hreplicas
  have hops' : ((s.epochTimed (1 - s.active)).recharged charges []).pool.ops = [] := (congrArg Pool.ops hpool).trans hops
  have hstart := Chip.startReplicas_quiet _ s.active hunhomed hreplicas'
  have hpump := Chip.replicaPump_of_none _ hreplicas'
  unfold Chip.epochTimed Chip.recharged Chip.epochWritten at hstart hpump
  unfold Chip.activate
  simp only [hhomed, hports, hc, List.filter_nil, List.foldl_nil, List.map_nil]
  rw [hstart, hpump]
  exact Chip.tierPump_of_no_ops _ hops'

theorem Chip.install_busy (s : Chip) (h : s.otherState ≠ 1) : s.install = (s, .busy, 0, A.RTE_EPOCH) := by
  unfold Chip.install
  simp only [bne_iff_ne.2 h, if_true]

theorem Chip.install_armed (s : Chip) (h : s.otherState = 1) (hranges : s.rangeEntries s.shadowV = [])
    (hprofiles : s.checkProfiles s.shadowV = none) (hparts : s.checkParts s.shadowV = none) :
    s.install = (s.activate, .ok, s.activate.active + (s.activate.rd A.RTE_EPOCH F.RTE_EPOCH_INSTALLS) <<< 32, 0) := by
  have harmed : (s.otherState != 1) = false := by rw [h]; rfl
  have hchecked : s.checkRanges s.shadowV = none := by
    unfold Chip.checkRanges
    rw [hranges]
    rfl
  unfold Chip.install
  simp only [harmed, Bool.false_eq_true, if_false, hchecked, hprofiles, hparts]
  rfl

/-- What the install of a version that maps nothing leaves. -/
theorem Chip.activate_acts (s : Chip) (hranges : ∀ v, s.rangeEntries v = []) (hports : s.changedPorts (1 - s.active) = [])
    (hops : s.pool.ops = []) (hreplicas : s.pool.replicas = []) :
    s.activate.active = 1 - s.active ∧ s.activate.otherState = 2
      ∧ s.activate.rd A.RTE_EPOCH F.RTE_EPOCH_INSTALLS = (s.rd A.RTE_EPOCH F.RTE_EPOCH_INSTALLS + 1) % 2 ^ F.RTE_EPOCH_INSTALLS.width
      ∧ s.activate.due .drainHold = some (s.raw + us (s.rd A.RTE_FLOW_CFG F.RTE_FLOW_CFG_DRAIN_HOLD_US)) := by
  obtain ⟨charges, kept, he⟩ := s.activate_quiet hranges hports hops hreplicas
  obtain ⟨hactive, hother, hinstalls⟩ := s.epochWritten_acts (1 - s.active) (by omega)
  obtain ⟨⟨regs, hframe⟩, hoff⟩ := s.epochWritten_frame (1 - s.active)
  have hhold : (s.epochWritten (1 - s.active)).rd A.RTE_FLOW_CFG F.RTE_FLOW_CFG_DRAIN_HOLD_US = s.rd A.RTE_FLOW_CFG F.RTE_FLOW_CFG_DRAIN_HOLD_US := by
    have hkey : ∀ i, i < F.RTE_FLOW_CFG_DRAIN_HOLD_US.span →
        epochKey (A.RTE_FLOW_CFG + 8 * (F.RTE_FLOW_CFG_DRAIN_HOLD_US.lo / 64) + 8 * i) = false := by decide
    unfold Chip.rd
    rw [← RegFile.get_off (s.epochWritten (1 - s.active)).regs _ _ hkey, hoff, RegFile.get_off s.regs _ _ hkey]
  have hraw : (s.epochWritten (1 - s.active)).raw = s.raw := by rw [hframe]
  rw [he]
  refine ⟨hactive, hother, hinstalls, ?_⟩
  rw [← hhold, ← hraw]
  exact Chip.due_startTimer_same _ _ _

end Sys2Proof.Machine
end

section
/-!
The completions of partition commands, the generator's health and measurements (spec/13_partitions_and_security.md R420, R422, R427, R429,
R436), and the obligation.
-/
open Sys2Proof Sys2Proof.Machine
namespace Sys2Proof.Machine

/-! ### A seal in progress -/

/-- What a seal that starts leaves: key 0 LIVE and NEWEST, and the partition CREATED until the seal ends. -/
theorem Chip.seal_acts (s : Chip) (m : Cmd) (p : Nat) (hp : p < 64) :
    bitAt ((((s.setCmd m).reseed p).newKey p 0).rd (A.KEY_MEM p) F.KEY_MEM_LIVE) 0 = true
      ∧ (((s.setCmd m).reseed p).newKey p 0).rd (A.KEY_MEM p) F.KEY_MEM_NEWEST = 0
      ∧ ((((s.setCmd m).reseed p).newKey p 0).pool.keys.find (4 * p)).isSome = true
      ∧ (((s.setCmd m).reseed p).newKey p 0).pstate p = s.pstate p
      ∧ (((s.setCmd m).reseed p).newKey p 0).seq = (s.setCmd m).seq := by
  obtain ⟨regs', use', he', hrd⟩ := (s.setCmd m).reseed_frame p
  have hseq : ((s.setCmd m).reseed p).seq = (s.setCmd m).seq := by rw [he']
  have hstate' : ((s.setCmd m).reseed p).pstate p = s.pstate p := hrd _ _ (apart_KEY_STATUS p hp F.KEY_MEM_LIVE).1
  generalize (s.setCmd m).reseed p = r at hseq hstate' ⊢
  obtain ⟨⟨regs, use, key, he⟩, hlive, hnewest, hstate⟩ := r.newKey_acts p 0 hp (by decide)
  refine ⟨hlive, hnewest, ?_, hstate.trans hstate', ?_⟩
  · rw [he]
    simp only [Nat.add_zero, Tab.find_put_same, Option.isSome_some]
  · rw [he]
    exact hseq

/-! ### Completions -/

section Completions
variable (s : Chip) (p : Nat)

theorem Chip.sealDone_none (h : s.adminOf oPARTITION_SEAL p = none) : s.sealDone p = s := by
  unfold Chip.sealDone
  simp only [h]

theorem Chip.sealDone_waiting (m : Cmd) (h : s.adminOf oPARTITION_SEAL p = some m) (hdone : s.bindingDone m = false) : s.sealDone p = s := by
  unfold Chip.sealDone
  simp only [h, hdone, Bool.false_eq_true, if_false]

/-- Partition `p` SEALED, with one more seal counted. -/
def Chip.sealedOnce : Chip := (s.setPstate p psSEALED).wrap (A.PTN_STATE p) F.PTN_STATE_SEALS 1

theorem Chip.sealedOnce_acts : (s.sealedOnce p).pstate p = psSEALED
    ∧ (s.sealedOnce p).rd (A.PTN_STATE p) F.PTN_STATE_SEALS
        = (s.rd (A.PTN_STATE p) F.PTN_STATE_SEALS + 1) % 2 ^ F.PTN_STATE_SEALS.width := by
  have hseals : (s.setPstate p psSEALED).rd (A.PTN_STATE p) F.PTN_STATE_SEALS = s.rd (A.PTN_STATE p) F.PTN_STATE_SEALS :=
    Chip.rd_wr_disjoint _ _ _ _ _ (by decide)
  unfold Chip.sealedOnce Chip.wrap
  refine ⟨(Chip.rd_wr_disjoint _ _ _ _ _ (by decide)).trans (Chip.pstate_setPstate _ _ _ (by decide)), ?_⟩
  rw [Chip.rd_wr_same, hseals]

theorem Chip.sealDone_bound (m : Cmd) (h : s.adminOf oPARTITION_SEAL p = some m) (hdone : s.bindingDone m = true) :
    s.sealDone p = (s.sealedOnce p).endPacket m.id .ok 0 := by
  unfold Chip.sealDone
  simp only [h, hdone, if_true]
  rfl

theorem Chip.drainDone_early (h : s.pstate p ≠ psDRAINING ∨ s.drained p = false) : s.drainDone p = s := by
  have hearly : (s.pstate p == psDRAINING && s.drained p) = false := by
    rcases h with h | h
    · rw [beq_false_of_ne h, Bool.false_and]
    · rw [h, Bool.and_false]
  unfold Chip.drainDone
  simp only [hearly, Bool.false_eq_true, if_false]

theorem Chip.drainDone_drained (h : s.pstate p = psDRAINING) (hdrained : s.drained p = true) (m : Cmd)
    (hm : s.adminOf oPARTITION_DRAIN p = some m) : s.drainDone p = (s.setPstate p psDRAINED).endPacket m.id .ok 0 := by
  have hm' : (s.setPstate p psDRAINED).adminOf oPARTITION_DRAIN p = some m := hm
  unfold Chip.drainDone
  simp only [h, beq_self_eq_true, hdrained, Bool.and_self, if_true, hm']

theorem Chip.scrubDone_early (h : s.pstate p ≠ psSCRUBBING ∨ ∃ k, s.pool.scrubs.find p = some (k + 1)) : s.scrubDone p = s := by
  have hearly : (s.pstate p == psSCRUBBING && (s.pool.scrubs.find p).getD 0 == 0) = false := by
    rcases h with h | ⟨k, h⟩
    · rw [beq_false_of_ne h, Bool.false_and]
    · rw [h]
      exact Bool.and_false _
  unfold Chip.scrubDone
  simp only [hearly, Bool.false_eq_true, if_false]

/-- Partition `p` SCRUBBED. -/
def Chip.scrubbed : Chip := (s.setPstate p psSCRUBBED).modPool (fun q => { q with scrubs := q.scrubs.erase p })

theorem Chip.scrubDone_scrubbed (h : s.pstate p = psSCRUBBING) (hnone : s.pool.scrubs.find p = none) (m : Cmd)
    (hm : s.adminOf oPARTITION_SCRUB p = some m) : s.scrubDone p = (s.scrubbed p).endPacket m.id .ok 0 := by
  have hm' : (s.scrubbed p).adminOf oPARTITION_SCRUB p = some m := hm
  unfold Chip.scrubbed at hm' ⊢
  unfold Chip.scrubDone
  simp only [h, beq_self_eq_true, hnone, Option.getD_none, Bool.and_self, if_true, hm']

end Completions

/-! ### The generator's health -/

theorem Chip.trngFails_acts (s : Chip) : s.trngFails.trngFail = true ∧ s.trngFails.errSeq = s.errSeq + 1
    ∧ s.trngFails.flag A.KEY_STATUS F.KEY_STATUS_TRNG_FAIL_SEEN = true := by
  unfold Chip.trngFails Chip.logReg Chip.trngFail
  dsimp only
  refine ⟨?_, Chip.log_errSeq _ _, ?_⟩
  · rw [Chip.log_flag_other _ _ _ _ (by decide), Chip.flag_wrB_apart _ _ _ _ _ _ (by decide), Chip.flag_wrB_same _ _ _ _ (by decide)]
  · rw [Chip.log_flag_other _ _ _ _ (by decide), Chip.flag_wrB_same _ _ _ _ (by decide)]

theorem Chip.trngPasses_sound (s : Chip) (h : s.trngFail = false) : s.trngPasses = s := by
  unfold Chip.trngPasses
  simp only [h, Bool.not_false, if_true]

theorem Chip.trngPasses_failed (s : Chip) (h : s.trngFail = true) (huse : s.drbgUse = []) :
    s.trngPasses = s.wrB A.KEY_STATUS F.KEY_STATUS_TRNG_FAIL false := by
  have huse' : (s.wrB A.KEY_STATUS F.KEY_STATUS_TRNG_FAIL false).drbgUse = [] := huse
  unfold Chip.trngPasses
  simp only [h, Bool.not_true, Bool.false_eq_true, if_false, huse', List.filter_nil, List.map_nil, List.foldl_nil]

/-! ### Measurements -/

theorem Chip.spdmRequest_free (s : Chip) (p : Nat) (q : SpdmReq) (h : s.pstate p = psFREE) : s.spdmRequest (some p) q = s := by
  unfold Chip.spdmRequest
  simp only [Option.elim_some, h, beq_self_eq_true, if_true]

theorem Chip.spdmRequest_answered (s : Chip) (fn : Option Nat) (q : SpdmReq) (h : ∀ p, fn = some p → s.pstate p ≠ psFREE) :
    s.spdmRequest fn q = s.emitOut (.spdm fn (s.spdmReply fn q).1 (s.spdmReply fn q).2) := by
  have henabled : fn.elim false (fun p => s.pstate p == psFREE) = false := by
    cases fn with
    | none => rfl
    | some p => exact beq_false_of_ne (h p rfl)
  unfold Chip.spdmRequest
  simp only [henabled, Bool.false_eq_true, if_false]

theorem Chip.measurement_absent (s : Chip) (i : Nat) (raw : Bool) (hlo : 5 ≤ i) (hi : i < 16 ∨ 80 ≤ i) : s.measurement i raw = none := by
  have hne : ∀ k, k < 5 → (i == k) = false := fun k hk => beq_false_of_ne (by omega)
  have hrange : (Nat.ble 16 i && Nat.blt i 80) = false := by
    rw [← Bool.not_eq_true, Bool.and_eq_true, Nat.ble_eq, Nat.blt_eq]
    omega
  unfold Chip.measurement
  simp only [hne 1 (by decide), hne 2 (by decide), hne 3 (by decide), hne 4 (by decide), hrange, Bool.false_eq_true, if_false]

theorem Chip.measurement_partition (s : Chip) (i : Nat) (raw : Bool) (hlo : 16 ≤ i) (hhi : i < 80) :
    s.measurement i raw
      = some (if raw then s.partitionRecord (i - 16) else bytesOfNat 64 (Config.sha512 (s.partitionRecord (i - 16)))) := by
  have hne : ∀ k, k < 5 → (i == k) = false := fun k hk => beq_false_of_ne (by omega)
  have hrange : (Nat.ble 16 i && Nat.blt i 80) = true := by
    rw [Bool.and_eq_true, Nat.ble_eq, Nat.blt_eq]
    exact ⟨hlo, hhi⟩
  unfold Chip.measurement
  simp only [hne 1 (by decide), hne 2 (by decide), hne 3 (by decide), hne 4 (by decide), hrange, Bool.false_eq_true, if_false, if_true]

theorem Chip.spdmReply_refused (s : Chip) (fn : Option Nat) (i : Nat) (raw : Bool)
    (h : mayMeasure fn i = false ∨ (5 ≤ i ∧ (i < 16 ∨ 80 ≤ i))) : s.spdmReply fn (.measurement i raw) = (0x7F, []) := by
  have hnone : (if mayMeasure fn i then s.measurement i raw else none) = none := by
    rcases h with h | ⟨hlo, hi⟩
    · simp only [h, Bool.false_eq_true, if_false]
    · simp only [s.measurement_absent i raw hlo hi, ite_self]
  unfold Chip.spdmReply
  simp only [hnone]

theorem Chip.spdmReply_partition (s : Chip) (fn : Option Nat) (i : Nat) (raw : Bool) (h : mayMeasure fn i = true) (hlo : 16 ≤ i)
    (hhi : i < 80) : s.spdmReply fn (.measurement i raw)
      = (0x60, if raw then s.partitionRecord (i - 16) else bytesOfNat 64 (Config.sha512 (s.partitionRecord (i - 16)))) := by
  unfold Chip.spdmReply
  simp only [h, if_true, s.measurement_partition i raw hlo hhi]

/-! ### The obligation -/

/-- The seal of a partition that no tray binds to, as the sequencer runs it. -/
theorem Chip.runAdmin_seal_acts (s : Chip) (m : Cmd) (hstage : m.stage = 0) (hphase : m.phase = .running)
    (ho : slotOp m.cur = oPARTITION_SEAL) (hcreated : s.pstate (prm m.cur 8 6) = psCREATED) (hsealing : s.sealing (prm m.cur 8 6) = false)
    (hcheck : s.sealCheck (prm m.cur 8 6) = none) (htrays : s.boundTrays (prm m.cur 8 6) = []) :
    bitAt ((s.runAdmin m).rd (A.KEY_MEM (prm m.cur 8 6)) F.KEY_MEM_LIVE) 0 = true
      ∧ (s.runAdmin m).rd (A.KEY_MEM (prm m.cur 8 6)) F.KEY_MEM_NEWEST = 0
      ∧ ((s.runAdmin m).pool.keys.find (4 * prm m.cur 8 6)).isSome = true
      ∧ (s.runAdmin m).pstate (prm m.cur 8 6) = psCREATED
      ∧ (s.cmd? m.id = some m → slotOp m.slot = slotOp m.cur → prm m.slot 8 6 = prm m.cur 8 6 →
          (s.runAdmin m).sealing (prm m.cur 8 6) = true) := by
  rw [s.runAdmin_seal m ho, s.runSeal_fit m hstage hcreated hsealing hcheck htrays]
  obtain ⟨hlive, hnewest, hkey, hstate, hseq⟩ := s.seal_acts { m with stage := 1, asked := [] } _ (partOf_lt m.cur)
  refine ⟨hlive, hnewest, hkey, hstate.trans hcreated, fun hm hop hp => ?_⟩
  refine Chip.sealing_of_mem _ _ { m with stage := 1, asked := [] } ?_ rfl hphase (hop.trans ho) hp
  rw [hseq]
  exact s.mem_setCmd m _ rfl hm

theorem Chip.runAdmin_drain_acts (s : Chip) (m : Cmd) (hstage : m.stage = 0) (ho : slotOp m.cur = oPARTITION_DRAIN)
    (hsealed : s.pstate (prm m.cur 8 6) = psSEALED) (hbanks : s.banksOf (prm m.cur 8 6) = []) (hcolls : s.seq.colls = [])
    (hwaits : ∀ x ∈ s.seq.cmds, slotOp x.cur ≠ oWAIT ∧ slotOp x.cur ≠ oWAIT_COPY) :
    (s.runAdmin m).pstate (prm m.cur 8 6) = psDRAINING
      ∧ ∀ q, q / 16 = prm m.cur 8 6 → s.qEnabled q = true →
          ((s.runAdmin m).queue q).disabling = true ∧ ((s.runAdmin m).queue q).fetching = 0 := by
  rw [s.runAdmin_drain m ho, s.runDrain_quiet m hstage ho hsealed hbanks hcolls hwaits]
  exact s.drainBegun_acts m

theorem Chip.runAdmin_release_created (s : Chip) (m : Cmd) (hstage : m.stage = 0) (ho : slotOp m.cur = oPARTITION_RELEASE)
    (hcreated : s.pstate (prm m.cur 8 6) = psCREATED) (hsealing : s.sealing (prm m.cur 8 6) = false)
    (hunits : ∀ k, k < 11 → s.unitsOf k (prm m.cur 8 6) = []) :
    ∃ u : Chip, s.runAdmin m = u.endPacket m.id .ok 0 ∧ u.pstate (prm m.cur 8 6) = psFREE
      ∧ u.rd (A.KEY_MEM (prm m.cur 8 6)) F.KEY_MEM_DESTROYED = 0 ∧ u = { s with regs := u.regs } := by
  obtain ⟨regs, he⟩ := s.releaseFields_frame (prm m.cur 8 6)
  obtain ⟨hfree, hdestroyed⟩ := (s.releaseFields (prm m.cur 8 6)).freed_acts (prm m.cur 8 6) (partOf_lt _)
  refine ⟨_, (s.runAdmin_release m ho).trans (s.runRelease_created m hstage hcreated hsealing hunits), hfree, hdestroyed, ?_⟩
  rw [he]
  rfl

theorem Chip.runAdmin_rotate_acts (s : Chip) (m : Cmd) (ho : slotOp m.cur = oKEY_ROTATE) (hkind : prm m.cur 9 8 = 0)
    (hlo : psCREATED < s.pstate (prm m.cur 8 6)) (hhi : s.pstate (prm m.cur 8 6) < psSCRUBBING) (htrng : s.trngFail = false) (g : Nat)
    (hg : (s.rd (A.KEY_MEM (prm m.cur 8 6)) F.KEY_MEM_NEWEST + 1) % 4 = g)
    (hfree : bitAt (s.rd (A.KEY_MEM (prm m.cur 8 6)) F.KEY_MEM_LIVE) g = false) (hsweeps : s.pool.sweeps.find (prm m.cur 8 6) = none)
    (htiles : (s.newKey (prm m.cur 8 6) g).sweepTiles (prm m.cur 8 6) = []) :
    ∃ u : Chip, s.runAdmin m = u.endPacket m.id .ok g ∧ u.rd (A.KEY_MEM (prm m.cur 8 6)) F.KEY_MEM_NEWEST = g
      ∧ bitAt (u.rd (A.KEY_MEM (prm m.cur 8 6)) F.KEY_MEM_LIVE) g = true ∧ u.rd (A.KEY_MEM (prm m.cur 8 6)) F.KEY_MEM_SWEEPING = 0 := by
  subst hg
  obtain ⟨⟨regs, use, key, he⟩, hlive, hnewest, _⟩ := s.newKey_acts (prm m.cur 8 6)
    ((s.rd (A.KEY_MEM (prm m.cur 8 6)) F.KEY_MEM_NEWEST + 1) % 4) (partOf_lt _) (Nat.mod_lt _ (by decide))
  refine ⟨_, (s.runAdmin_rotate m ho).trans (s.runRotate_new m hkind hlo hhi htrng hfree), ?_⟩
  generalize (s.rd (A.KEY_MEM (prm m.cur 8 6)) F.KEY_MEM_NEWEST + 1) % 4 = g at *
  obtain ⟨hsweeping, hkept⟩ := (s.newKey (prm m.cur 8 6) g).startSweep_nothing_acts (prm m.cur 8 6) (by rw [he]; exact hsweeps) htiles
  exact ⟨(hkept _ (by decide)).trans hnewest, (congrArg (bitAt · g) (hkept _ (by decide))).trans hlive, hsweeping⟩

theorem Chip.runAdmin_install_busy (s : Chip) (m : Cmd) (ho : slotOp m.cur = oEPOCH_INSTALL) (h : s.otherState ≠ 1) :
    s.runAdmin m = s.endAdmin m .routeUnit .busy 0 4 A.RTE_EPOCH := by
  rw [s.runAdmin_install m ho, s.install_busy h]
  rfl

theorem Chip.runAdmin_install_acts (s : Chip) (m : Cmd) (ho : slotOp m.cur = oEPOCH_INSTALL) (h : s.otherState = 1)
    (hranges : ∀ v, s.rangeEntries v = []) (hprofiles : s.checkProfiles s.shadowV = none) (hparts : s.checkParts s.shadowV = none)
    (hports : s.changedPorts s.shadowV = []) (hops : s.pool.ops = []) (hreplicas : s.pool.replicas = []) :
    ∃ u : Chip, ∃ res, s.runAdmin m = u.endPacket m.id .ok res ∧ u.active = 1 - s.active ∧ u.otherState = 2
      ∧ u.rd A.RTE_EPOCH F.RTE_EPOCH_INSTALLS = (s.rd A.RTE_EPOCH F.RTE_EPOCH_INSTALLS + 1) % 2 ^ F.RTE_EPOCH_INSTALLS.width
      ∧ u.due .drainHold = some (s.raw + us (s.rd A.RTE_FLOW_CFG F.RTE_FLOW_CFG_DRAIN_HOLD_US)) := by
  refine ⟨s.activate, s.activate.active + (s.activate.rd A.RTE_EPOCH F.RTE_EPOCH_INSTALLS) <<< 32, ?_,
    s.activate_acts hranges hports hops hreplicas⟩
  rw [s.runAdmin_install m ho, s.install_armed h (hranges _) hprofiles hparts]
  rfl

/-- Settles O55: each command by what it does in its state; the seal by the key record, the scrub by the tables that list nothing, the
install by the versions that map nothing. -/
theorem partitionsGoThroughTheirStates : Obligations.PartitionsGoThroughTheirStates := by
  unfold Obligations.PartitionsGoThroughTheirStates
  refine ⟨fun s m hstage hphase => ?_, fun p s => ?_, fun s => ?_, fun vf q s => ?_⟩
  · refine ⟨fun ho => ⟨fun h => ?_, fun h => ?_⟩, fun ho => ⟨fun h => ?_, fun h hs u st n hres => ?_⟩,
      fun ho => ⟨fun h => ?_, fun h hs => ⟨fun st hst => ?_, fun hcheck htrays => ?_⟩⟩,
      fun ho => ⟨fun h => ?_, fun h hbanks hcolls hwaits => ?_⟩,
      fun ho => ⟨fun h => ?_, fun h hhomes hunits hqueued hregions howns hlost => ?_⟩, fun ho => ⟨fun h h' => ?_, fun h hs hunits => ?_⟩,
      fun ho hkind => ⟨fun h => ?_, fun h => ?_, fun hlo hhi => ⟨fun h => ?_, fun htrng hfree hsweeps htiles => ?_⟩⟩,
      fun ho => ⟨fun h => ?_, fun habsent hlost h _ => ?_⟩,
      fun ho => ⟨fun h => ?_, fun h hranges hprofiles hparts hports hops hreplicas => ?_⟩⟩
    · exact (s.runAdmin_create m ho).trans (s.runCreate_busy m h)
    · exact ⟨_, (s.runAdmin_create m ho).trans (s.runCreate_free m h), Chip.pstate_setPstate _ _ _ (by decide), rfl⟩
    · exact (s.runAdmin_reserve m ho).trans (s.runReserve_busy m h)
    · exact (s.runAdmin_reserve m ho).trans (s.runReserve_open m h hs u st n hres)
    · exact (s.runAdmin_seal m ho).trans (s.runSeal_busy m hstage h)
    · exact (s.runAdmin_seal m ho).trans (s.runSeal_unfit m hstage h hs st hst)
    · exact s.runAdmin_seal_acts m hstage hphase ho h hs hcheck htrays
    · exact (s.runAdmin_drain m ho).trans (s.runDrain_busy m hstage h)
    · exact s.runAdmin_drain_acts m hstage ho h hbanks hcolls hwaits
    · exact (s.runAdmin_scrub m ho).trans (s.runScrub_busy m hstage h)
    · rw [s.runAdmin_scrub m ho]
      exact s.runScrub_quiet m hstage hphase h hhomes hunits hqueued hregions howns hlost
    · exact (s.runAdmin_release m ho).trans (s.runRelease_busy m hstage h h')
    · exact s.runAdmin_release_created m hstage ho h hs hunits
    · exact (s.runAdmin_rotate m ho).trans (s.runRotate_early m hkind h)
    · exact (s.runAdmin_rotate m ho).trans (s.runRotate_late m hkind h)
    · exact (s.runAdmin_rotate m ho).trans (s.runRotate_refused m hkind hlo hhi h)
    · exact s.runAdmin_rotate_acts m ho hkind hlo hhi htrng _ rfl hfree hsweeps htiles
    · exact (s.runAdmin_tray m ho).trans (s.runTray_absent m hstage h)
    · exact (s.runAdmin_tray m ho).trans (s.runTray_busy m hstage habsent hlost h)
    · exact s.runAdmin_install_busy m ho h
    · exact s.runAdmin_install_acts m ho h hranges hprofiles hparts hports hops hreplicas
  · have hseal : exec (.sealComplete p) s = .next (s.after (s.sealDone p.val)) := rfl
    have hdrain : exec (.partitionDrainComplete p) s = .next (s.after (s.drainDone p.val)) := rfl
    have hscrub : exec (.partitionScrubComplete p) s = .next (s.after (s.scrubDone p.val)) := rfl
    refine ⟨fun h => ?_, fun m hm => ⟨fun h => ?_, fun h => ?_⟩, fun h => ?_, fun h hdrained m hm => ?_, fun h => ?_, fun h hnone m hm => ?_⟩
    · rw [hseal, Chip.sealDone_none _ _ h]
    · rw [hseal, Chip.sealDone_waiting _ _ m hm h]
    · obtain ⟨hstate, hseals⟩ := s.toChip.sealedOnce_acts p.val
      exact ⟨s.toChip.sealedOnce p.val, by rw [hseal, Chip.sealDone_bound _ _ m hm h], hstate, rfl, hseals⟩
    · rw [hdrain, Chip.drainDone_early _ _ h]
    · exact ⟨_, by rw [hdrain, Chip.drainDone_drained _ _ h hdrained m hm], Chip.pstate_setPstate _ _ _ (by decide), rfl⟩
    · rw [hscrub, Chip.scrubDone_early _ _ h]
    · exact ⟨s.toChip.scrubbed p.val, by rw [hscrub, Chip.scrubDone_scrubbed _ _ h hnone m hm],
        s.toChip.pstate_setPstate p.val psSCRUBBED (by decide), rfl⟩
  · have hpass : exec .trngHealthPass s = .next (s.after s.trngPasses) := rfl
    refine ⟨⟨s.trngFails, rfl, s.trngFails_acts⟩, fun h => ?_,
      fun h huse => ⟨s.toChip.wrB A.KEY_STATUS F.KEY_STATUS_TRNG_FAIL false, ?_, ?_, rfl⟩⟩
    · rw [hpass, Chip.trngPasses_sound _ h]
    · rw [hpass, Chip.trngPasses_failed _ h huse]
    · exact Chip.flag_wrB_same _ _ _ _ (by decide)
  · have hexec : exec (.spdmRequest vf q) s = .next { s with toChip := s.toChip.spdmRequest (vf.map (·.val)) q } := rfl
    refine ⟨fun p hp h => ?_, fun h => ?_⟩
    · subst hp
      rw [hexec, Option.map_some, Chip.spdmRequest_free _ _ _ h]
    · refine ⟨(s.toChip.spdmReply (vf.map (·.val)) q).1, (s.toChip.spdmReply (vf.map (·.val)) q).2, ?_, fun i raw hq => ?_⟩
      · rw [hexec, Chip.spdmRequest_answered _ _ _ fun p hp => ?_]
        · rfl
        · obtain ⟨x, hx, rfl⟩ := Option.map_eq_some_iff.1 hp
          exact h x hx
      · subst hq
        refine ⟨fun hno => ?_, fun hmay hlo hhi => ?_⟩
        · rw [Chip.spdmReply_refused _ _ _ _ hno]
          exact ⟨rfl, rfl⟩
        · rw [Chip.spdmReply_partition _ _ _ _ hmay hlo hhi]
          exact ⟨rfl, rfl⟩

end Sys2Proof.Machine
end

section
/-!
Combined FetchAdds (spec/04_coherence.md R147, R148): the answers to the members of a combining entry.
-/
open Sys2Proof Sys2Proof.Machine
namespace Sys2Proof.Machine

/-! ### The answers to the members -/

/-- The operand that a FetchAdd brings. -/
def Packet.operand (p : Packet) : Nat := (Coh.ofBody p.body).opa

/-- Member `q` of a combining entry answered with the old value `old`. -/
def Chip.answerMember (s : Chip) (q : Packet) (old : Nat) : Chip :=
  let d := Coh.ofBody q.body
  s.complete q { msg := mAtomicRsp, lmask := d.lmask, combined := true, aop := 1, size := d.size, offset := d.offset, opa := old } []

/-- The value that member `k` of a list of adds finds, where the first finds `v`: as if they were applied one after another (R148). -/
def oldAt (v m : Nat) (l : List Packet) (k : Nat) : Nat := (v + ((l.take k).map Packet.operand).sum) % m

/-- The adds of a list answered in turn. -/
def Chip.answerInTurn (s : Chip) (v m : Nat) (l : List Packet) : Chip :=
  (List.range l.length).foldl (fun t k => t.answerMember (l.getD k {}) (oldAt v m l k)) s

theorem oldAt_zero (v m : Nat) (l : List Packet) : oldAt v m l 0 = v % m := by simp [oldAt]

/-- Past its first member, a list goes on from the value that this member leaves. -/
theorem oldAt_succ (v m : Nat) (q : Packet) (l : List Packet) (k : Nat) :
    oldAt v m (q :: l) (k + 1) = oldAt ((v + q.operand) % m) m l k := by
  simp [oldAt, Nat.add_assoc]

theorem Chip.answerInTurn_cons (s : Chip) (v m : Nat) (q : Packet) (l : List Packet) :
    s.answerInTurn v m (q :: l) = (s.answerMember q (v % m)).answerInTurn ((v + q.operand) % m) m l := by
  unfold Chip.answerInTurn
  rw [List.length_cons, List.range_succ_eq_map, List.foldl_cons, List.foldl_map]
  simp only [oldAt_zero, oldAt_succ, List.getD_cons_zero, List.getD_cons_succ]

/-- A running value that each answer raises by its operand gives each member the value of `oldAt`. -/
theorem Chip.answer_running (s : Chip) (v m : Nat) (l : List Packet) :
    (l.foldl (fun (r : Chip × Nat) q => (r.1.answerMember q (r.2 % m), (r.2 + q.operand) % m)) (s, v)).1 = s.answerInTurn v m l := by
  induction l generalizing s v with
  | nil => rfl
  | cons q l ih => rw [List.foldl_cons, ih, Chip.answerInTurn_cons]

theorem Chip.complete_core (s : Chip) (q : Packet) (c : Coh) (payload : List Byte) : (s.complete q c payload).core = s.core := by
  unfold Chip.complete
  exact s.send_core _

/-- Answers change the switch core alone. -/
theorem Chip.answerInTurn_pool (s : Chip) (v m : Nat) (l : List Packet) : (s.answerInTurn v m l).pool = s.pool := by
  unfold Chip.answerInTurn Chip.answerMember
  exact Chip.core_pool (Chip.foldl_core _ (fun t _ => t.complete_core _ _ _) _ s)

/-! ### The end of the combined request -/

theorem Chip.answerComb_ok (s : Chip) (n v : Nat) (e : Comb) (h : s.pool.combs.find n = some e) :
    s.answerComb n .ok v
      = (s.modPool (fun q => { q with combs := q.combs.erase n })).answerInTurn v (2 ^ (8 * e.size)) e.members := by
  rw [← Chip.answer_running]
  unfold Chip.answerComb
  simp only [h, beq_self_eq_true, if_true]
  rfl

/-- The part once the combined request `tag` of entry `n` has ended with `x`, before the members are answered: the entry and the request
are gone. -/
def Chip.combEnded (s : Chip) (tag n : Nat) (x : Ended) : Chip :=
  { s with pool := { s.pool with ended := [x], asks := s.pool.asks.erase tag, combs := s.pool.combs.erase n }
           timers := s.timers.filter (fun e => e.1 != Timer.txn tag) }

/-- The combined request has ended well: the members are told, in turn. -/
theorem Chip.tellAskers_endAsk_comb (s : Chip) (tag n old : Nat) (lines : List (Nat × List Byte)) (a : Ask) (e : Comb)
    (hask : s.pool.asks.find tag = some a) (hwho : a.who = .comb n) (hended : s.pool.ended = []) (hcomb : s.pool.combs.find n = some e) :
    (s.endAsk tag .ok old lines).tellAskers
      = ((s.combEnded tag n ⟨tag, .ok, old, lines⟩).answerInTurn old (2 ^ (8 * e.size)) e.members).modPool
          (fun q => { q with ended := [] }) := by
  have htold : (s.endAsk tag .ok old lines).tellAsker ⟨tag, .ok, old, lines⟩
      = (s.combEnded tag n ⟨tag, .ok, old, lines⟩).answerInTurn old (2 ^ (8 * e.size)) e.members := by
    rw [s.endAsk_eq tag .ok old lines hended]
    simp only [Chip.tellAsker, hask, hwho]
    exact Chip.answerComb_ok _ n old e hcomb
  have hlisted : (s.endAsk tag .ok old lines).pool.ended = [⟨tag, .ok, old, lines⟩] := by rw [s.endAsk_eq tag .ok old lines hended]
  have hpool := Chip.answerInTurn_pool (s.combEnded tag n ⟨tag, .ok, old, lines⟩) old (2 ^ (8 * e.size)) e.members
  unfold Chip.tellAskers
  dsimp only
  rw [hlisted, List.foldl_cons, List.foldl_nil, htold]
  unfold Chip.modPool
  dsimp only
  rw [hpool]
  simp [Chip.combEnded, Tab.find_erase_same]

theorem Chip.completionIn_of_comb (s : Chip) (p : Packet) (n : Nat) (a : Ask) (e : Comb) (hmsg : (Coh.ofBody p.body).msg = mAtomicRsp)
    (hask : s.pool.asks.find (Coh.ofBody p.body).tag = some a) (hwho : a.who = .comb n) (hended : s.pool.ended = [])
    (hcomb : s.pool.combs.find n = some e) :
    s.completionIn p = ((s.combEnded (Coh.ofBody p.body).tag n ⟨(Coh.ofBody p.body).tag, .ok, (Coh.ofBody p.body).opa,
        linesOf (Coh.ofBody p.body).lmask p.payload⟩).answerInTurn (Coh.ofBody p.body).opa (2 ^ (8 * e.size)) e.members).modPool
          (fun q => { q with ended := [] }) := by
  rw [← s.tellAskers_endAsk_comb _ n _ _ a e hask hwho hended hcomb]
  simp [Chip.completionIn, hask, hended, hmsg, hwho, mAtomicRsp, mErr]

theorem exec_atomicRsp (p : Packet) (s : State) (h : s.accepts p) :
    exec (.atomicRsp p) s = .next (s.after (((s.taken p).completionIn p).flowApplied p)) := by
  have hrun : exec (.atomicRsp p) s = .next (s.after (s.toChip.consume p (fun s => s.completionIn p))) := rfl
  rw [hrun, Chip.consume_of_accepts _ _ _ h]

/-- Settles O33: the running value of the answers is the old value plus the operands before each member, by induction on the members. -/
theorem combinedAddsAreAnsweredInTurn : Obligations.CombinedAddsAreAnsweredInTurn := by
  unfold Obligations.CombinedAddsAreAnsweredInTurn
  intro p n e a s haccepts v c hmsg hask hwho hended hcomb
  refine ⟨v.combEnded c.tag n ⟨c.tag, .ok, c.opa, linesOf c.lmask p.payload⟩, ?_, rfl, rfl, rfl⟩
  rw [exec_atomicRsp p s haccepts, (s.taken p).completionIn_of_comb p n a e hmsg hask hwho hended hcomb]
  rfl

end Sys2Proof.Machine
end

section
/-!
The home's part in one request for one line (spec/04_coherence.md R133, R135, R136, R138, R143): the directory entry of the line, the home at
rest, the end of a request, and the end of a transaction that serves it alone.
-/
open Sys2Proof Sys2Proof.Machine
namespace Sys2Proof.Machine

/-! ### The directory -/

theorem Chip.bank_modBank_same (s : Chip) (b : Nat) (f : Bank → Bank) : (s.modBank b f).bank b = f (s.bank b) := by
  simp [Chip.modBank, Chip.bank, Chip.modPool, Tab.find_put_same]

theorem Chip.ways_setWays (s : Chip) (b line : Nat) (l : List Entry) : (s.setWays b line l).ways b line = l := by
  rw [Chip.setWays, Chip.ways, Chip.bank_modBank_same, Tab.find_put_same, Option.getD_some]

theorem Chip.setEntry_frame (s : Chip) (b line : Nat) (d : Dir) (t : Option Nat) :
    ∃ banks, s.setEntry b line d t = s.modPool (fun q => { q with banks := banks }) := by
  unfold Chip.setEntry
  dsimp only
  split <;> exact ⟨_, rfl⟩

theorem Chip.dirOf_setEntry (s : Chip) (b line : Nat) (d : Dir) (t : Option Nat) : (s.setEntry b line d t).dirOf b line = d := by
  have hrest : ((s.ways b line).filter (fun e => e.line != line)).find? (fun e => e.line == line) = none := by
    simp [List.find?_eq_none]
  by_cases h : (d == .invalid && t.isNone) = true
  · have hgone : s.setEntry b line d t = s.setWays b line ((s.ways b line).filter (fun e => e.line != line)) := if_pos h
    have hd : d = .invalid := by simpa using (Bool.and_eq_true_iff.1 h).1
    rw [hgone, hd]
    simp only [Chip.dirOf, Chip.ways_setWays, hrest]
  · have hthere : s.setEntry b line d t
        = s.setWays b line ((s.ways b line).filter (fun e => e.line != line) ++ [⟨line, d, t⟩]) := if_neg h
    simp [hthere, Chip.dirOf, Chip.ways_setWays, hrest]

theorem Chip.dirOf_modPool (s : Chip) (f : Pool → Pool) (b line : Nat) (hf : (f s.pool).banks = s.pool.banks) :
    (s.modPool f).dirOf b line = s.dirOf b line := by
  simp only [Chip.dirOf, Chip.ways, Chip.bank, Chip.modPool_pool, hf]

/-! ### The home at rest -/

theorem Chip.homeSettle_of_none (s : Chip) (h : s.homeStep = none) : s.homeSettle = s := by
  have hrun : ∀ n, s.homeRun n = s := fun n => by
    cases n with
    | zero => rfl
    | succ n => rw [Chip.homeRun, h]
  exact hrun _

/-- One open transaction that still waits for a snoop keeps the home at rest. -/
theorem Chip.homeSettle_of_snooping (s : Chip) (i : Nat) (t : HTxn) (x : Snoop) (htxns : s.pool.txns = [(i, t)])
    (hwaits : s.pool.waits = []) (hdone : s.pool.done = []) (hx : x ∈ t.snoops) (hopen : x.done = false) : s.homeSettle = s := by
  have hall : t.snoops.all (fun x => x.done) = false := List.all_eq_false.2 ⟨x, hx, by simp [hopen]⟩
  refine s.homeSettle_of_none ?_
  simp [Chip.homeStep, htxns, hwaits, hdone, hall]

/-- One open transaction whose snoops are resolved goes on. -/
theorem Chip.homeStep_of_resolved (s : Chip) (i : Nat) (t : HTxn) (htxns : s.pool.txns = [(i, t)]) (hdone : s.pool.done = [])
    (hreading : t.reading = false) (hsnoops : t.snoops = []) : s.homeStep = some (s.advanceTxn i t) := by
  simp [Chip.homeStep, htxns, hdone, hreading, hsnoops]

/-! ### The end of a request -/

/-- The completion of a request that has not failed, with its payload (R135). -/
def HomeReq.completion (r : HomeReq) : Coh × List Byte :=
  let c := Coh.ofBody r.pkt.body
  if c.msg == mWrBack then ({ msg := mWbAck, lmask := c.lmask, consumed := r.consumed }, [])
  else if c.msg == mCleanEvict then ({ msg := mEvictAck, lmask := c.lmask }, [])
  else if c.msg == mAtomicAny && !r.near then
    ({ msg := mAtomicRsp, lmask := c.lmask, combined := r.combined, aop := c.aop, size := c.size, offset := c.offset, opa := r.old }, [])
  else ({ msg := mData, lmask := c.lmask, grant := r.grant, near := r.near, combined := r.combined }, payloadOf r.data)

theorem Chip.finishReq_complete (s : Chip) (k : Nat) (r : HomeReq) (hreq : s.pool.reqs.find k = some r) (hleft : r.left = [])
    (hfailed : r.failed = []) (hgang : r.gang = none) :
    s.finishReq k = (s.modPool (fun q => { q with reqs := q.reqs.erase k })).complete r.pkt r.completion.1 r.completion.2 := by
  have hfirst : r.firstFailure = none := by simp [HomeReq.firstFailure, hfailed, argMin]
  unfold Chip.finishReq HomeReq.completion
  simp only [hreq, hleft, List.isEmpty_nil, Bool.not_true, Bool.false_eq_true, if_false, hfirst, hgang]
  split
  · rfl
  · split
    · rfl
    · split <;> rfl

/-- The last line of a request ends, and the request with it. -/
theorem Chip.endLine_last (s : Chip) (k j : Nat) (q : Packet) (f : HomeReq → HomeReq) (r : HomeReq)
    (hreq : s.pool.reqs.find k = some { pkt := q, left := [j] }) (hf : f { pkt := q, left := [] } = r) (hleft : r.left = [])
    (hfailed : r.failed = []) (hgang : r.gang = none) :
    s.endLine k j f = (s.modPool (fun p => { p with reqs := p.reqs.erase k })).complete r.pkt r.completion.1 r.completion.2 := by
  have hput : s.pool.reqs.mapAt k (fun r => f { r with left := r.left.filter (fun x => x != j) }) = s.pool.reqs.put k r := by
    simp [Tab.mapAt, hreq, hf]
  unfold Chip.endLine
  rw [Chip.finishReq_complete _ k r ?_ hleft hfailed hgang]
  · simp only [Chip.modPool, hput, Tab.erase_put]
  · rw [Chip.modPool_pool]
    dsimp only
    rw [hput]
    exact Tab.find_put_same _ _ _

/-! ### The end of a transaction of one request -/

theorem Chip.closeTxn_unsnooped (s : Chip) (i b : Nat) (t : HTxn) (d : Dir) (hfind : s.pool.txns.find i = some t)
    (hsnoops : t.snoops = []) (hkind : t.kind ≠ .backInval) (hbank : s.bankOf t.part t.line = some b) :
    s.closeTxn i d = (s.modPool (fun q => { q with txns := q.txns.erase i })).setEntry b t.line d none := by
  unfold Chip.closeTxn
  simp only [hfind, hsnoops, List.foldl_nil, Chip.bankOf_modPool, hbank, beq_eq_false_iff_ne.mpr hkind, Bool.false_eq_true, if_false]

/-- The part once transaction `i` on a line of bank `b` has closed with state `d`, and its request `k` is over. -/
def Chip.lineClosed (s : Chip) (i k b line : Nat) (d : Dir) : Chip :=
  ((s.modPool (fun q => { q with txns := q.txns.erase i })).setEntry b line d none).modPool (fun q => { q with reqs := q.reqs.erase k })

theorem Chip.lineClosed_frame (s : Chip) (i k b line : Nat) (d : Dir) : ∃ banks, s.lineClosed i k b line d
    = s.modPool (fun q => { q with txns := q.txns.erase i, banks := banks, reqs := q.reqs.erase k }) := by
  obtain ⟨banks, h⟩ := (s.modPool (fun q => { q with txns := q.txns.erase i })).setEntry_frame b line d none
  exact ⟨banks, by rw [Chip.lineClosed, h]; rfl⟩

/-- What the close leaves: the state of the line, a home at rest, and everything else. -/
theorem Chip.lineClosed_acts (s : Chip) (i k b line : Nat) (d : Dir) (t : HTxn) (htxns : s.pool.txns = [(i, t)])
    (hwaits : s.pool.waits = []) (hdone : s.pool.done = []) :
    (s.lineClosed i k b line d).dirOf b line = d ∧ (s.lineClosed i k b line d).homeQuiet
      ∧ (s.lineClosed i k b line d).pool.cache = s.pool.cache
      ∧ s.lineClosed i k b line d = { s with pool := (s.lineClosed i k b line d).pool } := by
  refine ⟨?_, ?_⟩
  · unfold Chip.lineClosed
    rw [Chip.dirOf_modPool _ _ _ _ rfl, Chip.dirOf_setEntry]
  · obtain ⟨banks, h⟩ := s.lineClosed_frame i k b line d
    rw [h]
    exact ⟨⟨by simp [Chip.modPool, htxns, Tab.erase], hwaits, hdone⟩, rfl, rfl⟩

/-- What a far atomic finds in a line, and the line that it leaves (R150). -/
def Packet.farOld (q : Packet) (data : List Byte) : Nat :=
  let c := Coh.ofBody q.body
  operandAt data (c.offset % 64) c.size
def Packet.farLine (q : Packet) (data : List Byte) : List Byte :=
  let c := Coh.ofBody q.body
  withOperand data (c.offset % 64) c.size (atomicResult c.aop c.size (q.farOld data) c.opa c.opb)

section Alone
variable (s : Chip) (i k j b : Nat) (t : HTxn) (q : Packet)
variable (htxns : s.pool.txns = [(i, t)]) (hmembers : t.members = [(k, j)]) (hsnoops : t.snoops = []) (hkind : t.kind ≠ .backInval)
variable (hbank : s.bankOf t.part t.line = some b) (hreq : s.pool.reqs.find k = some { pkt := q, left := [j] })
include htxns hsnoops hkind hbank hreq

theorem Chip.closeTxn_endLine (d : Dir) (f : HomeReq → HomeReq) (r : HomeReq) (hf : f { pkt := q, left := [] } = r) (hleft : r.left = [])
    (hfailed : r.failed = []) (hgang : r.gang = none) :
    (s.closeTxn i d).endLine k j f = (s.lineClosed i k b t.line d).complete r.pkt r.completion.1 r.completion.2 := by
  have hfind : s.pool.txns.find i = some t := by simp [htxns, Tab.find]
  have hclosed := s.closeTxn_unsnooped i b t d hfind hsnoops hkind hbank
  obtain ⟨banks, hframe⟩ := (s.modPool (fun q => { q with txns := q.txns.erase i })).setEntry_frame b t.line d none
  rw [hclosed, Chip.endLine_last _ k j q f r ?_ hf hleft hfailed hgang]
  · rfl
  · rw [hframe]
    exact hreq

include hmembers

/-- The write of a WrBack, whose line its sender owned or nobody held (R137). -/
theorem Chip.applyWrite_alone (hroom : s.cacheHasRoom t.part) (hmsg : (Coh.ofBody q.body).msg = mWrBack) :
    s.applyWrite i t = ((s.writeMemory t.part t.store t.line ((q.payload.drop (64 * j)).take 64)).lineClosed i k b t.line .invalid).complete q
      { msg := mWbAck, lmask := (Coh.ofBody q.body).lmask } [] := by
  unfold Chip.applyWrite
  simp only [hmembers, hreq]
  have hput := s.putLine_of_room t.part roleHOME t.store t.line ((q.payload.drop (64 * j)).take 64) hroom
  rw [Chip.closeTxn_endLine _ i k j b t q ?_ hsnoops hkind ?_ ?_ .invalid id { pkt := q, left := [] } rfl rfl rfl rfl]
  · simp [HomeReq.completion, hmsg]
  all_goals
    unfold Chip.writeMemory
    rw [hput]
  · exact htxns
  · exact hbank
  · exact hreq

/-- A far atomic on a line that memory gives (R149, R150). -/
theorem Chip.applyFar_alone (data : List Byte) (hroom : s.cacheHasRoom t.part) (hmsg : (Coh.ofBody q.body).msg = mAtomicAny) :
    s.applyFar i t data = ((s.writeMemory t.part t.store t.line (q.farLine data)).lineClosed i k b t.line .invalid).complete q
      { msg := mAtomicRsp, lmask := (Coh.ofBody q.body).lmask, aop := (Coh.ofBody q.body).aop, size := (Coh.ofBody q.body).size
        offset := (Coh.ofBody q.body).offset, opa := q.farOld data } [] := by
  have hput := s.putLine_of_room t.part roleHOME t.store t.line (q.farLine data) hroom
  have hend : s.applyFar i t data = ((s.writeMemory t.part t.store t.line (q.farLine data)).closeTxn i .invalid).endLine k j
      (fun x => { x with old := q.farOld data }) := by
    unfold Chip.applyFar
    simp only [hmembers, hreq]
    rfl
  rw [hend, Chip.closeTxn_endLine _ i k j b t q ?_ hsnoops hkind ?_ ?_ .invalid _ { pkt := q, left := [], old := q.farOld data } rfl rfl rfl rfl]
  · simp [HomeReq.completion, hmsg, mWrBack, mCleanEvict, mAtomicAny]
  all_goals
    unfold Chip.writeMemory
    rw [hput]
  · exact htxns
  · exact hbank
  · exact hreq

/-- A read of a line that nobody holds (Table 4.6): a RdCurrent is granted no copy, the others E. -/
theorem Chip.applyRead_alone (data : List Byte) (hprior : t.prior = .invalid)
    (hread : (t.kind = .rdShared ∧ (Coh.ofBody q.body).msg = mRdShared) ∨ (t.kind = .rdOwn ∧ (Coh.ofBody q.body).msg = mRdOwn)
      ∨ (t.kind = .rdCurrent ∧ (Coh.ofBody q.body).msg = mRdCurrent)) :
    s.applyRead i t data = (s.lineClosed i k b t.line (if t.kind = .rdCurrent then .invalid else .owned q.src)).complete q
      { msg := mData, lmask := (Coh.ofBody q.body).lmask, grant := if t.kind = .rdCurrent then 0 else 2 } (payloadOf [(j, data)]) := by
  have hleft : t.left = .invalid := by rw [HTxn.left, hprior]
  have hsrc : s.requester k = q.src := by simp [Chip.requester, hreq]
  have hone : Nat.blt 1 1 = false := rfl
  have hend : s.applyRead i t data = (s.closeTxn i (if t.kind = .rdCurrent then .invalid else .owned q.src)).endLine k j
      (fun x => { x with data := x.data ++ [(j, data)], grant := if t.kind = .rdCurrent then 0 else 2, near := false }) := by
    unfold Chip.applyRead
    obtain ⟨hk, hmsg⟩ | ⟨hk, hmsg⟩ | ⟨hk, hmsg⟩ := hread
    · simp [hmembers, hreq, hmsg, hk, hprior, hsrc, hone, show (TxnKind.rdShared == TxnKind.near) = false from rfl]
    · simp [hmembers, hk, hsrc, hone, show (TxnKind.rdOwn == TxnKind.near) = false from rfl]
    · simp [hmembers, hreq, hmsg, hk, hleft, hone, mRdCurrent, mRdShared, show (TxnKind.rdCurrent == TxnKind.near) = false from rfl]
  rw [hend, s.closeTxn_endLine i k j b t q htxns hsnoops hkind hbank hreq _ _
    { pkt := q, left := [], data := [(j, data)], grant := if t.kind = .rdCurrent then 0 else 2 } rfl rfl rfl rfl]
  obtain ⟨_, hmsg⟩ | ⟨_, hmsg⟩ | ⟨_, hmsg⟩ := hread
  all_goals simp [HomeReq.completion, hmsg, mRdShared, mRdOwn, mRdCurrent, mWrBack, mCleanEvict, mAtomicAny]

end Alone

/-! ### A transaction whose snoops are resolved -/

section Advance
variable (s : Chip) (i : Nat) (t : HTxn) (hends : t.ends = none)
include hends

theorem Chip.advanceTxn_write (hkind : t.kind = .wrBack) : s.advanceTxn i t = s.applyWrite i t := by
  simp [Chip.advanceTxn, hends, hkind]

variable (l : CacheLine) (hback : t.kind ≠ .backInval) (hwrite : t.kind ≠ .wrBack) (hfind : s.pool.txns.find i = some t)
variable (hcached : s.cached t.part roleHOME t.store t.line = some l)
include hback hwrite hfind hcached

theorem Chip.advanceTxn_memory : s.advanceTxn i t = if t.kind = .far then s.applyFar i t l.data else s.applyRead i t l.data := by
  simp [Chip.advanceTxn, Chip.memoryIn, hends, hback, hwrite, hcached, hfind]

end Advance

/-- Where one open transaction goes on to a completion that leaves nothing under way, that is all the home does. -/
theorem Chip.homeSettle_of_resolved (s w : Chip) (i : Nat) (t : HTxn) (q : Packet) (c : Coh) (payload : List Byte)
    (htxns : s.pool.txns = [(i, t)]) (hdone : s.pool.done = []) (hreading : t.reading = false) (hsnoops : t.snoops = [])
    (hadvance : s.advanceTxn i t = w.complete q c payload) (hw : w.homeQuiet) : s.homeSettle = w.complete q c payload :=
  Chip.homeSettle_of_step _ _ ((s.homeStep_of_resolved i t htxns hdone hreading hsnoops).trans (congrArg some hadvance))
    (w.complete_quiet q c payload hw)

end Sys2Proof.Machine
end

section
/-!
A request for one line that passes every check of its home (spec/04_coherence.md R31, R129, R133, R136, R143): it is taken, its line
opens a transaction or ends at once, and a home at rest has it alone under way.
-/
open Sys2Proof Sys2Proof.Machine
namespace Sys2Proof.Machine

/-! ### A request that passes every check -/

theorem lines_of_one (j : Nat) (hj : j < 4) : (upFrom 0 4).filter (fun i => bitAt (2 ^ j) i) = [j] := by
  interval_cases j <;> decide

/-- The part with the request of packet `p` for its line `j` taken at the home. -/
def Chip.requested (s : Chip) (p : Packet) (j : Nat) : Chip :=
  s.modPool (fun q => { q with reqs := q.reqs.put s.pool.nextReq { pkt := p, left := [j] }, nextReq := s.pool.nextReq + 1 })

/-- The predictor updated by the request, where it is an AtomicAny (R152). -/
def Chip.predicted (s : Chip) (p : Packet) (j b : Nat) : Chip :=
  if (Coh.ofBody p.body).msg == mAtomicAny then s.predict b (p.lineOf j) p.src false else s

theorem Chip.predict_frame (s : Chip) (b line r : Nat) (busy : Bool) :
    ∃ banks, s.predict b line r busy = s.modPool (fun q => { q with banks := banks }) := ⟨_, rfl⟩

theorem Chip.predicted_frame (s : Chip) (p : Packet) (j b : Nat) :
    ∃ banks, s.predicted p j b = s.modPool (fun q => { q with banks := banks }) := by
  unfold Chip.predicted
  split
  · exact s.predict_frame _ _ _ _
  · exact ⟨s.pool.banks, rfl⟩

/-- The predictor is no part of the directory. -/
theorem Chip.ways_predicted (s : Chip) (p : Packet) (j b line : Nat) : (s.predicted p j b).ways b line = s.ways b line := by
  unfold Chip.predicted
  split
  · unfold Chip.predict Chip.ways
    rw [Chip.bank_modBank_same]
  · rfl

/-- The checks before a request is taken (R19, R31, R133). -/
theorem Chip.homeRequest_of_admits (s : Chip) (p : Packet) (j b : Nat) (hadmits : s.homeAdmits p j b)
    (hrequest : cohIsRequest (Coh.ofBody p.body).msg = true)
    (hatomic : (Coh.ofBody p.body).msg = mAtomicAny → atomicCheck (Coh.ofBody p.body) = .run) :
    s.homeRequest p none = s.takeRequest p none := by
  obtain ⟨hformat, _, _, ⟨i, hrange⟩, hpower, _⟩ := hadmits
  have hcheck : (if (Coh.ofBody p.body).msg == mAtomicAny then atomicCheck (Coh.ofBody p.body) else .run) = AtomicCheck.run := by
    split
    · next h => exact hatomic (beq_iff_eq.1 h)
    · rfl
  have hawake : s.asleep = false := by simp [Chip.asleep, hpower]
  have hrun : (AtomicCheck.run == AtomicCheck.nothing) = false := by decide
  unfold Chip.homeRequest
  simp only [hformat, hrequest, hcheck, hrange, hawake, hrun, Bool.not_true, Bool.or_self, Bool.false_and, Bool.false_eq_true, if_false,
    bne_self_eq_false]

/-- A request for one line is its line's arrival, and what follows at the home. -/
theorem Chip.takeRequest_of_admits (s u : Chip) (p : Packet) (j b : Nat) (hadmits : s.homeAdmits p j b) (htxns : s.pool.txns = [])
    (harrive : ((s.predicted p j b).requested p j).arriveLine s.pool.nextReq j = some u) :
    s.takeRequest p none = u.homeSettle := by
  obtain ⟨_, hj, hmask, _, _, hmay, _, _, hbank, _⟩ := hadmits
  have hlines : (upFrom 0 4).filter (fun i => bitAt (Coh.ofBody p.body).lmask i) = [j] := by rw [hmask, lines_of_one j hj]
  have hfree : s.lineTxn (4 * (Coh.ofBody p.body).saddr + j) = none := by simp [Chip.lineTxn, htxns]
  have hpredicted : (if (Coh.ofBody p.body).msg == mAtomicAny then s.predict b (4 * (Coh.ofBody p.body).saddr + j) p.src false else s)
      = s.predicted p j b := rfl
  have hnext : (s.predicted p j b).pool.nextReq = s.pool.nextReq := by
    obtain ⟨banks, h⟩ := s.predicted_frame p j b
    rw [h]
    rfl
  unfold Chip.requested at harrive
  rw [hnext] at harrive
  unfold Chip.takeRequest
  simp only [hmay, hlines, List.foldl_cons, List.foldl_nil, Option.bind_some, hbank, hfree, Option.isSome_none, hpredicted, hnext, harrive]

theorem Chip.freshTxn_of_none (s : Chip) (b : Nat) (h : s.pool.txns = []) : s.freshTxn b = some (256 * b) := by
  unfold Chip.freshTxn
  rw [h, show upFrom 0 256 = 0 :: upFrom 1 255 from rfl]
  simp [Tab.find]

theorem Chip.slotsUsed_of_none (s : Chip) (b : Nat) (htxns : s.pool.txns = []) (hwaits : s.pool.waits = []) : s.slotsUsed b = 0 := by
  simp [Chip.slotsUsed, htxns, hwaits]

/-- A state without the copy of host `e` (Table 4.6, CleanEvict). -/
def Dir.without (d : Dir) (e : Nat) : Dir :=
  match d with
  | .owned x => if x == e then .invalid else .owned x
  | .shared l => dirOfHolders (l.filter (· != e))
  | .invalid => .invalid
  | .coarse gs => .coarse gs

/-- The transaction that request `k` of packet `p` opens on its line `j`, in state `d`, with the snoops given. -/
def Packet.opens (p : Packet) (k j : Nat) (kind : TxnKind) (d : Dir) (snoops : List Snoop) : HTxn :=
  { line := p.lineOf j, part := p.partition, kind := kind, prior := d, members := [(k, j)], snoops := snoops }

section Open
variable (s : Chip) (p : Packet) (k j b : Nat)
variable (hreq : s.pool.reqs.find k = some { pkt := p, left := [j] }) (hlost : s.lostHit p.partition (p.lineOf j) = .clear)
variable (hregion : s.regionOf p.partition (p.lineOf j / 256) = none) (hbank : s.bankOf p.partition (p.lineOf j) = some b)
include hreq hlost hregion hbank

/-- A CleanEvict opens no transaction: its sender leaves the holders, and the request ends (R136). -/
theorem Chip.openLine_evict (hmsg : (Coh.ofBody p.body).msg = mCleanEvict) :
    s.openLine k j = some ((s.setEntry b (p.lineOf j) ((s.dirOf b (p.lineOf j)).without p.src) none).endLine k j id) := by
  have hkind : ∀ line, s.kindOf p b line = .evict := by
    simp [Chip.kindOf, hmsg, mCleanEvict, mRdShared, mRdOwn, mRdCurrent, mWrBack]
  have hversioned : s.versioned p (p.lineOf j) = (s, none, 0) := by simp [Chip.versioned, hregion]
  unfold Packet.lineOf at *
  unfold Chip.openLine
  simp only [hreq, hlost, hbank, hversioned, hkind, List.isEmpty_nil, List.foldl_nil, Bool.not_true, Bool.false_and, Bool.false_eq_true, if_false]
  cases hd : s.dirOf b (4 * (Coh.ofBody p.body).saddr + j) <;> simp [Dir.without]

/-- Another request opens a transaction, with the first index of its bank (R136, Table 4.6). -/
theorem Chip.openLine_opens (kind : TxnKind) (hkind : s.kindOf p b (p.lineOf j) = kind) (hevict : kind ≠ .evict)
    (hmine : s.dirOf b (p.lineOf j) = .owned p.src → kind = .wrBack ∨ kind = .rdCurrent) (hways : (s.ways b (p.lineOf j)).length < 16)
    (htxns : s.pool.txns = []) (hwaits : s.pool.waits = []) :
    s.openLine k j = some ((s.setEntry b (p.lineOf j) (s.dirOf b (p.lineOf j)) (some (256 * b))).sendSnoops (256 * b) p.tc
      (p.opens k j kind (s.dirOf b (p.lineOf j)) (s.snoopsFor kind (s.dirOf b (p.lineOf j)) p.src))) := by
  have hversioned : s.versioned p (p.lineOf j) = (s, none, 0) := by simp [Chip.versioned, hregion]
  have howner : (s.dirOf b (p.lineOf j) == .owned p.src && (kind == .rdShared || kind == .rdOwn || kind == .far || kind == .near)) = false := by
    by_cases h : s.dirOf b (p.lineOf j) = .owned p.src
    · obtain rfl | rfl := hmine h <;> simp
    · simp [h]
  have hway : s.makeWay p.partition b (p.lineOf j) p.tc = some s := by
    have hroom : Nat.blt (s.ways b (p.lineOf j)).length 16 = true := Nat.blt_eq ▸ hways
    simp [Chip.makeWay, hroom]
  have hslots : Nat.ble 256 (s.slotsUsed b) = false := by rw [s.slotsUsed_of_none b htxns hwaits]; rfl
  unfold Packet.opens Packet.lineOf at *
  unfold Chip.openLine
  simp only [hreq, hlost, hbank, hversioned, hkind, howner, hway, ite_self, hslots, s.freshTxn_of_none b htxns, beq_eq_false_iff_ne.2 hevict,
    List.isEmpty_nil, List.foldl_nil, Bool.not_true, Bool.false_and, Bool.false_eq_true, if_false]

end Open

/-! ### The transaction of an admitted request -/

/-- The part with the request of `p` for its line `j` arrived at the home. -/
def Chip.received (s : Chip) (p : Packet) (j b : Nat) : Chip := (s.predicted p j b).requested p j

theorem Chip.received_frame (s : Chip) (p : Packet) (j b : Nat) : ∃ banks, s.received p j b = s.modPool (fun q =>
    { q with banks := banks, reqs := q.reqs.put s.pool.nextReq { pkt := p, left := [j] }, nextReq := s.pool.nextReq + 1 }) := by
  obtain ⟨banks, h⟩ := s.predicted_frame p j b
  exact ⟨banks, by rw [Chip.received, h]; rfl⟩

theorem Chip.ways_received (s : Chip) (p : Packet) (j b line : Nat) : (s.received p j b).ways b line = s.ways b line :=
  s.ways_predicted p j b line

theorem Chip.dirOf_received (s : Chip) (p : Packet) (j b line : Nat) : (s.received p j b).dirOf b line = s.dirOf b line := by
  unfold Chip.dirOf
  rw [s.ways_received]

theorem Chip.received_req (s : Chip) (p : Packet) (j b : Nat) :
    (s.received p j b).pool.reqs.find s.pool.nextReq = some { pkt := p, left := [j] } := by
  obtain ⟨banks, h⟩ := s.received_frame p j b
  rw [h]
  exact Tab.find_put_same _ _ _

/-- The part with transaction `t` open for the request of `p`, its line Busy (R136). -/
def Chip.opened (s : Chip) (p : Packet) (j b : Nat) (t : HTxn) : Chip :=
  ((s.received p j b).setEntry b (p.lineOf j) t.prior (some (256 * b))).setTxn (256 * b) t

theorem Chip.opened_frame (s : Chip) (p : Packet) (j b : Nat) (t : HTxn) : ∃ banks, s.opened p j b t = s.modPool (fun q =>
    { q with banks := banks, reqs := q.reqs.put s.pool.nextReq { pkt := p, left := [j] }, nextReq := s.pool.nextReq + 1
             txns := q.txns.put (256 * b) t }) := by
  obtain ⟨_, hreceived⟩ := s.received_frame p j b
  obtain ⟨banks, hentry⟩ := (s.received p j b).setEntry_frame b (p.lineOf j) t.prior (some (256 * b))
  exact ⟨banks, by rw [Chip.opened, hentry, hreceived]; rfl⟩

theorem Chip.dirOf_opened (s : Chip) (p : Packet) (j b : Nat) (t : HTxn) : (s.opened p j b t).dirOf b (p.lineOf j) = t.prior := by
  unfold Chip.opened Chip.setTxn
  rw [Chip.dirOf_modPool _ _ _ _ rfl, Chip.dirOf_setEntry]

/-- A home at rest that opens a transaction has it alone under way. -/
theorem Chip.opened_alone (s : Chip) (p : Packet) (j b : Nat) (t : HTxn) (hquiet : s.homeQuiet) :
    (s.opened p j b t).pool.txns = [(256 * b, t)] ∧ (s.opened p j b t).pool.waits = [] ∧ (s.opened p j b t).pool.done = []
      ∧ (s.opened p j b t).pool.reqs.find s.pool.nextReq = some { pkt := p, left := [j] } := by
  obtain ⟨htxns, hwaits, hdone⟩ := hquiet
  obtain ⟨banks, h⟩ := s.opened_frame p j b t
  rw [h]
  refine ⟨?_, hwaits, hdone, Tab.find_put_same _ _ _⟩
  rw [Chip.modPool_pool]
  dsimp only
  rw [htxns]
  rfl

theorem Chip.cacheHasRoom_opened (s : Chip) (p : Packet) (j b q : Nat) (t : HTxn) (h : s.cacheHasRoom q) :
    (s.opened p j b t).cacheHasRoom q := by
  obtain ⟨banks, hframe⟩ := s.opened_frame p j b t
  rw [hframe]
  exact s.cacheHasRoom_modPool _ q rfl h

theorem Chip.arriveLine_of_quiet (s : Chip) (k j : Nat) (r : HomeReq) (hreq : s.pool.reqs.find k = some r) (htxns : s.pool.txns = [])
    (hwaits : s.pool.waits = []) : s.arriveLine k j = s.openLine k j := by
  unfold Chip.arriveLine
  simp [hreq, Chip.lineTxn, htxns, hwaits]

section Admitted
variable (s : Chip) (p : Packet) (j b : Nat) (hadmits : s.homeAdmits p j b) (hquiet : s.homeQuiet)
include hadmits hquiet

/-- A CleanEvict ends as it arrives. -/
theorem Chip.homeRequest_evict (hmsg : (Coh.ofBody p.body).msg = mCleanEvict) :
    s.homeRequest p none = (((s.received p j b).setEntry b (p.lineOf j) ((s.dirOf b (p.lineOf j)).without p.src) none).endLine
      s.pool.nextReq j id).homeSettle := by
  have hchecks := hadmits
  obtain ⟨_, _, _, _, _, _, hlost, hregion, hbank, _⟩ := hchecks
  obtain ⟨banks, hframe⟩ := s.received_frame p j b
  have hopens : (s.received p j b).arriveLine s.pool.nextReq j = _ :=
    (Chip.arriveLine_of_quiet _ _ j _ (s.received_req p j b) (by rw [hframe]; exact hquiet.1) (by rw [hframe]; exact hquiet.2.1)).trans
      ((s.received p j b).openLine_evict p _ j b (s.received_req p j b) (by rw [hframe]; exact hlost) (by rw [hframe]; exact hregion)
        (by rw [hframe]; exact hbank) hmsg)
  rw [s.dirOf_received] at hopens
  rw [s.homeRequest_of_admits p j b hadmits (by rw [hmsg]; rfl) (by rw [hmsg]; exact fun h => absurd h (by decide)),
    s.takeRequest_of_admits _ p j b hadmits hquiet.1 hopens]

/-- Another request opens its transaction, whose snoops are sent. -/
theorem Chip.homeRequest_opens (hrequest : cohIsRequest (Coh.ofBody p.body).msg = true)
    (hatomic : (Coh.ofBody p.body).msg = mAtomicAny → atomicCheck (Coh.ofBody p.body) = .run) (kind : TxnKind)
    (hkind : (s.received p j b).kindOf p b (p.lineOf j) = kind) (hevict : kind ≠ .evict)
    (hmine : s.dirOf b (p.lineOf j) = .owned p.src → kind = .wrBack ∨ kind = .rdCurrent) :
    s.homeRequest p none = (((s.received p j b).setEntry b (p.lineOf j) (s.dirOf b (p.lineOf j)) (some (256 * b))).sendSnoops (256 * b) p.tc
      (p.opens s.pool.nextReq j kind (s.dirOf b (p.lineOf j)) (s.snoopsFor kind (s.dirOf b (p.lineOf j)) p.src))).homeSettle := by
  have hchecks := hadmits
  obtain ⟨_, _, _, _, _, _, hlost, hregion, hbank, hways⟩ := hchecks
  obtain ⟨banks, hframe⟩ := s.received_frame p j b
  have htxns : (s.received p j b).pool.txns = [] := by rw [hframe]; exact hquiet.1
  have hwaits : (s.received p j b).pool.waits = [] := by rw [hframe]; exact hquiet.2.1
  have hsnoops : ∀ d, (s.received p j b).snoopsFor kind d p.src = s.snoopsFor kind d p.src := fun d => by rw [hframe]; rfl
  have hopens := (Chip.arriveLine_of_quiet _ _ j _ (s.received_req p j b) htxns hwaits).trans
    ((s.received p j b).openLine_opens p _ j b (s.received_req p j b) (by rw [hframe]; exact hlost) (by rw [hframe]; exact hregion)
      (by rw [hframe]; exact hbank) kind hkind hevict (by rw [s.dirOf_received]; exact hmine) (by rw [s.ways_received]; exact hways)
      htxns hwaits)
  rw [s.dirOf_received, hsnoops] at hopens
  rw [s.homeRequest_of_admits p j b hadmits hrequest hatomic, s.takeRequest_of_admits _ p j b hadmits hquiet.1 hopens]

end Admitted

theorem Chip.poolOnly_trans {s t u : Chip} (ht : t = { s with pool := t.pool }) (hu : u = { t with pool := u.pool }) :
    u = { s with pool := u.pool } := hu.trans (by rw [ht])

theorem Chip.received_poolOnly (s : Chip) (p : Packet) (j b : Nat) : s.received p j b = { s with pool := (s.received p j b).pool } := by
  obtain ⟨_, h⟩ := s.received_frame p j b
  rw [h]
  rfl

theorem Chip.setEntry_poolOnly (s : Chip) (b line : Nat) (d : Dir) (t : Option Nat) :
    s.setEntry b line d t = { s with pool := (s.setEntry b line d t).pool } := by
  obtain ⟨_, h⟩ := s.setEntry_frame b line d t
  rw [h]
  rfl

/-- The part once the transaction that the request of `p` opened has closed with state `d`, and the request is over. -/
def Chip.served (s : Chip) (p : Packet) (j b : Nat) (t : HTxn) (d : Dir) : Chip :=
  (s.opened p j b t).lineClosed (256 * b) s.pool.nextReq b (p.lineOf j) d

theorem Chip.served_acts (s : Chip) (p : Packet) (j b : Nat) (t : HTxn) (hquiet : s.homeQuiet) (d : Dir) :
    (s.served p j b t d).dirOf b (p.lineOf j) = d ∧ (s.served p j b t d).homeQuiet
      ∧ s.served p j b t d = { s with pool := (s.served p j b t d).pool } := by
  obtain ⟨htxns, hwaits, hdone, _⟩ := s.opened_alone p j b t hquiet
  obtain ⟨hdir, hrest, _, hframe⟩ := (s.opened p j b t).lineClosed_acts (256 * b) s.pool.nextReq b (p.lineOf j) d t htxns hwaits hdone
  obtain ⟨banks, hopened⟩ := s.opened_frame p j b t
  exact ⟨hdir, hrest, Chip.poolOnly_trans (by rw [hopened]; rfl) hframe⟩

/-- Where the line needs no snoop, nothing is sent and the open transaction goes on. -/
theorem Chip.homeRequest_unsnooped (s : Chip) (p : Packet) (j b : Nat) (hadmits : s.homeAdmits p j b) (hquiet : s.homeQuiet)
    (hrequest : cohIsRequest (Coh.ofBody p.body).msg = true)
    (hatomic : (Coh.ofBody p.body).msg = mAtomicAny → atomicCheck (Coh.ofBody p.body) = .run) (kind : TxnKind)
    (hkind : (s.received p j b).kindOf p b (p.lineOf j) = kind) (hevict : kind ≠ .evict) (d : Dir) (hdir : s.dirOf b (p.lineOf j) = d)
    (hmine : d = .owned p.src → kind = .wrBack ∨ kind = .rdCurrent) (hsnoops : s.snoopsFor kind d p.src = []) :
    s.homeRequest p none = (s.opened p j b (p.opens s.pool.nextReq j kind d [])).homeSettle := by
  rw [s.homeRequest_opens p j b hadmits hquiet hrequest hatomic kind hkind hevict (by rw [hdir]; exact hmine), hdir, hsnoops]
  rfl

end Sys2Proof.Machine
end

section
/-!
Reads and write-backs that a home at rest takes (spec/04_coherence.md R134, R136 to R138, R140, R142, Table 4.6): a line that nobody
holds is granted at once, and the owner of an owned line is snooped.
-/
open Sys2Proof Sys2Proof.Machine
namespace Sys2Proof.Machine

/-! ### Reads of a line that nobody holds -/

theorem exec_homeRequest (c : Instr) (p : Packet) (s : State) (haccepts : s.accepts p)
    (hc : c = .rdShared p ∨ c = .rdOwn p ∨ c = .rdCurrent p ∨ c = .wrBack p ∨ c = .cleanEvict p) :
    exec c s = .next (s.after (((s.taken p).homeRequest p none).flowApplied p)) := by
  have hrun : exec c s = .next (s.after (s.toChip.consume p (fun s => s.homeRequest p none))) := by
    rcases hc with rfl | rfl | rfl | rfl | rfl <;> rfl
  rw [hrun, Chip.consume_of_accepts _ _ _ haccepts]

/-- The kinds of transaction that reads open, by their message. -/
def readKind (msg : Nat) (kind : TxnKind) : Prop :=
  (kind = .rdShared ∧ msg = mRdShared) ∨ (kind = .rdOwn ∧ msg = mRdOwn) ∨ (kind = .rdCurrent ∧ msg = mRdCurrent)

theorem readKind.kindOf {p : Packet} {kind : TxnKind} (h : readKind (Coh.ofBody p.body).msg kind) (s : Chip) (b line : Nat) :
    s.kindOf p b line = kind := by
  unfold Chip.kindOf
  obtain ⟨rfl, hmsg⟩ | ⟨rfl, hmsg⟩ | ⟨rfl, hmsg⟩ := h <;> simp [hmsg, mRdShared, mRdOwn, mRdCurrent]

theorem readKind.isRequest {msg : Nat} {kind : TxnKind} (h : readKind msg kind) :
    cohIsRequest msg = true ∧ msg ≠ mAtomicAny ∧ kind ≠ .evict ∧ kind ≠ .backInval ∧ kind ≠ .wrBack ∧ kind ≠ .far := by
  obtain ⟨rfl, rfl⟩ | ⟨rfl, rfl⟩ | ⟨rfl, rfl⟩ := h <;> decide

/-- A read of a line that nobody holds and that the write cache has is answered at once. -/
theorem Chip.homeRequest_read (s : Chip) (p : Packet) (j b : Nat) (kind : TxnKind) (l : CacheLine) (hadmits : s.homeAdmits p j b)
    (hquiet : s.homeQuiet) (hread : readKind (Coh.ofBody p.body).msg kind) (hdir : s.dirOf b (p.lineOf j) = .invalid)
    (hcached : s.cached p.partition roleHOME 0 (p.lineOf j) = some l) :
    s.homeRequest p none = (s.served p j b (p.opens s.pool.nextReq j kind .invalid [])
        (if kind = .rdCurrent then .invalid else .owned p.src)).complete p
      { msg := mData, lmask := 2 ^ j, grant := if kind = .rdCurrent then 0 else 2 } (payloadOf [(j, l.data)]) := by
  have hchecks := hadmits
  obtain ⟨_, _, hmask, _, _, _, _, _, hbank, _⟩ := hchecks
  obtain ⟨hrequest, hatomic, hevict, hback, hwrite, hfar⟩ := hread.isRequest
  rw [s.homeRequest_unsnooped p j b hadmits hquiet hrequest (fun h => absurd h hatomic) kind (hread.kindOf _ b _) hevict .invalid hdir
    (fun h => nomatch h) rfl, ← hmask]
  obtain ⟨htxns, hwaits, hdone, hreq⟩ := s.opened_alone p j b (p.opens s.pool.nextReq j kind .invalid []) hquiet
  obtain ⟨banks, hopened⟩ := s.opened_frame p j b (p.opens s.pool.nextReq j kind .invalid [])
  refine Chip.homeSettle_of_resolved _ _ _ _ p _ _ htxns hdone rfl rfl ?_ (s.served_acts p j b _ hquiet _).2.1
  rw [Chip.advanceTxn_memory _ _ _ rfl l hback hwrite (by simp [htxns, Tab.find]) (by rw [hopened]; exact hcached)]
  exact (if_neg hfar).trans
    (Chip.applyRead_alone _ _ _ j b _ p htxns rfl rfl hback (by rw [hopened]; exact hbank) hreq l.data rfl hread)

/-- Settles O29: the transaction needs no snoop and finds its line in the write cache, so it closes as it opens. -/
theorem readOfAnUnheldLineIsGrantedAtOnce : Obligations.ReadOfAnUnheldLineIsGrantedAtOnce := by
  unfold Obligations.ReadOfAnUnheldLineIsGrantedAtOnce
  intro c p msg grant next j b l s hc haccepts hmsg hadmits hquiet hdir hcached
  have hread : ∃ kind, readKind msg kind ∧ grant = (if kind = .rdCurrent then 0 else 2)
      ∧ next = (if kind = .rdCurrent then .invalid else .owned p.src) := by
    obtain ⟨_, rfl, rfl, rfl⟩ | ⟨_, rfl, rfl, rfl⟩ | ⟨_, rfl, rfl, rfl⟩ := hc
    · exact ⟨.rdShared, .inl ⟨rfl, rfl⟩, rfl, rfl⟩
    · exact ⟨.rdOwn, .inr (.inl ⟨rfl, rfl⟩), rfl, rfl⟩
    · exact ⟨.rdCurrent, .inr (.inr ⟨rfl, rfl⟩), rfl, rfl⟩
  obtain ⟨kind, hkind, rfl, rfl⟩ := hread
  refine ⟨(s.taken p).served p j b (p.opens (s.taken p).pool.nextReq j kind .invalid []) _, ?_, (s.taken p).served_acts p j b _ hquiet _⟩
  rw [exec_homeRequest c p s haccepts (by tauto), (s.taken p).homeRequest_read p j b kind l hadmits hquiet (hmsg ▸ hkind) hdir hcached]

/-! ### Requests for a line that another host owns -/

theorem Packet.lineOf_split (p : Packet) (j : Nat) (hj : j < 4) : p.lineOf j % 4 = j ∧ p.lineOf j / 4 = (Coh.ofBody p.body).saddr := by
  unfold Packet.lineOf
  omega

theorem Chip.due_startTimer (s : Chip) (t : Timer) (n : Nat) : (s.startTimer t n).due t = some (s.raw + n) := by
  simp [Chip.startTimer, Chip.due]

/-- One snoop, of a host that has not failed, is sent with its timer (R134, R142). -/
theorem Chip.sendSnoops_one (s : Chip) (i tc : Nat) (t : HTxn) (x : Snoop) (hsnoops : t.snoops = [x]) (hopen : x.done = false)
    (hfailed : s.hostFailed x.eid = false) :
    s.sendSnoops i tc t = ((s.setTxn i t).startTimer (.snoop i x.eid) s.txnTimeout).send
      { cls := clsCOH, tc := tc, partition := t.part, dst := x.eid, src := s.selfEid, fence := true
        body := Coh.body { msg := x.kind.msg, lmask := 2 ^ (t.line % 4), txn := i, saddr := t.line / 4 } } := by
  have hsame : { t with snoops := [x] } = t := by rw [← hsnoops]
  unfold Chip.sendSnoops
  simp only [hsnoops, List.map_cons, List.map_nil, hfailed, Bool.false_eq_true, if_false, List.filter_cons, List.filter_nil, hopen,
    Bool.not_false, if_true, List.foldl_cons, List.foldl_nil, hsame]
  rfl

/-- The snoop of the owner that each kind of request asks for (Table 4.6). -/
def ownerSnoop (msg : Nat) (kind : TxnKind) (sk : SnoopKind) : Prop :=
  (msg = mRdShared ∧ kind = .rdShared ∧ sk = .share) ∨ (msg = mRdOwn ∧ kind = .rdOwn ∧ sk = .inv)
    ∨ (msg = mRdCurrent ∧ kind = .rdCurrent ∧ sk = .cur) ∨ (msg = mWrBack ∧ kind = .wrBack ∧ sk = .inv)

theorem ownerSnoop.isRequest {msg : Nat} {kind : TxnKind} {sk : SnoopKind} (h : ownerSnoop msg kind sk) :
    cohIsRequest msg = true ∧ msg ≠ mAtomicAny ∧ kind ≠ .evict := by
  obtain ⟨rfl, rfl, _⟩ | ⟨rfl, rfl, _⟩ | ⟨rfl, rfl, _⟩ | ⟨rfl, rfl, _⟩ := h <;> decide

theorem ownerSnoop.kindOf {p : Packet} {kind : TxnKind} {sk : SnoopKind} (h : ownerSnoop (Coh.ofBody p.body).msg kind sk) (s : Chip)
    (b line : Nat) : s.kindOf p b line = kind := by
  unfold Chip.kindOf
  obtain ⟨hmsg, rfl, _⟩ | ⟨hmsg, rfl, _⟩ | ⟨hmsg, rfl, _⟩ | ⟨hmsg, rfl, _⟩ := h <;>
    simp [hmsg, mRdShared, mRdOwn, mRdCurrent, mWrBack]

theorem ownerSnoop.snoopsFor {msg : Nat} {kind : TxnKind} {sk : SnoopKind} (h : ownerSnoop msg kind sk) (s : Chip) (x r : Nat)
    (hother : x ≠ r) : s.snoopsFor kind (.owned x) r = [{ eid := x, kind := sk, owner := true }] := by
  obtain ⟨_, rfl, rfl⟩ | ⟨_, rfl, rfl⟩ | ⟨_, rfl, rfl⟩ | ⟨_, rfl, rfl⟩ := h <;> simp [Chip.snoopsFor, hother]

/-- The part with the transaction of `p` open on a line that host `x` owns, and the timer of the one snoop running. -/
def Chip.snooped (s : Chip) (p : Packet) (j b : Nat) (kind : TxnKind) (sk : SnoopKind) (x : Nat) : Chip :=
  (s.opened p j b (p.opens s.pool.nextReq j kind (.owned x) [{ eid := x, kind := sk, owner := true }])).startTimer (.snoop (256 * b) x)
    s.txnTimeout

theorem Chip.selfEid_of_regs {s t : Chip} (h : t.regs = s.regs) : t.selfEid = s.selfEid := by
  unfold Chip.selfEid Chip.active Chip.rd
  rw [h]

theorem Chip.sendSnoops_owner (s : Chip) (p : Packet) (j b x : Nat) (kind : TxnKind) (sk : SnoopKind) (hj : j < 4)
    (hfailed : s.hostFailed x = false) :
    ((s.received p j b).setEntry b (p.lineOf j) (.owned x) (some (256 * b))).sendSnoops (256 * b) p.tc
        (p.opens s.pool.nextReq j kind (.owned x) [{ eid := x, kind := sk, owner := true }])
      = (s.snooped p j b kind sk x).send
        { cls := clsCOH, tc := p.tc, partition := p.partition, dst := x, src := (s.snooped p j b kind sk x).selfEid, fence := true
          body := Coh.body { msg := sk.msg, lmask := 2 ^ j, txn := 256 * b, saddr := (Coh.ofBody p.body).saddr } } := by
  obtain ⟨hrem, hquot⟩ := p.lineOf_split j hj
  have hbusy := Chip.poolOnly_trans (s.received_poolOnly p j b)
    ((s.received p j b).setEntry_poolOnly b (p.lineOf j) (.owned x) (some (256 * b)))
  have htimeout : ((s.received p j b).setEntry b (p.lineOf j) (.owned x) (some (256 * b))).txnTimeout = s.txnTimeout := by rw [hbusy]; rfl
  have hself : (s.snooped p j b kind sk x).selfEid = ((s.received p j b).setEntry b (p.lineOf j) (.owned x) (some (256 * b))).selfEid :=
    Chip.selfEid_of_regs rfl
  rw [Chip.sendSnoops_one _ _ _ _ _ rfl rfl (by rw [hbusy]; exact hfailed), htimeout, hself]
  simp only [Packet.opens, hrem, hquot]
  rfl

/-- A request for an owned line snoops its owner and waits for the answer. -/
theorem Chip.homeRequest_snoops (s : Chip) (p : Packet) (j b x : Nat) (kind : TxnKind) (sk : SnoopKind) (hadmits : s.homeAdmits p j b)
    (hquiet : s.homeQuiet) (hsnoop : ownerSnoop (Coh.ofBody p.body).msg kind sk) (hdir : s.dirOf b (p.lineOf j) = .owned x)
    (hother : x ≠ p.src) (hfailed : s.hostFailed x = false) :
    s.homeRequest p none = (s.snooped p j b kind sk x).send
      { cls := clsCOH, tc := p.tc, partition := p.partition, dst := x, src := (s.snooped p j b kind sk x).selfEid, fence := true
        body := Coh.body { msg := sk.msg, lmask := 2 ^ j, txn := 256 * b, saddr := (Coh.ofBody p.body).saddr } } := by
  have hchecks := hadmits
  obtain ⟨_, hj, _⟩ := hchecks
  obtain ⟨hrequest, hatomic, hevict⟩ := hsnoop.isRequest
  obtain ⟨htxns, hwaits, hdone, _⟩ := s.opened_alone p j b
    (p.opens s.pool.nextReq j kind (.owned x) [{ eid := x, kind := sk, owner := true }]) hquiet
  rw [s.homeRequest_opens p j b hadmits hquiet hrequest (fun h => absurd h hatomic) kind (hsnoop.kindOf _ b _) hevict
      (by rw [hdir]; exact fun h => absurd (Dir.owned.inj h) hother), hdir, hsnoop.snoopsFor s x p.src hother,
    s.sendSnoops_owner p j b x kind sk hj hfailed]
  have hsent : ∀ q, ((s.snooped p j b kind sk x).send q).pool = (s.snooped p j b kind sk x).pool := fun q => Chip.core_pool (Chip.send_core _ q)
  exact Chip.homeSettle_of_snooping _ (256 * b) (p.opens s.pool.nextReq j kind (.owned x) [{ eid := x, kind := sk, owner := true }])
    { eid := x, kind := sk, owner := true } (by rw [hsent]; exact htxns) (by rw [hsent]; exact hwaits) (by rw [hsent]; exact hdone)
    List.mem_cons_self rfl

/-- Settles O30: the one snoop of the owner is sent, and the home waits for its answer. -/
theorem requestForAnOwnedLineSnoopsItsOwner : Obligations.RequestForAnOwnedLineSnoopsItsOwner := by
  unfold Obligations.RequestForAnOwnedLineSnoopsItsOwner
  intro c p msg kind sk j b x s hc haccepts hmsg hadmits hquiet hdir hother hfailed
  have hsnoop : ownerSnoop msg kind sk := by unfold ownerSnoop; tauto
  have hraw : (s.taken p).raw = s.raw := Chip.core_raw (s.toChip.takeLocal_core p)
  obtain ⟨htxns, _⟩ := (s.taken p).opened_alone p j b
    (p.opens (s.taken p).pool.nextReq j kind (.owned x) [{ eid := x, kind := sk, owner := true }]) hquiet
  obtain ⟨_, hopened⟩ := (s.taken p).opened_frame p j b
    (p.opens (s.taken p).pool.nextReq j kind (.owned x) [{ eid := x, kind := sk, owner := true }])
  refine ⟨(s.taken p).snooped p j b kind sk x, ?_, ?_, (s.taken p).dirOf_opened p j b _, htxns, ?_⟩
  · rw [exec_homeRequest c p s haccepts (by tauto),
      (s.taken p).homeRequest_snoops p j b x kind sk hadmits hquiet (hmsg ▸ hsnoop) hdir hother hfailed]
  · rw [Chip.snooped, Chip.due_startTimer, hopened, ← hraw]
    rfl
  · rw [Chip.snooped, hopened]
    rfl

end Sys2Proof.Machine
end

section
/-!
What reaches memory at the home (spec/04_coherence.md R136, R137, R147, R149, R150): write-backs, evictions, far atomics, and the FetchAdd
of a combining entry.
-/
open Sys2Proof Sys2Proof.Machine
namespace Sys2Proof.Machine

/-! ### Write-backs and evictions -/

/-- The part once the request of `p` has written its line and its transaction has closed, nobody holding the line. -/
def Chip.written (s : Chip) (p : Packet) (j b : Nat) (t : HTxn) (data : List Byte) : Chip :=
  ((s.opened p j b t).writeMemory p.partition 0 (p.lineOf j) data).lineClosed (256 * b) s.pool.nextReq b (p.lineOf j) .invalid

/-- The write makes the bytes a dirty HOME line (R136), and leaves the home at rest. -/
theorem Chip.written_acts (s : Chip) (p : Packet) (j b : Nat) (t : HTxn) (data : List Byte) (hquiet : s.homeQuiet)
    (hroom : s.cacheHasRoom p.partition) :
    (s.written p j b t data).dirOf b (p.lineOf j) = .invalid ∧ (s.written p j b t data).homeQuiet
      ∧ s.written p j b t data = { s with pool := (s.written p j b t data).pool }
      ∧ (s.written p j b t data).cached p.partition roleHOME 0 (p.lineOf j)
        = some { data := data, dirty := true, wrote := s.pool.writes + 1 } := by
  obtain ⟨htxns, hwaits, hdone, _⟩ := s.opened_alone p j b t hquiet
  obtain ⟨banks, hopened⟩ := s.opened_frame p j b t
  have hput := (s.opened p j b t).putLine_of_room p.partition roleHOME 0 (p.lineOf j) data (s.cacheHasRoom_opened p j b _ t hroom)
  obtain ⟨hdir, hrest, hcache, hframe⟩ := ((s.opened p j b t).writeMemory p.partition 0 (p.lineOf j) data).lineClosed_acts (256 * b)
    s.pool.nextReq b (p.lineOf j) .invalid t (by unfold Chip.writeMemory; rw [hput]; exact htxns)
    (by unfold Chip.writeMemory; rw [hput]; exact hwaits) (by unfold Chip.writeMemory; rw [hput]; exact hdone)
  refine ⟨hdir, hrest, Chip.poolOnly_trans ?_ hframe, ?_⟩
  · unfold Chip.writeMemory
    rw [hput, hopened]
    rfl
  · have hwritten : (s.written p j b t data).pool.cache = ((s.opened p j b t).writeMemory p.partition 0 (p.lineOf j) data).pool.cache := hcache
    have hwrites : (s.opened p j b t).pool.writes = s.pool.writes := by rw [hopened]; rfl
    unfold Chip.cached
    rw [hwritten, Chip.writeMemory, hput, hwrites]
    exact Tab.find_put_same _ _ _

theorem Chip.kindOf_wrBack (s : Chip) (p : Packet) (b line : Nat) (hmsg : (Coh.ofBody p.body).msg = mWrBack) : s.kindOf p b line = .wrBack := by
  simp [Chip.kindOf, hmsg, mRdShared, mRdOwn, mRdCurrent, mWrBack]

/-- The owner's WrBack needs no snoop: its bytes are written, and it is acknowledged (R137). -/
theorem Chip.homeRequest_wrBack (s : Chip) (p : Packet) (j b : Nat) (hadmits : s.homeAdmits p j b) (hquiet : s.homeQuiet)
    (hmsg : (Coh.ofBody p.body).msg = mWrBack) (hdir : s.dirOf b (p.lineOf j) = .owned p.src) (hroom : s.cacheHasRoom p.partition) :
    s.homeRequest p none = (s.written p j b (p.opens s.pool.nextReq j .wrBack (.owned p.src) []) ((p.payload.drop (64 * j)).take 64)).complete p
      { msg := mWbAck, lmask := 2 ^ j } [] := by
  have hchecks := hadmits
  obtain ⟨_, _, hmask, _, _, _, _, _, hbank, _⟩ := hchecks
  rw [s.homeRequest_unsnooped p j b hadmits hquiet (by rw [hmsg]; rfl) (by rw [hmsg]; exact fun h => absurd h (by decide)) .wrBack
    (Chip.kindOf_wrBack _ p b _ hmsg) (by decide) (.owned p.src) hdir (fun _ => .inl rfl) (by simp [Chip.snoopsFor]), ← hmask]
  obtain ⟨htxns, _, hdone, hreq⟩ := s.opened_alone p j b (p.opens s.pool.nextReq j .wrBack (.owned p.src) []) hquiet
  obtain ⟨banks, hopened⟩ := s.opened_frame p j b (p.opens s.pool.nextReq j .wrBack (.owned p.src) [])
  obtain ⟨_, hrest, _⟩ := s.written_acts p j b (p.opens s.pool.nextReq j .wrBack (.owned p.src) []) ((p.payload.drop (64 * j)).take 64)
    hquiet hroom
  refine Chip.homeSettle_of_resolved _ _ _ _ p _ _ htxns hdone rfl rfl ?_ hrest
  rw [Chip.advanceTxn_write _ _ _ rfl rfl]
  exact Chip.applyWrite_alone _ _ _ j b _ p htxns rfl rfl (show TxnKind.wrBack ≠ .backInval by decide) (by rw [hopened]; exact hbank) hreq
    (s.cacheHasRoom_opened p j b _ _ hroom) hmsg

/-- The part once the sender of CleanEvict `p` holds its line no more, and the request is over. -/
def Chip.evicted (s : Chip) (p : Packet) (j b : Nat) : Chip :=
  ((s.received p j b).setEntry b (p.lineOf j) ((s.dirOf b (p.lineOf j)).without p.src) none).modPool
    (fun q => { q with reqs := q.reqs.erase s.pool.nextReq })

theorem Chip.evicted_acts (s : Chip) (p : Packet) (j b : Nat) (hquiet : s.homeQuiet) : (s.evicted p j b).homeQuiet
    ∧ s.evicted p j b = { s with pool := (s.evicted p j b).pool }
    ∧ (s.evicted p j b).dirOf b (p.lineOf j) = (s.dirOf b (p.lineOf j)).without p.src := by
  obtain ⟨_, hreceived⟩ := s.received_frame p j b
  obtain ⟨_, hentry⟩ := (s.received p j b).setEntry_frame b (p.lineOf j) ((s.dirOf b (p.lineOf j)).without p.src) none
  refine ⟨?_, ?_, ?_⟩
  · rw [Chip.evicted, hentry, hreceived]
    exact hquiet
  · rw [Chip.evicted, hentry, hreceived]
    rfl
  · unfold Chip.evicted
    rw [Chip.dirOf_modPool _ _ _ _ rfl, Chip.dirOf_setEntry]

theorem Chip.homeRequest_cleanEvict (s : Chip) (p : Packet) (j b : Nat) (hadmits : s.homeAdmits p j b) (hquiet : s.homeQuiet)
    (hmsg : (Coh.ofBody p.body).msg = mCleanEvict) :
    s.homeRequest p none = (s.evicted p j b).complete p { msg := mEvictAck, lmask := 2 ^ j } [] := by
  have hchecks := hadmits
  obtain ⟨_, _, hmask, _⟩ := hchecks
  obtain ⟨_, hentry⟩ := (s.received p j b).setEntry_frame b (p.lineOf j) ((s.dirOf b (p.lineOf j)).without p.src) none
  obtain ⟨hrest, _⟩ := s.evicted_acts p j b hquiet
  have hack : HomeReq.completion { pkt := p, left := [] } = ({ msg := mEvictAck, lmask := 2 ^ j }, []) := by
    simp [HomeReq.completion, hmsg, hmask, mCleanEvict, mWrBack]
  have hreq : ((s.received p j b).setEntry b (p.lineOf j) ((s.dirOf b (p.lineOf j)).without p.src) none).pool.reqs.find s.pool.nextReq
      = some { pkt := p, left := [j] } := by
    rw [hentry]
    exact s.received_req p j b
  have hend : ((s.received p j b).setEntry b (p.lineOf j) ((s.dirOf b (p.lineOf j)).without p.src) none).endLine s.pool.nextReq j id
      = (s.evicted p j b).complete p (HomeReq.completion { pkt := p, left := [] }).1 (HomeReq.completion { pkt := p, left := [] }).2 :=
    Chip.endLine_last _ s.pool.nextReq j p id { pkt := p, left := [] } hreq rfl rfl rfl rfl
  rw [s.homeRequest_evict p j b hadmits hquiet hmsg, hend, hack]
  exact Chip.homeSettle_of_quiet _ ((s.evicted p j b).complete_quiet p _ _ hrest)

/-- Settles O31: the owner's bytes are written before the line is let go of; an eviction takes its sender from the entry. -/
theorem writeBackReachesMemory : Obligations.WriteBackReachesMemory := by
  unfold Obligations.WriteBackReachesMemory
  refine fun p j b s haccepts hadmits hquiet => ⟨fun hmsg hdir hroom => ?back, fun hmsg => ?evict⟩
  case back =>
    refine ⟨(s.taken p).written p j b (p.opens (s.taken p).pool.nextReq j .wrBack (.owned p.src) []) _, ?_,
      (s.taken p).written_acts p j b _ _ hquiet hroom⟩
    rw [exec_homeRequest _ p s haccepts (by tauto), (s.taken p).homeRequest_wrBack p j b hadmits hquiet hmsg hdir hroom]
  case evict =>
    obtain ⟨hrest, hframe, hdir⟩ := (s.taken p).evicted_acts p j b hquiet
    refine ⟨(s.taken p).evicted p j b, ?_, hrest, hframe, fun howned => ?_, fun l hshared => ?_⟩
    · rw [exec_homeRequest _ p s haccepts (by tauto), (s.taken p).homeRequest_cleanEvict p j b hadmits hquiet hmsg]
    · rw [hdir, howned]
      simp [Dir.without]
    · rw [hdir, hshared]
      rfl

/-! ### Far atomics -/

theorem exec_atomicAny (p : Packet) (s : State) : exec (.atomicAny p) s = .next (s.after (s.toChip.atomicIn p)) := rfl

/-- An AtomicAny that is not combined, at its home, is a request of the home (R149). -/
theorem Chip.atomicIn_of_home (s : Chip) (p : Packet) (haccepts : s.accepts p) (hcombines : (s.taken p).combines p = false)
    (hdst : p.dst = (s.taken p).selfEid) : s.atomicIn p = ((s.taken p).homeRequest p none).flowApplied p := by
  unfold Chip.atomicIn
  rw [Chip.consume_of_accepts _ _ _ haccepts]
  have hfull : (s.taken p).overfull p = none := by simp [Chip.overfull, hcombines]
  have hnone : (s.taken p).combine p = none := by simp [Chip.combine, hcombines]
  simp only [hfull, hnone, Option.isSome_none, Bool.false_eq_true, if_false, hdst, beq_self_eq_true, if_true]

theorem Chip.kindOf_far (s : Chip) (p : Packet) (b line : Nat) (hmsg : (Coh.ofBody p.body).msg = mAtomicAny)
    (hcaching : s.cachingHost p.partition p.src = false) : s.kindOf p b line = .far := by
  simp [Chip.kindOf, hmsg, hcaching, mRdShared, mRdOwn, mRdCurrent, mWrBack, mCleanEvict, mAtomicAny]

/-- An atomic of a sender that may not be granted its line, on a line that nobody holds, is applied at the home (R150). -/
theorem Chip.homeRequest_far (s : Chip) (p : Packet) (j b : Nat) (l : CacheLine) (hadmits : s.homeAdmits p j b) (hquiet : s.homeQuiet)
    (hmsg : (Coh.ofBody p.body).msg = mAtomicAny) (hcheck : atomicCheck (Coh.ofBody p.body) = .run)
    (hcaching : s.cachingHost p.partition p.src = false) (hdir : s.dirOf b (p.lineOf j) = .invalid)
    (hcached : s.cached p.partition roleHOME 0 (p.lineOf j) = some l) (hroom : s.cacheHasRoom p.partition) :
    s.homeRequest p none = (s.written p j b (p.opens s.pool.nextReq j .far .invalid []) (p.farLine l.data)).complete p
      { msg := mAtomicRsp, lmask := 2 ^ j, aop := (Coh.ofBody p.body).aop, size := (Coh.ofBody p.body).size
        offset := (Coh.ofBody p.body).offset, opa := p.farOld l.data } [] := by
  have hchecks := hadmits
  obtain ⟨_, _, hmask, _, _, _, _, _, hbank, _⟩ := hchecks
  have hkind : (s.received p j b).kindOf p b (p.lineOf j) = .far :=
    Chip.kindOf_far _ p b _ hmsg (by rw [s.received_poolOnly p j b]; exact hcaching)
  rw [s.homeRequest_unsnooped p j b hadmits hquiet (by rw [hmsg]; rfl) (fun _ => hcheck) .far hkind (by decide) .invalid hdir
    (fun h => nomatch h) rfl, ← hmask]
  obtain ⟨htxns, _, hdone, hreq⟩ := s.opened_alone p j b (p.opens s.pool.nextReq j .far .invalid []) hquiet
  obtain ⟨banks, hopened⟩ := s.opened_frame p j b (p.opens s.pool.nextReq j .far .invalid [])
  obtain ⟨_, hrest, _⟩ := s.written_acts p j b (p.opens s.pool.nextReq j .far .invalid []) (p.farLine l.data) hquiet hroom
  refine Chip.homeSettle_of_resolved _ _ _ _ p _ _ htxns hdone rfl rfl ?_ hrest
  rw [Chip.advanceTxn_memory _ _ _ rfl l (show TxnKind.far ≠ .backInval by decide) (show TxnKind.far ≠ .wrBack by decide)
    (by simp [htxns, Tab.find]) (by rw [hopened]; exact hcached)]
  exact (if_pos rfl).trans (Chip.applyFar_alone _ _ _ j b _ p htxns rfl rfl (show TxnKind.far ≠ .backInval by decide)
    (by rw [hopened]; exact hbank) hreq l.data (s.cacheHasRoom_opened p j b _ _ hroom) hmsg)

/-! ### The end of a combining window -/

theorem exec_combiningWindowClose (n : Nat) (s : State) : exec (.combiningWindowClose n) s = .next (s.after (s.combWindow n)) := rfl

/-- Sending a request changes nothing of the pool but the list of ended requests. -/
theorem Chip.sendAsk_pool (s : Chip) (tag : Nat) (p : Packet) : ∃ ended, (s.sendAsk tag p).pool = { s.pool with ended := ended } := by
  have hsend : ∀ q, (s.send q).pool = s.pool := fun q => Chip.core_pool (s.send_core q)
  have hend : ∀ (u : Chip) st v, u.pool = s.pool → (u.endAsk tag st v []).pool = { s.pool with ended := s.pool.ended ++ [⟨tag, st, v, []⟩] } :=
    fun u st v hu => by rw [← hu]; rfl
  unfold Chip.sendAsk
  dsimp only
  split
  · exact ⟨_, hend _ _ _ rfl⟩
  · split
    · exact ⟨_, hsend _⟩
    · split
      · exact ⟨_, hend _ _ _ (by rw [Chip.logPool, Chip.log_pool])⟩
      · exact ⟨_, hend _ _ _ (by rw [Chip.logPool, Chip.log_pool])⟩
      · exact ⟨_, hend _ _ _ (by rw [Chip.log_pool])⟩
      · exact ⟨_, hsend _⟩

/-- A request of this E9 is open under its tag, and the combining entries are as they were. -/
theorem Chip.ask_opens (s : Chip) (who : Asker) (part tc eid : Nat) (c : Coh) (payload : List Byte) :
    ((s.ask who part tc eid c payload).1.pool.asks.find s.freshTag).map (fun a => (a.who, a.pkt.src, a.pkt.body))
        = some (who, eid, Coh.body { c with tag := s.freshTag })
      ∧ (s.ask who part tc eid c payload).1.pool.combs = s.pool.combs := by
  unfold Chip.ask
  dsimp only
  refine ⟨?_, ?_⟩
  · rw [Chip.sendAsk_asks, Chip.startTimer_pool, Chip.modPool_pool, Tab.find_put_same]
    rfl
  · obtain ⟨_, h⟩ := Chip.sendAsk_pool _ _ _
    rw [h]
    rfl

/-- An open combining entry that closes sends one FetchAdd with its sums (R147). -/
theorem Chip.closeComb_open (s : Chip) (n : Nat) (e : Comb) (h : s.pool.combs.find n = some e) (hopen : e.closed = false) :
    (s.closeComb n).pool.combs.find n = some { e with closed := true }
      ∧ ((s.closeComb n).pool.asks.find s.freshTag).map (fun a => (a.who, a.pkt.src, a.pkt.body))
        = some (.comb n, s.selfEid, Coh.body { msg := mAtomicAny, tag := s.freshTag, lmask := e.lmask, saddr := e.saddr, count := e.count
                                               aop := 1, size := e.size, offset := e.offset, opa := e.sum }) := by
  let t := (s.modPool (fun q => { q with combs := q.combs.put n { e with closed := true } })).stopTimer (.combining n)
  have hclose : s.closeComb n = (t.ask (.comb n) e.part e.tc t.selfEid { msg := mAtomicAny, lmask := e.lmask, saddr := e.saddr
                                                                         count := e.count, aop := 1, size := e.size, offset := e.offset
                                                                         opa := e.sum } []).1 := by
    unfold Chip.closeComb
    simp only [h, hopen, Bool.false_eq_true, if_false]
    rfl
  obtain ⟨hask, hcombs⟩ := t.ask_opens (.comb n) e.part e.tc t.selfEid
    { msg := mAtomicAny, lmask := e.lmask, saddr := e.saddr, count := e.count, aop := 1, size := e.size, offset := e.offset, opa := e.sum } []
  rw [hclose]
  exact ⟨by rw [hcombs]; exact Tab.find_put_same _ _ _, hask⟩

/-- Settles O32: the far atomic is a transaction without snoops that writes its line; the window's end closes its entry with one request. -/
theorem farAtomicUpdatesTheLine : Obligations.FarAtomicUpdatesTheLine := by
  unfold Obligations.FarAtomicUpdatesTheLine
  refine ⟨?far, fun n s hstopped => ?stopped, fun n e c s hexpire hcomb hopen => ?window⟩
  case far =>
    intro p j b l s haccepts hadmits hquiet c old hmsg hcheck hcombines hdst hcaching hdir hcached hroom
    obtain ⟨hfree, hrest, hframe, hline⟩ := (s.taken p).written_acts p j b (p.opens (s.taken p).pool.nextReq j .far .invalid [])
      (p.farLine l.data) hquiet hroom
    refine ⟨_, ?_, hline, hfree, hrest, hframe⟩
    rw [exec_atomicAny, Chip.atomicIn_of_home _ p haccepts hcombines hdst,
      (s.taken p).homeRequest_far p j b l hadmits hquiet hmsg hcheck hcaching hdir hcached hroom]
    rfl
  case stopped =>
    rw [exec_combiningWindowClose]
    simp only [Chip.combWindow, hstopped]
  case window =>
    obtain ⟨hclosed, hask⟩ := c.closeComb_open n e hcomb hopen
    refine ⟨c.closeComb n, ?_, hclosed, ?_⟩
    · rw [exec_combiningWindowClose]
      simp only [Chip.combWindow, hexpire]
    · have hsent := congrArg (Option.map (fun x : Asker × Nat × Nat => (x.1, x.2.1, Coh.ofBody x.2.2))) hask
      rw [Option.map_map] at hsent
      exact hsent

end Sys2Proof.Machine
end

section
/-!
Responses to snoops (spec/04_coherence.md R140, R141, Table 4.7).
-/
open Sys2Proof Sys2Proof.Machine
namespace Sys2Proof.Machine

/-! ### Snoop responses -/

theorem exec_snoopResponse (p : Packet) (s : State) (h : s.accepts p) :
    exec (.snoopResponse p) s = .next (s.after (((s.taken p).snoopResponse p).flowApplied p)) := by
  have hrun : exec (.snoopResponse p) s = .next (s.after (s.toChip.consume p (fun s => s.snoopResponse p))) := rfl
  rw [hrun, Chip.consume_of_accepts _ _ _ h]

/-- A response to a transaction that is not open is a stray (R141). -/
theorem Chip.snoopResponse_stray (s : Chip) (p : Packet) (h : s.pool.txns.find (Coh.ofBody p.body).txn = none) :
    s.snoopResponse p = s.count A.HOM_STATUS F.HOM_STATUS_STRAY := by
  simp only [Chip.snoopResponse, h]

/-- A transaction whose snoop of host `e` now stands as `m`. -/
def HTxn.answered (t : HTxn) (e : Nat) (m : Snoop) : HTxn := { t with snoops := t.snoops.map (fun y => if y.eid == e then m else y) }

/-- The snoops of other hosts stand as they did. -/
theorem HTxn.mem_answered (t : HTxn) (e : Nat) (m x : Snoop) (hx : x ∈ t.snoops) (hother : x.eid ≠ e) : x ∈ (t.answered e m).snoops :=
  List.mem_map.2 ⟨x, hx, if_neg (by simpa using hother)⟩

section Response
variable (s : Chip) (p : Packet) (t : HTxn) (n x : Snoop)
variable (htxns : s.pool.txns = [((Coh.ofBody p.body).txn, t)]) (hwaits : s.pool.waits = []) (hdone : s.pool.done = [])
variable (hline : t.line / 4 = (Coh.ofBody p.body).saddr) (hn : t.snoops.find? (fun y => y.eid == p.src) = some n) (hopen : n.done = false)
variable (hx : x ∈ t.snoops) (hother : x.eid ≠ p.src) (hwaiting : x.done = false)
include htxns hwaits hdone hx hother hwaiting

/-- While another snoop of the transaction is open, the home waits. -/
theorem Chip.homeSettle_answered (u : Chip) (hu : u.pool = s.pool) (m : Snoop) :
    (u.setTxn (Coh.ofBody p.body).txn (t.answered p.src m)).homeSettle
      = { u with pool := { s.pool with txns := [((Coh.ofBody p.body).txn, t.answered p.src m)] } } := by
  have hset : u.setTxn (Coh.ofBody p.body).txn (t.answered p.src m)
      = { u with pool := { s.pool with txns := [((Coh.ofBody p.body).txn, t.answered p.src m)] } } := by
    have hput : Tab.put s.pool.txns (Coh.ofBody p.body).txn (t.answered p.src m) = [((Coh.ofBody p.body).txn, t.answered p.src m)] := by
      simp [htxns, Tab.put]
    rw [← hput, ← hu]
    rfl
  rw [hset]
  exact Chip.homeSettle_of_snooping _ _ _ x rfl hwaits hdone (t.mem_answered p.src m x hx hother) hwaiting

include hline hn hopen

/-- RspI resolves the snoop: the host has given its copy up (Table 4.7). -/
theorem Chip.snoopResponse_rspI (hmsg : (Coh.ofBody p.body).msg = mRspI) :
    s.snoopResponse p = { s with
      pool := { s.pool with txns := [((Coh.ofBody p.body).txn, t.answered p.src { n with done := true, gone := true })] }
      timers := s.timers.filter (fun e => e.1 != Timer.snoop (Coh.ofBody p.body).txn p.src) } := by
  have hfind : s.pool.txns.find (Coh.ofBody p.body).txn = some t := by simp [htxns, Tab.find]
  have hrun : s.snoopResponse p = ((s.stopTimer (.snoop (Coh.ofBody p.body).txn p.src)).setTxn (Coh.ofBody p.body).txn
      (t.answered p.src { n with done := true, gone := true })).homeSettle := by
    simp [Chip.snoopResponse, hfind, hn, hline, hopen, hmsg, HTxn.answered, mRspI, mRspIData, mRspSData, mRspCurData, mRspWbPending]
  rw [hrun, s.homeSettle_answered p t x htxns hwaits hdone hx hother hwaiting (s.stopTimer _) rfl]
  rfl

/-- RspWbPending leaves the snoop open: the host's WrBack is on its way (R141). -/
theorem Chip.snoopResponse_rspWbPending (hmsg : (Coh.ofBody p.body).msg = mRspWbPending) (hwb : n.wb = false) :
    s.snoopResponse p = { s with
      pool := { s.pool with txns := [((Coh.ofBody p.body).txn, t.answered p.src { n with pending := true, gone := true })] } } := by
  have hfind : s.pool.txns.find (Coh.ofBody p.body).txn = some t := by simp [htxns, Tab.find]
  have hsame : ({ n with pending := true, gone := true } : Snoop) = { n with pending := true, done := false, gone := true } := by
    rw [← hopen]
  have hrun : s.snoopResponse p
      = (s.setTxn (Coh.ofBody p.body).txn (t.answered p.src { n with pending := true, gone := true })).homeSettle := by
    rw [hsame]
    simp [Chip.snoopResponse, hfind, hn, hline, hopen, hmsg, hwb, HTxn.answered, mRspI, mRspIData, mRspSData, mRspCurData, mRspWbPending]
  rw [hrun, s.homeSettle_answered p t x htxns hwaits hdone hx hother hwaiting _ rfl]

end Response

/-- Settles O34: the response changes its own snoop alone, and another open snoop keeps the home waiting. -/
theorem snoopResponseResolvesItsSnoop : Obligations.SnoopResponseResolvesItsSnoop := by
  unfold Obligations.SnoopResponseResolvesItsSnoop
  refine ⟨fun p s haccepts hstray => ?stray, ?resolves⟩
  case stray => rw [exec_snoopResponse p s haccepts, Chip.snoopResponse_stray _ p hstray]
  case resolves =>
    intro p t n x s haccepts v i htxns hwaits hdone hline hn hopen hx hother hwaiting after
    refine ⟨fun hmsg => ?_, fun hmsg hwb => ?_⟩
    · rw [exec_snoopResponse p s haccepts,
        Chip.snoopResponse_rspI _ p t n x htxns hwaits hdone hline hn hopen hx hother hwaiting hmsg]
      rfl
    · rw [exec_snoopResponse p s haccepts,
        Chip.snoopResponse_rspWbPending _ p t n x htxns hwaits hdone hline hn hopen hx hother hwaiting hmsg hwb]
      rfl

end Sys2Proof.Machine
end

section
/-!
Fault reports without a notice (spec/14_errors_and_reliability.md R451 to R453): what they change, and what a partition's banks, a host's
entry and the records keep.
-/
open Sys2Proof Sys2Proof.Machine
namespace Sys2Proof.Machine

/-! ### The registers of errors -/

/-- A write within the block of error registers keeps the registers outside it. -/
theorem Chip.steadyRegs_wr_err (s : Chip) (a : Nat) (f : Fld) (v : Nat) (hlo : 0x1800000 ≤ a)
    (hhi : a + 8 * (f.lo / 64) + 8 * f.span ≤ 0x1A00000) : (s.wr a f v).steadyRegs = s.steadyRegs :=
  RegFile.set_off _ _ _ _ fun i hi => statusKey_true (by omega)

theorem Chip.steadyRegs_wrSpan_err (s : Chip) (a n v : Nat) (hlo : 0x1800000 ≤ a) (hhi : a + 8 * n ≤ 0x1A00000) :
    (s.wrSpan a n v).steadyRegs = s.steadyRegs :=
  RegFile.setSpan_off _ _ _ _ fun i hi => statusKey_true (by omega)

/-- The banks of a partition do not depend on them. -/
theorem Chip.banksOf_steady {s t : Chip} (h : t.steadyRegs = s.steadyRegs) (p : Nat) : t.banksOf p = s.banksOf p := by
  refine List.filter_congr fun b hb => ?_
  have hlt := (List.mem_range'_1.1 hb).2
  rw [Chip.owner_steady h _ (statusKey_false (by unfold A.PTN_OWN_BANK; omega))]

/-- Nor does a host's entry. -/
theorem Chip.rd_host_steady {s t : Chip} (h : t.steadyRegs = s.steadyRegs) (e : Nat) (he : e < 16384) (f : Fld) (hf : f.lo + f.width ≤ 64) :
    t.rd (A.HOM_HOST e) f = s.rd (A.HOM_HOST e) f :=
  Chip.rd_steady h _ _ fun i hi => statusKey_false (by unfold Fld.span at hi; unfold A.HOM_HOST; omega)

/-! ### A fault is reported -/

/-- The part once FAULT_SEEN and FAULT of the last record are set. -/
def Chip.faultMarked (s : Chip) : Chip :=
  (s.wrB A.ERR_STATUS F.ERR_STATUS_FAULT_SEEN true).wrB (A.ERR_LOG ((s.errSeq - 1) % 4096)) F.ERR_LOG_FAULT true

theorem Chip.faultMarked_steady (s : Chip) : s.faultMarked.steadyRegs = s.steadyRegs := by
  have hm : (s.errSeq - 1) % 4096 < 4096 := Nat.mod_lt _ (by omega)
  refine (Chip.steadyRegs_wr_err _ _ _ _ ?_ ?_).trans (Chip.steadyRegs_wr_err _ _ _ _ (by decide) (by decide))
  · unfold A.ERR_LOG; omega
  · unfold A.ERR_LOG Fld.span F.ERR_LOG_FAULT; dsimp only; omega

/-- Room in partition `p`'s fault ring (R452): its oldest entry is given up where the ring is full. -/
def Chip.ringRoom (s : Chip) (p : Nat) : Chip :=
  if Nat.ble 16 ((s.rd (A.ERR_FAULT_PTR p) F.ERR_FAULT_PTR_HEAD + 65536 - s.rd (A.ERR_FAULT_PTR p) F.ERR_FAULT_PTR_TAIL) % 65536) then
    (s.count (A.ERR_FAULT_PTR p) F.ERR_FAULT_PTR_OVERFLOWS).wr (A.ERR_FAULT_PTR p) F.ERR_FAULT_PTR_TAIL
      (s.rd (A.ERR_FAULT_PTR p) F.ERR_FAULT_PTR_TAIL + 1)
  else s

theorem Chip.ringEntry_eq (s : Chip) (p : Nat) (c : FaultCause) (i : FaultInfo) (n : Nat) :
    ∃ w, s.ringEntry p c i n = ((s.ringRoom p).wr (A.ERR_FAULT_PTR p) F.ERR_FAULT_PTR_HEAD
      (s.rd (A.ERR_FAULT_PTR p) F.ERR_FAULT_PTR_HEAD + 1)).wrSpan
        (A.ERR_FAULT p (s.rd (A.ERR_FAULT_PTR p) F.ERR_FAULT_PTR_HEAD % 16)) 4 w := ⟨_, rfl⟩

/-- `t` differs from `s` in registers of errors at most, and has the settings of partition `p`'s fault reports. -/
structure Chip.SameReports (s t : Chip) (p : Nat) : Prop where
  steady : t.steadyRegs = s.steadyRegs
  frame : ∃ regs, t = { s with regs := regs }
  cfg : ∀ g : Fld, g.lo + g.width ≤ 64 → t.rd (A.ERR_FAULT_CFG p) g = s.rd (A.ERR_FAULT_CFG p) g

theorem Chip.SameReports.trans {s t u : Chip} {p : Nat} (h : s.SameReports t p) (h' : t.SameReports u p) : s.SameReports u p where
  steady := h'.steady.trans h.steady
  frame := by
    obtain ⟨r, hr⟩ := h.frame
    obtain ⟨r', hr'⟩ := h'.frame
    exact ⟨r', by rw [hr', hr]⟩
  cfg g hg := (h'.cfg g hg).trans (h.cfg g hg)

theorem Chip.sameReports_wrPtr (s : Chip) (p : Nat) (f : Fld) (v : Nat) (hp : p < 64) (hf : f.lo + f.width ≤ 64) :
    s.SameReports (s.wr (A.ERR_FAULT_PTR p) f v) p where
  steady := s.steadyRegs_wr_err _ _ _ (by unfold A.ERR_FAULT_PTR; omega) (by unfold A.ERR_FAULT_PTR Fld.span; omega)
  frame := ⟨_, rfl⟩
  cfg g hg := Chip.rd_wr_apart _ _ _ _ _ _ (.inl (by unfold A.ERR_FAULT_PTR A.ERR_FAULT_CFG; omega))

theorem Chip.sameReports_wrRing (s : Chip) (p j v : Nat) (hp : p < 64) (hj : j < 16) : s.SameReports (s.wrSpan (A.ERR_FAULT p j) 4 v) p where
  steady := s.steadyRegs_wrSpan_err _ _ _ (by unfold A.ERR_FAULT; omega) (by unfold A.ERR_FAULT; omega)
  frame := ⟨_, rfl⟩
  cfg g hg := Chip.rd_wrSpan_apart _ _ _ _ _ _ (.inl (by unfold A.ERR_FAULT A.ERR_FAULT_CFG; omega))

theorem Chip.sameReports_ringRoom (s : Chip) (p : Nat) (hp : p < 64) : s.SameReports (s.ringRoom p) p := by
  unfold Chip.ringRoom
  split
  · exact (s.sameReports_wrPtr p _ _ hp (by decide)).trans (Chip.sameReports_wrPtr _ p _ _ hp (by decide))
  · exact ⟨rfl, ⟨s.regs, rfl⟩, fun _ _ => rfl⟩

theorem Chip.sameReports_ringEntry (s : Chip) (p : Nat) (c : FaultCause) (i : FaultInfo) (n : Nat) (hp : p < 64) :
    s.SameReports (s.ringEntry p c i n) p := by
  obtain ⟨w, hw⟩ := s.ringEntry_eq p c i n
  rw [hw]
  exact ((s.sameReports_ringRoom p hp).trans (Chip.sameReports_wrPtr _ p _ _ hp (by decide))).trans
    (Chip.sameReports_wrRing _ p _ _ hp (Nat.mod_lt _ (by omega)))

theorem Chip.flag_interrupt (s : Chip) (fn : Option Nat) (v a : Nat) (f : Fld) : (s.interrupt fn v).flag a f = s.flag a f := rfl

theorem Chip.steadyRegs_interrupt (s : Chip) (fn : Option Nat) (v : Nat) : (s.interrupt fn v).steadyRegs = s.steadyRegs := rfl

theorem Chip.interrupt_frame (s : Chip) (fn : Option Nat) (v : Nat) : s.interrupt fn v = { s with out := .msix fn v :: s.out } := rfl

theorem Chip.notice_of_silent (s : Chip) (p : Nat) (c : FaultCause) (i : FaultInfo) (n : Nat)
    (h : s.flag (A.ERR_FAULT_CFG p) F.ERR_FAULT_CFG_NOTIFY_EN = false) : s.notice p c i n = s := by
  unfold Chip.notice
  simp only [h, Bool.false_eq_true, if_false]

/-- A report to a partition that asks for no notice changes registers of errors and raises an interrupt, at most. -/
theorem Chip.fault_acts (s : Chip) (p : Nat) (c : FaultCause) (i : FaultInfo) (hp : p < 64)
    (hquiet : s.flag (A.ERR_FAULT_CFG p) F.ERR_FAULT_CFG_NOTIFY_EN = false) :
    (s.fault p c i).steadyRegs = s.steadyRegs ∧ ∃ regs out, s.fault p c i = { s with regs := regs, out := out } := by
  have hflag : s.faultMarked.flag (A.ERR_FAULT_CFG p) F.ERR_FAULT_CFG_NOTIFY_EN = false := by
    unfold Chip.faultMarked
    rw [Chip.flag_wrB_apart _ _ _ _ _ _ (.inl ?_), Chip.flag_wrB_apart _ _ _ _ _ _ (.inr ?_), hquiet]
    · unfold A.ERR_STATUS A.ERR_FAULT_CFG F.ERR_STATUS_FAULT_SEEN F.ERR_FAULT_CFG_NOTIFY_EN; dsimp only; omega
    · unfold A.ERR_LOG A.ERR_FAULT_CFG F.ERR_LOG_FAULT F.ERR_FAULT_CFG_NOTIFY_EN; dsimp only; omega
  have hfault : s.fault p c i = (if s.faultMarked.merges p c then
      s.faultMarked.count (A.ERR_FAULT p ((s.faultMarked.rd (A.ERR_FAULT_PTR p) F.ERR_FAULT_PTR_HEAD + 65535) % 16)) F.ERR_FAULT_COUNT
    else ((s.faultMarked.ringEntry p c i (s.errSeq - 1)).interrupt (some p)
      ((s.faultMarked.ringEntry p c i (s.errSeq - 1)).rd (A.ERR_FAULT_CFG p) F.ERR_FAULT_CFG_VECTOR)).notice p c i
        (s.faultMarked.rd (A.ERR_FAULT_PTR p) F.ERR_FAULT_PTR_HEAD)) := rfl
  rw [hfault]
  split
  · have hj : (s.faultMarked.rd (A.ERR_FAULT_PTR p) F.ERR_FAULT_PTR_HEAD + 65535) % 16 < 16 := Nat.mod_lt _ (by omega)
    refine ⟨(Chip.steadyRegs_wr_err _ _ _ _ ?_ ?_).trans s.faultMarked_steady, _, s.out, rfl⟩
    · unfold A.ERR_FAULT; omega
    · unfold A.ERR_FAULT Fld.span F.ERR_FAULT_COUNT; dsimp only; omega
  · obtain ⟨hsteady, ⟨regs, he⟩, hcfg⟩ := s.faultMarked.sameReports_ringEntry p c i (s.errSeq - 1) hp
    have hnone : (s.faultMarked.ringEntry p c i (s.errSeq - 1)).flag (A.ERR_FAULT_CFG p) F.ERR_FAULT_CFG_NOTIFY_EN = false := by
      unfold Chip.flag
      rw [hcfg _ (by decide)]
      exact hflag
    have hquiet' : ∀ v, ((s.faultMarked.ringEntry p c i (s.errSeq - 1)).interrupt (some p) v).flag (A.ERR_FAULT_CFG p)
        F.ERR_FAULT_CFG_NOTIFY_EN = false := fun v => (Chip.flag_interrupt _ _ _ _ _).trans hnone
    have hsilent : ∀ v n, ((s.faultMarked.ringEntry p c i (s.errSeq - 1)).interrupt (some p) v).notice p c i n
        = (s.faultMarked.ringEntry p c i (s.errSeq - 1)).interrupt (some p) v := fun v n => Chip.notice_of_silent _ p c i n (hquiet' v)
    rw [hsilent]
    generalize (s.faultMarked.ringEntry p c i (s.errSeq - 1)).rd (A.ERR_FAULT_CFG p) F.ERR_FAULT_CFG_VECTOR = v
    refine ⟨(Chip.steadyRegs_interrupt _ _ _).trans (hsteady.trans s.faultMarked_steady), regs, .msix (some p) v :: s.out, ?_⟩
    rw [Chip.interrupt_frame, he]
    rfl

/-- A record and its report. -/
theorem Chip.logFault_acts (s : Chip) (r : LogRec) (p : Nat) (c : FaultCause) (i : FaultInfo) (hp : p < 64)
    (hquiet : s.flag (A.ERR_FAULT_CFG p) F.ERR_FAULT_CFG_NOTIFY_EN = false) :
    (s.logFault r p c i).steadyRegs = s.steadyRegs
      ∧ ∃ regs out, s.logFault r p c i = { s with regs := regs, out := out, errSeq := s.errSeq + 1 } := by
  have hflag : (s.log { r with fault := true }).flag (A.ERR_FAULT_CFG p) F.ERR_FAULT_CFG_NOTIFY_EN = false := by
    unfold Chip.flag
    rw [Chip.log_rd_below_ring]
    · exact hquiet
    · unfold A.ERR_FAULT_CFG A.ERR_LOG F.ERR_FAULT_CFG_NOTIFY_EN; dsimp only; omega
    · unfold apart A.ERR_FAULT_CFG A.ERR_STATUS F.ERR_FAULT_CFG_NOTIFY_EN F.ERR_STATUS_HEAD; dsimp only; omega
    · unfold apart A.ERR_FAULT_CFG A.ERR_STATUS F.ERR_FAULT_CFG_NOTIFY_EN F.ERR_STATUS_HOST_LOST; dsimp only; omega
    · unfold apart A.ERR_FAULT_CFG A.ERR_HOST_TAIL F.ERR_FAULT_CFG_NOTIFY_EN F.ERR_HOST_TAIL_TAIL; dsimp only; omega
  obtain ⟨hsteady, regs, out, he⟩ := (s.log { r with fault := true }).fault_acts p c i hp hflag
  refine ⟨hsteady.trans (s.steadyRegs_log _), regs, out, ?_⟩
  unfold Chip.logFault
  rw [he, Chip.log_frame]

end Sys2Proof.Machine
end

section
/-!
Hosts that fall silent (spec/04_coherence.md R142, R153 to R155, R160, R163): the declaration of a failure, the timers, and the two bits of
HOM_HOST that are written.
-/
open Sys2Proof Sys2Proof.Machine
namespace Sys2Proof.Machine

/-! ### One host's entry -/

/-- The register of host `e`. -/
def hostKey (e k : Nat) : Bool := k == A.HOM_HOST e

/-- `t` has the registers of `s` but for host `e`'s entry. -/
abbrev Chip.sameButHost (s t : Chip) (e : Nat) : Prop := t.regs.off (hostKey e) = s.regs.off (hostKey e)

theorem Chip.sameButHost.trans {s t u : Chip} {e : Nat} (h : s.sameButHost t e) (h' : t.sameButHost u e) : s.sameButHost u e := Eq.trans h' h

theorem Chip.sameButHost_wr (s : Chip) (e : Nat) (f : Fld) (v : Nat) (hf : f.lo + f.width ≤ 64) : s.sameButHost (s.wr (A.HOM_HOST e) f v) e := by
  refine RegFile.set_off _ _ _ _ fun i hi => ?_
  unfold Fld.span at hi
  unfold hostKey
  rw [beq_iff_eq]
  omega

section SameButHost
variable {s t : Chip} {e : Nat} (h : s.sameButHost t e) (he : e < 16384)
include h he

theorem Chip.banksOf_sameButHost (p : Nat) : t.banksOf p = s.banksOf p := by
  refine List.filter_congr fun b hb => ?_
  have hlt := (List.mem_range'_1.1 hb).2
  have hkey : hostKey e ((A.PTN_OWN_BANK 0 + 2 * b) / 8 * 8) = false := by
    unfold hostKey A.HOM_HOST A.PTN_OWN_BANK
    rw [beq_eq_false_iff_ne]
    omega
  unfold Chip.owner Chip.ownerHalf
  rw [← RegFile.word_off t.regs _ hkey, ← RegFile.word_off s.regs _ hkey, h]

theorem Chip.notify_sameButHost (p : Nat) :
    t.flag (A.ERR_FAULT_CFG p) F.ERR_FAULT_CFG_NOTIFY_EN = s.flag (A.ERR_FAULT_CFG p) F.ERR_FAULT_CFG_NOTIFY_EN := by
  have hkey : ∀ i, i < F.ERR_FAULT_CFG_NOTIFY_EN.span →
      hostKey e (A.ERR_FAULT_CFG p + 8 * (F.ERR_FAULT_CFG_NOTIFY_EN.lo / 64) + 8 * i) = false := fun i _ => by
    unfold hostKey A.HOM_HOST A.ERR_FAULT_CFG
    rw [beq_eq_false_iff_ne]
    omega
  unfold Chip.flag Chip.rd
  rw [← RegFile.get_off t.regs _ _ hkey, ← RegFile.get_off s.regs _ _ hkey, h]

end SameButHost

/-! ### A declaration -/

theorem Chip.declareFailed_of_not (s : Chip) (e : Nat) (h : s.flag (A.HOM_HOST e) F.HOM_HOST_ASSIGNED = false
    ∨ s.flag (A.HOM_HOST e) F.HOM_HOST_CACHING = false ∨ s.hostFailed e = true) : s.declareFailed e = s := by
  have hcond : (!(s.flag (A.HOM_HOST e) F.HOM_HOST_ASSIGNED && s.flag (A.HOM_HOST e) F.HOM_HOST_CACHING) || s.hostFailed e) = true := by
    rcases h with h | h | h <;> simp [h]
  unfold Chip.declareFailed
  exact if_pos hcond

/-- The part once FAILED and WALKING are set and the walk of `p`'s banks has begun (R155). -/
def Chip.failureMarked (s : Chip) (e : Nat) : Chip :=
  ((s.wrB (A.HOM_HOST e) F.HOM_HOST_FAILED true).wrB (A.HOM_HOST e) F.HOM_HOST_WALKING true).wr (A.HOM_HOST e) F.HOM_HOST_LOST_LINES 0
def Chip.walkBegun (s : Chip) (e p : Nat) : Chip :=
  ((s.failureMarked e).stopTimer (.heartbeat e)).startTimer (.walk e)
    (us 140 * (((s.failureMarked e).stopTimer (.heartbeat e)).banksOf p).length)

/-- The part once the failure is recorded and reported too. -/
def Chip.failureTold (s : Chip) (e p : Nat) : Chip :=
  (s.walkBegun e p).logFault { status := .lineLost, subsys := .homeAgent, partition := some p, addrKind := 5, addr := e, srcEid := e } p
    .hostFailed { addrKind := 5, addr := e, eid := e }

/-- What a declaration does beside (R153, R155): open transactions, requests that wait, the lines the host holds and its views. -/
def Chip.failureSettled (s : Chip) (e p : Nat) : Chip :=
  let s := s.pool.txns.foldl (fun s x => if x.2.part == p then s.failHostTxn e x.1 x.2 else s) s
  let gone := s.pool.waits.filter (fun w => s.requester w.req == e)
  let s := s.modPool (fun q => { q with waits := q.waits.filter (fun w => !gone.contains w) })
  let s := gone.foldl (fun s w => s.failLine w.req w.j .accessDenied) s
  let s := s.walkHost p e
  let s := (s.pool.views.filter (fun v => v.eid == e)).foldl (fun s v => s.closeView e v.region) s
  s.homeSettle

theorem Chip.declareFailed_caching (s : Chip) (e : Nat) (hassigned : s.flag (A.HOM_HOST e) F.HOM_HOST_ASSIGNED = true)
    (hcaching : s.flag (A.HOM_HOST e) F.HOM_HOST_CACHING = true) (hfailed : s.hostFailed e = false) :
    s.declareFailed e = (s.failureTold e (s.rd (A.HOM_HOST e) F.HOM_HOST_PARTITION)).failureSettled e (s.rd (A.HOM_HOST e) F.HOM_HOST_PARTITION) := by
  have hcond : ¬ (!(s.flag (A.HOM_HOST e) F.HOM_HOST_ASSIGNED && s.flag (A.HOM_HOST e) F.HOM_HOST_CACHING) || s.hostFailed e) = true := by
    rw [hassigned, hcaching, hfailed]
    decide
  unfold Chip.declareFailed
  exact if_neg hcond

/-- Nothing more where nothing is open, nothing waits, no line is held and nobody has a view. -/
theorem Chip.failureSettled_of_quiet (s : Chip) (e p : Nat) (hhome : s.homeQuiet) (hviews : s.pool.views = []) (hbanks : s.banksOf p = []) :
    s.failureSettled e p = s := by
  obtain ⟨htxns, hwaits, hdone⟩ := hhome
  have hmod : s.modPool (fun q => { q with waits := q.waits.filter (fun w => !([] : List LineWait).contains w) }) = s := by
    unfold Chip.modPool
    dsimp only
    rw [hwaits, List.filter_nil, ← hwaits]
  have hwalk : s.walkHost p e = s := by
    unfold Chip.walkHost
    rw [hbanks, List.foldl_nil]
  unfold Chip.failureSettled
  simp only [htxns, List.foldl_nil, hwaits, List.filter_nil, hmod, hwalk, hviews]
  exact s.homeSettle_of_quiet ⟨htxns, hwaits, hdone⟩

theorem Chip.walkBegun_regs (s : Chip) (e p : Nat) : (s.walkBegun e p).regs = (s.failureMarked e).regs := by
  unfold Chip.walkBegun
  rw [Chip.startTimer_regs, Chip.stopTimer_regs]

theorem Chip.restarted_frame (s : Chip) (t t' : Timer) (n : Nat) : ∃ timers, (s.stopTimer t).startTimer t' n = { s with timers := timers } :=
  ⟨_, rfl⟩

theorem Chip.walkBegun_frame (s : Chip) (e p : Nat) : ∃ regs timers, s.walkBegun e p = { s with regs := regs, timers := timers } := by
  obtain ⟨regs, hregs⟩ : ∃ regs, s.failureMarked e = { s with regs := regs } := ⟨_, rfl⟩
  obtain ⟨timers, htimers⟩ := Chip.restarted_frame (s.failureMarked e) (.heartbeat e) (.walk e)
    (us 140 * (((s.failureMarked e).stopTimer (.heartbeat e)).banksOf p).length)
  refine ⟨regs, timers, htimers.trans ?_⟩
  rw [hregs]

theorem Chip.sameButHost_walkBegun (s : Chip) (e p : Nat) : s.sameButHost (s.walkBegun e p) e := by
  have hfailed := s.sameButHost_wr e F.HOM_HOST_FAILED (b2n true) (by decide)
  have hwalking := Chip.sameButHost_wr (s.wrB (A.HOM_HOST e) F.HOM_HOST_FAILED true) e F.HOM_HOST_WALKING (b2n true) (by decide)
  have hlines := Chip.sameButHost_wr ((s.wrB (A.HOM_HOST e) F.HOM_HOST_FAILED true).wrB (A.HOM_HOST e) F.HOM_HOST_WALKING true) e
    F.HOM_HOST_LOST_LINES 0 (by decide)
  unfold Chip.sameButHost
  rw [s.walkBegun_regs]
  exact (hfailed.trans hwalking).trans hlines

theorem Chip.walkBegun_flags (s : Chip) (e p : Nat) : (s.walkBegun e p).hostFailed e = true
    ∧ (s.walkBegun e p).flag (A.HOM_HOST e) F.HOM_HOST_WALKING = true := by
  have hkept : ∀ f : Fld, F.HOM_HOST_LOST_LINES.disjoint f →
      (s.walkBegun e p).flag (A.HOM_HOST e) f
        = ((s.wrB (A.HOM_HOST e) F.HOM_HOST_FAILED true).wrB (A.HOM_HOST e) F.HOM_HOST_WALKING true).flag (A.HOM_HOST e) f := fun f hf => by
    unfold Chip.flag Chip.rd
    rw [s.walkBegun_regs]
    show ((((s.wrB (A.HOM_HOST e) F.HOM_HOST_FAILED true).wrB (A.HOM_HOST e) F.HOM_HOST_WALKING true).wr (A.HOM_HOST e)
      F.HOM_HOST_LOST_LINES 0).rd (A.HOM_HOST e) f != 0) = _
    rw [Chip.rd_wr_disjoint _ _ _ _ _ hf]
    rfl
  constructor
  · unfold Chip.hostFailed
    rw [hkept _ (by decide)]
    unfold Chip.flag
    rw [show ∀ t : Chip, (t.wrB (A.HOM_HOST e) F.HOM_HOST_WALKING true).rd (A.HOM_HOST e) F.HOM_HOST_FAILED
      = t.rd (A.HOM_HOST e) F.HOM_HOST_FAILED from fun t => t.rd_wr_disjoint _ _ _ _ (by decide), Chip.rd_wrB_same _ _ _ _ (by decide)]
    rfl
  · rw [hkept _ (by decide), Chip.flag_wrB_same _ _ _ _ (by decide)]

section Declared
variable (s : Chip) (e : Nat) (he : e < 16384)
include he

theorem Chip.failureTold_acts (p : Nat) (hp : p < 64) (hquiet : s.flag (A.ERR_FAULT_CFG p) F.ERR_FAULT_CFG_NOTIFY_EN = false) :
    (s.failureTold e p).steadyRegs = (s.walkBegun e p).steadyRegs
      ∧ ∃ regs out timers, s.failureTold e p = { s with regs := regs, out := out, timers := timers, errSeq := s.errSeq + 1 } := by
  have hnone := (Chip.notify_sameButHost (s.sameButHost_walkBegun e p) he p).trans hquiet
  obtain ⟨hsteady, regs, out, hframe⟩ := (s.walkBegun e p).logFault_acts
    { status := .lineLost, subsys := .homeAgent, partition := some p, addrKind := 5, addr := e, srcEid := e } p
    .hostFailed { addrKind := 5, addr := e, eid := e } hp hnone
  obtain ⟨regs', timers, hbegun⟩ := s.walkBegun_frame e p
  refine ⟨hsteady, regs, out, timers, hframe.trans ?_⟩
  rw [hbegun]

/-- A caching host that is declared failed while the home is quiet: FAILED and WALKING, one record, the pool as it was. -/
theorem Chip.declareFailed_acts (hassigned : s.flag (A.HOM_HOST e) F.HOM_HOST_ASSIGNED = true)
    (hcaching : s.flag (A.HOM_HOST e) F.HOM_HOST_CACHING = true) (hfailed : s.hostFailed e = false) (hhome : s.homeQuiet)
    (hviews : s.pool.views = []) (hbanks : s.banksOf (s.rd (A.HOM_HOST e) F.HOM_HOST_PARTITION) = [])
    (hquiet : s.flag (A.ERR_FAULT_CFG (s.rd (A.HOM_HOST e) F.HOM_HOST_PARTITION)) F.ERR_FAULT_CFG_NOTIFY_EN = false) :
    (s.declareFailed e).hostFailed e = true ∧ (s.declareFailed e).flag (A.HOM_HOST e) F.HOM_HOST_WALKING = true
      ∧ (s.declareFailed e).errSeq = s.errSeq + 1 ∧ (s.declareFailed e).pool = s.pool := by
  rw [s.declareFailed_caching e hassigned hcaching hfailed]
  generalize hp : s.rd (A.HOM_HOST e) F.HOM_HOST_PARTITION = p at hbanks hquiet ⊢
  have hlt : p < 64 := hp ▸ s.rd_lt _ _
  obtain ⟨hsteady, regs, out, timers, hframe⟩ := s.failureTold_acts e he p hlt hquiet
  have hpool : (s.failureTold e p).pool = s.pool := by rw [hframe]
  have hnone : (s.failureTold e p).banksOf p = [] := by
    rw [Chip.banksOf_steady hsteady, Chip.banksOf_sameButHost (s.sameButHost_walkBegun e p) he, hbanks]
  have hflag : ∀ f : Fld, f.lo + f.width ≤ 64 →
      (s.failureTold e p).flag (A.HOM_HOST e) f = (s.walkBegun e p).flag (A.HOM_HOST e) f := fun f hf => by
    unfold Chip.flag
    rw [Chip.rd_host_steady hsteady e he f hf]
  have hquiet' : (s.failureTold e p).homeQuiet := by rwa [Chip.homeQuiet, hpool]
  rw [(s.failureTold e p).failureSettled_of_quiet e p hquiet' (hpool ▸ hviews) hnone]
  obtain ⟨hfail, hwalk⟩ := s.walkBegun_flags e p
  exact ⟨(hflag _ (by decide)).trans hfail, (hflag _ (by decide)).trans hwalk, by rw [hframe], hpool⟩

end Declared
/-! ### A write of one bit of the entry -/

/-- HOM_HOST[e], and a 64-bit write of it. -/
def hostLoc (e : Nat) : Loc := ⟨.homHost, e, 0, 0, A.HOM_HOST e, 0⟩
def hostWrite (e data : Nat) : WordWrite := ⟨hostLoc e, A.HOM_HOST e, data, 2 ^ 64 - 1⟩

theorem hostWrite_whole (e data : Nat) : (hostWrite e data).whole := ⟨rfl, rfl⟩

theorem locate_HOM_HOST (e : Nat) (he : e < 16384) : locateKey (A.HOM_HOST e) = some (hostLoc e) := by
  have hrows : blockRows (A.HOM_HOST e) = rowsHOM := by
    unfold A.HOM_HOST blockRows
    repeat rw [if_neg (by omega)]
    rw [if_pos (by omega)]
  have hone : ∀ (k : RegKind) (b : Nat), b + 8 * k.allWords ≤ 0xa80000 → (⟨k, b, []⟩ : Row).locate (A.HOM_HOST e) = none := by
    intro k b h
    unfold Row.locate A.HOM_HOST
    simp only [Row.indices]
    rw [if_neg (by omega)]
    refine if_neg ?_
    simp only [Bool.and_eq_true, Nat.blt_eq]
    omega
  have harray : ∀ (k : RegKind) (b stride count : Nat), b + stride * count ≤ 0xa80000 → 0 < stride →
      (⟨k, b, [⟨stride, count⟩]⟩ : Row).locate (A.HOM_HOST e) = none := by
    intro k b stride count h hpos
    have hbeyond : count ≤ (A.HOM_HOST e - b) / stride := by
      rw [Nat.le_div_iff_mul_le hpos, Nat.mul_comm]
      unfold A.HOM_HOST
      omega
    unfold Row.locate
    simp only [Row.indices, Row.within]
    rw [if_neg (by unfold A.HOM_HOST; omega)]
    refine if_neg ?_
    simp only [Bool.and_eq_true, Nat.blt_eq]
    omega
  have hhost : (⟨.homHost, 0xa80000, [⟨0x8, 16384⟩]⟩ : Row).locate (A.HOM_HOST e) = some (hostLoc e) := by
    have hindex : (A.HOM_HOST e - 0xa80000) / 0x8 = e := by unfold A.HOM_HOST; omega
    have hrest : (A.HOM_HOST e - 0xa80000) % 0x8 = 0 := by unfold A.HOM_HOST; omega
    have hbase : ¬ A.HOM_HOST e < 0xa80000 := by unfold A.HOM_HOST; omega
    have hcount : Nat.blt e 16384 = true := by rw [Nat.blt_eq]; exact he
    have hwords : Nat.blt 0 (8 * RegKind.homHost.allWords) = true := by decide
    unfold Row.locate hostLoc
    simp only [Row.indices, Row.within, hindex, hrest, hbase, if_false]
    simp [hcount, hwords]
  unfold locateKey
  rw [hrows]
  unfold rowsHOM
  simp only [List.findSome?_cons, hone .homCtl 0xa00000 (by decide), hone .homStatus 0xa00008 (by decide),
    hone .homLostWide 0xa00010 (by decide), harray .homVregion 0xa20000 0x20 4096 (by decide) (by decide),
    harray .homOwn 0xa40000 0x20 8192 (by decide) (by decide), hhost]

theorem Chip.site_HOM_HOST (s : Chip) (e : Nat) (he : e < 16384) : s.site (A.HOM_HOST e) = some ⟨hostLoc e, A.HOM_HOST e, false⟩ := by
  refine s.site_plain _ _ ?_ ?_ ?_ ?_ (locate_HOM_HOST e he) (by rfl)
  all_goals (unfold A.HOM_HOST; omega)

/-- A field that a locked register keeps and that takes the bits written elsewhere (R11). -/
def Chip.heldField (s : Chip) (e data : Nat) (locked : Bool) (f : Fld) : Chip :=
  if locked then s else s.wr (A.HOM_HOST e) f (bits data f.lo f.width)

/-- The part once the fields of the entry are stored: FAILED is cleared by a 1, three fields are RWL. -/
def Chip.hostStored (s : Chip) (e data : Nat) (locked : Bool) : Chip :=
  let t := (s.heldField e data locked F.HOM_HOST_PARTITION).heldField e data locked F.HOM_HOST_CACHING
  (t.wr (A.HOM_HOST e) F.HOM_HOST_FAILED (t.rd (A.HOM_HOST e) F.HOM_HOST_FAILED &&& complementOf 1 (bits data 7 1))).heldField e data locked
    F.HOM_HOST_ASSIGNED

theorem Chip.applyWord_host (s : Chip) (e data : Nat) (locked : Bool) :
    s.applyWord (hostWrite e data) locked [] = s.hostStored e data locked := by
  have hw := hostWrite_whole e data
  have htouched : (hostWrite e data).loc.specs.filter (fun f => (hostWrite e data).touches f.fld && !([] : List Fld).contains f.fld)
      = (hostWrite e data).loc.specs := by
    refine List.filter_eq_self.2 fun f hf => ?_
    have hfits : f.fld.lo + f.fld.width ≤ 64 ∧ 0 < f.fld.width :=
      (by decide : ∀ f ∈ RegKind.homHost.fields 0 0, f.fld.lo + f.fld.width ≤ 64 ∧ 0 < f.fld.width) f hf
    rw [WordWrite.touches_whole hw hfits.1 hfits.2]
    rfl
  have hheld : ∀ (u : Chip) (f : FieldSpec), f.fld.lo + f.fld.width ≤ 64 → f.acc = .rwl →
      u.applyField (hostWrite e data) locked f = u.heldField e data locked f.fld := fun u f hf hacc => by
    unfold Chip.applyField Chip.heldField
    rw [u.fieldAfter_whole _ f hw hf, hacc]
    rfl
  have hcleared : ∀ u : Chip, u.applyField (hostWrite e data) locked ⟨F.HOM_HOST_FAILED, .w1c, .any, 0⟩
      = u.wr (A.HOM_HOST e) F.HOM_HOST_FAILED (u.rd (A.HOM_HOST e) F.HOM_HOST_FAILED &&& complementOf 1 (bits data 7 1)) := fun u => by
    unfold Chip.applyField
    rw [WordWrite.ones_whole hw (by decide)]
    rfl
  have hkept : ∀ (u : Chip) (f : FieldSpec), f.acc = .ro ∨ f.acc = .wo → u.applyField (hostWrite e data) locked f = u := fun u f hacc => by
    unfold Chip.applyField
    rcases hacc with hacc | hacc <;> rw [hacc]
  unfold Chip.applyWord
  rw [if_pos (by rfl), htouched]
  show List.foldl _ s (RegKind.homHost.fields e 0) = _
  simp only [RegKind.fields, List.foldl_cons, List.foldl_nil]
  rw [hkept _ _ (.inl rfl), hheld _ _ (by decide) rfl, hkept _ _ (.inr rfl), hkept _ _ (.inl rfl), hcleared, hheld _ _ (by decide) rfl,
    hheld _ _ (by decide) rfl]
  rfl

/-- The bits that hold the RWL fields of the entry at their values. -/
structure Chip.HostBits (s : Chip) (e data : Nat) : Prop where
  partition : bits data 0 6 = s.rd (A.HOM_HOST e) F.HOM_HOST_PARTITION
  caching : bits data 6 1 = s.rd (A.HOM_HOST e) F.HOM_HOST_CACHING
  assigned : bits data 10 1 = s.rd (A.HOM_HOST e) F.HOM_HOST_ASSIGNED

theorem Chip.rd_heldField_disjoint (s : Chip) (e data : Nat) (locked : Bool) (f g : Fld) (h : f.disjoint g) :
    (s.heldField e data locked f).rd (A.HOM_HOST e) g = s.rd (A.HOM_HOST e) g := by
  unfold Chip.heldField
  cases locked
  · exact s.rd_wr_disjoint _ _ _ _ h
  · rfl

theorem Chip.rd_heldField_same (s : Chip) (e data : Nat) (locked : Bool) (f : Fld)
    (h : bits data f.lo f.width = s.rd (A.HOM_HOST e) f) : (s.heldField e data locked f).rd (A.HOM_HOST e) f = s.rd (A.HOM_HOST e) f := by
  unfold Chip.heldField
  cases locked
  · exact (s.rd_wr_same _ _ _).trans ((Nat.mod_eq_of_lt (bits_lt _ _ _)).trans h)
  · rfl

theorem Chip.heldField_acts (s : Chip) (e data : Nat) (locked : Bool) (f : Fld) (hf : f.lo + f.width ≤ 64) :
    (∃ regs, s.heldField e data locked f = { s with regs := regs }) ∧ s.sameButHost (s.heldField e data locked f) e := by
  unfold Chip.heldField
  cases locked
  · exact ⟨⟨_, rfl⟩, s.sameButHost_wr e f _ hf⟩
  · exact ⟨⟨s.regs, rfl⟩, rfl⟩

theorem Chip.hostStored_acts (s : Chip) (e data : Nat) (locked : Bool) :
    (∃ regs, s.hostStored e data locked = { s with regs := regs }) ∧ s.sameButHost (s.hostStored e data locked) e := by
  obtain ⟨⟨r₁, h₁⟩, k₁⟩ := s.heldField_acts e data locked F.HOM_HOST_PARTITION (by decide)
  obtain ⟨⟨r₂, h₂⟩, k₂⟩ := (s.heldField e data locked F.HOM_HOST_PARTITION).heldField_acts e data locked F.HOM_HOST_CACHING (by decide)
  unfold Chip.hostStored
  dsimp only
  generalize ht : (s.heldField e data locked F.HOM_HOST_PARTITION).heldField e data locked F.HOM_HOST_CACHING = t at h₂ k₂ ⊢
  generalize (t.rd (A.HOM_HOST e) F.HOM_HOST_FAILED &&& complementOf 1 (bits data 7 1)) = v
  obtain ⟨⟨r₄, h₄⟩, k₄⟩ := (t.wr (A.HOM_HOST e) F.HOM_HOST_FAILED v).heldField_acts e data locked F.HOM_HOST_ASSIGNED (by decide)
  refine ⟨⟨r₄, ?_⟩, ((k₁.trans k₂).trans (t.sameButHost_wr e F.HOM_HOST_FAILED v (by decide))).trans k₄⟩
  rw [h₄, h₂, h₁]
  rfl

/-- Every field of the entry but FAILED reads as before; a 1 clears FAILED. -/
theorem Chip.hostStored_fields (s : Chip) (e data : Nat) (locked : Bool) (h : s.HostBits e data) :
    (s.hostStored e data locked).rd (A.HOM_HOST e) F.HOM_HOST_PARTITION = s.rd (A.HOM_HOST e) F.HOM_HOST_PARTITION
      ∧ (s.hostStored e data locked).rd (A.HOM_HOST e) F.HOM_HOST_CACHING = s.rd (A.HOM_HOST e) F.HOM_HOST_CACHING
      ∧ (s.hostStored e data locked).rd (A.HOM_HOST e) F.HOM_HOST_ASSIGNED = s.rd (A.HOM_HOST e) F.HOM_HOST_ASSIGNED
      ∧ (s.hostStored e data locked).rd (A.HOM_HOST e) F.HOM_HOST_FAILED
          = (s.rd (A.HOM_HOST e) F.HOM_HOST_FAILED &&& complementOf 1 (bits data 7 1)) % 2 := by
  obtain ⟨hpartition, hcaching, hassigned⟩ := h
  have hafter : ∀ (t : Chip) (v : Nat) (g : Fld), F.HOM_HOST_FAILED.disjoint g →
      (t.wr (A.HOM_HOST e) F.HOM_HOST_FAILED v).rd (A.HOM_HOST e) g = t.rd (A.HOM_HOST e) g := fun t v g hg => t.rd_wr_disjoint _ _ _ _ hg
  have hdis := fun (t : Chip) (f g : Fld) (hfg : f.disjoint g) => t.rd_heldField_disjoint e data locked f g hfg
  unfold Chip.hostStored
  dsimp only
  refine ⟨?_, ?_, ?_, ?_⟩
  · rw [hdis _ _ _ (by decide), hafter _ _ _ (by decide), hdis _ _ _ (by decide), Chip.rd_heldField_same _ _ _ _ _ hpartition]
  · rw [hdis _ _ _ (by decide), hafter _ _ _ (by decide), Chip.rd_heldField_same _ _ _ _ _ (hcaching.trans (hdis s _ _ (by decide)).symm),
      hdis _ _ _ (by decide)]
  · have hkept : ∀ v, (((s.heldField e data locked F.HOM_HOST_PARTITION).heldField e data locked F.HOM_HOST_CACHING).wr (A.HOM_HOST e)
        F.HOM_HOST_FAILED v).rd (A.HOM_HOST e) F.HOM_HOST_ASSIGNED = s.rd (A.HOM_HOST e) F.HOM_HOST_ASSIGNED := fun v => by
      rw [hafter _ _ _ (by decide), hdis _ _ _ (by decide), hdis _ _ _ (by decide)]
    rw [Chip.rd_heldField_same _ _ _ _ _ (hassigned.trans (hkept _).symm), hkept]
  · rw [hdis _ _ _ (by decide), Chip.rd_wr_same, hdis _ _ _ (by decide), hdis _ _ _ (by decide)]
    rfl

/-- No rule leaves out a field: the RWL fields keep their values, DECLARE is Newt's and FAILED the control host's once the walk is over. -/
theorem Chip.leftOut_host (s : Chip) (src : Source) (e data : Nat) (h : s.HostBits e data) (hdeclare : bits data 9 1 = 0 ∨ src = .newt)
    (hclear : bits data 7 1 = 0 ∨ (src = .pf ∧ s.flag (A.HOM_HOST e) F.HOM_HOST_WALKING = false)) :
    s.leftOut src (hostWrite e data) = [] := by
  have hw := hostWrite_whole e data
  have hsets : ∀ f : Fld, f.lo + f.width ≤ 64 → (hostWrite e data).sets f = (bits data f.lo f.width != 0) := fun f hf => by
    unfold WordWrite.sets
    rw [WordWrite.ones_whole hw hf]
    rfl
  have hlocks : (hostWrite e data).loc.specs.filter (fun f => f.acc == .rwl && (hostWrite e data).touches f.fld
      && s.fieldAfter (hostWrite e data) f != s.rd (hostWrite e data).loc.base f.fld) = [] := by
    refine List.filter_eq_nil_iff.2 fun f hf => ?_
    have hfits : f.fld.lo + f.fld.width ≤ 64 := (by decide : ∀ f ∈ RegKind.homHost.fields 0 0, f.fld.lo + f.fld.width ≤ 64) f hf
    rw [s.fieldAfter_whole _ f hw hfits]
    have hmem : f ∈ RegKind.homHost.fields e 0 := hf
    simp only [RegKind.fields, List.mem_cons, List.not_mem_nil, or_false] at hmem
    rcases hmem with rfl | rfl | rfl | rfl | rfl | rfl | rfl
    · simp [hostWrite, hostLoc, h.partition, F.HOM_HOST_PARTITION]
    · simp [hostWrite, hostLoc, h.caching, F.HOM_HOST_CACHING]
    · simp
    · simp
    · simp
    · simp [hostWrite, hostLoc, h.assigned, F.HOM_HOST_ASSIGNED]
    · simp
  have hown : ((hostWrite e data).sets F.HOM_HOST_DECLARE && src != .newt) = false
      ∧ ((hostWrite e data).sets F.HOM_HOST_FAILED && src != .pf) = false
      ∧ ((hostWrite e data).sets F.HOM_HOST_FAILED && src == .pf && s.flag (A.HOM_HOST e) F.HOM_HOST_WALKING) = false := by
    rw [hsets _ (by decide), hsets _ (by decide)]
    show ((bits data 9 1 != 0) && src != .newt) = false ∧ ((bits data 7 1 != 0) && src != .pf) = false
      ∧ ((bits data 7 1 != 0) && src == .pf && s.flag (A.HOM_HOST e) F.HOM_HOST_WALKING) = false
    refine ⟨?_, ?_, ?_⟩
    · rcases hdeclare with hd | rfl <;> simp [*]
    · rcases hclear with hc | ⟨rfl, _⟩ <;> simp [*]
    · rcases hclear with hc | ⟨rfl, hwalk⟩ <;> simp [*]
  obtain ⟨hnewt, hpf, hwalk⟩ := hown
  have hmodel : s.leftOut src (hostWrite e data) = (if s.lockedAt (hostLoc e) then
        ((hostWrite e data).loc.specs.filter (fun f => f.acc == .rwl && (hostWrite e data).touches f.fld
          && s.fieldAfter (hostWrite e data) f != s.rd (hostWrite e data).loc.base f.fld)).map (fun f => (f.fld, some Status.accessDenied))
      else [])
      ++ ((if (hostWrite e data).sets F.HOM_HOST_DECLARE && src != .newt then [(F.HOM_HOST_DECLARE, some Status.accessDenied)] else [])
        ++ (if (hostWrite e data).sets F.HOM_HOST_FAILED && src != .pf then [(F.HOM_HOST_FAILED, some Status.accessDenied)] else [])
        ++ (if (hostWrite e data).sets F.HOM_HOST_FAILED && src == .pf && s.flag (A.HOM_HOST e) F.HOM_HOST_WALKING then
          [(F.HOM_HOST_FAILED, none)] else [])) := rfl
  rw [hmodel, hlocks, hnewt, hpf, hwalk]
  simp

section HostWrite
variable (s : Chip) (src : Source) (e data : Nat) (he : e < 16384) (hsrc : src.central) (hserves : s.serves src (A.HOM_HOST e))
variable (hdata : data < 2 ^ 64) (hbits : s.HostBits e data)
include he hsrc hserves hdata hbits

/-- A write that keeps the RWL fields and that no rule stands against. -/
theorem Chip.busWrite_host (hdeclare : bits data 9 1 = 0 ∨ src = .newt)
    (hclear : bits data 7 1 = 0 ∨ (src = .pf ∧ s.flag (A.HOM_HOST e) F.HOM_HOST_WALKING = false)) :
    s.busWrite src false (A.HOM_HOST e) 8 data
      = (s.hostStored e data (s.lockedAt (hostLoc e))).hostSet s e (bits data 9 1 != 0) := by
  have hw := hostWrite_whole e data
  have hpart : src.part = none := by rcases hsrc with rfl | rfl <;> rfl
  have hmay : s.mayWrite src false (hostLoc e) = true := by rcases hsrc with rfl | rfl <;> rfl
  have hwhole : ∀ t : Chip, s.wholeFails t (hostWrite e data) = none := fun t => by
    have hencoding : s.encodingOk (hostWrite e data) = true := by
      refine s.encodingOk_of_legal _ hw fun f hf => ?_
      obtain ⟨hfits, hlegal⟩ := (by decide : ∀ f ∈ RegKind.homHost.fields 0 0, f.fld.lo + f.fld.width ≤ 64 ∧ f.legal = .any) f hf
      rw [hlegal]
      exact ⟨hfits, rfl⟩
    unfold Chip.wholeFails
    rw [hencoding, show t.jointOk (hostWrite e data) = true from rfl]
    rfl
  have hset : (hostWrite e data).sets F.HOM_HOST_DECLARE = (bits data 9 1 != 0) := by
    unfold WordWrite.sets
    rw [WordWrite.ones_whole hw (by decide)]
    rfl
  rw [s.busWrite_whole src false (hostLoc e) (A.HOM_HOST e) data (s.site_HOM_HOST e he) rfl (by unfold A.HOM_HOST; omega) hdata
    hserves hpart hmay rfl rfl (show RegKind.homHost ≠ .pceCurve by decide)]
  have hstored := s.applyWord_host e data (s.lockedAt (hostLoc e))
  rw [show (⟨hostLoc e, A.HOM_HOST e, data, 2 ^ 64 - 1⟩ : WordWrite) = hostWrite e data from rfl,
    s.writeFields_accepted src _ _ (s.leftOut_host src e data hbits hdeclare hclear) (hwhole _)]
  rw [show (hostWrite e data).loc = hostLoc e from rfl, hstored]
  have hafter : ∀ t : Chip, t.afterWrite s src (hostWrite e data) [] = t.hostSet s e ((hostWrite e data).sets F.HOM_HOST_DECLARE && true) :=
    fun t => rfl
  rw [hafter, hset, Bool.and_true]

end HostWrite

/-- The RWL fields of the entry as a word holds them. -/
def heldBits (p c a : Nat) : Nat := p + c <<< 6 + a <<< 10

theorem heldBits_or_bit : ∀ (p : Fin 64) (c a : Fin 2) (k : Nat), k = 7 ∨ k = 9 →
    heldBits p c a ||| 2 ^ k < 2 ^ 64 ∧ bits (heldBits p c a ||| 2 ^ k) 0 6 = p ∧ bits (heldBits p c a ||| 2 ^ k) 6 1 = c
      ∧ bits (heldBits p c a ||| 2 ^ k) 10 1 = a ∧ bits (heldBits p c a ||| 2 ^ k) 7 1 = b2n (k == 7)
      ∧ bits (heldBits p c a ||| 2 ^ k) 9 1 = b2n (k == 9) := by
  rintro p c a k (rfl | rfl)
  · revert p c a
    decide
  · revert p c a
    decide

/-- What a write of one bit of the entry puts into it. -/
def Chip.hostBit (s : Chip) (e k : Nat) : Nat :=
  heldBits (s.rd (A.HOM_HOST e) F.HOM_HOST_PARTITION) (s.rd (A.HOM_HOST e) F.HOM_HOST_CACHING) (s.rd (A.HOM_HOST e) F.HOM_HOST_ASSIGNED)
    ||| 2 ^ k

theorem Chip.hostBit_bits (s : Chip) (e k : Nat) (hk : k = 7 ∨ k = 9) : s.hostBit e k < 2 ^ 64 ∧ s.HostBits e (s.hostBit e k)
    ∧ bits (s.hostBit e k) 7 1 = b2n (k == 7) ∧ bits (s.hostBit e k) 9 1 = b2n (k == 9) := by
  obtain ⟨hlt, hp, hc, ha, hfailed, hdeclare⟩ := heldBits_or_bit ⟨_, s.rd_lt (A.HOM_HOST e) F.HOM_HOST_PARTITION⟩
    ⟨_, s.rd_lt (A.HOM_HOST e) F.HOM_HOST_CACHING⟩ ⟨_, s.rd_lt (A.HOM_HOST e) F.HOM_HOST_ASSIGNED⟩ k hk
  exact ⟨hlt, ⟨hp, hc, ha⟩, hfailed, hdeclare⟩

theorem Chip.writeBit_host (s : Chip) (src : Source) (e : Nat) (he : e < 16384) (f : Fld) :
    s.writeBit src (A.HOM_HOST e) f = s.busWrite src false (A.HOM_HOST e) 8 (s.hostBit e f.lo) := by
  have hspecs : (hostLoc e).specs.filter (fun x => x.acc == .rw || x.acc == .rwl)
      = [⟨F.HOM_HOST_PARTITION, .rwl, .any, 0⟩, ⟨F.HOM_HOST_CACHING, .rwl, .any, 0⟩, ⟨F.HOM_HOST_ASSIGNED, .rwl, .any, 0⟩] := rfl
  have hfirst : 0 + s.rd (A.HOM_HOST e) F.HOM_HOST_PARTITION <<< F.HOM_HOST_PARTITION.lo = s.rd (A.HOM_HOST e) F.HOM_HOST_PARTITION := by
    rw [Nat.zero_add, show F.HOM_HOST_PARTITION.lo = 0 from rfl, Nat.shiftLeft_zero]
  unfold Chip.writeBit
  rw [locate_HOM_HOST e he]
  simp only [Option.map_some, Option.getD_some, hspecs, List.foldl_cons, List.foldl_nil, hfirst]
  rfl

/-! ### What a written bit starts -/

theorem Chip.hostSet_declares (s old : Chip) (e : Nat) (hfailed : old.flag (A.HOM_HOST e) F.HOM_HOST_FAILED = false)
    (hassigned : s.flag (A.HOM_HOST e) F.HOM_HOST_ASSIGNED = true) (hcaching : s.flag (A.HOM_HOST e) F.HOM_HOST_CACHING = true)
    (hassigned' : old.flag (A.HOM_HOST e) F.HOM_HOST_ASSIGNED = true) (hcaching' : old.flag (A.HOM_HOST e) F.HOM_HOST_CACHING = true) :
    s.hostSet old e true = s.declareFailed e := by
  unfold Chip.hostSet
  simp only [hfailed, hassigned, hcaching, hassigned', hcaching', Bool.false_and, Bool.and_self, Bool.not_true, Bool.false_eq_true, if_false,
    Bool.or_self, if_true]

theorem Chip.hostSet_clears (s old : Chip) (e : Nat) (hfailed : old.flag (A.HOM_HOST e) F.HOM_HOST_FAILED = true)
    (hcleared : s.flag (A.HOM_HOST e) F.HOM_HOST_FAILED = false) (hassigned : s.flag (A.HOM_HOST e) F.HOM_HOST_ASSIGNED = true)
    (hcaching : s.flag (A.HOM_HOST e) F.HOM_HOST_CACHING = true) :
    s.hostSet old e false = (s.wr (A.HOM_HOST e) F.HOM_HOST_LOST_LINES 0).startHeartbeat e := by
  have hkept : ∀ f : Fld, F.HOM_HOST_LOST_LINES.disjoint f →
      (s.wr (A.HOM_HOST e) F.HOM_HOST_LOST_LINES 0).flag (A.HOM_HOST e) f = s.flag (A.HOM_HOST e) f := fun f hf => by
    unfold Chip.flag
    rw [s.rd_wr_disjoint _ _ _ _ hf]
  have hassigned' := (hkept F.HOM_HOST_ASSIGNED (by decide)).trans hassigned
  have hcaching' := (hkept F.HOM_HOST_CACHING (by decide)).trans hcaching
  unfold Chip.hostSet
  simp only [hfailed, hcleared, Bool.not_false, Bool.and_self, if_true, hassigned', hcaching', Bool.not_true, Bool.false_eq_true, if_false,
    Bool.true_or]

theorem Chip.running_startTimer (s : Chip) (t : Timer) (n : Nat) : (s.startTimer t n).running t = true := by
  unfold Chip.running Chip.startTimer
  simp

theorem Chip.flag_eq_of_rd {s t : Chip} {a : Nat} {f : Fld} (h : t.rd a f = s.rd a f) : t.flag a f = s.flag a f := by
  unfold Chip.flag
  rw [h]

/-- Newt's declaration reaches the home (R163). -/
theorem Chip.declare_written (s : Chip) (e : Nat) (he : e < 16384) (hserves : s.serves .newt (A.HOM_HOST e))
    (hassigned : s.flag (A.HOM_HOST e) F.HOM_HOST_ASSIGNED = true) (hcaching : s.flag (A.HOM_HOST e) F.HOM_HOST_CACHING = true)
    (hfailed : s.hostFailed e = false) (hhome : s.homeQuiet) (hviews : s.pool.views = [])
    (hbanks : s.banksOf (s.rd (A.HOM_HOST e) F.HOM_HOST_PARTITION) = [])
    (hquiet : s.flag (A.ERR_FAULT_CFG (s.rd (A.HOM_HOST e) F.HOM_HOST_PARTITION)) F.ERR_FAULT_CFG_NOTIFY_EN = false) :
    (s.writeBit .newt (A.HOM_HOST e) F.HOM_HOST_DECLARE).hostFailed e = true := by
  obtain ⟨hdata, hbits, hclear, hdeclare⟩ := s.hostBit_bits e 9 (.inr rfl)
  obtain ⟨⟨regs, hframe⟩, hsame⟩ := s.hostStored_acts e (s.hostBit e 9) (s.lockedAt (hostLoc e))
  obtain ⟨hpartition, hc, ha, hf⟩ := s.hostStored_fields e (s.hostBit e 9) (s.lockedAt (hostLoc e)) hbits
  rw [s.writeBit_host _ e he, show F.HOM_HOST_DECLARE.lo = 9 from rfl,
    s.busWrite_host .newt e _ he (.inr rfl) hserves hdata hbits (.inr rfl) (.inl hclear), hdeclare]
  generalize s.hostStored e (s.hostBit e 9) (s.lockedAt (hostLoc e)) = t at hframe hsame hpartition hc ha hf ⊢
  have hassigned' := (Chip.flag_eq_of_rd ha).trans hassigned
  have hcaching' := (Chip.flag_eq_of_rd hc).trans hcaching
  have hkept : t.rd (A.HOM_HOST e) F.HOM_HOST_FAILED = s.rd (A.HOM_HOST e) F.HOM_HOST_FAILED := by
    have hbit : s.rd (A.HOM_HOST e) F.HOM_HOST_FAILED < 2 := s.rd_lt _ _
    rw [hf, hclear]
    interval_cases s.rd (A.HOM_HOST e) F.HOM_HOST_FAILED <;> rfl
  have hpool : t.pool = s.pool := by rw [hframe]
  rw [show (b2n (9 == 9) != 0) = true from rfl, t.hostSet_declares s e hfailed hassigned' hcaching' hassigned hcaching]
  refine (t.declareFailed_acts e he hassigned' hcaching' ((Chip.flag_eq_of_rd hkept).trans hfailed) ?_ (hpool ▸ hviews) ?_ ?_).1
  · rwa [Chip.homeQuiet, hpool]
  · rw [hpartition, Chip.banksOf_sameButHost hsame he, hbanks]
  · rw [hpartition, Chip.notify_sameButHost hsame he, hquiet]

/-- The control host clears a failure whose walk is over (R160). -/
theorem Chip.clear_written (s : Chip) (e : Nat) (he : e < 16384) (hserves : s.serves .pf (A.HOM_HOST e)) (hfailed : s.hostFailed e = true)
    (hwalking : s.flag (A.HOM_HOST e) F.HOM_HOST_WALKING = false) (hassigned : s.flag (A.HOM_HOST e) F.HOM_HOST_ASSIGNED = true)
    (hcaching : s.flag (A.HOM_HOST e) F.HOM_HOST_CACHING = true) :
    ∃ u : Chip, s.writeBit .pf (A.HOM_HOST e) F.HOM_HOST_FAILED = u
      ∧ u.hostFailed e = false ∧ u.rd (A.HOM_HOST e) F.HOM_HOST_LOST_LINES = 0 ∧ u.running (.heartbeat e) = true
      ∧ u = { s with regs := u.regs, timers := u.timers } := by
  obtain ⟨hdata, hbits, hclear, hdeclare⟩ := s.hostBit_bits e 7 (.inl rfl)
  obtain ⟨⟨regs, hframe⟩, -⟩ := s.hostStored_acts e (s.hostBit e 7) (s.lockedAt (hostLoc e))
  obtain ⟨-, hc, ha, hf⟩ := s.hostStored_fields e (s.hostBit e 7) (s.lockedAt (hostLoc e)) hbits
  rw [s.writeBit_host _ e he, show F.HOM_HOST_FAILED.lo = 7 from rfl,
    s.busWrite_host .pf e _ he (.inl rfl) hserves hdata hbits (.inl hdeclare) (.inr ⟨rfl, hwalking⟩), hdeclare]
  generalize s.hostStored e (s.hostBit e 7) (s.lockedAt (hostLoc e)) = t at hframe hc ha hf ⊢
  have hcleared : t.flag (A.HOM_HOST e) F.HOM_HOST_FAILED = false := by
    unfold Chip.flag
    rw [hf, hclear, show complementOf 1 (b2n (7 == 7)) = 0 from rfl, Nat.and_zero]
    rfl
  rw [show (b2n (7 == 9) != 0) = false from rfl,
    t.hostSet_clears s e hfailed hcleared ((Chip.flag_eq_of_rd ha).trans hassigned) ((Chip.flag_eq_of_rd hc).trans hcaching)]
  refine ⟨_, rfl, ?_, t.rd_wr_same _ _ _, Chip.running_startTimer _ _ _, ?_⟩
  · exact (Chip.flag_eq_of_rd (t.rd_wr_disjoint _ _ _ _ (by decide))).trans hcleared
  · rw [hframe]
    rfl

/-! ### The obligation, part by part -/

theorem exec_snoopTimeout (i : Nat) (e : Fin 16384) (s : State) :
    exec (.snoopTimeout i e) s = .next (s.after (s.snoopExpired i e.val)) := rfl
theorem exec_heartbeatTimeout (e : Fin 16384) (s : State) :
    exec (.heartbeatTimeout e) s = .next (s.after (s.heartbeatMissed e.val)) := rfl
theorem exec_heartbeat (p : Packet) (s : State) :
    exec (.heartbeat p) s = .next (s.after (s.consume p (fun s => s.heartbeat p))) := rfl
theorem exec_failureWalkDone (e : Fin 16384) (s : State) : exec (.failureWalkDone e) s = .next (s.after (s.walkDone e.val)) := rfl
theorem exec_hostDeclare (src : Source) (e : Fin 16384) (s : State) :
    exec (.hostDeclare src e) s = .next (s.after (s.writeBit src (A.HOM_HOST e.val) F.HOM_HOST_DECLARE)) := rfl
theorem exec_hostFailedClear (src : Source) (e : Fin 16384) (s : State) :
    exec (.hostFailedClear src e) s = .next (s.after (s.writeBit src (A.HOM_HOST e.val) F.HOM_HOST_FAILED)) := rfl

theorem Chip.snoopExpired_cases (s : Chip) (i e : Nat) : (s.pool.txns.find i = none → s.snoopExpired i e = s)
    ∧ ∀ t, s.pool.txns.find i = some t → (∃ n ∈ t.snoops, n.eid = e ∧ n.done = false) → s.snoopExpired i e = s.declareFailed e := by
  unfold Chip.snoopExpired
  refine ⟨fun h => by rw [h], fun t h ⟨n, hmem, heid, hopen⟩ => ?_⟩
  have hany : t.snoops.any (fun n => n.eid == e && !n.done) = true := List.any_eq_true.2 ⟨n, hmem, by simp [heid, hopen]⟩
  rw [h]
  exact if_pos hany

theorem Chip.heartbeatMissed_cases (s : Chip) (e : Nat) :
    (s.powerState ≠ 0 ∨ s.expire (.heartbeat e) = none → s.heartbeatMissed e = s)
      ∧ ∀ c, s.powerState = 0 → s.expire (.heartbeat e) = some c → s.heartbeatMissed e = c.declareFailed e := by
  have hasleep : s.asleep = true ↔ s.powerState ≠ 0 := bne_iff_ne
  unfold Chip.heartbeatMissed
  refine ⟨fun h => ?_, fun c hawake hexpire => ?_⟩
  · rcases h with h | h
    · exact if_pos (hasleep.2 h)
    · simp only [h, ite_self]
  · rw [if_neg (fun h => hasleep.1 h hawake), hexpire]

theorem Chip.heartbeat_eq (s : Chip) (p : Packet) :
    s.heartbeat p = if s.cachingHost p.partition p.src = true ∧ s.hostFailed p.src = false
      then s.startTimer (.heartbeat p.src) (ms (s.rd A.HOM_CTL F.HOM_CTL_HB_MS)) else s := by
  unfold Chip.heartbeat Chip.startHeartbeat
  simp only [Bool.and_eq_true, Bool.not_eq_true']

theorem Chip.walkDone_of_expired (s c : Chip) (e : Nat) (h : s.expire (.walk e) = some c) :
    s.walkDone e = c.wrB (A.HOM_HOST e) F.HOM_HOST_WALKING false := by
  unfold Chip.walkDone
  rw [h]

/-- Settles O35: the declaration changes the host's entry, the records and the timers; each event comes to a declaration, a timer started
again or one bit of the entry. -/
theorem silentHostsAreDeclaredFailed : Obligations.SilentHostsAreDeclaredFailed := by
  unfold Obligations.SilentHostsAreDeclaredFailed
  refine ⟨fun s e he => ⟨s.declareFailed_of_not e, fun ha hc hf hhome hviews hbanks hquiet =>
      s.declareFailed_acts e he ha hc hf hhome hviews hbanks hquiet⟩,
    fun i e s => ?_, fun e s => ?_, fun p s haccepts => ?_, fun e c s hexpire => ?_,
    fun e s hserves ha hc hf hhome hviews hbanks hquiet => ?_, fun e s hserves hfailed hwalking ha hc => ?_⟩
  · obtain ⟨hnone, hopen⟩ := s.toChip.snoopExpired_cases i e.val
    rw [exec_snoopTimeout]
    exact ⟨fun h => by rw [hnone h], fun t h hsnoop => by rw [hopen t h hsnoop]⟩
  · obtain ⟨hnothing, hmissed⟩ := s.toChip.heartbeatMissed_cases e.val
    rw [exec_heartbeatTimeout]
    exact ⟨fun h => by rw [hnothing h], fun c hawake h => by rw [hmissed c hawake h]⟩
  · rw [exec_heartbeat, s.toChip.consume_of_accepts p _ haccepts, Chip.heartbeat_eq]
  · refine ⟨_, by rw [exec_failureWalkDone, s.toChip.walkDone_of_expired c e.val hexpire], ?_, rfl⟩
    exact Chip.flag_wrB_same _ _ _ _ (by decide)
  · exact ⟨_, exec_hostDeclare .newt e s, s.toChip.declare_written e.val e.isLt hserves ha hc hf hhome hviews hbanks hquiet⟩
  · obtain ⟨u, hu, hacts⟩ := s.toChip.clear_written e.val e.isLt hserves hfailed hwalking ha hc
    exact ⟨u, by rw [exec_hostFailedClear, hu], hacts⟩

end Sys2Proof.Machine
end

section
/-!
Sync counters (spec/05_memory_model.md R176 to R181): what a write of a counter's entry changes, COUNTER_SET, and the release-adds of
COUNTER_ADD and of COUNTER tadpoles.
-/
open Sys2Proof Sys2Proof.Machine
namespace Sys2Proof.Machine

/-! ### The entry of a counter -/

/-- A field whose bits lie outside a protected entry reads as before, at whatever offset the field's own entry begins. -/
theorem RegFile.get_setProtected_outside (r : RegFile) (a n v b : Nat) (f : Fld)
    (h : 8 * b + f.lo + f.width ≤ 8 * a ∨ 8 * a + 128 * n ≤ 8 * b + f.lo) : (r.setProtected a n v).get b f = r.get b f := by
  apply Nat.eq_of_testBit_eq
  intro j
  rw [RegFile.testBit_get, RegFile.testBit_get]
  by_cases hj : j < f.width
  · unfold RegFile.bit RegFile.setProtected
    rw [RegFile.getLsbD_setSpan _ _ _ _ _ _ (by omega), if_neg (by omega), RegFile.getLsbD_setSpan _ _ _ _ _ _ (by omega), if_neg (by omega)]
  · simp [hj]

/-- Part `u` is part `s` but for the entry of counter `c`, which passes its check, and for the commands whose WAITs this fixes. -/
structure Chip.CounterWritten (s u : Chip) (c : Nat) : Prop where
  ok : u.counterOk c = true
  frame : u = { s with regs := u.regs, seq := { s.seq with cmds := u.seq.cmds } }
  outside : ∀ (a : Nat) (f : Fld), 8 * a + f.lo + f.width ≤ 8 * A.SEQ_COUNTER c ∨ 8 * A.SEQ_COUNTER c + 256 ≤ 8 * a + f.lo →
    u.rd a f = s.rd a f

/-- A counter's entry after a write of one of its fields. -/
def Chip.wrCounter (s : Chip) (c : Nat) (f : Fld) (v : Nat) : Chip := s.wrP (A.SEQ_COUNTER c) 2 f v

theorem Chip.wrCounter_written (s : Chip) (c : Nat) (f : Fld) (v : Nat) : s.CounterWritten (s.wrCounter c f v) c where
  ok := RegFile.checked_setP _ _ _ _ _
  frame := rfl
  outside _ _ h := RegFile.get_setProtected_outside _ _ _ _ _ _ h

theorem Chip.CounterWritten.wrCounter {s u : Chip} {c : Nat} (h : s.CounterWritten u c) (f : Fld) (v : Nat) :
    s.CounterWritten (u.wrCounter c f v) c where
  ok := RegFile.checked_setP _ _ _ _ _
  frame := by rw [h.frame]; rfl
  outside a g ha := ((u.wrCounter_written c f v).outside a g ha).trans (h.outside a g ha)

theorem Chip.CounterWritten.fixWaits {s u : Chip} {c : Nat} (h : s.CounterWritten u c) (d : Nat) : s.CounterWritten (u.fixWaits d) c where
  ok := h.ok
  frame := by rw [h.frame]; rfl
  outside := h.outside

@[simp] theorem Chip.counter_fixWaits (s : Chip) (c d : Nat) (f : Fld) : (s.fixWaits d).counter c f = s.counter c f := rfl

theorem Chip.counter_wrCounter_same (s : Chip) (c : Nat) (f : Fld) (v : Nat) (h : f.lo + f.width ≤ 128) :
    (s.wrCounter c f v).counter c f = v % 2 ^ f.width := RegFile.get_setP_same _ _ _ _ _ h

theorem Chip.counter_wrCounter_apart (s : Chip) (c : Nat) (f g : Fld) (v : Nat) (hg : g.lo + g.width ≤ 128)
    (h : g.lo + g.width ≤ f.lo ∨ f.lo + f.width ≤ g.lo) : (s.wrCounter c f v).counter c g = s.counter c g :=
  RegFile.get_setP_apart _ _ _ _ _ _ hg h

theorem Chip.counterSet_eq (s : Chip) (c value mode job : Nat) :
    s.counterSet c value mode job = ((((s.wrCounter c F.SEQ_COUNTER_VALUE value).wrCounter c F.SEQ_COUNTER_MODE mode).wrCounter c
      F.SEQ_COUNTER_OWNER_JOB job).wrCounter c F.SEQ_COUNTER_SCOPE 0).fixWaits c := rfl

theorem Chip.counterAdd_eq (s : Chip) (c n sc : Nat) :
    s.counterAdd c n sc = ((s.wrCounter c F.SEQ_COUNTER_VALUE ((s.counterValue c + n) % 2 ^ 48)).wrCounter c F.SEQ_COUNTER_SCOPE
      sc).fixWaits c := rfl

theorem Chip.counterSet_written (s : Chip) (c value mode job : Nat) : s.CounterWritten (s.counterSet c value mode job) c :=
  ((((s.wrCounter_written c _ _).wrCounter _ _).wrCounter _ _).wrCounter _ _).fixWaits c

theorem Chip.counterAdd_written (s : Chip) (c n sc : Nat) : s.CounterWritten (s.counterAdd c n sc) c :=
  ((s.wrCounter_written c _ _).wrCounter _ _).fixWaits c

/-- COUNTER_SET sets the three fields and records scope NONE (R181). -/
theorem Chip.counterSet_fields (s : Chip) (c value mode job : Nat) (hvalue : value < 2 ^ 48) (hmode : mode < 2) (hjob : job < 2 ^ 16) :
    (s.counterSet c value mode job).counterValue c = value ∧ (s.counterSet c value mode job).counter c F.SEQ_COUNTER_MODE = mode
      ∧ (s.counterSet c value mode job).counter c F.SEQ_COUNTER_OWNER_JOB = job
      ∧ (s.counterSet c value mode job).counter c F.SEQ_COUNTER_SCOPE = 0 := by
  simp (disch := decide) only [Chip.counterSet_eq, Chip.counterValue, Chip.counter_fixWaits, Chip.counter_wrCounter_same,
    Chip.counter_wrCounter_apart]
  exact ⟨Nat.mod_eq_of_lt hvalue, Nat.mod_eq_of_lt hmode, Nat.mod_eq_of_lt hjob, rfl⟩

/-- An add moves VALUE on modulo 2^48 (R178, R179). -/
theorem Chip.counterAdd_value (s : Chip) (c n sc : Nat) : (s.counterAdd c n sc).counterValue c = (s.counterValue c + n) % 2 ^ 48 := by
  rw [Chip.counterAdd_eq, Chip.counterValue, Chip.counter_fixWaits, Chip.counter_wrCounter_apart _ _ _ _ _ (by decide) (by decide),
    Chip.counter_wrCounter_same _ _ _ _ (by decide)]
  exact Nat.mod_mod _ _

/-- An add records its scope (R179). -/
theorem Chip.counterAdd_scope (s : Chip) (c n sc : Nat) (hsc : sc < 4) : (s.counterAdd c n sc).counter c F.SEQ_COUNTER_SCOPE = sc := by
  rw [Chip.counterAdd_eq, Chip.counter_fixWaits, Chip.counter_wrCounter_same _ _ _ _ (by decide)]
  exact Nat.mod_eq_of_lt hsc

/-- An add leaves the other fields of the entry. -/
theorem Chip.counterAdd_apart (s : Chip) (c n sc : Nat) (g : Fld) (hg : g = F.SEQ_COUNTER_MODE ∨ g = F.SEQ_COUNTER_OWNER_JOB) :
    (s.counterAdd c n sc).counter c g = s.counter c g := by
  rw [Chip.counterAdd_eq, Chip.counter_fixWaits]
  rcases hg with rfl | rfl <;>
    rw [Chip.counter_wrCounter_apart _ _ _ _ _ (by decide) (by decide), Chip.counter_wrCounter_apart _ _ _ _ _ (by decide) (by decide)]

/-! ### COUNTER_SET -/

theorem Chip.runSequencer_counterSet (s : Chip) (m : Cmd) (h : slotOp m.cur = oCOUNTER_SET) : s.runSequencer m = s.runCounterSet m := by
  simp [Chip.runSequencer, h, oFLUSH_RANGE, oTIER_HINT, oPREFETCH, oCOUNTER_SET]

/-- The job on whose behalf a command names a counter: that of its queue, and none on Newt's path. -/
def Chip.jobOf (s : Chip) (m : Cmd) : Nat := if m.queue < 1024 then s.rd (A.SEQ_Q_CFG m.queue) F.SEQ_Q_CFG_JOB else 0

theorem Chip.runCounterSet_of_ok (s : Chip) (m : Cmd) (h : s.counterOk (crefIndex (prm m.cur 8 32)) = true) :
    s.runCounterSet m =
      let c := crefIndex (prm m.cur 8 32)
      let owner := s.counter c F.SEQ_COUNTER_OWNER_JOB
      if owner ≠ 0 ∧ s.jobOf m ≠ owner ∧ s.fromPf m = false then s.endPacket m.id .ownerMismatch 0
      else (s.counterSet c (prm m.cur 16 48) (prm m.cur 12 1) (prm m.cur 22 16)).endPacket m.id .ok 0 := by
  unfold Chip.runCounterSet Chip.jobOf
  simp only [h, Bool.not_true, Bool.false_eq_true, if_false, Nat.blt_eq, Bool.and_eq_true, bne_iff_ne, Bool.not_eq_true', and_assoc]

/-- Settles O46: COUNTER_SET comes to a write of the entry, unless the counter is another job's. -/
theorem counterSetWritesOneCounter : Obligations.CounterSetWritesOneCounter := by
  unfold Obligations.CounterSetWritesOneCounter
  intro s m ho c owner job hok
  rw [s.runSequencer_counterSet m ho, s.runCounterSet_of_ok m hok]
  refine ⟨fun ⟨howned, hjob, hpf⟩ => if_pos ⟨howned, hjob, hpf⟩, fun hmay => ?_⟩
  have hnot : ¬ (owner ≠ 0 ∧ job ≠ owner ∧ s.fromPf m = false) := by
    rintro ⟨howned, hjob, hpf⟩
    rcases hmay with h | h | h
    · exact howned h
    · exact hjob h
    · rw [hpf] at h; cases h
  obtain ⟨hvalue, hmode, howner, hscope⟩ := s.counterSet_fields c (prm m.cur 16 48) (prm m.cur 12 1) (prm m.cur 22 16)
    (bits_lt _ _ _) (bits_lt _ _ _) (bits_lt _ _ _)
  have hwritten := s.counterSet_written c (prm m.cur 16 48) (prm m.cur 12 1) (prm m.cur 22 16)
  exact ⟨_, if_neg hnot, hwritten.ok, hvalue, hmode, howner, hscope, hwritten.frame, hwritten.outside⟩

/-! ### COUNTER_ADD -/

theorem Chip.runSequencer_counterAdd (s : Chip) (m : Cmd) (h : slotOp m.cur = oCOUNTER_ADD) (hstage : m.stage ≠ 9) :
    s.runSequencer m = s.runCounterAdd m := by
  simp [Chip.runSequencer, h, hstage, oFLUSH_RANGE, oTIER_HINT, oPREFETCH, oCOUNTER_SET, oCOUNTER_ADD]

/-- An add to a counter of this E9 (R177, R179). -/
theorem Chip.addNow_local (s : Chip) (m : Cmd) (h : crefEid (prm m.cur 8 32) = s.selfEid) :
    s.addNow m =
      let c := crefIndex (prm m.cur 8 32)
      let n := prm m.cur 16 48
      if s.counterOk c = false then s.failCmd m .tableCheck 4 (A.SEQ_COUNTER c) 0
      else if n = 0 then s.endPacket m.id .ok (s.counterValue c)
      else (s.counterAdd c n (prm m.cur 12 8)).endPacket m.id .ok ((s.counterAdd c n (prm m.cur 12 8)).counterValue c) := by
  unfold Chip.addNow
  simp only [h, beq_self_eq_true, if_true, Bool.not_eq_true', beq_iff_eq]
  by_cases hn : prm m.cur 16 48 = 0
  · simp only [hn, if_true]
  · simp only [hn, if_false]

/-- What a command waited for has ended well. -/
theorem find_waits_of_ok (l : List (Nat × Option Status)) (h : ∀ w ∈ l, w.2 = some .ok) :
    l.any (fun w => w.2.isNone) = false ∧ (l.filterMap (·.2)).find? (· != .ok) = none := by
  refine ⟨List.any_eq_false.2 fun w hw => by simp [h w hw], List.find?_eq_none.2 fun st hst => ?_⟩
  obtain ⟨w, hw, hwst⟩ := List.mem_filterMap.1 hst
  rw [h w hw] at hwst
  simp [← Option.some.inj hwst]

/-- An add is applied at once, but under DOMAIN once what it waits for has ended well (R179, R180). -/
theorem Chip.runCounterAdd_now (s : Chip) (m : Cmd)
    (h : prm m.cur 12 8 ≠ 3 ∨ prm m.cur 16 48 = 0 ∨ (m.stage = 1 ∧ ∀ w ∈ m.waits, w.2 = some .ok)) :
    ∃ x : Cmd, x.id = m.id ∧ x.cur = m.cur ∧ s.runCounterAdd m = s.addNow x := by
  unfold Chip.runCounterAdd
  by_cases hnow : (prm m.cur 12 8 != 3 || prm m.cur 16 48 == 0) = true
  · exact ⟨m, rfl, rfl, if_pos hnow⟩
  · have hwaited : m.stage = 1 ∧ ∀ w ∈ m.waits, w.2 = some .ok := by
      simp only [Bool.or_eq_true, bne_iff_ne, beq_iff_eq, not_or] at hnow
      exact (h.resolve_left hnow.1).resolve_left hnow.2
    obtain ⟨hnone, hfind⟩ := find_waits_of_ok m.waits hwaited.2
    refine ⟨{ m with waits := [] }, rfl, rfl, ?_⟩
    rw [if_neg hnow, hwaited.1, hnone, hfind]
    rfl

/-- A DOMAIN add that waited on a write that failed is not applied (R180). -/
theorem Chip.runCounterAdd_of_failed (s : Chip) (m : Cmd) (k : Nat) (st : Status) (hscope : prm m.cur 12 8 = 3) (hn : prm m.cur 16 48 ≠ 0)
    (hstage : m.stage ≠ 0) (hwaits : m.waits = [(k, some st)]) (hst : st ≠ .ok) : s.runCounterAdd m = s.endPacket m.id st 0 := by
  unfold Chip.runCounterAdd
  simp [hscope, hn, hstage, hwaits, hst]

/-! ### COUNTER tadpoles -/

theorem exec_counterTadpole (p : Packet) (s : State) (h : s.accepts p) :
    exec (.counterTadpole p) s = .next (s.after (((s.taken p).counterTadpole p).flowApplied p)) := by
  rw [← s.toChip.consume_of_accepts p (fun s => s.counterTadpole p) h]
  rfl

/-- A refused COUNTER tadpole leaves its record and its answer (R347, R442). -/
def Chip.counterRefused (s : Chip) (p : Packet) (st : Status) : Chip :=
  let l := s.logArrival p st (some (CounterBody.ofBody p.body).counter)
  l.send (l.statusAnswer p st 0)

theorem Chip.counterTadpole_malformed (s : Chip) (p : Packet) (h : bits p.body 96 288 ≠ 0 ∨ (CounterBody.ofBody p.body).scope < 2) :
    s.counterTadpole p = s.counterRefused p .formatInvalid := by
  unfold Chip.counterTadpole Chip.counterRefused
  by_cases hone : (CounterBody.ofBody p.body).scope = 1
  · simp [hone]
  · have hbad : bits p.body 96 288 ≠ 0 ∨ (CounterBody.ofBody p.body).scope = 0 := h.imp_right (by omega)
    simp [hbad]

/-- A well-formed COUNTER tadpole by what its counter says of it (R177, R179). -/
theorem Chip.counterTadpole_wellFormed (s : Chip) (p : Packet) (hzero : bits p.body 96 288 = 0)
    (hscope : 2 ≤ (CounterBody.ofBody p.body).scope) :
    let b := CounterBody.ofBody p.body
    (s.counterIs b.counter p.partition = false → s.counterTadpole p = s.counterRefused p .accessDenied)
      ∧ (s.counterIs b.counter p.partition = true →
          (b.operand = 0 → s.counterTadpole p = s.send (s.statusAnswer p .ok 0))
          ∧ (b.operand ≠ 0 → s.counterOk b.counter = true →
              let u := s.counterAdd b.counter b.operand b.scope
              s.counterTadpole p = u.send (u.statusAnswer p .ok 0))) := by
  have h0 : (CounterBody.ofBody p.body).scope ≠ 0 := by omega
  have h1 : (CounterBody.ofBody p.body).scope ≠ 1 := by omega
  refine ⟨fun hother => ?_, fun hmine => ⟨fun hn => ?_, fun hn hok => ?_⟩⟩
  · simp [Chip.counterTadpole, Chip.counterRefused, hzero, h0, h1, hother]
  · simp [Chip.counterTadpole, hzero, h0, h1, hmine, hn]
  · simp [Chip.counterTadpole, hzero, h0, h1, hmine, hn, hok]

/-- Settles O47: an add comes to a write of the counter's entry, by a command and by a tadpole. -/
theorem counterAddsAreReleaseAdds : Obligations.CounterAddsAreReleaseAdds := by
  unfold Obligations.CounterAddsAreReleaseAdds
  constructor
  · intro s m ho hstage heid c n scope
    rw [s.runSequencer_counterAdd m ho hstage]
    refine ⟨fun hnow => ?_, fun hscope hn hbegun k st hwaits hst => s.runCounterAdd_of_failed m k st hscope hn hbegun hwaits hst⟩
    obtain ⟨x, hid, hcur, hrun⟩ := s.runCounterAdd_now m hnow
    rw [hrun, s.addNow_local x (by rw [hcur, heid]), hcur, hid]
    refine ⟨fun hbad => ⟨x, if_pos hbad, hid⟩, fun hok hn => ?_, fun hok hn hscope => ?_⟩
    · exact (if_neg (by rw [hok]; decide)).trans (if_pos hn)
    · have hwritten := s.counterAdd_written c n scope
      refine ⟨s.counterAdd c n scope, ?_, hwritten.ok, s.counterAdd_value c n scope, s.counterAdd_scope c n scope (by omega),
        s.counterAdd_apart c n scope _ (.inl rfl), s.counterAdd_apart c n scope _ (.inr rfl), hwritten.frame, hwritten.outside⟩
      rw [← s.counterAdd_value c n scope]
      exact (if_neg (by rw [hok]; decide)).trans (if_neg hn)
  · intro p s haccepts v b no
    rw [exec_counterTadpole p s haccepts]
    refine ⟨fun h => by rw [v.counterTadpole_malformed p h]; rfl, fun hzero hscope => ?_⟩
    obtain ⟨hother, hmine⟩ := v.counterTadpole_wellFormed p hzero hscope
    refine ⟨fun h => by rw [hother h]; rfl, fun h => ⟨fun hn => by rw [(hmine h).1 hn], fun hn hok => ?_⟩⟩
    exact ⟨v.counterAdd b.counter b.operand b.scope, by rw [(hmine h).2 hn hok], v.counterAdd_value _ _ _,
      v.counterAdd_scope _ _ _ (bits_lt _ _ _), (v.counterAdd_written _ _ _).frame⟩

end Sys2Proof.Machine
end

section
/-!
WAIT and WAIT_COPY (spec/05_memory_model.md R182, R184): how a WAIT begins, its deadline, and its completion.
-/
open Sys2Proof Sys2Proof.Machine
namespace Sys2Proof.Machine

/-! ### The only command of the sequencer -/

/-- The part with one command alone. -/
def Chip.withCmd (s : Chip) (m : Cmd) : Chip := { s with seq := { s.seq with cmds := [m] } }

theorem Chip.setCmd_of_one (s : Chip) (m x : Cmd) (h : s.seq.cmds = [m]) (hid : m.id = x.id) : s.setCmd x = s.withCmd x := by
  simp [Chip.setCmd, Chip.modSeq, Chip.withCmd, h, hid]

theorem Chip.byTag_of_none (s : Chip) (q tag : Nat) (ok : Cmd → Bool)
    (h : ∀ m ∈ s.seq.cmds, m.queue ≠ q ∨ (slotTag m.slot ≠ tag ∧ slotTag m.cur ≠ tag)) : s.byTag q tag ok = none := by
  refine List.find?_eq_none.2 fun m hm hfound => ?_
  simp only [Bool.and_eq_true, Bool.or_eq_true, beq_iff_eq] at hfound
  obtain ⟨⟨hq, htag⟩, -⟩ := hfound
  rcases h m hm with hother | ⟨hslot, hcur⟩
  · exact hother hq
  · exact htag.elim hslot hcur

theorem Chip.byTag_of_one (s : Chip) (m : Cmd) (q tag : Nat) (ok : Cmd → Bool) (h : s.seq.cmds = [m]) (hq : m.queue = q)
    (htag : slotTag m.cur = tag) : s.byTag q tag ok = if ok m = true then some m else none := by
  unfold Chip.byTag
  rw [h, List.find?_singleton]
  simp [hq, htag]

/-! ### A WAIT begins -/

theorem Chip.runSequencer_wait (s : Chip) (m : Cmd) (h : slotOp m.cur = oWAIT) (hstage : m.stage = 0) :
    s.runSequencer m = s.startWait m (crefIndex (prm m.cur 8 32)) (prm m.cur 12 8) (prm m.cur 14 48) (prm m.cur 20 32) := by
  simp [Chip.runSequencer, h, hstage, oFLUSH_RANGE, oTIER_HINT, oPREFETCH, oCOUNTER_SET, oCOUNTER_ADD, oWAIT]

theorem Chip.runEngine_waitCopy (s : Chip) (m : Cmd) (h : slotOp m.cur = oWAIT_COPY) (hstage : m.stage = 0) :
    s.runEngine m = s.startWait m (crefIndex (prm m.cur 8 32)) (prm m.cur 12 8) (prm m.cur 14 48) (prm m.cur 20 32) := by
  simp [Chip.runEngine, h, hstage, oCOPY, oFILL, oWAIT_COPY]

/-- The status of a WAIT whose condition holds, with VALUE (R182). -/
def Chip.waitStatus (s : Chip) (c scope t : Nat) : Option (Status × Nat) :=
  if waitHolds (s.counterValue c) t then
    some (if scope ≤ s.counter c F.SEQ_COUNTER_SCOPE then .ok else .scopeMismatch, s.counterValue c) else none

/-- A command at its WAIT. -/
def Cmd.atWait (m : Cmd) (w : WaitRec) : Cmd := { m with stage := 5, wait := some w }

/-- The WAIT of the only command has its status fixed where its condition holds. -/
theorem Chip.fixWaits_withCmd (s : Chip) (m : Cmd) (c scope t : Nat) :
    (s.withCmd (m.atWait ⟨c, scope, t, none⟩)).fixWaits c = s.withCmd (m.atWait ⟨c, scope, t, s.waitStatus c scope t⟩) := by
  have hvalue : ∀ x, (s.withCmd x).counterValue c = s.counterValue c := fun _ => rfl
  have hscope : ∀ x, (s.withCmd x).counter c F.SEQ_COUNTER_SCOPE = s.counter c F.SEQ_COUNTER_SCOPE := fun _ => rfl
  simp only [Chip.fixWaits, Chip.waitStatus, hvalue, hscope]
  by_cases hholds : waitHolds (s.counterValue c) t = true
  · simp [Chip.modSeq, Chip.withCmd, Cmd.atWait, hholds]
  · simp [Chip.modSeq, Chip.withCmd, Cmd.atWait, hholds]

/-- The deadline of a WAIT runs from its begin; 0 is none (R182). -/
def Chip.startDeadline (s : Chip) (m : Cmd) (usec : Nat) : Chip :=
  if usec = 0 then s else s.startTimer (.waitDeadline m.id) (us usec)

theorem Chip.startDeadline_frame (s : Chip) (m : Cmd) (usec : Nat) :
    s.startDeadline m usec = { s with timers := (s.startDeadline m usec).timers } := by
  unfold Chip.startDeadline
  split <;> rfl

theorem Chip.due_startDeadline (s : Chip) (m : Cmd) (usec : Nat) : (s.startDeadline m usec).due (.waitDeadline m.id)
    = if usec = 0 then s.due (.waitDeadline m.id) else some (s.raw + us usec) := by
  unfold Chip.startDeadline
  split
  · rfl
  · exact Chip.due_startTimer _ _ _

theorem Chip.startDeadline_withCmd (s : Chip) (m x : Cmd) (usec : Nat) :
    (s.withCmd x).startDeadline m usec = (s.startDeadline m usec).withCmd x := by
  unfold Chip.startDeadline
  split <;> rfl

theorem Chip.waitStatus_startDeadline (s : Chip) (m : Cmd) (usec c scope t : Nat) :
    (s.startDeadline m usec).waitStatus c scope t = s.waitStatus c scope t := by
  rw [Chip.startDeadline_frame]
  rfl

/-- The only command begins its WAIT (R182). -/
theorem Chip.startWait_of_one (s : Chip) (m : Cmd) (c scope t usec : Nat) (h : s.seq.cmds = [m]) (hmine : s.counterIs c m.part = true)
    (hok : s.counterOk c = true) :
    s.startWait m c scope t usec = (s.startDeadline m usec).withCmd (m.atWait ⟨c, scope, t, s.waitStatus c scope t⟩) := by
  have hcheck : s.arrivalCheck c m.part = none := by simp [Chip.arrivalCheck, hmine, hok]
  calc s.startWait m c scope t usec
      = ((s.setCmd (m.atWait ⟨c, scope, t, none⟩)).startDeadline m usec).fixWaits c := by
        simp only [Chip.startWait, Chip.startDeadline, Cmd.atWait, hcheck, beq_iff_eq]
    _ = _ := by
        rw [s.setCmd_of_one m _ h (by rfl), Chip.startDeadline_withCmd, Chip.fixWaits_withCmd, Chip.waitStatus_startDeadline]

/-! ### Deadline and completion -/

theorem exec_waitDeadline (q : Fin 1025) (tag : Nat) (s : State) :
    exec (.waitDeadline q tag) s = .next (s.after (s.waitExpires q.val tag)) := rfl
theorem exec_waitComplete (q : Fin 1025) (tag : Nat) (s : State) :
    exec (.waitComplete q tag) s = .next (s.after (s.waitComplete q.val tag)) := rfl

theorem Chip.running_of_expire {s c : Chip} {t : Timer} (h : s.expire t = some c) : s.running t = true := by
  obtain ⟨d, hdue, -⟩ := s.expire_eq c t h
  obtain ⟨e, hfind, -⟩ := Option.map_eq_some_iff.1 hdue
  exact List.any_eq_true.2 ⟨e, List.mem_of_find?_eq_some hfind, by simpa using List.find?_some hfind⟩

theorem Chip.expire_seq {s c : Chip} {t : Timer} (h : s.expire t = some c) : c.seq = s.seq := by
  obtain ⟨d, -, rfl⟩ := s.expire_eq c t h
  rw [Chip.stopTimer_seq, Chip.advance_seq]

/-- The deadline fixes TIMEOUT (R182). -/
theorem Chip.waitExpires_of_open (s c : Chip) (m : Cmd) (w : WaitRec) (q tag : Nat) (h : s.seq.cmds = [m]) (hq : m.queue = q)
    (htag : slotTag m.cur = tag) (hwait : m.wait = some w) (hopen : w.fixed = none) (hexpire : s.expire (.waitDeadline m.id) = some c) :
    s.waitExpires q tag = c.withCmd { m with wait := some { w with fixed := some (.timeout, c.counterValue w.counter) } } := by
  have hcmds : c.seq.cmds = [m] := by rw [Chip.expire_seq hexpire, h]
  unfold Chip.waitExpires
  simp only [s.byTag_of_one m q tag _ h hq htag, Chip.running_of_expire hexpire, if_true, hexpire, hwait, hopen, Option.isSome_none,
    Bool.false_eq_true, if_false]
  exact c.setCmd_of_one m { m with wait := _ } hcmds rfl

/-- A WAIT that stays open does not complete. -/
theorem Chip.waitComplete_of_open (s : Chip) (m : Cmd) (w : WaitRec) (q tag : Nat) (h : s.seq.cmds = [m]) (hq : m.queue = q)
    (htag : slotTag m.cur = tag) (hwait : m.wait = some w) (hopen : w.fixed = none) : s.waitComplete q tag = s := by
  unfold Chip.waitComplete
  simp [s.byTag_of_one m q tag _ h hq htag, hwait, hopen]

/-- The part and its only command once a WAIT has completed: WAIT_COPY goes on at stage 1. -/
def Cmd.waited (m : Cmd) : Cmd := { m with wait := none, stage := if slotOp m.cur = oWAIT_COPY then 1 else 5 }
def Chip.waitEnded (s : Chip) (m : Cmd) : Chip := (s.stopTimer (.waitDeadline m.id)).withCmd m.waited

/-- A WAIT whose status is fixed completes (R182, R184). -/
theorem Chip.waitComplete_of_fixed (s : Chip) (m : Cmd) (w : WaitRec) (st : Status) (v q tag : Nat) (h : s.seq.cmds = [m])
    (hq : m.queue = q) (htag : slotTag m.cur = tag) (hwait : m.wait = some w) (hstage : m.stage = 5) (hfixed : w.fixed = some (st, v)) :
    s.waitComplete q tag =
      if slotOp m.cur = oWAIT_COPY ∧ st = .ok then s.waitEnded m
      else (s.waitEnded m).failCmd m.waited st 4 (A.SEQ_COUNTER (crefIndex (prm m.cur 8 32)))
        (if slotOp m.cur = oWAIT_COPY then 0 else v) := by
  have hset : (s.stopTimer (.waitDeadline m.id)).setCmd m.waited = s.waitEnded m :=
    (s.stopTimer _).setCmd_of_one m m.waited h rfl
  rw [← hset]
  unfold Chip.waitComplete
  by_cases hcopy : slotOp m.cur = oWAIT_COPY
  · simp [s.byTag_of_one m q tag _ h hq htag, hwait, hstage, hfixed, hcopy, Cmd.waited]
  · simp [s.byTag_of_one m q tag _ h hq htag, hwait, hstage, hfixed, hcopy, Cmd.waited]

/-- A status of OK is assigned without a record. -/
theorem Chip.failCmd_ok (s : Chip) (m : Cmd) (kind addr res : Nat) : s.failCmd m .ok kind addr res = s.endPacket m.id .ok res := rfl

/-- Settles O48: a WAIT begins with its status fixed or open, its deadline and its completion find the only command by its TAG. -/
theorem waitsFixTheirStatus : Obligations.WaitsFixTheirStatus := by
  unfold Obligations.WaitsFixTheirStatus
  refine ⟨?_, fun q tag s => ⟨fun h => ?_, fun m w hcmds hq htag hwait hstage => ⟨fun c hopen hexpire => ?_, fun hopen => ?_, ?_⟩⟩⟩
  · intro s m ho hstage hcmds c scope t usec run hmine hok
    have hrun : run = s.startWait m c scope t usec := by
      by_cases hwait : slotOp m.cur = oWAIT
      · exact (if_pos hwait).trans (s.runSequencer_wait m hwait hstage)
      · exact (if_neg hwait).trans (s.runEngine_waitCopy m (ho.resolve_left hwait) hstage)
    refine ⟨_, hrun.trans (s.startWait_of_one m c scope t usec hcmds hmine hok), ?_, s.due_startDeadline m usec, ?_⟩
    · rw [Chip.startDeadline_frame]
      rfl
    · rw [Chip.startDeadline_frame]
      rfl
  · rw [exec_waitDeadline, exec_waitComplete, Chip.waitExpires, Chip.waitComplete, Chip.byTag_of_none _ _ _ _ h, Chip.byTag_of_none _ _ _ _ h]
    exact ⟨rfl, rfl⟩
  · rw [exec_waitDeadline, s.toChip.waitExpires_of_open c m w q.val tag hcmds hq htag hwait hopen hexpire]
    rfl
  · rw [exec_waitComplete, s.toChip.waitComplete_of_open m w q.val tag hcmds hq htag hwait hopen]
  · intro st v hfixed x u
    rw [exec_waitComplete, s.toChip.waitComplete_of_fixed m w st v q.val tag hcmds hq htag hwait hstage hfixed]
    refine ⟨fun hcopy hok => ?_, fun hop hok => ?_, fun hbad => ?_⟩
    · rw [if_pos ⟨hcopy, hok⟩]
      rfl
    · have hcopy : ¬ slotOp m.cur = oWAIT_COPY := by rw [hop]; decide
      rw [if_neg (fun h => hcopy h.1), if_neg hcopy, hok, Chip.failCmd_ok]
      rfl
    · rw [if_neg (fun h => hbad h.2)]
      rfl

end Sys2Proof.Machine
end

section
/-!
Writes to the staging store and the scratchpads (spec/05_memory_model.md R165 to R168, R178, R184, spec/10_packets_and_routing.md R346,
R347): COPY, FILL and WAIT_COPY on this E9, WRITE packets, and the STATUS answers to writes.
-/
open Sys2Proof Sys2Proof.Machine
namespace Sys2Proof.Machine

/-! ### Bytes put in place -/

/-- Memory `new` is `old` with the bytes `data` at the keys of `o`, `o + 1` and so on. -/
structure Mem.Wrote (old new : Mem) (key : Nat → Nat) (o : Nat) (data : List Byte) : Prop where
  bytes : ∀ i b, data[i]? = some b → new.byte (key (o + i)) = b
  others : ∀ k, (∀ i, i < data.length → k ≠ key (o + i)) → new.byte k = old.byte k

theorem Mem.putFrom_wrote (key : Nat → Nat) (m : Mem) (o : Nat) (data : List Byte)
    (h : ∀ i i', o ≤ i → o ≤ i' → i < o + data.length → i' < o + data.length → key i = key i' → i = i') :
    Mem.Wrote m (Mem.putFrom key m o data) key o data where
  bytes i b hb := by
    have hi : i < data.length := (List.getElem?_eq_some_iff.1 hb).1
    rw [Mem.byte_putFrom key m o i data h hi, List.getD_eq_getElem?_getD, hb, Option.getD_some]
  others k hk := Mem.byte_putFrom_other key m o k data fun i hlo hhi he => by
    refine hk (i - o) (by omega) ?_
    rw [Nat.add_sub_cancel' hlo, he]

theorem Chip.nodup_hbmOf (s : Chip) (p : Nat) : (s.hbmOf p).Nodup := (List.nodup_range' (step := 1)).filter _

/-- Offsets within the STG capacity of a partition lie at keys of their own (R166). -/
theorem Chip.stgKey_injOn (s : Chip) (p o n : Nat) (h : s.stgHas p o n = true) (i i' : Nat) (hi : i < o + n) (hi' : i' < o + n)
    (he : stgKey (s.hbmOf p) i = stgKey (s.hbmOf p) i') : i = i' := by
  have hcap : o + n ≤ 1610612736 * (s.hbmOf p).length := Nat.ble_eq.mp h
  have hne : s.hbmOf p ≠ [] := by
    intro hnil
    rw [hnil] at hcap
    simp at hcap
    omega
  exact stgKey_inj _ i i' (s.nodup_hbmOf p) hne (by omega) (by omega) he

theorem Chip.stgPut_wrote (s : Chip) (p o : Nat) (data : List Byte) (h : s.stgHas p o data.length = true) :
    Mem.Wrote s.seq.stg (s.stgPut p o data).seq.stg (stgKey (s.hbmOf p)) o data :=
  Mem.putFrom_wrote _ _ _ _ fun i i' _ _ hi hi' => s.stgKey_injOn p o data.length h i i' hi hi'

theorem Chip.scrPut_wrote (s : Chip) (e o : Nat) (data : List Byte) :
    Mem.Wrote s.seq.scr (s.scrPut e o data).seq.scr (scrKey e) o data :=
  Mem.putFrom_wrote _ _ _ _ fun i i' _ _ _ _ => scrKey_inj e i i'

/-! ### The arrival of bytes at a counter -/

/-- The arrival of `n` bytes at the counter that is named, where one is (R178). -/
def Chip.arriveAt (s : Chip) (counter : Option Nat) (n : Nat) : Chip := counter.elim s (fun c => s.arrive c n)

/-- An arrival changes registers and commands alone. -/
theorem Chip.arriveAt_frame (s : Chip) (counter : Option Nat) (n : Nat) :
    s.arriveAt counter n = { s with regs := (s.arriveAt counter n).regs, seq := { s.seq with cmds := (s.arriveAt counter n).seq.cmds } } := by
  cases counter <;> rfl

@[simp] theorem Chip.arriveAt_stg (s : Chip) (counter : Option Nat) (n : Nat) : (s.arriveAt counter n).seq.stg = s.seq.stg := by
  cases counter <;> rfl
@[simp] theorem Chip.arriveAt_scr (s : Chip) (counter : Option Nat) (n : Nat) : (s.arriveAt counter n).seq.scr = s.seq.scr := by
  cases counter <;> rfl

/-- An arrival moves its counter on by the bytes or by one, at DEVICE scope (R178). -/
theorem Chip.arrive_counter (s : Chip) (c n : Nat) : (s.arrive c n).counter c F.SEQ_COUNTER_SCOPE = 2
    ∧ (s.arrive c n).counterValue c
      = (s.counterValue c + (if s.counter c F.SEQ_COUNTER_MODE = 0 then n else 1)) % 2 ^ 48 := by
  unfold Chip.arrive
  refine ⟨s.counterAdd_scope c _ 2 (by decide), ?_⟩
  rw [s.counterAdd_value]
  simp only [beq_iff_eq]

/-! ### Moves of commands -/

theorem Chip.writeAt_stg (s : Chip) (m : Cmd) (o : Nat) (data : List Byte) (counter : Option Nat) :
    s.writeAt m (.stg o) data counter = ((s.stgPut m.part o data).arriveAt counter data.length, m) := by
  cases counter <;> rfl

theorem Chip.writeAt_scr (s : Chip) (m : Cmd) (e o : Nat) (data : List Byte) (counter : Option Nat) :
    s.writeAt m (.scr e o) data counter = ((s.scrPut e o data).arriveAt counter data.length, m) := by
  cases counter <;> rfl

/-- A move whose checks pass is a write, then the command is only waited for (R167). -/
theorem Chip.moveTo_of_ready (s : Chip) (m : Cmd) (d : Dest) (data : List Byte) (counter : Option Nat)
    (hcount : s.countCheck m d counter = none) (hready : s.writeReady m d data.length = .ok []) :
    s.moveTo m d data counter = (s.writeAt m d data counter).1.issued (s.writeAt m d data counter).2 .ok data.length := by
  simp [Chip.moveTo, hcount, Chip.putMany, Chip.writesReady, hready]

/-- The counter of a locator passes the check of a local write. -/
theorem Chip.countCheck_local (s : Chip) (m : Cmd) (d : Dest) (l : Locator)
    (h : l.countEn = true → s.counterIs l.counter m.part = true ∧ s.counterOk l.counter = true) : s.countCheck m d l.count? = none := by
  have hcheck : ∀ c, l.count? = some c → s.arrivalCheck c m.part = none := by
    intro c hc
    unfold Locator.count? at hc
    split at hc
    · rename_i hen
      obtain ⟨hmine, hok⟩ := h hen
      cases hc
      simp [Chip.arrivalCheck, hmine, hok]
    · cases hc
  unfold Chip.countCheck
  cases hcount : l.count? with
  | none => cases d <;> rfl
  | some c => cases d <;> simp [hcheck c hcount]

/-- A write of a command to STG or SCR of this E9. `inScr` says which, and `key` how its bytes lie there. -/
def Chip.writesTo (s : Chip) (m : Cmd) (dst : Locator) (n : Nat) (key : Nat → Nat) (inScr : Bool) : Prop :=
  (inScr = false ∧ s.destOf dst = .stg dst.addr ∧ s.stgHas m.part dst.addr n = true ∧ key = stgKey (s.hbmOf m.part))
    ∨ (inScr = true ∧ s.destOf dst = .scr dst.engine dst.addr ∧ dst.addr + n ≤ scrSize dst.engine ∧ key = scrKey dst.engine)

/-- The part once such a write is made, before the arrival at its counter. -/
def Chip.put (s : Chip) (m : Cmd) (dst : Locator) (data : List Byte) (inScr : Bool) : Chip :=
  if inScr then s.scrPut dst.engine dst.addr data else s.stgPut m.part dst.addr data

theorem Chip.moveTo_of_writesTo (s : Chip) (m : Cmd) (dst : Locator) (data : List Byte) (key : Nat → Nat) (inScr : Bool)
    (hcount : dst.countEn = true → s.counterIs dst.counter m.part = true ∧ s.counterOk dst.counter = true)
    (h : s.writesTo m dst data.length key inScr) :
    s.moveTo m (s.destOf dst) data dst.count? = ((s.put m dst data inScr).arriveAt dst.count? data.length).issued m .ok data.length := by
  rcases h with ⟨rfl, hdest, hroom, -⟩ | ⟨rfl, hdest, hroom, -⟩
  · have hready : s.writeReady m (.stg dst.addr) data.length = .ok [] := if_pos hroom
    rw [hdest, s.moveTo_of_ready m _ data _ (s.countCheck_local m _ dst hcount) hready, Chip.writeAt_stg]
    rfl
  · have hready : s.writeReady m (.scr dst.engine dst.addr) data.length = .ok [] := if_pos (Nat.ble_eq.mpr hroom)
    rw [hdest, s.moveTo_of_ready m _ data _ (s.countCheck_local m _ dst hcount) hready, Chip.writeAt_scr]
    rfl

/-- The bytes of such a write reach their keys, and the other memory stays. -/
theorem Chip.put_wrote (s : Chip) (m : Cmd) (dst : Locator) (data : List Byte) (key : Nat → Nat) (inScr : Bool)
    (h : s.writesTo m dst data.length key inScr) :
    Mem.Wrote (if inScr then s.seq.scr else s.seq.stg)
        (if inScr then (s.put m dst data inScr).seq.scr else (s.put m dst data inScr).seq.stg) key dst.addr data
      ∧ (if inScr then (s.put m dst data inScr).seq.stg = s.seq.stg else (s.put m dst data inScr).seq.scr = s.seq.scr) := by
  rcases h with ⟨rfl, -, hroom, rfl⟩ | ⟨rfl, -, -, rfl⟩
  · exact ⟨s.stgPut_wrote m.part dst.addr data hroom, rfl⟩
  · exact ⟨s.scrPut_wrote dst.engine dst.addr data, rfl⟩

theorem Chip.put_wf (s : Chip) (m : Cmd) (dst : Locator) (data : List Byte) (inScr : Bool) :
    (Memory.wf s.seq.stg = true → Memory.wf (s.put m dst data inScr).seq.stg = true)
      ∧ (Memory.wf s.seq.scr = true → Memory.wf (s.put m dst data inScr).seq.scr = true) := by
  cases inScr
  · exact ⟨s.wf_stgPut _ _ _, id⟩
  · exact ⟨id, s.wf_scrPut _ _ _⟩

theorem Chip.runEngine_fill (s : Chip) (m : Cmd) (h : slotOp m.cur = oFILL) (hstage : m.stage ≠ 9) : s.runEngine m = s.runFill m := by
  simp [Chip.runEngine, h, hstage, oCOPY, oFILL]

theorem Chip.runEngine_copy (s : Chip) (m : Cmd) (h : slotOp m.cur = oCOPY) (hstage : m.stage ≠ 9) :
    s.runEngine m = s.runCopy m 8 24 40 := by
  simp [Chip.runEngine, h, hstage]

/-- WAIT_COPY whose wait is over copies (R184). -/
theorem Chip.runEngine_copies (s : Chip) (m : Cmd) (h : slotOp m.cur = oWAIT_COPY) (hstage : m.stage ≠ 9) (hbegun : m.stage ≠ 0)
    (hwaited : m.stage ≠ 5) (hlen : prm m.cur 56 64 ≠ 0) : s.runEngine m = s.runCopy m 24 40 56 := by
  simp [Chip.runEngine, h, hstage, hbegun, hwaited, hlen, oCOPY, oFILL, oWAIT_COPY]

theorem Chip.runCopy_of_read (s : Chip) (m : Cmd) (a b c : Nat) (data : List Byte)
    (h : s.readAt m (s.destOf (Locator.of (prm m.cur a 128))) (prm m.cur c 64) = .ok data) :
    s.runCopy m a b c
      = s.moveTo m (s.destOf (Locator.of (prm m.cur b 128))) data (Locator.of (prm m.cur b 128)).count? := by
  simp only [Chip.runCopy, Chip.reading, h]

/-- The bytes `data` are what command `m` moves to `dst`: FILL's pattern, or what COPY or WAIT_COPY has read. -/
def Chip.moves (s : Chip) (m : Cmd) (dst : Locator) (data : List Byte) : Prop :=
  (slotOp m.cur = oFILL ∧ dst = Locator.of (prm m.cur 8 128)
      ∧ data = (upFrom 0 (prm m.cur 24 64)).map (fun i => (bytesOfNat 8 (prm m.cur 32 64)).getD (i % 8) 0))
    ∨ (slotOp m.cur = oCOPY ∧ dst = Locator.of (prm m.cur 24 128)
      ∧ s.readAt m (s.destOf (Locator.of (prm m.cur 8 128))) (prm m.cur 40 64) = .ok data)
    ∨ (slotOp m.cur = oWAIT_COPY ∧ m.stage ≠ 0 ∧ m.stage ≠ 5 ∧ prm m.cur 56 64 ≠ 0 ∧ dst = Locator.of (prm m.cur 40 128)
      ∧ s.readAt m (s.destOf (Locator.of (prm m.cur 24 128))) (prm m.cur 56 64) = .ok data)

theorem Chip.runEngine_of_moves (s : Chip) (m : Cmd) (dst : Locator) (data : List Byte) (hstage : m.stage ≠ 9) (h : s.moves m dst data) :
    s.runEngine m = s.moveTo m (s.destOf dst) data dst.count? := by
  rcases h with ⟨ho, rfl, rfl⟩ | ⟨ho, rfl, hread⟩ | ⟨ho, hbegun, hwaited, hlen, rfl, hread⟩
  · exact s.runEngine_fill m ho hstage
  · rw [s.runEngine_copy m ho hstage, s.runCopy_of_read m 8 24 40 data hread]
  · rw [s.runEngine_copies m ho hstage hbegun hwaited hlen, s.runCopy_of_read m 24 40 56 data hread]

/-! ### WRITE packets -/

theorem exec_writePacket (p : Packet) (s : State) :
    exec (.writePacket p) s = .next (s.after (s.consumeIf p (fun s => s.writePacket p))) := rfl

/-- A packet with segments is taken, applied, and counted where it was put in place (R365, R368). -/
theorem Chip.consumeIf_of_accepts (s : Chip) (p : Packet) (f : Chip → Chip × Bool) (h : s.accepts p) (hsegs : p.segs ≠ 0) :
    s.consumeIf p f = if (f (s.taken p)).2 = true then (f (s.taken p)).1.flowApplied p
      else if p.fence = true ∧ p.mcast = false then (f (s.taken p)).1.setArrivals p.src p.fgen 0 else (f (s.taken p)).1 := by
  have htaken : (s.takeLocal p).2 = true := h
  unfold Chip.consumeIf Chip.taken
  simp [htaken, hsegs]

theorem Chip.writePacket_refused (s : Chip) (p : Packet) (st : Status) (h : s.writeCheck p = some st) :
    s.writePacket p = ((s.logArrival p st (if (WriteExt.ofBody p.body).countEn then some (WriteExt.ofBody p.body).counter else none)).send
      (s.statusAnswer p st p.address.2), false) := by
  simp only [Chip.writePacket, h]

theorem Chip.writePacket_placed (s : Chip) (p : Packet) (h : s.writeCheck p = none) :
    s.writePacket p = (if (WriteExt.ofBody p.body).ack then (s.placeWrite p).send ((s.placeWrite p).statusAnswer p .ok 0)
      else s.placeWrite p, true) := by
  simp only [Chip.writePacket, h]

/-- The counter that a WRITE packet names. -/
def WriteExt.count? (w : WriteExt) : Option Nat := if w.countEn then some w.counter else none

/-- A WRITE packet that passes its checks fits the partition's STG (R112). -/
theorem Chip.stgHas_of_writeCheck (s : Chip) (p : Packet) (h : s.writeCheck p = none) (hspace : (WriteExt.ofBody p.body).space = 1) :
    s.stgHas p.partition (WriteExt.ofBody p.body).addr (WriteExt.ofBody p.body).length = true := by
  by_contra hroom
  rw [Bool.not_eq_true] at hroom
  simp only [Chip.writeCheck, hspace, hroom, Bool.not_false, beq_self_eq_true, Bool.and_self, if_true] at h
  repeat' split at h
  all_goals cases h

theorem Chip.stgHas_mono (s : Chip) (p o n n' : Nat) (h : s.stgHas p o n = true) (hle : n' ≤ n) : s.stgHas p o n' = true := by
  simp only [Chip.stgHas, Nat.ble_eq] at h ⊢
  omega

/-! ### STATUS answers -/

theorem exec_statusTadpole (p : Packet) (s : State) : exec (.statusTadpole p) s = .next (s.after (s.statusIn p)) := rfl

theorem Chip.statusIn_of_reserved (s : Chip) (p : Packet) (h : statusReservedZero p.body = false) : s.statusIn p = s := by
  simp [Chip.statusIn, h]

/-- An answer for this E9 itself to a packet without FENCE. -/
theorem Chip.statusIn_local (s : Chip) (p : Packet) (hzero : statusReservedZero p.body = true)
    (hfence : (StatusBody.ofBody p.body).origFence = false) (hhere : s.sourceOf p.dst = localPort) (haccepts : s.accepts p) :
    s.statusIn p = ((s.taken p).statusFor p).flowApplied p := by
  have hsame : s.fenceAnswered localPort (StatusBody.ofBody p.body) = s := by simp [Chip.fenceAnswered, hfence]
  rw [← s.consume_of_accepts p (fun s => s.statusFor p) haccepts]
  simp [Chip.statusIn, hzero, hsame, hhere]

/-- What waits for a write of this E9 has its status (R180, R346). -/
def Cmd.answered (m : Cmd) (tag : Nat) (st : Status) : Cmd :=
  { m with waits := m.waits.map (fun w => if w.1 = 2 * tag then (w.1, some st) else w) }

/-- The part once the only open write or add has its answer. -/
def Chip.tookAnswer (s : Chip) (tag : Nat) (st : Status) : Chip :=
  { s with seq := { s.seq with outs := [], cmds := s.seq.cmds.map (fun m => m.answered tag st) } }

theorem Chip.cmd?_tookAnswer (s : Chip) (tag id : Nat) (st : Status) :
    (s.tookAnswer tag st).cmd? id = (s.cmd? id).map (fun m => m.answered tag st) := by
  unfold Chip.cmd? Chip.tookAnswer
  rw [List.find?_map]
  rfl

theorem Chip.takeAnswer_of_one (s : Chip) (tag : Nat) (st : Status) (o : OutWrite) (houts : s.seq.outs = [o]) (hpool : o.pool = false)
    (htag : o.tag = tag) (hcmd : (s.cmd? o.cmd).isSome = true) : (s.takeAnswer tag st).1 = s.tookAnswer tag st := by
  have hset : s.modSeq (fun q =>
      { q with
        outs := q.outs.filter (fun x => !(!x.pool && x.tag == tag))
        cmds := q.cmds.map (fun m =>
          { m with waits := m.waits.map (fun w => if w.1 == 2 * tag then (w.1, some st) else w) }) }) = s.tookAnswer tag st := by
    simp [Chip.modSeq, Chip.tookAnswer, Cmd.answered, houts, hpool, htag]
  have hstands : ((s.tookAnswer tag st).cmd? o.cmd).isNone = false := by
    rw [Chip.cmd?_tookAnswer, Option.isNone_map]
    simpa using hcmd
  have hfind : s.seq.outs.find? (fun o => !o.pool && o.tag == tag) = some o := by simp [houts, hpool, htag]
  simp only [Chip.takeAnswer, hfind, hset, hstands]
  rfl

/-- The answer to a write or an add, where this E9 is no shadow (R180, R459). -/
theorem Chip.statusFor_answer (s : Chip) (p : Packet) (hshadow : s.isShadow = false)
    (hclass : (StatusBody.ofBody p.body).origClass = clsWRITE ∨ (StatusBody.ofBody p.body).origClass = clsCOUNTER) :
    s.statusFor p = (s.takeAnswer (StatusBody.ofBody p.body).tag
      ((Status.ofCode (StatusBody.ofBody p.body).status).getD .formatInvalid)).1 := by
  have hdigest : s.takeDigest p = (s, false) := by simp [Chip.takeDigest, hshadow]
  simp [Chip.statusFor, hdigest, hclass]

/-! ### The obligation, part by part -/

/-- A move of a command to this E9 (R165 to R168, R178, R184). -/
theorem Chip.runEngine_writes (s : Chip) (m : Cmd) (dst : Locator) (data : List Byte) (key : Nat → Nat) (inScr : Bool) (hstage : m.stage ≠ 9)
    (hmoves : s.moves m dst data)
    (hcount : dst.countEn = true → s.counterIs dst.counter m.part = true ∧ s.counterOk dst.counter = true)
    (h : s.writesTo m dst data.length key inScr) :
    s.runEngine m = ((s.put m dst data inScr).arriveAt dst.count? data.length).issued m .ok data.length :=
  (s.runEngine_of_moves m dst data hstage hmoves).trans (s.moveTo_of_writesTo m dst data key inScr hcount h)

theorem Chip.put_arriveAt_frame (s : Chip) (m : Cmd) (dst : Locator) (data : List Byte) (inScr : Bool) (counter : Option Nat) (n : Nat) :
    let u := (s.put m dst data inScr).arriveAt counter n
    u = { s with regs := u.regs, seq := u.seq }
      ∧ u.seq = { s.seq with stg := u.seq.stg, scr := u.seq.scr, cmds := u.seq.cmds } := by
  have h := (s.put m dst data inScr).arriveAt_frame counter n
  generalize (s.put m dst data inScr).arriveAt counter n = u at h ⊢
  rw [h]
  cases inScr <;> exact ⟨rfl, rfl⟩

theorem Chip.put_arriveAt_counter (s : Chip) (m : Cmd) (dst : Locator) (data : List Byte) (inScr : Bool) (h : dst.countEn = true) :
    let u := (s.put m dst data inScr).arriveAt dst.count? data.length
    u.counter dst.counter F.SEQ_COUNTER_SCOPE = 2 ∧ u.counterValue dst.counter
      = (s.counterValue dst.counter + (if s.counter dst.counter F.SEQ_COUNTER_MODE = 0 then data.length else 1)) % 2 ^ 48 := by
  have hcount : dst.count? = some dst.counter := if_pos h
  have harrive := (s.put m dst data inScr).arrive_counter dst.counter data.length
  rw [hcount]
  cases inScr <;> exact harrive

theorem exec_writePacket_placed (p : Packet) (s : State) (haccepts : s.accepts p) (hsegs : p.segs ≠ 0)
    (h : (s.taken p).writeCheck p = none) :
    let u := (s.taken p).placeWrite p
    exec (.writePacket p) s
      = .next (s.after ((if (WriteExt.ofBody p.body).ack then u.send (u.statusAnswer p .ok 0) else u).flowApplied p)) := by
  rw [exec_writePacket, s.toChip.consumeIf_of_accepts p _ haccepts hsegs, (s.taken p).writePacket_placed p h]
  simp only [if_true]

theorem exec_writePacket_refused (p : Packet) (s : State) (haccepts : s.accepts p) (hsegs : p.segs ≠ 0) (st : Status)
    (h : (s.taken p).writeCheck p = some st) (hfence : p.fence = false) :
    exec (.writePacket p) s = .next (s.after (((s.taken p).logArrival p st
      (if (WriteExt.ofBody p.body).countEn then some (WriteExt.ofBody p.body).counter else none)).send
        ((s.taken p).statusAnswer p st p.address.2))) := by
  rw [exec_writePacket, s.toChip.consumeIf_of_accepts p _ haccepts hsegs, (s.taken p).writePacket_refused p st h, hfence]
  simp only [Bool.false_eq_true, false_and, if_false]

/-- The part once the first `w.length` bytes of a payload are in STG, with the arrival that `w` asks for (R166, R178). -/
def Chip.stgArrival (v : Chip) (part : Nat) (w : WriteExt) (payload : List Byte) : Chip :=
  (v.stgPut part w.addr (payload.take w.length)).arriveAt w.count? w.length

/-- A WRITE packet to STG (R178). -/
theorem Chip.placeWrite_stg (s : Chip) (p : Packet) (h : (WriteExt.ofBody p.body).space = 1) :
    s.placeWrite p = s.stgArrival p.partition (WriteExt.ofBody p.body) p.payload := by
  unfold Chip.placeWrite Chip.stgArrival Chip.arriveAt WriteExt.count?
  simp only [h, beq_self_eq_true, if_true]
  split <;> rfl

theorem Chip.stgArrival_frame (v : Chip) (part : Nat) (w : WriteExt) (payload : List Byte) :
    v.stgArrival part w payload = { v with
      regs := (v.stgArrival part w payload).regs
      seq := { v.seq with stg := (v.stgArrival part w payload).seq.stg, cmds := (v.stgArrival part w payload).seq.cmds } } := by
  unfold Chip.stgArrival
  cases w.count? <;> rfl

theorem Chip.stgArrival_stg (v : Chip) (part : Nat) (w : WriteExt) (payload : List Byte) :
    (v.stgArrival part w payload).seq.stg = (v.stgPut part w.addr (payload.take w.length)).seq.stg := Chip.arriveAt_stg _ _ _

theorem Chip.stgArrival_wrote (v : Chip) (part : Nat) (w : WriteExt) (payload : List Byte) (h : v.stgHas part w.addr w.length = true) :
    Mem.Wrote v.seq.stg (v.stgArrival part w payload).seq.stg (stgKey (v.hbmOf part)) w.addr (payload.take w.length) := by
  rw [v.stgArrival_stg]
  exact v.stgPut_wrote part w.addr _ (v.stgHas_mono _ _ _ _ h (List.length_take_le _ _))

theorem Chip.stgArrival_counter (v : Chip) (part : Nat) (w : WriteExt) (payload : List Byte) (h : w.countEn = true) :
    (v.stgArrival part w payload).counter w.counter F.SEQ_COUNTER_SCOPE = 2
      ∧ (v.stgArrival part w payload).counterValue w.counter = (v.counterValue w.counter
          + (if v.counter w.counter F.SEQ_COUNTER_MODE = 0 then w.length else 1)) % 2 ^ 48 := by
  have hcount : w.count? = some w.counter := if_pos h
  unfold Chip.stgArrival
  rw [hcount]
  exact (v.stgPut part w.addr (payload.take w.length)).arrive_counter w.counter w.length

/-- Settles O49: a move and a WRITE packet are a write of memory and the arrival at a counter; an answer ends what waited for it. -/
theorem writesReachTheirBytes : Obligations.WritesReachTheirBytes := by
  unfold Obligations.WritesReachTheirBytes
  refine ⟨fun s m dst data hstage hmoves hcount key inScr h => ?_, ?_, fun p s => ⟨fun hzero => ?_, ?_⟩⟩
  · obtain ⟨⟨hbytes, hothers⟩, hother⟩ := s.put_wrote m dst data key inScr h
    obtain ⟨hstg, hscr⟩ := s.put_wf m dst data inScr
    obtain ⟨hframe, hseq⟩ := s.put_arriveAt_frame m dst data inScr dst.count? data.length
    refine ⟨_, s.runEngine_writes m dst data key inScr hstage hmoves hcount h, hframe, hseq, ?_⟩
    simp only [Chip.arriveAt_stg, Chip.arriveAt_scr]
    refine ⟨hstg, hscr, hother, ⟨hbytes, hothers⟩, fun hen => ?_, s.put_arriveAt_counter m dst data inScr⟩
    have hcount : dst.count? = none := if_neg (by rw [hen]; decide)
    rw [hcount]
    cases inScr <;> exact ⟨rfl, rfl⟩
  · intro p s haccepts hsegs v w
    refine ⟨fun st h hfence => exec_writePacket_refused p s haccepts hsegs st h hfence, fun h hspace => ?_⟩
    have hwrote := v.stgArrival_wrote p.partition w p.payload (v.stgHas_of_writeCheck p h hspace)
    have hlen : (p.payload.take w.length).length ≤ w.length := List.length_take_le _ _
    refine ⟨v.stgArrival p.partition w p.payload, ?_, v.stgArrival_frame p.partition w p.payload, fun hwf => ?_, fun i b hi hb => ?_,
      fun k hk => hwrote.others k fun i hi => hk i (by omega), v.stgArrival_counter p.partition w p.payload⟩
    · rw [exec_writePacket_placed p s haccepts hsegs h, Chip.placeWrite_stg _ p hspace]
    · rw [v.stgArrival_stg]
      exact v.wf_stgPut _ _ _ hwf
    · exact hwrote.bytes i b (by rw [List.getElem?_take, if_pos hi, hb])
  · rw [exec_statusTadpole, s.toChip.statusIn_of_reserved p hzero]
  · intro v b hzero hfence hhere haccepts hshadow hclass o houts hpool htag hcmd
    refine ⟨v.tookAnswer b.tag ((Status.ofCode b.status).getD .formatInvalid), ?_, rfl, ?_⟩
    · rw [exec_statusTadpole, s.toChip.statusIn_local p hzero hfence hhere haccepts, v.statusFor_answer p hshadow hclass,
        v.takeAnswer_of_one b.tag _ o houts hpool htag hcmd]
    · rw [htag]
      rfl

end Sys2Proof.Machine
end

section
/-!
Ownership records (spec/05_memory_model.md R193, R194, Table 5.8): the record written, OWN_CLAIM, OWN_RELEASE and the expiry of a handoff.
-/
open Sys2Proof Sys2Proof.Machine
namespace Sys2Proof.Machine

/-! ### The record -/

/-- Record `i` is in state `st` with OWNER and NEXT. -/
def Chip.owned (s : Chip) (i st o n : Nat) : Prop :=
  s.rd (A.HOM_OWN i) F.HOM_OWN_STATE = st ∧ s.rd (A.HOM_OWN i) F.HOM_OWN_OWNER = o ∧ s.rd (A.HOM_OWN i) F.HOM_OWN_NEXT = n
    ∧ s.flag (A.HOM_OWN i) F.HOM_OWN_VALID = true

theorem Chip.setRecord_regsOnly (s : Chip) (i st p line owner next deadline : Nat) :
    s.setRecord i st p line owner next deadline = { s with regs := (s.setRecord i st p line owner next deadline).regs } := by
  apply Chip.eq_of_fields <;> simp [Chip.setRecord]

theorem Chip.setRecord_owned (s : Chip) (i st p line owner next deadline : Nat) (hst : st < 4) (howner : owner < 2 ^ 32)
    (hnext : next < 2 ^ 32) : (s.setRecord i st p line owner next deadline).owned i st owner next := by
  unfold Chip.owned Chip.setRecord Chip.flag
  simp (disch := decide) only [Chip.rd_wr_disjoint, Chip.rd_wr_same, Chip.rd_wrB_same]
  exact ⟨Nat.mod_eq_of_lt hst, Nat.mod_eq_of_lt howner, Nat.mod_eq_of_lt hnext, rfl⟩

theorem Chip.setRecord_addr (s : Chip) (i st p line owner next deadline : Nat) (h : line < 2 ^ 50) :
    (s.setRecord i st p line owner next deadline).rd (A.HOM_OWN i) F.HOM_OWN_ADDR = line := by
  unfold Chip.setRecord
  simp (disch := decide) only [Chip.rd_wr_disjoint, Chip.rd_wr_same]
  exact Nat.mod_eq_of_lt h

theorem Chip.setRecord_deadline (s : Chip) (i st p line owner next deadline : Nat) (h : deadline < 2 ^ 64) :
    (s.setRecord i st p line owner next deadline).rd (A.HOM_OWN i) F.HOM_OWN_DEADLINE = deadline := by
  unfold Chip.setRecord
  rw [Chip.rd_wr_same]
  exact Nat.mod_eq_of_lt h

/-- A record written with its handoff timer stopped: registers and timers alone change. -/
theorem Chip.setRecord_stopped (s : Chip) (i st p line owner next deadline : Nat) (hst : st < 4) (howner : owner < 2 ^ 32)
    (hnext : next < 2 ^ 32) :
    let u := (s.setRecord i st p line owner next deadline).stopTimer (.handoff i)
    u.owned i st owner next ∧ u.running (.handoff i) = false ∧ u = { s with regs := u.regs, timers := u.timers } := by
  have howned := s.setRecord_owned i st p line owner next deadline hst howner hnext
  have hset := s.setRecord_regsOnly i st p line owner next deadline
  generalize s.setRecord i st p line owner next deadline = t at howned hset ⊢
  refine ⟨howned, Chip.running_stopTimer_same t _, ?_⟩
  rw [hset]
  rfl

/-- A record written with its handoff timer started: registers and timers alone change. -/
theorem Chip.setRecord_started (s : Chip) (i st p line owner next deadline n : Nat) (hst : st < 4) (howner : owner < 2 ^ 32)
    (hnext : next < 2 ^ 32) (hdeadline : deadline < 2 ^ 64) :
    let u := (s.setRecord i st p line owner next deadline).startTimer (.handoff i) n
    u.owned i st owner next ∧ u.rd (A.HOM_OWN i) F.HOM_OWN_DEADLINE = deadline ∧ u.due (.handoff i) = some (s.raw + n)
      ∧ u = { s with regs := u.regs, timers := u.timers } := by
  have howned := s.setRecord_owned i st p line owner next deadline hst howner hnext
  have hread := s.setRecord_deadline i st p line owner next deadline hdeadline
  have hset := s.setRecord_regsOnly i st p line owner next deadline
  generalize s.setRecord i st p line owner next deadline = t at howned hread hset ⊢
  have hraw : t.raw = s.raw := by rw [hset]
  refine ⟨howned, hread, hraw ▸ t.due_startTimer _ n, ?_⟩
  rw [hset]
  rfl

/-- A freed record is not valid, and its handoff timer does not run. -/
theorem Chip.freeOwn_acts (s : Chip) (i : Nat) : (s.freeOwn i).flag (A.HOM_OWN i) F.HOM_OWN_VALID = false
    ∧ (s.freeOwn i).running (.handoff i) = false
    ∧ s.freeOwn i = { s with regs := (s.freeOwn i).regs, timers := (s.freeOwn i).timers } := by
  have hset := s.setRecord_regsOnly i 0 0 0 0 0 0
  unfold Chip.freeOwn
  generalize s.setRecord i 0 0 0 0 0 0 = t at hset ⊢
  refine ⟨Chip.flag_wrB_same t _ _ _ (by decide), Chip.running_stopTimer_same _ _, ?_⟩
  rw [hset]
  rfl

/-! ### Claims and releases -/

/-- A claim of a line without a record takes the lowest free one (R193). -/
theorem Chip.ownClaim_of_none (s : Chip) (p line expected new : Nat) (h : s.record line = none) :
    (expected ≠ 0 → s.ownClaim p line expected new = (s, .ownerMismatch, 0))
      ∧ (expected = 0 → s.freeRecord = none → s.ownClaim p line expected new = (s, .busy, 0))
      ∧ ∀ i, expected = 0 → s.freeRecord = some i → s.ownClaim p line expected new = (s.setRecord i 0 p line new 0 0, .ok, 0) := by
  unfold Chip.ownClaim
  simp only [h, bne_iff_ne]
  refine ⟨fun hexpected => if_pos hexpected, fun hexpected hfull => ?_, fun i hexpected hfree => ?_⟩
  · rw [if_neg (not_not.2 hexpected), hfull]
  · rw [if_neg (not_not.2 hexpected), hfree]

theorem Chip.ownRelease_of_none (s : Chip) (p line expected next : Nat) (h : s.record line = none) :
    s.ownRelease p line expected next = (s, .ownerMismatch, 0) := by
  simp only [Chip.ownRelease, h]

/-- What a claim of a line with a record needs, by the record's state (Table 5.8). -/
def mayClaim (st o n expected new : Nat) : Prop :=
  (st = 0 ∧ expected = o) ∨ (st = 1 ∧ expected = o ∧ new = n) ∨ (st = 2 ∧ expected = 0)

section Recorded
variable {s : Chip} {line i st o n : Nat} (hrecord : s.record line = some i) (howned : s.owned i st o n)
include hrecord howned

theorem Chip.ownClaim_of_record (p expected new : Nat) (hst : st ≤ 2) :
    (mayClaim st o n expected new → s.ownClaim p line expected new
        = ((s.setRecord i 0 p line new 0 0).stopTimer (.handoff i), .ok, st + o <<< 32))
      ∧ (¬ mayClaim st o n expected new → s.ownClaim p line expected new = (s, .ownerMismatch, st + o <<< 32)) := by
  obtain ⟨hstate, howner, hnext, -⟩ := howned
  have hyes : (if st == 0 then expected == o else if st == 1 then expected == o && new == n else expected == 0) = true
      ↔ mayClaim st o n expected new := by
    unfold mayClaim
    interval_cases st <;> simp
  unfold Chip.ownClaim Chip.ownResult
  simp only [hrecord, hstate, howner, hnext]
  exact ⟨fun h => if_pos (hyes.2 h), fun h => if_neg (fun h' => h (hyes.1 h'))⟩

theorem Chip.ownRelease_of_record (p expected next : Nat) :
    s.ownRelease p line expected next =
      if st = 2 ∨ expected ≠ o then (s, .ownerMismatch, st + o <<< 32)
      else if next = 0 then (s.freeOwn i, .ok, st + o <<< 32)
      else
        let hold := ms (s.rd A.GLB_TIMERS0 F.GLB_TIMERS0_HANDOFF_MS)
        ((s.setRecord i 1 p line o next ((s.tb + hold) % 2 ^ 64)).startTimer (.handoff i) hold, .ok, st + o <<< 32) := by
  obtain ⟨hstate, howner, -, -⟩ := howned
  unfold Chip.ownRelease Chip.ownResult
  simp only [hrecord, hstate, howner, Bool.or_eq_true, beq_iff_eq, bne_iff_ne]

end Recorded

/-! ### The expiry of a handoff -/

theorem exec_handoffExpiry (i : Nat) (s : State) : exec (.handoffExpiry i) s = .next (s.after (s.handoffOver i)) := rfl

theorem Chip.handoffOver_cases (s : Chip) (i : Nat) :
    (s.powerState ≠ 0 ∨ s.expire (.handoff i) = none → s.handoffOver i = s)
      ∧ ∀ c, s.powerState = 0 → s.expire (.handoff i) = some c →
          let a := A.HOM_OWN i
          let u := c.setRecord i 2 (c.rd a F.HOM_OWN_PARTITION) (c.rd a F.HOM_OWN_ADDR) (c.rd a F.HOM_OWN_OWNER) 0 0
          s.handoffOver i = u.newtEvent 0x2B (c.rd a F.HOM_OWN_OWNER <<< 8) 1 (64 * c.rd a F.HOM_OWN_ADDR) := by
  have hasleep : s.asleep = true ↔ s.powerState ≠ 0 := bne_iff_ne
  unfold Chip.handoffOver Chip.handoffExpired
  refine ⟨fun h => ?_, fun c hawake hexpire => ?_⟩
  · rcases h with h | h
    · exact if_pos (hasleep.2 h)
    · simp only [h, ite_self]
  · rw [if_neg (fun h => hasleep.1 h hawake), hexpire]

/-- Settles O50: each row of Table 5.8 is a refusal, the record written, or the record freed. -/
theorem ownershipTransitions : Obligations.OwnershipTransitions := by
  unfold Obligations.OwnershipTransitions
  intro owned
  refine ⟨fun s p line expected new hline hnew _ => ⟨fun hnone => ?_, fun i st o n hrecord howned => ?_⟩, fun i s => ?_⟩
  · obtain ⟨hclaimed, hfull, hfree⟩ := s.ownClaim_of_none p line expected new hnone
    exact ⟨hclaimed, s.ownRelease_of_none p line expected new hnone, hfull, fun i hexpected h => ⟨_, hfree i hexpected h,
      s.setRecord_owned i 0 p line new 0 0 (by decide) hnew (by decide), s.setRecord_addr i 0 p line new 0 0 hline,
      s.setRecord_regsOnly i 0 p line new 0 0⟩⟩
  · intro res yes
    have ho : o < 2 ^ 32 := by
      obtain ⟨-, rfl, -, -⟩ := howned
      exact s.rd_lt _ F.HOM_OWN_OWNER
    rw [Chip.ownRelease_of_record hrecord howned]
    refine ⟨fun hyes => ?_, fun hno hst => (Chip.ownClaim_of_record hrecord howned p expected new hst).2 hno, fun h => if_pos h,
      fun hst hexpected hnext => ?_, fun hst hexpected hnext => ?_⟩
    · have hst : st ≤ 2 := by omega
      exact ⟨_, (Chip.ownClaim_of_record hrecord howned p expected new hst).1 hyes,
        s.setRecord_stopped i 0 p line new 0 0 (by decide) hnew (by decide)⟩
    · rw [if_neg (by omega), if_pos hnext]
      exact ⟨_, rfl, s.freeOwn_acts i⟩
    · intro hold
      rw [if_neg (by omega), if_neg hnext]
      exact ⟨_, rfl, s.setRecord_started i 1 p line o new _ hold (by decide) ho hnew (Nat.mod_lt _ (by decide))⟩
  · obtain ⟨hnothing, hover⟩ := s.toChip.handoffOver_cases i
    rw [exec_handoffExpiry]
    refine ⟨fun h => by rw [hnothing h], fun c o n hawake hexpire howned => ?_⟩
    obtain ⟨-, rfl, -, -⟩ := howned
    exact ⟨_, by rw [hover c hawake hexpire], c.setRecord_owned i 2 _ _ _ 0 0 (by decide) (c.rd_lt _ F.HOM_OWN_OWNER) (by decide),
      c.setRecord_regsOnly i 2 _ _ _ 0 0⟩

end Sys2Proof.Machine
end

section
/-!
The commands of the engines (spec/06_compute_cells.md R227 to R230, spec/07_matrix_and_codec.md R250 to R254, R257, R265): rows of bytes
within the staging store, the records of a scan, and the codec's slots and tables.
-/
open Sys2Proof Sys2Proof.Machine
namespace Sys2Proof.Machine

/-! ### Rows of bytes in the staging store -/

/-- The `n` bytes of STG of partition `p` from offset `o`. -/
def Chip.stgBytes (s : Chip) (p o n : Nat) : List Byte := (upFrom o n).map (fun a => s.seq.stg.byte (stgKey (s.hbmOf p) a))

@[simp] theorem Chip.length_stgBytes (s : Chip) (p o n : Nat) : (s.stgBytes p o n).length = n := by
  simp [Chip.stgBytes, upFrom]

theorem Chip.stgBytes_getD (s : Chip) (p o n k : Nat) (h : k < n) :
    (s.stgBytes p o n).getD k 0 = s.seq.stg.byte (stgKey (s.hbmOf p) (o + k)) := by
  simp [Chip.stgBytes, upFrom, h]

theorem Chip.stgRead_of_has (s : Chip) (p o n : Nat) (h : s.stgHas p o n = true) : s.stgRead p o n = .ok (s.stgBytes p o n) := by
  have hcap : ¬ s.stgCap p < o + n := Nat.not_lt.2 (Nat.ble_eq.mp h)
  simp [Chip.stgRead, Chip.stgBytes, hcap]

/-- Row `i` of a span of rows of `n` bytes. -/
theorem Chip.stgBytes_row (s : Chip) (p o n c i : Nat) (h : i < c) :
    ((s.stgBytes p o (c * n)).drop (i * n)).take n = s.stgBytes p (o + i * n) n := by
  have hroom : n ≤ c * n - i * n := by
    rw [← Nat.sub_mul]
    exact Nat.le_mul_of_pos_left n (Nat.sub_pos_of_lt h)
  obtain ⟨d, hd⟩ := Nat.exists_eq_add_of_le hroom
  simp [Chip.stgBytes, upFrom, ← List.map_drop, List.drop_range', hd, ← List.range'_append_1]

/-- Rows of bytes put in STG of partition `p` one after the other, each at its offset. -/
def Chip.putRows (s : Chip) (p : Nat) (l : List (Nat × List Byte)) : Chip := l.foldl (fun s e => s.stgPut p e.1 e.2) s

theorem Chip.putRows_frame (s : Chip) (p : Nat) (l : List (Nat × List Byte)) :
    s.putRows p l = { s with seq := { s.seq with stg := (s.putRows p l).seq.stg } } := by
  induction l generalizing s with
  | nil => rfl
  | cons e l ih => exact ih (s.stgPut p e.1 e.2)

/-- A key that no row has is left as it was. -/
theorem Chip.putRows_other (s : Chip) (p : Nat) (l : List (Nat × List Byte)) (j : Nat)
    (h : ∀ e ∈ l, ∀ k, k < e.2.length → j ≠ stgKey (s.hbmOf p) (e.1 + k)) : (s.putRows p l).seq.stg.byte j = s.seq.stg.byte j := by
  induction l generalizing s with
  | nil => rfl
  | cons e l ih =>
    rw [List.forall_mem_cons] at h
    calc ((s.stgPut p e.1 e.2).putRows p l).seq.stg.byte j
        = (s.stgPut p e.1 e.2).seq.stg.byte j := ih _ h.2
      _ = s.seq.stg.byte j := Mem.byte_putFrom_other _ _ _ _ _ fun i hlo hhi he =>
          h.1 (i - e.1) (by omega) (by rw [Nat.add_sub_cancel' hlo, he])

/-- Rows that lie apart within the capacity are read back. -/
theorem Chip.putRows_row (s : Chip) (p : Nat) (l : List (Nat × List Byte)) (hroom : ∀ e ∈ l, s.stgHas p e.1 e.2.length = true)
    (hapart : l.Pairwise (fun e f => e.1 + e.2.length ≤ f.1 ∨ f.1 + f.2.length ≤ e.1)) (e : Nat × List Byte) (he : e ∈ l) (k : Nat)
    (hk : k < e.2.length) : (s.putRows p l).seq.stg.byte (stgKey (s.hbmOf p) (e.1 + k)) = e.2.getD k 0 := by
  induction l generalizing s with
  | nil => cases he
  | cons f l ih =>
    rw [List.pairwise_cons] at hapart
    rw [List.forall_mem_cons] at hroom
    rcases List.mem_cons.1 he with rfl | he
    · have hothers : ∀ g ∈ l, ∀ i, i < g.2.length → stgKey (s.hbmOf p) (e.1 + k) ≠ stgKey (s.hbmOf p) (g.1 + i) := by
        intro g hg i hi heq
        have hcap : e.1 + e.2.length ≤ s.stgCap p := Nat.ble_eq.mp hroom.1
        have hcap' : g.1 + g.2.length ≤ s.stgCap p := Nat.ble_eq.mp (hroom.2 g hg)
        have hsame := s.stgKey_injOn p 0 (s.stgCap p) (Nat.ble_eq.mpr (by omega)) (e.1 + k) (g.1 + i) (by omega) (by omega) heq
        have := hapart.1 g hg
        omega
      calc ((s.stgPut p e.1 e.2).putRows p l).seq.stg.byte (stgKey (s.hbmOf p) (e.1 + k))
          = (s.stgPut p e.1 e.2).seq.stg.byte (stgKey (s.hbmOf p) (e.1 + k)) := Chip.putRows_other _ _ _ _ hothers
        _ = e.2.getD k 0 := (s.stgPut_wrote p e.1 e.2 hroom.1).bytes k _ (by
            rw [List.getD_eq_getElem?_getD, List.getElem?_eq_getElem hk, Option.getD_some])
    · exact ih (s.stgPut p f.1 f.2) hroom.2 hapart.2 he

/-- Rows of `n` bytes copied within STG of partition `p`, to the first offset of each pair from the second. All are read before
any is written (R228). -/
def Chip.moveRows (s : Chip) (p n : Nat) (l : List (Nat × Nat)) : Chip := s.putRows p (l.map (fun e => (e.1, s.stgBytes p e.2 n)))

theorem Chip.moveRows_row (s : Chip) (p n : Nat) (l : List (Nat × Nat)) (hroom : ∀ e ∈ l, s.stgHas p e.1 n = true)
    (hapart : l.Pairwise (fun e f => e.1 + n ≤ f.1 ∨ f.1 + n ≤ e.1)) (e : Nat × Nat) (he : e ∈ l) (k : Nat) (hk : k < n) :
    (s.moveRows p n l).seq.stg.byte (stgKey (s.hbmOf p) (e.1 + k)) = s.seq.stg.byte (stgKey (s.hbmOf p) (e.2 + k)) := by
  rw [← s.stgBytes_getD p e.2 n k hk]
  exact s.putRows_row p (l.map (fun e => (e.1, s.stgBytes p e.2 n))) 
    (List.forall_mem_map.2 fun f hf => by simpa using hroom f hf) (List.pairwise_map.2 (by simpa using hapart)) (e.1, s.stgBytes p e.2 n)
    (List.mem_map_of_mem he) k (by simpa using hk)

theorem Chip.moveRows_other (s : Chip) (p n : Nat) (l : List (Nat × Nat)) (j : Nat)
    (h : ∀ e ∈ l, ∀ k, k < n → j ≠ stgKey (s.hbmOf p) (e.1 + k)) : (s.moveRows p n l).seq.stg.byte j = s.seq.stg.byte j := by
  refine s.putRows_other p _ j (List.forall_mem_map.2 fun e he k hk => h e he k ?_)
  simpa using hk

theorem Chip.foldl_writeAt_stg {α : Type} (l : List α) (o : α → Nat) (b : α → List Byte) (s : Chip) (m : Cmd) :
    l.foldl (fun (acc : Chip × Cmd) e => acc.1.writeAt acc.2 (.stg (o e)) (b e) none) (s, m)
      = (s.putRows m.part (l.map (fun e => (o e, b e))), m) := by
  induction l generalizing s with
  | nil => rfl
  | cons e l ih => exact ih (s.stgPut m.part (o e) (b e))

/-! ### The places of a list's elements -/

theorem numbered_map {α β : Type} (f : α → β) (l : List α) : numbered (l.map f) = (numbered l).map (fun e => (e.1, f e.2)) := by
  simp [numbered, List.zip_map_right, Prod.map]

theorem mem_numbered {α : Type} (l : List α) (e : Nat × α) : e ∈ numbered l ↔ l[e.1]? = some e.2 := by
  rw [List.mem_iff_getElem?]
  constructor
  · rintro ⟨i, hi⟩
    obtain ⟨hplace, helem⟩ := List.getElem?_zip_eq_some.1 hi
    obtain ⟨hlt, hval⟩ := List.getElem?_eq_some_iff.1 hplace
    have hval : i = e.1 := by simpa [upFrom] using hval
    rw [← hval, helem]
  · intro h
    have hlt : e.1 < l.length := (List.getElem?_eq_some_iff.1 h).1
    exact ⟨e.1, List.getElem?_zip_eq_some.2 ⟨by simp [upFrom, hlt], h⟩⟩

theorem numbered_fst {α : Type} (l : List α) : (numbered l).map (·.1) = List.range' 0 l.length :=
  List.map_fst_zip (by simp [upFrom])

theorem numbered_snd {α : Type} (l : List α) : (numbered l).map (·.2) = l :=
  List.map_snd_zip (by simp [upFrom])

/-! ### GATHER and SCATTER -/

theorem Chip.runEngine_gather (s : Chip) (m : Cmd) (h : slotOp m.cur = oGATHER) (hstage : m.stage ≠ 9) : s.runEngine m = s.runGather m := by
  simp [Chip.runEngine, h, hstage, oCOPY, oFILL, oWAIT_COPY, opIsColl, oTOPK, oSAMPLE, oGATHER]

theorem Chip.runEngine_scatter (s : Chip) (m : Cmd) (h : slotOp m.cur = oSCATTER) (hstage : m.stage ≠ 9) :
    s.runEngine m = s.runScatter m := by
  simp [Chip.runEngine, h, hstage, oCOPY, oFILL, oWAIT_COPY, opIsColl, oTOPK, oSAMPLE, oGATHER, oSCATTER]

theorem Chip.reading_of_read (s : Chip) (m : Cmd) (d : Dest) (n : Nat) (k : List Byte → Chip) (bad : Chip → Chip) (data : List Byte)
    (h : s.readAt m d n = .ok data) : s.reading m d n k bad = k data := by
  simp only [Chip.reading, h]

theorem Chip.readAt_stg (s : Chip) (m : Cmd) (o n : Nat) (h : s.stgHas m.part o n = true) :
    s.readAt m (.stg o) n = .ok (s.stgBytes m.part o n) := by
  simp only [Chip.readAt, s.stgRead_of_has m.part o n h]

/-- GATHER of rows within STG: each row to its place in the span, none of them failing (R227, R228). -/
theorem Chip.runGather_of_rows (s : Chip) (m : Cmd) (list : List Byte) (rows : List Nat) (hform : m.rowCmd.form = 0)
    (hspace : m.rowCmd.space = 1) (hdest : s.destOf m.rowCmd.contig = .stg m.rowCmd.contig.addr) (hcount : m.rowCmd.contig.countEn = false)
    (hrows : ∀ a ∈ rows, s.stgHas m.part a m.rowCmd.rowBytes = true) (hlist : s.readAt m m.rowCmd.list (m.rowCmd.rows * 8) = .ok list)
    (haddr : rowAddresses m.rowCmd list = rows.map some) :
    s.runGather m = (s.moveRows m.part m.rowCmd.rowBytes
      ((numbered rows).map (fun e => (m.rowCmd.contig.addr + e.1 * m.rowCmd.rowBytes, e.2)))).issued m .ok m.rowCmd.rows := by
  have hnone : m.rowCmd.contig.count? = none := by simp [Locator.count?, hcount]
  have hreads : (rows.map (fun a => if rowBeyond m.rowCmd.space a m.rowCmd.rowBytes then RdRes.fail .rangeUnmapped 1 a
      else s.readAt m (rowDest m.rowCmd.space a) m.rowCmd.rowBytes)) = rows.map (fun a => .ok (s.stgBytes m.part a m.rowCmd.rowBytes)) := by
    refine List.map_congr_left fun a ha => ?_
    simpa [rowBeyond, rowDest, hspace] using s.readAt_stg m a m.rowCmd.rowBytes (hrows a ha)
  unfold Chip.runGather
  rw [s.reading_of_read m _ _ _ _ list (by simpa [hform] using hlist)]
  have hall : (rows.map some).any (·.isNone) = false := by simp
  have hads : (rows.map some).map (fun a => a.getD 0) = rows := by simp
  have hbad : (numbered rows).findSome? (fun _ => (none : Option (Nat × Status × Nat × Nat))) = none :=
    List.findSome?_eq_none_iff.2 fun _ _ => rfl
  simp only [haddr, hall, hads, hreads, hnone, hdest]
  simp [Chip.countCheck, numbered_map, List.flatMap_map, List.findSome?_map, List.filterMap_map, Function.comp_def, Dest.plus,
    Chip.foldl_writeAt_stg, Chip.moveRows, hbad]

/-- SCATTER of a span within STG: each row to its address, none of them failing (R227, R228). -/
theorem Chip.runScatter_of_rows (s : Chip) (m : Cmd) (list : List Byte) (rows : List Nat) (hform : m.rowCmd.form = 0)
    (hspace : m.rowCmd.space = 1) (hdest : s.destOf m.rowCmd.contig = .stg m.rowCmd.contig.addr) (hlen : rows.length = m.rowCmd.rows)
    (hspan : s.stgHas m.part m.rowCmd.contig.addr (m.rowCmd.rows * m.rowCmd.rowBytes) = true)
    (hrows : ∀ a ∈ rows, s.stgHas m.part a m.rowCmd.rowBytes = true) (hlist : s.readAt m m.rowCmd.list (m.rowCmd.rows * 8) = .ok list)
    (haddr : rowAddresses m.rowCmd list = rows.map some) :
    s.runScatter m = (s.moveRows m.part m.rowCmd.rowBytes
      ((numbered rows).map (fun e => (e.2, m.rowCmd.contig.addr + e.1 * m.rowCmd.rowBytes)))).issued m .ok m.rowCmd.rows := by
  have hready : ∀ x : { e // e ∈ numbered rows }, (if rowBeyond m.rowCmd.space x.1.2 m.rowCmd.rowBytes then RdRes.fail .rangeUnmapped 1 x.1.2
      else s.writeReady m (rowDest m.rowCmd.space x.1.2) m.rowCmd.rowBytes) = .ok [] := fun x => by
    have hrow := hrows x.1.2 (List.mem_of_getElem? ((mem_numbered rows x.1).1 x.2))
    simp [rowBeyond, rowDest, hspace, Chip.writeReady, hrow]
  have hslice : ∀ x : { e // e ∈ numbered rows },
      ((s.stgBytes m.part m.rowCmd.contig.addr (m.rowCmd.rows * m.rowCmd.rowBytes)).drop (x.1.1 * m.rowCmd.rowBytes)).take m.rowCmd.rowBytes
        = s.stgBytes m.part (m.rowCmd.contig.addr + x.1.1 * m.rowCmd.rowBytes) m.rowCmd.rowBytes := fun x =>
    s.stgBytes_row m.part _ _ _ x.1.1 (hlen ▸ (List.getElem?_eq_some_iff.1 ((mem_numbered rows x.1).1 x.2)).1)
  have hall : (rows.map some).any (·.isNone) = false := by simp
  have hbad : (numbered rows).attach.findSome? (fun _ => (none : Option (Nat × Status × Nat × Nat))) = none :=
    List.findSome?_eq_none_iff.2 fun _ _ => rfl
  unfold Chip.runScatter
  rw [s.reading_of_read m _ _ _ _ list (by simpa [hform] using hlist), hdest,
    s.reading_of_read m _ _ _ _ _ (s.readAt_stg m _ _ hspan)]
  simp only [haddr, hall, numbered_map]
  rw [← List.attach_map_subtype_val (numbered rows)]
  simp only [List.map_map, List.flatMap_map, List.findSome?_map, List.foldl_map,
    Function.comp_def, Option.getD_some, hready, hslice, hbad]
  simp [rowDest, hspace, Chip.foldl_writeAt_stg, Chip.moveRows, Function.comp_def]

/-! ### FILTER_SCAN -/

theorem Chip.runEngine_scan (s : Chip) (m : Cmd) (h : slotOp m.cur = oFILTER_SCAN) (hstage : m.stage ≠ 9) : s.runEngine m = s.runScan m := by
  simp [Chip.runEngine, h, hstage, oCOPY, oFILL, oWAIT_COPY, opIsColl, oTOPK, oSAMPLE, oGATHER, oSCATTER, oFILTER_SCAN]

/-- Element `b` of the `i`-th of pieces that have one length. -/
theorem getElem?_flatMap_const {α β : Type} (f : α → List β) (w : Nat) (hw : ∀ a, (f a).length = w) (l : List α) (i b : Nat) (a : α)
    (h : l[i]? = some a) (hb : b < w) : (l.flatMap f)[w * i + b]? = (f a)[b]? := by
  induction l generalizing i with
  | nil => simp at h
  | cons x l ih =>
    rw [List.flatMap_cons]
    cases i with
    | zero =>
      obtain rfl : x = a := by simpa using h
      rw [List.getElem?_append_left (by rw [hw]; omega), Nat.mul_zero, Nat.zero_add]
    | succ i =>
      rw [List.getElem?_append_right (by rw [hw, Nat.mul_succ]; omega), hw, ← ih i (by simpa using h)]
      congr 1
      rw [Nat.mul_succ]
      omega

theorem length_flatMap_const {α β : Type} (f : α → List β) (w : Nat) (hw : ∀ a, (f a).length = w) (l : List α) :
    (l.flatMap f).length = w * l.length := by
  simp [List.length_flatMap, hw, Nat.mul_comm]

theorem Chip.putMany_stg (s : Chip) (m : Cmd) (o : Nat) (data : List Byte) (st : Status) (res : Nat)
    (h : s.stgHas m.part o data.length = true) :
    s.putMany m [(.stg o, data)] none st res = (s.stgPut m.part o data).issued m st res := by
  simp [Chip.putMany, Chip.writesReady, Chip.writeReady, h, Chip.writeAt]

/-! ### The codebooks of the codec -/

theorem Chip.runEngine_encode (s : Chip) (m : Cmd) (h : slotOp m.cur = oENCODE) (hstage : m.stage ≠ 9) : s.runEngine m = s.runEncode m := by
  simp [Chip.runEngine, h, hstage, oCOPY, oFILL, oWAIT_COPY, opIsColl, oTOPK, oSAMPLE, oGATHER, oSCATTER, oFILTER_SCAN, oATTEND, oPROJECT,
    oENCODE]

theorem Chip.runEngine_build (s : Chip) (m : Cmd) (h : slotOp m.cur = oCODEBOOK_BUILD) (hstage : m.stage ≠ 9) :
    s.runEngine m = s.runBuild m := by
  simp [Chip.runEngine, h, hstage, oCOPY, oFILL, oWAIT_COPY, opIsColl, oTOPK, oSAMPLE, oGATHER, oSCATTER, oFILTER_SCAN, oATTEND, oPROJECT,
    oENCODE, oCODEBOOK_BUILD]

theorem Chip.runEngine_attend (s : Chip) (m : Cmd) (h : slotOp m.cur = oATTEND) (hstage : m.stage ≠ 9) : s.runEngine m = s.runAttend m := by
  simp [Chip.runEngine, h, hstage, oCOPY, oFILL, oWAIT_COPY, opIsColl, oTOPK, oSAMPLE, oGATHER, oSCATTER, oFILTER_SCAN, oATTEND]

theorem Chip.runEngine_project (s : Chip) (m : Cmd) (h : slotOp m.cur = oPROJECT) (hstage : m.stage ≠ 9) : s.runEngine m = s.runProject m := by
  simp [Chip.runEngine, h, hstage, oCOPY, oFILL, oWAIT_COPY, opIsColl, oTOPK, oSAMPLE, oGATHER, oSCATTER, oFILTER_SCAN, oATTEND, oPROJECT]

theorem Chip.runSequencer_retire (s : Chip) (m : Cmd) (h : slotOp m.cur = oCODEBOOK_RETIRE) : s.runSequencer m = s.runRetire m := by
  simp [Chip.runSequencer, h, oFLUSH_RANGE, oTIER_HINT, oPREFETCH, oCOUNTER_SET, oCOUNTER_ADD, oWAIT, oCODEBOOK_RETIRE]

theorem Chip.stgRead_beyond (s : Chip) (p o n : Nat) (h : s.stgHas p o n = false) : s.stgRead p o n = .error .quota := by
  have hcap : s.stgCap p < o + n := Nat.not_le.1 fun hle => Bool.false_ne_true (h.symm.trans (Nat.ble_eq.mpr hle))
  simp [Chip.stgRead, hcap]

/-- A slot takes its state; a slot that is not FREE keeps the rest of its register. -/
theorem Chip.setSlot_frame (s : Chip) (k st : Nat) : s.setSlot k st = { s with regs := (s.setSlot k st).regs } := by
  unfold Chip.setSlot
  split <;> rfl

theorem Chip.slotState_setSlot (s : Chip) (k st : Nat) (h : st < 4) : (s.setSlot k st).slotState k = st := by
  have hst : st % 2 ^ 2 = st := Nat.mod_eq_of_lt h
  unfold Chip.setSlot Chip.slotState
  split
  · rw [Chip.rd_wr_disjoint _ _ _ _ _ (by decide), Chip.rd_wr_same]
    exact hst
  · rw [Chip.rd_wr_same]
    exact hst

theorem Chip.rd_setSlot_live (s : Chip) (k b : Nat) (g : Fld) (h : apart (A.CDC_SLOT k) F.CDC_SLOT_STATE b g) :
    (s.setSlot k cbLIVE).rd b g = s.rd b g := Chip.rd_wr_apart _ _ _ _ _ _ h

/-- Word `i` of a table of centroids (R254). -/
def tableWord (l : List Nat) (i : Nat) : Nat := (upFrom 0 4).foldl (fun n j => n + (l.getD (4 * i + j) 0) <<< (16 * j)) 0

/-- Four numbers of 16 bits packed into a word. -/
theorem bits_packed (a : Nat → Nat) (j : Nat) (ha : ∀ i, a i < 2 ^ 16) (hj : j < 4) :
    bits (a 0 + a 1 <<< 16 + a 2 <<< 32 + a 3 <<< 48) (16 * j) 16 = a j := by
  have h0 := ha 0
  have h1 := ha 1
  have h2 := ha 2
  have h3 := ha 3
  rw [bits, Nat.shiftRight_eq_div_pow, Nat.shiftLeft_eq, Nat.shiftLeft_eq, Nat.shiftLeft_eq]
  clear ha
  have hcases : j = 0 ∨ j = 1 ∨ j = 2 ∨ j = 3 := by omega
  rcases hcases with rfl | rfl | rfl | rfl <;> omega

/-- A word of a table holds four centroids (R254). -/
theorem bits_tableWord (l : List Nat) (i j : Nat) (hl : ∀ a ∈ l, a < 2 ^ 16) (hj : j < 4) :
    bits (tableWord l i) (16 * j) 16 = l.getD (4 * i + j) 0 := by
  have hlt : ∀ a, l.getD (4 * i + a) 0 < 2 ^ 16 := fun a => by
    rw [List.getD_eq_getElem?_getD]
    cases h : l[4 * i + a]? with
    | none => exact Nat.two_pow_pos 16
    | some v => exact hl v (List.mem_of_getElem? h)
  have hword : tableWord l i = 0 + l.getD (4 * i + 0) 0 + l.getD (4 * i + 1) 0 <<< 16 + l.getD (4 * i + 2) 0 <<< 32
      + l.getD (4 * i + 3) 0 <<< 48 := rfl
  rw [hword, Nat.zero_add]
  exact bits_packed (fun j => l.getD (4 * i + j) 0) j hlt hj

/-- The words of a table written into the register file. -/
def Chip.putTable (s : Chip) (k : Nat) (c : List Nat) (l : List Nat) : Chip :=
  l.foldl (fun s i => s.wr (A.CDC_TABLE k i) F.CDC_TABLE_CENTROIDS (tableWord c i)) s

theorem Chip.putTable_frame (s : Chip) (k : Nat) (c l : List Nat) : s.putTable k c l = { s with regs := (s.putTable k c l).regs } := by
  induction l generalizing s with
  | nil => rfl
  | cons i l ih => exact ih _

theorem Chip.rd_putTable_apart (s : Chip) (k : Nat) (c l : List Nat) (b : Nat) (g : Fld)
    (h : ∀ i ∈ l, apart (A.CDC_TABLE k i) F.CDC_TABLE_CENTROIDS b g) : (s.putTable k c l).rd b g = s.rd b g := by
  induction l generalizing s with
  | nil => rfl
  | cons i l ih =>
    rw [List.forall_mem_cons] at h
    exact (ih _ h.2).trans (Chip.rd_wr_apart _ _ _ _ _ _ h.1)

theorem Chip.rd_putTable (s : Chip) (k : Nat) (c l : List Nat) (i : Nat) (hl : l.Nodup) (hi : i ∈ l) :
    (s.putTable k c l).rd (A.CDC_TABLE k i) F.CDC_TABLE_CENTROIDS = tableWord c i % 2 ^ 64 := by
  induction l generalizing s with
  | nil => cases hi
  | cons x l ih =>
    rw [List.nodup_cons] at hl
    rcases List.mem_cons.1 hi with rfl | hi
    · refine (Chip.rd_putTable_apart _ k c l _ _ fun y hy => ?_).trans (Chip.rd_wr_same _ _ _ _)
      have hne : y ≠ i := fun e => hl.1 (e ▸ hy)
      simp only [apart, A.CDC_TABLE, F.CDC_TABLE_CENTROIDS]
      omega
    · exact ih _ hl.2 hi

theorem Chip.centroid_eq (s : Chip) (k j : Nat) :
    s.centroid k j = bits (s.rd (A.CDC_TABLE k (j / 4)) F.CDC_TABLE_CENTROIDS) (16 * (j % 4)) 16 := by
  have hword : s.rd (A.CDC_TABLE k (j / 4)) F.CDC_TABLE_CENTROIDS = (s.regs.word (A.CDC_TABLE k (j / 4))).toNat := by
    unfold Chip.rd
    rw [RegFile.get_eq_bits _ _ 1 _ (by decide), RegFile.span_succ, RegFile.span_zero, Nat.zero_shiftLeft, Nat.add_zero]
    exact (bits_zero _ 64).trans (Nat.mod_eq_of_lt (BitVec.isLt _))
  rw [hword]
  rfl

theorem numbersOf_lt (b : List Byte) : ∀ a ∈ numbersOf 2 b, a < 2 ^ 16 := by
  intro a ha
  obtain ⟨i, -, rfl⟩ := List.mem_map.1 ha
  have hlen : ((b.drop (2 * i)).take 2).length ≤ 2 := List.length_take_le _ _
  exact Nat.lt_of_lt_of_le (natOfBytes_lt _) (Nat.pow_le_pow_right (by decide) hlen)

theorem apart_of_disjoint (a : Nat) (f g : Fld) (h : f.disjoint g) : apart a f a g := by
  unfold apart
  unfold Fld.disjoint at h
  omega

/-- A write after a change of registers alone is a change of registers alone. -/
theorem Chip.wr_frame {s t : Chip} (h : t = { s with regs := t.regs }) (a : Nat) (f : Fld) (v : Nat) :
    t.wr a f v = { s with regs := (t.wr a f v).regs } := congrArg (fun c : Chip => c.wr a f v) h

/-- The generation after one: raised by 1 modulo 2^16, 0 skipped (R254). -/
def nextGen (g : Nat) : Nat := if (g + 1) % 65536 = 0 then 1 else (g + 1) % 65536

theorem nextGen_lt (g : Nat) : nextGen g < 2 ^ 16 := by
  unfold nextGen
  split <;> omega

/-- The tables lie behind the slots' registers. -/
theorem table_apart_slot (k i j : Nat) (g : Fld) (hk : k < 256) (hg : g.lo + g.width ≤ 64) :
    apart (A.CDC_TABLE j i) F.CDC_TABLE_CENTROIDS (A.CDC_SLOT k) g := by
  simp only [apart, A.CDC_TABLE, A.CDC_SLOT, F.CDC_TABLE_CENTROIDS]
  omega

theorem slot_apart_table (k i j : Nat) (f : Fld) (hk : k < 256) (hf : f.lo + f.width ≤ 64) :
    apart (A.CDC_SLOT k) f (A.CDC_TABLE j i) F.CDC_TABLE_CENTROIDS := by
  simp only [apart, A.CDC_TABLE, A.CDC_SLOT, F.CDC_TABLE_CENTROIDS]
  omega

theorem Chip.installCodebook_eq (s : Chip) (k rate : Nat) (c : List Nat) (hk : k < 256) :
    s.installCodebook k rate c = (((s.putTable k c (upFrom 0 64)).wr (A.CDC_SLOT k) F.CDC_SLOT_GEN
      (nextGen (s.rd (A.CDC_SLOT k) F.CDC_SLOT_GEN))).wr (A.CDC_SLOT k) F.CDC_SLOT_RATE rate).setSlot k cbLIVE := by
  have hgen : (s.putTable k c (upFrom 0 64)).rd (A.CDC_SLOT k) F.CDC_SLOT_GEN = s.rd (A.CDC_SLOT k) F.CDC_SLOT_GEN :=
    s.rd_putTable_apart k c _ _ _ fun i _ => table_apart_slot k i k _ hk (by decide)
  rw [← hgen]
  simp [Chip.installCodebook, Chip.putTable, nextGen, tableWord]

/-- What a codebook that is installed makes of its slot and its table (R254). -/
theorem Chip.installCodebook_installed (s : Chip) (k rate : Nat) (c : List Nat) (hk : k < 256) (hrate : rate ≤ 8) (hc : ∀ a ∈ c, a < 2 ^ 16) :
    (s.installCodebook k rate c).slotState k = cbLIVE
      ∧ (s.installCodebook k rate c).rd (A.CDC_SLOT k) F.CDC_SLOT_GEN = nextGen (s.rd (A.CDC_SLOT k) F.CDC_SLOT_GEN)
      ∧ (s.installCodebook k rate c).rd (A.CDC_SLOT k) F.CDC_SLOT_RATE = rate
      ∧ (∀ j, j < 256 → (s.installCodebook k rate c).centroid k j = c.getD j 0)
      ∧ s.installCodebook k rate c = { s with regs := (s.installCodebook k rate c).regs } := by
  rw [s.installCodebook_eq k rate c hk]
  refine ⟨Chip.slotState_setSlot _ _ _ (by decide), ?_, ?_, fun j hj => ?_, ?_⟩
  · rw [Chip.rd_setSlot_live _ _ _ _ (apart_of_disjoint _ _ _ (by decide)), Chip.rd_wr_disjoint _ _ _ _ _ (by decide), Chip.rd_wr_same]
    exact Nat.mod_eq_of_lt (nextGen_lt _)
  · rw [Chip.rd_setSlot_live _ _ _ _ (apart_of_disjoint _ _ _ (by decide)), Chip.rd_wr_same]
    exact Nat.mod_eq_of_lt (Nat.lt_of_le_of_lt hrate (by decide))
  · have hapart : ∀ f : Fld, f.lo + f.width ≤ 64 → apart (A.CDC_SLOT k) f (A.CDC_TABLE k (j / 4)) F.CDC_TABLE_CENTROIDS := fun f hf =>
      slot_apart_table k (j / 4) k f hk hf
    have hmem : j / 4 ∈ upFrom 0 64 := by
      simp [upFrom]
      omega
    rw [Chip.centroid_eq, Chip.rd_setSlot_live _ _ _ _ (hapart _ (by decide)), Chip.rd_wr_apart _ _ _ _ _ _ (hapart _ (by decide)),
      Chip.rd_wr_apart _ _ _ _ _ _ (hapart _ (by decide)), s.rd_putTable k c (upFrom 0 64) _ List.nodup_range' hmem,
      bits_mod _ _ _ _ (by omega), bits_tableWord c _ _ hc (by omega), Nat.div_add_mod]
  · exact Chip.wr_frame (Chip.wr_frame (Chip.wr_frame (s.putTable_frame k c _) _ _ _) _ _ _) _ _ _

theorem Chip.moveRows_frame (s : Chip) (p n : Nat) (l : List (Nat × Nat)) :
    s.moveRows p n l = { s with seq := { s.seq with stg := (s.moveRows p n l).seq.stg } } := s.putRows_frame p _

/-- The places of a span of rows lie apart. -/
theorem numbered_apart (rows : List Nat) (o n : Nat) :
    ((numbered rows).map (fun e => (o + e.1 * n, e.2))).Pairwise (fun e f => e.1 + n ≤ f.1 ∨ f.1 + n ≤ e.1) := by
  have hrising : (numbered rows).Pairwise (fun e f => e.1 < f.1) := by
    rw [← List.pairwise_map (f := Prod.fst) (R := (· < ·)), numbered_fst]
    exact List.pairwise_lt_range'
  refine List.pairwise_map.2 (hrising.imp fun {e f} h => .inl ?_)
  have hstep : (e.1 + 1) * n ≤ f.1 * n := Nat.mul_le_mul_right n h
  rw [Nat.succ_mul] at hstep
  omega

/-- A row of a span that lies within the capacity lies within it. -/
theorem Chip.stgHas_row (s : Chip) (p o n c i : Nat) (h : s.stgHas p o (c * n) = true) (hi : i < c) : s.stgHas p (o + i * n) n = true := by
  have hstep : (i + 1) * n ≤ c * n := Nat.mul_le_mul_right n hi
  rw [Nat.succ_mul] at hstep
  simp only [Chip.stgHas, Nat.ble_eq] at h ⊢
  omega

theorem row_lt (c n i k : Nat) (hi : i < c) (hk : k < n) : i * n + k < c * n := by
  have hstep : (i + 1) * n ≤ c * n := Nat.mul_le_mul_right n hi
  rw [Nat.succ_mul] at hstep
  omega

/-- The rows of a list go to a span, in list order (R227). -/
theorem Chip.moveRows_gather (s : Chip) (p n o : Nat) (rows : List Nat) (hspan : s.stgHas p o (rows.length * n) = true) :
    let u := s.moveRows p n ((numbered rows).map (fun e => (o + e.1 * n, e.2)))
    (∀ i a k, rows[i]? = some a → k < n →
        u.seq.stg.byte (stgKey (s.hbmOf p) (o + i * n + k)) = s.seq.stg.byte (stgKey (s.hbmOf p) (a + k)))
      ∧ ∀ j, (∀ k, k < rows.length * n → j ≠ stgKey (s.hbmOf p) (o + k)) → u.seq.stg.byte j = s.seq.stg.byte j := by
  have hplace : ∀ e ∈ numbered rows, e.1 < rows.length := fun e he => (List.getElem?_eq_some_iff.1 ((mem_numbered rows e).1 he)).1
  refine ⟨fun i a k hi hk => ?_, fun j hj => ?_⟩
  · exact s.moveRows_row p n _ (List.forall_mem_map.2 fun e he => s.stgHas_row p o n _ _ hspan (hplace e he)) (numbered_apart rows o n)
      (o + i * n, a) (List.mem_map_of_mem (f := fun e : Nat × Nat => (o + e.1 * n, e.2)) ((mem_numbered rows (i, a)).2 hi)) k hk
  · refine s.moveRows_other p n _ j (List.forall_mem_map.2 fun e he k hk => ?_)
    rw [Nat.add_assoc]
    exact hj _ (row_lt _ _ _ _ (hplace e he) hk)

/-- The rows of a span go to the places of a list that lie apart (R227). -/
theorem Chip.moveRows_scatter (s : Chip) (p n o : Nat) (rows : List Nat) (hrows : ∀ a ∈ rows, s.stgHas p a n = true)
    (hapart : rows.Pairwise (fun a b => a + n ≤ b ∨ b + n ≤ a)) :
    let u := s.moveRows p n ((numbered rows).map (fun e => (e.2, o + e.1 * n)))
    (∀ i a k, rows[i]? = some a → k < n →
        u.seq.stg.byte (stgKey (s.hbmOf p) (a + k)) = s.seq.stg.byte (stgKey (s.hbmOf p) (o + i * n + k)))
      ∧ ∀ j, (∀ a ∈ rows, ∀ k, k < n → j ≠ stgKey (s.hbmOf p) (a + k)) → u.seq.stg.byte j = s.seq.stg.byte j := by
  have hmem : ∀ e ∈ numbered rows, e.2 ∈ rows := fun e he => List.mem_of_getElem? ((mem_numbered rows e).1 he)
  refine ⟨fun i a k hi hk => ?_, fun j hj => ?_⟩
  · have hpairs : (numbered rows).Pairwise (fun e f => e.2 + n ≤ f.2 ∨ f.2 + n ≤ e.2) := by
      rw [← List.pairwise_map (f := Prod.snd) (R := fun a b => a + n ≤ b ∨ b + n ≤ a), numbered_snd]
      exact hapart
    exact s.moveRows_row p n _ (List.forall_mem_map.2 fun e he => hrows e.2 (hmem e he)) (List.pairwise_map.2 hpairs)
      (a, o + i * n) (List.mem_map_of_mem (f := fun e : Nat × Nat => (e.2, o + e.1 * n)) ((mem_numbered rows (i, a)).2 hi)) k hk
  · exact s.moveRows_other p n _ j (List.forall_mem_map.2 fun e he k hk => hj e.2 (hmem e he) k hk)

/-- Whether record `i` of the data satisfies the predicate of FILTER_SCAN (R229, Table 6.12). -/
def scanHolds (x : Nat) (pred data : List Byte) (i : Nat) : Bool :=
  let fmt := bits x 192 4
  let a (i : Nat) : Nat := natOfBytes ((pred.drop (8 * i)).take 8)
  let k := natOfBytes ((data.drop (i * prm x 20 16 + prm x 22 16)).take (fmtSize fmt 0))
  let t1 := termHolds fmt (bits x 200 4) k (a 0) (a 1)
  let t2 := termHolds fmt (bits x 204 4) k (a 2) (a 3)
  if bits x 196 2 = 0 then t1 else if bits x 196 2 = 1 then t1 && t2 else t1 || t2

/-- The numbers of records as FILTER_SCAN writes them, 4 bytes each from a base (R230). -/
def scanBytes (base : Nat) (hits : List Nat) : List Byte := hits.flatMap (fun i => bytesOfNat 4 (i + base))

theorem length_scanBytes (base : Nat) (hits : List Nat) : (scanBytes base hits).length = 4 * hits.length :=
  length_flatMap_const _ 4 (fun _ => length_bytesOfNat 4 _) hits

/-- A scan whose numbers fit its limit and the STG writes the numbers of all the records that satisfy its predicate (R229, R230). -/
theorem Chip.runScan_of_hits (s : Chip) (m : Cmd) (pred data : List Byte) (hits : List Nat)
    (hhits : hits = (upFrom 0 (prm m.cur 16 32)).filter (scanHolds m.cur pred data))
    (hpred : s.stgRead m.part (prm m.cur 32 38) 32 = .ok pred)
    (hdata : s.readAt m (m.shortAt (Locator.ofShort (prm m.cur 8 64))) (prm m.cur 16 32 * prm m.cur 20 16) = .ok data)
    (hnumbers : bitAt m.cur 198 = false) (hspace : (Locator.ofShort (prm m.cur 40 64)).space = 1) (hlimit : 4 * hits.length ≤ prm m.cur 48 64)
    (hroom : s.stgHas m.part (Locator.ofShort (prm m.cur 40 64)).addr (4 * hits.length) = true) :
    s.runScan m = (s.stgPut m.part (Locator.ofShort (prm m.cur 40 64)).addr (scanBytes (prm m.cur 56 32) hits)).issued m .ok
      (hits.length + hits.length <<< 32) := by
  have hread : s.readAt m (.stg (prm m.cur 32 38)) 32 = .ok pred := by simp only [Chip.readAt, hpred]
  have hout : m.shortAt (Locator.ofShort (prm m.cur 40 64)) = .stg (Locator.ofShort (prm m.cur 40 64)).addr := by
    simp [Cmd.shortAt, hspace]
  have hall : min hits.length (prm m.cur 48 64 / 4) = hits.length := by omega
  unfold Chip.runScan
  rw [s.reading_of_read m _ _ _ _ pred hread, s.reading_of_read m _ _ _ _ data hdata, hout]
  rw [← s.putMany_stg m _ _ _ _ (by rw [length_scanBytes]; exact hroom)]
  unfold scanHolds at hhits
  simp only [beq_iff_eq, ← hhits, hnumbers]
  simp [scanBytes, hall]

/-- A codebook that is not LIVE with the command's GEN is not pinned (R252, R253). -/
theorem Chip.runEncode_refused (s : Chip) (m : Cmd) (hstage : m.stage = 0) (howner : s.owner (A.CDC_SLOT (prm m.cur 8 8)) = some m.part)
    (h : s.slotState (prm m.cur 8 8) ≠ cbLIVE ∨ s.rd (A.CDC_SLOT (prm m.cur 8 8)) F.CDC_SLOT_GEN ≠ prm m.cur 10 16) :
    s.runEncode m = s.failCmd m .formatInvalid 4 (A.CDC_SLOT (prm m.cur 8 8)) 0 := by
  simp [Chip.runEncode, hstage, Chip.pin, howner, h]

theorem Chip.runEncode_pinned (s : Chip) (m : Cmd) (hstage : m.stage = 0) (howner : s.owner (A.CDC_SLOT (prm m.cur 8 8)) = some m.part)
    (hlive : s.slotState (prm m.cur 8 8) = cbLIVE) (hgen : s.rd (A.CDC_SLOT (prm m.cur 8 8)) F.CDC_SLOT_GEN = prm m.cur 10 16)
    (hrefs : s.slotRefs (prm m.cur 8 8) < 65535) (hrate : s.rd (A.CDC_SLOT (prm m.cur 8 8)) F.CDC_SLOT_RATE = prm m.cur 9 8) :
    s.runEncode m = (s.wr (A.CDC_SLOT (prm m.cur 8 8)) F.CDC_SLOT_REFS (s.slotRefs (prm m.cur 8 8) + 1)).setCmd
      { m with pins := prm m.cur 8 8 :: m.pins, stage := 1 } := by
  simp [Chip.runEncode, hstage, Chip.pin, howner, hlive, hgen, Nat.ne_of_lt hrefs, hrate]

/-- A load of finite centroids in rising order is installed (R250, R251, R254). -/
theorem Chip.runBuild_load (s : Chip) (m : Cmd) (data : List Byte) (hstage : m.stage = 1) (hload : prm m.cur 10 8 ≠ 0)
    (hfmt : prm m.cur 12 8 = 1)
    (hread : s.readAt m (m.shortAt (Locator.ofShort (prm m.cur 16 64))) (prm m.cur 24 64 * 2) = .ok data)
    (hfin : ∀ c ∈ numbersOf 2 data, match bf16.decode c with | .fin _ _ _ => True | _ => False)
    (hrising : ((numbersOf 2 data).zip ((numbersOf 2 data).drop 1)).all (fun e => (bf16.decode e.1).le (bf16.decode e.2)) = true) :
    s.runBuild m = (s.installCodebook (prm m.cur 8 8) (prm m.cur 9 8) (numbersOf 2 data)).endPacket m.id .ok
      ((s.installCodebook (prm m.cur 8 8) (prm m.cur 9 8) (numbersOf 2 data)).rd (A.CDC_SLOT (prm m.cur 8 8)) F.CDC_SLOT_GEN) := by
  have hall : (numbersOf 2 data).all (fun c => match bf16.decode c with | .fin _ _ _ => true | _ => false) = true :=
    List.all_eq_true.2 fun c hc => by
      cases hval : bf16.decode c with
      | fin neg n e => rfl
      | nan => exact absurd (hfin c hc) (by simp [hval])
      | inf neg => exact absurd (hfin c hc) (by simp [hval])
  unfold Chip.runBuild
  simp only [hstage]
  rw [if_neg (by decide), s.reading_of_read m _ _ _ _ data (by simpa [hfmt, fmtSize] using hread)]
  simp only [beq_eq_false_iff_ne.2 hload, Bool.false_eq_true, if_false]
  rw [if_pos]
  exact Bool.and_eq_true_iff.2 ⟨hall, hrising⟩

theorem Chip.runRetire_eq (s : Chip) (m : Cmd) :
    (s.slotState (prm m.cur 8 8) = cbBUILDING → s.runRetire m = s.failCmd m .busy 4 (A.CDC_SLOT (prm m.cur 8 8)) 0)
      ∧ (s.slotState (prm m.cur 8 8) = cbLIVE → s.runRetire m
          = (s.setSlot (prm m.cur 8 8) (if s.slotRefs (prm m.cur 8 8) = 0 then cbFREE else cbRETIRING)).endPacket m.id .ok
              (s.slotRefs (prm m.cur 8 8)))
      ∧ (s.slotState (prm m.cur 8 8) ≠ cbBUILDING → s.slotState (prm m.cur 8 8) ≠ cbLIVE →
          s.runRetire m = s.endPacket m.id .ok (s.slotRefs (prm m.cur 8 8))) := by
  refine ⟨fun h => ?_, fun h => ?_, fun hb hl => ?_⟩
  · simp [Chip.runRetire, Chip.retireCodebook, h]
  · simp [Chip.runRetire, Chip.retireCodebook, h, cbBUILDING, cbLIVE]
  · simp [Chip.runRetire, Chip.retireCodebook, hb, hl]

/-- Settles O54. GATHER and SCATTER read every row before they write any, so that rows which lie apart are copied as they were; the others
are the branches of their operations. -/
theorem engineCommandsAct : Obligations.EngineCommandsAct := by
  unfold Obligations.EngineCommandsAct
  refine ⟨fun s m list rows hstage => ?_, fun s m pred data hop hstage => ?_, fun s m =>
    ⟨fun hop hstage howner => ⟨fun h => ?_, fun hlive hgen hrefs hrate => ?_⟩, fun hop hstage => ⟨fun h => ?_, fun h => ?_⟩,
      fun hop hstage hload hfmt data hread hlen hfin hrising hlo hhi => ?_, fun hop => ?_, fun hop hstage hroom => ?_⟩⟩
  · intro r n key hform hspace hdest hcount hspan hrows hlen hlist haddr _
    have hgather := s.runGather_of_rows m list rows hform hspace hdest hcount hrows hlist haddr
    have hscatter := s.runScatter_of_rows m list rows hform hspace hdest hlen hspan hrows hlist haddr
    refine ⟨fun hop => ⟨_, (s.runEngine_gather m hop hstage).trans hgather, s.moveRows_frame _ _ _, ?_⟩,
      fun hop hapart => ⟨_, (s.runEngine_scatter m hop hstage).trans hscatter, s.moveRows_frame _ _ _, ?_⟩⟩
    · rw [← hlen] at hspan ⊢
      exact s.moveRows_gather m.part n r.contig.addr rows hspan
    · exact s.moveRows_scatter m.part n r.contig.addr rows hrows hapart
  · intro x n rb fmt out a holds hits hpred hdata hnumbers hspace hlimit hroom
    have hlen : (scanBytes (prm x 56 32) hits).length = 4 * hits.length := length_scanBytes _ hits
    obtain ⟨hbytes, hothers⟩ := s.stgPut_wrote m.part out.addr (scanBytes (prm x 56 32) hits) (by rw [hlen]; exact hroom)
    refine ⟨_, (s.runEngine_scan m hop hstage).trans (s.runScan_of_hits m pred data hits rfl hpred hdata hnumbers hspace hlimit hroom), rfl,
      fun i k b hi hb => ?_, fun j hj => hothers j (by rw [hlen]; exact hj)⟩
    rw [Nat.add_assoc]
    refine hbytes _ _ ?_
    rw [scanBytes, getElem?_flatMap_const _ 4 (fun _ => length_bytesOfNat 4 _) hits i b k hi hb, List.getD_eq_getElem?_getD,
      List.getElem?_eq_getElem (by rw [length_bytesOfNat]; exact hb), Option.getD_some]
  · rw [s.runEngine_encode m hop (by omega)]
    exact s.runEncode_refused m hstage howner h
  · refine ⟨_, (s.runEngine_encode m hop (by omega)).trans (s.runEncode_pinned m hstage howner hlive hgen hrefs hrate), ?_, rfl⟩
    exact (s.rd_wr_same _ _ _).trans (Nat.mod_eq_of_lt (Nat.succ_lt_succ hrefs))
  · rw [s.runEngine_build m hop (by omega)]
    simp [Chip.runBuild, hstage, h]
  · refine ⟨s.setSlot (prm m.cur 8 8) cbBUILDING, ?_, s.slotState_setSlot _ _ (by decide), rfl⟩
    rw [s.runEngine_build m hop (by omega)]
    simp [Chip.runBuild, hstage, h, Chip.atStage]
  · intro g gen
    obtain ⟨hstate, hgen, hrate, htable, hframe⟩ := s.installCodebook_installed (prm m.cur 8 8) (prm m.cur 9 8) (numbersOf 2 data)
      (bits_lt _ _ _) hhi (numbersOf_lt data)
    refine ⟨_, ?_, hstate, hgen, hrate, fun j hj => htable j (Nat.lt_of_lt_of_le hj (Nat.pow_le_pow_right (by decide) hhi)), hframe⟩
    rw [s.runEngine_build m hop (by omega), s.runBuild_load m data hstage hload hfmt hread hfin hrising, hgen]
    rfl
  · rw [s.runSequencer_retire m hop]
    obtain ⟨hbuilding, hlive, hother⟩ := s.runRetire_eq m
    refine ⟨hbuilding, fun h => ⟨_, hlive h, s.slotState_setSlot _ _ (by split <;> decide), s.setSlot_frame _ _⟩, hother⟩
  · rcases hop with hop | hop
    · rw [s.runEngine_attend m hop (by omega)]
      simp [Chip.runAttend, s.stgRead_beyond _ _ _ hroom]
    · rw [s.runEngine_project m hop (by omega)]
      simp [Chip.runProject, s.stgRead_beyond _ _ _ hroom]

end Sys2Proof.Machine
end

section
/-!
The start of a collective (spec/06_compute_cells.md R206, R217, R219): what the cells of a partition and their timeout depend on, the contexts
that the cells count, and the stages of an open.
-/
open Sys2Proof Sys2Proof.Machine
namespace Sys2Proof.Machine

/-! ### The cells of a partition and their timeout -/

/-- The cells have the same owners and the same timeouts in `t` as in `s`. -/
structure Chip.SameCells (s t : Chip) : Prop where
  owner : ∀ e, e < 64 → t.rd (A.CEL_OWNER e) ⟨0, 16⟩ = s.rd (A.CEL_OWNER e) ⟨0, 16⟩
  timeout : ∀ e, e < 64 → t.rd (A.CEL_CFG e) F.CEL_CFG_COLL_TO_US = s.rd (A.CEL_CFG e) F.CEL_CFG_COLL_TO_US

theorem Chip.ownerHalf_cell (s : Chip) (e : Nat) : s.ownerHalf (A.CEL_OWNER e) = s.rd (A.CEL_OWNER e) ⟨0, 16⟩ := by
  have haddr : A.CEL_OWNER e / 8 * 8 = A.CEL_OWNER e := by simp only [A.CEL_OWNER]; omega
  have hbyte : A.CEL_OWNER e % 8 = 0 := by simp only [A.CEL_OWNER]; omega
  unfold Chip.ownerHalf Chip.rd
  rw [haddr, hbyte, RegFile.get_eq_bits _ _ 1 _ (by decide), RegFile.span_succ, RegFile.span_zero, Nat.zero_shiftLeft, Nat.add_zero]

theorem mem_cellsOf (s : Chip) (p e : Nat) (h : e ∈ s.cellsOf p) : e < 64 := by
  have hmem : e ∈ List.range' 0 64 := (List.mem_filter.1 h).1
  simp at hmem
  omega

theorem Chip.SameCells.trans {s t u : Chip} (h : s.SameCells t) (h' : t.SameCells u) : s.SameCells u where
  owner e he := (h'.owner e he).trans (h.owner e he)
  timeout e he := (h'.timeout e he).trans (h.timeout e he)

theorem Chip.SameCells.of_regs {s t : Chip} (h : t.regs = s.regs) : s.SameCells t where
  owner e _ := by unfold Chip.rd; rw [h]
  timeout e _ := by unfold Chip.rd; rw [h]

theorem Chip.SameCells.cellsOf {s t : Chip} (h : s.SameCells t) (p : Nat) : t.cellsOf p = s.cellsOf p := by
  refine List.filter_congr fun e he => ?_
  have hlt : e < 64 := by simpa [upFrom] using he
  have hble : Nat.blt e 64 = true := Nat.ble_eq.mpr hlt
  have hable : Nat.blt e 80 = true := Nat.ble_eq.mpr (by omega : e + 1 ≤ 80)
  simp only [Chip.engineOf, engineOwner, hble, hable, if_true, Chip.owner, Chip.ownerHalf_cell, h.owner e hlt]

theorem headD_cellsOf (s : Chip) (p : Nat) : (s.cellsOf p).headD 0 < 64 := by
  cases h : s.cellsOf p with
  | nil => decide
  | cons e l => exact mem_cellsOf s p e (h ▸ List.mem_cons_self)

theorem Chip.SameCells.collTimeout {s t : Chip} (h : s.SameCells t) (p : Nat) : t.collTimeout p = s.collTimeout p := by
  unfold Chip.collTimeout
  rw [h.cellsOf p, h.timeout _ (headD_cellsOf s p)]

theorem Chip.SameCells.wr (s : Chip) (a : Nat) (f : Fld) (v : Nat)
    (h : ∀ e, e < 64 → apart a f (A.CEL_OWNER e) ⟨0, 16⟩ ∧ apart a f (A.CEL_CFG e) F.CEL_CFG_COLL_TO_US) : s.SameCells (s.wr a f v) where
  owner e he := Chip.rd_wr_apart _ _ _ _ _ _ (h e he).1
  timeout e he := Chip.rd_wr_apart _ _ _ _ _ _ (h e he).2

/-- A cell's status register lies apart from every owner byte and configuration of a cell. -/
theorem Chip.SameCells.wr_status (s : Chip) (i : Nat) (f : Fld) (v : Nat) (hf : f.lo + f.width ≤ 64) :
    s.SameCells (s.wr (A.CEL_STATUS i) f v) :=
  .wr s _ f v fun e _ => by
    simp only [apart, A.CEL_STATUS, A.CEL_OWNER, A.CEL_CFG, F.CEL_CFG_COLL_TO_US]
    omega

/-! ### The contexts of the cells -/

theorem Chip.syncContexts_frame (s : Chip) (cells : List Nat) : s.syncContexts cells = { s with regs := (s.syncContexts cells).regs } := by
  unfold Chip.syncContexts
  induction cells generalizing s with
  | nil => rfl
  | cons e l ih => exact ih (s.wr (A.CEL_STATUS e) _ _)

theorem Chip.syncContexts_sameCells (s : Chip) (cells : List Nat) : s.SameCells (s.syncContexts cells) := by
  unfold Chip.syncContexts
  induction cells generalizing s with
  | nil => exact .of_regs rfl
  | cons e l ih => exact (Chip.SameCells.wr_status s e _ _ (by decide)).trans (ih _)

theorem Chip.rd_syncContexts_apart (s : Chip) (cells : List Nat) (b : Nat) (g : Fld)
    (h : ∀ e, apart (A.CEL_STATUS e) F.CEL_STATUS_CTX_USED b g) : (s.syncContexts cells).rd b g = s.rd b g := by
  unfold Chip.syncContexts
  induction cells generalizing s with
  | nil => rfl
  | cons e l ih => exact (ih _).trans (Chip.rd_wr_apart _ _ _ _ _ _ (h e))

theorem status_apart (i j : Nat) (f g : Fld) (h : i ≠ j) (hf : f.lo + f.width ≤ 64) (hg : g.lo + g.width ≤ 64) :
    apart (A.CEL_STATUS i) f (A.CEL_STATUS j) g := by
  simp only [apart, A.CEL_STATUS]
  omega

/-- Every cell that is brought up to date counts its contexts (Table 6.17). -/
theorem Chip.rd_syncContexts (s : Chip) (cells : List Nat) (e : Nat) (he : e ∈ cells) :
    (s.syncContexts cells).rd (A.CEL_STATUS e) F.CEL_STATUS_CTX_USED
      = (s.seq.colls.filter (fun c => c.cells.contains e)).length % 2 ^ F.CEL_STATUS_CTX_USED.width := by
  unfold Chip.syncContexts
  induction cells generalizing s with
  | nil => cases he
  | cons x l ih =>
    by_cases hl : e ∈ l
    · exact ih _ hl
    · obtain rfl : e = x := (List.mem_cons.1 he).resolve_right hl
      have hrest : ∀ t : Chip, (t.syncContexts l).rd (A.CEL_STATUS e) F.CEL_STATUS_CTX_USED = t.rd (A.CEL_STATUS e) F.CEL_STATUS_CTX_USED := by
        unfold Chip.syncContexts
        clear ih he
        induction l with
        | nil => exact fun _ => rfl
        | cons y l ih =>
          rw [List.mem_cons, not_or] at hl
          exact fun t => (ih hl.2 _).trans (Chip.rd_wr_apart _ _ _ _ _ _ (status_apart _ _ _ _ (Ne.symm hl.1) (by decide) (by decide)))
      exact (hrest _).trans (Chip.rd_wr_same _ _ _ _)

/-! ### The start of a collective command -/

theorem Chip.runEngine_coll (s : Chip) (m : Cmd) (h : opIsColl (slotOp m.cur) = true) (hstage : m.stage ≠ 9) :
    s.runEngine m = s.runCollective m := by
  have hcopy : slotOp m.cur ≠ oCOPY := by rintro e; rw [e] at h; exact absurd h (by decide)
  have hfill : slotOp m.cur ≠ oFILL := by rintro e; rw [e] at h; exact absurd h (by decide)
  have hwait : slotOp m.cur ≠ oWAIT_COPY := by rintro e; rw [e] at h; exact absurd h (by decide)
  simp [Chip.runEngine, h, hstage, hcopy, hfill, hwait]

/-- A collective that stands in its list as it is: putting it back changes nothing. -/
theorem Chip.setColl_self (s : Chip) (c : Coll) (h : ∀ x ∈ s.seq.colls, x.key = c.key → x = c) : s.setColl c = s := by
  have hmap : s.seq.colls.map (fun x => if x.key == c.key then c else x) = s.seq.colls := by
    refine (List.map_congr_left fun x hx => ?_).trans (List.map_id _)
    split
    · rename_i hkey
      exact (h x hx (beq_iff_eq.1 hkey)).symm
    · rfl
  simp only [Chip.setColl, Chip.modSeq, hmap]

theorem Chip.mirrorUnits_frame (s : Chip) (c : Coll) (l : List Nat) :
    ∃ scr, l.foldl (fun s u => s.mirrorUnit c u) s = { s with seq := { s.seq with scr := scr } } := by
  induction l generalizing s with
  | nil => exact ⟨s.seq.scr, rfl⟩
  | cons u l ih => exact ih (s.mirrorUnit c u)

/-- A root whose units are not all complete does not commit. -/
theorem Chip.collRun_root (s : Chip) (c : Coll) (u : Nat) (h : s.collKey? c.key = some c) (hroot : c.p.root = true) (hu : u < c.p.unitCount)
    (hdone : c.done u = false) : s.collRun c.key = s := by
  have hall : (upFrom 0 c.p.unitCount).all c.done = false :=
    List.all_eq_false.2 ⟨u, by simpa [upFrom] using hu, by simp [hdone]⟩
  simp [Chip.collRun, h, hroot, Chip.commit, hall]

/-- Nothing is sent up while no unit is complete. -/
theorem runsFrom_undone (total g mx : Nat) (done sent : Nat → Bool) (h : ∀ u, done u = false) (n u : Nat) :
    runsFrom total g mx done sent n u = [] := by
  induction n generalizing u with
  | zero => rfl
  | succ n ih =>
    unfold runsFrom
    split
    · rfl
    · simp [h, ih]

/-- A non-root no unit of which is complete sends nothing up and stays open. -/
theorem Chip.collRun_leaf (s : Chip) (c : Coll) (h : s.collKey? c.key = some c) (hroot : c.p.root = false) (hdone : ∀ u, c.done u = false)
    (hexpects : c.expecting = true) : s.collRun c.key = s := by
  have hpartials : s.sendPartials c.key = s := by
    simp [Chip.sendPartials, h, runsFrom_undone _ _ _ _ _ hdone]
  simp [Chip.collRun, h, hroot, hpartials, Chip.tryClose, hexpects]

/-- A plan that nobody keeps an abort for, with contributors and no local source, of a kind that adds up. -/
structure PlanRec.opens (r : PlanRec) : Prop where
  header : r.plan = Plan.of r.header
  source : r.plan.localSrc = false
  contrib : r.contrib ≠ []
  gather : r.plan.kind ≠ 3
  broadcast : r.plan.kind ≠ 4
  units : r.plan.unitCount ≠ 0

/-- The context that a plan opens (R206). -/
def PlanRec.coll (r : PlanRec) (key part off cmd : Nat) (cells : List Nat) : Coll :=
  { key := key, part := part, planOff := off, plan := r.header, contrib := r.contrib, scatter := r.scatter, sampling := r.sampling,
    cmd := cmd, cells := cells }

section
variable {r : PlanRec} (h : r.opens) (key part off cmd : Nat) (cells : List Nat)
include h

theorem PlanRec.coll_p : (r.coll key part off cmd cells).p = r.plan := h.header.symm

theorem PlanRec.full_coll : (r.coll key part off cmd cells).full ≠ 0 := by
  have hlen : r.contrib.length ≠ 0 := fun e => h.contrib (List.length_eq_zero_iff.1 e)
  have hpow : 2 ^ 1 ≤ 2 ^ r.contrib.length := Nat.pow_le_pow_right (by decide) (Nat.one_le_iff_ne_zero.2 hlen)
  unfold Coll.full
  show 2 ^ r.contrib.length - 1 + _ ≠ 0
  omega

/-- No unit of a context that has just been opened is complete. -/
theorem PlanRec.done_coll (u : Nat) : (r.coll key part off cmd cells).done u = false := by
  have hmask : ((r.coll key part off cmd cells).unit u).mask = 0 := rfl
  have hfull := (PlanRec.full_coll h key part off cmd cells).symm
  simp [Coll.done, PlanRec.coll_p h, h.gather, h.broadcast, hmask, hfull]

theorem PlanRec.expecting_coll : (r.coll key part off cmd cells).expecting = true := by
  have hcommitted : (r.coll key part off cmd cells).committed = false := rfl
  have hunits : 0 < r.plan.unitCount := Nat.pos_of_ne_zero h.units
  simp only [Coll.expecting, PlanRec.coll_p h, hcommitted, PlanRec.done_coll h]
  simp only [beq_eq_false_iff_ne.2 h.gather, beq_eq_false_iff_ne.2 h.broadcast, Bool.or_false, Bool.false_and, Bool.false_eq_true, if_false]
  exact List.any_eq_true.2 ⟨0, by simpa [upFrom] using hunits, rfl⟩

end

/-- The context in the list of open ones, its COLL_ID no longer remembered nor mismatched. -/
def Chip.collEntered (s : Chip) (c : Coll) (id : Nat) : Chip :=
  s.modSeq (fun q => { q with
    nextColl := c.key + 1
    colls := q.colls ++ [c]
    kept := q.kept.filter (fun k => !(k.1 == c.part && k.2.1 == id))
    mismatched := q.mismatched.filter (fun k => k != (c.part, id)) })

/-- The context of plan `p` entered, its cells brought up to date and the scratchpads of its units written. -/
def Chip.collMirrored (s : Chip) (c : Coll) (p : Plan) : Chip :=
  (upFrom 0 p.unitCount).foldl (fun s u => s.mirrorUnit c u) ((s.collEntered c p.collId).syncContexts c.cells)

theorem Chip.collMirrored_frame (s : Chip) (c : Coll) (p : Plan) : ∃ scr, s.collMirrored c p = { s with
      regs := ((s.collEntered c p.collId).syncContexts c.cells).regs, seq := { (s.collEntered c p.collId).seq with scr := scr } } := by
  obtain ⟨scr, hscr⟩ := Chip.mirrorUnits_frame ((s.collEntered c p.collId).syncContexts c.cells) c (upFrom 0 p.unitCount)
  refine ⟨scr, hscr.trans ?_⟩
  have hsync := Chip.syncContexts_frame (s.collEntered c p.collId) c.cells
  generalize (s.collEntered c p.collId).syncContexts c.cells = t at hsync ⊢
  generalize t.regs = regs at hsync ⊢
  subst hsync
  rfl

/-- The early arrivals of a collective are taken, in order of arrival (R211). -/
def Chip.earlyTaken (s : Chip) (part id : Nat) : Chip :=
  (s.seq.early.filter (fun e => e.part == part && e.collId == id)).foldl (fun s e =>
    let r := (s.copyDone e.slot localPort).collIn e.pkt
    if r.2 then r.1.flowApplied e.pkt else r.1)
    (s.modSeq (fun q => { q with early := q.early.filter (fun e => !(e.part == part && e.collId == id)) }))

theorem Chip.earlyTaken_none (s : Chip) (part id : Nat) (h : ∀ e ∈ s.seq.early, ¬ (e.part = part ∧ e.collId = id)) :
    s.earlyTaken part id = s := by
  have hmatch : ∀ e ∈ s.seq.early, (e.part == part && e.collId == id) = false := fun e he => by simpa using h e he
  have hnone : s.seq.early.filter (fun e => e.part == part && e.collId == id) = [] :=
    List.filter_eq_nil_iff.2 fun e he => by simp [hmatch e he]
  have hall : s.seq.early.filter (fun e => !(e.part == part && e.collId == id)) = s.seq.early :=
    List.filter_eq_self.2 fun e he => by simp [hmatch e he]
  simp only [Chip.earlyTaken, hnone, Chip.modSeq, hall, List.foldl_nil]

/-- A plan for a COLL_ID for which an abort is kept: the abort is forgotten and recorded (R219). -/
def Chip.collForgone (s : Chip) (part off id : Nat) : Chip :=
  ((s.modSeq (fun q => { q with kept := q.kept.filter (fun k => !(k.1 == part && k.2.1 == id)) })).stopTimer (.abortMemory part id)).log
    { status := .collectiveAbort, subsys := .computeCells, partition := some part, addrKind := 2, addr := off, tag := id }

theorem Chip.openColl_kept (s : Chip) (cmd part off : Nat) (r : PlanRec)
    (h : s.seq.kept.any (fun k => k.1 == part && k.2.1 == r.plan.collId && k.2.2) = true) :
    s.openColl cmd part off r = (s.collForgone part off r.plan.collId).endPacket cmd .collectiveAbort 0 := if_pos h

/-- A context with contributors and no local source is entered, watched, given its early arrivals and run (R206, R211). -/
theorem Chip.openColl_eq (s : Chip) (cmd part off : Nat) (r : PlanRec)
    (hkept : s.seq.kept.any (fun k => k.1 == part && k.2.1 == r.plan.collId && k.2.2) = false)
    (hfull : (r.coll s.seq.nextColl part off cmd (s.cellsOf part)).full ≠ 0) (hsource : r.plan.localSrc = false) :
    s.openColl cmd part off r
      = (((((s.collMirrored (r.coll s.seq.nextColl part off cmd (s.cellsOf part)) r.plan).setColl
          (r.coll s.seq.nextColl part off cmd (s.cellsOf part))).collWatch
          (r.coll s.seq.nextColl part off cmd (s.cellsOf part))).earlyTaken part r.plan.collId).collRun s.seq.nextColl) := by
  have hzero : ((r.coll s.seq.nextColl part off cmd (s.cellsOf part)).full == 0 && r.plan.kind != 3 && r.plan.kind != 4) = false := by
    simp [hfull]
  unfold Chip.openColl
  extract_lets
  rw [if_neg (Bool.not_eq_true _ ▸ hkept), if_neg (Bool.not_eq_true _ ▸ hzero)]
  dsimp only
  rw [if_neg (Bool.not_eq_true _ ▸ hsource)]
  rfl

theorem Chip.collMirrored_colls (s : Chip) (c : Coll) (p : Plan) : (s.collMirrored c p).seq.colls = s.seq.colls ++ [c] := by
  obtain ⟨scr, hscr⟩ := s.collMirrored_frame c p
  rw [hscr]
  rfl

theorem Chip.collMirrored_early (s : Chip) (c : Coll) (p : Plan) : (s.collMirrored c p).seq.early = s.seq.early := by
  obtain ⟨scr, hscr⟩ := s.collMirrored_frame c p
  rw [hscr]
  rfl

theorem Chip.collMirrored_regs (s : Chip) (c : Coll) (p : Plan) :
    (s.collMirrored c p).regs = ((s.collEntered c p.collId).syncContexts c.cells).regs := by
  obtain ⟨scr, hscr⟩ := s.collMirrored_frame c p
  rw [hscr]

theorem Chip.collMirrored_sameCells (s : Chip) (c : Coll) (p : Plan) : s.SameCells (s.collMirrored c p) :=
  .trans (.trans (.of_regs (s := s) (t := s.collEntered c p.collId) rfl) (Chip.syncContexts_sameCells _ c.cells))
    (.of_regs (s.collMirrored_regs c p))

/-- A key that is not in use is that of the context entered under it. -/
theorem Chip.collMirrored_key (s : Chip) (c : Coll) (p : Plan) (h : s.collKey? c.key = none) :
    (∀ x ∈ (s.collMirrored c p).seq.colls, x.key = c.key → x = c) ∧ (s.collMirrored c p).collKey? c.key = some c := by
  have hfree : ∀ x ∈ s.seq.colls, x.key ≠ c.key := fun x hx hkey => List.find?_eq_none.1 h x hx (beq_iff_eq.2 hkey)
  rw [Chip.collKey?, s.collMirrored_colls]
  refine ⟨fun x hx hkey => ?_, ?_⟩
  · rcases List.mem_append.1 hx with hx | hx
    · exact absurd hkey (hfree x hx)
    · exact List.mem_singleton.1 hx
  · have hnone : s.seq.colls.find? (fun x => x.key == c.key) = none := h
    simp [List.find?_append, hnone]

/-- A plan that opens, with nothing held for it: its context is entered with its watchdog (R206, R217). -/
theorem Chip.openColl_of_opens (s : Chip) (cmd part off : Nat) (r : PlanRec) (h : r.opens) (hkept : s.seq.kept = [])
    (hkey : s.collKey? s.seq.nextColl = none) (hearly : ∀ e ∈ s.seq.early, ¬ (e.part = part ∧ e.collId = r.plan.collId)) :
    s.openColl cmd part off r = (s.collMirrored (r.coll s.seq.nextColl part off cmd (s.cellsOf part)) r.plan).startTimer
      (.collective s.seq.nextColl) (s.collTimeout part) := by
  rw [s.openColl_eq cmd part off r (by simp [hkept]) (PlanRec.full_coll h _ _ _ _ _) h.source]
  have hp := PlanRec.coll_p h s.seq.nextColl part off cmd (s.cellsOf part)
  have hdone := PlanRec.done_coll h s.seq.nextColl part off cmd (s.cellsOf part)
  have hexpects := PlanRec.expecting_coll h s.seq.nextColl part off cmd (s.cellsOf part)
  obtain ⟨hself, hfind⟩ := s.collMirrored_key (r.coll s.seq.nextColl part off cmd (s.cellsOf part)) r.plan hkey
  have hwatch : ((s.collMirrored (r.coll s.seq.nextColl part off cmd (s.cellsOf part)) r.plan).setColl
      (r.coll s.seq.nextColl part off cmd (s.cellsOf part))).collWatch (r.coll s.seq.nextColl part off cmd (s.cellsOf part))
      = (s.collMirrored (r.coll s.seq.nextColl part off cmd (s.cellsOf part)) r.plan).startTimer (.collective s.seq.nextColl)
          (s.collTimeout part) := by
    rw [Chip.setColl_self _ _ hself, Chip.collWatch, if_pos hexpects]
    exact congrArg _ ((s.collMirrored_sameCells _ r.plan).collTimeout part)
  rw [hwatch, Chip.earlyTaken_none _ _ _ (by rw [Chip.startTimer_seq, Chip.collMirrored_early]; exact hearly)]
  generalize hu : (s.collMirrored (r.coll s.seq.nextColl part off cmd (s.cellsOf part)) r.plan).startTimer (.collective s.seq.nextColl)
    (s.collTimeout part) = u
  have hfind : u.collKey? (r.coll s.seq.nextColl part off cmd (s.cellsOf part)).key
      = some (r.coll s.seq.nextColl part off cmd (s.cellsOf part)) := hu ▸ hfind
  cases hroot : r.plan.root with
  | true =>
    exact u.collRun_root _ 0 hfind (hp.symm ▸ hroot) (hp.symm ▸ Nat.pos_of_ne_zero h.units) (hdone 0)
  | false =>
    exact u.collRun_leaf _ hfind (hp.symm ▸ hroot) hdone hexpects

/-- What stands once a context is entered with its watchdog. -/
theorem Chip.openColl_opened (s : Chip) (cmd part off : Nat) (r : PlanRec) (h : r.opens) (hkept : s.seq.kept = [])
    (hkey : s.collKey? s.seq.nextColl = none) (hearly : ∀ e ∈ s.seq.early, ¬ (e.part = part ∧ e.collId = r.plan.collId)) :
    let u := s.openColl cmd part off r
    u = { s with regs := u.regs, seq := u.seq, timers := u.timers }
      ∧ u.seq.colls = s.seq.colls ++ [r.coll s.seq.nextColl part off cmd (s.cellsOf part)]
      ∧ u.due (.collective s.seq.nextColl) = some (s.raw + s.collTimeout part)
      ∧ ∀ e ∈ s.cellsOf part, u.rd (A.CEL_STATUS e) F.CEL_STATUS_CTX_USED
          = (u.seq.colls.filter (fun c => c.cells.contains e)).length % 2 ^ F.CEL_STATUS_CTX_USED.width := by
  rw [s.openColl_of_opens cmd part off r h hkept hkey hearly]
  obtain ⟨scr, hframe⟩ := s.collMirrored_frame (r.coll s.seq.nextColl part off cmd (s.cellsOf part)) r.plan
  refine ⟨?_, s.collMirrored_colls _ _, ?_, fun e he => ?_⟩
  · rw [hframe]
    rfl
  · rw [Chip.due_startTimer, hframe]
  · refine Eq.trans ?_ (((s.collEntered (r.coll s.seq.nextColl part off cmd (s.cellsOf part)) r.plan.collId).rd_syncContexts _ e he).trans ?_)
    · unfold Chip.rd
      rw [Chip.startTimer_regs, Chip.collMirrored_regs]
      rfl
    · rw [Chip.startTimer_seq, Chip.collMirrored_colls]
      rfl

theorem Chip.collForgone_frame (s : Chip) (part off id : Nat) : (s.collForgone part off id).seq.colls = s.seq.colls
    ∧ (s.collForgone part off id).errSeq = s.errSeq + 1
    ∧ ∀ k ∈ (s.collForgone part off id).seq.kept, ¬ (k.1 = part ∧ k.2.1 = id) := by
  unfold Chip.collForgone
  refine ⟨by rw [Chip.log_seq]; rfl, by rw [Chip.log_errSeq]; rfl, fun k hk => ?_⟩
  rw [Chip.log_seq] at hk
  exact fun ⟨hpart, hid⟩ => by simpa [hpart, hid] using (List.mem_filter.1 hk).2

/-- The command as it stands once its context is open (log entry 41). -/
def Cmd.served (m : Cmd) : Cmd := { m with stage := 8, engines := if m.isChain then m.engines else [] }

theorem Chip.runCollective_eq (s : Chip) (m : Cmd) (h : m.stage = 0) :
    (∀ st, s.planCheck m.part (prm m.cur 8 38) (slotOp m.cur) = .error st → s.runCollective m = s.failCmd m st 2 (prm m.cur 8 38) 0)
      ∧ (s.planCheck m.part (prm m.cur 8 38) (slotOp m.cur) = .ok none → s.runCollective m = s.endPacket m.id .ok 0)
      ∧ ∀ r, s.planCheck m.part (prm m.cur 8 38) (slotOp m.cur) = .ok (some r) →
          s.runCollective m = (s.setCmd m.served).openColl m.id m.part (prm m.cur 8 38) r := by
  refine ⟨fun st hcheck => ?_, fun hcheck => ?_, fun r hcheck => ?_⟩ <;> simp [Chip.runCollective, h, hcheck, Cmd.served]

end Sys2Proof.Machine
end

section
/-!
Arrivals at collectives and their aborts (spec/06_compute_cells.md R207, R209 to R211, R217, R219): early arrivals, contributions, the stages
of an abort, watchdogs, tadpoles, and what is held too long.
-/
open Sys2Proof Sys2Proof.Machine
namespace Sys2Proof.Machine

/-! ### Early arrivals -/

theorem exec_collPacket (p : Packet) (s : State) : exec (.collPacket p) s = .next (s.after (s.collPacket p)) := rfl

/-- A packet without a released local copy in the buffer is taken as it is. -/
theorem Chip.takeLocal_of_unreleased (s : Chip) (p : Packet) (h : s.releasedLocal p = none) (haccepts : s.accepts p) :
    s.takeLocal p = (s, true) := by
  unfold Chip.accepts Chip.takeLocal at haccepts
  unfold Chip.takeLocal
  unfold Chip.releasedLocal at h
  generalize s.sw.slots.find? _ = found at *
  cases found with
  | some sl =>
    by_cases hready : (sl.held == .no && sl.copies.any (fun c => c.out == localPort && c.phase == .released)) = true
    · exact absurd h (by simp only [Option.filter, hready, if_true]; exact Option.some_ne_none sl)
    · simp only [hready] at haccepts
      exact absurd haccepts Bool.false_ne_true
  | none =>
    by_cases hfence : (p.fence && !p.mcast && Nat.blt (s.arrivals p.src p.fgen) p.seq) = true
    · simp only [hfence, if_true] at haccepts
      exact absurd haccepts Bool.false_ne_true
    · exact if_neg hfence

theorem Chip.earlyHere_cells (s : Chip) (p : Packet) (h : s.earlyHere p = true) : s.cellsOf p.partition ≠ [] := by
  intro hnil
  simp [Chip.earlyHere, hnil] at h

/-- A partition that has a unit is one of the 64. -/
theorem Chip.owner_lt (s : Chip) (a p : Nat) (h : s.owner a = some p) : p < 64 := by
  unfold Chip.owner at h
  dsimp only at h
  split at h
  · cases h
    exact Nat.mod_lt _ (by decide)
  · cases h

theorem Chip.part_lt_of_cells (s : Chip) (p : Nat) (h : s.cellsOf p ≠ []) : p < 64 := by
  obtain ⟨e, he⟩ := List.exists_mem_of_ne_nil _ h
  have howner : s.engineOf e = some p := by simpa using (List.mem_filter.1 he).2
  unfold Chip.engineOf at howner
  split at howner
  · exact s.owner_lt _ p howner
  · cases howner

/-- The buffer with a packet put at its end. -/
def Chip.slotAdded (s : Chip) (sl : Slot) : Chip :=
  { s with sw := { s.sw with nextId := s.sw.nextId + 1, slots := s.sw.slots ++ [{ sl with id := s.sw.nextId }] } }

/-- A packet put into the buffer charges its partition and keeps the drain count up to date. -/
theorem Chip.place_eq (s : Chip) (sl : Slot) : s.place sl = ((s.slotAdded sl).chargeUp sl.pkt sl.adm).syncDrain := rfl

theorem Chip.place_frame (s : Chip) (sl : Slot) : ∃ regs, s.place sl = { s.slotAdded sl with regs := regs } := by
  rw [s.place_eq]
  generalize s.slotAdded sl = t
  unfold Chip.syncDrain Chip.chargeUp
  dsimp only
  split <;> split <;> exact ⟨_, rfl⟩

theorem Chip.place_sameCells (s : Chip) (sl : Slot) (hpart : sl.pkt.partition < 64) : s.SameCells (s.place sl) := by
  have husage : ∀ (t : Chip) (f : Fld) (v : Nat), f.lo + f.width ≤ 64 → t.SameCells (t.wr (A.SWC_USAGE sl.pkt.partition) f v) :=
    fun t f v hf => .wr t _ f v fun e _ => by
      simp only [apart, A.SWC_USAGE, A.CEL_OWNER, A.CEL_CFG, F.CEL_CFG_COLL_TO_US]
      omega
  have hdrain : ∀ (t : Chip) (v : Nat), t.SameCells (t.wr A.RTE_EPOCH F.RTE_EPOCH_DRAIN v) :=
    fun t v => .wr t _ _ v fun e _ => by
      simp only [apart, A.RTE_EPOCH, F.RTE_EPOCH_DRAIN, A.CEL_OWNER, A.CEL_CFG, F.CEL_CFG_COLL_TO_US]
      omega
  have hsync : ∀ t : Chip, t.SameCells t.syncDrain := fun t => by
    unfold Chip.syncDrain
    split <;> exact hdrain _ _
  have hcharge : ∀ t : Chip, t.SameCells (t.chargeUp sl.pkt sl.adm) := fun t => by
    unfold Chip.chargeUp
    split
    · exact .of_regs rfl
    · exact (husage t F.SWC_USAGE_USED _ (by decide)).trans (husage _ F.SWC_USAGE_PEAK _ (by decide))
  rw [s.place_eq]
  exact (Chip.SameCells.of_regs (s := s) (t := s.slotAdded sl) rfl).trans ((hcharge _).trans (hsync _))

/-- The place in the buffer of an early arrival that was not in it (R211). -/
def Chip.heldSlot (s : Chip) (p : Packet) (adm : Admission) : Slot :=
  { id := s.sw.nextId, pkt := p, inPort := localPort, copies := [⟨localPort, p.tc, .released, 0⟩], adm := adm, filled := p.segs,
    whole := true, held := .early }

theorem Chip.earlyNew_eq (s : Chip) (p : Packet) (adm : Admission) (hadm : s.admission p [] false = some adm) :
    s.earlyNew p = (s.place (s.heldSlot p adm)).noteEarly p s.sw.nextId := by
  simp only [Chip.earlyNew, hadm, Chip.heldSlot]

/-- An early arrival taken into the buffer (R211). -/
theorem Chip.earlyNew_admitted (s : Chip) (p : Packet) (adm : Admission) (hadm : s.admission p [] false = some adm)
    (hpart : p.partition < 64) : let u := s.earlyNew p
    u.seq.early = s.seq.early ++ [⟨p.partition, (CollExt.ofBody p.body).collId, p, s.raw + s.collTimeout p.partition, s.sw.nextId⟩]
      ∧ u.sw.nextId = s.sw.nextId + 1 ∧ u.sw.slots.map (·.pkt) = s.sw.slots.map (·.pkt) ++ [p]
      ∧ u = { s with sw := u.sw, seq := u.seq, regs := u.regs } := by
  rw [s.earlyNew_eq p adm hadm]
  have hcells := s.place_sameCells (s.heldSlot p adm) hpart
  obtain ⟨regs, hplace⟩ := s.place_frame (s.heldSlot p adm)
  unfold Chip.noteEarly
  rw [hcells.collTimeout, hplace]
  refine ⟨rfl, rfl, ?_, rfl⟩
  simp [Chip.slotAdded, Chip.modSeq, Chip.heldSlot]

theorem Chip.earlyNew_refused (s : Chip) (p : Packet) (hadm : s.admission p [] false = none) : s.earlyNew p
    = (s.count (A.CEL_STATUS ((s.cellsOf p.partition).headD 0)) F.CEL_STATUS_EARLY_DROPS).collAnswer p .busy := by
  simp only [Chip.earlyNew, hadm]

theorem Chip.collPacket_held (s : Chip) (p : Packet) (sl : Slot) (h : s.earlyHere p = true) (hsl : s.releasedLocal p = some sl) :
    s.collPacket p = (s.setHeld sl.id .early).noteEarly p sl.id := by
  simp [Chip.collPacket, h, hsl]

theorem Chip.collPacket_new (s : Chip) (p : Packet) (h : s.earlyHere p = true) (hnone : s.releasedLocal p = none) (haccepts : s.accepts p) :
    s.collPacket p = s.earlyNew p := by
  simp [Chip.collPacket, h, hnone, s.takeLocal_of_unreleased p hnone haccepts]

/-! ### Contributions -/

/-- Without a packet held early, a COLL packet that the local consumer may apply is handled by the cells (R209). -/
theorem Chip.collPacket_consumed (s : Chip) (p : Packet) (h : s.earlyHere p = false) (haccepts : s.accepts p) (hsegs : p.segs ≠ 0) :
    s.collPacket p = if ((s.taken p).collIn p).2 = true then ((s.taken p).collIn p).1.flowApplied p
      else if p.fence = true ∧ p.mcast = false then ((s.taken p).collIn p).1.setArrivals p.src p.fgen 0 else ((s.taken p).collIn p).1 := by
  have hconsume : s.collPacket p = s.consumeIf p (fun s => s.collIn p) := by simp [Chip.collPacket, h]
  rw [hconsume, s.consumeIf_of_accepts p _ haccepts hsegs]

/-- A well-formed contribution or partial goes to the open context of its COLL_ID, or to none (R209). -/
theorem Chip.collIn_coll (v : Chip) (p : Packet) (hcls : p.cls = clsCOLL) (hzero : collReservedZero p = true) (hshadow : v.isShadow = false)
    (hrole : (CollExt.ofBody p.body).role < 2) :
    v.collIn p = match v.coll? p.partition (CollExt.ofBody p.body).collId with
      | none => v.collOrphan p
      | some c => v.collContribution c p := by
  have hresult : ((CollExt.ofBody p.body).role == 2) = false := beq_eq_false_iff_ne.2 (by omega)
  have htoken : (clsCOLL == clsTOKEN) = false := by decide
  cases hcoll : v.coll? p.partition (CollExt.ofBody p.body).collId <;>
    simp [Chip.collIn, hcls, hzero, hshadow, hresult, htoken, hcoll]

theorem Chip.collOrphan_busy (v : Chip) (p : Packet) (n : Nat) (l : List Nat) (hrole : (CollExt.ofBody p.body).role < 2)
    (hkept : v.seq.kept = []) (hcells : v.cellsOf p.partition = n :: l) :
    v.collOrphan p = ((v.count (A.CEL_STATUS n) F.CEL_STATUS_EARLY_DROPS).collAnswer p .busy, false) := by
  have hresult : ((CollExt.ofBody p.body).role == 2) = false := beq_eq_false_iff_ne.2 (by omega)
  simp [Chip.collOrphan, hresult, hkept, hcells]

theorem Chip.collContribution_stray (v : Chip) (c : Coll) (p : Packet) (h : p.src ∉ c.contrib) :
    v.collContribution c p = (v.count (A.CEL_STATUS (c.cellOf 0)) F.CEL_STATUS_STRAY_DROPS, false) := by
  have hnone : c.contrib.findIdx? (· == p.src) = none := List.findIdx?_eq_none_iff.2 fun e he => by
    simpa using fun heq : e = p.src => h (heq ▸ he)
  simp [Chip.collContribution, hnone, Chip.collDrop]

/-- A contribution of one unit: dropped where nothing of it is applied, else the context goes on (R210). -/
theorem Chip.collContribution_unit (v : Chip) (c : Coll) (p : Packet) (i off n : Nat) (x : Nat × List Nat)
    (hi : c.contrib.findIdx? (· == p.src) = some i) (hcover : c.p.cover p = .ok (off, n))
    (hunits : c.p.unitsAt (c.p.fmtOf (CollExt.ofBody p.body).role) off n p.payload = [x]) (hcontent : c.p.contentOk [x] = true) :
    v.collContribution c p = if (v.collApply c i [x]).2.2 then
        (((((v.collApply c i [x]).1.setColl (v.collApply c i [x]).2.1).tap p).collWatch (v.collApply c i [x]).2.1).collRun
          (v.collApply c i [x]).2.1.key, true)
      else ((v.collApply c i [x]).1, false) := by
  simp [Chip.collContribution, hi, hcover, hunits, hcontent]

/-- The context with a contribution to a unit (R210). -/
def Coll.filled (c : Coll) (i : Nat) (x : Nat × List Nat) : Coll :=
  { c with units := c.units.put x.1 { c.unit x.1 with
      acc := c.p.merge (if (c.unit x.1).mask = 0 then none else some (c.unit x.1).acc) x.2
      mask := (c.unit x.1).mask + 2 ^ i } }

theorem Coll.unit_filled (c : Coll) (i : Nat) (x : Nat × List Nat) : (c.filled i x).unit x.1
    = { acc := c.p.merge (if (c.unit x.1).mask = 0 then none else some (c.unit x.1).acc) x.2
        mask := (c.unit x.1).mask + 2 ^ i, sent := (c.unit x.1).sent } := by
  simp [Coll.unit, Coll.filled, Tab.find_put_same]

theorem Chip.collApply_duplicate (v : Chip) (c : Coll) (i : Nat) (x : Nat × List Nat) (h : bitAt (c.unit x.1).mask i = true) :
    v.collApply c i [x] = (v.count (A.CEL_STATUS (c.cellOf x.1)) F.CEL_STATUS_DUP_DROPS, c, false) := by
  simp [Chip.collApply, h, Chip.collDrop]

theorem Chip.collApply_new (v : Chip) (c : Coll) (i : Nat) (x : Nat × List Nat) (h : bitAt (c.unit x.1).mask i = false)
    (hgather : c.p.kind ≠ 3) (hbroadcast : c.p.kind ≠ 4) :
    v.collApply c i [x] = (v.mirrorUnit (c.filled i x) x.1, c.filled i x, true) := by
  simp [Chip.collApply, h, hgather, hbroadcast, Coll.filled]

/-- The only context of its key, put back changed, is found changed. -/
theorem Chip.collKey?_setColl (s : Chip) (c c' : Coll) (hkey : c'.key = c.key) (h : s.seq.colls.filter (fun y => y.key == c.key) = [c]) :
    (s.setColl c').collKey? c.key = some c' := by
  have hfind : s.seq.colls.find? (fun y => y.key == c.key) = some c := by
    rw [← List.head?_filter, h]
    rfl
  have hpred : ((fun y : Coll => y.key == c.key) ∘ fun y => if y.key == c.key then c' else y) = fun y => y.key == c.key := by
    funext y
    by_cases hy : y.key = c.key <;> simp [hy, hkey]
  unfold Chip.collKey? Chip.setColl Chip.modSeq
  simp only [hkey, List.find?_map, hpred, hfind]
  simp

theorem Chip.collContribution_duplicate (v : Chip) (c : Coll) (p : Packet) (i off n : Nat) (x : Nat × List Nat)
    (hi : c.contrib.findIdx? (· == p.src) = some i) (hcover : c.p.cover p = .ok (off, n))
    (hunits : c.p.unitsAt (c.p.fmtOf (CollExt.ofBody p.body).role) off n p.payload = [x]) (hcontent : c.p.contentOk [x] = true)
    (hdup : bitAt (c.unit x.1).mask i = true) :
    v.collContribution c p = (v.count (A.CEL_STATUS (c.cellOf x.1)) F.CEL_STATUS_DUP_DROPS, false) := by
  rw [v.collContribution_unit c p i off n x hi hcover hunits hcontent, v.collApply_duplicate c i x hdup]
  rfl

/-- A contribution that leaves its unit incomplete at the root restarts the watchdog (R210, R217). -/
theorem Chip.collContribution_fills (v : Chip) (c : Coll) (p : Packet) (i off n : Nat) (x : Nat × List Nat)
    (hi : c.contrib.findIdx? (· == p.src) = some i) (hcover : c.p.cover p = .ok (off, n))
    (hunits : c.p.unitsAt (c.p.fmtOf (CollExt.ofBody p.body).role) off n p.payload = [x]) (hcontent : c.p.contentOk [x] = true)
    (hgather : c.p.kind ≠ 3) (hbroadcast : c.p.kind ≠ 4) (hnew : bitAt (c.unit x.1).mask i = false) (hroot : c.p.root = true)
    (hcommitted : c.committed = false) (htap : v.isTap = false) (hx : x.1 < c.p.unitCount) (hpartial : (c.unit x.1).mask + 2 ^ i ≠ c.full)
    (hone : v.seq.colls.filter (fun y => y.key == c.key) = [c]) :
    v.collContribution c p = (((v.mirrorUnit (c.filled i x) x.1).setColl (c.filled i x)).startTimer (.collective c.key)
      (v.collTimeout c.part), true) := by
  have hdone : (c.filled i x).done x.1 = false := by
    have hmask : ((c.filled i x).unit x.1).mask = (c.unit x.1).mask + 2 ^ i := by rw [Coll.unit_filled]
    have hfull : (c.filled i x).full = c.full := rfl
    have hp : (c.filled i x).p = c.p := rfl
    simp [Coll.done, hmask, hfull, hp, hgather, hbroadcast, hpartial]
  have hexpects : (c.filled i x).expecting = true := by
    have hp : (c.filled i x).p = c.p := rfl
    have hc : (c.filled i x).committed = false := hcommitted
    have hany : (upFrom 0 c.p.unitCount).any (fun u => !(c.filled i x).done u) = true :=
      List.any_eq_true.2 ⟨x.1, by simpa [upFrom] using hx, by simp [hdone]⟩
    simp [Coll.expecting, hp, hc, hgather, hbroadcast, hany]
  have htapped : ((v.mirrorUnit (c.filled i x) x.1).setColl (c.filled i x)).tap p = (v.mirrorUnit (c.filled i x) x.1).setColl (c.filled i x) := by
    have hoff : ((v.mirrorUnit (c.filled i x) x.1).setColl (c.filled i x)).isTap = false := htap
    simp [Chip.tap, hoff]
  rw [v.collContribution_unit c p i off n x hi hcover hunits hcontent, v.collApply_new c i x hnew hgather hbroadcast, if_pos rfl]
  dsimp only
  rw [htapped, Chip.collWatch, if_pos hexpects]
  have hfind : ((v.mirrorUnit (c.filled i x) x.1).setColl (c.filled i x)).collKey? c.key = some (c.filled i x) :=
    Chip.collKey?_setColl _ c _ rfl hone
  exact congrArg (·, true) (Chip.collRun_root _ (c.filled i x) x.1 hfind hroot hx hdone)

/-! ### Aborts -/

/-- The tadpoles of an abort: to the parent, the contributors and the destinations of the result, and to the group (R219). -/
def Chip.abortTold (s : Chip) (c : Coll) (sender : Option Nat) (told : Nat) (parent : Bool) : Chip :=
  let p := c.p
  let uni := p.kind == 0 || (Nat.ble 5 p.kind && p.unicast)
  let ds := c.contrib ++ c.scatter ++ (if uni then [p.dst] else []) ++ (if !p.root && parent then [p.parent] else [])
  let s := (distinct ds).foldl (fun s d =>
    if some d == sender || d == s.selfEid then s else s.abortTadpole c.part p.collId d false false told) s
  if !uni && p.kind != 2 then s.abortTadpole c.part p.collId p.group true false told else s

/-- ABORT_SEEN set in cells (Table 6.17). -/
def Chip.abortSeen (s : Chip) (cells : List Nat) : Chip :=
  cells.foldl (fun s e => s.wrB (A.CEL_STATUS e) F.CEL_STATUS_ABORT_SEEN true) s

/-- The record of an abort (R219). -/
def Coll.abortRecord (c : Coll) (owing : Nat) : LogRec :=
  { status := .collectiveAbort, subsys := .computeCells, partition := some c.part, addrKind := 2, addr := c.planOff, tag := c.p.collId,
    detail := owing }

/-- An abort's stages: the tadpoles, ABORT_SEEN, the record, the end of the context and of its command (R219). -/
theorem Chip.abortColl_eq (s : Chip) (key : Nat) (c : Coll) (sender : Option Nat) (owing told : Nat) (parent : Bool)
    (h : s.collKey? key = some c) : s.abortColl key sender owing told parent
      = ((((s.abortTold c sender told parent).abortSeen c.cells).log (c.abortRecord owing)).dropColl c true).endPacket c.cmd
          .collectiveAbort 0 := by
  simp only [Chip.abortColl, h]
  rfl

theorem Chip.abortTadpole_core (s : Chip) (part id dst : Nat) (mcast request : Bool) (owing : Nat) :
    (s.abortTadpole part id dst mcast request owing).core = s.core := Chip.send_core _ _

theorem Chip.abortTold_core (s : Chip) (c : Coll) (sender : Option Nat) (told : Nat) (parent : Bool) :
    (s.abortTold c sender told parent).core = s.core := by
  have hfold : ∀ (l : List Nat) (t : Chip), (l.foldl (fun s d =>
      if some d == sender || d == s.selfEid then s else s.abortTadpole c.part c.p.collId d false false told) t).core = t.core :=
    Chip.foldl_core _ fun t d => by
      split
      · rfl
      · exact t.abortTadpole_core _ _ _ _ _ _
  unfold Chip.abortTold
  dsimp only
  split
  · exact (Chip.abortTadpole_core _ _ _ _ _ _ _).trans (hfold _ s)
  · exact hfold _ s

theorem Chip.abortSeen_frame (s : Chip) (cells : List Nat) : s.abortSeen cells = { s with regs := (s.abortSeen cells).regs } := by
  unfold Chip.abortSeen
  induction cells generalizing s with
  | nil => rfl
  | cons e l ih => exact ih (s.wrB (A.CEL_STATUS e) _ _)

theorem Chip.flag_abortSeen (s : Chip) (cells : List Nat) (x : Nat) (h : x ∈ cells ∨ s.flag (A.CEL_STATUS x) F.CEL_STATUS_ABORT_SEEN = true) :
    (s.abortSeen cells).flag (A.CEL_STATUS x) F.CEL_STATUS_ABORT_SEEN = true := by
  unfold Chip.abortSeen
  induction cells generalizing s with
  | nil => exact h.resolve_left (List.not_mem_nil)
  | cons e l ih =>
    refine ih _ ?_
    by_cases hx : e = x
    · exact .inr (hx ▸ Chip.flag_wrB_same _ _ _ _ (by decide))
    · refine h.imp (fun hmem => (List.mem_cons.1 hmem).resolve_left (Ne.symm hx)) fun hset => ?_
      rw [Chip.flag_wrB_apart _ _ _ _ _ _ (status_apart e x _ _ hx (by decide) (by decide))]
      exact hset

theorem Chip.flag_syncContexts (s : Chip) (cells : List Nat) (x : Nat) :
    (s.syncContexts cells).flag (A.CEL_STATUS x) F.CEL_STATUS_ABORT_SEEN = s.flag (A.CEL_STATUS x) F.CEL_STATUS_ABORT_SEEN := by
  unfold Chip.flag
  rw [Chip.rd_syncContexts_apart]
  intro e
  by_cases hx : e = x
  · exact hx ▸ apart_of_disjoint _ _ _ (by decide)
  · exact status_apart e x _ _ hx (by decide) (by decide)

theorem Chip.flag_of_regs {s t : Chip} (h : t.regs = s.regs) (b : Nat) (g : Fld) : t.flag b g = s.flag b g := by
  unfold Chip.flag Chip.rd
  rw [h]

theorem Chip.flag_dropColl (s : Chip) (c : Coll) (aborted : Bool) (x : Nat) :
    (s.dropColl c aborted).flag (A.CEL_STATUS x) F.CEL_STATUS_ABORT_SEEN = s.flag (A.CEL_STATUS x) F.CEL_STATUS_ABORT_SEEN := by
  have hregs : (s.dropColl c aborted).regs = (((s.modSeq (fun q => { q with colls := q.colls.filter (fun x => x.key != c.key) })).stopTimer
    (.collective c.key)).syncContexts c.cells).regs := rfl
  rw [Chip.flag_of_regs hregs, Chip.flag_syncContexts]
  exact Chip.flag_of_regs rfl _ _

theorem Chip.dropColl_seq (s : Chip) (c : Coll) (aborted : Bool) : (s.dropColl c aborted).seq = { s.seq with
    colls := s.seq.colls.filter (fun x => x.key != c.key)
    kept := (c.part, c.p.collId, aborted) :: s.seq.kept.filter (fun k => !(k.1 == c.part && k.2.1 == c.p.collId)) } := by
  unfold Chip.dropColl Chip.keepColl
  dsimp only
  rw [Chip.syncContexts_frame]
  rfl

theorem Chip.dropColl_stopped (s : Chip) (c : Coll) (aborted : Bool) : (s.dropColl c aborted).running (.collective c.key) = false := by
  unfold Chip.dropColl Chip.keepColl
  dsimp only
  rw [Chip.syncContexts_frame]
  simp [Chip.running, Chip.startTimer, Chip.stopTimer, Chip.modSeq]

/-- A command that ends is changed in its end alone. -/
theorem Chip.cmd?_endPacket (s : Chip) (id : Nat) (m : Cmd) (st : Status) (res : Nat) (h : s.cmd? id = some m) :
    (s.endPacket id st res).cmd? id = some { m with ending := some (st, res) } := by
  have hid : m.id = id := by simpa using List.find?_some h
  have hpred : ((fun x : Cmd => x.id == id) ∘ fun x => if x.id == m.id then { m with ending := some (st, res) } else x)
      = fun x => x.id == id := by
    funext x
    by_cases hx : x.id = id <;> simp [hx, hid]
  have hfind : s.seq.cmds.find? (fun x => x.id == id) = some m := h
  unfold Chip.endPacket
  rw [h]
  unfold Chip.cmd? Chip.setCmd Chip.modSeq
  simp only [List.find?_map, hpred, hfind]
  simp

theorem Chip.endPacket_frame (s : Chip) (id : Nat) (st : Status) (res : Nat) :
    ∃ cmds, s.endPacket id st res = { s with seq := { s.seq with cmds := cmds } } := by
  unfold Chip.endPacket
  split
  · exact ⟨s.seq.cmds, rfl⟩
  · exact ⟨_, rfl⟩

theorem Chip.endPacket_regs (s : Chip) (id : Nat) (st : Status) (res : Nat) : (s.endPacket id st res).regs = s.regs := by
  obtain ⟨cmds, hend⟩ := s.endPacket_frame id st res
  rw [hend]

theorem notErr_CEL_STATUS (x : Nat) (f : Fld) (hx : x < 64) (hf : f.lo + f.width ≤ 64) : notErr (A.CEL_STATUS x) f := by
  unfold notErr A.CEL_STATUS
  omega

/-- What an abort makes of the context, its cells, its memory, its watchdog and its command (R219). -/
theorem Chip.abortColl_aborted (s : Chip) (key : Nat) (c : Coll) (sender : Option Nat) (owing told : Nat) (parent : Bool)
    (h : s.collKey? key = some c) : let u := s.abortColl key sender owing told parent
    u.collKey? key = none ∧ (∀ x ∈ c.cells, x < 64 → u.flag (A.CEL_STATUS x) F.CEL_STATUS_ABORT_SEEN = true)
      ∧ (c.part, c.p.collId, true) ∈ u.seq.kept ∧ u.running (.collective key) = false
      ∧ ∀ m, s.cmd? c.cmd = some m → u.cmd? c.cmd = some { m with ending := some (.collectiveAbort, 0) } := by
  have hkey : c.key = key := by simpa using List.find?_some h
  rw [s.abortColl_eq key c sender owing told parent h]
  generalize hmarked : ((s.abortTold c sender told parent).abortSeen c.cells).log (c.abortRecord owing) = t
  have hseq : t.seq = s.seq := by
    rw [← hmarked, Chip.log_seq, Chip.abortSeen_frame]
    exact Chip.core_seq (s.abortTold_core c sender told parent)
  have hflags : ∀ x ∈ c.cells, x < 64 → t.flag (A.CEL_STATUS x) F.CEL_STATUS_ABORT_SEEN = true := fun x hx hlt => by
    rw [← hmarked, Chip.log_flag_other _ _ _ _ (notErr_CEL_STATUS x _ hlt (by decide))]
    exact Chip.flag_abortSeen _ _ _ (.inl hx)
  have hdropped := t.dropColl_seq c true
  obtain ⟨cmds, hend⟩ := (t.dropColl c true).endPacket_frame c.cmd .collectiveAbort 0
  refine ⟨?_, fun x hx hlt => ?_, ?_, ?_, fun m hm => Chip.cmd?_endPacket _ _ _ _ _ ?_⟩
  · rw [hend, Chip.collKey?, hdropped, ← hkey]
    exact List.find?_eq_none.2 fun x hx => by simpa using (List.mem_filter.1 hx).2
  · rw [Chip.flag_of_regs (Chip.endPacket_regs _ _ _ _), Chip.flag_dropColl]
    exact hflags x hx hlt
  · rw [hend, hdropped]
    exact List.mem_cons_self
  · rw [hend, ← hkey]
    exact t.dropColl_stopped c true
  · rw [Chip.cmd?, hdropped, hseq]
    exact hm

/-! ### Watchdogs, tadpoles and what is held too long -/

theorem exec_collectiveWatchdogExpiry (key : Nat) (s : State) :
    exec (.collectiveWatchdogExpiry key) s = .next (s.after (s.collExpired key)) := rfl
theorem exec_abortMemoryExpiry (part : Fin 64) (coll : Nat) (s : State) :
    exec (.abortMemoryExpiry part coll) s = .next (s.after (s.abortForgotten part.val coll)) := rfl
theorem exec_earlyArrivalExpiry (part : Fin 64) (coll : Nat) (s : State) :
    exec (.earlyArrivalExpiry part coll) s = .next (s.after (s.earlyExpired part.val coll)) := rfl

theorem exec_abortTadpole (p : Packet) (s : State) (h : s.accepts p) :
    exec (.abortTadpole p) s = .next (s.after (((s.taken p).abortIn p).flowApplied p)) := by
  rw [← s.consume_of_accepts p (fun s => s.abortIn p) h]
  rfl

/-- The root aborts when its watchdog expires, another asks upward (R217). -/
theorem Chip.collExpired_eq (s : Chip) (key : Nat) : (s.expire (.collective key) = none → s.collExpired key = s)
    ∧ ∀ u c, s.expire (.collective key) = some u → s.collKey? key = some c → s.collExpired key = if c.p.root
        then u.abortColl key none c.owing c.owing true
        else (u.abortTadpole c.part c.p.collId c.p.parent false true c.owing).collWatch c := by
  refine ⟨fun h => by simp [Chip.collExpired, h], fun u c hu hc => by simp [Chip.collExpired, hu, hc]⟩

theorem Chip.abortForgotten_eq (s : Chip) (part id : Nat) : (s.expire (.abortMemory part id) = none → s.abortForgotten part id = s)
    ∧ ∀ u, s.expire (.abortMemory part id) = some u → s.abortForgotten part id
        = { u with seq := { u.seq with kept := u.seq.kept.filter (fun k => !(k.1 == part && k.2.1 == id)) } } := by
  refine ⟨fun h => by simp [Chip.abortForgotten, h], fun u h => ?_⟩
  simp only [Chip.abortForgotten, h]
  rfl

/-- An ABORT tadpole whose reserved bits are zero and whose status is COLLECTIVE_ABORT (R219). -/
def Packet.aborts (p : Packet) : Prop :=
  bits p.body 17 7 = 0 ∧ bits p.body 46 338 = 0 ∧ (AbortBody.ofBody p.body).status = Status.collectiveAbort.code

theorem Chip.abortIn_malformed (v : Chip) (p : Packet) (h : ¬ p.aborts) : v.abortIn p = v := by
  unfold Chip.abortIn
  refine if_pos ?_
  unfold Packet.aborts at h
  simp only [Bool.or_eq_true, bne_iff_ne]
  tauto

theorem Chip.abortIn_wellFormed (v : Chip) (p : Packet) (h : p.aborts) : v.abortIn p =
    match v.coll? p.partition (AbortBody.ofBody p.body).collId with
    | none => if (AbortBody.ofBody p.body).request then v else v.keepColl p.partition (AbortBody.ofBody p.body).collId true
    | some c => if (AbortBody.ofBody p.body).request = true ∧ c.p.root = false then
          v.abortTadpole c.part (AbortBody.ofBody p.body).collId c.p.parent false true (AbortBody.ofBody p.body).owing
        else if (AbortBody.ofBody p.body).request = true ∧ c.committed = true then v
        else v.abortColl c.key (some p.src) 0 (AbortBody.ofBody p.body).owing true := by
  obtain ⟨hlow, hhigh, hstatus⟩ := h
  cases hcoll : v.coll? p.partition (AbortBody.ofBody p.body).collId with
  | none => cases hreq : (AbortBody.ofBody p.body).request <;> simp [Chip.abortIn, hlow, hhigh, hstatus, hreq, hcoll]
  | some c =>
    cases hreq : (AbortBody.ofBody p.body).request <;> cases hroot : c.p.root <;>
      simp [Chip.abortIn, hlow, hhigh, hstatus, hreq, hcoll, hroot]

theorem Chip.keepColl_kept (v : Chip) (part id : Nat) (aborted : Bool) : let u := v.keepColl part id aborted
    (part, id, aborted) ∈ u.seq.kept ∧ u.due (.abortMemory part id) = some (v.raw + v.collTimeout part)
      ∧ u = { v with seq := u.seq, timers := u.timers } := by
  unfold Chip.keepColl
  refine ⟨?_, ?_, rfl⟩
  · rw [Chip.startTimer_seq]
    exact List.mem_cons_self
  · rw [Chip.due_startTimer, Chip.modSeq_raw]

theorem Chip.earlyExpired_none (s : Chip) (part id : Nat) (h : ∀ e ∈ s.seq.early, ¬ (e.part = part ∧ e.collId = id)) :
    s.earlyExpired part id = s := by
  have hnone : s.seq.early.filter (fun e => e.part == part && e.collId == id) = [] :=
    List.filter_eq_nil_iff.2 fun e he => by simpa using h e he
  simp [Chip.earlyExpired, hnone]

/-- The only early arrival, discarded when its time is over (R211). -/
theorem Chip.earlyExpired_one (s : Chip) (part id : Nat) (e : Early) (h : s.seq.early = [e]) (hpart : e.part = part) (hid : e.collId = id) :
    s.earlyExpired part id
      = ((({ s.advanceTo e.due with seq := { s.seq with early := [] } }).copyDone e.slot localPort).collAnswer e.pkt .collectiveAbort) := by
  have hseq : (s.advanceTo e.due).seq = s.seq := Chip.advance_seq _ _
  have hdue : Nat.ble e.due (s.advanceTo e.due).raw = true := Nat.ble_eq.mpr (by rw [Chip.advanceTo, Chip.advance_raw]; omega)
  have hmine : s.seq.early.filter (fun e => e.part == part && e.collId == id) = [e] := by simp [h, hpart, hid]
  unfold Chip.earlyExpired
  rw [hmine]
  dsimp only
  generalize s.advanceTo e.due = t at hseq hdue ⊢
  have hgone : t.seq.early.filter (fun x => x.part == part && x.collId == id && Nat.ble x.due t.raw) = [e] := by
    rw [hseq, h, List.filter_singleton, hpart, hid, hdue]
    simp
  have hnil : [e].filter (fun x => !([e].contains x)) = [] := by simp
  rw [hgone, List.foldl_cons, List.foldl_nil, Chip.modSeq, hseq, h, hnil]

/-- What a contribution that leaves its unit incomplete at the root makes of it (R210). -/
theorem Chip.collFilled_stands (v : Chip) (c : Coll) (i n : Nat) (x : Nat × List Nat)
    (hone : v.seq.colls.filter (fun y => y.key == c.key) = [c]) :
    let u := ((v.mirrorUnit (c.filled i x) x.1).setColl (c.filled i x)).startTimer (.collective c.key) n
    u = { v with regs := u.regs, seq := u.seq, timers := u.timers }
      ∧ (u.collKey? c.key).map (fun y => y.unit x.1)
          = some { acc := c.p.merge (if (c.unit x.1).mask = 0 then none else some (c.unit x.1).acc) x.2
                   mask := (c.unit x.1).mask + 2 ^ i, sent := (c.unit x.1).sent }
      ∧ u.due (.collective c.key) = some (v.raw + n) := by
  obtain ⟨scr, hmirror⟩ := v.mirrorUnits_frame (c.filled i x) [x.1]
  rw [List.foldl_cons, List.foldl_nil] at hmirror
  rw [hmirror]
  generalize hw : ({ v with seq := { v.seq with scr := scr } } : Chip) = w
  have hraw : w.raw = v.raw := hw ▸ rfl
  have hone : w.seq.colls.filter (fun y => y.key == c.key) = [c] := hw ▸ hone
  have hfind : ((w.setColl (c.filled i x)).startTimer (.collective c.key) n).collKey? c.key = some (c.filled i x) :=
    Chip.collKey?_setColl w c _ rfl hone
  refine ⟨?_, ?_, ?_⟩
  · rw [← hw]
    rfl
  · rw [hfind, Option.map_some, Coll.unit_filled]
  · rw [Chip.due_startTimer, ← hraw]
    rfl

/-! ### The obligation -/

/-- The start of a collective command (R206, R219). -/
theorem Chip.runEngine_coll_opens (s : Chip) (m : Cmd) (r : PlanRec) (h : opIsColl (slotOp m.cur) = true) (hstage : m.stage = 0)
    (hcheck : s.planCheck m.part (prm m.cur 8 38) (slotOp m.cur) = .ok (some r)) :
    s.runEngine m = (s.setCmd m.served).openColl m.id m.part (prm m.cur 8 38) r := by
  obtain ⟨-, -, hopen⟩ := s.runCollective_eq m hstage
  rw [s.runEngine_coll m h (by omega), hopen r hcheck]

/-- Settles O52. The clauses follow the stages of the open, the branches of an arrival and the stages of an abort; a context whose units
are not all complete is left as it is by what runs after each of them. -/
theorem collectivesCloseOrAbort : Obligations.CollectivesCloseOrAbort := by
  unfold Obligations.CollectivesCloseOrAbort
  refine ⟨fun s m hcoll hstage => ?_, fun p s hearly => ⟨fun sl hsl => ?_, fun hnone haccepts => ⟨fun hadm => ?_, fun adm hadm => ?_⟩⟩,
    fun p s haccepts hsegs hcls hearly => ?_, fun s key snd owing told par => ⟨fun hnone => ?_, fun c hc => ?_⟩, fun key s => ?_,
    fun p s haccepts => ?_, fun part coll s => ?_⟩
  · obtain ⟨herror, hempty, -⟩ := s.runCollective_eq m hstage
    have hrun := s.runEngine_coll m hcoll (by omega)
    refine ⟨fun st hcheck => hrun.trans (herror st hcheck), fun hcheck => hrun.trans (hempty hcheck), fun r hcheck hheader =>
      ⟨fun hkept => ?_, fun hkept hsource hcontrib hgather hbroadcast hunits hkey hearly => ?_⟩⟩
    · refine ⟨_, (s.runEngine_coll_opens m r hcoll hstage hcheck).trans (Chip.openColl_kept _ _ _ _ r hkept), ?_⟩
      exact (s.setCmd m.served).collForgone_frame m.part _ _
    · rw [s.runEngine_coll_opens m r hcoll hstage hcheck]
      obtain ⟨hframe, hcolls, hdue, hused⟩ := (s.setCmd m.served).openColl_opened m.id m.part (prm m.cur 8 38) r
        ⟨hheader, hsource, hcontrib, hgather, hbroadcast, hunits⟩ hkept hkey hearly
      exact ⟨_, rfl, hframe, hcolls, hdue, hused⟩
  · exact ⟨_, by rw [exec_collPacket, s.collPacket_held p sl hearly hsl], rfl, rfl, rfl⟩
  · rw [exec_collPacket, s.collPacket_new p hearly hnone haccepts, s.earlyNew_refused p hadm]
  · have hpart := s.part_lt_of_cells _ (s.earlyHere_cells p hearly)
    exact ⟨_, by rw [exec_collPacket, s.collPacket_new p hearly hnone haccepts], s.earlyNew_admitted p adm hadm hpart⟩
  · have hconsumed := s.collPacket_consumed p hearly haccepts hsegs
    refine ⟨fun htook => ?_, fun hleft hfence => ?_, fun hzero hshadow hrole => ?_⟩
    · rw [exec_collPacket, hconsumed, if_pos htook]
    · rw [exec_collPacket, hconsumed, if_neg (by rw [hleft]; decide), if_neg (by rw [hfence]; simp)]
    · have hin := (s.taken p).collIn_coll p hcls hzero hshadow hrole
      refine ⟨fun hnone hkept n l hcells _ => ?_, fun c hc => ?_⟩
      · rw [hin, hnone]
        exact (s.taken p).collOrphan_busy p n l hrole hkept hcells
      · rw [hc] at hin
        refine ⟨fun hstray => hin.trans ((s.taken p).collContribution_stray c p hstray),
          fun i off n x hi hcover hunits hcontent hgather hbroadcast =>
            ⟨fun hdup => ?_, fun hnew hroot hcommitted htap hx hpartial hone => ?_⟩⟩
        · exact hin.trans (Chip.collContribution_duplicate _ c p i off n x hi hcover hunits hcontent hdup)
        · refine ⟨_, hin.trans (Chip.collContribution_fills _ c p i off n x hi hcover hunits hcontent hgather hbroadcast hnew hroot hcommitted
            htap hx hpartial hone), (s.taken p).collFilled_stands c i _ x hone⟩
  · simp only [Chip.abortColl, hnone]
  · exact s.abortColl_aborted key c snd owing told par hc
  · obtain ⟨hstopped, hexpired⟩ := s.collExpired_eq key
    refine ⟨fun h => by rw [exec_collectiveWatchdogExpiry, hstopped h], fun u c hu hc => ⟨fun hroot => ?_, fun hleaf => ?_⟩⟩
    · rw [exec_collectiveWatchdogExpiry, hexpired u c hu hc, if_pos hroot]
    · rw [exec_collectiveWatchdogExpiry, hexpired u c hu hc, if_neg (by rw [hleaf]; decide)]
  · rw [exec_abortTadpole p s haccepts]
    refine ⟨fun hbad => by rw [Chip.abortIn_malformed _ p hbad], fun hok hnone => ?_, fun hok c hc => ?_⟩
    · rw [Chip.abortIn_wellFormed _ p hok, hnone]
      refine ⟨fun hreq => by rw [if_pos hreq], fun hreq => ⟨_, by rw [if_neg (by rw [hreq]; decide)], ?_⟩⟩
      exact (s.taken p).keepColl_kept _ _ true
    · rw [Chip.abortIn_wellFormed _ p hok, hc]
      dsimp only
      refine ⟨fun hreq hleaf => by rw [if_pos (And.intro hreq hleaf)], fun h => ?_⟩
      have hasks : ¬ ((AbortBody.ofBody p.body).request = true ∧ c.p.root = false) := by
        rcases h with h | ⟨h, -⟩ <;> simp [h]
      have hlate : ¬ ((AbortBody.ofBody p.body).request = true ∧ c.committed = true) := by
        rcases h with h | ⟨-, h⟩ <;> simp [h]
      rw [if_neg hasks, if_neg hlate]
  · obtain ⟨hstopped, hexpired⟩ := s.abortForgotten_eq part.val coll
    refine ⟨fun h => by rw [exec_abortMemoryExpiry, hstopped h], fun u hu => by rw [exec_abortMemoryExpiry, hexpired u hu],
      fun h => by rw [exec_earlyArrivalExpiry, s.earlyExpired_none _ _ h], fun e h hpart hid => ?_⟩
    rw [exec_earlyArrivalExpiry, s.earlyExpired_one _ _ e h hpart hid]

end Sys2Proof.Machine
end

section
/-!
Command packets (spec/08_commands_and_scheduling.md, Tables 8.1 to 8.9). A packet spells its head, its opcode and its parameters; each
row of the decoder reads back what the packet was built from.
-/
open Sys2Proof Sys2Proof.Machine
namespace Sys2Proof.Machine

/-! ### What a packet spells -/

/-- A word spells a head, an opcode and parameters: every field of Tables 8.1 to 8.9 reads as it was built. -/
structure CmdHead.Spelled (h : CmdHead) (op : Nat) (l : List Par) (x : Nat) : Prop where
  op : slotOp x = op
  head : CmdHead.ofSlot h.from_ x = h
  par : ∀ p ∈ l, Machine.bits x p.lo p.width = p.val % 2 ^ p.width

theorem CmdHead.packet_spelled (h : CmdHead) (op : Nat) (l : List Par) (hop : op < 256) (hk : h.ok = true) (hl : Par.apart l) :
    h.Spelled op l (h.packet op l) where
  op := (h.slotOp_packet op l hl).trans (Nat.mod_eq_of_lt hop)
  head := h.ofSlot_packet op l hl hk
  par p hp := h.bits_packet op l p hp hl

/-- Whether places of parameters, each with its width, lie apart from each other and from the head. -/
def Par.layoutApart (l : List (Nat × Nat)) : Bool :=
  l.all (fun p => Nat.ble 64 p.1) && decide (l.Pairwise (fun p q => p.1 + p.2 ≤ q.1 ∨ q.1 + q.2 ≤ p.1))

/-- Whether parameters lie apart depends on their places alone, so that it is decided whatever their values. -/
theorem Par.apart_of_layout (l : List Par) (h : Par.layoutApart (l.map (fun p => (p.lo, p.width))) = true) : Par.apart l := by
  simp only [Par.layoutApart, Bool.and_eq_true, List.all_map, List.all_eq_true, decide_eq_true_eq, List.pairwise_map] at h
  exact ⟨fun p hp => Nat.le_of_ble_eq_true (h.1 p hp), h.2⟩

section Spelled
variable {h : CmdHead} {op : Nat} {l : List Par} {x : Nat} (hs : h.Spelled op l x)
include hs

theorem CmdHead.Spelled.bits (lo width v : Nat) (hp : ⟨lo, width, v⟩ ∈ l) (hv : v < 2 ^ width) : Machine.bits x lo width = v :=
  (hs.par _ hp).trans (Nat.mod_eq_of_lt hv)

theorem CmdHead.Spelled.prm (b width v : Nat) (hp : Machine.par b width v ∈ l) (hv : v < 2 ^ width) : Machine.prm x b width = v :=
  hs.bits _ _ _ hp hv

theorem CmdHead.Spelled.bitAt (i : Nat) (v : Bool) (hp : ⟨i, 1, b2n v⟩ ∈ l) : Machine.bitAt x i = v := by
  rw [bitAt_eq_bits, hs.par _ hp, b2n_mod, b2n_beq]

theorem CmdHead.Spelled.loc (b : Nat) (v : Locator) (hp : parLoc b v ∈ l) (hv : v.fits = true) : Locator.of (Machine.prm x b 128) = v :=
  (congrArg Locator.of (hs.par _ hp)).trans (v.of_code hv)

theorem CmdHead.Spelled.short (b : Nat) (v : Locator) (hp : parShort b v ∈ l) (hv : v.fitsShort = true) :
    Locator.ofShort (Machine.prm x b 64) = v :=
  (congrArg Locator.ofShort (hs.par _ hp)).trans (v.ofShort_code hv)

theorem CmdHead.Spelled.cref (b : Nat) (v : CounterRef) (hp : parCref b v ∈ l) : CounterRef.ofSlot x b = v :=
  CounterRef.ofSlot_code x b v (hs.par _ hp)

theorem CmdHead.Spelled.fin (b width n : Nat) [NeZero n] (v : Fin n) (hp : Machine.par b width v.val ∈ l) (hn : n ≤ 2 ^ width) :
    Fin.ofNat n (Machine.prm x b width) = v := by
  rw [hs.prm b width v.val hp (v.isLt.trans_le hn), Fin.ofNat_val_eq_self]

end Spelled

/-! ### The argument records of Tables 8.6 and 8.7 -/

theorem RowArgs.ofSlot_spelled {h : CmdHead} {op x : Nat} {p : Par} {a : RowArgs} (hs : h.Spelled op (p :: a.pars) x) (ha : a.ok = true) :
    RowArgs.ofSlot x = a := by
  simp only [RowArgs.ok, Bool.and_eq_true, Nat.blt_eq] at ha
  obtain ⟨⟨⟨⟨⟨hlist, hspace⟩, hcount⟩, hbytes⟩, hbase⟩, hstride⟩ := ha
  simp only [RowArgs.ofSlot, hs.prm 24 38 a.list (by simp [RowArgs.pars]) hlist, hs.bitAt 230 a.scrList (by simp [RowArgs.pars]),
    hs.bitAt 231 a.indexed (by simp [RowArgs.pars]), hs.bits 232 2 a.rowSpace (by simp [RowArgs.pars]) hspace,
    hs.prm 32 32 a.count (by simp [RowArgs.pars]) hcount, hs.prm 36 32 a.rowBytes (by simp [RowArgs.pars]) hbytes,
    hs.prm 40 64 a.base (by simp [RowArgs.pars]) hbase, hs.prm 48 64 a.stride (by simp [RowArgs.pars]) hstride]

theorem ScanArgs.ofSlot_spelled {h : CmdHead} {op x : Nat} {a : ScanArgs} (hs : h.Spelled op a.pars x) (ha : a.ok = true) :
    ScanArgs.ofSlot x = a := by
  simp only [ScanArgs.ok, Bool.and_eq_true, Nat.blt_eq] at ha
  obtain ⟨⟨⟨⟨⟨⟨⟨⟨⟨⟨⟨hrecords, hcount⟩, hbytes⟩, hkey⟩, hfmt⟩, hcombine⟩, hop1⟩, hop2⟩, hpred⟩, houtput⟩, hlen⟩, hbase⟩ := ha
  simp only [ScanArgs.ofSlot, hs.short 8 a.records (by simp [ScanArgs.pars]) hrecords, hs.prm 16 32 a.count (by simp [ScanArgs.pars]) hcount,
    hs.prm 20 16 a.recordBytes (by simp [ScanArgs.pars]) hbytes, hs.prm 22 16 a.keyOffset (by simp [ScanArgs.pars]) hkey,
    hs.bits 192 4 a.keyFmt (by simp [ScanArgs.pars]) hfmt, hs.bits 196 2 a.combine (by simp [ScanArgs.pars]) hcombine,
    hs.bitAt 198 a.wholeRecords (by simp [ScanArgs.pars]), hs.bits 200 4 a.op1 (by simp [ScanArgs.pars]) hop1,
    hs.bits 204 4 a.op2 (by simp [ScanArgs.pars]) hop2, hs.prm 32 38 a.pred (by simp [ScanArgs.pars]) hpred,
    hs.short 40 a.output (by simp [ScanArgs.pars]) houtput, hs.prm 48 64 a.outLen (by simp [ScanArgs.pars]) hlen,
    hs.prm 56 32 a.baseIndex (by simp [ScanArgs.pars]) hbase]

theorem EncodeArgs.ofSlot_spelled {h : CmdHead} {op x : Nat} {a : EncodeArgs} (hs : h.Spelled op a.pars x) (ha : a.ok = true) :
    EncodeArgs.ofSlot x = a := by
  simp only [EncodeArgs.ok, Bool.and_eq_true, Nat.blt_eq] at ha
  obtain ⟨⟨⟨⟨⟨⟨⟨⟨⟨hslot, hrate⟩, hgen⟩, hfmt⟩, hsrc⟩, hcount⟩, hclip⟩, htol⟩, hdst⟩, hlen⟩ := ha
  simp only [EncodeArgs.ofSlot, hs.prm 8 8 a.slot (by simp [EncodeArgs.pars]) hslot, hs.prm 9 8 a.rate (by simp [EncodeArgs.pars]) hrate,
    hs.prm 10 16 a.gen (by simp [EncodeArgs.pars]) hgen, hs.prm 12 8 a.srcFmt (by simp [EncodeArgs.pars]) hfmt,
    hs.short 16 a.src (by simp [EncodeArgs.pars]) hsrc, hs.prm 24 64 a.count (by simp [EncodeArgs.pars]) hcount,
    hs.prm 32 32 a.clip (by simp [EncodeArgs.pars]) hclip, hs.prm 36 32 a.tol (by simp [EncodeArgs.pars]) htol,
    hs.short 40 a.dst (by simp [EncodeArgs.pars]) hdst, hs.prm 48 64 a.dstLen (by simp [EncodeArgs.pars]) hlen]

theorem BuildArgs.ofSlot_spelled {h : CmdHead} {op x : Nat} {a : BuildArgs} (hs : h.Spelled op a.pars x) (ha : a.ok = true) :
    BuildArgs.ofSlot x = a := by
  simp only [BuildArgs.ok, Bool.and_eq_true, Nat.blt_eq] at ha
  obtain ⟨⟨⟨⟨⟨⟨⟨hslot, hrate⟩, hmode⟩, hiter⟩, hfmt⟩, hsrc⟩, hcount⟩, hclip⟩ := ha
  simp only [BuildArgs.ofSlot, hs.prm 8 8 a.slot (by simp [BuildArgs.pars]) hslot, hs.prm 9 8 a.rate (by simp [BuildArgs.pars]) hrate,
    hs.prm 10 8 a.mode (by simp [BuildArgs.pars]) hmode, hs.prm 11 8 a.iter (by simp [BuildArgs.pars]) hiter,
    hs.prm 12 8 a.srcFmt (by simp [BuildArgs.pars]) hfmt, hs.short 16 a.src (by simp [BuildArgs.pars]) hsrc,
    hs.prm 24 64 a.count (by simp [BuildArgs.pars]) hcount, hs.prm 32 32 a.clip (by simp [BuildArgs.pars]) hclip]

/-! ### The round trip -/

/-- What every word that spells a command decodes to, the command's packet decodes to. -/
theorem CmdHead.decode_packet (h : CmdHead) (op : Nat) (l : List Par) (c : Instr) (hop : op < 256) (hk : h.ok = true)
    (hl : Par.layoutApart (l.map (fun p => (p.lo, p.width))) = true) (hc : ∀ x, h.Spelled op l x → decodeSlot h.from_ x = some c) :
    decodeSlot h.from_ (h.packet op l) = some c :=
  hc _ (h.packet_spelled op l hop hk (Par.apart_of_layout l hl))

/-- Settles O43: the parameters of each row lie apart, so that every field reads what it was built from. -/
theorem commandPacketRoundTrip : Obligations.CommandPacketRoundTrip := by
  unfold Obligations.CommandPacketRoundTrip
  intro c h w hwf hslot
  cases c with
  | nop k | barrier k | epochInstall k =>
    cases hslot
    refine h.decode_packet _ _ _ (by decide) hwf rfl fun x hs => ?_
    simp only [decodeSlot, hs.op, hs.head]
    rfl
  | reduce k plan | allreduce k plan | reduceScatter k plan | allgather k plan | broadcast k plan | smaxMerge k plan | topk k plan
  | sample k plan | attend k plan | project k plan =>
    cases hslot
    simp only [Instr.wellFormed, Bool.and_eq_true, Nat.blt_eq] at hwf
    obtain ⟨hk, hplan⟩ := hwf
    refine h.decode_packet _ _ _ (by decide) hk rfl fun x hs => ?_
    simp only [decodeSlot, hs.op, hs.head, hs.prm 8 38 plan (by simp) hplan]
    rfl
  | partitionCreate k part | partitionSeal k part | partitionDrain k part | partitionScrub k part | partitionRelease k part =>
    cases hslot
    refine h.decode_packet _ _ _ (by decide) hwf rfl fun x hs => ?_
    simp only [decodeSlot, hs.op, hs.head, hs.fin 8 6 64 part (by simp) (by decide)]
    rfl
  | trayFormat k tray | trayDetach k tray =>
    cases hslot
    refine h.decode_packet _ _ _ (by decide) hwf rfl fun x hs => ?_
    simp only [decodeSlot, hs.op, hs.head, hs.fin 8 5 32 tray (by simp) (by decide)]
    rfl
  | filterScan k a =>
    cases hslot
    simp only [Instr.wellFormed, Bool.and_eq_true] at hwf
    obtain ⟨hk, ha⟩ := hwf
    refine h.decode_packet _ _ _ (by decide) hk rfl fun x hs => ?_
    simp only [decodeSlot, hs.op, hs.head, ScanArgs.ofSlot_spelled hs ha]
    rfl
  | gather k loc a | scatter k loc a =>
    cases hslot
    simp only [Instr.wellFormed, Bool.and_eq_true] at hwf
    obtain ⟨⟨hk, hloc⟩, ha⟩ := hwf
    refine h.decode_packet _ _ _ (by decide) hk rfl fun x hs => ?_
    simp only [decodeSlot, hs.op, hs.head, hs.loc 8 loc (by simp) hloc, RowArgs.ofSlot_spelled hs ha]
    rfl
  | cancel k queue tag =>
    cases hslot
    simp only [Instr.wellFormed, Bool.and_eq_true, Nat.blt_eq] at hwf
    obtain ⟨⟨hk, hqueue⟩, htag⟩ := hwf
    refine h.decode_packet _ _ _ (by decide) hk rfl fun x hs => ?_
    simp only [decodeSlot, hs.op, hs.head, hs.prm 8 10 queue (by simp) hqueue, hs.prm 12 32 tag (by simp) htag]
    rfl
  | jobSuspend k job | jobResume k job =>
    cases hslot
    simp only [Instr.wellFormed, Bool.and_eq_true, Nat.blt_eq] at hwf
    obtain ⟨hk, hjob⟩ := hwf
    refine h.decode_packet _ _ _ (by decide) hk rfl fun x hs => ?_
    simp only [decodeSlot, hs.op, hs.head, hs.prm 8 16 job (by simp) hjob]
    rfl
  | copy k src dst len =>
    cases hslot
    simp only [Instr.wellFormed, Bool.and_eq_true, Nat.blt_eq] at hwf
    obtain ⟨⟨⟨hk, hsrc⟩, hdst⟩, hlen⟩ := hwf
    refine h.decode_packet _ _ _ (by decide) hk rfl fun x hs => ?_
    simp only [decodeSlot, hs.op, hs.head, hs.loc 8 src (by simp) hsrc, hs.loc 24 dst (by simp) hdst, hs.prm 40 64 len (by simp) hlen]
    rfl
  | fill k dst len pattern =>
    cases hslot
    simp only [Instr.wellFormed, Bool.and_eq_true, Nat.blt_eq] at hwf
    obtain ⟨⟨⟨hk, hdst⟩, hlen⟩, hpattern⟩ := hwf
    refine h.decode_packet _ _ _ (by decide) hk rfl fun x hs => ?_
    simp only [decodeSlot, hs.op, hs.head, hs.loc 8 dst (by simp) hdst, hs.prm 24 64 len (by simp) hlen,
      hs.prm 32 64 pattern (by simp) hpattern]
    rfl
  | flushRange k addr len | prefetch k addr len =>
    cases hslot
    simp only [Instr.wellFormed, Bool.and_eq_true, Nat.blt_eq] at hwf
    obtain ⟨⟨hk, haddr⟩, hlen⟩ := hwf
    refine h.decode_packet _ _ _ (by decide) hk rfl fun x hs => ?_
    simp only [decodeSlot, hs.op, hs.head, hs.prm 8 56 addr (by simp) haddr, hs.prm 16 64 len (by simp) hlen]
    rfl
  | tierHint k addr len mode =>
    cases hslot
    simp only [Instr.wellFormed, Bool.and_eq_true, Nat.blt_eq] at hwf
    obtain ⟨⟨⟨hk, haddr⟩, hlen⟩, hmode⟩ := hwf
    refine h.decode_packet _ _ _ (by decide) hk rfl fun x hs => ?_
    simp only [decodeSlot, hs.op, hs.head, hs.prm 8 56 addr (by simp) haddr, hs.prm 16 64 len (by simp) hlen,
      hs.prm 24 8 mode (by simp) (by omega)]
    rfl
  | counterSet k c mode value job =>
    cases hslot
    simp only [Instr.wellFormed, Bool.and_eq_true, Nat.blt_eq] at hwf
    obtain ⟨⟨⟨hk, hmode⟩, hvalue⟩, hjob⟩ := hwf
    refine h.decode_packet _ _ _ (by decide) hk rfl fun x hs => ?_
    simp only [decodeSlot, hs.op, hs.head, hs.cref 8 c (by simp), hs.prm 12 1 mode (by simp) hmode, hs.prm 16 48 value (by simp) hvalue,
      hs.prm 22 16 job (by simp) hjob]
    rfl
  | counterAdd k c scope operand =>
    cases hslot
    simp only [Instr.wellFormed, Bool.and_eq_true, Nat.blt_eq, Nat.ble_eq] at hwf
    obtain ⟨⟨⟨hk, -⟩, hscope⟩, hoperand⟩ := hwf
    refine h.decode_packet _ _ _ (by decide) hk rfl fun x hs => ?_
    simp only [decodeSlot, hs.op, hs.head, hs.cref 8 c (by simp), hs.prm 12 8 scope (by simp) (by omega),
      hs.prm 16 48 operand (by simp) hoperand]
    rfl
  | wait k c scope target deadline =>
    cases hslot
    simp only [Instr.wellFormed, Bool.and_eq_true, Nat.blt_eq, Nat.ble_eq] at hwf
    obtain ⟨⟨⟨⟨hk, -⟩, hscope⟩, htarget⟩, hdeadline⟩ := hwf
    refine h.decode_packet _ _ _ (by decide) hk rfl fun x hs => ?_
    simp only [decodeSlot, hs.op, hs.head, hs.cref 8 c (by simp), hs.prm 12 8 scope (by simp) (by omega),
      hs.prm 14 48 target (by simp) htarget, hs.prm 20 32 deadline (by simp) hdeadline]
    rfl
  | waitCopy k c scope target deadline src dst len =>
    cases hslot
    simp only [Instr.wellFormed, Bool.and_eq_true, Nat.blt_eq, Nat.ble_eq] at hwf
    obtain ⟨⟨⟨⟨⟨⟨⟨hk, -⟩, hscope⟩, htarget⟩, hdeadline⟩, hsrc⟩, hdst⟩, hlen⟩ := hwf
    refine h.decode_packet _ _ _ (by decide) hk rfl fun x hs => ?_
    simp only [decodeSlot, hs.op, hs.head, hs.cref 8 c (by simp), hs.prm 12 8 scope (by simp) (by omega),
      hs.prm 14 48 target (by simp) htarget, hs.prm 20 32 deadline (by simp) hdeadline, hs.loc 24 src (by simp) hsrc,
      hs.loc 40 dst (by simp) hdst, hs.prm 56 64 len (by simp) hlen]
    rfl
  | kernelLaunch k chain packets engine anyCell compat core clocked =>
    cases hslot
    simp only [Instr.wellFormed, Bool.and_eq_true, Nat.blt_eq] at hwf
    obtain ⟨⟨⟨⟨⟨hk, hchain⟩, hpackets⟩, hengine⟩, hcore⟩, hclocked⟩ := hwf
    refine h.decode_packet _ _ _ (by decide) hk rfl fun x hs => ?_
    simp only [decodeSlot, hs.op, hs.head, hs.prm 8 38 chain (by simp) hchain, hs.prm 16 16 packets (by simp) hpackets,
      hs.prm 18 8 engine (by simp) (by omega), hs.bitAt 152 anyCell (by simp), hs.bitAt 153 compat (by simp),
      hs.prm 20 32 core (by simp) hcore, hs.prm 24 32 clocked (by simp) hclocked]
    rfl
  | encode k a =>
    cases hslot
    simp only [Instr.wellFormed, Bool.and_eq_true] at hwf
    obtain ⟨hk, ha⟩ := hwf
    refine h.decode_packet _ _ _ (by decide) hk rfl fun x hs => ?_
    simp only [decodeSlot, hs.op, hs.head, EncodeArgs.ofSlot_spelled hs ha]
    rfl
  | codebookBuild k a =>
    cases hslot
    simp only [Instr.wellFormed, Bool.and_eq_true] at hwf
    obtain ⟨hk, ha⟩ := hwf
    refine h.decode_packet _ _ _ (by decide) hk rfl fun x hs => ?_
    simp only [decodeSlot, hs.op, hs.head, BuildArgs.ofSlot_spelled hs ha]
    rfl
  | codebookRetire k slot =>
    cases hslot
    simp only [Instr.wellFormed, Bool.and_eq_true, Nat.blt_eq] at hwf
    obtain ⟨hk, hcode⟩ := hwf
    refine h.decode_packet _ _ _ (by decide) hk rfl fun x hs => ?_
    simp only [decodeSlot, hs.op, hs.head, hs.prm 8 8 slot (by simp) hcode]
    rfl
  | versionOpen k addr mode =>
    cases hslot
    simp only [Instr.wellFormed, Bool.and_eq_true, Nat.blt_eq] at hwf
    obtain ⟨⟨hk, haddr⟩, hmode⟩ := hwf
    refine h.decode_packet _ _ _ (by decide) hk rfl fun x hs => ?_
    simp only [decodeSlot, hs.op, hs.head, hs.prm 8 56 addr (by simp) haddr, hs.prm 16 8 mode (by simp) (by omega)]
    rfl
  | versionClose k addr other =>
    cases hslot
    simp only [Instr.wellFormed, Bool.and_eq_true, Nat.blt_eq] at hwf
    obtain ⟨hk, haddr⟩ := hwf
    refine h.decode_packet _ _ _ (by decide) hk rfl fun x hs => ?_
    have hother : (if bitAt x 143 then some (Fin.ofNat 16384 (prm x 16 14)) else none) = other := by
      rw [hs.bitAt 143 other.isSome (by simp)]
      cases other with
      | none => rfl
      | some e => exact congrArg some (hs.fin 16 14 16384 e (by simp) (by decide))
    simp only [decodeSlot, hs.op, hs.head, hs.prm 8 56 addr (by simp) haddr, hother]
    rfl
  | versionPublish k addr expected new | ownClaim k addr expected new | ownRelease k addr expected new =>
    cases hslot
    simp only [Instr.wellFormed, Bool.and_eq_true, Nat.blt_eq] at hwf
    obtain ⟨⟨⟨hk, haddr⟩, hexpected⟩, hnew⟩ := hwf
    refine h.decode_packet _ _ _ (by decide) hk rfl fun x hs => ?_
    simp only [decodeSlot, hs.op, hs.head, hs.prm 8 56 addr (by simp) haddr, hs.prm 16 32 expected (by simp) hexpected,
      hs.prm 20 32 new (by simp) hnew]
    rfl
  | lostAck k addr len all =>
    cases hslot
    simp only [Instr.wellFormed, Bool.and_eq_true, Nat.blt_eq] at hwf
    obtain ⟨⟨hk, haddr⟩, hlen⟩ := hwf
    refine h.decode_packet _ _ _ (by decide) hk rfl fun x hs => ?_
    simp only [decodeSlot, hs.op, hs.head, hs.prm 8 56 addr (by simp) haddr, hs.prm 16 64 len (by simp) hlen,
      hs.bitAt 192 all (by simp [par])]
    rfl
  | partitionReserve k part kind first count ret =>
    cases hslot
    simp only [Instr.wellFormed, Bool.and_eq_true, Nat.blt_eq] at hwf
    obtain ⟨⟨⟨hk, hkind⟩, hfirst⟩, hcount⟩ := hwf
    refine h.decode_packet _ _ _ (by decide) hk rfl fun x hs => ?_
    simp only [decodeSlot, hs.op, hs.head, hs.fin 8 6 64 part (by simp) (by decide), hs.prm 9 8 kind (by simp) (by omega),
      hs.prm 10 16 first (by simp) hfirst, hs.prm 12 16 count (by simp) hcount, hs.bitAt 112 ret (by simp [par])]
    rfl
  | keyRotate k part kind port =>
    cases hslot
    simp only [Instr.wellFormed, Bool.and_eq_true, Nat.blt_eq] at hwf
    obtain ⟨⟨hk, hkind⟩, hport⟩ := hwf
    refine h.decode_packet _ _ _ (by decide) hk rfl fun x hs => ?_
    simp only [decodeSlot, hs.op, hs.head, hs.fin 8 6 64 part (by simp) (by decide), hs.prm 9 8 kind (by simp) (by omega),
      hs.prm 10 16 port (by simp) (by omega)]
    rfl
  | _ => cases hslot

end Sys2Proof.Machine
end

section
/-!
Command packets enter their queues (spec/08_commands_and_scheduling.md R271, R274, R276, spec/13_partitions_and_security.md R427).
-/
open Sys2Proof Sys2Proof.Machine
namespace Sys2Proof.Machine

/-- Every command packet is brought to the sequencer by the one operation on slots. -/
theorem exec_slot (c : Instr) (h : CmdHead) (w : Nat) (s : State) (hslot : c.slot = some (h, w)) :
    exec c s = .next (s.run (fun u => u.issueSlot h w)) := by
  cases c <;> simp only [Instr.slot, Option.some.injEq, Prod.mk.injEq, reduceCtorEq] at hslot <;> (obtain ⟨rfl, rfl⟩ := hslot; rfl)

theorem Chip.asleep_of_awake (s : Chip) (h : s.powerState = 0) : s.asleep = false := by simp [Chip.asleep, h]

/-- A source that may bring a packet submits it on its lane. -/
theorem Chip.issueSlot_of_takesSlot (s : Chip) (h : CmdHead) (w : Nat) (htakes : s.takesSlot h w) :
    s.issueSlot h w = (s.submit h.lane (h.queue.val / 16) h.origin w).conclude := by
  obtain ⟨hpower, hsource⟩ := htakes
  have hawake := s.asleep_of_awake hpower
  unfold Chip.issueSlot CmdHead.lane CmdHead.origin
  cases hfrom : h.from_ with
  | ring =>
    simp only [hfrom] at hsource
    obtain ⟨hidle, henabled, hring⟩ := hsource
    simp [hidle, henabled, hring, hawake]
  | fabric e =>
    simp only [hfrom] at hsource
    obtain ⟨hop, hqueue, hpart, hfabric, henabled, hserving, hroom⟩ := hsource
    simp [Chip.cmdSlot, hop, hqueue, hpart, hfabric, henabled, hserving, hawake, Nat.not_le.2 hroom]
  | newt =>
    simp only [hfrom] at hsource
    simp [hsource, hawake]

theorem Chip.submit_entered (s : Chip) (h : CmdHead) (w : Nat) (hfree : s.scrubbing (h.queue.val / 16) = false) :
    s.submit h.lane (h.queue.val / 16) h.origin w = s.entered h w := by
  simp only [Chip.submit, hfree, Bool.false_eq_true, if_false]
  rfl

/-- QUIET holds back the reply of a status OK alone (Table 8.1). -/
theorem Chip.replyTo_of_failed (s : Chip) (m : Cmd) (x : Nat) (st : Status) (res : Nat) (h : st ≠ .ok) :
    s.replyTo m x st res
      = s.reply m.origin m.part { tag := slotTag x, status := st.code, queue := m.queue, result := res, notify := slotNotify x } := by
  simp [Chip.replyTo, h]

theorem Chip.submit_scrubbing (s : Chip) (h : CmdHead) (w : Nat) (hscrub : s.scrubbing (h.queue.val / 16) = true) :
    s.submit h.lane (h.queue.val / 16) h.origin w
      = (s.logCmd (s.cmdOf h w) .partitionScrubbing 0 0 0).reply h.origin (h.queue.val / 16)
          { tag := slotTag w, status := Status.partitionScrubbing.code, queue := h.lane, result := 0, notify := slotNotify w } := by
  rw [Chip.submit, if_pos hscrub]
  exact Chip.replyTo_of_failed _ _ _ _ _ (by decide)

/-- Settles O42: the source's conditions bring the packet to the submission on its lane, which a scrub of the partition refuses. -/
theorem commandPacketsEnterTheirQueue : Obligations.CommandPacketsEnterTheirQueue := by
  unfold Obligations.CommandPacketsEnterTheirQueue
  intro c h w s hslot htakes
  have hexec : exec c s = .next (s.after (s.submit h.lane (h.queue.val / 16) h.origin w)) := by
    rw [exec_slot c h w s hslot, State.run, s.issueSlot_of_takesSlot h w htakes, State.after]
  exact ⟨fun hfree => by rw [hexec, s.submit_entered h w hfree], fun hscrub => by rw [hexec, s.submit_scrubbing h w hscrub]⟩

end Sys2Proof.Machine
end

section
/-!
Queues take their slots (spec/08_commands_and_scheduling.md R273 to R277): doorbells, the fetch of slots and their arrival, fabric slots.
-/
open Sys2Proof Sys2Proof.Machine
namespace Sys2Proof.Machine

/-! ### The run-time of a queue -/

@[simp] theorem Chip.queue_modQueue (s : Chip) (q : Nat) (f : Queue → Queue) : (s.modQueue q f).queue q = f (s.queue q) := by
  simp [Chip.queue, Chip.modQueue, Tab.find_put_same]

/-! ### Doorbells -/

theorem exec_sqTail (src : Source) (q : Fin 1024) (bytes v : Nat) (s : State) :
    exec (.sqTail src q bytes v) s = .next (s.after (s.doorbell src (0x1000 * q.val) bytes v)) := rfl
theorem exec_cqHead (src : Source) (q : Fin 1024) (bytes v : Nat) (s : State) :
    exec (.cqHead src q bytes v) s = .next (s.after (s.doorbell src (0x1000 * q.val + 8) bytes v)) := rfl

/-- A doorbell of 4 bytes is served: the part is ready, the page is the source's, and its partition is not free. -/
structure Chip.Rings (s : Chip) (src : Source) (q : Fin 1024) : Prop where
  page : src.hasPage q.val = true
  ready : s.ready = true
  owned : ∀ p, src.part = some p → s.pstate p ≠ psFREE

theorem Chip.Rings.not_free {s : Chip} {src : Source} {q : Fin 1024} (h : s.Rings src q) :
    src.part.elim false (fun p => s.pstate p == psFREE) = false := by
  cases hpart : src.part with
  | none => rfl
  | some p => simpa using h.owned p hpart

theorem Chip.doorbell_sqTail (s : Chip) (src : Source) (q : Fin 1024) (v : Nat) (h : s.Rings src q) :
    s.doorbell src (0x1000 * q.val) 4 v = (s.sqTail src q.val (v % 2 ^ 32)).doorbellWakes := by
  have hpage : 0x1000 * q.val / 0x1000 = q.val := by omega
  have hreg : 0x1000 * q.val % 0x1000 = 0 := by omega
  have hbar : ¬ 0x400000 ≤ 0x1000 * q.val := by omega
  simp [Chip.doorbell, hpage, hreg, hbar, h.page, h.ready, h.not_free]

theorem Chip.doorbell_cqHead (s : Chip) (src : Source) (q : Fin 1024) (v : Nat) (h : s.Rings src q) :
    s.doorbell src (0x1000 * q.val + 8) 4 v = (s.cqHead src q.val (v % 2 ^ 32)).doorbellWakes := by
  have hpage : (0x1000 * q.val + 8) / 0x1000 = q.val := by omega
  have hreg : (0x1000 * q.val + 8) % 0x1000 = 8 := by omega
  have hbar : ¬ 0x400000 ≤ 0x1000 * q.val + 8 := by omega
  simp [Chip.doorbell, hpage, hreg, hbar, h.page, h.ready, h.not_free]

/-- Bits [31:16] of an index are ignored (R12). -/
theorem index_mod (v : Nat) : v % 2 ^ 32 % 65536 = v % 65536 := by omega

theorem Chip.doorbellWakes_of_awake (s : Chip) (h : s.powerState = 0) : s.doorbellWakes = s := by
  simp [Chip.doorbellWakes, Chip.wakeReq, h]

theorem Chip.doorbellWakes_of_disabled (s : Chip) (h : s.flag A.PCE_PWR_CTL F.PCE_PWR_CTL_WAKE_DOORBELL = false) : s.doorbellWakes = s := by
  simp [Chip.doorbellWakes, h]

/-- A refused doorbell leaves the power state as it is. -/
theorem Chip.powerState_doorbellDenied (s : Chip) (q off : Nat) (st : Status) : (s.doorbellDenied q off st).powerState = s.powerState := by
  unfold Chip.powerState Chip.doorbellDenied
  rw [Chip.log_rd_other _ _ _ _ (by decide)]
  exact s.rd_wr_apart _ _ _ _ _ (by decide)

theorem Chip.powerState_doorbellHalts (s : Chip) (q off : Nat) : (s.doorbellHalts q off).powerState = s.powerState := by
  refine (Chip.rd_wrB_apart _ _ _ _ _ _ ?_).trans (s.powerState_doorbellDenied q off .formatInvalid)
  unfold apart A.SEQ_Q_STATE A.PCE_PWR_STATUS F.SEQ_Q_STATE_HALTED F.PCE_PWR_STATUS_STATE
  simp only
  omega

theorem Chip.sqTail_denied (s : Chip) (src : Source) (q v : Nat) (hpage : src.hasPage q = true)
    (h : s.qFunction q ≠ some src ∨ s.qEnabled q = false) : s.sqTail src q v = s.doorbellDenied q 0 .accessDenied := by
  have h' : (s.qFunction q != some src || !s.qEnabled q) = true := by simpa using h
  simp only [Chip.sqTail, hpage, h', Bool.not_true, Bool.false_eq_true, if_false, if_true]

theorem Chip.cqHead_denied (s : Chip) (src : Source) (q v : Nat) (hpage : src.hasPage q = true)
    (h : s.qFunction q ≠ some src ∨ s.qEnabled q = false) : s.cqHead src q v = s.doorbellDenied q 8 .accessDenied := by
  have h' : (s.qFunction q != some src || !s.qEnabled q) = true := by simpa using h
  simp only [Chip.cqHead, hpage, h', Bool.not_true, Bool.false_eq_true, if_false, if_true]

section Served
variable (s : Chip) (src : Source) (q v : Nat) (hpage : src.hasPage q = true) (hsource : s.qFunction q = some src) (henabled : s.qEnabled q = true)
include hpage hsource henabled

/-- SQ_TAIL from the queue's source, the queue enabled and not halted (R274, R277). -/
theorem Chip.sqTail_served (hrunning : s.qFlag q F.SEQ_Q_STATE_HALTED = false) :
    s.sqTail src q v = if s.sqEntries q ≤ v % 65536 then s.doorbellHalts q 0
      else if s.asleep then s.modQueue q (fun x => { x with latched := some (v % 65536) })
      else (s.modQueue q (fun x => { x with tail := v % 65536 })).fetchMore q := by
  simp [Chip.sqTail, hpage, hsource, henabled, hrunning]

theorem Chip.cqHead_beyond (hbeyond : s.cqEntries q ≤ v % 65536) : s.cqHead src q v = s.doorbellHalts q 8 := by
  simp [Chip.cqHead, hpage, hsource, henabled, hbeyond]

/-- CQ_HEAD within what the ring holds, in a ring that is not full: the slots up to it are free (R275). -/
theorem Chip.cqHead_frees (k : Nat) (hin : v % 65536 < s.cqEntries q)
    (hk : k = (v % 65536 + s.cqEntries q - (s.queue q).cqHead % s.cqEntries q) % s.cqEntries q)
    (hroom : (s.queue q).cqTail - (s.queue q).cqHead < s.cqEntries q) (hused : k ≤ (s.queue q).cqTail - (s.queue q).cqHead) :
    s.cqHead src q v = ((s.modQueue q (fun x => { x with cqHead := x.cqHead + k })).writeReplies q).fetchMore q := by
  subst hk
  simp [Chip.cqHead, hpage, hsource, henabled, Nat.not_le.2 hin, Nat.ne_of_lt hroom, Nat.not_lt.2 hused]

end Served

/-! ### The fetch of slots and the replies -/

/-- The slot after the last one asked for, and how many slots stand between it and the tail (R274). -/
def Chip.nextFetch (s : Chip) (q : Nat) : Nat := (s.rd (A.SEQ_Q_STATE q) F.SEQ_Q_STATE_SQ_HEAD + (s.queue q).fetching) % s.sqEntries q
def Chip.toFetch (s : Chip) (q : Nat) : Nat := ((s.queue q).tail + s.sqEntries q - s.nextFetch q) % s.sqEntries q

theorem Chip.fetchMore_none (s : Chip) (q : Nat) (h : s.toFetch q = 0) : s.fetchMore q = s := by
  unfold Chip.toFetch Chip.nextFetch at h
  simp [Chip.fetchMore, h]

/-- The reads of the host that a fetch of `k` slots from `head` on makes, newest first: two where the ring wraps (R274). -/
def ringReads (q n head k : Nat) : List OutEv :=
  if head + k ≤ n then [.hostRead q head k] else [.hostRead q 0 (head + k - n), .hostRead q head (n - head)]

/-- A fetch is possible: the queue is enabled, neither halted nor being disabled, the host link is up, the part is awake, and fewer than 256
replies wait (R275, R339). -/
structure Chip.MayFetch (s : Chip) (q : Nat) : Prop where
  enabled : s.qEnabled q = true
  running : s.qFlag q F.SEQ_Q_STATE_HALTED = false
  serving : (s.queue q).disabling = false
  hostUp : s.seq.hostUp = true
  awake : s.asleep = false
  room : (s.queue q).replies.length < 256

theorem Chip.fetchMore_some (s : Chip) (q : Nat) (hmay : s.MayFetch q) (h : s.toFetch q ≠ 0) :
    s.fetchMore q = { s.modQueue q (fun x => { x with fetching := x.fetching + s.toFetch q }) with
      out := ringReads q (s.sqEntries q) (s.nextFetch q) (s.toFetch q) ++ s.out } := by
  obtain ⟨henabled, hrunning, hserving, hhost, hawake, hroom⟩ := hmay
  unfold Chip.toFetch Chip.nextFetch at *
  simp only [Chip.fetchMore, ringReads, henabled, hrunning, hserving, hhost, hawake]
  simp [h, Nat.not_le.2 hroom]
  split <;> rfl

theorem Chip.writeReplies_none (s : Chip) (q : Nat) (h : (s.queue q).replies = []) : s.writeReplies q = s.modQueue q id := by
  simp [Chip.writeReplies, h, numbered, upFrom]
  rfl

theorem ring_ahead (i n head : Nat) (h : head < i) (hi : i < n) : (i + n - head) % n = i - head := by
  rw [show i + n - head = i - head + n by omega, Nat.add_mod_right, Nat.mod_eq_of_lt (by omega)]

theorem ring_behind (i n head : Nat) (h : i < head) (hhead : head < n) : (i + n - head) % n = i + n - head := Nat.mod_eq_of_lt (by omega)

theorem Chip.sqEntries_pos (s : Chip) (q : Nat) : 0 < s.sqEntries q := Nat.lt_of_lt_of_le Nat.one_pos (Nat.le_max_left _ _)

theorem Chip.nextFetch_lt (s : Chip) (q : Nat) : s.nextFetch q < s.sqEntries q := Nat.mod_lt _ (s.sqEntries_pos q)

theorem ringReads_ahead (q n head i : Nat) (h : head < i) (hi : i < n) : ringReads q n head (i - head) = [.hostRead q head (i - head)] :=
  if_pos (by omega)

theorem ringReads_behind (q n head i : Nat) (hhead : head < n) : ringReads q n head (i + n - head)
    = if i = 0 then [.hostRead q head (n - head)] else [.hostRead q 0 i, .hostRead q head (n - head)] := by
  unfold ringReads
  have hlast : head + (i + n - head) - n = i := by omega
  rw [hlast]
  split <;> split
  · congr 2; omega
  · omega
  · omega
  · rfl

/-- The part once SQ_TAIL has asked for `k` slots more (R274). -/
def Chip.tailAsked (s : Chip) (q i k : Nat) : Chip :=
  { (s.modQueue q (fun x => { x with tail := i })).modQueue q (fun x => { x with fetching := x.fetching + k }) with
    out := ringReads q (s.sqEntries q) (s.nextFetch q) k ++ s.out }

theorem Chip.queue_tailAsked (s : Chip) (q i k : Nat) :
    (s.tailAsked q i k).queue q = { s.queue q with tail := i, fetching := (s.queue q).fetching + k } := by
  show ((s.modQueue q (fun x => { x with tail := i })).modQueue q (fun x => { x with fetching := x.fetching + k })).queue q = _
  rw [Chip.queue_modQueue, Chip.queue_modQueue]

/-- SQ_TAIL of a queue that may fetch asks for the slots from the first one not asked for to the tail. -/
theorem Chip.fetchMore_tail (s : Chip) (q i k : Nat) (hmay : s.MayFetch q)
    (hk : (i + s.sqEntries q - s.nextFetch q) % s.sqEntries q = k) (hnew : k ≠ 0) :
    (s.modQueue q (fun x => { x with tail := i })).fetchMore q
      = s.tailAsked q i k := by
  have hnext : (s.modQueue q (fun x => { x with tail := i })).nextFetch q = s.nextFetch q := by
    simp only [Chip.nextFetch, Chip.queue_modQueue]; rfl
  have hleft : (s.modQueue q (fun x => { x with tail := i })).toFetch q = k := by
    simp only [Chip.toFetch, hnext, Chip.queue_modQueue]; exact hk
  have hmay' : (s.modQueue q (fun x => { x with tail := i })).MayFetch q :=
    ⟨hmay.enabled, hmay.running, by simpa using hmay.serving, hmay.hostUp, hmay.awake, by simpa using hmay.room⟩
  rw [Chip.fetchMore_some _ q hmay' (hleft ▸ hnew), hleft, hnext]
  rfl

/-! ### Slots that arrive -/

theorem exec_sqFetchComplete (q : Fin 1024) (slots : List Nat) (s : State) :
    exec (.sqFetchComplete q slots) s = .next (s.after (s.slotsIn q.val slots)) := rfl

theorem Chip.slotsIn_unasked (s : Chip) (q w : Nat) (h : (s.queue q).fetching = 0) : s.slotsIn q [w] = s.modQueue q id := by
  simp [Chip.slotsIn, h]
  rfl

/-- SQ_HEAD moves on by one slot as it arrives (R274). -/
def Chip.headOn (s : Chip) (q : Nat) : Chip :=
  (s.modQueue q (fun x => { x with fetching := x.fetching - 1 })).wr (A.SEQ_Q_STATE q) F.SEQ_Q_STATE_SQ_HEAD
    ((s.rd (A.SEQ_Q_STATE q) F.SEQ_Q_STATE_SQ_HEAD + 1) % s.sqEntries q)

theorem Chip.slotsIn_asked (s : Chip) (q w : Nat) (h : (s.queue q).fetching ≠ 0) :
    s.slotsIn q [w] = (s.headOn q).submit q (q / 16) .ring w := by
  have htake : [w].take (s.queue q).fetching = [w] := List.take_of_length_le (by simp; omega)
  simp [Chip.slotsIn, htake]
  rfl

theorem Chip.scrubbing_headOn (s : Chip) (q p : Nat) : (s.headOn q).scrubbing p = s.scrubbing p := by
  unfold Chip.scrubbing Chip.headOn
  rw [Chip.rd_wr_apart]
  · rfl
  · unfold apart A.SEQ_Q_STATE A.PTN_STATE F.SEQ_Q_STATE_SQ_HEAD F.PTN_STATE_STATE
    simp only
    omega

theorem Chip.submit_open (s : Chip) (q part : Nat) (o : Origin) (w : Nat) (h : s.scrubbing part = false) :
    s.submit q part o w = { s with seq := { s.seq with
      nextCmd := s.seq.nextCmd + 1
      cmds := s.seq.cmds ++ [{ id := s.seq.nextCmd, queue := q, part := part, origin := o, slot := w, cur := w }] } } := by
  simp only [Chip.submit, h, Bool.false_eq_true, if_false]
  rfl

/-! ### Fabric slots -/

theorem exec_cmdPacket (p : Packet) (s : State) :
    exec (.cmdPacket p) s = .next (s.after (s.consumeIf p (fun u => u.cmdPacket p))) := rfl

theorem Chip.cmdSlot_nop (s : Chip) (e p w : Nat) (h : slotOp w = oNOP) : s.cmdSlot e p w = (s, false) := by
  simp [Chip.cmdSlot, h]

theorem Chip.cmdSlot_foreign (s : Chip) (e p w : Nat) (hpower : s.powerState = 0) (hop : slotOp w ≠ oNOP)
    (h : s.hostPart e ≠ some (slotQueue w / 16) ∨ s.qSource (slotQueue w) ≠ 3) :
    s.cmdSlot e p w = (s.refuseFabric e p (slotQueue w) w .accessDenied, false) := by
  have h' : (s.hostPart e != some (slotQueue w / 16) || s.qSource (slotQueue w) != 3) = true := by simpa using h
  simp [Chip.cmdSlot, hop, s.asleep_of_awake hpower, h']

theorem Chip.cmdSlot_full (s : Chip) (e p w : Nat) (hpower : s.powerState = 0) (hop : slotOp w ≠ oNOP)
    (hpart : s.hostPart e = some (slotQueue w / 16)) (hsource : s.qSource (slotQueue w) = 3) (henabled : s.qEnabled (slotQueue w) = true)
    (hserving : (s.queue (slotQueue w)).disabling = false)
    (hfull : 256 ≤ (s.seq.cmds.filter (fun m => m.queue == slotQueue w && m.phase == .fetched)).length) :
    s.cmdSlot e p w = ((s.count A.SEQ_STATUS F.SEQ_STATUS_FABRIC_BUSY).refuseFabric e p (slotQueue w) w .busy, false) := by
  simp [Chip.cmdSlot, hop, s.asleep_of_awake hpower, hpart, hsource, henabled, hserving, hfull]

/-! ### The obligation -/

/-- A refused or a halting doorbell, whichever of the two it is. -/
theorem exec_doorbell_denied (c : Instr) (src : Source) (q : Fin 1024) (v off : Nat) (s : State)
    (hc : (c = .sqTail src q 4 v ∧ off = 0) ∨ (c = .cqHead src q 4 v ∧ off = 8)) (h : s.Rings src q) (hpower : s.powerState = 0)
    (hdenied : s.qFunction q.val ≠ some src ∨ s.qEnabled q.val = false) :
    exec c s = .next (s.after (s.doorbellDenied q.val off .accessDenied)) := by
  have hwake := Chip.doorbellWakes_of_awake _ ((s.powerState_doorbellDenied q.val off .accessDenied).trans hpower)
  rcases hc with ⟨rfl, rfl⟩ | ⟨rfl, rfl⟩
  · rw [exec_sqTail, s.doorbell_sqTail src q v h, s.sqTail_denied src q.val _ h.page hdenied, hwake]
  · rw [exec_cqHead, s.doorbell_cqHead src q v h, s.cqHead_denied src q.val _ h.page hdenied, hwake]

theorem exec_doorbell_halts (c : Instr) (src : Source) (q : Fin 1024) (v off : Nat) (s : State)
    (hc : (c = .sqTail src q 4 v ∧ off = 0) ∨ (c = .cqHead src q 4 v ∧ off = 8)) (h : s.Rings src q) (hpower : s.powerState = 0)
    (hsource : s.qFunction q.val = some src) (henabled : s.qEnabled q.val = true) (hrunning : s.qFlag q.val F.SEQ_Q_STATE_HALTED = false)
    (hbeyond : (off = 0 ∧ s.sqEntries q.val ≤ v % 65536) ∨ (off = 8 ∧ s.cqEntries q.val ≤ v % 65536)) :
    exec c s = .next (s.after (s.doorbellHalts q.val off)) := by
  have hwake := Chip.doorbellWakes_of_awake _ ((s.powerState_doorbellHalts q.val off).trans hpower)
  rcases hc with ⟨rfl, rfl⟩ | ⟨rfl, rfl⟩
  · have hsq : s.sqEntries q.val ≤ v % 65536 := by simpa using hbeyond
    rw [exec_sqTail, s.doorbell_sqTail src q v h, s.sqTail_served src q.val _ h.page hsource henabled hrunning, index_mod, if_pos hsq, hwake]
  · have hcq : s.cqEntries q.val ≤ v % 65536 := by simpa using hbeyond
    rw [exec_cqHead, s.doorbell_cqHead src q v h, s.cqHead_beyond src q.val _ h.page hsource henabled (by rwa [index_mod]), hwake]

section Open
variable (src : Source) (q : Fin 1024) (v : Nat) (s : State) (h : s.Rings src q) (hsource : s.qFunction q.val = some src)
  (henabled : s.qEnabled q.val = true) (hrunning : s.qFlag q.val F.SEQ_Q_STATE_HALTED = false)
include h hsource henabled hrunning

/-- In Eaves, with doorbells not waking the part, SQ_TAIL is latched (R277). -/
theorem exec_sqTail_latched (hasleep : s.powerState ≠ 0) (hoff : s.flag A.PCE_PWR_CTL F.PCE_PWR_CTL_WAKE_DOORBELL = false)
    (hin : v % 65536 < s.sqEntries q.val) :
    exec (.sqTail src q 4 v) s = .next (s.after (s.modQueue q.val (fun x => { x with latched := some (v % 65536) }))) := by
  have hsleep : s.asleep = true := by simpa [Chip.asleep] using hasleep
  have hwake := Chip.doorbellWakes_of_disabled (s.modQueue q.val (fun x => { x with latched := some (v % 65536) })) hoff
  rw [exec_sqTail, s.doorbell_sqTail src q v h, s.sqTail_served src q.val _ h.page hsource henabled hrunning, index_mod,
    if_neg (Nat.not_le.2 hin), if_pos hsleep, hwake]

theorem exec_sqTail_fetches (k : Nat) (hpower : s.powerState = 0) (hhost : s.seq.hostUp = true)
    (hserving : (s.queue q.val).disabling = false) (hroom : (s.queue q.val).replies.length < 256) (hin : v % 65536 < s.sqEntries q.val)
    (hk : (v % 65536 + s.sqEntries q.val - s.nextFetch q.val) % s.sqEntries q.val = k) (hnew : k ≠ 0) :
    exec (.sqTail src q 4 v) s = .next (s.after (s.tailAsked q.val (v % 65536) k)) := by
  have hawake := s.asleep_of_awake hpower
  have hmay : s.MayFetch q.val := ⟨henabled, hrunning, hserving, hhost, hawake, hroom⟩
  rw [exec_sqTail, s.doorbell_sqTail src q v h, s.sqTail_served src q.val _ h.page hsource henabled hrunning, index_mod,
    if_neg (Nat.not_le.2 hin), if_neg (by simp [hawake]), s.fetchMore_tail q.val _ k hmay hk hnew,
    Chip.doorbellWakes_of_awake (s.tailAsked q.val _ k) hpower]

omit hrunning in
/-- CQ_HEAD with no reply waiting and nothing left to fetch moves the host's place in the completion ring on by `k` slots (R275). -/
theorem exec_cqHead_frees (k : Nat) (hpower : s.powerState = 0) (hreplies : (s.queue q.val).replies = [])
    (hin : v % 65536 < s.cqEntries q.val)
    (hk : k = (v % 65536 + s.cqEntries q.val - (s.queue q.val).cqHead % s.cqEntries q.val) % s.cqEntries q.val)
    (hroom : (s.queue q.val).cqTail - (s.queue q.val).cqHead < s.cqEntries q.val)
    (hused : k ≤ (s.queue q.val).cqTail - (s.queue q.val).cqHead) (hdone : s.toFetch q.val = 0) :
    exec (.cqHead src q 4 v) s
      = .next (s.after ((s.modQueue q.val (fun x => { x with cqHead := x.cqHead + k })).modQueue q.val id)) := by
  have hnone : ((s.modQueue q.val (fun x => { x with cqHead := x.cqHead + k })).modQueue q.val id).toFetch q.val = 0 := by
    rw [← hdone]
    simp only [Chip.toFetch, Chip.nextFetch, Chip.queue_modQueue]
    rfl
  rw [exec_cqHead, s.doorbell_cqHead src q v h,
    s.cqHead_frees src q.val _ h.page hsource henabled k (by rwa [index_mod]) (by rwa [index_mod]) hroom hused,
    Chip.writeReplies_none _ _ (by simpa using hreplies), Chip.fetchMore_none _ _ hnone,
    Chip.doorbellWakes_of_awake ((s.modQueue q.val _).modQueue q.val id) hpower]

end Open

/-- Settles O45: each doorbell, arrival and fabric slot meets one branch of its operation, and what follows touches the queue alone. -/
theorem queuesTakeTheirSlots : Obligations.QueuesTakeTheirSlots := by
  unfold Obligations.QueuesTakeTheirSlots
  refine ⟨fun c src q v off s hc hpage hready howned hpower => ⟨?_, ?_⟩, fun src q v s hpage hready howned hsource henabled hrunning => ?_,
    fun q w s hfree => ⟨fun hidle => ?_, fun hasked => ?_⟩, fun p s haccepts hsegs => ?_, fun s e p w hpower => ⟨?_, fun hop => ⟨?_, ?_⟩⟩⟩
  · exact exec_doorbell_denied c src q v off s hc ⟨hpage, hready, howned⟩ hpower
  · exact exec_doorbell_halts c src q v off s hc ⟨hpage, hready, howned⟩ hpower
  · have hrings : s.Rings src q := ⟨hpage, hready, howned⟩
    refine ⟨fun hin hasleep hoff => exec_sqTail_latched src q v s hrings hsource henabled hrunning hasleep hoff hin,
      fun hpower hhost hserving hroom => ?_, fun hpower hreplies hidle hordered hroom hin hused htail hlast => ?_⟩
    · intro n head hin hnew
      have hhead : head < n := s.nextFetch_lt q.val
      rcases Nat.lt_or_gt_of_ne hnew with hbehind | hahead
      · have hk : (v % 65536 + n - head) % n = v % 65536 + n - head := ring_behind _ _ _ hbehind hhead
        refine ⟨_, exec_sqTail_fetches src q v s hrings hsource henabled hrunning _ hpower hhost hserving hroom hin hk (by omega),
          ?_, rfl, rfl, fun hahead => absurd hahead hbehind.asymm, fun _ => ⟨?_, ?_⟩⟩
        · rw [s.queue_tailAsked]
        · rw [s.queue_tailAsked]
        · exact congrArg (· ++ s.out) (ringReads_behind q.val n head (v % 65536) hhead)
      · have hk : (v % 65536 + n - head) % n = v % 65536 - head := ring_ahead _ _ _ hahead hin
        refine ⟨_, exec_sqTail_fetches src q v s hrings hsource henabled hrunning _ hpower hhost hserving hroom hin hk (by omega),
          ?_, rfl, rfl, fun _ => ⟨?_, ?_⟩, fun hbehind => absurd hbehind hahead.asymm⟩
        · rw [s.queue_tailAsked]
        · exact congrArg (· ++ s.out) (ringReads_ahead q.val n head (v % 65536) hahead hin)
        · rw [s.queue_tailAsked]
    · have hdone : s.toFetch q.val = 0 := by
        have hnext : s.nextFetch q.val = (s.queue q.val).tail := by rw [Chip.nextFetch, hidle, Nat.add_zero, htail]
        rw [Chip.toFetch, hnext, Nat.add_sub_cancel_left, Nat.mod_self]
      refine ⟨_, exec_cqHead_frees src q v s hrings hsource henabled _ hpower hreplies hin rfl hroom hused hdone, ?_, rfl, rfl⟩
      rw [Chip.queue_modQueue, Chip.queue_modQueue]
      rfl
  · rw [exec_sqFetchComplete, s.slotsIn_unasked q.val w hidle]
  · refine ⟨_, by rw [exec_sqFetchComplete, s.slotsIn_asked q.val w hasked, Chip.submit_open _ _ _ _ _ (by rw [s.scrubbing_headOn, hfree])],
      rfl, ?_, ?_, rfl⟩
    · exact Chip.queue_modQueue s.toChip q.val (fun x => { x with fetching := x.fetching - 1 })
    · exact Chip.rd_wr_same _ _ _ _
  · rw [exec_cmdPacket, s.consumeIf_of_accepts p _ haccepts hsegs]
    exact ⟨fun htook => by rw [if_pos htook], fun hleft hfence => by rw [if_neg (by simp [hleft]), if_neg (by simp [hfence])]⟩
  · exact s.cmdSlot_nop e p w
  · exact s.cmdSlot_foreign e p w hpower hop
  · exact s.cmdSlot_full e p w hpower hop

end Sys2Proof.Machine
end

section
/-!
Commands that end at once (spec/08_commands_and_scheduling.md R280 to R283, R296): the command of Newt's own path, numbered 17, whose reply
a session of that number would take.
-/
open Sys2Proof Sys2Proof.Machine
namespace Sys2Proof.Machine

/-- A NOP that Newt sends itself. -/
def newtHead : CmdHead := { from_ := .newt, queue := 0 }
def newtNop : Nat := newtHead.packet oNOP []

/-- The part awake, its control plane out of reset and nothing under way, with a session 17 in which a CMD_SUBMIT of TAG 0 runs. 17 stands for
Newt itself (R271) and no message opens a session of that number, but the state is plain data and holds one. -/
def straySession : State :=
  { State.reset with
    regs := State.reset.regs.set A.GLB_BOOT_STATUS F.GLB_BOOT_STATUS_CP_RESET 0
    newt := { State.reset.newt with sessions := [(17, { port := 0, anchor := none, role := .operator, running := some 0 })] } }

theorem straySession_takesSlot : straySession.takesSlot newtHead newtNop :=
  have h : straySession.powerState = 0 ∧ straySession.flag A.GLB_BOOT_STATUS F.GLB_BOOT_STATUS_CP_RESET = false := by decide +kernel
  h

/-- The NOP itself lets nothing leave the part; its reply leaves it, as the answer to the stray session's CMD_SUBMIT. -/
theorem straySession_silent :
    ((straySession.entered newtHead newtNop).startCmd (straySession.cmdOf newtHead newtNop)).out = [] := by decide +kernel
theorem straySession_answered : (straySession.issueSlot newtHead newtNop).out ≠ [] := by decide +kernel

/-- Refutes O44: at `straySession` a NOP on Newt's path meets every hypothesis of the first clause, and a message leaves the part beside what
the command itself lets leave it. -/
theorem not_immediateCommandsEndAtOnce : ¬ Obligations.ImmediateCommandsEndAtOnce := by
  unfold Obligations.ImmediateCommandsEndAtOnce
  rintro ⟨hends, -, -⟩
  have hstill : straySession.still ∧ straySession.scrubbing 0 = false ∧ straySession.isHeldBack newtQueue = false := by decide +kernel
  obtain ⟨hstill, hfree, hheld⟩ := hstill
  obtain ⟨t, hexec, -, -, hout, -⟩ := hends (.nop newtHead) newtHead newtNop straySession rfl straySession_takesSlot hstill hfree hheld
    (.inl rfl) (.inr (by decide +kernel))
  rw [exec_slot (.nop newtHead) newtHead newtNop straySession rfl] at hexec
  rw [← Host.Outcome.next.inj hexec, State.run_toChip] at hout
  exact straySession_answered (hout.trans straySession_silent)

end Sys2Proof.Machine
end

section
/-!
The host attach link and the clocks (spec/09_ports_and_links.md R339, spec/16_power_reset_boot.md R510, R514,
spec/17_electrical_and_package.md R526): PERST_N, the loss and return of the link and of a clock, and the reset of one virtual function.
-/
open Sys2Proof Sys2Proof.Machine
namespace Sys2Proof.Machine

/-! ### The control-plane reset that PERST_N asks for -/

theorem Chip.requestReset_control_merged (s : Chip) (cause : Nat) (h : s.flag A.GLB_BOOT_STATUS F.GLB_BOOT_STATUS_CP_RESET = true) :
    s.requestReset 1 cause = s := if_pos h

theorem Chip.requestReset_control_awake (s : Chip) (cause : Nat) (h : s.flag A.GLB_BOOT_STATUS F.GLB_BOOT_STATUS_CP_RESET = false)
    (hawake : s.powerState = 0) : s.requestReset 1 cause = s.controlReset cause :=
  (if_neg (by rw [Bool.not_eq_true]; exact h)).trans (if_pos (beq_iff_eq.2 hawake))

theorem Chip.controlReset_cause (s : Chip) (cause : Nat) :
    (s.controlReset cause).rd A.GLB_RESET_CAUSE F.GLB_RESET_CAUSE_CONTROL = cause % 2 ^ 8 := Chip.rd_wr_same _ _ _ _

/-! ### The link and the queues of its hosts -/

/-- `t` differs from `s` in the run-time of its queues and in what has left the part, if at all. -/
def Chip.sameButQueues (s t : Chip) : Prop := t = { s with seq := { s.seq with queues := t.seq.queues }, out := t.out }

theorem Chip.sameButQueues_refl (s : Chip) : s.sameButQueues s := rfl

theorem Chip.sameButQueues_trans {s t u : Chip} (hst : s.sameButQueues t) (htu : t.sameButQueues u) : s.sameButQueues u := by
  unfold Chip.sameButQueues at *
  rw [htu, hst]

theorem Chip.sameButQueues_modQueue (s : Chip) (q : Nat) (f : Queue → Queue) : s.sameButQueues (s.modQueue q f) := rfl

theorem Chip.sameButQueues_emitOut (s : Chip) (e : OutEv) : s.sameButQueues (s.emitOut e) := rfl

/-- Operations that keep all but the queues and the output keep it one after another. -/
theorem Chip.sameButQueues_foldl {α : Type} (f : Chip → α → Chip) (h : ∀ (t : Chip) (x : α), t.sameButQueues (f t x)) (l : List α)
    (s : Chip) : s.sameButQueues (l.foldl f s) :=
  List.foldlRecOn l f (motive := s.sameButQueues) s.sameButQueues_refl fun t ht x _ => Chip.sameButQueues_trans ht (h t x)

theorem Chip.sameButQueues_writeReplies (s : Chip) (q : Nat) : s.sameButQueues (s.writeReplies q) := by
  unfold Chip.writeReplies
  refine Chip.sameButQueues_trans (s.sameButQueues_modQueue q _) (Chip.sameButQueues_foldl _ (fun t e => ?_) _ _)
  dsimp only
  split
  · exact Chip.sameButQueues_trans (t.sameButQueues_emitOut _) (Chip.sameButQueues_emitOut _ _)
  · exact t.sameButQueues_emitOut _

theorem Chip.sameButQueues_fetchMore (s : Chip) (q : Nat) : s.sameButQueues (s.fetchMore q) := by
  unfold Chip.fetchMore
  dsimp only
  split
  · exact s.sameButQueues_refl
  · split
    · exact Chip.sameButQueues_trans (s.sameButQueues_modQueue q _) (Chip.sameButQueues_emitOut _ _)
    · exact Chip.sameButQueues_trans (s.sameButQueues_modQueue q _)
        (Chip.sameButQueues_trans (Chip.sameButQueues_emitOut _ _) (Chip.sameButQueues_emitOut _ _))

/-- The part with the link up or down, before fetching and replies go on. -/
def Chip.linkSet (s : Chip) (up : Bool) : Chip := { s with seq := { s.seq with hostUp := up } }

theorem Chip.flag_linkSet (s : Chip) (up : Bool) (a : Nat) (f : Fld) : (s.linkSet up).flag a f = s.flag a f := rfl

theorem Chip.linkSet_of_logged {s t : Chip} (h : t = { s with regs := t.regs, errSeq := s.errSeq + 1 }) (up : Bool) :
    t.linkSet up = { s with regs := (t.linkSet up).regs, errSeq := s.errSeq + 1, seq := { s.seq with hostUp := up } } := by
  rw [h]
  rfl

theorem Chip.hostLink_down (s : Chip) : s.hostLink false = s.linkSet false := rfl

theorem Chip.hostLink_up (s : Chip) : (s.linkSet true).sameButQueues (s.hostLink true) :=
  Chip.sameButQueues_foldl _ (fun t q =>
    Chip.sameButQueues_trans (t.sameButQueues_writeReplies q) ((t.writeReplies q).sameButQueues_fetchMore q)) _ _

/-! ### The reset of one virtual function -/

/-- Queue `q` as a Function Level Reset leaves it: no replies wait, and it is disabled. -/
def Chip.flrQueue (s : Chip) (q : Nat) : Chip := (s.modQueue q (fun x => { x with replies := [] })).disableQueue q

theorem Chip.vfReset_eq (s : Chip) (n : Nat) :
    s.vfReset n = ((upFrom (16 * n) 16).filter (fun q => s.qSource q == 2 && s.qEnabled q)).foldl Chip.flrQueue s := rfl

/-- Queue `x` is being disabled and no reply waits for it. -/
def Chip.flrDone (s : Chip) (x : Nat) : Prop := (s.queue x).disabling = true ∧ (s.queue x).replies = []

/-- `t` differs from `s` in the run-time of queues of virtual function `n` alone. -/
def Chip.sameButFunction (s : Chip) (n : Nat) (t : Chip) : Prop :=
  t = { s with seq := { s.seq with queues := t.seq.queues } } ∧ ∀ x, x / 16 ≠ n → t.seq.queues.find x = s.seq.queues.find x

theorem Chip.qEnabled_sameButFunction {s t : Chip} {n : Nat} (h : s.sameButFunction n t) (q : Nat) : t.qEnabled q = s.qEnabled q := by
  rw [h.1]; rfl

theorem Chip.sameButFunction_modQueue {s t : Chip} {n : Nat} (h : s.sameButFunction n t) (q : Nat) (hq : q / 16 = n) (f : Queue → Queue) :
    s.sameButFunction n (t.modQueue q f) := by
  obtain ⟨hframe, hother⟩ := h
  refine ⟨?_, fun x hx => ?_⟩
  · rw [hframe]; rfl
  · have hne : x ≠ q := fun e => hx (e ▸ hq)
    exact (Tab.find_put_other _ _ _ _ hne).trans (hother x hx)

theorem Chip.sameButFunction_flrQueue {s t : Chip} {n : Nat} (h : s.sameButFunction n t) (q : Nat) (hq : q / 16 = n) :
    s.sameButFunction n (t.flrQueue q) := by
  have hcleared := Chip.sameButFunction_modQueue h q hq (fun x => { x with replies := [] })
  unfold Chip.flrQueue Chip.disableQueue
  split
  · exact Chip.sameButFunction_modQueue hcleared q hq _
  · exact hcleared

theorem Chip.queue_modQueue_other (s : Chip) (q x : Nat) (f : Queue → Queue) (h : x ≠ q) : (s.modQueue q f).queue x = s.queue x :=
  congrArg (fun o => o.getD {}) (Tab.find_put_other s.seq.queues _ _ _ h)

theorem Chip.flrDone_flrQueue (s : Chip) (q x : Nat) (h : s.flrDone x ∨ x = q ∧ s.qEnabled q = true) : (s.flrQueue q).flrDone x := by
  unfold Chip.flrDone Chip.flrQueue Chip.disableQueue at *
  by_cases hx : x = q
  · subst hx
    split
    · simp
    · next hoff =>
      have hdone := h.resolve_right fun hon => hoff hon.2
      simpa using hdone.1
  · have hdone := h.resolve_right fun hon => hx hon.1
    split
    · simpa only [Chip.queue_modQueue_other _ _ _ _ hx] using hdone
    · simpa only [Chip.queue_modQueue_other _ _ _ _ hx] using hdone

theorem Chip.sameButFunction_foldl (s : Chip) (n : Nat) (l : List Nat) (h : ∀ q ∈ l, q / 16 = n) :
    s.sameButFunction n (l.foldl Chip.flrQueue s) :=
  List.foldlRecOn l _ ⟨rfl, fun _ _ => rfl⟩ fun _ ht q hq => Chip.sameButFunction_flrQueue ht q (h q hq)

theorem Chip.flrDone_foldl (s : Chip) (n : Nat) (l : List Nat) (h : ∀ q ∈ l, q / 16 = n) (x : Nat) (hx : x ∈ l)
    (hon : s.qEnabled x = true) : (l.foldl Chip.flrQueue s).flrDone x := by
  obtain ⟨before, later, rfl⟩ := List.append_of_mem hx
  have hkept := s.sameButFunction_foldl n before fun q hq => h q (List.mem_append_left _ hq)
  rw [List.foldl_append, List.foldl_cons]
  refine List.foldlRecOn later _ (motive := fun (t : Chip) => t.flrDone x) (Chip.flrDone_flrQueue _ x x (.inr ⟨rfl, ?_⟩)) fun t ht q _ =>
    Chip.flrDone_flrQueue t q x (.inl ht)
  rw [Chip.qEnabled_sameButFunction hkept, hon]

theorem mem_queues_of_function (n q : Nat) : q ∈ upFrom (16 * n) 16 ↔ q / 16 = n := by
  unfold upFrom
  rw [List.mem_range'_1]
  omega

theorem Chip.sameButFunction_vfReset (s : Chip) (n : Nat) : s.sameButFunction n (s.vfReset n) := by
  rw [Chip.vfReset_eq]
  exact s.sameButFunction_foldl n _ fun q hq => (mem_queues_of_function n q).1 (List.mem_of_mem_filter hq)

theorem Chip.flrDone_vfReset (s : Chip) (n q : Nat) (hq : q / 16 = n) (hvf : s.qSource q = 2) (hon : s.qEnabled q = true) :
    (s.vfReset n).flrDone q := by
  rw [Chip.vfReset_eq]
  exact s.flrDone_foldl n _ (fun x hx => (mem_queues_of_function n x).1 (List.mem_of_mem_filter hx)) q
    (List.mem_filter.2 ⟨(mem_queues_of_function n q).2 hq, by simp [hvf, hon]⟩) hon

/-! ### Clocks -/

theorem Chip.clockLost_frame (s : Chip) (f : Fld) : s.clockLost f = { s with regs := (s.clockLost f).regs, errSeq := s.errSeq + 1 } :=
  Chip.log_frame _ _

/-- A lost clock reads as lost, and so does the bit that a clock has been lost. -/
theorem Chip.clockLost_reads (s : Chip) (f : Fld) (hf : f.width = 1) (hin : f.lo + f.width ≤ 64)
    (happart : F.GLB_CLK_STATUS_CLK_LOST_SEEN.disjoint f) :
    (s.clockLost f).flag A.GLB_CLK_STATUS f = true
      ∧ (s.clockLost f).flag A.GLB_CLK_STATUS F.GLB_CLK_STATUS_CLK_LOST_SEEN = true := by
  have hlog : notErr A.GLB_CLK_STATUS f := .inl (by unfold A.GLB_CLK_STATUS; omega)
  unfold Chip.clockLost Chip.logReg Chip.flag
  rw [Chip.log_rd_other _ _ _ _ hlog, Chip.log_rd_other _ _ _ _ (by decide), Chip.rd_wr_disjoint _ _ _ _ _ happart, Chip.rd_wr_same,
    Chip.rd_wr_same, hf]
  decide

/-! ### The commands -/

theorem exec_perstNAssert (s : State) : exec .perstNAssert s = .next (s.after s.perstAssert) := rfl
theorem exec_perstNRelease (s : State) : exec .perstNRelease s = .next (s.after s.perstRelease) := rfl
theorem exec_hostLinkLoss (s : State) : exec .hostLinkLoss s = .next (s.after (s.hostLink false)) := rfl
theorem exec_hostLinkReturn (s : State) : exec .hostLinkReturn s = .next (s.after (s.hostLink true)) := rfl
theorem exec_vfFlr (n : Fin 64) (s : State) : exec (.vfFlr n) s = .next (s.after (s.vfReset n.val)) := rfl
theorem exec_refclkPcieLoss (s : State) :
    exec .refclkPcieLoss s = .next (s.after ((s.clockLost F.GLB_CLK_STATUS_REFCLK_PCIE_LOST).hostLink false)) := rfl
theorem exec_xtalLoss (s : State) : exec .xtalLoss s = .next (s.after (s.clockLost F.GLB_CLK_STATUS_XTAL_LOST)) := rfl
theorem exec_clockReturn (c : Instr) (f : Fld) (s : State)
    (h : (c = .xtalReturn ∧ f = F.GLB_CLK_STATUS_XTAL_LOST) ∨ (c = .refclkPcieReturn ∧ f = F.GLB_CLK_STATUS_REFCLK_PCIE_LOST)) :
    exec c s = .next (s.after (s.wr A.GLB_CLK_STATUS f 0)) := by
  rcases h with ⟨rfl, rfl⟩ | ⟨rfl, rfl⟩ <;> rfl

/-- The part with PERST_N asserted and the host link down. -/
def Chip.perstHeld (s : Chip) : Chip := { s with power := { s.power with perst := true }, seq := { s.seq with hostUp := false } }

theorem Chip.perstAssert_eq (s : Chip) : s.perstAssert = s.perstHeld.requestReset 1 5 := rfl

/-- The part with PERST_N released, the link not yet up. -/
def Chip.perstFree (s : Chip) : Chip := { s with power := { s.power with perst := false } }

theorem Chip.perstRelease_eq (s : Chip) :
    s.perstRelease = if Nat.blt 0 s.stage then s.perstFree.hostLink true else s.perstFree := rfl

/-- Settles O19: each pin, link and clock by the one operation that it comes to. -/
theorem hostLinkAndClocks : Obligations.HostLinkAndClocks := by
  unfold Obligations.HostLinkAndClocks
  refine ⟨fun s hreset => ?_, fun s hrun hawake => ?_, fun s hstage => ?_, fun s hstage => ?_, exec_hostLinkLoss, fun s => ?_,
    fun n s => ?_, fun s => ?_, fun s => ?_, fun c f s hc => ?_⟩
  · rw [exec_perstNAssert, Chip.perstAssert_eq, s.toChip.perstHeld.requestReset_control_merged 5 hreset]
    rfl
  · refine ⟨_, exec_perstNAssert s, ?_⟩
    rw [Chip.perstAssert_eq, s.toChip.perstHeld.requestReset_control_awake 5 hrun hawake, Chip.controlReset_cause]
    rfl
  · rw [exec_perstNRelease, Chip.perstRelease_eq, hstage]
    rfl
  · refine ⟨_, exec_perstNRelease s, ?_⟩
    rw [Chip.perstRelease_eq, if_pos (by simpa using hstage), s.toChip.perstFree.hostLink_up]
    exact ⟨rfl, rfl⟩
  · exact ⟨_, exec_hostLinkReturn s, s.toChip.hostLink_up⟩
  · obtain ⟨hframe, hother⟩ := s.toChip.sameButFunction_vfReset n.val
    exact ⟨_, exec_vfFlr n s, hframe, hother, fun q hq => s.toChip.flrDone_vfReset n.val q hq⟩
  · obtain ⟨hlost, hseen⟩ := s.toChip.clockLost_reads F.GLB_CLK_STATUS_REFCLK_PCIE_LOST rfl (by decide) (by decide)
    refine ⟨_, exec_refclkPcieLoss s, ?_⟩
    rw [Chip.hostLink_down, Chip.flag_linkSet, Chip.flag_linkSet]
    exact ⟨hlost, hseen, Chip.linkSet_of_logged (s.toChip.clockLost_frame _) false⟩
  · obtain ⟨hlost, hseen⟩ := s.toChip.clockLost_reads F.GLB_CLK_STATUS_XTAL_LOST rfl (by decide) (by decide)
    exact ⟨_, exec_xtalLoss s, hlost, hseen, s.toChip.clockLost_frame _⟩
  · exact ⟨_, exec_clockReturn c f s hc, (Chip.rd_wr_same _ _ _ _).trans (Nat.zero_mod _), rfl, fun b g h => Chip.rd_wr_apart _ _ _ _ _ _ h⟩

end Sys2Proof.Machine
end

section
/-!
Ports (spec/09_ports_and_links.md R308, R391): what their registers and their link layers are apart from, and a port of mode OFF as it
leaves service.
-/
open Sys2Proof Sys2Proof.Machine
namespace Sys2Proof.Machine

/-! ### Registers of ports -/

/-- Fields of two different words share no bit. -/
theorem apart_of_words (a b : Nat) (f g : Fld) (h : a + 8 ≤ b ∨ b + 8 ≤ a) (hf : f.lo + f.width ≤ 64) (hg : g.lo + g.width ≤ 64) :
    apart a f b g := by
  unfold apart
  omega

theorem Chip.rd_wr_words (s : Chip) (a b : Nat) (f g : Fld) (v : Nat) (h : a + 8 ≤ b ∨ b + 8 ≤ a) (hf : f.lo + f.width ≤ 64)
    (hg : g.lo + g.width ≤ 64) : (s.wr a f v).rd b g = s.rd b g :=
  Chip.rd_wr_apart _ _ _ _ _ _ (apart_of_words a b f g h hf hg)

/-- A word at `b` that is none of the status, link and key registers of port `n`. -/
abbrev offPort (n b : Nat) : Prop := b + 8 ≤ A.PRT_STATUS n ∨ A.PRT_KEY_STATUS n + 8 ≤ b

theorem offPort_other (n m : Nat) (h : m ≠ n) : offPort n (A.PRT_STATUS m) := by
  unfold offPort A.PRT_STATUS A.PRT_KEY_STATUS
  omega

/-- The words above the port array's are none of a port's. -/
theorem offPort_above (n b : Nat) (hn : n < 128) (hb : 0x600000 ≤ b) : offPort n b := by
  unfold offPort A.PRT_KEY_STATUS
  omega

/-- A port's mode rests on words above the port array's. -/
theorem Chip.mode_of_rd {s t : Chip} (h : ∀ b (g : Fld), 0x600000 ≤ b → g.lo + g.width ≤ 64 → t.rd b g = s.rd b g) (m : Nat) :
    t.mode m = s.mode m := by
  unfold Chip.mode Chip.modeOf Chip.active
  rw [h A.RTE_EPOCH _ (by decide) (by decide), h (A.PRT_PROFILE _ m) _ (by unfold A.PRT_PROFILE; omega) (by decide)]

theorem Chip.mode_wr (s : Chip) (a : Nat) (f : Fld) (v m : Nat) (ha : a + 8 ≤ 0x600000) (hf : f.lo + f.width ≤ 64) :
    (s.wr a f v).mode m = s.mode m :=
  Chip.mode_of_rd (fun b g hb hg => s.rd_wr_words a b f g v (.inl (by omega)) hf hg) m

/-! ### The link layer of a port -/

@[simp] theorem Chip.port_modPort_same (s : Chip) (n : Nat) (f : Port → Port) : (s.modPort n f).port n = f (s.port n) := by
  unfold Chip.modPort Chip.port
  rw [Tab.find_put_same, Option.getD_some]

theorem Chip.port_modPort_other (s : Chip) (n m : Nat) (f : Port → Port) (h : m ≠ n) : (s.modPort n f).port m = s.port m :=
  congrArg (fun o => o.getD {}) (Tab.find_put_other s.ports _ _ _ h)

theorem Chip.rd_of_regs {s t : Chip} (h : t.regs = s.regs) (b : Nat) (g : Fld) : t.rd b g = s.rd b g := by
  unfold Chip.rd
  rw [h]

theorem Chip.port_of_ports {s t : Chip} (h : t.ports = s.ports) (m : Nat) : t.port m = s.port m := by
  unfold Chip.port
  rw [h]

/-! ### Out of service -/

/-- The registers of port `n` without a link: awake, without lanes, unkeyed and with no key update under way. -/
def Chip.unlinked (s : Chip) (n : Nat) : Chip :=
  (((s.portSet n F.PRT_STATUS_EAVES 0).portSet n F.PRT_STATUS_LANES 0).wrB (A.PRT_KEY_STATUS n) F.PRT_KEY_STATUS_KEYED false).wrB
    (A.PRT_KEY_STATUS n) F.PRT_KEY_STATUS_UPDATING false

/-- A link layer with no training under way. -/
def Port.atRest (p : Port) : Port :=
  { p with txTrain := [], busy := none, update := .idle, rotate := none, pattern := none, gangUp := false }

/-- The command that waits for a key update of port `n` told that the port is down. -/
def Chip.rotateDropped (s : Chip) (n : Nat) : Chip :=
  match (s.port n).rotate with
  | some j => s.modPool (fun q => { q with cmdDone := q.cmdDone ++ [(j, Status.portDown)] })
  | none => s

theorem Chip.rotateDropped_regs (s : Chip) (n : Nat) : (s.rotateDropped n).regs = s.regs := by
  unfold Chip.rotateDropped
  split <;> rfl

theorem Chip.rotateDropped_ports (s : Chip) (n : Nat) : (s.rotateDropped n).ports = s.ports := by
  unfold Chip.rotateDropped
  split <;> rfl

theorem Chip.rd_unlinked_off (s : Chip) (n b : Nat) (g : Fld) (hoff : offPort n b) (hg : g.lo + g.width ≤ 64) :
    (s.unlinked n).rd b g = s.rd b g := by
  unfold offPort A.PRT_STATUS A.PRT_KEY_STATUS at hoff
  have hstatus : A.PRT_STATUS n + 8 ≤ b ∨ b + 8 ≤ A.PRT_STATUS n := by unfold A.PRT_STATUS; omega
  have hkey : A.PRT_KEY_STATUS n + 8 ≤ b ∨ b + 8 ≤ A.PRT_KEY_STATUS n := by unfold A.PRT_KEY_STATUS; omega
  unfold Chip.unlinked Chip.wrB Chip.portSet
  rw [Chip.rd_wr_words _ _ _ _ _ _ hkey (by decide) hg, Chip.rd_wr_words _ _ _ _ _ _ hkey (by decide) hg,
    Chip.rd_wr_words _ _ _ _ _ _ hstatus (by decide) hg, Chip.rd_wr_words _ _ _ _ _ _ hstatus (by decide) hg]

theorem Chip.unlinked_ports (s : Chip) (n : Nat) : (s.unlinked n).ports = s.ports := rfl

theorem Chip.inService_unlinked (s : Chip) (n : Nat) : (s.unlinked n).inService n = s.inService n := by
  have hkey : A.PRT_KEY_STATUS n + 8 ≤ A.PRT_STATUS n ∨ A.PRT_STATUS n + 8 ≤ A.PRT_KEY_STATUS n := by
    unfold A.PRT_STATUS A.PRT_KEY_STATUS
    omega
  refine Chip.flag_eq_of_rd ?_
  unfold Chip.unlinked Chip.wrB Chip.portSet
  rw [Chip.rd_wr_words _ _ _ _ _ _ hkey (by decide) (by decide), Chip.rd_wr_words _ _ _ _ _ _ hkey (by decide) (by decide),
    Chip.rd_wr_disjoint _ _ _ _ _ (by decide), Chip.rd_wr_disjoint _ _ _ _ _ (by decide)]

theorem Chip.freshProgram_off (s : Chip) (n : Nat) (h : s.mode n = modeOFF) : s.freshProgram n = s :=
  if_pos (by rw [h]; rfl)

theorem Chip.depart_of_out (s : Chip) (n : Nat) (hout : s.inService n = false) : s.depart n
    = ((((s.unlinked n).stopTimer (.training n)).rotateDropped n).modPort n Port.atRest).freshProgram n := by
  unfold Chip.depart
  rw [hout]
  rfl

section Depart
variable (s : Chip) (n : Nat) (hn : n < 128) (hmode : s.mode n = modeOFF) (hout : s.inService n = false)
include hn hmode hout

/-- A port of mode OFF that is out of service takes no program as it departs. -/
theorem Chip.depart_off :
    s.depart n = (((s.unlinked n).stopTimer (.training n)).rotateDropped n).modPort n Port.atRest := by
  have hregs : ((((s.unlinked n).stopTimer (.training n)).rotateDropped n).modPort n Port.atRest).regs = (s.unlinked n).regs := by
    rw [Chip.modPort_regs, Chip.rotateDropped_regs, Chip.stopTimer_regs]
  rw [s.depart_of_out n hout, Chip.freshProgram_off]
  rw [← hmode]
  exact Chip.mode_of_rd (fun b g hb hg => (Chip.rd_of_regs hregs b g).trans (s.rd_unlinked_off n b g (offPort_above n b hn hb) hg)) n

theorem Chip.depart_off_regs : (s.depart n).regs = (s.unlinked n).regs := by
  rw [s.depart_off n hn hmode hout, Chip.modPort_regs, Chip.rotateDropped_regs, Chip.stopTimer_regs]

theorem Chip.depart_off_port (m : Nat) (hm : m ≠ n) : (s.depart n).port m = s.port m := by
  rw [s.depart_off n hn hmode hout, Chip.port_modPort_other _ _ _ _ hm]
  exact Chip.port_of_ports (by rw [Chip.rotateDropped_ports, Chip.stopTimer_ports, Chip.unlinked_ports]) m

end Depart

end Sys2Proof.Machine
end

section
/-!
The clocks of the fabric ports (spec/09_ports_and_links.md R314, spec/17_electrical_and_package.md R526): an input of REFCLK_FAB that is
lost, or returns, and its 16 ports.
-/
open Sys2Proof Sys2Proof.Machine
namespace Sys2Proof.Machine

/-! ### A port without its clock -/

/-- Port `n` parked for want of its clock. -/
def Chip.darkened (s : Chip) (n : Nat) : Chip :=
  ((s.goDown n 1).portSet n F.PRT_STATUS_TRAIN_STATE 0).portSet n F.PRT_STATUS_REFCLK_LOST 1

/-- Port `n` reads REFCLK_LOST and is parked. -/
def Chip.isDark (s : Chip) (n : Nat) : Prop := s.flag (A.PRT_STATUS n) F.PRT_STATUS_REFCLK_LOST = true ∧ (s.port n).parked = true

theorem Chip.goDown_parks (s : Chip) (n : Nat) :
    s.goDown n 1 = ((s.depart n).modPort n (fun p => { p with parked := true })).stopTimer (.backoff n) := by
  unfold Chip.goDown
  dsimp only
  rw [if_neg (by decide)]

theorem Chip.darkened_port (s : Chip) (n m : Nat) :
    (s.darkened n).port m = ((s.depart n).modPort n (fun p => { p with parked := true })).port m := by
  unfold Chip.darkened Chip.portSet
  rw [Chip.goDown_parks]
  exact Chip.port_of_ports (by rw [Chip.wr_ports, Chip.wr_ports, Chip.stopTimer_ports]) m

theorem Chip.darkened_isDark (s : Chip) (n : Nat) : (s.darkened n).isDark n := by
  constructor
  · unfold Chip.flag Chip.darkened Chip.portSet
    rw [Chip.rd_wr_same]
    rfl
  · rw [Chip.darkened_port, Chip.port_modPort_same]

section Darkened
variable (s : Chip) (n : Nat) (hn : n < 128) (hmode : s.mode n = modeOFF) (hout : s.inService n = false)
include hn hmode hout

theorem Chip.rd_goDown_off (b : Nat) (g : Fld) : (s.goDown n 1).rd b g = (s.unlinked n).rd b g := by
  rw [Chip.goDown_parks]
  exact Chip.rd_of_regs (by rw [Chip.stopTimer_regs, Chip.modPort_regs, s.depart_off_regs n hn hmode hout]) b g

theorem Chip.rd_darkened_off (b : Nat) (g : Fld) (hoff : offPort n b) (hg : g.lo + g.width ≤ 64) :
    (s.darkened n).rd b g = s.rd b g := by
  have hword : A.PRT_STATUS n + 8 ≤ b ∨ b + 8 ≤ A.PRT_STATUS n := by
    unfold offPort A.PRT_STATUS A.PRT_KEY_STATUS at hoff
    unfold A.PRT_STATUS
    omega
  unfold Chip.darkened Chip.portSet
  rw [Chip.rd_wr_words _ _ _ _ _ _ hword (by decide) hg, Chip.rd_wr_words _ _ _ _ _ _ hword (by decide) hg,
    s.rd_goDown_off n hn hmode hout, s.rd_unlinked_off n b g hoff hg]

theorem Chip.inService_darkened : (s.darkened n).inService n = false := by
  rw [← hout, ← s.inService_unlinked n]
  refine Chip.flag_eq_of_rd ?_
  unfold Chip.darkened Chip.portSet
  rw [Chip.rd_wr_disjoint _ _ _ _ _ (by decide), Chip.rd_wr_disjoint _ _ _ _ _ (by decide), s.rd_goDown_off n hn hmode hout]

theorem Chip.port_darkened_other (m : Nat) (hm : m ≠ n) : (s.darkened n).port m = s.port m := by
  rw [Chip.darkened_port, Chip.port_modPort_other _ _ _ _ hm, s.depart_off_port n hn hmode hout m hm]

end Darkened

/-! ### The loss of an input -/

/-- The ports of an input are of mode OFF and out of service. -/
def Chip.fabIdle (s : Chip) (k : Nat) : Prop := ∀ n, n / 16 = k → s.mode n = modeOFF ∧ s.inService n = false

/-- `t` is `s` while ports of input `k` are darkened: they stay idle, and other ports and registers are as they were. -/
structure Chip.Darkening (s : Chip) (k : Nat) (t : Chip) : Prop where
  idle : t.fabIdle k
  rd : ∀ b (g : Fld), (∀ n, n / 16 = k → offPort n b) → g.lo + g.width ≤ 64 → t.rd b g = s.rd b g
  port : ∀ m, m / 16 ≠ k → t.port m = s.port m

section Input
variable {s t : Chip} {k : Nat} (hk : k < 8) (h : s.Darkening k t)
include hk h

theorem Chip.Darkening.darkened (n : Nat) (hn : n / 16 = k) : s.Darkening k (t.darkened n) := by
  have hport : n < 128 := by omega
  obtain ⟨hmode, hout⟩ := h.idle n hn
  have hrd := t.rd_darkened_off n hport hmode hout
  refine ⟨fun m hm => ⟨?_, ?_⟩, fun b g hb hg => (hrd b g (hb n hn) hg).trans (h.rd b g hb hg), fun m hm => ?_⟩
  · rw [Chip.mode_of_rd (fun b g hb hg => hrd b g (offPort_above n b hport hb) hg) m, (h.idle m hm).1]
  · by_cases he : m = n
    · rw [he, t.inService_darkened n hport hmode hout]
    · rw [← (h.idle m hm).2]
      exact Chip.flag_eq_of_rd (hrd _ _ (offPort_other n m he) (by decide))
  · rw [t.port_darkened_other n hport hmode hout m (fun e => hm (e ▸ hn)), h.port m hm]

theorem Chip.Darkening.keeps_dark (n m : Nat) (hn : n / 16 = k) (hdark : t.isDark m) : (t.darkened n).isDark m := by
  by_cases he : m = n
  · rw [he]
    exact t.darkened_isDark n
  · have hport : n < 128 := by omega
    obtain ⟨hmode, hout⟩ := h.idle n hn
    unfold Chip.isDark
    rw [t.port_darkened_other n hport hmode hout m he,
      Chip.flag_eq_of_rd (t.rd_darkened_off n hport hmode hout _ _ (offPort_other n m he) (by decide))]
    exact hdark

theorem Chip.Darkening.foldl (l : List Nat) (hl : ∀ n ∈ l, n / 16 = k) : s.Darkening k (l.foldl Chip.darkened t) :=
  List.foldlRecOn l _ (motive := s.Darkening k) h fun _ hu n hn => Chip.Darkening.darkened hk hu n (hl n hn)

theorem Chip.Darkening.foldl_dark (l : List Nat) (hl : ∀ n ∈ l, n / 16 = k) (m : Nat) (hm : m ∈ l) :
    (l.foldl Chip.darkened t).isDark m := by
  obtain ⟨before, later, rfl⟩ := List.append_of_mem hm
  have hbefore := Chip.Darkening.foldl hk h before fun n hn => hl n (List.mem_append_left _ hn)
  have hthere := Chip.Darkening.darkened hk hbefore m (hl m hm)
  rw [List.foldl_append, List.foldl_cons]
  exact (List.foldlRecOn later _ (motive := fun u => s.Darkening k u ∧ u.isDark m) ⟨hthere, Chip.darkened_isDark _ m⟩
    fun u hu n hn => have hin := hl n (List.mem_append_right _ (List.mem_cons_of_mem m hn))
      ⟨Chip.Darkening.darkened hk hu.1 n hin, Chip.Darkening.keeps_dark hk hu.1 n m hin hu.2⟩).2

end Input

theorem mem_ports_of_input (k n : Nat) : n ∈ upFrom (16 * k) 16 ↔ n / 16 = k := mem_queues_of_function k n

/-- The part with the bit of input `k` set, and the bit that a clock has been lost. -/
def Chip.fabMarked (s : Chip) (k : Nat) : Chip :=
  (s.wr A.GLB_CLK_STATUS F.GLB_CLK_STATUS_REFCLK_FAB_LOST
    (putBit (s.rd A.GLB_CLK_STATUS F.GLB_CLK_STATUS_REFCLK_FAB_LOST) k true)).wr A.GLB_CLK_STATUS F.GLB_CLK_STATUS_CLK_LOST_SEEN 1

theorem Chip.fabLost_eq (s : Chip) (k : Nat) : s.fabLost k = (upFrom (16 * k) 16).foldl Chip.darkened (s.fabMarked k) := rfl

theorem Chip.rd_fabMarked_above (s : Chip) (k b : Nat) (g : Fld) (hb : 0x400000 ≤ b) (hg : g.lo + g.width ≤ 64) :
    (s.fabMarked k).rd b g = s.rd b g := by
  have hword : A.GLB_CLK_STATUS + 8 ≤ b := by unfold A.GLB_CLK_STATUS; omega
  unfold Chip.fabMarked
  rw [Chip.rd_wr_words _ _ _ _ _ _ (.inl hword) (by decide) hg, Chip.rd_wr_words _ _ _ _ _ _ (.inl hword) (by decide) hg]

theorem Chip.fabMarked_reads (s : Chip) (k : Nat) (hk : k < 8) :
    bitAt ((s.fabMarked k).rd A.GLB_CLK_STATUS F.GLB_CLK_STATUS_REFCLK_FAB_LOST) k = true
      ∧ (s.fabMarked k).flag A.GLB_CLK_STATUS F.GLB_CLK_STATUS_CLK_LOST_SEEN = true := by
  unfold Chip.fabMarked Chip.flag
  rw [Chip.rd_wr_same, Chip.rd_wr_disjoint _ _ _ _ _ (by decide), Chip.rd_wr_same,
    bitAt_mod _ _ F.GLB_CLK_STATUS_REFCLK_FAB_LOST.width hk, bitAt_putBit_same]
  decide

/-- The mark leaves the ports as they are. -/
theorem Chip.fabMarked_idle (s : Chip) (k : Nat) (h : s.fabIdle k) : (s.fabMarked k).fabIdle k := fun n hn => by
  obtain ⟨hmode, hout⟩ := h n hn
  refine ⟨?_, ?_⟩
  · rw [← hmode]
    exact Chip.mode_of_rd (fun b g hb hg => s.rd_fabMarked_above k b g (by omega) hg) n
  · rw [← hout]
    exact Chip.flag_eq_of_rd (s.rd_fabMarked_above k _ _ (by unfold A.PRT_STATUS; omega) (by decide))

/-! ### The return of an input -/

/-- Port `n` has its clock again. -/
def Chip.relit (s : Chip) (n : Nat) : Chip := s.portSet n F.PRT_STATUS_REFCLK_LOST 0

/-- `t` is `s` while ports of input `k` get their clock back: all of mode OFF, and no register but theirs changed. -/
structure Chip.Relighting (s : Chip) (k : Nat) (t : Chip) : Prop where
  off : ∀ m, m / 16 = k → t.mode m = modeOFF
  rd : t.rd A.GLB_CLK_STATUS F.GLB_CLK_STATUS_REFCLK_FAB_LOST = s.rd A.GLB_CLK_STATUS F.GLB_CLK_STATUS_REFCLK_FAB_LOST
  frame : t = { s with regs := t.regs }

/-- What the return of an input does at port `n`: a port of a mode retrains. -/
def Chip.clockBack (s : Chip) (n : Nat) : Chip := if (s.relit n).mode n == modeOFF then s.relit n else (s.relit n).retrain n

theorem Chip.mode_relit (s : Chip) (n m : Nat) (hn : n < 128) : (s.relit n).mode m = s.mode m :=
  s.mode_wr _ _ _ m (by unfold A.PRT_STATUS; omega) (by decide)

section Return
variable {s t : Chip} {k : Nat} (hk : k < 8) (h : s.Relighting k t)
include hk h

theorem Chip.Relighting.clockBack_eq (n : Nat) (hn : n / 16 = k) : t.clockBack n = t.relit n :=
  if_pos (by rw [t.mode_relit n n (by omega), h.off n hn]; rfl)

theorem Chip.Relighting.clockBack (n : Nat) (hn : n / 16 = k) : s.Relighting k (t.clockBack n) := by
  rw [Chip.Relighting.clockBack_eq hk h n hn]
  refine ⟨fun m hm => (t.mode_relit n m (by omega)).trans (h.off m hm), ?_, ?_⟩
  · exact (t.rd_wr_words _ _ _ _ _ (.inr (by unfold A.PRT_STATUS A.GLB_CLK_STATUS; omega)) (by decide) (by decide)).trans h.rd
  · rw [h.frame]
    rfl

theorem Chip.Relighting.keeps_lit (n m : Nat) (hn : n / 16 = k) (hlit : t.flag (A.PRT_STATUS m) F.PRT_STATUS_REFCLK_LOST = false ∨ m = n) :
    (t.clockBack n).flag (A.PRT_STATUS m) F.PRT_STATUS_REFCLK_LOST = false := by
  rw [Chip.Relighting.clockBack_eq hk h n hn]
  by_cases he : m = n
  · unfold Chip.flag Chip.relit Chip.portSet
    rw [he, Chip.rd_wr_same]
    rfl
  · rw [← hlit.resolve_right he]
    exact Chip.flag_eq_of_rd (t.rd_wr_words _ _ _ _ _ (by unfold A.PRT_STATUS; omega) (by decide) (by decide))

theorem Chip.Relighting.foldl (l : List Nat) (hl : ∀ n ∈ l, n / 16 = k) : s.Relighting k (l.foldl Chip.clockBack t) :=
  List.foldlRecOn l _ (motive := s.Relighting k) h fun _ hu n hn => Chip.Relighting.clockBack hk hu n (hl n hn)

theorem Chip.Relighting.foldl_lit (l : List Nat) (hl : ∀ n ∈ l, n / 16 = k) (m : Nat) (hm : m ∈ l) :
    (l.foldl Chip.clockBack t).flag (A.PRT_STATUS m) F.PRT_STATUS_REFCLK_LOST = false := by
  obtain ⟨before, later, rfl⟩ := List.append_of_mem hm
  have hbefore := Chip.Relighting.foldl hk h before fun n hn => hl n (List.mem_append_left _ hn)
  have hin := hl m hm
  rw [List.foldl_append, List.foldl_cons]
  exact (List.foldlRecOn later _ (motive := fun u => s.Relighting k u ∧ u.flag (A.PRT_STATUS m) F.PRT_STATUS_REFCLK_LOST = false)
    ⟨Chip.Relighting.clockBack hk hbefore m hin, Chip.Relighting.keeps_lit hk hbefore m m hin (.inr rfl)⟩
    fun u hu n hn => have hin := hl n (List.mem_append_right _ (List.mem_cons_of_mem m hn))
      ⟨Chip.Relighting.clockBack hk hu.1 n hin, Chip.Relighting.keeps_lit hk hu.1 n m hin (.inl hu.2)⟩).2

end Return

/-- The part with the bit of input `k` clear. -/
def Chip.fabUnmarked (s : Chip) (k : Nat) : Chip :=
  s.wr A.GLB_CLK_STATUS F.GLB_CLK_STATUS_REFCLK_FAB_LOST (putBit (s.rd A.GLB_CLK_STATUS F.GLB_CLK_STATUS_REFCLK_FAB_LOST) k false)

theorem Chip.fabBack_eq (s : Chip) (k : Nat) : s.fabBack k = (upFrom (16 * k) 16).foldl Chip.clockBack (s.fabUnmarked k) := rfl

theorem Chip.fabUnmarked_read (s : Chip) (k : Nat) (hk : k < 8) :
    bitAt ((s.fabUnmarked k).rd A.GLB_CLK_STATUS F.GLB_CLK_STATUS_REFCLK_FAB_LOST) k = false := by
  unfold Chip.fabUnmarked
  rw [Chip.rd_wr_same, bitAt_mod _ _ F.GLB_CLK_STATUS_REFCLK_FAB_LOST.width hk, bitAt_putBit_same]

/-! ### The commands -/

theorem exec_refclkFabLoss (k : Fin 8) (s : State) : exec (.refclkFabLoss k) s = .next (s.after (s.fabLost k.val)) := rfl
theorem exec_refclkFabReturn (k : Fin 8) (s : State) : exec (.refclkFabReturn k) s = .next (s.after (s.fabBack k.val)) := rfl

/-- Settles O20: the 16 ports are darkened, or get their clock back, one after another, and none touches another. -/
theorem fabricClockCoversSixteenPorts : Obligations.FabricClockCoversSixteenPorts := by
  unfold Obligations.FabricClockCoversSixteenPorts
  intro k s hidle
  have hk := k.isLt
  have hl : ∀ n ∈ upFrom (16 * k.val) 16, n / 16 = k.val := fun n hn => (mem_ports_of_input k.val n).1 hn
  refine ⟨⟨_, exec_refclkFabLoss k s, ?_⟩, _, exec_refclkFabReturn k s, ?_⟩
  · have hstart : (s.fabMarked k.val).Darkening k.val (s.fabMarked k.val) :=
      ⟨s.toChip.fabMarked_idle k.val hidle, fun _ _ _ _ => rfl, fun _ _ => rfl⟩
    have hend := Chip.Darkening.foldl hk hstart _ hl
    have hclock : ∀ n, n / 16 = k.val → offPort n A.GLB_CLK_STATUS := fun n _ =>
      .inl (by unfold A.GLB_CLK_STATUS A.PRT_STATUS; omega)
    obtain ⟨hbit, hseen⟩ := s.toChip.fabMarked_reads k.val hk
    rw [Chip.fabLost_eq]
    refine ⟨?_, ?_, fun n hn => Chip.Darkening.foldl_dark hk hstart _ hl n ((mem_ports_of_input k.val n).2 hn), fun n _ hother => ⟨?_, ?_⟩⟩
    · rw [hend.rd _ _ hclock (by decide), hbit]
    · rw [Chip.flag_eq_of_rd (hend.rd _ _ hclock (by decide)), hseen]
    · exact hend.port n hother
    · refine Chip.flag_eq_of_rd ((hend.rd _ _ (fun m hm => offPort_other m n fun e => hother (e ▸ hm)) (by decide)).trans ?_)
      exact s.toChip.rd_fabMarked_above k.val _ _ (by unfold A.PRT_STATUS; omega) (by decide)
  · have hstart : (s.fabUnmarked k.val).Relighting k.val (s.fabUnmarked k.val) := by
      refine ⟨fun m hm => ?_, rfl, rfl⟩
      rw [← (hidle m hm).1]
      exact s.toChip.mode_wr _ _ _ m (by decide) (by decide)
    have hend := Chip.Relighting.foldl hk hstart _ hl
    rw [Chip.fabBack_eq]
    refine ⟨?_, fun n hn => Chip.Relighting.foldl_lit hk hstart _ hl n ((mem_ports_of_input k.val n).2 hn), hend.frame⟩
    rw [hend.rd, s.toChip.fabUnmarked_read k.val hk]

end Sys2Proof.Machine
end

section
/-!
The training machine of a port (spec/09_ports_and_links.md R308, R315, R326, R327, R329 to R331, R341): the entry that an event takes,
training messages, and the actions that end later.
-/
open Sys2Proof Sys2Proof.Machine
namespace Sys2Proof.Machine

/-! ### What the registers and the records leave of a port's link layer, and the link layer of the registers -/

@[simp] theorem Chip.port_wr (s : Chip) (a : Nat) (f : Fld) (v n : Nat) : (s.wr a f v).port n = s.port n := rfl
@[simp] theorem Chip.port_wrB (s : Chip) (a : Nat) (f : Fld) (v : Bool) (n : Nat) : (s.wrB a f v).port n = s.port n := rfl
@[simp] theorem Chip.port_wrap (s : Chip) (a : Nat) (f : Fld) (v n : Nat) : (s.wrap a f v).port n = s.port n := rfl
@[simp] theorem Chip.port_count (s : Chip) (a : Nat) (f : Fld) (n : Nat) : (s.count a f).port n = s.port n := rfl
@[simp] theorem Chip.port_portSet (s : Chip) (m : Nat) (f : Fld) (v n : Nat) : (s.portSet m f v).port n = s.port n := rfl
@[simp] theorem Chip.port_log (s : Chip) (r : LogRec) (n : Nat) : (s.log r).port n = s.port n := Chip.port_of_ports (Chip.log_ports s r) n
@[simp] theorem Chip.port_startTimer (s : Chip) (t : Timer) (k n : Nat) : (s.startTimer t k).port n = s.port n := rfl
@[simp] theorem Chip.port_emitOut (s : Chip) (e : OutEv) (n : Nat) : (s.emitOut e).port n = s.port n := rfl
@[simp] theorem Chip.rd_modPort (s : Chip) (n : Nat) (f : Port → Port) (b : Nat) (g : Fld) : (s.modPort n f).rd b g = s.rd b g := rfl
@[simp] theorem Chip.rd_startTimer (s : Chip) (t : Timer) (k b : Nat) (g : Fld) : (s.startTimer t k).rd b g = s.rd b g := rfl

@[simp] theorem Chip.portSet_pool (s : Chip) (n : Nat) (f : Fld) (v : Nat) : (s.portSet n f v).pool = s.pool := rfl
@[simp] theorem Chip.portSet_seq (s : Chip) (n : Nat) (f : Fld) (v : Nat) : (s.portSet n f v).seq = s.seq := rfl

theorem Chip.rd_portSet_same (s : Chip) (n : Nat) (f : Fld) (v : Nat) : (s.portSet n f v).rd (A.PRT_STATUS n) f = v % 2 ^ f.width :=
  Chip.rd_wr_same _ _ _ _

theorem Chip.rd_portSet_disjoint (s : Chip) (n : Nat) (f g : Fld) (v : Nat) (h : f.disjoint g) :
    (s.portSet n f v).rd (A.PRT_STATUS n) g = s.rd (A.PRT_STATUS n) g := Chip.rd_wr_disjoint _ _ _ _ _ h

/-- A port's status lies outside the block of error registers. -/
theorem notErr_PRT_STATUS (n : Nat) (f : Fld) (hn : n < 128) (hf : f.lo + f.width ≤ 64) : notErr (A.PRT_STATUS n) f := by
  unfold notErr A.PRT_STATUS
  omega

/-! ### The entry that an event takes (R329) -/

theorem Chip.trainEvent_enabled (s : Chip) (n ev code : Nat) (h : s.mode n ≠ 0) : s.trainEvent n ev code = s.trainRun 64 n ev code :=
  if_neg (by simpa using h)

section Unmatched
variable (s : Chip) (n ev code : Nat) (hmode : s.mode n ≠ 0) (hnone : s.trainEntry n (s.trainState n) ev code = none)
include hmode hnone

theorem Chip.trainEvent_unmatched : s.trainEvent n ev code = if s.inService n then s.count (A.PRT_STATUS n) F.PRT_STATUS_UNMATCHED
    else (s.goDown n 0).portSet n F.PRT_STATUS_TRAIN_STATE 0 := by
  rw [s.trainEvent_enabled n ev code hmode, Chip.trainRun, hnone]

theorem Chip.trainEvent_counts (hin : s.inService n = true) :
    s.trainEvent n ev code = s.count (A.PRT_STATUS n) F.PRT_STATUS_UNMATCHED := by
  rw [s.trainEvent_unmatched n ev code hmode hnone, if_pos hin]

theorem Chip.trainEvent_downs (hout : s.inService n = false) : (s.trainEvent n ev code).trainState n = 0 := by
  rw [s.trainEvent_unmatched n ev code hmode hnone, hout, if_neg (by decide)]
  exact Chip.rd_portSet_same _ _ _ _

end Unmatched

theorem Chip.trainEntry_mem (s : Chip) (n st ev code a : Nat) (h : s.trainEntry n st ev code = some a) : ∃ e, a = A.PRT_TRAIN n e := by
  obtain ⟨e, -, he⟩ := List.mem_map.1 (List.mem_of_find?_eq_some h)
  exact ⟨e, he.symm⟩

/-- The port in the entry's next state, its timer started where the entry names one. -/
def Chip.entryTaken (s : Chip) (n a : Nat) : Chip :=
  let t := s.portSet n F.PRT_STATUS_TRAIN_STATE (s.rd a F.PRT_TRAIN_NEXT)
  let k := s.rd a F.PRT_TRAIN_TIMER
  if t.trainTimer n k != 0 then t.startTimer (.training n) (us (t.trainTimer n k)) else t

/-- The words of a port's program lie above its status. -/
theorem Chip.rd_portSet_program (s : Chip) (n : Nat) (f : Fld) (v b : Nat) (g : Fld) (hf : f.lo + f.width ≤ 64) (hg : g.lo + g.width ≤ 64)
    (hb : A.PRT_TRAIN n 0 ≤ b) : (s.portSet n f v).rd b g = s.rd b g :=
  s.rd_wr_words _ _ _ _ _ (.inl (by unfold A.PRT_TRAIN at hb; unfold A.PRT_STATUS; omega)) hf hg

theorem Chip.trainTimer_portSet (s : Chip) (n : Nat) (f : Fld) (v k : Nat) (hf : f.lo + f.width ≤ 64) :
    (s.portSet n f v).trainTimer n k = s.trainTimer n k := by
  have hb : A.PRT_TRAIN n 0 ≤ A.PRT_TRAIN_TIMER n (k / 2) := by unfold A.PRT_TRAIN A.PRT_TRAIN_TIMER; omega
  unfold Chip.trainTimer
  rw [Chip.rd_portSet_program s n f v _ _ hf ?_ hb]
  split <;> decide

section Taken
variable (s : Chip) (n : Nat)

theorem Chip.rd_entryTaken_program (b : Nat) (g : Fld) (hg : g.lo + g.width ≤ 64) (hb : A.PRT_TRAIN n 0 ≤ b) (a : Nat) :
    (s.entryTaken n a).rd b g = s.rd b g := by
  unfold Chip.entryTaken
  dsimp only
  split
  · rw [Chip.rd_startTimer, s.rd_portSet_program n _ _ b g (by decide) hg hb]
  · exact s.rd_portSet_program n _ _ b g (by decide) hg hb

theorem Chip.entryTaken_state (a : Nat) : (s.entryTaken n a).trainState n = s.rd a F.PRT_TRAIN_NEXT := by
  have hset : (s.portSet n F.PRT_STATUS_TRAIN_STATE (s.rd a F.PRT_TRAIN_NEXT)).trainState n = s.rd a F.PRT_TRAIN_NEXT :=
    (Chip.rd_portSet_same _ _ _ _).trans (Nat.mod_eq_of_lt (s.rd_lt a F.PRT_TRAIN_NEXT))
  unfold Chip.entryTaken
  dsimp only
  split
  · exact hset
  · exact hset

theorem Chip.entryTaken_frame (a : Nat) :
    s.entryTaken n a = { s with regs := (s.entryTaken n a).regs, timers := (s.entryTaken n a).timers } := by
  unfold Chip.entryTaken
  dsimp only
  split <;> rfl

theorem Chip.entryTaken_due (a : Nat) (h : s.trainTimer n (s.rd a F.PRT_TRAIN_TIMER) ≠ 0) :
    (s.entryTaken n a).due (.training n) = some (s.raw + us (s.trainTimer n (s.rd a F.PRT_TRAIN_TIMER))) := by
  unfold Chip.entryTaken
  simp only [s.trainTimer_portSet n F.PRT_STATUS_TRAIN_STATE _ _ (by decide), bne_iff_ne.2 h, if_true]
  exact Chip.due_startTimer_same _ _ _

/-- An entry without an action is taken, and no more. -/
theorem Chip.trainEvent_plain (ev code a : Nat) (hmode : s.mode n ≠ 0) (hentry : s.trainEntry n (s.trainState n) ev code = some a)
    (haction : s.rd a F.PRT_TRAIN_ACTION = 0) : s.trainEvent n ev code = s.entryTaken n a := by
  obtain ⟨e, he⟩ := s.trainEntry_mem n _ ev code a hentry
  have hb : A.PRT_TRAIN n 0 ≤ a := by rw [he]; unfold A.PRT_TRAIN; omega
  have hkept := (s.rd_entryTaken_program n a F.PRT_TRAIN_ACTION (by decide) hb a).trans haction
  unfold Chip.entryTaken at hkept ⊢
  rw [s.trainEvent_enabled n ev code hmode, Chip.trainRun, hentry]
  dsimp only at hkept ⊢
  rw [hkept]
  rfl

end Taken

/-! ### Training messages (R330) -/

theorem Chip.trainMessage_ignored (s : Chip) (n : Nat) (m : TrainMsg) (h : trainMsgOk m = false ∨ (s.port n).rxTrainSeq = some m.seq) :
    s.trainMessage n m true = s := by
  unfold Chip.trainMessage
  rw [if_pos]
  rcases h with h | h <;> simp [h]

theorem Chip.trainMessage_raised (s : Chip) (n : Nat) (m : TrainMsg) (hok : trainMsgOk m = true)
    (hnew : (s.port n).rxTrainSeq ≠ some m.seq) (hcode : 3 ≤ m.code) : s.trainMessage n m true
      = (s.modPort n (fun p => { p with rxTrainSeq := some m.seq })).trainEvent n tevMSG_IN m.code := by
  have hid : (m.code == 1) = false := beq_false_of_ne (by omega)
  have hkey : (m.code == 2) = false := beq_false_of_ne (by omega)
  have hseq : ((s.port n).rxTrainSeq == some m.seq) = false := beq_false_of_ne hnew
  simp only [Chip.trainMessage, hok, hseq, hid, hkey, Bool.not_true, Bool.or_self, Bool.false_eq_true, if_false]

/-! ### Timers and a retrain -/

theorem Chip.trainExpired_some (s c : Chip) (n : Nat) (h : s.expire (.training n) = some c) : s.trainExpired n = c.trainEvent n tevTIMER 0 := by
  simp only [Chip.trainExpired, h]
theorem Chip.trainExpired_none (s : Chip) (n : Nat) (h : s.expire (.training n) = none) : s.trainExpired n = s := by
  simp only [Chip.trainExpired, h]
theorem Chip.backoffOver_some (s c : Chip) (n : Nat) (h : s.expire (.backoff n) = some c) : s.backoffOver n = c.enable n := by
  simp only [Chip.backoffOver, h]
theorem Chip.backoffOver_none (s : Chip) (n : Nat) (h : s.expire (.backoff n) = none) : s.backoffOver n = s := by
  simp only [Chip.backoffOver, h]

theorem Chip.portControl_retrain (s : Chip) (n : Nat) : s.portControl n true false
    = if s.mode n = 0 then s.logReg .busy .portArray (A.PRT_CTL n) else s.retrain n := by
  by_cases h : s.mode n = 0
  · simp [Chip.portControl, modeOFF, h]
  · simp [Chip.portControl, modeOFF, h]

/-! ### Actions that end later -/

/-- Port `n` once the action that was under way has ended. -/
def Chip.actionEnded (s : Chip) (n : Nat) : Chip := s.modPort n (fun p => { p with busy := none })

theorem Chip.actionDone_other (s : Chip) (n act : Nat) (f : Chip → Chip) (h : (s.port n).busy ≠ some act) : s.actionDone n act f = s := by
  unfold Chip.actionDone
  rw [if_neg (by simpa using h)]

theorem Chip.actionDone_same (s : Chip) (n act : Nat) (f : Chip → Chip) (h : (s.port n).busy = some act) :
    s.actionDone n act f = f (s.actionEnded n) := by
  unfold Chip.actionDone
  rw [if_pos (beq_iff_eq.2 h)]
  rfl

theorem Chip.port_actionEnded (s : Chip) (n : Nat) : (s.actionEnded n).port n = { s.port n with busy := none } :=
  s.port_modPort_same n _

/-- What every end of an action does: the action is no longer under way, and pool and sequencer are as they were. -/
structure Chip.EndsAction (s : Chip) (n : Nat) (u : Chip) : Prop where
  busy : (u.port n).busy = none
  pool : u.pool = s.pool
  seq : u.seq = s.seq

theorem Chip.actionEnded_ends (s : Chip) (n : Nat) : s.EndsAction n (s.actionEnded n) :=
  ⟨congrArg Port.busy (s.port_actionEnded n), rfl, rfl⟩

/-! The self-test of the lanes (R315). -/

/-- Port `n` with the outcome of its self-test: the failed lanes, and where none failed its four lanes in use. -/
def Chip.laneTested (s : Chip) (n failed : Nat) : Chip :=
  (s.actionEnded n).modPort n (fun p => { p with failed := failed % 16, width := if failed % 16 == 0 then 4 else p.width })
def Chip.fullWidth (s : Chip) (n : Nat) : Chip := (s.portSet n F.PRT_STATUS_LANES 4).portSet n F.PRT_STATUS_DEGRADED 0

theorem Chip.selfTested_passed (s : Chip) (n : Nat) (h : (s.port n).busy = some tactSELF_TEST) :
    s.selfTested n 0 = ((s.laneTested n 0).fullWidth n).trainEvent n tevCHECK_PASS 0 := by
  unfold Chip.selfTested
  rw [s.actionDone_same n _ _ h]
  dsimp only
  rw [if_pos (by decide)]
  rfl

theorem Chip.selfTested_failed (s : Chip) (n failed : Nat) (h : (s.port n).busy = some tactSELF_TEST) (hlane : failed % 16 ≠ 0) :
    s.selfTested n failed = (s.laneTested n failed).trainEvent n tevLANE_FAIL 0 := by
  unfold Chip.selfTested
  rw [s.actionDone_same n _ _ h]
  dsimp only
  rw [if_neg (by simpa using hlane)]
  rfl

theorem Chip.port_laneTested (s : Chip) (n failed : Nat) : (s.laneTested n failed).port n
    = { s.port n with busy := none, failed := failed % 16, width := if failed % 16 == 0 then 4 else (s.port n).width } := by
  unfold Chip.laneTested
  rw [Chip.port_modPort_same, Chip.port_actionEnded]

theorem Chip.laneTested_ends (s : Chip) (n failed : Nat) : s.EndsAction n (s.laneTested n failed) :=
  ⟨congrArg Port.busy (s.port_laneTested n failed), rfl, rfl⟩

theorem Chip.fullWidth_reads (s : Chip) (n : Nat) : (s.fullWidth n).rd (A.PRT_STATUS n) F.PRT_STATUS_LANES = 4
    ∧ (s.fullWidth n).flag (A.PRT_STATUS n) F.PRT_STATUS_DEGRADED = false := by
  unfold Chip.fullWidth Chip.flag
  rw [Chip.rd_portSet_disjoint _ _ _ _ _ (by decide), Chip.rd_portSet_same, Chip.rd_portSet_same]
  decide

/-! The spare lane (R315). -/

/-- The lowest of the lanes that failed. -/
def failedLane (failed : Nat) : Option Nat := (upFrom 0 4).find? (fun j => bitAt failed j)

theorem failedLane_lt (failed lane : Nat) (h : failedLane failed = some lane) : lane < 4 := by
  have hmem := List.mem_range'_1.1 (List.mem_of_find?_eq_some h)
  omega

/-- Port `n` with its spare steered onto a lane. -/
def Chip.steered (s : Chip) (n lane : Nat) : Chip :=
  ((((s.actionEnded n).portSet n F.PRT_STATUS_SPARE_IN_USE 1).portSet n F.PRT_STATUS_SPARE_LANE lane).newtEvent 0x2A
    (n <<< 8 + lane <<< 16)).modPort n (fun p => { p with failed := putBit (s.port n).failed lane false })
/-- Port `n` with four lanes in use again. -/
def Chip.widened (s : Chip) (n : Nat) : Chip := (s.modPort n (fun p => { p with width := 4 })).portSet n F.PRT_STATUS_LANES 4

section Spare
variable (s : Chip) (n lane : Nat)

theorem Chip.spareSteered_eq (ok : Bool) (h : (s.port n).busy = some tactSPARE) : s.spareSteered n ok
    = match failedLane (s.port n).failed with
      | none => (s.actionEnded n).trainEvent n tevCHECK_PASS 0
      | some lane =>
        if !ok then (s.actionEnded n).trainEvent n tevCHECK_FAIL 0
        else if putBit (s.port n).failed lane false == 0 then ((s.steered n lane).widened n).trainEvent n tevCHECK_PASS 0
        else (s.steered n lane).trainEvent n tevCHECK_FAIL 0 := by
  unfold Chip.spareSteered
  rw [s.actionDone_same n _ _ h]
  dsimp only
  rw [Chip.port_actionEnded]
  rfl

theorem Chip.port_steered : (s.steered n lane).port n
    = { s.port n with busy := none, failed := putBit (s.port n).failed lane false } := by
  unfold Chip.steered Chip.newtEvent
  rw [Chip.port_modPort_same, Chip.port_log, Chip.port_portSet, Chip.port_portSet, Chip.port_actionEnded]

theorem Chip.steered_ends : s.EndsAction n (s.steered n lane) :=
  ⟨by rw [Chip.port_steered], by simp [Chip.steered, Chip.actionEnded], by simp [Chip.steered, Chip.actionEnded]⟩

theorem Chip.steered_reads (hn : n < 128) (hlane : lane < 4) : (s.steered n lane).flag (A.PRT_STATUS n) F.PRT_STATUS_SPARE_IN_USE = true
    ∧ (s.steered n lane).rd (A.PRT_STATUS n) F.PRT_STATUS_SPARE_LANE = lane := by
  unfold Chip.flag Chip.steered Chip.newtEvent
  rw [Chip.rd_modPort, Chip.rd_modPort, Chip.log_rd_other _ _ _ _ (notErr_PRT_STATUS n _ hn (by decide)),
    Chip.log_rd_other _ _ _ _ (notErr_PRT_STATUS n _ hn (by decide)), Chip.rd_portSet_disjoint _ _ _ _ _ (by decide),
    Chip.rd_portSet_same, Chip.rd_portSet_same]
  exact ⟨by decide, Nat.mod_eq_of_lt hlane⟩

theorem Chip.widened_ends {u : Chip} (h : s.EndsAction n u) : s.EndsAction n (u.widened n) := by
  obtain ⟨hbusy, hpool, hseq⟩ := h
  exact ⟨by simpa [Chip.widened] using hbusy, hpool, hseq⟩

theorem Chip.port_widened : (s.widened n).port n = { s.port n with width := 4 } := by
  unfold Chip.widened
  rw [Chip.port_portSet, Chip.port_modPort_same]

/-- Lanes in use say nothing of the spare. -/
theorem Chip.rd_widened (f : Fld) (h : F.PRT_STATUS_LANES.disjoint f) :
    (s.widened n).rd (A.PRT_STATUS n) f = s.rd (A.PRT_STATUS n) f := Chip.rd_portSet_disjoint _ _ _ _ _ h

end Spare

/-! The key exchange (R326, R327). -/

/-- Port `n` keyed, and port `n` with the failure of its exchange recorded. -/
def Chip.keyAgreed (s : Chip) (n : Nat) : Chip :=
  ((((((s.actionEnded n).wrB (A.PRT_KEY_STATUS n) F.PRT_KEY_STATUS_KEYED true).wrap (A.PRT_KEY_STATUS n) F.PRT_KEY_STATUS_GEN 1).wr
    (A.PRT_KEY_STATUS n) F.PRT_KEY_STATUS_GROUPS 0).modPort n (fun p => { p with txCtr := 0, rxPhase := 0 })).wr
      (A.PRT_KEY_STATUS n) F.PRT_KEY_STATUS_PHASE 0)
def Chip.keyRefused (s : Chip) (n : Nat) : Chip :=
  ((s.actionEnded n).portSet n F.PRT_STATUS_KEY_FAIL_SEEN 1).logReg .accessDenied .portArray (A.PRT_STATUS n)

section Key
variable (s : Chip) (n : Nat)

theorem Chip.keyExchanged_agreed (h : (s.port n).busy = some tactKEY_EXCHANGE) :
    s.keyExchanged n true = (s.keyAgreed n).trainEvent n tevCHECK_PASS 0 := by
  unfold Chip.keyExchanged
  rw [s.actionDone_same n _ _ h]
  dsimp only
  rw [if_pos rfl]
  rfl

theorem Chip.keyExchanged_refused (h : (s.port n).busy = some tactKEY_EXCHANGE) :
    s.keyExchanged n false = (s.keyRefused n).trainEvent n tevCHECK_FAIL 0 := by
  unfold Chip.keyExchanged
  rw [s.actionDone_same n _ _ h]
  dsimp only
  rw [if_neg (by decide)]
  rfl

theorem Chip.keyAgreed_ends : s.EndsAction n (s.keyAgreed n) :=
  ⟨by simp [Chip.keyAgreed, Chip.actionEnded], by simp [Chip.keyAgreed, Chip.actionEnded], by simp [Chip.keyAgreed, Chip.actionEnded]⟩

theorem Chip.keyRefused_ends : s.EndsAction n (s.keyRefused n) :=
  ⟨by simp [Chip.keyRefused, Chip.actionEnded, Chip.logReg], by simp [Chip.keyRefused, Chip.actionEnded],
    by simp [Chip.keyRefused, Chip.actionEnded]⟩

theorem Chip.keyAgreed_reads : (s.keyAgreed n).flag (A.PRT_KEY_STATUS n) F.PRT_KEY_STATUS_KEYED = true
    ∧ (s.keyAgreed n).rd (A.PRT_KEY_STATUS n) F.PRT_KEY_STATUS_PHASE = 0
    ∧ (s.keyAgreed n).rd (A.PRT_KEY_STATUS n) F.PRT_KEY_STATUS_GROUPS = 0 := by
  unfold Chip.flag Chip.keyAgreed Chip.wrap
  rw [Chip.rd_wr_same, Chip.rd_wr_disjoint _ _ _ _ _ (by decide), Chip.rd_wr_disjoint _ _ _ _ _ (by decide), Chip.rd_modPort,
    Chip.rd_modPort, Chip.rd_wr_same, Chip.rd_wr_disjoint _ _ _ _ _ (by decide), Chip.rd_wr_disjoint _ _ _ _ _ (by decide),
    Chip.rd_wrB_same _ _ _ _ (by decide)]
  decide

theorem Chip.keyRefused_reads (hn : n < 128) : (s.keyRefused n).flag (A.PRT_STATUS n) F.PRT_STATUS_KEY_FAIL_SEEN = true
    ∧ (s.keyRefused n).errSeq = s.errSeq + 1 := by
  refine ⟨?_, Chip.logReg_errSeq _ _ _ _⟩
  unfold Chip.flag Chip.keyRefused Chip.logReg
  rw [Chip.log_rd_other _ _ _ _ (notErr_PRT_STATUS n _ hn (by decide)), Chip.rd_portSet_same]
  decide

end Key

/-! The setups of a gang (R331). -/

/-- A gang whose LTSSM has reached L0 at a width, and one whose IDE is set up. -/
def Chip.linkTrained (s : Chip) (n : Nat) (ok : Bool) (width : Nat) : Chip :=
  if ok then (s.actionEnded n).portSet n F.PRT_STATUS_LANES width else s.actionEnded n
def Chip.ideReady (s : Chip) (n : Nat) (ok : Bool) : Chip :=
  if ok then (s.actionEnded n).modPort n (fun p => { p with gangUp := true }) else s.actionEnded n

section Gang
variable (s : Chip) (n : Nat) (ok : Bool) (width : Nat)

theorem Chip.ltssmDone_eq (h : (s.port n).busy = some tactLTSSM) : s.ltssmDone n ok width
    = (s.linkTrained n ok width).trainEvent n (if ok then tevCHECK_PASS else tevCHECK_FAIL) 0 := by
  unfold Chip.ltssmDone
  rw [s.actionDone_same n _ _ h]
  cases ok <;> simp [Chip.linkTrained]

theorem Chip.ideDone_eq (h : (s.port n).busy = some tactIDE_SETUP) : s.ideDone n ok
    = (s.ideReady n ok).trainEvent n (if ok then tevCHECK_PASS else tevCHECK_FAIL) 0 := by
  unfold Chip.ideDone
  rw [s.actionDone_same n _ _ h]
  cases ok <;> simp [Chip.ideReady]

theorem Chip.linkTrained_ends : s.EndsAction n (s.linkTrained n ok width) := by
  obtain ⟨hbusy, hpool, hseq⟩ := s.actionEnded_ends n
  cases ok
  · exact ⟨hbusy, hpool, hseq⟩
  · exact ⟨hbusy, hpool, hseq⟩

theorem Chip.ideReady_ends : s.EndsAction n (s.ideReady n ok) := by
  cases ok
  · exact s.actionEnded_ends n
  · exact ⟨by simp [Chip.ideReady, Chip.actionEnded], rfl, rfl⟩

end Gang

end Sys2Proof.Machine
end

section
/-!
The link layer of a port (spec/09_ports_and_links.md R318, R320 to R324): flits that arrive, flits that are sent, and the replay timer.
-/
open Sys2Proof Sys2Proof.Machine
namespace Sys2Proof.Machine

/-! ### Flits that arrive (R318, R321, R322) -/

/-- The part once the corrected code words of a flit without any have been counted. -/
def Chip.flitCounted (s : Chip) (n : Nat) : Chip := s.bump (A.PRT_FEC_CORR n) F.PRT_FEC_CORR_CORRECTED (2 ^ 64 - 1) 0

section Counted
variable (s : Chip) (n : Nat)

@[simp] theorem Chip.port_flitCounted (m : Nat) : (s.flitCounted n).port m = s.port m := rfl

/-- The count of corrected code words is a word of its own. -/
theorem Chip.rd_flitCounted (b : Nat) (g : Fld) (h : b + 8 ≤ A.PRT_FEC_CORR n ∨ A.PRT_FEC_CORR n + 8 ≤ b) (hg : g.lo + g.width ≤ 64) :
    (s.flitCounted n).rd b g = s.rd b g := s.rd_wr_words _ _ _ _ _ h.symm (by decide) hg

theorem Chip.inService_flitCounted : (s.flitCounted n).inService n = s.inService n :=
  Chip.flag_eq_of_rd (s.rd_flitCounted n _ _ (.inl (by unfold A.PRT_STATUS A.PRT_FEC_CORR; omega)) (by decide))

end Counted

/-- A flit that is no TRAIN flit, reaches no limit and asks for no wake. -/
theorem Chip.flitArrives_quiet (s t : Chip) (n : Nat) (f : Flit) (full : Bool) (hkind : f.kind ≠ 2)
    (h : s.flitIn n f full = (t, false, false)) : s.flitArrives n f full = t := by
  unfold Chip.flitArrives
  rw [if_neg (by simp [hkind]), h]
  rfl

section Arrives
variable (s : Chip) (n : Nat) (f : Flit) (full : Bool) (hcorr : f.fecCorr = 0)
include hcorr

theorem Chip.flitIn_out (hout : s.inService n = false) : s.flitIn n f full = (s.flitCounted n, false, false) := by
  have hport := (s.inService_flitCounted n).trans hout
  unfold Chip.flitCounted at hport ⊢
  simp only [Chip.flitIn, hcorr, hport, Bool.not_false, if_true]

variable (hin : s.inService n = true)
include hin

/-- What is wrong with the flit itself is counted, and everything up to its replay discarded. -/
theorem Chip.flitIn_bad (hbad : f.fecOk = false ∨ f.kind = 3 ∨ f.rsv = true) : s.flitIn n f full
    = (((s.flitCounted n).count (A.PRT_ERR_CNT n) F.PRT_ERR_CNT_CW_UNCORR).badFlit n, false, false) := by
  have hport := (s.inService_flitCounted n).trans hin
  have hwrong : (!f.fecOk || f.kind == 3 || f.rsv) = true := by rcases hbad with h | h | h <;> simp [h]
  unfold Chip.flitCounted at hport ⊢
  simp only [Chip.flitIn, hcorr, hport, hwrong, Bool.not_true, Bool.false_eq_true, if_false, if_true]

variable (hfec : f.fecOk = true) (hkind : f.kind = 0) (hrsv : f.rsv = false) (hseq : f.seq = (s.port n).rxExpect)
include hfec hkind hrsv hseq

/-- The part with a DATA flit in sequence added to the group that is arriving. -/
def Chip.flitTaken (s : Chip) (n : Nat) (f : Flit) : Chip :=
  (s.flitCounted n).modPort n (fun q => { q with rxBad := false, rxExpect := seqNext f.seq, rxGroup := (s.port n).rxGroup ++ [f] })

theorem Chip.flitIn_unsealed (hseal : f.sealWord = none) : s.flitIn n f full = (s.flitTaken n f, false, false) := by
  have hport := (s.inService_flitCounted n).trans hin
  have hexpect := congrArg Port.rxExpect (s.port_flitCounted n n)
  have hgroup := congrArg Port.rxGroup (s.port_flitCounted n n)
  unfold Chip.flitTaken
  unfold Chip.flitCounted at hport hexpect hgroup ⊢
  simp only [Chip.flitIn, hcorr, hport, hfec, hkind, hrsv, hseq, hseal, hexpect, hgroup, Bool.not_true, Bool.or_false, Bool.false_eq_true,
    if_false, Nat.reduceBEq, bne_self_eq_false]

/-- The part with the group closed by a seal that verifies. -/
def Chip.groupTaken (s : Chip) (n : Nat) (f : Flit) : Chip :=
  (s.flitTaken n f).modPort n (fun q =>
    { q with rxGroup := [], rxLast := some f.seq, ackOwed := true, tagFails := 0, rxPhase := f.phase })

/-- A group of one flit whose seal verifies and acknowledges nothing. -/
theorem Chip.flitIn_sealed (x : Seal) (hseal : f.sealWord = some x) (htag : x.tagOk = true) (hres : x.rsv = false) (hlen : x.groupLen = 1)
    (hack : x.ackValid = false) (hnak : x.nak = false) (hgroup : (s.port n).rxGroup = []) : s.flitIn n f full
    = (((s.groupTaken n f).unitsIn n f.units full).1, false, ((s.groupTaken n f).unitsIn n f.units full).2) := by
  have hport := (s.inService_flitCounted n).trans hin
  have hexpect := congrArg Port.rxExpect (s.port_flitCounted n n)
  have hnone := (congrArg Port.rxGroup (s.port_flitCounted n n)).trans hgroup
  unfold Chip.groupTaken Chip.flitTaken
  unfold Chip.flitCounted at hport hexpect hnone ⊢
  simp only [Chip.flitIn, Chip.takeAck, hcorr, hport, hfec, hkind, hrsv, hseq, hseal, hexpect, hnone, hgroup, htag, hres, hlen, hack, hnak,
    Bool.not_true, Bool.not_false, Bool.or_false, Bool.and_self, Bool.false_eq_true, if_false, if_true, Nat.reduceBEq, bne_self_eq_false,
    List.nil_append, List.length_singleton, List.flatMap_singleton]

end Arrives

/-- Filler between packets is passed over. -/
theorem Chip.unitsIn_filler (s : Chip) (n : Nat) (us : List Nat) (full : Bool) (hunits : (s.port n).rxUnits = [])
    (hpacket : (s.port n).rxPacket = none) (hfill : ∀ u ∈ us, u % 256 = 0) : s.unitsIn n us full = (s, false) := by
  refine List.foldlRecOn us _ (motive := fun r => r = (s, false)) rfl fun r hr u hu => ?_
  have hunit : s.unitIn n u full = (s, false) := by
    simp only [Chip.unitIn, hpacket, hunits, hfill u hu, beq_self_eq_true, if_true]
  simp only [hr, hunit, Bool.or_self]

theorem Chip.port_flitTaken (s : Chip) (n : Nat) (f : Flit) : (s.flitTaken n f).port n
    = { s.port n with rxBad := false, rxExpect := seqNext f.seq, rxGroup := (s.port n).rxGroup ++ [f] } := by
  unfold Chip.flitTaken
  rw [Chip.port_modPort_same, Chip.port_flitCounted]

theorem Chip.port_groupTaken (s : Chip) (n : Nat) (f : Flit) : (s.groupTaken n f).port n
    = { s.port n with rxBad := false, rxExpect := seqNext f.seq, rxGroup := [], rxLast := some f.seq, ackOwed := true
                      tagFails := 0, rxPhase := f.phase } := by
  unfold Chip.groupTaken
  rw [Chip.port_modPort_same, Chip.port_flitTaken]

theorem Chip.port_badFlit (s : Chip) (n : Nat) : ((s.badFlit n).port n).rxBad = true ∧ ((s.badFlit n).port n).rxGroup = []
    ∧ ((s.port n).rxBad = false → ((s.badFlit n).port n).nakOwed = true) := by
  unfold Chip.badFlit
  rw [Chip.port_modPort_same]
  exact ⟨rfl, rfl, fun h => by simp [h]⟩

/-- The bad flit is counted once. -/
theorem Chip.rd_badFlit_counted (s : Chip) (n : Nat) :
    (((s.flitCounted n).count (A.PRT_ERR_CNT n) F.PRT_ERR_CNT_CW_UNCORR).badFlit n).rd (A.PRT_ERR_CNT n) F.PRT_ERR_CNT_CW_UNCORR
      = min (s.rd (A.PRT_ERR_CNT n) F.PRT_ERR_CNT_CW_UNCORR + 1) (2 ^ F.PRT_ERR_CNT_CW_UNCORR.width - 1) := by
  unfold Chip.badFlit
  rw [Chip.rd_modPort, Chip.rd_count_same, s.rd_flitCounted n _ _ (.inl (by unfold A.PRT_ERR_CNT A.PRT_FEC_CORR; omega)) (by decide)]

/-! ### Flits that are sent (R318, R320, R330) -/

theorem Chip.tellRotate_none (s : Chip) (n : Nat) (h : (s.port n).rotate = none) : s.tellRotate n = s := by
  unfold Chip.tellRotate
  rw [h]

/-- The part with a training message sent. -/
def Chip.trainSent (s : Chip) (n : Nat) (m : TrainMsg) (rest : List TrainMsg) : Chip :=
  (s.emitOut (.flit n { kind := 2, msg := m })).modPort n (fun x => { x with txTrain := rest })

theorem Chip.flitOut_train (s : Chip) (n : Nat) (m : TrainMsg) (rest : List TrainMsg) (h : (s.port n).txTrain = m :: rest) :
    s.flitOut n = s.trainSent n m rest := by
  simp only [Chip.flitOut, h, Chip.trainSent]

theorem Chip.rotate_trainSent (s : Chip) (n : Nat) (m : TrainMsg) (rest : List TrainMsg) :
    ((s.trainSent n m rest).port n).rotate = (s.port n).rotate := by
  unfold Chip.trainSent
  rw [Chip.port_modPort_same, Chip.port_emitOut]

section Sends
variable (s : Chip) (n : Nat) (htrain : (s.port n).txTrain = [])
include htrain

theorem Chip.flitOut_out (hout : s.inService n = false) : s.flitOut n = s := by
  simp only [Chip.flitOut, htrain, hout, Bool.not_false, if_true]

variable (hin : s.inService n = true) (hreplay : (s.port n).replayAt = none)
include hin hreplay

theorem Chip.flitOut_idle (hunits : (s.port n).txUnits = []) (hack : (s.port n).ackOwed = false) (hnak : (s.port n).nakOwed = false) :
    s.flitOut n = s.emitOut (.flit n
      { seq := (s.port n).txSeq, kind := 1, phase := s.rd (A.PRT_KEY_STATUS n) F.PRT_KEY_STATUS_PHASE }) := by
  simp only [Chip.flitOut, Chip.sendIdle, htrain, hin, hreplay, hunits, hack, hnak, Bool.not_true, List.isEmpty_nil, Bool.true_or,
    Bool.or_self, Bool.false_eq_true, if_false, if_true]

theorem Chip.flitOut_data (hunits : (s.port n).txUnits ≠ []) (hroom : (s.port n).sent.length < 128) : s.flitOut n = s.sendData n := by
  have hfull : Nat.ble 128 (s.port n).sent.length = false := by
    rw [← Bool.not_eq_true, Nat.ble_eq]
    omega
  have hsome : (s.port n).txUnits.isEmpty = false := by simpa using hunits
  simp only [Chip.flitOut, htrain, hin, hreplay, hfull, hsome, Bool.not_true, Bool.or_self, Bool.false_eq_true, if_false]

end Sends

/-! A new DATA flit. -/

/-- The units that port `n` sends next, with whether it seals them, and its next DATA flit. -/
def Chip.nextUnits (s : Chip) (n : Nat) : List TxUnit × Bool :=
  flitUnits (s.port n).txUnits (Nat.ble (s.rd (A.PRT_LINK_CFG n) F.PRT_LINK_CFG_SEAL_MAX) ((s.port n).txGroup + 1))
def Chip.nextFlit (s : Chip) (n : Nat) : Flit :=
  { seq := (s.port n).txSeq, kind := 0, phase := s.rd (A.PRT_KEY_STATUS n) F.PRT_KEY_STATUS_PHASE
    units := (s.nextUnits n).1.map (·.unit)
    sealWord := if (s.nextUnits n).2 then some (s.sealNow n ((s.port n).txGroup + 1)) else none }

/-- The group is sealed by the time it is `PRT_LINK_CFG.SEAL_MAX` flits long. -/
theorem Chip.nextUnits_eq (s : Chip) (n : Nat) :
    s.nextUnits n = flitUnits (s.port n).txUnits (decide (s.rd (A.PRT_LINK_CFG n) F.PRT_LINK_CFG_SEAL_MAX ≤ (s.port n).txGroup + 1)) :=
  congrArg (flitUnits _) (Bool.eq_iff_iff.2 (by rw [Nat.ble_eq, decide_eq_true_iff]))

theorem Chip.nextFlit_sealed (s : Chip) (n : Nat) : (s.nextFlit n).sealWord.isSome = (s.nextUnits n).2 := by
  unfold Chip.nextFlit
  cases (s.nextUnits n).2 <;> rfl

/-- The packets whose last unit port `n` sends next, and the part with the flit on the line and kept for a replay. -/
def Chip.nextEnds (s : Chip) (n : Nat) : List Nat := ((s.nextUnits n).1.filter (fun u => u.last)).map (·.id)
def Chip.flitKept (s : Chip) (n : Nat) : Chip :=
  (s.emitOut (.flit n (s.nextFlit n))).modPort n (fun x =>
    { x with
      txUnits := x.txUnits.drop (s.nextUnits n).1.length
      sent := x.sent ++ [⟨(s.port n).txSeq, (s.nextFlit n).units, (s.nextUnits n).2, s.nextEnds n⟩]
      txSeq := seqNext x.txSeq, txGroup := x.txGroup + 1 })
/-- The same with the copies of those packets waiting for their acknowledgement, the replay timer running. -/
def Chip.flitTimed (s : Chip) (n : Nat) : Chip :=
  let t := (s.nextEnds n).foldl (fun t id => t.setPhase id n (.unacked (s.port n).txSeq)) (s.flitKept n)
  t.ensureTimer (.replay n) (10 * t.rd (A.PRT_LINK_CFG n) F.PRT_LINK_CFG_REPLAY_TIMER)

theorem Chip.sendData_eq (s : Chip) (n : Nat) : s.sendData n
    = if (s.nextUnits n).2 then ((s.flitTimed n).modPort n Port.ackSent).groupSent n else s.flitTimed n := rfl

/-- `t` has sent nothing more than `s`, and what port `n` has yet to send, and who waits for its key update, is the same. -/
structure Chip.SameLine (s : Chip) (n : Nat) (t : Chip) : Prop where
  out : t.out = s.out
  seq : (t.port n).txSeq = (s.port n).txSeq
  units : (t.port n).txUnits = (s.port n).txUnits
  rotate : (t.port n).rotate = (s.port n).rotate

section Line
variable {s t u : Chip} {n : Nat}

theorem Chip.SameLine.trans (hst : s.SameLine n t) (htu : t.SameLine n u) : s.SameLine n u :=
  ⟨htu.out.trans hst.out, htu.seq.trans hst.seq, htu.units.trans hst.units, htu.rotate.trans hst.rotate⟩

theorem Chip.ensureTimer_out (s : Chip) (t : Timer) (k : Nat) : (s.ensureTimer t k).out = s.out := by
  unfold Chip.ensureTimer
  split <;> rfl

theorem Chip.ensureTimer_ports (s : Chip) (t : Timer) (k : Nat) : (s.ensureTimer t k).ports = s.ports := by
  unfold Chip.ensureTimer
  split <;> rfl

/-- Phases of copies belong to the buffer alone. -/
theorem Chip.setPhases_line (s : Chip) (n : Nat) (ends : List Nat) (ph : Phase) :
    (ends.foldl (fun t id => t.setPhase id n ph) s).out = s.out ∧ (ends.foldl (fun t id => t.setPhase id n ph) s).ports = s.ports :=
  have hcore := Chip.foldl_core _ (fun t id => Chip.setPhase_core t id n ph) ends s
  ⟨Chip.core_out hcore, Chip.core_ports hcore⟩

theorem Chip.flitTimed_line (s : Chip) (n : Nat) : (s.flitTimed n).out = (s.flitKept n).out ∧ (s.flitTimed n).ports = (s.flitKept n).ports := by
  obtain ⟨hout, hports⟩ := (s.flitKept n).setPhases_line n (s.nextEnds n) (.unacked (s.port n).txSeq)
  exact ⟨(Chip.ensureTimer_out _ _ _).trans hout, (Chip.ensureTimer_ports _ _ _).trans hports⟩

/-- A sealed group that starts no key update of itself sends nothing: the counts move on, or the phase switches (R328). -/
theorem Chip.groupSent_line (s : Chip) (n : Nat) (h : (s.port n).txCtr + 1 < 2 ^ 31) : s.SameLine n (s.groupSent n) := by
  have hauto : Nat.ble autoUpdateAt ((s.port n).txCtr + 1) = false := by
    rw [← Bool.not_eq_true, Nat.ble_eq]
    unfold autoUpdateAt
    omega
  unfold Chip.groupSent
  dsimp only
  rw [hauto]
  split
  · refine ⟨rfl, ?_, ?_, ?_⟩ <;> simp
  · refine ⟨rfl, ?_, ?_, ?_⟩ <;> simp

end Line

theorem Chip.port_flitTimed (s : Chip) (n : Nat) : (s.flitTimed n).port n
    = { s.port n with
        txUnits := (s.port n).txUnits.drop (s.nextUnits n).1.length
        sent := (s.port n).sent ++ [⟨(s.port n).txSeq, (s.nextFlit n).units, (s.nextUnits n).2, s.nextEnds n⟩]
        txSeq := seqNext (s.port n).txSeq, txGroup := (s.port n).txGroup + 1 } := by
  obtain ⟨-, hports⟩ := s.flitTimed_line n
  rw [Chip.port_of_ports hports]
  unfold Chip.flitKept
  rw [Chip.port_modPort_same, Chip.port_emitOut]

theorem Chip.flitTimed_out (s : Chip) (n : Nat) : (s.flitTimed n).out = .flit n (s.nextFlit n) :: s.out := (s.flitTimed_line n).1

/-- What follows a DATA flit on the line leaves the line as it is. -/
theorem Chip.sendData_line (s : Chip) (n : Nat) (h : (s.port n).txCtr + 1 < 2 ^ 31) : (s.flitTimed n).SameLine n (s.sendData n) := by
  rw [Chip.sendData_eq]
  split
  · have hack : (s.flitTimed n).SameLine n ((s.flitTimed n).modPort n Port.ackSent) := by
      refine ⟨rfl, ?_, ?_, ?_⟩ <;> rw [Chip.port_modPort_same] <;> rfl
    refine hack.trans (Chip.groupSent_line _ n ?_)
    rw [Chip.port_modPort_same, Chip.port_flitTimed]
    exact h
  · exact ⟨rfl, rfl, rfl, rfl⟩

/-! ### The replay timer (R324) -/

theorem Chip.replayExpired_none (s : Chip) (n : Nat) (h : s.expire (.replay n) = none) : s.replayExpired n = s := by
  simp only [Chip.replayExpired, h]

theorem Chip.port_expire {s c : Chip} {t : Timer} (h : s.expire t = some c) (n : Nat) : c.port n = s.port n := by
  obtain ⟨d, -, rfl⟩ := s.expire_eq c t h
  exact Chip.port_of_ports (by rw [Chip.stopTimer_ports, Chip.advance_ports]) n

/-- The part with a replay begun at a flit. -/
def Chip.replayBegun (s : Chip) (n seq : Nat) : Chip :=
  let t := (s.modPort n (fun x => { x with replayAt := some seq, stalls := x.stalls + 1 })).count (A.PRT_ERR_CNT n) F.PRT_ERR_CNT_REPLAYS
  t.startTimer (.replay n) (10 * t.rd (A.PRT_LINK_CFG n) F.PRT_LINK_CFG_REPLAY_TIMER)

section Replay
variable (s c : Chip) (n : Nat) (f : SentFlit) (rest : List SentFlit) (hc : s.expire (.replay n) = some c)
  (hsent : (s.port n).sent = f :: rest)
include hc hsent

theorem Chip.replayExpired_some : s.replayExpired n
    = if c.rd (A.PRT_LINK_CFG n) F.PRT_LINK_CFG_REPLAY_LIMIT ≤ (s.port n).stalls then c.replayLimit n else c.replayBegun n f.seq := by
  by_cases hlimit : c.rd (A.PRT_LINK_CFG n) F.PRT_LINK_CFG_REPLAY_LIMIT ≤ (s.port n).stalls
  · simp only [Chip.replayExpired, hc, Chip.replay, Chip.port_expire hc n, hsent, Nat.ble_eq, hlimit, if_true]
  · simp only [Chip.replayExpired, hc, Chip.replay, Chip.port_expire hc n, hsent, Nat.ble_eq, hlimit, if_false, Bool.false_eq_true,
      Chip.replayBegun]

end Replay

theorem Chip.port_replayBegun (s : Chip) (n seq : Nat) :
    (s.replayBegun n seq).port n = { s.port n with replayAt := some seq, stalls := (s.port n).stalls + 1 } := by
  unfold Chip.replayBegun
  rw [Chip.port_startTimer, Chip.port_count, Chip.port_modPort_same]

end Sys2Proof.Machine
end

section
/-!
The commands of ports and links (spec/09_ports_and_links.md R308 to R341): what each comes to, link-management tadpoles, IDE, and the obligation.
-/
open Sys2Proof Sys2Proof.Machine
namespace Sys2Proof.Machine

/-! ### What the commands come to -/

theorem exec_signalDetect (n : Fin 128) (s : State) : exec (.signalDetect n) s = .next (s.after (s.trainEvent n.val tevSIGNAL 0)) := rfl
theorem exec_signalLost (n : Fin 128) (s : State) : exec (.signalLost n) s = .next (s.after (s.trainEvent n.val tevSIGNAL_LOST 0)) := rfl
theorem exec_trainingTimerExpiry (n : Fin 128) (s : State) :
    exec (.trainingTimerExpiry n) s = .next (s.after (s.trainExpired n.val)) := rfl
theorem exec_backoffExpiry (n : Fin 128) (s : State) : exec (.backoffExpiry n) s = .next (s.after (s.backoffOver n.val)) := rfl
theorem exec_portRetrain (src : Source) (n : Fin 128) (s : State) :
    exec (.portRetrain src n) s = .next (s.after (s.writeBit src (A.PRT_CTL n.val) F.PRT_CTL_RETRAIN)) := rfl
theorem exec_trainMsgReceive (n : Fin 128) (m : TrainMsg) (s : State) :
    exec (.trainMsgReceive n m) s = .next (s.after (s.trainMessage n.val m true)) := rfl
theorem exec_lock (n : Fin 128) (s : State) :
    exec (.lock n) s = .next (s.after (s.actionDone n.val tactADAPT (fun s => s.trainEvent n.val tevLOCK 0))) := rfl
theorem exec_selfTestDone (n : Fin 128) (failed : Fin 16) (s : State) :
    exec (.selfTestDone n failed) s = .next (s.after (s.selfTested n.val failed.val)) := rfl
theorem exec_spareSteerDone (n : Fin 128) (ok : Bool) (s : State) :
    exec (.spareSteerDone n ok) s = .next (s.after (s.spareSteered n.val ok)) := rfl
theorem exec_keyExchangeDone (n : Fin 128) (ok : Bool) (s : State) :
    exec (.keyExchangeDone n ok) s = .next (s.after (s.keyExchanged n.val ok)) := rfl
theorem exec_ltssmDone (n : Fin 128) (ok : Bool) (width : Nat) (s : State) :
    exec (.ltssmDone n ok width) s = .next (s.after (s.ltssmDone n.val ok width)) := rfl
theorem exec_ideSetupDone (n : Fin 128) (ok : Bool) (s : State) :
    exec (.ideSetupDone n ok) s = .next (s.after (s.ideDone n.val ok)) := rfl
theorem exec_flitReceive (n : Fin 128) (f : Flit) (full : Bool) (s : State) :
    exec (.flitReceive n f full) s = .next (s.after (s.flitArrives n.val f full)) := rfl
theorem exec_flitTransmit (n : Fin 128) (s : State) :
    exec (.flitTransmit n) s = .next (s.after ((s.flitOut n.val).tellRotate n.val)) := rfl
theorem exec_replayTimerExpiry (n : Fin 128) (s : State) :
    exec (.replayTimerExpiry n) s = .next (s.after (s.replayExpired n.val)) := rfl
theorem exec_linkTadpole (n : Fin 128) (p : Packet) (f : LinkFragment) (s : State) :
    exec (.linkTadpole n p f) s = .next (s.after (s.consume p (fun s => s.linkFragment n.val f))) := rfl
theorem exec_ideIntegrityFailure (stream : Nat) (s : State) :
    exec (.ideIntegrityFailure stream) s = .next (s.run (fun s => (s.ideFailure stream).syncNewt)) := rfl

/-! ### Actions that end -/

/-- Command `c` says that action `act` of port `n` has ended. -/
def endsActionOf (c : Instr) (act : Nat) (n : Fin 128) : Prop :=
  (c = .lock n ∧ act = tactADAPT) ∨ (∃ f, c = .selfTestDone n f ∧ act = tactSELF_TEST)
    ∨ (∃ ok, c = .spareSteerDone n ok ∧ act = tactSPARE)
    ∨ (∃ ok, c = .keyExchangeDone n ok ∧ act = tactKEY_EXCHANGE) ∨ (∃ ok w, c = .ltssmDone n ok w ∧ act = tactLTSSM)
    ∨ (∃ ok, c = .ideSetupDone n ok ∧ act = tactIDE_SETUP)

theorem exec_action_other (c : Instr) (act : Nat) (n : Fin 128) (s : State) (h : endsActionOf c act n) (hbusy : (s.port n.val).busy ≠ some act) :
    exec c s = .next (s.after s.toChip) := by
  rcases h with ⟨rfl, rfl⟩ | ⟨f, rfl, rfl⟩ | ⟨ok, rfl, rfl⟩ | ⟨ok, rfl, rfl⟩ | ⟨ok, w, rfl, rfl⟩ | ⟨ok, rfl, rfl⟩
  · rw [exec_lock, Chip.actionDone_other _ _ _ _ hbusy]
  · rw [exec_selfTestDone, Chip.selfTested, Chip.actionDone_other _ _ _ _ hbusy]
  · rw [exec_spareSteerDone, Chip.spareSteered, Chip.actionDone_other _ _ _ _ hbusy]
  · rw [exec_keyExchangeDone, Chip.keyExchanged, Chip.actionDone_other _ _ _ _ hbusy]
  · rw [exec_ltssmDone, Chip.ltssmDone, Chip.actionDone_other _ _ _ _ hbusy]
  · rw [exec_ideSetupDone, Chip.ideDone, Chip.actionDone_other _ _ _ _ hbusy]

/-- What the end of an action that was under way makes of the port, and the event it raises, by the action. -/
structure ActionOutcome (c : Instr) (n : Fin 128) (s : State) (u : Chip) (ev : Nat) : Prop where
  ends : s.EndsAction n.val u
  lock : c = .lock n → ev = tevLOCK ∧ u.regs = s.regs
  selfTest : ∀ f, c = .selfTestDone n f → (u.port n.val).failed = f.val
    ∧ (f.val = 0 → ev = tevCHECK_PASS ∧ u.rd (A.PRT_STATUS n.val) F.PRT_STATUS_LANES = 4
        ∧ u.flag (A.PRT_STATUS n.val) F.PRT_STATUS_DEGRADED = false) ∧ (f.val ≠ 0 → ev = tevLANE_FAIL)
  spare : ∀ ok lane, c = .spareSteerDone n ok → failedLane (s.port n.val).failed = some lane →
    (ok = false → ev = tevCHECK_FAIL)
    ∧ (ok = true → u.flag (A.PRT_STATUS n.val) F.PRT_STATUS_SPARE_IN_USE = true ∧ u.rd (A.PRT_STATUS n.val) F.PRT_STATUS_SPARE_LANE = lane
        ∧ (u.port n.val).failed = putBit (s.port n.val).failed lane false
        ∧ ev = (if putBit (s.port n.val).failed lane false = 0 then tevCHECK_PASS else tevCHECK_FAIL))
  keyed : c = .keyExchangeDone n true → ev = tevCHECK_PASS ∧ u.flag (A.PRT_KEY_STATUS n.val) F.PRT_KEY_STATUS_KEYED = true
    ∧ u.rd (A.PRT_KEY_STATUS n.val) F.PRT_KEY_STATUS_PHASE = 0 ∧ u.rd (A.PRT_KEY_STATUS n.val) F.PRT_KEY_STATUS_GROUPS = 0
  refused : c = .keyExchangeDone n false → ev = tevCHECK_FAIL ∧ u.flag (A.PRT_STATUS n.val) F.PRT_STATUS_KEY_FAIL_SEEN = true
    ∧ u.errSeq = s.errSeq + 1
  ltssm : ∀ ok w, c = .ltssmDone n ok w → ev = (if ok then tevCHECK_PASS else tevCHECK_FAIL)
    ∧ (ok = true → w < 16 → u.rd (A.PRT_STATUS n.val) F.PRT_STATUS_LANES = w % 2 ^ F.PRT_STATUS_LANES.width)
  ide : ∀ ok, c = .ideSetupDone n ok → ev = (if ok then tevCHECK_PASS else tevCHECK_FAIL) ∧ (ok = true → (u.port n.val).gangUp = true)

section Outcomes
variable (n : Fin 128) (s : State)

theorem lock_outcome : ActionOutcome (.lock n) n s (s.actionEnded n.val) tevLOCK :=
  ⟨s.toChip.actionEnded_ends n.val, fun _ => ⟨rfl, rfl⟩, nofun, nofun, nofun, nofun, nofun, nofun⟩

theorem selfTest_passed_outcome :
    ActionOutcome (.selfTestDone n 0) n s ((s.laneTested n.val 0).fullWidth n.val) tevCHECK_PASS := by
  obtain ⟨hbusy, hpool, hseq⟩ := s.toChip.laneTested_ends n.val 0
  have hport : ((s.laneTested n.val 0).fullWidth n.val).port n.val = (s.laneTested n.val 0).port n.val := rfl
  refine ⟨⟨hport ▸ hbusy, hpool, hseq⟩, nofun, fun f hf => ?_, nofun, nofun, nofun, nofun, nofun⟩
  cases hf
  refine ⟨?_, fun _ => ⟨rfl, Chip.fullWidth_reads _ _⟩, fun h => absurd rfl h⟩
  rw [hport, Chip.port_laneTested]
  rfl

theorem selfTest_failed_outcome (f : Fin 16) (hlane : f.val ≠ 0) :
    ActionOutcome (.selfTestDone n f) n s (s.laneTested n.val f.val) tevLANE_FAIL := by
  refine ⟨s.toChip.laneTested_ends n.val f.val, nofun, fun g hg => ?_, nofun, nofun, nofun, nofun, nofun⟩
  cases hg
  refine ⟨?_, fun h => absurd h hlane, fun _ => rfl⟩
  rw [Chip.port_laneTested]
  exact Nat.mod_eq_of_lt f.isLt

theorem spare_unneeded_outcome (ok : Bool) (hnone : failedLane (s.port n.val).failed = none) :
    ActionOutcome (.spareSteerDone n ok) n s (s.actionEnded n.val) tevCHECK_PASS :=
  ⟨s.toChip.actionEnded_ends n.val, nofun, nofun, fun _ _ _ hsome => absurd (hnone.symm.trans hsome) (by simp), nofun, nofun, nofun, nofun⟩

theorem spare_unsteered_outcome : ActionOutcome (.spareSteerDone n false) n s (s.actionEnded n.val) tevCHECK_FAIL := by
  refine ⟨s.toChip.actionEnded_ends n.val, nofun, nofun, fun ok lane hc _ => ?_, nofun, nofun, nofun, nofun⟩
  cases hc
  exact ⟨fun _ => rfl, nofun⟩

/-- The spare steered onto a lane, in the part that is `u` where no other lane has failed and where one has. -/
theorem spare_steered_outcome (lane ev : Nat) (u : Chip) (hlane : failedLane (s.port n.val).failed = some lane)
    (hends : s.EndsAction n.val u)
    (hstatus : ∀ f, F.PRT_STATUS_LANES.disjoint f → u.rd (A.PRT_STATUS n.val) f = (s.steered n.val lane).rd (A.PRT_STATUS n.val) f)
    (hfailed : (u.port n.val).failed = putBit (s.port n.val).failed lane false)
    (hev : ev = if putBit (s.port n.val).failed lane false = 0 then tevCHECK_PASS else tevCHECK_FAIL) :
    ActionOutcome (.spareSteerDone n true) n s u ev := by
  refine ⟨hends, nofun, nofun, fun ok other hc hother => ?_, nofun, nofun, nofun, nofun⟩
  cases hc
  obtain rfl : lane = other := Option.some.inj (hlane.symm.trans hother)
  obtain ⟨hused, hspare⟩ := s.toChip.steered_reads n.val lane n.isLt (failedLane_lt _ _ hlane)
  exact ⟨nofun, fun _ => ⟨(Chip.flag_eq_of_rd (hstatus _ (by decide))).trans hused, (hstatus _ (by decide)).trans hspare, hfailed, hev⟩⟩

theorem keyed_outcome : ActionOutcome (.keyExchangeDone n true) n s (s.keyAgreed n.val) tevCHECK_PASS :=
  ⟨s.toChip.keyAgreed_ends n.val, nofun, nofun, nofun, fun _ => ⟨rfl, s.toChip.keyAgreed_reads n.val⟩, nofun, nofun, nofun⟩

theorem refused_outcome : ActionOutcome (.keyExchangeDone n false) n s (s.keyRefused n.val) tevCHECK_FAIL :=
  ⟨s.toChip.keyRefused_ends n.val, nofun, nofun, nofun, nofun, fun _ => ⟨rfl, s.toChip.keyRefused_reads n.val n.isLt⟩, nofun, nofun⟩

theorem ltssm_outcome (ok : Bool) (w : Nat) : ActionOutcome (.ltssmDone n ok w) n s (s.linkTrained n.val ok w)
    (if ok then tevCHECK_PASS else tevCHECK_FAIL) := by
  refine ⟨s.toChip.linkTrained_ends n.val ok w, nofun, nofun, nofun, nofun, nofun, fun ok' w' hc => ?_, nofun⟩
  cases hc
  refine ⟨rfl, fun hok _ => ?_⟩
  rw [hok]
  exact Chip.rd_portSet_same _ _ _ _

theorem ide_outcome (ok : Bool) : ActionOutcome (.ideSetupDone n ok) n s (s.ideReady n.val ok)
    (if ok then tevCHECK_PASS else tevCHECK_FAIL) := by
  refine ⟨s.toChip.ideReady_ends n.val ok, nofun, nofun, nofun, nofun, nofun, nofun, fun ok' hc => ?_⟩
  cases hc
  refine ⟨rfl, fun hok => ?_⟩
  simp [hok, Chip.ideReady]

/-- The end of an action that was under way has its outcome, and raises the event of it. -/
def State.RaisesOutcome (s : State) (c : Instr) (n : Fin 128) : Prop :=
  ∃ u ev, exec c s = .next (s.after (Chip.trainEvent u n.val ev 0)) ∧ ActionOutcome c n s u ev

theorem selfTest_raises (f : Fin 16) (hbusy : (s.port n.val).busy = some tactSELF_TEST) : s.RaisesOutcome (.selfTestDone n f) n := by
  by_cases hf : f = 0
  · subst hf
    refine ⟨_, _, ?_, selfTest_passed_outcome n s⟩
    rw [exec_selfTestDone, Fin.val_zero, s.toChip.selfTested_passed n.val hbusy]
  · have hlane : f.val ≠ 0 := fun h => hf (Fin.ext h)
    refine ⟨_, _, ?_, selfTest_failed_outcome n s f hlane⟩
    rw [exec_selfTestDone, s.toChip.selfTested_failed n.val f.val hbusy (by omega)]

theorem spare_raises (ok : Bool) (hbusy : (s.port n.val).busy = some tactSPARE) : s.RaisesOutcome (.spareSteerDone n ok) n := by
  have hexec := exec_spareSteerDone n ok s
  rw [s.toChip.spareSteered_eq n.val ok hbusy] at hexec
  cases hlane : failedLane (s.port n.val).failed with
  | none =>
    rw [hlane] at hexec
    exact ⟨_, _, hexec, spare_unneeded_outcome n s ok hlane⟩
  | some lane =>
    rw [hlane] at hexec
    dsimp only at hexec
    cases ok with
    | false =>
      rw [if_pos (by decide)] at hexec
      exact ⟨_, _, hexec, spare_unsteered_outcome n s⟩
    | true =>
      rw [if_neg (by decide)] at hexec
      have hends := s.toChip.steered_ends n.val lane
      have hport := s.toChip.port_steered n.val lane
      by_cases hleft : putBit (s.port n.val).failed lane false = 0
      · rw [if_pos (beq_iff_eq.2 hleft)] at hexec
        refine ⟨_, _, hexec, spare_steered_outcome n s lane _ _ hlane (Chip.widened_ends _ _ hends) (fun f hf => Chip.rd_widened _ _ f hf) ?_
          (if_pos hleft).symm⟩
        rw [Chip.port_widened, hport]
      · rw [if_neg (by simpa using hleft)] at hexec
        exact ⟨_, _, hexec, spare_steered_outcome n s lane _ _ hlane hends (fun _ _ => rfl) (congrArg Port.failed hport)
          (if_neg hleft).symm⟩

theorem keyExchange_raises (ok : Bool) (hbusy : (s.port n.val).busy = some tactKEY_EXCHANGE) : s.RaisesOutcome (.keyExchangeDone n ok) n := by
  cases ok with
  | true => exact ⟨_, _, by rw [exec_keyExchangeDone, s.toChip.keyExchanged_agreed n.val hbusy], keyed_outcome n s⟩
  | false => exact ⟨_, _, by rw [exec_keyExchangeDone, s.toChip.keyExchanged_refused n.val hbusy], refused_outcome n s⟩

theorem action_raises (c : Instr) (act : Nat) (h : endsActionOf c act n) (hbusy : (s.port n.val).busy = some act) : s.RaisesOutcome c n := by
  rcases h with ⟨rfl, rfl⟩ | ⟨f, rfl, rfl⟩ | ⟨ok, rfl, rfl⟩ | ⟨ok, rfl, rfl⟩ | ⟨ok, w, rfl, rfl⟩ | ⟨ok, rfl, rfl⟩
  · exact ⟨_, _, by rw [exec_lock, Chip.actionDone_same _ _ _ _ hbusy], lock_outcome n s⟩
  · exact selfTest_raises n s f hbusy
  · exact spare_raises n s ok hbusy
  · exact keyExchange_raises n s ok hbusy
  · exact ⟨_, _, by rw [exec_ltssmDone, s.toChip.ltssmDone_eq n.val ok w hbusy], ltssm_outcome n s ok w⟩
  · exact ⟨_, _, by rw [exec_ideSetupDone, s.toChip.ideDone_eq n.val ok hbusy], ide_outcome n s ok⟩

end Outcomes

/-! ### Link-management tadpoles (R328) -/

theorem exec_linkTadpole_of_accepts (n : Fin 128) (p : Packet) (f : LinkFragment) (s : State) (h : s.accepts p) (hcls : p.cls = clsLINK) :
    exec (.linkTadpole n p f) s = .next (s.after ((s.taken p).linkFragment n.val f)) := by
  rw [exec_linkTadpole, Chip.consume_of_accepts _ _ _ h, Chip.flowApplied_of_unrouted]
  rw [hcls]
  rfl

/-- The part with the new keys of port `n` in use as the partner has asked. -/
def Chip.keySwitched (s : Chip) (n : Nat) : Chip :=
  (s.modPort n (fun p => { p with update := .switched })).wrB (A.PRT_KEY_STATUS n) F.PRT_KEY_STATUS_UPDATING true

theorem Chip.linkFragment_ask (s : Chip) (n : Nat) :
    s.linkFragment n .ask = (s.keySwitched n).sendLink n { cls := clsLINK, src := s.selfEid, body := 2 } := rfl

theorem Chip.linkFragment_confirm (s : Chip) (n : Nat) : s.linkFragment n .confirm
    = if (s.port n).update = .asked then s.modPort n (fun x => { x with update := .switched }) else s := by
  by_cases h : (s.port n).update = .asked
  · simp [Chip.linkFragment, h]
  · simp [Chip.linkFragment, h]

theorem Chip.keySwitched_reads (s : Chip) (n : Nat) : ((s.keySwitched n).port n).update = .switched
    ∧ (s.keySwitched n).flag (A.PRT_KEY_STATUS n) F.PRT_KEY_STATUS_UPDATING = true := by
  unfold Chip.keySwitched
  exact ⟨by rw [Chip.port_wrB, Chip.port_modPort_same], Chip.flag_wrB_same _ _ _ _ (by decide)⟩

/-! ### IDE (R338) -/

theorem Chip.syncNewt_power (s : Chip) : s.syncNewt.power = s.power := by
  unfold Chip.syncNewt
  split <;> rfl

theorem Chip.syncNewt_errSeq (s : Chip) : s.syncNewt.errSeq = s.errSeq := by
  unfold Chip.syncNewt
  split <;> rfl

theorem Chip.ideFailure_insecure (s : Chip) (stream : Nat) : stream ∈ (s.ideFailure stream).power.insecure := by
  unfold Chip.ideFailure
  rw [Chip.log_power]
  exact (mem_distinct _ _).2 (List.mem_append_right _ (List.mem_singleton_self stream))

theorem Chip.ideFailure_errSeq (s : Chip) (stream : Nat) : (s.ideFailure stream).errSeq = s.errSeq + 1 := Chip.log_errSeq _ _

/-! ### The obligation -/

/-- Settles O56: an event takes an entry or none; an action that ends has its outcome; a flit that arrives is counted, discarded or added to
its group; a flit that is sent, and all that follows it, sends one flit. -/
theorem linksFollowTheirProgram : Obligations.LinksFollowTheirProgram := by
  unfold Obligations.LinksFollowTheirProgram
  refine ⟨fun s n ev code hmode => ⟨s.trainEvent_counts n ev code hmode, fun hnone hout _ => s.trainEvent_downs n ev code hmode hnone hout,
      fun a hentry haction _ => ?_⟩,
    fun n s => ⟨exec_signalDetect n s, exec_signalLost n s, fun c hc => ?_, fun hnone => ?_, fun c hc => ?_, fun hnone => ?_,
      fun src hcentral hserves => ?_, fun m => ⟨fun hold => ?_, fun hok hnew hcode => ?_⟩⟩,
    fun c act n s h => ⟨exec_action_other c act n s h, fun hbusy => ?_⟩,
    fun n f full s hkind hcorr => ⟨fun hout => ?_, fun hin hbad => ?_, fun hin hfec hdata hrsv hseq => ⟨fun hseal => ?_,
      fun x hseal htag hres hlen hack hnak hgroup hunits hpacket hfill => ?_⟩⟩,
    fun n s hrotate => ⟨fun m rest htrain => ?_, fun htrain hout => ?_, fun htrain hin hreplay => ⟨fun hunits hack hnak => ?_,
      fun hunits hroom hctr => ?_⟩⟩,
    fun n s => ⟨fun hnone => ?_, fun c f rest hc hsent => ⟨fun hlimit => ?_, fun hlimit => ?_⟩⟩,
    fun n p s haccepts hcls => ⟨?_, ⟨(s.taken p).keySwitched n.val, ?_, ?_⟩, ?_⟩,
    fun stream s => ⟨⟨_, exec_ideIntegrityFailure stream s, ?_, ?_⟩, rfl, rfl, rfl, rfl⟩⟩
  · exact ⟨_, s.trainEvent_plain n ev code a hmode hentry haction, s.entryTaken_state n a, s.entryTaken_frame n a, s.entryTaken_due n a⟩
  · rw [exec_trainingTimerExpiry, s.toChip.trainExpired_some c n.val hc]
  · rw [exec_trainingTimerExpiry, s.toChip.trainExpired_none n.val hnone]
  · rw [exec_backoffExpiry, s.toChip.backoffOver_some c n.val hc]
  · rw [exec_backoffExpiry, s.toChip.backoffOver_none n.val hnone]
  · rw [exec_portRetrain, s.toChip.writeBit_retrain src n.val n.isLt hserves hcentral, Chip.portControl_retrain]
  · rw [exec_trainMsgReceive, s.toChip.trainMessage_ignored n.val m hold]
  · rw [exec_trainMsgReceive, s.toChip.trainMessage_raised n.val m hok hnew hcode]
  · obtain ⟨u, ev, hexec, ⟨hended, hpool, hseq⟩, hlock, htest, hspare, hkeyed, hrefused, hltssm, hide⟩ := action_raises n s c act h hbusy
    exact ⟨u, ev, hexec, hended, hpool, hseq, hlock, htest, hspare, hkeyed, hrefused, hltssm, hide⟩
  · have hflit := s.toChip.flitIn_out n.val f full hcorr hout
    refine ⟨_, by rw [exec_flitReceive, s.toChip.flitArrives_quiet _ n.val f full hkind hflit], rfl⟩
  · have hflit := s.toChip.flitIn_bad n.val f full hcorr hin hbad
    refine ⟨_, by rw [exec_flitReceive, s.toChip.flitArrives_quiet _ n.val f full hkind hflit], ?_⟩
    obtain ⟨hrx, hgroup, hnak⟩ := ((s.flitCounted n.val).count (A.PRT_ERR_CNT n.val) F.PRT_ERR_CNT_CW_UNCORR).port_badFlit n.val
    exact ⟨hrx, hgroup, hnak, rfl, s.toChip.rd_badFlit_counted n.val⟩
  · have hflit := s.toChip.flitIn_unsealed n.val f full hcorr hin hfec hdata hrsv hseq hseal
    exact ⟨_, by rw [exec_flitReceive, s.toChip.flitArrives_quiet _ n.val f full hkind hflit], s.toChip.port_flitTaken n.val f, rfl⟩
  · have hflit := s.toChip.flitIn_sealed n.val f full hcorr hin hfec hdata hrsv hseq x hseal htag hres hlen hack hnak hgroup
    have hport := s.toChip.port_groupTaken n.val f
    rw [Chip.unitsIn_filler _ n.val f.units full (by rw [hport]; exact hunits) (by rw [hport]; exact hpacket) hfill] at hflit
    exact ⟨_, by rw [exec_flitReceive, s.toChip.flitArrives_quiet _ n.val f full hkind hflit], hport, rfl⟩
  · rw [exec_flitTransmit, s.toChip.flitOut_train n.val m rest htrain,
      Chip.tellRotate_none _ _ ((s.toChip.rotate_trainSent n.val m rest).trans hrotate)]
    rfl
  · rw [exec_flitTransmit, s.toChip.flitOut_out n.val htrain hout, Chip.tellRotate_none _ _ hrotate]
  · rw [exec_flitTransmit, s.toChip.flitOut_idle n.val htrain hin hreplay hunits hack hnak,
      Chip.tellRotate_none _ n.val (by rw [Chip.port_emitOut]; exact hrotate)]
  · obtain ⟨hout, htx, hleft, hwaits⟩ := s.toChip.sendData_line n.val hctr
    have hport := s.toChip.port_flitTimed n.val
    rw [hport] at htx hleft hwaits
    dsimp only
    rw [← s.toChip.nextUnits_eq n.val]
    refine ⟨_, s.nextFlit n.val, by rw [exec_flitTransmit, s.toChip.flitOut_data n.val htrain hin hreplay hunits hroom,
      Chip.tellRotate_none _ _ (hwaits.trans hrotate)], hout.trans (s.toChip.flitTimed_out n.val), rfl, rfl, rfl,
      s.toChip.nextFlit_sealed n.val, htx, hleft⟩
  · rw [exec_replayTimerExpiry, s.toChip.replayExpired_none n.val hnone]
  · rw [exec_replayTimerExpiry, s.toChip.replayExpired_some c n.val f rest hc hsent, if_pos hlimit]
  · refine ⟨c.replayBegun n.val f.seq,
      by rw [exec_replayTimerExpiry, s.toChip.replayExpired_some c n.val f rest hc hsent, if_neg (Nat.not_le.2 hlimit)], ?_,
      Chip.running_startTimer _ _ _⟩
    rw [Chip.port_replayBegun, Chip.port_expire hc]
  · rw [exec_linkTadpole_of_accepts n p _ s haccepts hcls, Chip.linkFragment_confirm]
  · rw [exec_linkTadpole_of_accepts n p _ s haccepts hcls, Chip.linkFragment_ask]
  · obtain ⟨hswitched, hupdating⟩ := (s.taken p).keySwitched_reads n.val
    exact ⟨hswitched, hupdating, rfl⟩
  · exact exec_linkTadpole_of_accepts n p _ s haccepts hcls
  · rw [State.run_toChip, Chip.syncNewt_power]
    exact s.toChip.ideFailure_insecure stream
  · rw [State.run_toChip, Chip.syncNewt_errSeq, Chip.ideFailure_errSeq]

end Sys2Proof.Machine
end
